-- ==== Sys2Proof/Word.lean ====
section
/-!
DEFINITION. Words, and the small name sets that the syntax needs.
-/
namespace Sys2Proof

/-- A byte of memory. -/
abbrev Byte := BitVec 8
/-- One halfword of a code section (R62). -/
abbrev Half := BitVec 16
/-- A 32-bit item, tile lane or accumulator element. -/
abbrev Word := BitVec 32
/-- A register or address (R9, R171). -/
abbrev DWord := BitVec 64

/-- The four strands of a core (R8). -/
inductive StrandId where
  | K | A | V | M
deriving DecidableEq, Repr

/-- What the host answers to a translation request (R366). -/
inductive AtsStatus where
  | ok | absent | denied
deriving DecidableEq, Repr

/-- One item of a body: the first halfword's bit 15 tells its length (R69). -/
inductive Item where
  | compact (h : BitVec 16)
  | wide (w : BitVec 32)
deriving DecidableEq, Repr

/-- Why an item has no instruction: R77 step 3 or step 6. -/
inductive DecodeError where
  | reservedSpace
  | illegalEncoding
deriving DecidableEq, Repr

end Sys2Proof
end

