-- ==== Sys2Proof/Config.lean ====
section
/-!
DEFINITION. What an implementation fixes and the manual leaves open: the free values (log 7) and what firmware and
keys outside the manual decide (log 9). Each is a constant with no body, so no proof can rest on a value of it.
-/
namespace Sys2Proof.Config

/-- A value the manual leaves open, drawn anew for each number (R4). -/
opaque freeBits (w : Nat) : Nat → BitVec w

/-- A choice among several, drawn anew for each number. -/
opaque freeNat : Nat → Nat

/-- Which of the bins at hand, by their number, bin `i` of an accumulator takes whose addition has wrapped a bin (R96). -/
opaque binChoice : List (BitVec 64) → BitVec 32 → Nat → Nat

/-- Whether a Falcon-1024 signature verifies over a digest: signer 0 the vendor key, 1 the enrolled operator key, 2 the
key fused at manufacture (R392, R420). -/
opaque falconVerifies : Nat → BitVec 512 → List Byte → Bool

/-- AES-256-XTS: what 64 bytes that were encrypted under one key give under another, their address divided by 64 being the tweak (R373):
old key, new key, tweak and bytes. -/
opaque xtsCross : BitVec 512 → BitVec 512 → BitVec 64 → BitVec 512 → BitVec 512

/-- The tag of AES-256-GCM: key, nonce, additional authenticated data and contents (R414). -/
opaque gcmTag : BitVec 256 → BitVec 96 → BitVec 103 → List Byte → BitVec 128

/-- The signature the package's identity key makes over a digest (R421). -/
opaque falconSign : BitVec 512 → List Byte

end Sys2Proof.Config
end

