-- ==== Sys2Proof/Syntax.lean ====
section
/-!
DEFINITION. The syntax: one constructor of `Instr` for each row of the opcode table, in the table's order.

Items with a word keep their raw fields, so that register class and range are checked where R77 steps 7 and 8
check them. A field of a vector or matrix item holds its whole 7-bit role field (R214, R266). Steps without a word
(the events) carry what their agent or the environment chooses.
-/
namespace Sys2Proof

/-- What a step does to the follow-on MMAs that this core's chains or its matrix engine take part in (R304, R305). -/
inductive FollowStep where
  /-- the entry of a chain of this core is done and its MMA joins the queue of its core; another core may refuse it, with the cause
  and code of the check that fails there -/
  | own (tag : BitVec 6) (refused : Option (BitVec 6 × BitVec 8))
  /-- another core has made the last read of a buffer for an MMA of a chain of this core, or its MMA is gone: the chain's first one not yet
  read -/
  | farRead (tag : BitVec 6) (core : BitVec 8)
  /-- an entry of another core's chain begins, and adds one to a consumed counter of this core -/
  | farBegins (ce : BitVec 4)
  /-- the entry of another core's chain is withdrawn before its MMA has joined: its chain is killed or stands in FAULT -/
  | farEnds (ce : BitVec 4)
  /-- the MMA of another core's chain joins this core's queue: accumulator, stream, counter, shape word, buffer, the bytes that the entry
  has copied, and coordinate -/
  | brought (z : BitVec 3) (q ce : BitVec 4) (shape buffer : BitVec 64) (copied : Nat) (coord : BitVec 192) (atS : Bool)
deriving DecidableEq, Repr

/-- Where a corrected error stood: in memory, or in an accumulator (R249, R372). -/
inductive EccSite where
  | memory (pa : BitVec 52)
  | accumulator (z : BitVec 3) (elem : BitVec 16)
deriving DecidableEq, Repr

/-- One constructor for each row of the opcode table. -/
inductive Instr where
  /-- ADD (R136). Adds two registers modulo 2^64. -/
  | add (d : BitVec 6) (a : BitVec 6) (b : BitVec 6)
  /-- SUB (R136). Subtracts register b from register a modulo 2^64. -/
  | sub (d : BitVec 6) (a : BitVec 6) (b : BitVec 6)
  /-- MUL (R136). Writes the low 64 bits of the product. -/
  | mul (d : BitVec 6) (a : BitVec 6) (b : BitVec 6)
  /-- MULH_I (R136). Writes the high 64 bits of the signed by signed product. -/
  | mulhI (d : BitVec 6) (a : BitVec 6) (b : BitVec 6)
  /-- MULH_N (R136). Writes the high 64 bits of the unsigned by unsigned product. -/
  | mulhN (d : BitVec 6) (a : BitVec 6) (b : BitVec 6)
  /-- MULH_IN (R136). Writes the high 64 bits of the signed by unsigned product. -/
  | mulhIn (d : BitVec 6) (a : BitVec 6) (b : BitVec 6)
  /-- DIV_I (R137). Signed division truncating toward zero; a zero divisor raises DIVIDE_ZERO. -/
  | divI (d : BitVec 6) (a : BitVec 6) (b : BitVec 6)
  /-- DIV_N (R137). Unsigned division; a zero divisor raises DIVIDE_ZERO. -/
  | divN (d : BitVec 6) (a : BitVec 6) (b : BitVec 6)
  /-- REM_I (R137). Signed remainder. -/
  | remI (d : BitVec 6) (a : BitVec 6) (b : BitVec 6)
  /-- REM_N (R137). Unsigned remainder. -/
  | remN (d : BitVec 6) (a : BitVec 6) (b : BitVec 6)
  /-- AND (R136). Bitwise AND of two registers. -/
  | and (d : BitVec 6) (a : BitVec 6) (b : BitVec 6)
  /-- OR (R136). Bitwise OR of two registers. -/
  | or (d : BitVec 6) (a : BitVec 6) (b : BitVec 6)
  /-- XOR (R136). Bitwise XOR of two registers. -/
  | xor (d : BitVec 6) (a : BitVec 6) (b : BitVec 6)
  /-- ANDN (R136). A AND NOT B. -/
  | andn (d : BitVec 6) (a : BitVec 6) (b : BitVec 6)
  /-- SHL (R136). Shifts left by B[5:0]. -/
  | shl (d : BitVec 6) (a : BitVec 6) (b : BitVec 6)
  /-- SHR (R136). Shifts right logically by B[5:0]. -/
  | shr (d : BitVec 6) (a : BitVec 6) (b : BitVec 6)
  /-- SRA (R136). Shifts right arithmetically by B[5:0]. -/
  | sra (d : BitVec 6) (a : BitVec 6) (b : BitVec 6)
  /-- ROT (R136). Rotates right by B[5:0]. -/
  | rot (d : BitVec 6) (a : BitVec 6) (b : BitVec 6)
  /-- CLZ (R136). Counts leading zero bits. -/
  | clz (d : BitVec 6) (a : BitVec 6)
  /-- POPC (R136). Counts one bits. -/
  | popc (d : BitVec 6) (a : BitVec 6)
  /-- MIN_I (R136). Signed minimum. -/
  | minI (d : BitVec 6) (a : BitVec 6) (b : BitVec 6)
  /-- MIN_N (R136). Unsigned minimum. -/
  | minN (d : BitVec 6) (a : BitVec 6) (b : BitVec 6)
  /-- MAX_I (R136). Signed maximum. -/
  | maxI (d : BitVec 6) (a : BitVec 6) (b : BitVec 6)
  /-- MAX_N (R136). Unsigned maximum. -/
  | maxN (d : BitVec 6) (a : BitVec 6) (b : BitVec 6)
  /-- SEL (R136). Selects A if the k.cc condition MOD + 1 holds, else B. -/
  | sel (d : BitVec 6) (a : BitVec 6) (b : BitVec 6) (c : BitVec 3)
  /-- CMP (R137). Compares two registers into k.cc and d. -/
  | cmp (d : BitVec 6) (a : BitVec 6) (b : BitVec 6)
  /-- MOV (R136). Copies register b to d. -/
  | mov (d : BitVec 6) (b : BitVec 6)
  /-- ADD128 (R137). Adds two 128-bit register pairs. -/
  | add128 (d : BitVec 6) (a : BitVec 6) (b : BitVec 6)
  /-- ADD_IMM (R138). Adds a sign-extended 10-bit immediate. -/
  | addImm (d : BitVec 6) (a : BitVec 6) (i : BitVec 10)
  /-- SUB_IMM (R138). Subtracts a sign-extended immediate. -/
  | subImm (d : BitVec 6) (a : BitVec 6) (i : BitVec 10)
  /-- MUL_IMM (R138). Multiplies by a sign-extended immediate. -/
  | mulImm (d : BitVec 6) (a : BitVec 6) (i : BitVec 10)
  /-- AND_IMM (R138). AND with a sign-extended immediate. -/
  | andImm (d : BitVec 6) (a : BitVec 6) (i : BitVec 10)
  /-- OR_IMM (R138). OR with a sign-extended immediate. -/
  | orImm (d : BitVec 6) (a : BitVec 6) (i : BitVec 10)
  /-- XOR_IMM (R138). XOR with a sign-extended immediate. -/
  | xorImm (d : BitVec 6) (a : BitVec 6) (i : BitVec 10)
  /-- ANDN_IMM (R138). AND NOT with a sign-extended immediate. -/
  | andnImm (d : BitVec 6) (a : BitVec 6) (i : BitVec 10)
  /-- SHL_IMM (R138). Shifts left by an immediate count. -/
  | shlImm (d : BitVec 6) (a : BitVec 6) (i : BitVec 6)
  /-- SHR_IMM (R138). Shifts right logically by an immediate count. -/
  | shrImm (d : BitVec 6) (a : BitVec 6) (i : BitVec 6)
  /-- SRA_IMM (R138). Shifts right arithmetically by an immediate count. -/
  | sraImm (d : BitVec 6) (a : BitVec 6) (i : BitVec 6)
  /-- ROT_IMM (R138). Rotates right by an immediate count. -/
  | rotImm (d : BitVec 6) (a : BitVec 6) (i : BitVec 6)
  /-- MIN_IMM (R138). Signed minimum with an immediate. -/
  | minImm (d : BitVec 6) (a : BitVec 6) (i : BitVec 10)
  /-- MAX_IMM (R138). Signed maximum with an immediate. -/
  | maxImm (d : BitVec 6) (a : BitVec 6) (i : BitVec 10)
  /-- CMP_IMM (R138). Compares with an immediate into k.cc. -/
  | cmpImm (d : BitVec 6) (a : BitVec 6) (i : BitVec 10)
  /-- LIMM (R138). Writes a sign-extended 20-bit immediate. -/
  | limm (d : BitVec 6) (i : BitVec 20)
  /-- BR (R140). Branches by a halfword displacement when the condition holds. -/
  | br (c : BitVec 4) (d : BitVec 22)
  /-- JMP (R141). Jumps by a halfword displacement. -/
  | jmp (d : BitVec 22)
  /-- CALL (R141). Pushes return state and jumps by a displacement. -/
  | call (d : BitVec 22)
  /-- RET (R141). Pops the call stack and resumes the caller's block and count. -/
  | ret
  /-- JMP_REG (R141). Jumps to the halfword offset in sB. -/
  | jmpReg (b : BitVec 5)
  /-- CALL_REG (R141). Calls the halfword offset in sB. -/
  | callReg (b : BitVec 5)
  /-- NOP (R143). Has no effect. -/
  | nop
  /-- HALT (R143). Stops the strand. -/
  | halt
  /-- BKPT (R144). Raises BREAKPOINT with the code e. -/
  | bkpt (e : BitVec 12)
  /-- TASKEND (R122). K waits for the other strands to stop and then ends the task. -/
  | taskend
  /-- TRAP (R144). Raises SOFT_TRAP at T or HYPERCALL at S with code e. -/
  | trap (e : BitVec 12)
  /-- ERET (R118). Returns the K strand from S to its saved point and level. -/
  | eret
  /-- SYSRD (R146). Reads a system register into d. -/
  | sysrd (d : BitVec 6) (n : BitVec 10)
  /-- SYSWR (R146). Writes d to a system register field by field. -/
  | syswr (d : BitVec 6) (n : BitVec 10)
  /-- PAUSE (R126). Lowers the strand's issue priority for n cycles. -/
  | pause (n : BitVec 16)
  /-- YIELD (R148). Marks a yield point. -/
  | yield
  /-- DSYNC (R149). Arrives at the level-L domain synchronisation as a release. -/
  | dsync (l : BitVec 3)
  /-- FENCE_ACQ (R150). Acquire fence at the named scope. -/
  | fenceAcq (s : BitVec 3)
  /-- FENCE_REL (R150). Release fence at the named scope. -/
  | fenceRel (s : BitVec 3)
  /-- FENCE_AR (R150). Acquire and release fence at the named scope. -/
  | fenceAr (s : BitVec 3)
  /-- FENCE_P (R42). Makes writes of classes W visible to later reads of classes Y on the core. -/
  | fenceP (y : BitVec 5) (w : BitVec 5)
  /-- RING_WAITF (R163). Waits until n slots from HEAD are full with the expected parity. -/
  | ringWaitf (h : BitVec 4) (n : BitVec 10)
  /-- RING_WAITE (R163). Waits until n slots from TAIL are empty. -/
  | ringWaite (h : BitVec 4) (n : BitVec 10)
  /-- CADV (R153). Advances coordinate dimension j, zeroing inner ones, with a cut image. -/
  | cadv (j : BitVec 3)
  /-- CSET (R153). Sets coordinate dimension j from sA, never decreasing the coordinate. -/
  | cset (a : BitVec 6) (j : BitVec 3)
  /-- CGET (R153). Reads coordinate dimension j. -/
  | cget (d : BitVec 6) (j : BitVec 3)
  /-- LD_B (R174). Loads a sign-extended byte. -/
  | ldB (d : BitVec 6) (a : BitVec 6) (i : BitVec 10)
  /-- LD_H (R174). Loads a sign-extended halfword. -/
  | ldH (d : BitVec 6) (a : BitVec 6) (i : BitVec 10)
  /-- LD_W (R174). Loads a sign-extended word. -/
  | ldW (d : BitVec 6) (a : BitVec 6) (i : BitVec 10)
  /-- LD_D (R174). Loads a doubleword. -/
  | ldD (d : BitVec 6) (a : BitVec 6) (i : BitVec 10)
  /-- LD_B_N (R174). Loads a zero-extended byte. -/
  | ldBN (d : BitVec 6) (a : BitVec 6) (i : BitVec 10)
  /-- LD_H_N (R174). Loads a zero-extended halfword. -/
  | ldHN (d : BitVec 6) (a : BitVec 6) (i : BitVec 10)
  /-- LD_W_N (R174). Loads a zero-extended word. -/
  | ldWN (d : BitVec 6) (a : BitVec 6) (i : BitVec 10)
  /-- LD_W_ACQ (R175). Loads a word with an acquire at the named scope. -/
  | ldWAcq (d : BitVec 6) (a : BitVec 6) (s : BitVec 3) (i : BitVec 7)
  /-- LD_D_ACQ (R175). Loads a doubleword with an acquire at the named scope. -/
  | ldDAcq (d : BitVec 6) (a : BitVec 6) (s : BitVec 3) (i : BitVec 7)
  /-- LDT (R176). Timed load that retires at issue and lands its value T(L) cycles later. -/
  | ldt (d : BitVec 6) (a : BitVec 6) (l : BitVec 3) (i : BitVec 7)
  /-- PREF (R177). Prefetch hint with no effect on results. -/
  | pref (a : BitVec 6) (i : BitVec 10)
  /-- ST_B (R179). Stores a byte. -/
  | stB (d : BitVec 6) (a : BitVec 6) (i : BitVec 10)
  /-- ST_H (R179). Stores a halfword. -/
  | stH (d : BitVec 6) (a : BitVec 6) (i : BitVec 10)
  /-- ST_W (R179). Stores a word. -/
  | stW (d : BitVec 6) (a : BitVec 6) (i : BitVec 10)
  /-- ST_D (R179). Stores a doubleword. -/
  | stD (d : BitVec 6) (a : BitVec 6) (i : BitVec 10)
  /-- ST_W_REL (R179). Stores a word as a release at the named scope. -/
  | stWRel (d : BitVec 6) (a : BitVec 6) (s : BitVec 3) (i : BitVec 7)
  /-- ST_D_REL (R179). Stores a doubleword as a release at the named scope. -/
  | stDRel (d : BitVec 6) (a : BitVec 6) (s : BitVec 3) (i : BitVec 7)
  /-- AMO_ADD (R181). Atomic wrapping add, word or double. -/
  | amoAdd (d : BitVec 6) (a : BitVec 6) (b : BitVec 6) (z : BitVec 1)
  /-- AMO_FADD (R181). Atomic FP32 add, binned in deterministic mode. -/
  | amoFadd (d : BitVec 6) (a : BitVec 6) (b : BitVec 6)
  /-- AMO_BADD (R181). Atomic binned add into a 96-byte accumulator. -/
  | amoBadd (d : BitVec 6) (a : BitVec 6) (b : BitVec 6)
  /-- AMO_BFIN (R181). Atomically normalises and finishes a binned accumulator. -/
  | amoBfin (d : BitVec 6) (a : BitVec 6)
  /-- AMO_MIN (R181). Atomic minimum, signed or unsigned, word or double. -/
  | amoMin (d : BitVec 6) (a : BitVec 6) (b : BitVec 6) (n : BitVec 1) (z : BitVec 1)
  /-- AMO_MAX (R181). Atomic maximum, signed or unsigned, word or double. -/
  | amoMax (d : BitVec 6) (a : BitVec 6) (b : BitVec 6) (n : BitVec 1) (z : BitVec 1)
  /-- AMO_AND (R181). Atomic AND. -/
  | amoAnd (d : BitVec 6) (a : BitVec 6) (b : BitVec 6) (z : BitVec 1)
  /-- AMO_OR (R181). Atomic OR. -/
  | amoOr (d : BitVec 6) (a : BitVec 6) (b : BitVec 6) (z : BitVec 1)
  /-- AMO_XOR (R181). Atomic XOR. -/
  | amoXor (d : BitVec 6) (a : BitVec 6) (b : BitVec 6) (z : BitVec 1)
  /-- AMO_SWAP (R181). Atomic swap. -/
  | amoSwap (d : BitVec 6) (a : BitVec 6) (b : BitVec 6) (z : BitVec 1)
  /-- AMO_CAS (R181). Atomic compare and swap against the old d. -/
  | amoCas (d : BitVec 6) (a : BitVec 6) (b : BitVec 6) (z : BitVec 1)
  /-- SDEF (R185). Writes a stream descriptor from eight registers. -/
  | sdef (a : BitVec 6) (n : BitVec 4)
  /-- SGO (R186). Checks a descriptor and starts the stream. -/
  | sgo (n : BitVec 4)
  /-- SSTOP (R186). Waits for H and stops a stream to IDLE. -/
  | sstop (n : BitVec 4)
  /-- SSTAT (R187). Reads a stream's state, head address or head index. -/
  | sstat (d : BitVec 6) (w : BitVec 2) (n : BitVec 4)
  /-- SCRLD_STREAM (R185). Loads a stream descriptor from scratchpad. -/
  | scrldStream (a : BitVec 6) (e : BitVec 10) (n : BitVec 4)
  /-- SCRLD_OCTET (R185). Loads eight registers from scratchpad. -/
  | scrldOctet (a : BitVec 6) (e : BitVec 10) (d : BitVec 6)
  /-- SCRST_STREAM (R185). Stores a stream descriptor to scratchpad. -/
  | scrstStream (a : BitVec 6) (e : BitVec 10) (n : BitVec 4)
  /-- SCRST_OCTET (R185). Stores eight registers to scratchpad. -/
  | scrstOctet (a : BitVec 6) (e : BitVec 10) (d : BitVec 6)
  /-- RING_ADV_C (R163). Consumer frees n slots and advances HEAD as a release. -/
  | ringAdvC (h : BitVec 4) (n : BitVec 10)
  /-- RING_ADV_P (R163). Producer marks n slots full and advances TAIL as a release. -/
  | ringAdvP (h : BitVec 4) (n : BitVec 10)
  /-- RING_PUSH_A (R194). Writes 8 bytes of a register into a slot past TAIL. -/
  | ringPushA (h : BitVec 4) (w : BitVec 10) (o : BitVec 2) (d : BitVec 6)
  /-- RING_PUSH_V (R194). Writes a tile into a slot past TAIL. -/
  | ringPushV (h : BitVec 4) (o : BitVec 2) (v : BitVec 6)
  /-- RING_POP_A (R194). Reads 8 bytes of a full slot past HEAD into a register. -/
  | ringPopA (h : BitVec 4) (w : BitVec 10) (o : BitVec 2) (d : BitVec 6)
  /-- RING_POP_V (R194). Reads a full slot past HEAD into a tile. -/
  | ringPopV (h : BitVec 4) (o : BitVec 2) (v : BitVec 6)
  /-- RING_DEF (R191). Waits for H, checks and defines a ring handle. -/
  | ringDef (h : BitVec 4) (a : BitVec 6)
  /-- TLOOK (R196). Looks up a key in the tag table. -/
  | tlook (d : BitVec 6) (a : BitVec 6)
  /-- TSET (R196). Fills a tag-table entry. -/
  | tset (d : BitVec 6) (a : BitVec 6) (b : BitVec 6)
  /-- TREADY (R196). Sets RDY of an entry as a release at core scope. -/
  | tready (a : BitVec 6)
  /-- TREADY_CLR (R196). Clears RDY of an entry. -/
  | treadyClr (a : BitVec 6)
  /-- TDROP (R196). Invalidates a tag-table entry. -/
  | tdrop (a : BitVec 6)
  /-- VADD (R216). Lane-wise add modulo 2^32. -/
  | vadd (d : BitVec 7) (a : BitVec 7) (b : BitVec 7)
  /-- VSUB (R216). Lane-wise subtract. -/
  | vsub (d : BitVec 7) (a : BitVec 7) (b : BitVec 7)
  /-- VMUL (R216). Lane-wise low 32-bit product. -/
  | vmul (d : BitVec 7) (a : BitVec 7) (b : BitVec 7)
  /-- VMIN_I (R216). Lane-wise signed minimum. -/
  | vminI (d : BitVec 7) (a : BitVec 7) (b : BitVec 7)
  /-- VMIN_N (R216). Lane-wise unsigned minimum. -/
  | vminN (d : BitVec 7) (a : BitVec 7) (b : BitVec 7)
  /-- VMAX_I (R216). Lane-wise signed maximum. -/
  | vmaxI (d : BitVec 7) (a : BitVec 7) (b : BitVec 7)
  /-- VMAX_N (R216). Lane-wise unsigned maximum. -/
  | vmaxN (d : BitVec 7) (a : BitVec 7) (b : BitVec 7)
  /-- VADDS_I (R216). Lane-wise signed saturating add. -/
  | vaddsI (d : BitVec 7) (a : BitVec 7) (b : BitVec 7)
  /-- VADDS_N (R216). Lane-wise unsigned saturating add. -/
  | vaddsN (d : BitVec 7) (a : BitVec 7) (b : BitVec 7)
  /-- VSUBS_I (R216). Lane-wise signed saturating subtract. -/
  | vsubsI (d : BitVec 7) (a : BitVec 7) (b : BitVec 7)
  /-- VSUBS_N (R216). Lane-wise unsigned saturating subtract. -/
  | vsubsN (d : BitVec 7) (a : BitVec 7) (b : BitVec 7)
  /-- VAND (R216). Lane-wise AND. -/
  | vand (d : BitVec 7) (a : BitVec 7) (b : BitVec 7)
  /-- VOR (R216). Lane-wise OR. -/
  | vor (d : BitVec 7) (a : BitVec 7) (b : BitVec 7)
  /-- VXOR (R216). Lane-wise XOR. -/
  | vxor (d : BitVec 7) (a : BitVec 7) (b : BitVec 7)
  /-- VANDN (R216). Lane-wise AND NOT. -/
  | vandn (d : BitVec 7) (a : BitVec 7) (b : BitVec 7)
  /-- VSHL (R216). Lane-wise shift left. -/
  | vshl (d : BitVec 7) (a : BitVec 7) (b : BitVec 7)
  /-- VSHR (R216). Lane-wise logical shift right. -/
  | vshr (d : BitVec 7) (a : BitVec 7) (b : BitVec 7)
  /-- VSRA (R216). Lane-wise arithmetic shift right. -/
  | vsra (d : BitVec 7) (a : BitVec 7) (b : BitVec 7)
  /-- VCEQ (R216). Lane-wise equality into a mask. -/
  | vceq (d : BitVec 7) (a : BitVec 7) (b : BitVec 7)
  /-- VCLT_I (R216). Lane-wise signed less-than into a mask. -/
  | vcltI (d : BitVec 7) (a : BitVec 7) (b : BitVec 7)
  /-- VCLT_N (R216). Lane-wise unsigned less-than into a mask. -/
  | vcltN (d : BitVec 7) (a : BitVec 7) (b : BitVec 7)
  /-- VMOV (R216). Copies a tile. -/
  | vmov (d : BitVec 7) (a : BitVec 7)
  /-- VBCS (R216). Broadcasts sA[31:0] to every active lane. -/
  | vbcs (d : BitVec 7) (a : BitVec 7)
  /-- VINS (R217). Inserts a scalar into one lane. -/
  | vins (d : BitVec 7) (a : BitVec 7) (b : BitVec 7)
  /-- VEXT (R217). Extracts one lane into a scalar register. -/
  | vext (d : BitVec 7) (a : BitVec 7) (b : BitVec 7)
  /-- VIDX (R216). Writes each lane's index. -/
  | vidx (d : BitVec 7)
  /-- DOT4_S (R218). Accumulates four int8 products per lane with one final saturation. -/
  | dot4S (d : BitVec 7) (a : BitVec 7) (b : BitVec 7)
  /-- MK_AND (R216). Bitwise AND of masks. -/
  | mkAnd (d : BitVec 7) (a : BitVec 7) (b : BitVec 7)
  /-- MK_OR (R216). Bitwise OR of masks. -/
  | mkOr (d : BitVec 7) (a : BitVec 7) (b : BitVec 7)
  /-- MK_XOR (R216). Bitwise XOR of masks. -/
  | mkXor (d : BitVec 7) (a : BitVec 7) (b : BitVec 7)
  /-- MK_ANDN (R216). Mask AND NOT. -/
  | mkAndn (d : BitVec 7) (a : BitVec 7) (b : BitVec 7)
  /-- MK_SET (R216). Sets mask bits below sA. -/
  | mkSet (d : BitVec 7) (a : BitVec 7)
  /-- VFADD (R219). Lane-wise FP32 add. -/
  | vfadd (d : BitVec 7) (a : BitVec 7) (b : BitVec 7)
  /-- VFSUB (R219). Lane-wise FP32 subtract. -/
  | vfsub (d : BitVec 7) (a : BitVec 7) (b : BitVec 7)
  /-- VFMUL (R219). Lane-wise FP32 multiply. -/
  | vfmul (d : BitVec 7) (a : BitVec 7) (b : BitVec 7)
  /-- VFMA (R219). Lane-wise fused multiply-add into vD. -/
  | vfma (d : BitVec 7) (a : BitVec 7) (b : BitVec 7)
  /-- VFNMA (R219). Lane-wise fused negative multiply-add into vD. -/
  | vfnma (d : BitVec 7) (a : BitVec 7) (b : BitVec 7)
  /-- VFMIN (R220). Lane-wise FP32 minimum. -/
  | vfmin (d : BitVec 7) (a : BitVec 7) (b : BitVec 7)
  /-- VFMAX (R220). Lane-wise FP32 maximum. -/
  | vfmax (d : BitVec 7) (a : BitVec 7) (b : BitVec 7)
  /-- VFABS (R219). Clears the sign bit of each lane. -/
  | vfabs (d : BitVec 7) (a : BitVec 7)
  /-- VFNEG (R219). Inverts the sign bit of each lane. -/
  | vfneg (d : BitVec 7) (a : BitVec 7)
  /-- VFCEQ (R220). FP32 equality into a mask. -/
  | vfceq (d : BitVec 7) (a : BitVec 7) (b : BitVec 7)
  /-- VFCLT (R220). FP32 less-than into a mask. -/
  | vfclt (d : BitVec 7) (a : BitVec 7) (b : BitVec 7)
  /-- VFCLE (R220). FP32 less-or-equal into a mask. -/
  | vfcle (d : BitVec 7) (a : BitVec 7) (b : BitVec 7)
  /-- VFCUN (R220). Unordered test into a mask. -/
  | vfcun (d : BitVec 7) (a : BitVec 7) (b : BitVec 7)
  /-- VFMULS (R219). Multiplies each lane by a scalar FP32. -/
  | vfmuls (d : BitVec 7) (a : BitVec 7) (b : BitVec 7)
  /-- VFADDS (R219). Adds a scalar FP32 to each lane. -/
  | vfadds (d : BitVec 7) (a : BitVec 7) (b : BitVec 7)
  /-- ROTR (R221). Rotates along the row axis. -/
  | rotr (d : BitVec 7) (a : BitVec 7) (b : BitVec 7)
  /-- ROTC (R221). Rotates along the column axis. -/
  | rotc (d : BitVec 7) (a : BitVec 7) (b : BitVec 7)
  /-- BCR (R221). Broadcasts column j of each row. -/
  | bcr (d : BitVec 7) (a : BitVec 7) (b : BitVec 7)
  /-- BCC (R221). Broadcasts row i of each column. -/
  | bcc (d : BitVec 7) (a : BitVec 7) (b : BitVec 7)
  /-- REDR_FADD (R222). Row reduction by FP32 add in a fixed tree. -/
  | redrFadd (d : BitVec 7) (a : BitVec 7)
  /-- REDR_FMAX (R222). Row reduction by FP32 maximum. -/
  | redrFmax (d : BitVec 7) (a : BitVec 7)
  /-- REDR_FMIN (R222). Row reduction by FP32 minimum. -/
  | redrFmin (d : BitVec 7) (a : BitVec 7)
  /-- REDR_ADD (R222). Row reduction by integer add. -/
  | redrAdd (d : BitVec 7) (a : BitVec 7)
  /-- REDR_MAX_I (R222). Row reduction by signed maximum. -/
  | redrMaxI (d : BitVec 7) (a : BitVec 7)
  /-- REDR_MIN_I (R222). Row reduction by signed minimum. -/
  | redrMinI (d : BitVec 7) (a : BitVec 7)
  /-- REDR_MAX_N (R222). Row reduction by unsigned maximum. -/
  | redrMaxN (d : BitVec 7) (a : BitVec 7)
  /-- REDR_MIN_N (R222). Row reduction by unsigned minimum. -/
  | redrMinN (d : BitVec 7) (a : BitVec 7)
  /-- REDC_FADD (R222). Column reduction by FP32 add. -/
  | redcFadd (d : BitVec 7) (a : BitVec 7)
  /-- REDC_FMAX (R222). Column reduction by FP32 maximum. -/
  | redcFmax (d : BitVec 7) (a : BitVec 7)
  /-- REDC_FMIN (R222). Column reduction by FP32 minimum. -/
  | redcFmin (d : BitVec 7) (a : BitVec 7)
  /-- REDC_ADD (R222). Column reduction by integer add. -/
  | redcAdd (d : BitVec 7) (a : BitVec 7)
  /-- REDC_MAX_I (R222). Column reduction by signed maximum. -/
  | redcMaxI (d : BitVec 7) (a : BitVec 7)
  /-- REDC_MIN_I (R222). Column reduction by signed minimum. -/
  | redcMinI (d : BitVec 7) (a : BitVec 7)
  /-- REDC_MAX_N (R222). Column reduction by unsigned maximum. -/
  | redcMaxN (d : BitVec 7) (a : BitVec 7)
  /-- REDC_MIN_N (R222). Column reduction by unsigned minimum. -/
  | redcMinN (d : BitVec 7) (a : BitVec 7)
  /-- CVT (R224). Converts elements between formats by element index and part p. -/
  | cvt (d : BitVec 7) (a : BitVec 7) (f : BitVec 4) (p : BitVec 3) (t : BitVec 4)
  /-- RCPA (R226). Reciprocal approximation to 12 bits. -/
  | rcpa (d : BitVec 7) (a : BitVec 7)
  /-- RSQA (R226). Reciprocal square root approximation to 12 bits. -/
  | rsqa (d : BitVec 7) (a : BitVec 7)
  /-- RCPN (R227). One Newton step of a reciprocal. -/
  | rcpn (d : BitVec 7) (a : BitVec 7) (b : BitVec 7)
  /-- RSQN (R227). One Newton step of a reciprocal square root. -/
  | rsqn (d : BitVec 7) (a : BitVec 7) (b : BitVec 7)
  /-- EXP2 (R228). Correctly rounded 2^x. -/
  | exp2 (d : BitVec 7) (a : BitVec 7)
  /-- LOG2 (R228). Correctly rounded log2 x. -/
  | log2 (d : BitVec 7) (a : BitVec 7)
  /-- RAND (R229). Philox4x32-10 random numbers from a counter tile pair and a key. -/
  | rand (d : BitVec 7) (a : BitVec 7) (b : BitVec 7)
  /-- VLD (R231). Loads a tile with a row stride. -/
  | vld (d : BitVec 7) (a : BitVec 7) (b : BitVec 7)
  /-- VST (R231). Stores a tile with a row stride. -/
  | vst (d : BitVec 7) (a : BitVec 7) (b : BitVec 7)
  /-- VGATH (R232). Gathers lanes by word indices. -/
  | vgath (d : BitVec 7) (a : BitVec 7) (b : BitVec 7)
  /-- VSCAT (R232). Scatters lanes by word indices. -/
  | vscat (d : BitVec 7) (a : BitVec 7) (b : BitVec 7)
  /-- VAMO_ADD (R233). Per-lane atomic integer add. -/
  | vamoAdd (d : BitVec 7) (a : BitVec 7) (b : BitVec 7)
  /-- VAMO_FADD (R233). Per-lane atomic FP32 add, binned in deterministic mode. -/
  | vamoFadd (d : BitVec 7) (a : BitVec 7) (b : BitVec 7)
  /-- VAMO_MIN_I (R233). Per-lane atomic signed minimum. -/
  | vamoMinI (d : BitVec 7) (a : BitVec 7) (b : BitVec 7)
  /-- VAMO_MIN_N (R233). Per-lane atomic unsigned minimum. -/
  | vamoMinN (d : BitVec 7) (a : BitVec 7) (b : BitVec 7)
  /-- VAMO_MAX_I (R233). Per-lane atomic signed maximum. -/
  | vamoMaxI (d : BitVec 7) (a : BitVec 7) (b : BitVec 7)
  /-- VAMO_MAX_N (R233). Per-lane atomic unsigned maximum. -/
  | vamoMaxN (d : BitVec 7) (a : BitVec 7) (b : BitVec 7)
  /-- VAMO_AND (R233). Per-lane atomic AND. -/
  | vamoAnd (d : BitVec 7) (a : BitVec 7) (b : BitVec 7)
  /-- VAMO_OR (R233). Per-lane atomic OR. -/
  | vamoOr (d : BitVec 7) (a : BitVec 7) (b : BitVec 7)
  /-- VAMO_XOR (R233). Per-lane atomic XOR. -/
  | vamoXor (d : BitVec 7) (a : BitVec 7) (b : BitVec 7)
  /-- VAMO_SWAP (R233). Per-lane atomic swap. -/
  | vamoSwap (d : BitVec 7) (a : BitVec 7) (b : BitVec 7)
  /-- ROW_MAX (R239). Queues a row-engine max phase over the rows of a row word. -/
  | rowMax (a : BitVec 6) (e : BitVec 17)
  /-- ROW_EXP (R239). Queues a row-engine exponent and binned-sum phase. -/
  | rowExp (a : BitVec 6) (e : BitVec 17)
  /-- ROW_SCL (R239). Queues a row-engine scaling phase. -/
  | rowScl (a : BitVec 6) (e : BitVec 17)
  /-- CHAIN (R235). Reads a chain descriptor and queues an element-wise pass. -/
  | chain (a : BitVec 6)
  /-- MMA (R276). Queues a block-exact matrix multiply of streamed A against resident B. -/
  | mma (z : BitVec 7) (q : BitVec 7) (s : BitVec 7)
  /-- MMAC (R277). Queues a cooperative multiply across quad participants. -/
  | mmac (z : BitVec 7) (q : BitVec 7) (s : BitVec 7)
  /-- MLOADB (R271). Queues a load of B blocks into the macros with checksums. -/
  | mloadb (q : BitVec 7) (s : BitVec 7)
  /-- MCSUM (R272). Re-forms and compares row checksums, returning the disagreements. -/
  | mcsum (d : BitVec 7) (s : BitVec 7)
  /-- MSEED (R273). Writes the kept-row mask of one sparse block. -/
  | mseed (d : BitVec 7) (a : BitVec 7) (b : BitVec 7)
  /-- MZERO (R279). Queues zeroing of an accumulator. -/
  | mzero (z : BitVec 7)
  /-- MDRAIN (R280). Queues a converted write of an accumulator window to memory. -/
  | mdrain (z : BitVec 7) (a : BitVec 7) (b : BitVec 7)
  /-- MSPILL (R281). Queues a raw write of an accumulator. -/
  | mspill (z : BitVec 7) (a : BitVec 7)
  /-- MFILL (R281). Queues a raw read of an accumulator image. -/
  | mfill (z : BitVec 7) (a : BitVec 7)
  /-- MSTAT (R282). Reads matrix engine status. -/
  | mstat (d : BitVec 7)
  /-- MCHK (R283). Waits for the queue and reports checks since the last MCHK. -/
  | mchk (d : BitVec 7)
  /-- DRAW (R284). Requests draw units from Bellows ahead of time. -/
  | draw (a : BitVec 7)
  /-- DRAW_W (R284). Requests draw units and waits until they are held. -/
  | drawW (a : BitVec 7)
  /-- CPGO (R295). Starts a copy chain and returns its ticket. -/
  | cpgo (a : BitVec 6) (d : BitVec 6)
  /-- CPWAIT (R298). Waits until a chain is DONE, KILLED or GONE. -/
  | cpwait (t : BitVec 6) (d : BitVec 6)
  /-- CPSTAT (R298). Reads a chain's status word. -/
  | cpstat (t : BitVec 6) (d : BitVec 6)
  /-- CPKILL (R299). Ends a chain. -/
  | cpkill (t : BitVec 6)
  /-- POPEN (R322). Makes a parcel of a region. -/
  | popen (d : BitVec 6) (a : BitVec 6) (b : BitVec 6)
  /-- PLD (R323). Loads through a parcel handle and reference. -/
  | pld (d : BitVec 6) (a : BitVec 6) (b : BitVec 6) (m : BitVec 3)
  /-- PST (R323). Stores through a parcel handle and reference. -/
  | pst (d : BitVec 6) (a : BitVec 6) (b : BitVec 6) (m : BitVec 2)
  /-- PSTREF (R323). Stores a checked reference into a parcel. -/
  | pstref (d : BitVec 6) (a : BitVec 6) (b : BitVec 6)
  /-- PMKREF (R323). Makes a tagged reference from a virtual address. -/
  | pmkref (d : BitVec 6) (a : BitVec 6) (b : BitVec 6)
  /-- PSEAL (R324). Seals a parcel against writes. -/
  | pseal (a : BitVec 6)
  /-- POST (R325). Posts a sealed parcel to a remote inbox as a chain. -/
  | post (d : BitVec 6) (a : BitVec 6) (b : BitVec 6)
  /-- PRECV (R328). Binds the oldest landed parcel of an inbox at a chosen base, or returns zero. -/
  | precv (d : BitVec 6) (a : BitVec 6) (b : BitVec 6)
  /-- PRECV_W (R328). Binds the oldest landed parcel, waiting for one. -/
  | precvW (d : BitVec 6) (a : BitVec 6) (b : BitVec 6)
  /-- PFREE (R329). Frees a parcel record. -/
  | pfree (a : BitVec 6)
  /-- QREQ (R345). Requests a quench cut at a coordinate and level. -/
  | qreq (a : BitVec 6) (l : BitVec 3)
  /-- QSTAT (R348). Reads the cut coordinate or the quench status word. -/
  | qstat (d : BitVec 6) (w : BitVec 3)
  /-- QWAIT (R349). Waits at S until the quench is no longer pending. -/
  | qwait
  /-- QRESUME (R349). Resumes every member core stopped at a cut. -/
  | qresume
  /-- QARM (R350). Arms the core's coordinate breakpoint. -/
  | qarm (a : BitVec 6) (l : BitVec 3)
  /-- QARM_CLR (R350). Disarms the coordinate breakpoint. -/
  | qarmClr
  /-- QHORIZ (R351). Reads a dimension of the known horizon. -/
  | qhoriz (d : BitVec 6) (j : BitVec 3)
  /-- SETTLE (R352). Raises the floor to the greatest member coordinate and releases kept state. -/
  | settle
  /-- TLBINV (R379). Starts a shoot-down of a page range. -/
  | tlbinv (a : BitVec 6) (b : BitVec 6)
  /-- TLBINV_ALL (R379). Starts a shoot-down of every translation of the context. -/
  | tlbinvAll
  /-- TLBSYNC (R370). Waits for every earlier TLBINV of the core to be acknowledged. -/
  | tlbsync
  /-- PGDISC (R379). Marks a page range discarded and shoots it down. -/
  | pgdisc (a : BitVec 6) (b : BitVec 6)
  /-- PGSEAL (R379). Seals a checkpoint page set from a descriptor. -/
  | pgseal (d : BitVec 6) (a : BitVec 6)
  /-- PGSEAL_CLR (R379). Clears a seal record without copying. -/
  | pgsealClr (a : BitVec 6)
  /-- TMREAD (R379). Reads the running touchmark into a register pair. -/
  | tmread (d : BitVec 6)
  /-- TMREAD_REC (R379). Reads the recorded touchmark. -/
  | tmreadRec (d : BitVec 6)
  /-- TMSET (R379). Records a touchmark value. -/
  | tmset (a : BitVec 6)
  /-- TMSET_CLR (R379). Clears the recorded touchmark. -/
  | tmsetClr
  /-- PLANESW_REL (R405). Clears SHELD. -/
  | planeswRel (d : BitVec 6)
  /-- PLANESW_DROP (R405). Empties the shadow plane and returns its entry. -/
  | planeswDrop (d : BitVec 6)
  /-- PLANESW_HOLD (R405). Sets SHELD. -/
  | planeswHold (d : BitVec 6)
  /-- SWGSTAT (R395). Reads the Swage slot summary. -/
  | swgstat (d : BitVec 6)
  /-- SWGSTAT_REC (R395). Reads a word of a Swage slot record. -/
  | swgstatRec (d : BitVec 6) (a : BitVec 6)
  /-- SWGSTAT_HIT (R395). Reads a slot's hit count. -/
  | swgstatHit (d : BitVec 6) (a : BitVec 6)
  /-- SWGSTAT_LAST (R395). Reads the slot that last acted for a strand. -/
  | swgstatLast (d : BitVec 6) (a : BitVec 6)
  /-- NOP_C (R76). Compact NOP. -/
  | nopC
  /-- HALT_C (R76). Compact HALT. -/
  | haltC
  /-- YIELD_C (R76). Compact YIELD. -/
  | yieldC
  /-- RET_C (R76). Compact RET. -/
  | retC
  /-- BKPT_C (R76). Compact BKPT with code 0. -/
  | bkptC
  /-- TASKEND_C (R76). Compact TASKEND. -/
  | taskendC
  /-- MOV_C (R76). Compact MOV. -/
  | movC (d : BitVec 5) (b : BitVec 5)
  /-- ADD_C (R76). Compact ADD of registers. -/
  | addC (d : BitVec 5) (b : BitVec 5)
  /-- SUB_C (R76). Compact SUB. -/
  | subC (d : BitVec 5) (b : BitVec 5)
  /-- AND_C (R76). Compact AND. -/
  | andC (d : BitVec 5) (b : BitVec 5)
  /-- OR_C (R76). Compact OR. -/
  | orC (d : BitVec 5) (b : BitVec 5)
  /-- XOR_C (R76). Compact XOR. -/
  | xorC (d : BitVec 5) (b : BitVec 5)
  /-- MUL_C (R76). Compact MUL. -/
  | mulC (d : BitVec 5) (b : BitVec 5)
  /-- ADD_C_IMM (R76). Compact ADD of a signed 5-bit immediate. -/
  | addCImm (d : BitVec 5) (i : BitVec 5)
  /-- LIMM_C (R76). Compact LIMM of a signed 5-bit immediate. -/
  | limmC (d : BitVec 5) (i : BitVec 5)
  /-- SHL_C (R76). Compact SHL immediate. -/
  | shlC (d : BitVec 5) (i : BitVec 5)
  /-- SHR_C (R76). Compact SHR immediate. -/
  | shrC (d : BitVec 5) (i : BitVec 5)
  /-- SRA_C (R76). Compact SRA immediate. -/
  | sraC (d : BitVec 5) (i : BitVec 5)
  /-- BR_C (R76). Compact conditional branch. -/
  | brC (c : BitVec 4) (d : BitVec 6)
  /-- CADV_C (R76). Compact CADV. -/
  | cadvC (j : BitVec 3)
  /-- PAUSE_C (R76). Compact PAUSE. -/
  | pauseC (n : BitVec 10)
  /-- RING_WAITF_C (R76). Compact RING.WAITF. -/
  | ringWaitfC (h : BitVec 4) (n : BitVec 6)
  /-- RING_WAITE_C (R76). Compact RING.WAITE. -/
  | ringWaiteC (h : BitVec 4) (n : BitVec 6)
  /-- RING_ADV_C_C (R76). Compact RING.ADV.C. -/
  | ringAdvCC (h : BitVec 4) (n : BitVec 6)
  /-- RING_ADV_P_C (R76). Compact RING.ADV.P. -/
  | ringAdvPC (h : BitVec 4) (n : BitVec 6)
  /-- LD_D_C (R76). Compact LD.d with zero displacement. -/
  | ldDC (d : BitVec 5) (b : BitVec 5)
  /-- ST_D_C (R76). Compact ST.d with zero displacement. -/
  | stDC (d : BitVec 5) (b : BitVec 5)
  /-- CGET_C (R76). Compact CGET. -/
  | cgetC (d : BitVec 5) (j : BitVec 3)
  /-- PACKAGE_RESET (R420). Reset starts the boot chain of ROM, Hearth, Tongs, memory, Swage and mailboxes. -/
  | packageReset (fail : Nat) (ceil : BitVec 16)
  /-- DISPATCH_TAKE_ENTRY (R397). The dispatcher takes the least-SEQ POSTED entry for an empty shadow plane and starts loading. -/
  | dispatchTakeEntry
  /-- PLANE_LOAD_COMPLETE (R398). The plane loader finishes and the entry becomes LOADED. -/
  | planeLoadComplete
  /-- SWAP_TOKEN_FLIP (R400). The swap token flips the planes once the outgoing task has ended and the successor is ready. -/
  | swapTokenFlip
  /-- TASK_END (R122). When all four strands have stopped, the task runs its horizon, touchmark and trailer-drain steps. -/
  | taskEnd
  /-- BLOCK_ENTRY (R65). A strand enters a block at its header, checks it and reads its count. -/
  | blockEntry
  /-- LOCKSTEP_MEET (R11). The four strands meet at S headers and issue together as bundles. -/
  | lockstepMeet
  /-- FETCH_END_OF_CODE (R62). A strand fetching beyond its code section stops as though halted. -/
  | fetchEndOfCode
  /-- ENTER_S (R118). A cause delivered at S interrupts K at an item boundary and enters the handler overlay. -/
  | enterS
  /-- HEARTH_DELIVERY (R100). A cause delivered at H passes its record to Hearth and stops the core. -/
  | hearthDelivery
  /-- FQ_POP (R101). Writing POP removes the head fault record. -/
  | fqPop
  /-- FQ_POP_RESUME (R101). Writing POP with RESUME removes the head record and restarts its strand or engine. -/
  | fqPopResume
  /-- YREQ_SET (R106). Writing YREQ := 1 requests pre-emption with the deadline in k.ydl. -/
  | yreqSet
  /-- YREQ_CLEAR (R127). Writing YREQ := 0 withdraws a request or resumes the stopped strands. -/
  | yreqClear
  /-- YIELD_REQUEST (R106). When all strands stand at yield points, YIELD_REQUEST is delivered. -/
  | yieldRequest
  /-- YIELD_DEADLINE (R106). The deadline expires and the forced mode applies. -/
  | yieldDeadline
  /-- BUDGET (R128). The cycle budget reaches zero and the forced mode applies. -/
  | budget
  /-- FORCED_MODE_DONE (R107). The SAVE settles or the ROLLBACK cut completes and FDONE reads 1. -/
  | forcedModeDone
  /-- PAUSE_EXPIRY (R126). A PAUSE count ends and the strand's issue priority returns. -/
  | pauseExpiry
  /-- RING_STALL (R165). A ring wait lasting LIMIT cycles raises RING_STALL once. -/
  | ringStall (x : StrandId)
  /-- RING_WAIT_SATISFIED (R163). A waiting ring wait or slot operand finds its slots and retires. -/
  | ringWaitSatisfied (x : StrandId)
  /-- DSYNC_COMPLETE (R47). Every member has arrived; each DSYNC completes as an acquire and the phase flips. -/
  | dsyncComplete (level : BitVec 3)
  /-- ATOMIC_RESULT_RETURN (R182). An atomic's result returns from the home and the item retires. -/
  | atomicResultReturn (x : StrandId)
  /-- LDT_LANDING (R176). A timed load's value lands at issue plus T(L). -/
  | ldtLanding (x : StrandId)
  /-- HORIZON_UPDATE (R336). The known horizon advances and releases images, slag entries and snapshots below it. -/
  | horizonUpdate
  /-- SIDE_LOG_PERFORM (R168). A PEND entry leaves the side log, translates and is performed, or becomes FAULTED or SEAL-WAIT. -/
  | sideLogPerform (x : StrandId)
  /-- CAUSAL_APPLY (R34). A stamped write is applied at another die once its clock conditions hold. -/
  | causalApply (die : BitVec 2) (k : Nat)
  /-- STREAM_SLOT_FILL (R163). A stream writes a free slot with its elements and scales. -/
  | streamSlotFill (q : BitVec 4)
  /-- CHAIN_PASS_START (R237). A chain pass reaches the head of its queue and is checked. -/
  | chainPassStart
  /-- CHAIN_PASS_COMPLETE (R209). Every write of a chain pass has been performed or logged. -/
  | chainPassComplete
  /-- ROW_COMMAND_START (R238). A row command reaches its phase slot and is checked. -/
  | rowCommandStart
  /-- ROW_PHASE_END (R211). A row's phase ends after L(n) cycles. -/
  | rowPhaseEnd (phase : Nat)
  /-- MATRIX_OP_BEGIN (R261). A queued matrix operation reaches the head and begins, requesting units if needed. -/
  | matrixOpBegin
  /-- DRAW_GRANT (R422). Bellows grants requested draw units. -/
  | drawGrant
  /-- CEIL_CHANGE (R422). Bellows changes a core's CEIL and held units above it are returned. -/
  | ceilChange (ceil : BitVec 16)
  /-- MATRIX_WAVE_COMMIT (R248). A block is checked and committed for every element of the operation. -/
  | matrixWaveCommit
  /-- MLOADB_BLOCK_LOADED (R271). MLOADB aligns and stores one block with its checksums. -/
  | mloadbBlockLoaded
  /-- FOLLOW_ON_MMA_JOIN (R304). A COPY's follow-on MMA is checked and joins the target core's queue. -/
  | followOnMmaJoin (step : FollowStep)
  /-- CHAIN_RELEASE (R296). A HELD chain leaves the port once the horizon and earlier stores pass. -/
  | chainRelease (tag : BitVec 6)
  /-- ENGINE_TAKE_CHAIN (R291). A free copy engine takes the chain at the head of the queue. -/
  | engineTakeChain (engine : BitVec 4)
  /-- CHAIN_COPY (R303). A COPY entry moves rows within the package. -/
  | chainCopy (tag : BitVec 6)
  /-- CHAIN_RREAD (R303). An RREAD entry copies rows from a far package. -/
  | chainRread (tag : BitVec 6)
  /-- CHAIN_RWRITE (R303). An RWRITE entry copies rows to a far package. -/
  | chainRwrite (tag : BitVec 6)
  /-- CHAIN_RREDUCE (R306). An RREDUCE entry combines elements into a destination at its home. -/
  | chainRreduce (tag : BitVec 6)
  /-- CHAIN_ROUTE (R307). A ROUTE entry sorts tokens into expert lists. -/
  | chainRoute (tag : BitVec 6)
  /-- CHAIN_BARRIER (R308). A BARRIER entry arrives at its strand's domain synchronisation. -/
  | chainBarrier (tag : BitVec 6)
  /-- CHAIN_SIGNAL (R308). A SIGNAL entry writes or adds to a flag as a release. -/
  | chainSignal (tag : BitVec 6)
  /-- CHAIN_LOOP (R309). A LOOP entry steps its counter and branches to its body. -/
  | chainLoop (tag : BitVec 6)
  /-- CHAIN_COND (R310). A COND entry tests or waits on a flag as an acquire. -/
  | chainCond (tag : BitVec 6)
  /-- COND_ENGINE_YIELD (R291). A COND that has waited 1,024 cycles gives up its engine. -/
  | condEngineYield (tag : BitVec 6)
  /-- COND_WAIT_LIMIT (R310). A COND wait exceeds LIM and raises COPY_CHAIN 0x06. -/
  | condWaitLimit (tag : BitVec 6)
  /-- CHAIN_POST (R325). A POST entry unmaps the parcel and writes it into the remote landing area. -/
  | chainPost (tag : BitVec 6)
  /-- CHAIN_SEALDRAIN (R376). A SEALDRAIN entry copies undrained sealed pages and writes the digest. -/
  | chainSealdrain (tag : BitVec 6)
  /-- CHAIN_END (R312). END completes when every access is performed and the chain becomes DONE. -/
  | chainEnd (tag : BitVec 6)
  /-- FABRIC_PACKET_RECEIVE (R415). A copy engine receives a fabric packet or reply and authenticates and performs it. -/
  | fabricPacketReceive
  /-- FABRIC_TIMEOUT (R416). A remote operation is not answered within the fabric timeout. -/
  | fabricTimeout (tag : BitVec 6)
  /-- BIND_NOTICE (R325). The destination's bind notice frees the source parcel record. -/
  | bindNotice (pid : BitVec 16)
  /-- QUENCH_ACCEPT (R346). The coordinator merges requests, fixes the cut and sends it to members. -/
  | quenchAccept
  /-- QUENCH_DRAIN_REPORT (R346). A member core has completed every operation below the cut and reports. -/
  | quenchDrainReport
  /-- QUENCH_COMMIT (R346). Every member has reported; cores undo, discard, rewind and restore. -/
  | quenchCommit
  /-- QUENCH_MEMBER_TIMEOUT (R347). A member package does not report within the fabric timeout. -/
  | quenchMemberTimeout
  /-- QARM_FIRE (R350). An armed breakpoint fires as a QREQ when a coordinate reaches it. -/
  | qarmFire
  /-- SETTLE_APPLY (R352). The coordinator applies a raised floor on every member core. -/
  | settleApply
  /-- ATS_COMPLETION (R366). The host returns an ATS translation completion. -/
  | atsCompletion (k : Nat) (status : AtsStatus) (frame : BitVec 52) (canRead canWrite : Bool)
  /-- ATS_TIMEOUT (R366). No ATS completion within 2^20 cycles raises HOST_TRANSLATION. -/
  | atsTimeout (k : Nat)
  /-- ATS_INVALIDATION (R366). A host ATS invalidation removes cached entries. -/
  | atsInvalidation (first count : Nat)
  /-- SHOOTDOWN_ACK (R370). A translation cache acknowledges a shoot-down. -/
  | shootdownAck (path : Nat)
  /-- DEMAND_DRAIN_COMPLETE (R376). The sealed page is copied, SEAL cleared and waiting writes released. -/
  | demandDrainComplete (k : Nat)
  /-- ECC_CORRECTED (R372). A corrected memory error raises ECC_CORRECTED. -/
  | eccCorrected (site : EccSite)
  /-- UNCORRECTABLE_ERROR (R372). An uncorrectable memory error poisons its block. -/
  | uncorrectableError (pa : BitVec 52)
  /-- ECC_UNCORRECTED (R249). A double-bit accumulator error abandons the region. -/
  | eccUncorrected (z : BitVec 3) (elem : BitVec 16)
  /-- V_PARK (R204). A v.park write with DIR 0 parks a tile into an idle bank. -/
  | vPark (tile : BitVec 6) (pslot : BitVec 7)
  /-- V_UNPARK (R204). A v.park write with DIR 1 unparks a bank into a tile. -/
  | vUnpark (tile : BitVec 6) (pslot : BitVec 7)
  /-- MCARRY_WRITE (R251). A write to m.carry clearing ZFREE moves snapshots into idle banks. -/
  | mcarryWrite (v : BitVec 64)
  /-- QCTL_PIN_WRITE (R337). A write to PIN pins or releases the effective horizon. -/
  | qctlPinWrite (pin : Bool)
  /-- PLRING_RETURN (R367). A write to RET returns landing frames to the area. -/
  | plringReturn (n : BitVec 32)
  /-- SYSREG_WRITE (R2). A write to a register with no row of its own updates its fields by access code. -/
  | sysregWrite (n : BitVec 10) (v : BitVec 64)
  /-- MB_LOAD_PATCH_IMAGE (R392). Mailbox opcode 0x01 checks and accepts a signed Swage image. -/
  | mbLoadPatchImage
  /-- MB_CONTEXT (R419). Mailbox opcode 0x02 creates or destroys a context. -/
  | mbContext
  /-- MB_POST_BIND_RECORD (R419). Mailbox opcode 0x03 posts a bind record. -/
  | mbPostBindRecord
  /-- MB_ATTESTATION (R421). Mailbox opcode 0x04 returns a signed attestation report. -/
  | mbAttestation
  /-- MB_CONFIGURE (R419). Mailbox opcode 0x05 configures partitions, lending, strict mode, keys, switches and the fabric timeout. -/
  | mbConfigure
  /-- REVOKE_LENT_CORE (R407). Hearth revokes a lent core, rolls back, scrubs and returns it. -/
  | revokeLentCore
  /-- REVOKE_CUT_TIMEOUT (R407). The borrower's cut has not completed within 32,768 cycles and its work is abandoned. -/
  | revokeCutTimeout
  /-- VF_TEARDOWN (R409). Hearth tears a VF down by bumping key generations and revoking cores. -/
  | vfTeardown (vf : Nat)
  /-- ALLOWANCE_RECLAIM (R409). Send allowances are reclaimed two round trips after the bump. -/
  | allowanceReclaim (kid : Nat)
  /-- CIRCUIT_RECONFIGURE (R413). Hearth quiesces remote entries, switches circuits and rewrites group membership. -/
  | circuitReconfigure (members : List Nat)
  /-- SLICE_QUANTUM_EXPIRY (R403). A time slice's quantum ends and the next slice is swapped in. -/
  | sliceQuantumExpiry
  /-- LINK_FLIT_RECEIVE (R418). A link port accepts a flit into a minimum share or the shared pool. -/
  | linkFlitReceive (port tenant : Nat)
  /-- THERMAL_95C (R423). A die at 95 C has every CEIL set to zero. -/
  | thermal95c (die : BitVec 2)
  /-- THERMAL_105C (R423). A die at 105 C raises MACHINE_CHECK and stops the package. -/
  | thermal105c
  /-- RESERVED_SPACE_ITEM (R78). A strand meets an item in majors 0x1C-0x1F or compact majors 0x1E-0x1F, which raises RESERVED_SPACE unless a Swage slot claims it. -/
  | reservedSpaceItem (w : BitVec 32) (compact : Bool)
  /-- ILLEGAL_ENCODING_ITEM (R74). A strand meets an item whose selector, FN, MOD or compact major is undefined or whose reserved bits are set, and ILLEGAL_ENCODING is raised precisely. -/
  | illegalEncodingItem (w : BitVec 32) (compact : Bool)
  /-- COND_WAIT_SATISFIED (R310). A waiting COND entry rereads its flag, finds the test holding and the chain continues at the next entry as an acquire. -/
  | condWaitSatisfied (tag : BitVec 6)
  /-- HEARTH_RESUME_OR_ABANDON (R100). Hearth resumes or abandons a core, or a job, stopped by a cause delivered at H. -/
  | hearthResumeOrAbandon (resume : Bool)
  /-- HEARTH_REMAP_REWRITE (R402). Hearth rewrites a context's remap entries in every router after a REMAP fault, after which the faulted item is resumed. -/
  | hearthRemapRewrite (ctx : BitVec 32) (lcore : BitVec 8) (pcore : BitVec 8) (slice : BitVec 4) (nsm1 : BitVec 4) (quant : BitVec 16) (valid : Bool)
  /-- SLOT_ENTRY_FREE (R397). Tongs writes a DONE, REJECTED or RETURNED slot-table entry back to FREE, or posts a FREE entry. -/
  | slotEntryFree (entry : Nat) (post : Bool)
  /-- FLIT_FORWARD (R418). A link port forwards a buffered flit and frees its minimum-share or shared-pool slot. -/
  | flitForward (port tenant : Nat)
  /-- LINK_REPLAY (R418). A link-level error such as a CRC error starts a retransmission from the replay buffer. -/
  | linkReplay (port : Nat)
  /-- CONTEXT_IMAGE_WRITE (R108). The context image of a settled or rolled-back context is written out, including accumulators, macro cells and scratchpad. -/
  | contextImageWrite
deriving DecidableEq, Repr

end Sys2Proof
end

