-- ==== Sys2Proof/WellFormed.lean ====
section
/-!
DEFINITION. Well-formedness: every field lies in the range its instruction states, whatever the strand (R77 step 8,
with the field values that R173, R223, R321 and R344 refuse). Register classes depend on the strand and are checked
when the item issues (R77 step 7).
-/
namespace Sys2Proof

/-- A scalar register role of a vector or matrix item: 64..127 are no register (R214, R266). -/
def sRoleOk (f : BitVec 7) : Bool := f.ult 64
/-- A tile-only or tile-destination role: no stream form (R214). -/
def tileRoleOk (f : BitVec 7) : Bool := f.ult 64
/-- A mask role: m0..m7 (R214). -/
def maskRoleOk (f : BitVec 7) : Bool := f.ult 8
/-- An accumulator role: z0..z7 (R266). -/
def accRoleOk (f : BitVec 7) : Bool := f.ult 8
/-- An even register or tile number (R137, R225, R379). -/
def evenOk {w : Nat} (f : BitVec w) : Bool := !f.getLsbD 0
/-- A multiple of eight: the first register of an octet (R184). -/
def octetOk (f : BitVec 6) : Bool := f.extractLsb' 0 3 == 0
/-- A branch condition (R139). -/
def condOk (c : BitVec 4) : Bool := c.ult 11

/-- A type code of CVT (R223). -/
def typeCodeOk (t : BitVec 4) : Bool := t.ult 8 || (t.ult 12 && t != 8)

/-- Elements per 32-bit lane of a type's layout (R198), for the codes of R223. -/
def elemsPerLane (t : BitVec 4) : Nat :=
  match t.toNat with
  | 0 | 7 | 11 => 1
  | 1 | 6 | 10 => 2
  | 4 => 8
  | _ => 4

/-- The fields of a CVT: type codes, and the part within the number of parts (R223). -/
def cvtOk (d : BitVec 7) (f : BitVec 4) (p : BitVec 3) (t : BitVec 4) : Bool :=
  let ks := elemsPerLane f
  let kd := elemsPerLane t
  tileRoleOk d && typeCodeOk f && typeCodeOk t && decide (p.toNat < if kd ≥ ks then kd / ks else ks / kd)

/-- Every field is within the range stated for it. Steps without a word have no ill-formed field. -/
def Instr.wf : Instr → Bool
  | .add _ _ _ => true
  | .sub _ _ _ => true
  | .mul _ _ _ => true
  | .mulhI _ _ _ => true
  | .mulhN _ _ _ => true
  | .mulhIn _ _ _ => true
  | .divI _ _ _ => true
  | .divN _ _ _ => true
  | .remI _ _ _ => true
  | .remN _ _ _ => true
  | .and _ _ _ => true
  | .or _ _ _ => true
  | .xor _ _ _ => true
  | .andn _ _ _ => true
  | .shl _ _ _ => true
  | .shr _ _ _ => true
  | .sra _ _ _ => true
  | .rot _ _ _ => true
  | .clz _ _ => true
  | .popc _ _ => true
  | .minI _ _ _ => true
  | .minN _ _ _ => true
  | .maxI _ _ _ => true
  | .maxN _ _ _ => true
  | .sel _ _ _ _ => true
  | .cmp _ _ _ => true
  | .mov _ _ => true
  | .add128 d a b => evenOk d && evenOk a && evenOk b
  | .addImm _ _ _ => true
  | .subImm _ _ _ => true
  | .mulImm _ _ _ => true
  | .andImm _ _ _ => true
  | .orImm _ _ _ => true
  | .xorImm _ _ _ => true
  | .andnImm _ _ _ => true
  | .shlImm _ _ _ => true
  | .shrImm _ _ _ => true
  | .sraImm _ _ _ => true
  | .rotImm _ _ _ => true
  | .minImm _ _ _ => true
  | .maxImm _ _ _ => true
  | .cmpImm _ _ _ => true
  | .limm _ _ => true
  | .br c _ => condOk c
  | .jmp _ => true
  | .call _ => true
  | .ret => true
  | .jmpReg _ => true
  | .callReg _ => true
  | .nop => true
  | .halt => true
  | .bkpt _ => true
  | .taskend => true
  | .trap _ => true
  | .eret => true
  | .sysrd _ _ => true
  | .syswr _ _ => true
  | .pause _ => true
  | .yield => true
  | .dsync _ => true
  | .fenceAcq _ => true
  | .fenceRel _ => true
  | .fenceAr _ => true
  | .fenceP _ _ => true
  | .ringWaitf _ _ => true
  | .ringWaite _ _ => true
  | .cadv _ => true
  | .cset _ _ => true
  | .cget _ _ => true
  | .ldB _ _ _ => true
  | .ldH _ _ _ => true
  | .ldW _ _ _ => true
  | .ldD _ _ _ => true
  | .ldBN _ _ _ => true
  | .ldHN _ _ _ => true
  | .ldWN _ _ _ => true
  | .ldWAcq _ _ _ _ => true
  | .ldDAcq _ _ _ _ => true
  | .ldt _ _ l _ => l != 0
  | .pref _ _ => true
  | .stB _ _ _ => true
  | .stH _ _ _ => true
  | .stW _ _ _ => true
  | .stD _ _ _ => true
  | .stWRel _ _ _ _ => true
  | .stDRel _ _ _ _ => true
  | .amoAdd _ _ _ _ => true
  | .amoFadd _ _ _ => true
  | .amoBadd _ _ _ => true
  | .amoBfin _ _ => true
  | .amoMin _ _ _ _ _ => true
  | .amoMax _ _ _ _ _ => true
  | .amoAnd _ _ _ _ => true
  | .amoOr _ _ _ _ => true
  | .amoXor _ _ _ _ => true
  | .amoSwap _ _ _ _ => true
  | .amoCas _ _ _ _ => true
  | .sdef a _ => octetOk a
  | .sgo _ => true
  | .sstop _ => true
  | .sstat _ w _ => w != 3
  | .scrldStream _ _ _ => true
  | .scrldOctet _ _ d => octetOk d
  | .scrstStream _ _ _ => true
  | .scrstOctet _ _ d => octetOk d
  | .ringAdvC _ _ => true
  | .ringAdvP _ _ => true
  | .ringPushA _ _ _ _ => true
  | .ringPushV _ _ _ => true
  | .ringPopA _ _ _ _ => true
  | .ringPopV _ _ _ => true
  | .ringDef _ _ => true
  | .tlook _ _ => true
  | .tset _ _ _ => true
  | .tready _ => true
  | .treadyClr _ => true
  | .tdrop _ => true
  | .vadd d _ _ => tileRoleOk d
  | .vsub d _ _ => tileRoleOk d
  | .vmul d _ _ => tileRoleOk d
  | .vminI d _ _ => tileRoleOk d
  | .vminN d _ _ => tileRoleOk d
  | .vmaxI d _ _ => tileRoleOk d
  | .vmaxN d _ _ => tileRoleOk d
  | .vaddsI d _ _ => tileRoleOk d
  | .vaddsN d _ _ => tileRoleOk d
  | .vsubsI d _ _ => tileRoleOk d
  | .vsubsN d _ _ => tileRoleOk d
  | .vand d _ _ => tileRoleOk d
  | .vor d _ _ => tileRoleOk d
  | .vxor d _ _ => tileRoleOk d
  | .vandn d _ _ => tileRoleOk d
  | .vshl d _ _ => tileRoleOk d
  | .vshr d _ _ => tileRoleOk d
  | .vsra d _ _ => tileRoleOk d
  | .vceq d _ _ => maskRoleOk d
  | .vcltI d _ _ => maskRoleOk d
  | .vcltN d _ _ => maskRoleOk d
  | .vmov d _ => tileRoleOk d
  | .vbcs d a => tileRoleOk d && sRoleOk a
  | .vins d a b => tileRoleOk d && sRoleOk a && sRoleOk b
  | .vext d _ b => sRoleOk d && sRoleOk b
  | .vidx d => tileRoleOk d
  | .dot4S d _ _ => tileRoleOk d
  | .mkAnd d a b => maskRoleOk d && maskRoleOk a && maskRoleOk b
  | .mkOr d a b => maskRoleOk d && maskRoleOk a && maskRoleOk b
  | .mkXor d a b => maskRoleOk d && maskRoleOk a && maskRoleOk b
  | .mkAndn d a b => maskRoleOk d && maskRoleOk a && maskRoleOk b
  | .mkSet d a => maskRoleOk d && sRoleOk a
  | .vfadd d _ _ => tileRoleOk d
  | .vfsub d _ _ => tileRoleOk d
  | .vfmul d _ _ => tileRoleOk d
  | .vfma d _ _ => tileRoleOk d
  | .vfnma d _ _ => tileRoleOk d
  | .vfmin d _ _ => tileRoleOk d
  | .vfmax d _ _ => tileRoleOk d
  | .vfabs d _ => tileRoleOk d
  | .vfneg d _ => tileRoleOk d
  | .vfceq d _ _ => maskRoleOk d
  | .vfclt d _ _ => maskRoleOk d
  | .vfcle d _ _ => maskRoleOk d
  | .vfcun d _ _ => maskRoleOk d
  | .vfmuls d _ b => tileRoleOk d && sRoleOk b
  | .vfadds d _ b => tileRoleOk d && sRoleOk b
  | .rotr d _ b => tileRoleOk d && sRoleOk b
  | .rotc d _ b => tileRoleOk d && sRoleOk b
  | .bcr d _ b => tileRoleOk d && sRoleOk b
  | .bcc d _ b => tileRoleOk d && sRoleOk b
  | .redrFadd d _ => tileRoleOk d
  | .redrFmax d _ => tileRoleOk d
  | .redrFmin d _ => tileRoleOk d
  | .redrAdd d _ => tileRoleOk d
  | .redrMaxI d _ => tileRoleOk d
  | .redrMinI d _ => tileRoleOk d
  | .redrMaxN d _ => tileRoleOk d
  | .redrMinN d _ => tileRoleOk d
  | .redcFadd d _ => tileRoleOk d
  | .redcFmax d _ => tileRoleOk d
  | .redcFmin d _ => tileRoleOk d
  | .redcAdd d _ => tileRoleOk d
  | .redcMaxI d _ => tileRoleOk d
  | .redcMinI d _ => tileRoleOk d
  | .redcMaxN d _ => tileRoleOk d
  | .redcMinN d _ => tileRoleOk d
  | .cvt d _ f p t => cvtOk d f p t
  | .rcpa d _ => tileRoleOk d
  | .rsqa d _ => tileRoleOk d
  | .rcpn d _ _ => tileRoleOk d
  | .rsqn d _ _ => tileRoleOk d
  | .exp2 d _ => tileRoleOk d
  | .log2 d _ => tileRoleOk d
  | .rand d a b => tileRoleOk d && tileRoleOk a && evenOk a && sRoleOk b
  | .vld d a b => tileRoleOk d && sRoleOk a && sRoleOk b
  | .vst d a b => tileRoleOk d && sRoleOk a && sRoleOk b
  | .vgath d a _ => tileRoleOk d && sRoleOk a
  | .vscat d a _ => tileRoleOk d && sRoleOk a
  | .vamoAdd d a _ => tileRoleOk d && sRoleOk a
  | .vamoFadd d a _ => tileRoleOk d && sRoleOk a
  | .vamoMinI d a _ => tileRoleOk d && sRoleOk a
  | .vamoMinN d a _ => tileRoleOk d && sRoleOk a
  | .vamoMaxI d a _ => tileRoleOk d && sRoleOk a
  | .vamoMaxN d a _ => tileRoleOk d && sRoleOk a
  | .vamoAnd d a _ => tileRoleOk d && sRoleOk a
  | .vamoOr d a _ => tileRoleOk d && sRoleOk a
  | .vamoXor d a _ => tileRoleOk d && sRoleOk a
  | .vamoSwap d a _ => tileRoleOk d && sRoleOk a
  | .rowMax _ _ => true
  | .rowExp _ _ => true
  | .rowScl _ _ => true
  | .chain _ => true
  | .mma z _ s => accRoleOk z && sRoleOk s
  | .mmac z _ s => accRoleOk z && sRoleOk s
  | .mloadb _ s => sRoleOk s
  | .mcsum d s => sRoleOk d && sRoleOk s
  | .mseed d a b => sRoleOk d && sRoleOk a && sRoleOk b
  | .mzero z => accRoleOk z
  | .mdrain z a b => accRoleOk z && sRoleOk a && sRoleOk b
  | .mspill z a => accRoleOk z && sRoleOk a
  | .mfill z a => accRoleOk z && sRoleOk a
  | .mstat d => sRoleOk d
  | .mchk d => sRoleOk d
  | .draw a => sRoleOk a
  | .drawW a => sRoleOk a
  | .cpgo _ _ => true
  | .cpwait _ _ => true
  | .cpstat _ _ => true
  | .cpkill _ => true
  | .popen _ _ _ => true
  | .pld _ _ _ m => m != 7
  | .pst _ _ _ _ => true
  | .pstref _ _ _ => true
  | .pmkref _ _ _ => true
  | .pseal _ => true
  | .post _ _ _ => true
  | .precv _ _ _ => true
  | .precvW _ _ _ => true
  | .pfree _ => true
  | .qreq _ _ => true
  | .qstat _ w => w != 7
  | .qwait => true
  | .qresume => true
  | .qarm _ _ => true
  | .qarmClr => true
  | .qhoriz _ j => j.ult 6
  | .settle => true
  | .tlbinv _ _ => true
  | .tlbinvAll => true
  | .tlbsync => true
  | .pgdisc _ _ => true
  | .pgseal _ _ => true
  | .pgsealClr _ => true
  | .tmread d => evenOk d
  | .tmreadRec d => evenOk d
  | .tmset a => evenOk a
  | .tmsetClr => true
  | .planeswRel _ => true
  | .planeswDrop _ => true
  | .planeswHold _ => true
  | .swgstat _ => true
  | .swgstatRec _ _ => true
  | .swgstatHit _ _ => true
  | .swgstatLast _ _ => true
  | .nopC => true
  | .haltC => true
  | .yieldC => true
  | .retC => true
  | .bkptC => true
  | .taskendC => true
  | .movC _ _ => true
  | .addC _ _ => true
  | .subC _ _ => true
  | .andC _ _ => true
  | .orC _ _ => true
  | .xorC _ _ => true
  | .mulC _ _ => true
  | .addCImm _ _ => true
  | .limmC _ _ => true
  | .shlC _ _ => true
  | .shrC _ _ => true
  | .sraC _ _ => true
  | .brC c _ => condOk c
  | .cadvC _ => true
  | .pauseC _ => true
  | .ringWaitfC _ _ => true
  | .ringWaiteC _ _ => true
  | .ringAdvCC _ _ => true
  | .ringAdvPC _ _ => true
  | .ldDC _ _ => true
  | .stDC _ _ => true
  | .cgetC _ _ => true
  | .packageReset _ _ => true
  | .dispatchTakeEntry => true
  | .planeLoadComplete => true
  | .swapTokenFlip => true
  | .taskEnd => true
  | .blockEntry => true
  | .lockstepMeet => true
  | .fetchEndOfCode => true
  | .enterS => true
  | .hearthDelivery => true
  | .fqPop => true
  | .fqPopResume => true
  | .yreqSet => true
  | .yreqClear => true
  | .yieldRequest => true
  | .yieldDeadline => true
  | .budget => true
  | .forcedModeDone => true
  | .pauseExpiry => true
  | .ringStall _ => true
  | .ringWaitSatisfied _ => true
  | .dsyncComplete _ => true
  | .atomicResultReturn _ => true
  | .ldtLanding _ => true
  | .horizonUpdate => true
  | .sideLogPerform _ => true
  | .causalApply _ _ => true
  | .streamSlotFill _ => true
  | .chainPassStart => true
  | .chainPassComplete => true
  | .rowCommandStart => true
  | .rowPhaseEnd _ => true
  | .matrixOpBegin => true
  | .drawGrant => true
  | .ceilChange _ => true
  | .matrixWaveCommit => true
  | .mloadbBlockLoaded => true
  | .followOnMmaJoin _ => true
  | .chainRelease _ => true
  | .engineTakeChain _ => true
  | .chainCopy _ => true
  | .chainRread _ => true
  | .chainRwrite _ => true
  | .chainRreduce _ => true
  | .chainRoute _ => true
  | .chainBarrier _ => true
  | .chainSignal _ => true
  | .chainLoop _ => true
  | .chainCond _ => true
  | .condEngineYield _ => true
  | .condWaitLimit _ => true
  | .chainPost _ => true
  | .chainSealdrain _ => true
  | .chainEnd _ => true
  | .fabricPacketReceive => true
  | .fabricTimeout _ => true
  | .bindNotice _ => true
  | .quenchAccept => true
  | .quenchDrainReport => true
  | .quenchCommit => true
  | .quenchMemberTimeout => true
  | .qarmFire => true
  | .settleApply => true
  | .atsCompletion _ _ _ _ _ => true
  | .atsTimeout _ => true
  | .atsInvalidation _ _ => true
  | .shootdownAck _ => true
  | .demandDrainComplete _ => true
  | .eccCorrected _ => true
  | .uncorrectableError _ => true
  | .eccUncorrected _ _ => true
  | .vPark _ _ => true
  | .vUnpark _ _ => true
  | .mcarryWrite _ => true
  | .qctlPinWrite _ => true
  | .plringReturn _ => true
  | .sysregWrite _ _ => true
  | .mbLoadPatchImage => true
  | .mbContext => true
  | .mbPostBindRecord => true
  | .mbAttestation => true
  | .mbConfigure => true
  | .revokeLentCore => true
  | .revokeCutTimeout => true
  | .vfTeardown _ => true
  | .allowanceReclaim _ => true
  | .circuitReconfigure _ => true
  | .sliceQuantumExpiry => true
  | .linkFlitReceive _ _ => true
  | .thermal95c _ => true
  | .thermal105c => true
  | .reservedSpaceItem _ _ => true
  | .illegalEncodingItem _ _ => true
  | .condWaitSatisfied _ => true
  | .hearthResumeOrAbandon _ => true
  | .hearthRemapRewrite _ _ _ _ _ _ _ => true
  | .slotEntryFree _ _ => true
  | .flitForward _ _ => true
  | .linkReplay _ => true
  | .contextImageWrite => true

end Sys2Proof
end

