-- ==== Sys2Proof/Decode.lean ====
section
/-!
DEFINITION. Decoding (R69 to R78) and, after it, the encoder.

`decode` makes steps 3 and 6 of R77 on one item. Steps 4 and 5 depend on the strand and its level, and steps 7 and 8
on register classes and ranges; the machine makes them when the item issues (Machine/Issue.lean). RING.PUSH and
RING.POP have one word for the A and for the V form (R190), so decoding takes the strand's class.

The functions that build a constructor past the 245th are marked noncomputable only because Lean's code generator
numbers no constructor that holds fields beyond 244; the kernel evaluates them, and Machine/Issue.lean gives compiled code
its own way to the same meanings.
-/
namespace Sys2Proof

/-- Answers `i` where the bits of `mask`, reserved for it (R74), are zero. -/
def reservedZero (w mask : BitVec 32) (i : Instr) : Except DecodeError Instr :=
  if w &&& mask = 0 then .ok i else .error .illegalEncoding

/-- Major 0x00: ALU register form (R136). -/
def decodeAlu (w : BitVec 32) : Except DecodeError Instr :=
  match (w.extractLsb' 0 8).toNat with
  | 0 => .ok (.add (w.extractLsb' 20 6) (w.extractLsb' 14 6) (w.extractLsb' 8 6))
  | 8 => .ok (.sub (w.extractLsb' 20 6) (w.extractLsb' 14 6) (w.extractLsb' 8 6))
  | 16 => .ok (.mul (w.extractLsb' 20 6) (w.extractLsb' 14 6) (w.extractLsb' 8 6))
  | 24 => .ok (.mulhI (w.extractLsb' 20 6) (w.extractLsb' 14 6) (w.extractLsb' 8 6))
  | 25 => .ok (.mulhN (w.extractLsb' 20 6) (w.extractLsb' 14 6) (w.extractLsb' 8 6))
  | 26 => .ok (.mulhIn (w.extractLsb' 20 6) (w.extractLsb' 14 6) (w.extractLsb' 8 6))
  | 32 => .ok (.divI (w.extractLsb' 20 6) (w.extractLsb' 14 6) (w.extractLsb' 8 6))
  | 33 => .ok (.divN (w.extractLsb' 20 6) (w.extractLsb' 14 6) (w.extractLsb' 8 6))
  | 40 => .ok (.remI (w.extractLsb' 20 6) (w.extractLsb' 14 6) (w.extractLsb' 8 6))
  | 41 => .ok (.remN (w.extractLsb' 20 6) (w.extractLsb' 14 6) (w.extractLsb' 8 6))
  | 48 => .ok (.and (w.extractLsb' 20 6) (w.extractLsb' 14 6) (w.extractLsb' 8 6))
  | 56 => .ok (.or (w.extractLsb' 20 6) (w.extractLsb' 14 6) (w.extractLsb' 8 6))
  | 64 => .ok (.xor (w.extractLsb' 20 6) (w.extractLsb' 14 6) (w.extractLsb' 8 6))
  | 72 => .ok (.andn (w.extractLsb' 20 6) (w.extractLsb' 14 6) (w.extractLsb' 8 6))
  | 80 => .ok (.shl (w.extractLsb' 20 6) (w.extractLsb' 14 6) (w.extractLsb' 8 6))
  | 88 => .ok (.shr (w.extractLsb' 20 6) (w.extractLsb' 14 6) (w.extractLsb' 8 6))
  | 96 => .ok (.sra (w.extractLsb' 20 6) (w.extractLsb' 14 6) (w.extractLsb' 8 6))
  | 104 => .ok (.rot (w.extractLsb' 20 6) (w.extractLsb' 14 6) (w.extractLsb' 8 6))
  | 112 => reservedZero w 0x00003F00 (.clz (w.extractLsb' 20 6) (w.extractLsb' 14 6))
  | 120 => reservedZero w 0x00003F00 (.popc (w.extractLsb' 20 6) (w.extractLsb' 14 6))
  | 128 => .ok (.minI (w.extractLsb' 20 6) (w.extractLsb' 14 6) (w.extractLsb' 8 6))
  | 129 => .ok (.minN (w.extractLsb' 20 6) (w.extractLsb' 14 6) (w.extractLsb' 8 6))
  | 136 => .ok (.maxI (w.extractLsb' 20 6) (w.extractLsb' 14 6) (w.extractLsb' 8 6))
  | 137 => .ok (.maxN (w.extractLsb' 20 6) (w.extractLsb' 14 6) (w.extractLsb' 8 6))
  | 144 | 145 | 146 | 147 | 148 | 149 | 150 | 151 => .ok (.sel (w.extractLsb' 20 6) (w.extractLsb' 14 6) (w.extractLsb' 8 6) (w.extractLsb' 0 3))
  | 152 => .ok (.cmp (w.extractLsb' 20 6) (w.extractLsb' 14 6) (w.extractLsb' 8 6))
  | 160 => reservedZero w 0x000FC000 (.mov (w.extractLsb' 20 6) (w.extractLsb' 8 6))
  | 168 => .ok (.add128 (w.extractLsb' 20 6) (w.extractLsb' 14 6) (w.extractLsb' 8 6))
  | _ => .error .illegalEncoding

/-- Major 0x01: ALU immediate form (R138). -/
def decodeAluImm (w : BitVec 32) : Except DecodeError Instr :=
  match (w.extractLsb' 10 4).toNat with
  | 0 => .ok (.addImm (w.extractLsb' 20 6) (w.extractLsb' 14 6) (w.extractLsb' 0 10))
  | 1 => .ok (.subImm (w.extractLsb' 20 6) (w.extractLsb' 14 6) (w.extractLsb' 0 10))
  | 2 => .ok (.mulImm (w.extractLsb' 20 6) (w.extractLsb' 14 6) (w.extractLsb' 0 10))
  | 3 => .ok (.andImm (w.extractLsb' 20 6) (w.extractLsb' 14 6) (w.extractLsb' 0 10))
  | 4 => .ok (.orImm (w.extractLsb' 20 6) (w.extractLsb' 14 6) (w.extractLsb' 0 10))
  | 5 => .ok (.xorImm (w.extractLsb' 20 6) (w.extractLsb' 14 6) (w.extractLsb' 0 10))
  | 6 => .ok (.andnImm (w.extractLsb' 20 6) (w.extractLsb' 14 6) (w.extractLsb' 0 10))
  | 7 => reservedZero w 0x000003C0 (.shlImm (w.extractLsb' 20 6) (w.extractLsb' 14 6) (w.extractLsb' 0 6))
  | 8 => reservedZero w 0x000003C0 (.shrImm (w.extractLsb' 20 6) (w.extractLsb' 14 6) (w.extractLsb' 0 6))
  | 9 => reservedZero w 0x000003C0 (.sraImm (w.extractLsb' 20 6) (w.extractLsb' 14 6) (w.extractLsb' 0 6))
  | 10 => reservedZero w 0x000003C0 (.rotImm (w.extractLsb' 20 6) (w.extractLsb' 14 6) (w.extractLsb' 0 6))
  | 11 => .ok (.minImm (w.extractLsb' 20 6) (w.extractLsb' 14 6) (w.extractLsb' 0 10))
  | 12 => .ok (.maxImm (w.extractLsb' 20 6) (w.extractLsb' 14 6) (w.extractLsb' 0 10))
  | 13 => .ok (.cmpImm (w.extractLsb' 20 6) (w.extractLsb' 14 6) (w.extractLsb' 0 10))
  | _ => .error .illegalEncoding

/-- Major 0x02: LIMM (R138). -/
def decodeLimm (w : BitVec 32) : Except DecodeError Instr :=
  .ok (.limm (w.extractLsb' 20 6) (w.extractLsb' 0 20))

/-- Major 0x03: BR.cond (R140). -/
def decodeBranch (w : BitVec 32) : Except DecodeError Instr :=
  .ok (.br (w.extractLsb' 22 4) (w.extractLsb' 0 22))

/-- Major 0x04: jump, call and return (R141). -/
def decodeJump (w : BitVec 32) : Except DecodeError Instr :=
  match (w.extractLsb' 22 4).toNat with
  | 0 => .ok (.jmp (w.extractLsb' 0 22))
  | 1 => .ok (.call (w.extractLsb' 0 22))
  | 2 => reservedZero w 0x003FFFFF .ret
  | 3 => reservedZero w 0x0020FFFF (.jmpReg (w.extractLsb' 16 5))
  | 4 => reservedZero w 0x0020FFFF (.callReg (w.extractLsb' 16 5))
  | _ => .error .illegalEncoding

/-- Major 0x05: system and trap (R142). -/
def decodeSystem (w : BitVec 32) : Except DecodeError Instr :=
  match (w.extractLsb' 0 8).toNat with
  | 0 => reservedZero w 0x03FFFF00 .nop
  | 8 => reservedZero w 0x03FFFF00 .halt
  | 16 => reservedZero w 0x03F00000 (.bkpt (w.extractLsb' 8 12))
  | 24 => reservedZero w 0x03FFFF00 .taskend
  | 32 => reservedZero w 0x03F00000 (.trap (w.extractLsb' 8 12))
  | 40 => reservedZero w 0x03FFFF00 .eret
  | 48 => reservedZero w 0x000C0000 (.sysrd (w.extractLsb' 20 6) (w.extractLsb' 8 10))
  | 56 => reservedZero w 0x000C0000 (.syswr (w.extractLsb' 20 6) (w.extractLsb' 8 10))
  | _ => .error .illegalEncoding

/-- Major 0x06: PAUSE, YIELD, DSYNC, FENCE, ring waits (R147). -/
def decodeSync (w : BitVec 32) : Except DecodeError Instr :=
  match (w.extractLsb' 0 3).toNat with
  | 0 => reservedZero w 0x03F80000 (.pause (w.extractLsb' 3 16))
  | 1 => reservedZero w 0x03FFFFF8 .yield
  | 2 => reservedZero w 0x03FFFFC0 (.dsync (w.extractLsb' 3 3))
  | 3 =>
    match (w.extractLsb' 3 2).toNat with
    | 1 => reservedZero w 0x03FFFF00 (.fenceAcq (w.extractLsb' 5 3))
    | 2 => reservedZero w 0x03FFFF00 (.fenceRel (w.extractLsb' 5 3))
    | 3 => reservedZero w 0x03FFFF00 (.fenceAr (w.extractLsb' 5 3))
    | _ => .error .illegalEncoding
  | 4 => reservedZero w 0x03FFE000 (.fenceP (w.extractLsb' 8 5) (w.extractLsb' 3 5))
  | 5 => reservedZero w 0x00000FF8 (.ringWaitf (w.extractLsb' 22 4) (w.extractLsb' 12 10))
  | 6 => reservedZero w 0x00000FF8 (.ringWaite (w.extractLsb' 22 4) (w.extractLsb' 12 10))
  | _ => .error .illegalEncoding

/-- Major 0x07: coordinates (R152). -/
def decodeCoord (w : BitVec 32) : Except DecodeError Instr :=
  match (w.extractLsb' 0 3).toNat with
  | 0 => reservedZero w 0x03FFFFC0 (.cadv (w.extractLsb' 3 3))
  | 1 => reservedZero w 0x000FFFC0 (.cset (w.extractLsb' 20 6) (w.extractLsb' 3 3))
  | 2 => reservedZero w 0x000FFFC0 (.cget (w.extractLsb' 20 6) (w.extractLsb' 3 3))
  | _ => .error .illegalEncoding

/-- Major 0x08: scalar load (R173). -/
def decodeLoad (w : BitVec 32) : Except DecodeError Instr :=
  match (w.extractLsb' 10 4).toNat with
  | 0 => .ok (.ldB (w.extractLsb' 20 6) (w.extractLsb' 14 6) (w.extractLsb' 0 10))
  | 1 => .ok (.ldH (w.extractLsb' 20 6) (w.extractLsb' 14 6) (w.extractLsb' 0 10))
  | 2 => .ok (.ldW (w.extractLsb' 20 6) (w.extractLsb' 14 6) (w.extractLsb' 0 10))
  | 3 => .ok (.ldD (w.extractLsb' 20 6) (w.extractLsb' 14 6) (w.extractLsb' 0 10))
  | 4 => .ok (.ldBN (w.extractLsb' 20 6) (w.extractLsb' 14 6) (w.extractLsb' 0 10))
  | 5 => .ok (.ldHN (w.extractLsb' 20 6) (w.extractLsb' 14 6) (w.extractLsb' 0 10))
  | 6 => .ok (.ldWN (w.extractLsb' 20 6) (w.extractLsb' 14 6) (w.extractLsb' 0 10))
  | 7 => .ok (.ldWAcq (w.extractLsb' 20 6) (w.extractLsb' 14 6) (w.extractLsb' 7 3) (w.extractLsb' 0 7))
  | 8 => .ok (.ldDAcq (w.extractLsb' 20 6) (w.extractLsb' 14 6) (w.extractLsb' 7 3) (w.extractLsb' 0 7))
  | 9 => .ok (.ldt (w.extractLsb' 20 6) (w.extractLsb' 14 6) (w.extractLsb' 7 3) (w.extractLsb' 0 7))
  | 10 => reservedZero w 0x03F00000 (.pref (w.extractLsb' 14 6) (w.extractLsb' 0 10))
  | _ => .error .illegalEncoding

/-- Major 0x09: scalar store (R178). -/
def decodeStore (w : BitVec 32) : Except DecodeError Instr :=
  match (w.extractLsb' 10 4).toNat with
  | 0 => .ok (.stB (w.extractLsb' 20 6) (w.extractLsb' 14 6) (w.extractLsb' 0 10))
  | 1 => .ok (.stH (w.extractLsb' 20 6) (w.extractLsb' 14 6) (w.extractLsb' 0 10))
  | 2 => .ok (.stW (w.extractLsb' 20 6) (w.extractLsb' 14 6) (w.extractLsb' 0 10))
  | 3 => .ok (.stD (w.extractLsb' 20 6) (w.extractLsb' 14 6) (w.extractLsb' 0 10))
  | 4 => .ok (.stWRel (w.extractLsb' 20 6) (w.extractLsb' 14 6) (w.extractLsb' 7 3) (w.extractLsb' 0 7))
  | 5 => .ok (.stDRel (w.extractLsb' 20 6) (w.extractLsb' 14 6) (w.extractLsb' 7 3) (w.extractLsb' 0 7))
  | _ => .error .illegalEncoding

/-- Major 0x0A: atomics (R180). -/
def decodeAtomic (w : BitVec 32) : Except DecodeError Instr :=
  match (w.extractLsb' 0 8).toNat with
  | 0 | 1 => .ok (.amoAdd (w.extractLsb' 20 6) (w.extractLsb' 14 6) (w.extractLsb' 8 6) (w.extractLsb' 0 1))
  | 8 => .ok (.amoFadd (w.extractLsb' 20 6) (w.extractLsb' 14 6) (w.extractLsb' 8 6))
  | 16 => .ok (.amoBadd (w.extractLsb' 20 6) (w.extractLsb' 14 6) (w.extractLsb' 8 6))
  | 24 => reservedZero w 0x00003F00 (.amoBfin (w.extractLsb' 20 6) (w.extractLsb' 14 6))
  | 32 | 33 | 34 | 35 => .ok (.amoMin (w.extractLsb' 20 6) (w.extractLsb' 14 6) (w.extractLsb' 8 6) (w.extractLsb' 1 1) (w.extractLsb' 0 1))
  | 40 | 41 | 42 | 43 => .ok (.amoMax (w.extractLsb' 20 6) (w.extractLsb' 14 6) (w.extractLsb' 8 6) (w.extractLsb' 1 1) (w.extractLsb' 0 1))
  | 48 | 49 => .ok (.amoAnd (w.extractLsb' 20 6) (w.extractLsb' 14 6) (w.extractLsb' 8 6) (w.extractLsb' 0 1))
  | 56 | 57 => .ok (.amoOr (w.extractLsb' 20 6) (w.extractLsb' 14 6) (w.extractLsb' 8 6) (w.extractLsb' 0 1))
  | 64 | 65 => .ok (.amoXor (w.extractLsb' 20 6) (w.extractLsb' 14 6) (w.extractLsb' 8 6) (w.extractLsb' 0 1))
  | 72 | 73 => .ok (.amoSwap (w.extractLsb' 20 6) (w.extractLsb' 14 6) (w.extractLsb' 8 6) (w.extractLsb' 0 1))
  | 80 | 81 => .ok (.amoCas (w.extractLsb' 20 6) (w.extractLsb' 14 6) (w.extractLsb' 8 6) (w.extractLsb' 0 1))
  | _ => .error .illegalEncoding

/-- Major 0x0B: streams (R184). -/
def decodeStream (w : BitVec 32) : Except DecodeError Instr :=
  match (w.extractLsb' 0 3).toNat with
  | 0 => reservedZero w 0x000FFF80 (.sdef (w.extractLsb' 20 6) (w.extractLsb' 3 4))
  | 1 => reservedZero w 0x03FFFF80 (.sgo (w.extractLsb' 3 4))
  | 2 => reservedZero w 0x03FFFF80 (.sstop (w.extractLsb' 3 4))
  | 3 => reservedZero w 0x000FFE00 (.sstat (w.extractLsb' 20 6) (w.extractLsb' 7 2) (w.extractLsb' 3 4))
  | 4 => if w.extractLsb' 9 1 = 1 then reservedZero w 0x00000180 (.scrldStream (w.extractLsb' 20 6) (w.extractLsb' 10 10) (w.extractLsb' 3 4))
           else .ok (.scrldOctet (w.extractLsb' 20 6) (w.extractLsb' 10 10) (w.extractLsb' 3 6))
  | 5 => if w.extractLsb' 9 1 = 1 then reservedZero w 0x00000180 (.scrstStream (w.extractLsb' 20 6) (w.extractLsb' 10 10) (w.extractLsb' 3 4))
           else .ok (.scrstOctet (w.extractLsb' 20 6) (w.extractLsb' 10 10) (w.extractLsb' 3 6))
  | _ => .error .illegalEncoding

/-- Major 0x0C: ring advances, pushes and pops (R190). -/
def decodeRing (c : StrandId) (w : BitVec 32) : Except DecodeError Instr :=
  match (w.extractLsb' 0 3).toNat with
  | 0 => reservedZero w 0x00000FF8 (.ringAdvC (w.extractLsb' 22 4) (w.extractLsb' 12 10))
  | 1 => reservedZero w 0x00000FF8 (.ringAdvP (w.extractLsb' 22 4) (w.extractLsb' 12 10))
  | 2 => if c = .V then reservedZero w 0x003FF800 (.ringPushV (w.extractLsb' 22 4) (w.extractLsb' 9 2) (w.extractLsb' 3 6))
           else reservedZero w 0x00000800 (.ringPushA (w.extractLsb' 22 4) (w.extractLsb' 12 10) (w.extractLsb' 9 2) (w.extractLsb' 3 6))
  | 3 => if c = .V then reservedZero w 0x003FF800 (.ringPopV (w.extractLsb' 22 4) (w.extractLsb' 9 2) (w.extractLsb' 3 6))
           else reservedZero w 0x00000800 (.ringPopA (w.extractLsb' 22 4) (w.extractLsb' 12 10) (w.extractLsb' 9 2) (w.extractLsb' 3 6))
  | 4 => reservedZero w 0x003FFE00 (.ringDef (w.extractLsb' 22 4) (w.extractLsb' 3 6))
  | _ => .error .illegalEncoding

/-- Major 0x0D: tag table (R195). -/
def decodeTag (w : BitVec 32) : Except DecodeError Instr :=
  match (w.extractLsb' 0 8).toNat with
  | 0 => reservedZero w 0x00003F00 (.tlook (w.extractLsb' 20 6) (w.extractLsb' 14 6))
  | 8 => .ok (.tset (w.extractLsb' 20 6) (w.extractLsb' 14 6) (w.extractLsb' 8 6))
  | 16 => reservedZero w 0x03F03F00 (.tready (w.extractLsb' 14 6))
  | 17 => reservedZero w 0x03F03F00 (.treadyClr (w.extractLsb' 14 6))
  | 24 => reservedZero w 0x03F03F00 (.tdrop (w.extractLsb' 14 6))
  | _ => .error .illegalEncoding

/-- Major 0x0E: vector integer (R216). -/
def decodeVecInt (w : BitVec 32) : Except DecodeError Instr :=
  match (w.extractLsb' 0 5).toNat with
  | 0 => .ok (.vadd (w.extractLsb' 19 7) (w.extractLsb' 12 7) (w.extractLsb' 5 7))
  | 1 => .ok (.vsub (w.extractLsb' 19 7) (w.extractLsb' 12 7) (w.extractLsb' 5 7))
  | 2 => .ok (.vmul (w.extractLsb' 19 7) (w.extractLsb' 12 7) (w.extractLsb' 5 7))
  | 3 => .ok (.vminI (w.extractLsb' 19 7) (w.extractLsb' 12 7) (w.extractLsb' 5 7))
  | 4 => .ok (.vminN (w.extractLsb' 19 7) (w.extractLsb' 12 7) (w.extractLsb' 5 7))
  | 5 => .ok (.vmaxI (w.extractLsb' 19 7) (w.extractLsb' 12 7) (w.extractLsb' 5 7))
  | 6 => .ok (.vmaxN (w.extractLsb' 19 7) (w.extractLsb' 12 7) (w.extractLsb' 5 7))
  | 7 => .ok (.vaddsI (w.extractLsb' 19 7) (w.extractLsb' 12 7) (w.extractLsb' 5 7))
  | 8 => .ok (.vaddsN (w.extractLsb' 19 7) (w.extractLsb' 12 7) (w.extractLsb' 5 7))
  | 9 => .ok (.vsubsI (w.extractLsb' 19 7) (w.extractLsb' 12 7) (w.extractLsb' 5 7))
  | 10 => .ok (.vsubsN (w.extractLsb' 19 7) (w.extractLsb' 12 7) (w.extractLsb' 5 7))
  | 11 => .ok (.vand (w.extractLsb' 19 7) (w.extractLsb' 12 7) (w.extractLsb' 5 7))
  | 12 => .ok (.vor (w.extractLsb' 19 7) (w.extractLsb' 12 7) (w.extractLsb' 5 7))
  | 13 => .ok (.vxor (w.extractLsb' 19 7) (w.extractLsb' 12 7) (w.extractLsb' 5 7))
  | 14 => .ok (.vandn (w.extractLsb' 19 7) (w.extractLsb' 12 7) (w.extractLsb' 5 7))
  | 15 => .ok (.vshl (w.extractLsb' 19 7) (w.extractLsb' 12 7) (w.extractLsb' 5 7))
  | 16 => .ok (.vshr (w.extractLsb' 19 7) (w.extractLsb' 12 7) (w.extractLsb' 5 7))
  | 17 => .ok (.vsra (w.extractLsb' 19 7) (w.extractLsb' 12 7) (w.extractLsb' 5 7))
  | 18 => .ok (.vceq (w.extractLsb' 19 7) (w.extractLsb' 12 7) (w.extractLsb' 5 7))
  | 19 => .ok (.vcltI (w.extractLsb' 19 7) (w.extractLsb' 12 7) (w.extractLsb' 5 7))
  | 20 => .ok (.vcltN (w.extractLsb' 19 7) (w.extractLsb' 12 7) (w.extractLsb' 5 7))
  | 21 => reservedZero w 0x00000FE0 (.vmov (w.extractLsb' 19 7) (w.extractLsb' 12 7))
  | 22 => reservedZero w 0x00000FE0 (.vbcs (w.extractLsb' 19 7) (w.extractLsb' 12 7))
  | 23 => .ok (.vins (w.extractLsb' 19 7) (w.extractLsb' 12 7) (w.extractLsb' 5 7))
  | 24 => .ok (.vext (w.extractLsb' 19 7) (w.extractLsb' 12 7) (w.extractLsb' 5 7))
  | 25 => reservedZero w 0x0007FFE0 (.vidx (w.extractLsb' 19 7))
  | 26 => .ok (.dot4S (w.extractLsb' 19 7) (w.extractLsb' 12 7) (w.extractLsb' 5 7))
  | 27 => .ok (.mkAnd (w.extractLsb' 19 7) (w.extractLsb' 12 7) (w.extractLsb' 5 7))
  | 28 => .ok (.mkOr (w.extractLsb' 19 7) (w.extractLsb' 12 7) (w.extractLsb' 5 7))
  | 29 => .ok (.mkXor (w.extractLsb' 19 7) (w.extractLsb' 12 7) (w.extractLsb' 5 7))
  | 30 => .ok (.mkAndn (w.extractLsb' 19 7) (w.extractLsb' 12 7) (w.extractLsb' 5 7))
  | 31 => reservedZero w 0x00000FE0 (.mkSet (w.extractLsb' 19 7) (w.extractLsb' 12 7))
  | _ => .error .illegalEncoding

/-- Major 0x0F: vector float (R219). -/
def decodeVecFloat (w : BitVec 32) : Except DecodeError Instr :=
  match (w.extractLsb' 0 5).toNat with
  | 0 => .ok (.vfadd (w.extractLsb' 19 7) (w.extractLsb' 12 7) (w.extractLsb' 5 7))
  | 1 => .ok (.vfsub (w.extractLsb' 19 7) (w.extractLsb' 12 7) (w.extractLsb' 5 7))
  | 2 => .ok (.vfmul (w.extractLsb' 19 7) (w.extractLsb' 12 7) (w.extractLsb' 5 7))
  | 3 => .ok (.vfma (w.extractLsb' 19 7) (w.extractLsb' 12 7) (w.extractLsb' 5 7))
  | 4 => .ok (.vfnma (w.extractLsb' 19 7) (w.extractLsb' 12 7) (w.extractLsb' 5 7))
  | 5 => .ok (.vfmin (w.extractLsb' 19 7) (w.extractLsb' 12 7) (w.extractLsb' 5 7))
  | 6 => .ok (.vfmax (w.extractLsb' 19 7) (w.extractLsb' 12 7) (w.extractLsb' 5 7))
  | 7 => reservedZero w 0x00000FE0 (.vfabs (w.extractLsb' 19 7) (w.extractLsb' 12 7))
  | 8 => reservedZero w 0x00000FE0 (.vfneg (w.extractLsb' 19 7) (w.extractLsb' 12 7))
  | 9 => .ok (.vfceq (w.extractLsb' 19 7) (w.extractLsb' 12 7) (w.extractLsb' 5 7))
  | 10 => .ok (.vfclt (w.extractLsb' 19 7) (w.extractLsb' 12 7) (w.extractLsb' 5 7))
  | 11 => .ok (.vfcle (w.extractLsb' 19 7) (w.extractLsb' 12 7) (w.extractLsb' 5 7))
  | 12 => .ok (.vfcun (w.extractLsb' 19 7) (w.extractLsb' 12 7) (w.extractLsb' 5 7))
  | 13 => .ok (.vfmuls (w.extractLsb' 19 7) (w.extractLsb' 12 7) (w.extractLsb' 5 7))
  | 14 => .ok (.vfadds (w.extractLsb' 19 7) (w.extractLsb' 12 7) (w.extractLsb' 5 7))
  | _ => .error .illegalEncoding

/-- Major 0x10: vector axis operations (R221). -/
def decodeVecAxis (w : BitVec 32) : Except DecodeError Instr :=
  match (w.extractLsb' 0 5).toNat with
  | 0 => .ok (.rotr (w.extractLsb' 19 7) (w.extractLsb' 12 7) (w.extractLsb' 5 7))
  | 1 => .ok (.rotc (w.extractLsb' 19 7) (w.extractLsb' 12 7) (w.extractLsb' 5 7))
  | 2 => .ok (.bcr (w.extractLsb' 19 7) (w.extractLsb' 12 7) (w.extractLsb' 5 7))
  | 3 => .ok (.bcc (w.extractLsb' 19 7) (w.extractLsb' 12 7) (w.extractLsb' 5 7))
  | 4 => reservedZero w 0x00000FE0 (.redrFadd (w.extractLsb' 19 7) (w.extractLsb' 12 7))
  | 5 => reservedZero w 0x00000FE0 (.redrFmax (w.extractLsb' 19 7) (w.extractLsb' 12 7))
  | 6 => reservedZero w 0x00000FE0 (.redrFmin (w.extractLsb' 19 7) (w.extractLsb' 12 7))
  | 7 => reservedZero w 0x00000FE0 (.redrAdd (w.extractLsb' 19 7) (w.extractLsb' 12 7))
  | 8 => reservedZero w 0x00000FE0 (.redrMaxI (w.extractLsb' 19 7) (w.extractLsb' 12 7))
  | 9 => reservedZero w 0x00000FE0 (.redrMinI (w.extractLsb' 19 7) (w.extractLsb' 12 7))
  | 10 => reservedZero w 0x00000FE0 (.redrMaxN (w.extractLsb' 19 7) (w.extractLsb' 12 7))
  | 11 => reservedZero w 0x00000FE0 (.redrMinN (w.extractLsb' 19 7) (w.extractLsb' 12 7))
  | 12 => reservedZero w 0x00000FE0 (.redcFadd (w.extractLsb' 19 7) (w.extractLsb' 12 7))
  | 13 => reservedZero w 0x00000FE0 (.redcFmax (w.extractLsb' 19 7) (w.extractLsb' 12 7))
  | 14 => reservedZero w 0x00000FE0 (.redcFmin (w.extractLsb' 19 7) (w.extractLsb' 12 7))
  | 15 => reservedZero w 0x00000FE0 (.redcAdd (w.extractLsb' 19 7) (w.extractLsb' 12 7))
  | 16 => reservedZero w 0x00000FE0 (.redcMaxI (w.extractLsb' 19 7) (w.extractLsb' 12 7))
  | 17 => reservedZero w 0x00000FE0 (.redcMinI (w.extractLsb' 19 7) (w.extractLsb' 12 7))
  | 18 => reservedZero w 0x00000FE0 (.redcMaxN (w.extractLsb' 19 7) (w.extractLsb' 12 7))
  | 19 => reservedZero w 0x00000FE0 (.redcMinN (w.extractLsb' 19 7) (w.extractLsb' 12 7))
  | _ => .error .illegalEncoding

/-- Major 0x11: CVT (R223). -/
def decodeConvert (w : BitVec 32) : Except DecodeError Instr :=
  reservedZero w 0x00000010 (.cvt (w.extractLsb' 19 7) (w.extractLsb' 12 7) (w.extractLsb' 8 4) (w.extractLsb' 5 3) (w.extractLsb' 0 4))

/-- Major 0x12: special functions (R225). -/
def decodeSpecial (w : BitVec 32) : Except DecodeError Instr :=
  match (w.extractLsb' 0 5).toNat with
  | 0 => reservedZero w 0x00000FE0 (.rcpa (w.extractLsb' 19 7) (w.extractLsb' 12 7))
  | 1 => reservedZero w 0x00000FE0 (.rsqa (w.extractLsb' 19 7) (w.extractLsb' 12 7))
  | 2 => .ok (.rcpn (w.extractLsb' 19 7) (w.extractLsb' 12 7) (w.extractLsb' 5 7))
  | 3 => .ok (.rsqn (w.extractLsb' 19 7) (w.extractLsb' 12 7) (w.extractLsb' 5 7))
  | 4 => reservedZero w 0x00000FE0 (.exp2 (w.extractLsb' 19 7) (w.extractLsb' 12 7))
  | 5 => reservedZero w 0x00000FE0 (.log2 (w.extractLsb' 19 7) (w.extractLsb' 12 7))
  | 6 => .ok (.rand (w.extractLsb' 19 7) (w.extractLsb' 12 7) (w.extractLsb' 5 7))
  | _ => .error .illegalEncoding

/-- Major 0x13: vector memory and atomics (R230). -/
def decodeVecMem (w : BitVec 32) : Except DecodeError Instr :=
  match (w.extractLsb' 0 5).toNat with
  | 0 => .ok (.vld (w.extractLsb' 19 7) (w.extractLsb' 12 7) (w.extractLsb' 5 7))
  | 1 => .ok (.vst (w.extractLsb' 19 7) (w.extractLsb' 12 7) (w.extractLsb' 5 7))
  | 2 => .ok (.vgath (w.extractLsb' 19 7) (w.extractLsb' 12 7) (w.extractLsb' 5 7))
  | 3 => .ok (.vscat (w.extractLsb' 19 7) (w.extractLsb' 12 7) (w.extractLsb' 5 7))
  | 4 => .ok (.vamoAdd (w.extractLsb' 19 7) (w.extractLsb' 12 7) (w.extractLsb' 5 7))
  | 5 => .ok (.vamoFadd (w.extractLsb' 19 7) (w.extractLsb' 12 7) (w.extractLsb' 5 7))
  | 6 => .ok (.vamoMinI (w.extractLsb' 19 7) (w.extractLsb' 12 7) (w.extractLsb' 5 7))
  | 7 => .ok (.vamoMinN (w.extractLsb' 19 7) (w.extractLsb' 12 7) (w.extractLsb' 5 7))
  | 8 => .ok (.vamoMaxI (w.extractLsb' 19 7) (w.extractLsb' 12 7) (w.extractLsb' 5 7))
  | 9 => .ok (.vamoMaxN (w.extractLsb' 19 7) (w.extractLsb' 12 7) (w.extractLsb' 5 7))
  | 10 => .ok (.vamoAnd (w.extractLsb' 19 7) (w.extractLsb' 12 7) (w.extractLsb' 5 7))
  | 11 => .ok (.vamoOr (w.extractLsb' 19 7) (w.extractLsb' 12 7) (w.extractLsb' 5 7))
  | 12 => .ok (.vamoXor (w.extractLsb' 19 7) (w.extractLsb' 12 7) (w.extractLsb' 5 7))
  | 13 => .ok (.vamoSwap (w.extractLsb' 19 7) (w.extractLsb' 12 7) (w.extractLsb' 5 7))
  | _ => .error .illegalEncoding

/-- Major 0x14: row engine and CHAIN (R234). -/
def decodeEngine (w : BitVec 32) : Except DecodeError Instr :=
  match (w.extractLsb' 0 3).toNat with
  | 0 => .ok (.rowMax (w.extractLsb' 20 6) (w.extractLsb' 3 17))
  | 1 => .ok (.rowExp (w.extractLsb' 20 6) (w.extractLsb' 3 17))
  | 2 => .ok (.rowScl (w.extractLsb' 20 6) (w.extractLsb' 3 17))
  | 3 => reservedZero w 0x000FFFF8 (.chain (w.extractLsb' 20 6))
  | _ => .error .illegalEncoding

/-- Major 0x15: MMA and MMAC (R274). -/
def decodeMma (w : BitVec 32) : Except DecodeError Instr :=
  match (w.extractLsb' 0 5).toNat with
  | 0 => .ok (.mma (w.extractLsb' 19 7) (w.extractLsb' 12 7) (w.extractLsb' 5 7))
  | 1 => .ok (.mmac (w.extractLsb' 19 7) (w.extractLsb' 12 7) (w.extractLsb' 5 7))
  | _ => .error .illegalEncoding

/-- Major 0x16: macro load, checksum and seed (R269). -/
def decodeMacro (w : BitVec 32) : Except DecodeError Instr :=
  match (w.extractLsb' 0 5).toNat with
  | 0 => reservedZero w 0x03F80000 (.mloadb (w.extractLsb' 12 7) (w.extractLsb' 5 7))
  | 1 => reservedZero w 0x0007F000 (.mcsum (w.extractLsb' 19 7) (w.extractLsb' 5 7))
  | 2 => .ok (.mseed (w.extractLsb' 19 7) (w.extractLsb' 12 7) (w.extractLsb' 5 7))
  | _ => .error .illegalEncoding

/-- Major 0x17: accumulator moves (R279). -/
def decodeAccum (w : BitVec 32) : Except DecodeError Instr :=
  match (w.extractLsb' 0 5).toNat with
  | 0 => reservedZero w 0x0007FFE0 (.mzero (w.extractLsb' 19 7))
  | 1 => .ok (.mdrain (w.extractLsb' 19 7) (w.extractLsb' 12 7) (w.extractLsb' 5 7))
  | 2 => reservedZero w 0x00000FE0 (.mspill (w.extractLsb' 19 7) (w.extractLsb' 12 7))
  | 3 => reservedZero w 0x00000FE0 (.mfill (w.extractLsb' 19 7) (w.extractLsb' 12 7))
  | 4 => reservedZero w 0x0007FFE0 (.mstat (w.extractLsb' 19 7))
  | 5 => reservedZero w 0x0007FFE0 (.mchk (w.extractLsb' 19 7))
  | 6 => reservedZero w 0x03F80FE0 (.draw (w.extractLsb' 12 7))
  | 7 => reservedZero w 0x03F80FE0 (.drawW (w.extractLsb' 12 7))
  | _ => .error .illegalEncoding

/-- Major 0x18: copy issue (R292). -/
def decodeCopy (w : BitVec 32) : Except DecodeError Instr :=
  match (w.extractLsb' 0 3).toNat with
  | 0 => reservedZero w 0x000FFE00 (.cpgo (w.extractLsb' 20 6) (w.extractLsb' 3 6))
  | 1 => reservedZero w 0x000FFE00 (.cpwait (w.extractLsb' 20 6) (w.extractLsb' 3 6))
  | 2 => reservedZero w 0x000FFE00 (.cpstat (w.extractLsb' 20 6) (w.extractLsb' 3 6))
  | 3 => reservedZero w 0x000FFFF8 (.cpkill (w.extractLsb' 20 6))
  | _ => .error .illegalEncoding

/-- Major 0x19: parcels (R321). -/
def decodeParcel (w : BitVec 32) : Except DecodeError Instr :=
  match (w.extractLsb' 0 8).toNat with
  | 0 => .ok (.popen (w.extractLsb' 20 6) (w.extractLsb' 14 6) (w.extractLsb' 8 6))
  | 8 | 9 | 10 | 11 | 12 | 13 | 14 => .ok (.pld (w.extractLsb' 20 6) (w.extractLsb' 14 6) (w.extractLsb' 8 6) (w.extractLsb' 0 3))
  | 16 | 17 | 18 | 19 => .ok (.pst (w.extractLsb' 20 6) (w.extractLsb' 14 6) (w.extractLsb' 8 6) (w.extractLsb' 0 2))
  | 24 => .ok (.pstref (w.extractLsb' 20 6) (w.extractLsb' 14 6) (w.extractLsb' 8 6))
  | 32 => .ok (.pmkref (w.extractLsb' 20 6) (w.extractLsb' 14 6) (w.extractLsb' 8 6))
  | 40 => reservedZero w 0x03F03F00 (.pseal (w.extractLsb' 14 6))
  | 48 => .ok (.post (w.extractLsb' 20 6) (w.extractLsb' 14 6) (w.extractLsb' 8 6))
  | 56 => .ok (.precv (w.extractLsb' 20 6) (w.extractLsb' 14 6) (w.extractLsb' 8 6))
  | 57 => .ok (.precvW (w.extractLsb' 20 6) (w.extractLsb' 14 6) (w.extractLsb' 8 6))
  | 64 => reservedZero w 0x03F03F00 (.pfree (w.extractLsb' 14 6))
  | _ => .error .illegalEncoding

/-- Major 0x1A: quench (R344). -/
def decodeQuench (w : BitVec 32) : Except DecodeError Instr :=
  match (w.extractLsb' 0 3).toNat with
  | 0 => reservedZero w 0x000FFFC0 (.qreq (w.extractLsb' 20 6) (w.extractLsb' 3 3))
  | 1 => reservedZero w 0x000FFFC0 (.qstat (w.extractLsb' 20 6) (w.extractLsb' 3 3))
  | 2 => reservedZero w 0x03FFFFF8 .qwait
  | 3 => reservedZero w 0x03FFFFF8 .qresume
  | 4 => if w.extractLsb' 6 1 = 1 then reservedZero w 0x03FFFFB8 .qarmClr
           else reservedZero w 0x000FFF80 (.qarm (w.extractLsb' 20 6) (w.extractLsb' 3 3))
  | 5 => reservedZero w 0x000FFFC0 (.qhoriz (w.extractLsb' 20 6) (w.extractLsb' 3 3))
  | 6 => reservedZero w 0x03FFFFF8 .settle
  | _ => .error .illegalEncoding

/-- Major 0x1B: privileged (R379, R395, R405). -/
noncomputable def decodePrivileged (w : BitVec 32) : Except DecodeError Instr :=
  match (w.extractLsb' 0 8).toNat with
  | 0 => reservedZero w 0x03F00000 (.tlbinv (w.extractLsb' 14 6) (w.extractLsb' 8 6))
  | 1 => reservedZero w 0x03FFFF00 .tlbinvAll
  | 8 => reservedZero w 0x03FFFF00 .tlbsync
  | 16 => reservedZero w 0x03F00000 (.pgdisc (w.extractLsb' 14 6) (w.extractLsb' 8 6))
  | 24 => reservedZero w 0x00003F00 (.pgseal (w.extractLsb' 20 6) (w.extractLsb' 14 6))
  | 25 => reservedZero w 0x03F03F00 (.pgsealClr (w.extractLsb' 14 6))
  | 32 => reservedZero w 0x000FFF00 (.tmread (w.extractLsb' 20 6))
  | 33 => reservedZero w 0x000FFF00 (.tmreadRec (w.extractLsb' 20 6))
  | 40 => reservedZero w 0x03F03F00 (.tmset (w.extractLsb' 14 6))
  | 41 => reservedZero w 0x03FFFF00 .tmsetClr
  | 48 => reservedZero w 0x000FFF00 (.planeswRel (w.extractLsb' 20 6))
  | 49 => reservedZero w 0x000FFF00 (.planeswDrop (w.extractLsb' 20 6))
  | 50 => reservedZero w 0x000FFF00 (.planeswHold (w.extractLsb' 20 6))
  | 56 => reservedZero w 0x000FFF00 (.swgstat (w.extractLsb' 20 6))
  | 57 => reservedZero w 0x00003F00 (.swgstatRec (w.extractLsb' 20 6) (w.extractLsb' 14 6))
  | 58 => reservedZero w 0x00003F00 (.swgstatHit (w.extractLsb' 20 6) (w.extractLsb' 14 6))
  | 59 => reservedZero w 0x00003F00 (.swgstatLast (w.extractLsb' 20 6) (w.extractLsb' 14 6))
  | _ => .error .illegalEncoding

/-- Compact items (R75, R76): the compact major is bits [14:10]. -/
noncomputable def decodeCompact (h : BitVec 16) : Except DecodeError Instr :=
  match (h.extractLsb' 10 5).toNat with
  | 0 =>
    match (h.extractLsb' 0 10).toNat with
    | 0 => .ok .nopC
    | 1 => .ok .haltC
    | 2 => .ok .yieldC
    | 3 => .ok .retC
    | 4 => .ok .bkptC
    | 5 => .ok .taskendC
    | _ => .error .illegalEncoding
  | 1 => .ok (.movC (h.extractLsb' 5 5) (h.extractLsb' 0 5))
  | 2 => .ok (.addC (h.extractLsb' 5 5) (h.extractLsb' 0 5))
  | 3 => .ok (.subC (h.extractLsb' 5 5) (h.extractLsb' 0 5))
  | 4 => .ok (.andC (h.extractLsb' 5 5) (h.extractLsb' 0 5))
  | 5 => .ok (.orC (h.extractLsb' 5 5) (h.extractLsb' 0 5))
  | 6 => .ok (.xorC (h.extractLsb' 5 5) (h.extractLsb' 0 5))
  | 7 => .ok (.mulC (h.extractLsb' 5 5) (h.extractLsb' 0 5))
  | 8 => .ok (.addCImm (h.extractLsb' 5 5) (h.extractLsb' 0 5))
  | 9 => .ok (.limmC (h.extractLsb' 5 5) (h.extractLsb' 0 5))
  | 10 => .ok (.shlC (h.extractLsb' 5 5) (h.extractLsb' 0 5))
  | 11 => .ok (.shrC (h.extractLsb' 5 5) (h.extractLsb' 0 5))
  | 12 => .ok (.sraC (h.extractLsb' 5 5) (h.extractLsb' 0 5))
  | 13 => .ok (.brC (h.extractLsb' 6 4) (h.extractLsb' 0 6))
  | 14 => if h &&& 0x03F8 = 0 then .ok (.cadvC (h.extractLsb' 0 3)) else .error .illegalEncoding
  | 15 => .ok (.pauseC (h.extractLsb' 0 10))
  | 16 => .ok (.ringWaitfC (h.extractLsb' 6 4) (h.extractLsb' 0 6))
  | 17 => .ok (.ringWaiteC (h.extractLsb' 6 4) (h.extractLsb' 0 6))
  | 18 => .ok (.ringAdvCC (h.extractLsb' 6 4) (h.extractLsb' 0 6))
  | 19 => .ok (.ringAdvPC (h.extractLsb' 6 4) (h.extractLsb' 0 6))
  | 20 => .ok (.ldDC (h.extractLsb' 5 5) (h.extractLsb' 0 5))
  | 21 => .ok (.stDC (h.extractLsb' 5 5) (h.extractLsb' 0 5))
  | 22 => if h &&& 0x0018 = 0 then .ok (.cgetC (h.extractLsb' 5 5) (h.extractLsb' 0 3)) else .error .illegalEncoding
  | 30 | 31 => .error .reservedSpace
  | _ => .error .illegalEncoding

/-- A 32-bit item of majors 0x00 to 0x1A, or of a reserved major (R69, R73, R78). -/
def decodeLow (c : StrandId) (w : BitVec 32) : Except DecodeError Instr :=
  match (w.extractLsb' 26 5).toNat with
  | 0 => decodeAlu w
  | 1 => decodeAluImm w
  | 2 => decodeLimm w
  | 3 => decodeBranch w
  | 4 => decodeJump w
  | 5 => decodeSystem w
  | 6 => decodeSync w
  | 7 => decodeCoord w
  | 8 => decodeLoad w
  | 9 => decodeStore w
  | 10 => decodeAtomic w
  | 11 => decodeStream w
  | 12 => decodeRing c w
  | 13 => decodeTag w
  | 14 => decodeVecInt w
  | 15 => decodeVecFloat w
  | 16 => decodeVecAxis w
  | 17 => decodeConvert w
  | 18 => decodeSpecial w
  | 19 => decodeVecMem w
  | 20 => decodeEngine w
  | 21 => decodeMma w
  | 22 => decodeMacro w
  | 23 => decodeAccum w
  | 24 => decodeCopy w
  | 25 => decodeParcel w
  | 26 => decodeQuench w
  | _ => .error .reservedSpace

/-- A 32-bit item: the major is bits [30:26] (R69, R73). -/
noncomputable def decodeWide (c : StrandId) (w : BitVec 32) : Except DecodeError Instr :=
  if w.extractLsb' 26 5 = 0x1B then decodePrivileged w else decodeLow c w

/-- The instruction of one item on a strand of class `c`, or the step of R77 that refuses it. -/
noncomputable def decode (c : StrandId) : Item → Except DecodeError Instr
  | .compact h => decodeCompact h
  | .wide w => decodeWide c w

/-- The item that starts with the given halfwords (R63, R69): its first halfword holds bits [31:16]. -/
def frame (h0 h1 : BitVec 16) : Item :=
  if h0.getLsbD 15 then .wide (h0 ++ h1) else .compact h0

/-- Halfwords of an item in the code section's order (R63). -/
def Item.halves : Item → List (BitVec 16)
  | .compact h => [h]
  | .wide w => [w.extractLsb' 16 16, w.extractLsb' 0 16]

/-- Length of an item in halfwords (R69). -/
def Item.len : Item → Nat
  | .compact _ => 1
  | .wide _ => 2

/-- The strand class to decode a table word for: only RING.PUSH and RING.POP depend on it. Their V form needs
count10 zero (R190), so a word with a zero count10 is read as the V form and any other as the A form. -/
def tableClass (w : BitVec 32) : StrandId :=
  if w.extractLsb' 26 5 = 0x0C#5 ∧ w.extractLsb' 12 10 = 0#10 then .V else .A

/-- The instruction the decoder reads from a table word: 16 bits are a compact item, 32 a wide one. Its bits are
numbered as the manual numbers the item's bits. -/
noncomputable def decodeTableWord (nbits w : Nat) : Option Instr :=
  let it : Item := if nbits ≤ 16 then .compact (BitVec.ofNat 16 w) else .wide (BitVec.ofNat 32 w)
  match decode (tableClass (BitVec.ofNat 32 w)) it with
  | .ok i => some i
  | .error _ => none

/-- The word of an instruction, from the encoding tables: fixed bits and fields in the order of the layout. Steps
without a word have none. -/
def encode : Instr → Option Item
  | .add d a b => some (.wide (0x20#6 ++ d ++ a ++ b ++ 0#8))
  | .sub d a b => some (.wide (0x20#6 ++ d ++ a ++ b ++ 8#8))
  | .mul d a b => some (.wide (0x20#6 ++ d ++ a ++ b ++ 0x10#8))
  | .mulhI d a b => some (.wide (0x20#6 ++ d ++ a ++ b ++ 0x18#8))
  | .mulhN d a b => some (.wide (0x20#6 ++ d ++ a ++ b ++ 0x19#8))
  | .mulhIn d a b => some (.wide (0x20#6 ++ d ++ a ++ b ++ 0x1a#8))
  | .divI d a b => some (.wide (0x20#6 ++ d ++ a ++ b ++ 0x20#8))
  | .divN d a b => some (.wide (0x20#6 ++ d ++ a ++ b ++ 0x21#8))
  | .remI d a b => some (.wide (0x20#6 ++ d ++ a ++ b ++ 0x28#8))
  | .remN d a b => some (.wide (0x20#6 ++ d ++ a ++ b ++ 0x29#8))
  | .and d a b => some (.wide (0x20#6 ++ d ++ a ++ b ++ 0x30#8))
  | .or d a b => some (.wide (0x20#6 ++ d ++ a ++ b ++ 0x38#8))
  | .xor d a b => some (.wide (0x20#6 ++ d ++ a ++ b ++ 0x40#8))
  | .andn d a b => some (.wide (0x20#6 ++ d ++ a ++ b ++ 0x48#8))
  | .shl d a b => some (.wide (0x20#6 ++ d ++ a ++ b ++ 0x50#8))
  | .shr d a b => some (.wide (0x20#6 ++ d ++ a ++ b ++ 0x58#8))
  | .sra d a b => some (.wide (0x20#6 ++ d ++ a ++ b ++ 0x60#8))
  | .rot d a b => some (.wide (0x20#6 ++ d ++ a ++ b ++ 0x68#8))
  | .clz d a => some (.wide (0x20#6 ++ d ++ a ++ 0x70#14))
  | .popc d a => some (.wide (0x20#6 ++ d ++ a ++ 0x78#14))
  | .minI d a b => some (.wide (0x20#6 ++ d ++ a ++ b ++ 0x80#8))
  | .minN d a b => some (.wide (0x20#6 ++ d ++ a ++ b ++ 0x81#8))
  | .maxI d a b => some (.wide (0x20#6 ++ d ++ a ++ b ++ 0x88#8))
  | .maxN d a b => some (.wide (0x20#6 ++ d ++ a ++ b ++ 0x89#8))
  | .sel d a b c => some (.wide (0x20#6 ++ d ++ a ++ b ++ 0x12#5 ++ c))
  | .cmp d a b => some (.wide (0x20#6 ++ d ++ a ++ b ++ 0x98#8))
  | .mov d b => some (.wide (0x20#6 ++ d ++ 0#6 ++ b ++ 0xa0#8))
  | .add128 d a b => some (.wide (0x20#6 ++ d ++ a ++ b ++ 0xa8#8))
  | .addImm d a i => some (.wide (0x21#6 ++ d ++ a ++ 0#4 ++ i))
  | .subImm d a i => some (.wide (0x21#6 ++ d ++ a ++ 1#4 ++ i))
  | .mulImm d a i => some (.wide (0x21#6 ++ d ++ a ++ 2#4 ++ i))
  | .andImm d a i => some (.wide (0x21#6 ++ d ++ a ++ 3#4 ++ i))
  | .orImm d a i => some (.wide (0x21#6 ++ d ++ a ++ 4#4 ++ i))
  | .xorImm d a i => some (.wide (0x21#6 ++ d ++ a ++ 5#4 ++ i))
  | .andnImm d a i => some (.wide (0x21#6 ++ d ++ a ++ 6#4 ++ i))
  | .shlImm d a i => some (.wide (0x21#6 ++ d ++ a ++ 0x70#8 ++ i))
  | .shrImm d a i => some (.wide (0x21#6 ++ d ++ a ++ 0x80#8 ++ i))
  | .sraImm d a i => some (.wide (0x21#6 ++ d ++ a ++ 0x90#8 ++ i))
  | .rotImm d a i => some (.wide (0x21#6 ++ d ++ a ++ 0xa0#8 ++ i))
  | .minImm d a i => some (.wide (0x21#6 ++ d ++ a ++ 0xb#4 ++ i))
  | .maxImm d a i => some (.wide (0x21#6 ++ d ++ a ++ 0xc#4 ++ i))
  | .cmpImm d a i => some (.wide (0x21#6 ++ d ++ a ++ 0xd#4 ++ i))
  | .limm d i => some (.wide (0x22#6 ++ d ++ i))
  | .br c d => some (.wide (0x23#6 ++ c ++ d))
  | .jmp d => some (.wide (0x240#10 ++ d))
  | .call d => some (.wide (0x241#10 ++ d))
  | .ret => some (.wide (0x90800000#32))
  | .jmpReg b => some (.wide (0x486#11 ++ b ++ 0#16))
  | .callReg b => some (.wide (0x488#11 ++ b ++ 0#16))
  | .nop => some (.wide (0x94000000#32))
  | .halt => some (.wide (0x94000008#32))
  | .bkpt e => some (.wide (0x940#12 ++ e ++ 0x10#8))
  | .taskend => some (.wide (0x94000018#32))
  | .trap e => some (.wide (0x940#12 ++ e ++ 0x20#8))
  | .eret => some (.wide (0x94000028#32))
  | .sysrd d n => some (.wide (0x25#6 ++ d ++ 0#2 ++ n ++ 0x30#8))
  | .syswr d n => some (.wide (0x25#6 ++ d ++ 0#2 ++ n ++ 0x38#8))
  | .pause n => some (.wide (0x1300#13 ++ n ++ 0#3))
  | .yield => some (.wide (0x98000001#32))
  | .dsync l => some (.wide (0x2600000#26 ++ l ++ 2#3))
  | .fenceAcq s => some (.wide (0x980000#24 ++ s ++ 0xb#5))
  | .fenceRel s => some (.wide (0x980000#24 ++ s ++ 0x13#5))
  | .fenceAr s => some (.wide (0x980000#24 ++ s ++ 0x1b#5))
  | .fenceP y w => some (.wide (0x4c000#19 ++ y ++ w ++ 4#3))
  | .ringWaitf h n => some (.wide (0x26#6 ++ h ++ n ++ 5#12))
  | .ringWaite h n => some (.wide (0x26#6 ++ h ++ n ++ 6#12))
  | .cadv j => some (.wide (0x2700000#26 ++ j ++ 0#3))
  | .cset a j => some (.wide (0x27#6 ++ a ++ 0#14 ++ j ++ 1#3))
  | .cget d j => some (.wide (0x27#6 ++ d ++ 0#14 ++ j ++ 2#3))
  | .ldB d a i => some (.wide (0x28#6 ++ d ++ a ++ 0#4 ++ i))
  | .ldH d a i => some (.wide (0x28#6 ++ d ++ a ++ 1#4 ++ i))
  | .ldW d a i => some (.wide (0x28#6 ++ d ++ a ++ 2#4 ++ i))
  | .ldD d a i => some (.wide (0x28#6 ++ d ++ a ++ 3#4 ++ i))
  | .ldBN d a i => some (.wide (0x28#6 ++ d ++ a ++ 4#4 ++ i))
  | .ldHN d a i => some (.wide (0x28#6 ++ d ++ a ++ 5#4 ++ i))
  | .ldWN d a i => some (.wide (0x28#6 ++ d ++ a ++ 6#4 ++ i))
  | .ldWAcq d a s i => some (.wide (0x28#6 ++ d ++ a ++ 7#4 ++ s ++ i))
  | .ldDAcq d a s i => some (.wide (0x28#6 ++ d ++ a ++ 8#4 ++ s ++ i))
  | .ldt d a l i => some (.wide (0x28#6 ++ d ++ a ++ 9#4 ++ l ++ i))
  | .pref a i => some (.wide (0xa00#12 ++ a ++ 0xa#4 ++ i))
  | .stB d a i => some (.wide (0x29#6 ++ d ++ a ++ 0#4 ++ i))
  | .stH d a i => some (.wide (0x29#6 ++ d ++ a ++ 1#4 ++ i))
  | .stW d a i => some (.wide (0x29#6 ++ d ++ a ++ 2#4 ++ i))
  | .stD d a i => some (.wide (0x29#6 ++ d ++ a ++ 3#4 ++ i))
  | .stWRel d a s i => some (.wide (0x29#6 ++ d ++ a ++ 4#4 ++ s ++ i))
  | .stDRel d a s i => some (.wide (0x29#6 ++ d ++ a ++ 5#4 ++ s ++ i))
  | .amoAdd d a b z => some (.wide (0x2a#6 ++ d ++ a ++ b ++ 0#7 ++ z))
  | .amoFadd d a b => some (.wide (0x2a#6 ++ d ++ a ++ b ++ 8#8))
  | .amoBadd d a b => some (.wide (0x2a#6 ++ d ++ a ++ b ++ 0x10#8))
  | .amoBfin d a => some (.wide (0x2a#6 ++ d ++ a ++ 0x18#14))
  | .amoMin d a b n z => some (.wide (0x2a#6 ++ d ++ a ++ b ++ 8#6 ++ n ++ z))
  | .amoMax d a b n z => some (.wide (0x2a#6 ++ d ++ a ++ b ++ 0xa#6 ++ n ++ z))
  | .amoAnd d a b z => some (.wide (0x2a#6 ++ d ++ a ++ b ++ 0x18#7 ++ z))
  | .amoOr d a b z => some (.wide (0x2a#6 ++ d ++ a ++ b ++ 0x1c#7 ++ z))
  | .amoXor d a b z => some (.wide (0x2a#6 ++ d ++ a ++ b ++ 0x20#7 ++ z))
  | .amoSwap d a b z => some (.wide (0x2a#6 ++ d ++ a ++ b ++ 0x24#7 ++ z))
  | .amoCas d a b z => some (.wide (0x2a#6 ++ d ++ a ++ b ++ 0x28#7 ++ z))
  | .sdef a n => some (.wide (0x2b#6 ++ a ++ 0#13 ++ n ++ 0#3))
  | .sgo n => some (.wide (0x1580000#25 ++ n ++ 1#3))
  | .sstop n => some (.wide (0x1580000#25 ++ n ++ 2#3))
  | .sstat d w n => some (.wide (0x2b#6 ++ d ++ 0#11 ++ w ++ n ++ 3#3))
  | .scrldStream a e n => some (.wide (0x2b#6 ++ a ++ e ++ 4#3 ++ n ++ 4#3))
  | .scrldOctet a e d => some (.wide (0x2b#6 ++ a ++ e ++ 0#1 ++ d ++ 4#3))
  | .scrstStream a e n => some (.wide (0x2b#6 ++ a ++ e ++ 4#3 ++ n ++ 5#3))
  | .scrstOctet a e d => some (.wide (0x2b#6 ++ a ++ e ++ 0#1 ++ d ++ 5#3))
  | .ringAdvC h n => some (.wide (0x2c#6 ++ h ++ n ++ 0#12))
  | .ringAdvP h n => some (.wide (0x2c#6 ++ h ++ n ++ 1#12))
  | .ringPushA h w o d => some (.wide (0x2c#6 ++ h ++ w ++ 0#1 ++ o ++ d ++ 2#3))
  | .ringPushV h o v => some (.wide (0x2c#6 ++ h ++ 0#11 ++ o ++ v ++ 2#3))
  | .ringPopA h w o d => some (.wide (0x2c#6 ++ h ++ w ++ 0#1 ++ o ++ d ++ 3#3))
  | .ringPopV h o v => some (.wide (0x2c#6 ++ h ++ 0#11 ++ o ++ v ++ 3#3))
  | .ringDef h a => some (.wide (0x2c#6 ++ h ++ 0#13 ++ a ++ 4#3))
  | .tlook d a => some (.wide (0x2d#6 ++ d ++ a ++ 0#14))
  | .tset d a b => some (.wide (0x2d#6 ++ d ++ a ++ b ++ 8#8))
  | .tready a => some (.wide (0xb40#12 ++ a ++ 0x10#14))
  | .treadyClr a => some (.wide (0xb40#12 ++ a ++ 0x11#14))
  | .tdrop a => some (.wide (0xb40#12 ++ a ++ 0x18#14))
  | .vadd d a b => some (.wide (0x2e#6 ++ d ++ a ++ b ++ 0#5))
  | .vsub d a b => some (.wide (0x2e#6 ++ d ++ a ++ b ++ 1#5))
  | .vmul d a b => some (.wide (0x2e#6 ++ d ++ a ++ b ++ 2#5))
  | .vminI d a b => some (.wide (0x2e#6 ++ d ++ a ++ b ++ 3#5))
  | .vminN d a b => some (.wide (0x2e#6 ++ d ++ a ++ b ++ 4#5))
  | .vmaxI d a b => some (.wide (0x2e#6 ++ d ++ a ++ b ++ 5#5))
  | .vmaxN d a b => some (.wide (0x2e#6 ++ d ++ a ++ b ++ 6#5))
  | .vaddsI d a b => some (.wide (0x2e#6 ++ d ++ a ++ b ++ 7#5))
  | .vaddsN d a b => some (.wide (0x2e#6 ++ d ++ a ++ b ++ 8#5))
  | .vsubsI d a b => some (.wide (0x2e#6 ++ d ++ a ++ b ++ 9#5))
  | .vsubsN d a b => some (.wide (0x2e#6 ++ d ++ a ++ b ++ 0xa#5))
  | .vand d a b => some (.wide (0x2e#6 ++ d ++ a ++ b ++ 0xb#5))
  | .vor d a b => some (.wide (0x2e#6 ++ d ++ a ++ b ++ 0xc#5))
  | .vxor d a b => some (.wide (0x2e#6 ++ d ++ a ++ b ++ 0xd#5))
  | .vandn d a b => some (.wide (0x2e#6 ++ d ++ a ++ b ++ 0xe#5))
  | .vshl d a b => some (.wide (0x2e#6 ++ d ++ a ++ b ++ 0xf#5))
  | .vshr d a b => some (.wide (0x2e#6 ++ d ++ a ++ b ++ 0x10#5))
  | .vsra d a b => some (.wide (0x2e#6 ++ d ++ a ++ b ++ 0x11#5))
  | .vceq d a b => some (.wide (0x2e#6 ++ d ++ a ++ b ++ 0x12#5))
  | .vcltI d a b => some (.wide (0x2e#6 ++ d ++ a ++ b ++ 0x13#5))
  | .vcltN d a b => some (.wide (0x2e#6 ++ d ++ a ++ b ++ 0x14#5))
  | .vmov d a => some (.wide (0x2e#6 ++ d ++ a ++ 0x15#12))
  | .vbcs d a => some (.wide (0x2e#6 ++ d ++ a ++ 0x16#12))
  | .vins d a b => some (.wide (0x2e#6 ++ d ++ a ++ b ++ 0x17#5))
  | .vext d a b => some (.wide (0x2e#6 ++ d ++ a ++ b ++ 0x18#5))
  | .vidx d => some (.wide (0x2e#6 ++ d ++ 0x19#19))
  | .dot4S d a b => some (.wide (0x2e#6 ++ d ++ a ++ b ++ 0x1a#5))
  | .mkAnd d a b => some (.wide (0x2e#6 ++ d ++ a ++ b ++ 0x1b#5))
  | .mkOr d a b => some (.wide (0x2e#6 ++ d ++ a ++ b ++ 0x1c#5))
  | .mkXor d a b => some (.wide (0x2e#6 ++ d ++ a ++ b ++ 0x1d#5))
  | .mkAndn d a b => some (.wide (0x2e#6 ++ d ++ a ++ b ++ 0x1e#5))
  | .mkSet d a => some (.wide (0x2e#6 ++ d ++ a ++ 0x1f#12))
  | .vfadd d a b => some (.wide (0x2f#6 ++ d ++ a ++ b ++ 0#5))
  | .vfsub d a b => some (.wide (0x2f#6 ++ d ++ a ++ b ++ 1#5))
  | .vfmul d a b => some (.wide (0x2f#6 ++ d ++ a ++ b ++ 2#5))
  | .vfma d a b => some (.wide (0x2f#6 ++ d ++ a ++ b ++ 3#5))
  | .vfnma d a b => some (.wide (0x2f#6 ++ d ++ a ++ b ++ 4#5))
  | .vfmin d a b => some (.wide (0x2f#6 ++ d ++ a ++ b ++ 5#5))
  | .vfmax d a b => some (.wide (0x2f#6 ++ d ++ a ++ b ++ 6#5))
  | .vfabs d a => some (.wide (0x2f#6 ++ d ++ a ++ 7#12))
  | .vfneg d a => some (.wide (0x2f#6 ++ d ++ a ++ 8#12))
  | .vfceq d a b => some (.wide (0x2f#6 ++ d ++ a ++ b ++ 9#5))
  | .vfclt d a b => some (.wide (0x2f#6 ++ d ++ a ++ b ++ 0xa#5))
  | .vfcle d a b => some (.wide (0x2f#6 ++ d ++ a ++ b ++ 0xb#5))
  | .vfcun d a b => some (.wide (0x2f#6 ++ d ++ a ++ b ++ 0xc#5))
  | .vfmuls d a b => some (.wide (0x2f#6 ++ d ++ a ++ b ++ 0xd#5))
  | .vfadds d a b => some (.wide (0x2f#6 ++ d ++ a ++ b ++ 0xe#5))
  | .rotr d a b => some (.wide (0x30#6 ++ d ++ a ++ b ++ 0#5))
  | .rotc d a b => some (.wide (0x30#6 ++ d ++ a ++ b ++ 1#5))
  | .bcr d a b => some (.wide (0x30#6 ++ d ++ a ++ b ++ 2#5))
  | .bcc d a b => some (.wide (0x30#6 ++ d ++ a ++ b ++ 3#5))
  | .redrFadd d a => some (.wide (0x30#6 ++ d ++ a ++ 4#12))
  | .redrFmax d a => some (.wide (0x30#6 ++ d ++ a ++ 5#12))
  | .redrFmin d a => some (.wide (0x30#6 ++ d ++ a ++ 6#12))
  | .redrAdd d a => some (.wide (0x30#6 ++ d ++ a ++ 7#12))
  | .redrMaxI d a => some (.wide (0x30#6 ++ d ++ a ++ 8#12))
  | .redrMinI d a => some (.wide (0x30#6 ++ d ++ a ++ 9#12))
  | .redrMaxN d a => some (.wide (0x30#6 ++ d ++ a ++ 0xa#12))
  | .redrMinN d a => some (.wide (0x30#6 ++ d ++ a ++ 0xb#12))
  | .redcFadd d a => some (.wide (0x30#6 ++ d ++ a ++ 0xc#12))
  | .redcFmax d a => some (.wide (0x30#6 ++ d ++ a ++ 0xd#12))
  | .redcFmin d a => some (.wide (0x30#6 ++ d ++ a ++ 0xe#12))
  | .redcAdd d a => some (.wide (0x30#6 ++ d ++ a ++ 0xf#12))
  | .redcMaxI d a => some (.wide (0x30#6 ++ d ++ a ++ 0x10#12))
  | .redcMinI d a => some (.wide (0x30#6 ++ d ++ a ++ 0x11#12))
  | .redcMaxN d a => some (.wide (0x30#6 ++ d ++ a ++ 0x12#12))
  | .redcMinN d a => some (.wide (0x30#6 ++ d ++ a ++ 0x13#12))
  | .cvt d a f p t => some (.wide (0x31#6 ++ d ++ a ++ f ++ p ++ 0#1 ++ t))
  | .rcpa d a => some (.wide (0x32#6 ++ d ++ a ++ 0#12))
  | .rsqa d a => some (.wide (0x32#6 ++ d ++ a ++ 1#12))
  | .rcpn d a b => some (.wide (0x32#6 ++ d ++ a ++ b ++ 2#5))
  | .rsqn d a b => some (.wide (0x32#6 ++ d ++ a ++ b ++ 3#5))
  | .exp2 d a => some (.wide (0x32#6 ++ d ++ a ++ 4#12))
  | .log2 d a => some (.wide (0x32#6 ++ d ++ a ++ 5#12))
  | .rand d a b => some (.wide (0x32#6 ++ d ++ a ++ b ++ 6#5))
  | .vld d a b => some (.wide (0x33#6 ++ d ++ a ++ b ++ 0#5))
  | .vst d a b => some (.wide (0x33#6 ++ d ++ a ++ b ++ 1#5))
  | .vgath d a b => some (.wide (0x33#6 ++ d ++ a ++ b ++ 2#5))
  | .vscat d a b => some (.wide (0x33#6 ++ d ++ a ++ b ++ 3#5))
  | .vamoAdd d a b => some (.wide (0x33#6 ++ d ++ a ++ b ++ 4#5))
  | .vamoFadd d a b => some (.wide (0x33#6 ++ d ++ a ++ b ++ 5#5))
  | .vamoMinI d a b => some (.wide (0x33#6 ++ d ++ a ++ b ++ 6#5))
  | .vamoMinN d a b => some (.wide (0x33#6 ++ d ++ a ++ b ++ 7#5))
  | .vamoMaxI d a b => some (.wide (0x33#6 ++ d ++ a ++ b ++ 8#5))
  | .vamoMaxN d a b => some (.wide (0x33#6 ++ d ++ a ++ b ++ 9#5))
  | .vamoAnd d a b => some (.wide (0x33#6 ++ d ++ a ++ b ++ 0xa#5))
  | .vamoOr d a b => some (.wide (0x33#6 ++ d ++ a ++ b ++ 0xb#5))
  | .vamoXor d a b => some (.wide (0x33#6 ++ d ++ a ++ b ++ 0xc#5))
  | .vamoSwap d a b => some (.wide (0x33#6 ++ d ++ a ++ b ++ 0xd#5))
  | .rowMax a e => some (.wide (0x34#6 ++ a ++ e ++ 0#3))
  | .rowExp a e => some (.wide (0x34#6 ++ a ++ e ++ 1#3))
  | .rowScl a e => some (.wide (0x34#6 ++ a ++ e ++ 2#3))
  | .chain a => some (.wide (0x34#6 ++ a ++ 3#20))
  | .mma z q s => some (.wide (0x35#6 ++ z ++ q ++ s ++ 0#5))
  | .mmac z q s => some (.wide (0x35#6 ++ z ++ q ++ s ++ 1#5))
  | .mloadb q s => some (.wide (0x1b00#13 ++ q ++ s ++ 0#5))
  | .mcsum d s => some (.wide (0x36#6 ++ d ++ 0#7 ++ s ++ 1#5))
  | .mseed d a b => some (.wide (0x36#6 ++ d ++ a ++ b ++ 2#5))
  | .mzero z => some (.wide (0x37#6 ++ z ++ 0#19))
  | .mdrain z a b => some (.wide (0x37#6 ++ z ++ a ++ b ++ 1#5))
  | .mspill z a => some (.wide (0x37#6 ++ z ++ a ++ 2#12))
  | .mfill z a => some (.wide (0x37#6 ++ z ++ a ++ 3#12))
  | .mstat d => some (.wide (0x37#6 ++ d ++ 4#19))
  | .mchk d => some (.wide (0x37#6 ++ d ++ 5#19))
  | .draw a => some (.wide (0x1b80#13 ++ a ++ 6#12))
  | .drawW a => some (.wide (0x1b80#13 ++ a ++ 7#12))
  | .cpgo a d => some (.wide (0x38#6 ++ a ++ 0#11 ++ d ++ 0#3))
  | .cpwait t d => some (.wide (0x38#6 ++ t ++ 0#11 ++ d ++ 1#3))
  | .cpstat t d => some (.wide (0x38#6 ++ t ++ 0#11 ++ d ++ 2#3))
  | .cpkill t => some (.wide (0x38#6 ++ t ++ 3#20))
  | .popen d a b => some (.wide (0x39#6 ++ d ++ a ++ b ++ 0#8))
  | .pld d a b m => some (.wide (0x39#6 ++ d ++ a ++ b ++ 1#5 ++ m))
  | .pst d a b m => some (.wide (0x39#6 ++ d ++ a ++ b ++ 4#6 ++ m))
  | .pstref d a b => some (.wide (0x39#6 ++ d ++ a ++ b ++ 0x18#8))
  | .pmkref d a b => some (.wide (0x39#6 ++ d ++ a ++ b ++ 0x20#8))
  | .pseal a => some (.wide (0xe40#12 ++ a ++ 0x28#14))
  | .post d a b => some (.wide (0x39#6 ++ d ++ a ++ b ++ 0x30#8))
  | .precv d a b => some (.wide (0x39#6 ++ d ++ a ++ b ++ 0x38#8))
  | .precvW d a b => some (.wide (0x39#6 ++ d ++ a ++ b ++ 0x39#8))
  | .pfree a => some (.wide (0xe40#12 ++ a ++ 0x40#14))
  | .qreq a l => some (.wide (0x3a#6 ++ a ++ 0#14 ++ l ++ 0#3))
  | .qstat d w => some (.wide (0x3a#6 ++ d ++ 0#14 ++ w ++ 1#3))
  | .qwait => some (.wide (0xe8000002#32))
  | .qresume => some (.wide (0xe8000003#32))
  | .qarm a l => some (.wide (0x3a#6 ++ a ++ 0#14 ++ l ++ 4#3))
  | .qarmClr => some (.wide (0xe8000044#32))
  | .qhoriz d j => some (.wide (0x3a#6 ++ d ++ 0#14 ++ j ++ 5#3))
  | .settle => some (.wide (0xe8000006#32))
  | .tlbinv a b => some (.wide (0xec0#12 ++ a ++ b ++ 0#8))
  | .tlbinvAll => some (.wide (0xec000001#32))
  | .tlbsync => some (.wide (0xec000008#32))
  | .pgdisc a b => some (.wide (0xec0#12 ++ a ++ b ++ 0x10#8))
  | .pgseal d a => some (.wide (0x3b#6 ++ d ++ a ++ 0x18#14))
  | .pgsealClr a => some (.wide (0xec0#12 ++ a ++ 0x19#14))
  | .tmread d => some (.wide (0x3b#6 ++ d ++ 0x20#20))
  | .tmreadRec d => some (.wide (0x3b#6 ++ d ++ 0x21#20))
  | .tmset a => some (.wide (0xec0#12 ++ a ++ 0x28#14))
  | .tmsetClr => some (.wide (0xec000029#32))
  | .planeswRel d => some (.wide (0x3b#6 ++ d ++ 0x30#20))
  | .planeswDrop d => some (.wide (0x3b#6 ++ d ++ 0x31#20))
  | .planeswHold d => some (.wide (0x3b#6 ++ d ++ 0x32#20))
  | .swgstat d => some (.wide (0x3b#6 ++ d ++ 0x38#20))
  | .swgstatRec d a => some (.wide (0x3b#6 ++ d ++ a ++ 0x39#14))
  | .swgstatHit d a => some (.wide (0x3b#6 ++ d ++ a ++ 0x3a#14))
  | .swgstatLast d a => some (.wide (0x3b#6 ++ d ++ a ++ 0x3b#14))
  | .nopC => some (.compact (0#16))
  | .haltC => some (.compact (1#16))
  | .yieldC => some (.compact (2#16))
  | .retC => some (.compact (3#16))
  | .bkptC => some (.compact (4#16))
  | .taskendC => some (.compact (5#16))
  | .movC d b => some (.compact (1#6 ++ d ++ b))
  | .addC d b => some (.compact (2#6 ++ d ++ b))
  | .subC d b => some (.compact (3#6 ++ d ++ b))
  | .andC d b => some (.compact (4#6 ++ d ++ b))
  | .orC d b => some (.compact (5#6 ++ d ++ b))
  | .xorC d b => some (.compact (6#6 ++ d ++ b))
  | .mulC d b => some (.compact (7#6 ++ d ++ b))
  | .addCImm d i => some (.compact (8#6 ++ d ++ i))
  | .limmC d i => some (.compact (9#6 ++ d ++ i))
  | .shlC d i => some (.compact (0xa#6 ++ d ++ i))
  | .shrC d i => some (.compact (0xb#6 ++ d ++ i))
  | .sraC d i => some (.compact (0xc#6 ++ d ++ i))
  | .brC c d => some (.compact (0xd#6 ++ c ++ d))
  | .cadvC j => some (.compact (0x700#13 ++ j))
  | .pauseC n => some (.compact (0xf#6 ++ n))
  | .ringWaitfC h n => some (.compact (0x10#6 ++ h ++ n))
  | .ringWaiteC h n => some (.compact (0x11#6 ++ h ++ n))
  | .ringAdvCC h n => some (.compact (0x12#6 ++ h ++ n))
  | .ringAdvPC h n => some (.compact (0x13#6 ++ h ++ n))
  | .ldDC d b => some (.compact (0x14#6 ++ d ++ b))
  | .stDC d b => some (.compact (0x15#6 ++ d ++ b))
  | .cgetC d j => some (.compact (0x16#6 ++ d ++ 0#2 ++ j))
  | .packageReset _ _ => none
  | .dispatchTakeEntry => none
  | .planeLoadComplete => none
  | .swapTokenFlip => none
  | .taskEnd => none
  | .blockEntry => none
  | .lockstepMeet => none
  | .fetchEndOfCode => none
  | .enterS => none
  | .hearthDelivery => none
  | .fqPop => none
  | .fqPopResume => none
  | .yreqSet => none
  | .yreqClear => none
  | .yieldRequest => none
  | .yieldDeadline => none
  | .budget => none
  | .forcedModeDone => none
  | .pauseExpiry => none
  | .ringStall _ => none
  | .ringWaitSatisfied _ => none
  | .dsyncComplete _ => none
  | .atomicResultReturn _ => none
  | .ldtLanding _ => none
  | .horizonUpdate => none
  | .sideLogPerform _ => none
  | .causalApply _ _ => none
  | .streamSlotFill _ => none
  | .chainPassStart => none
  | .chainPassComplete => none
  | .rowCommandStart => none
  | .rowPhaseEnd _ => none
  | .matrixOpBegin => none
  | .drawGrant => none
  | .ceilChange _ => none
  | .matrixWaveCommit => none
  | .mloadbBlockLoaded => none
  | .followOnMmaJoin _ => none
  | .chainRelease _ => none
  | .engineTakeChain _ => none
  | .chainCopy _ => none
  | .chainRread _ => none
  | .chainRwrite _ => none
  | .chainRreduce _ => none
  | .chainRoute _ => none
  | .chainBarrier _ => none
  | .chainSignal _ => none
  | .chainLoop _ => none
  | .chainCond _ => none
  | .condEngineYield _ => none
  | .condWaitLimit _ => none
  | .chainPost _ => none
  | .chainSealdrain _ => none
  | .chainEnd _ => none
  | .fabricPacketReceive => none
  | .fabricTimeout _ => none
  | .bindNotice _ => none
  | .quenchAccept => none
  | .quenchDrainReport => none
  | .quenchCommit => none
  | .quenchMemberTimeout => none
  | .qarmFire => none
  | .settleApply => none
  | .atsCompletion _ _ _ _ _ => none
  | .atsTimeout _ => none
  | .atsInvalidation _ _ => none
  | .shootdownAck _ => none
  | .demandDrainComplete _ => none
  | .eccCorrected _ => none
  | .uncorrectableError _ => none
  | .eccUncorrected _ _ => none
  | .vPark _ _ => none
  | .vUnpark _ _ => none
  | .mcarryWrite _ => none
  | .qctlPinWrite _ => none
  | .plringReturn _ => none
  | .sysregWrite _ _ => none
  | .mbLoadPatchImage => none
  | .mbContext => none
  | .mbPostBindRecord => none
  | .mbAttestation => none
  | .mbConfigure => none
  | .revokeLentCore => none
  | .revokeCutTimeout => none
  | .vfTeardown _ => none
  | .allowanceReclaim _ => none
  | .circuitReconfigure _ => none
  | .sliceQuantumExpiry => none
  | .linkFlitReceive _ _ => none
  | .thermal95c _ => none
  | .thermal105c => none
  | .reservedSpaceItem _ _ => none
  | .illegalEncodingItem _ _ => none
  | .condWaitSatisfied _ => none
  | .hearthResumeOrAbandon _ => none
  | .hearthRemapRewrite _ _ _ _ _ _ _ => none
  | .slotEntryFree _ _ => none
  | .flitForward _ _ => none
  | .linkReplay _ => none
  | .contextImageWrite => none

/-- Whether the decoder of strand class `c` reads the word of `i` back: only the words of RING.PUSH and RING.POP mean
different instructions to V and to the others (R190). -/
def Instr.readBy (c : StrandId) : Instr → Bool
  | .ringPushV .. | .ringPopV .. => c == .V
  | .ringPushA .. | .ringPopA .. => c != .V
  | _ => true

end Sys2Proof
end

