-- ==== Sys2Proof/Machine/State.lean ====
section
/-!
DEFINITION. The state: everything the manual gives the machine, as plain data, and the state right after reset.

One core is modelled whole; the package units that serve it, and what arrives from other cores, packages and the
host, are data beside it (log 1). Registers for which the manual gives no reset value hold zero (log 3).
-/
namespace Sys2Proof.Machine

/-! ## Sparse tables -/

/-- A table of `w`-bit cells by number: numbers strictly rising, and no cell that holds zero, which is what an
unlisted cell reads as (log 4). Equal tables are equal lists. -/
abbrev Cells (w : Nat) := List (Nat × BitVec w)

/-- Memory: the sparse table of bytes (Host.Cell). -/
abbrev Memory := List Host.Cell

/-- Vector of the 64-bit registers of one bank (R9). -/
abbrev Bank := Vector (BitVec 64) 32

/-- A bank of zeros. -/
def Bank.zero : Bank := Vector.replicate 32 0

/-! ## Coordinates -/

/-- A coordinate c0..c5 (R15); registers at or above the nest depth hold zero. -/
structure Coord where
  c0 : BitVec 32
  c1 : BitVec 32
  c2 : BitVec 32
  c3 : BitVec 32
  c4 : BitVec 32
  c5 : BitVec 32
deriving DecidableEq, Repr

/-- The zero coordinate. -/
def Coord.zero : Coord := ⟨0, 0, 0, 0, 0, 0⟩

/-! ## Strands -/

/-- How a strand stands (R11, R62, R100, R106, R107, R122, R340). -/
inductive Run where
  /-- no task has been placed -/
  | noTask
  /-- issues items, or waits in one -/
  | running
  /-- stopped by HALT -/
  | halted
  /-- stopped by fetching at or beyond the end of its code -/
  | pastEnd
  /-- K stands at TASKEND -/
  | taskEnd
  /-- stopped by a fault whose record is queued, or cannot be queued yet -/
  | faulted
  /-- stopped at a yield point with a request outstanding or delivered -/
  | yielded
  /-- stopped at a quench cut -/
  | cut
  /-- stands at an S header and waits for the other strands -/
  | meeting
  /-- stopped at an item boundary by a forced SAVE -/
  | saved
deriving DecidableEq, Repr

/-- One entry of a call stack (R134). -/
structure CallEntry where
  pc : BitVec 16
  hdr : BitVec 16
  remain : BitVec 32
deriving DecidableEq, Repr

/-- The counts an MCHK reports from, and the baseline a cut image keeps (R283). -/
structure ChkCount where
  blocks : BitVec 32
  fails : BitVec 16
deriving DecidableEq, Repr

/-- A cut image (R339). The last four fields are those of the A, V and M strands. -/
structure CutImage where
  /-- names the image as the owner of snapshots (R206) -/
  id : Nat
  coord : Coord
  pc : BitVec 16
  hdr : BitVec 16
  remain : BitVec 32
  s : Bank
  flags : BitVec 13
  cc : BitVec 3
  calls : List CallEntry
  phase : BitVec 8
  /-- HEAD and CP of the sixteen ring handles -/
  heads : List (BitVec 8 × Bool)
  /-- the entry image of the task (R354) -/
  entry : Bool
  a : Bank
  masks : Vector (BitVec 1024) 8
  vmask : BitVec 4
  vcarry : BitVec 64
  zc : BitVec 8
  chk : ChkCount
deriving DecidableEq, Repr

/-- The ring wait a strand stands in: RING_STALL is raised once, after LIMIT cycles (R165). -/
structure RingWait where
  handle : BitVec 4
  full : Bool
  since : Nat
  raised : Bool
deriving DecidableEq, Repr

/-- A timed load that has not landed (R176). -/
structure TimedLoad where
  reg : BitVec 6
  value : BitVec 64
  at_ : Nat
  coord : Coord
  /-- issued at S: it carries no coordinate (R120) -/
  atS : Bool
deriving DecidableEq, Repr

/-- The atomic whose result a strand waits for (R182): the side-log entry, and how the result is written. -/
structure AmoWait where
  entry : Nat
  /-- destination register -/
  reg : BitVec 6
  /-- halfwords of the item that waits -/
  len : Nat
  done : Option (BitVec 64)
  /-- flags that come with the result (R181) -/
  flags : BitVec 5
  /-- the cause, DETAIL and ADDR of an atomic whose translation failed when it left the side log (R182) -/
  bad : Option (BitVec 6 × BitVec 64 × BitVec 64)
deriving DecidableEq, Repr

/-- Which class launched or raised (R99). -/
inductive CauseClass where
  | precise | asynchronous | engine
deriving DecidableEq, Repr

/-- What POP with RESUME restarts (R101, R104, R369). -/
inductive Resume where
  /-- the strand at the record's position -/
  | strand
  /-- a stream at its head (R161), while it still runs from the SGO of a number (R186) -/
  | stream (q : BitVec 4) (gen : Nat)
  /-- a side-log entry (R369) -/
  | sideEntry (id : Nat)
  /-- a copy chain, while its ticket still names it (R294, R314) -/
  | chain (tag : BitVec 6) (gen : BitVec 8)
  /-- the matrix operation in execution (R254, R281) -/
  | matrix
  /-- the chain pass in execution (R210) -/
  | chainPass
  /-- the row command in its phase slot (R210) -/
  | rowPass (phase : Nat)
  /-- a quench stop, or a record that resumes nothing -/
  | nothing
deriving DecidableEq, Repr

/-- A fault record (R102), and what its RESUME restarts. -/
structure FaultRecord where
  cause : BitVec 6
  /-- the cause that was raised, which a HOOK with REMAP leaves standing: where the work stops and resumes goes by it (R389) -/
  raised : BitVec 6
  cls : CauseClass
  strand : StrandId
  cmp : Bool
  lks : Bool
  lvl : Bool
  eng : BitVec 4
  slot : BitVec 4
  item : BitVec 32
  pc : BitVec 16
  hdr : BitVec 16
  remain : BitVec 32
  coord : Coord
  addr : BitVec 64
  detail : BitVec 64
  stamp : BitVec 64
  resume : Resume
deriving DecidableEq, Repr

/-- The retry count a Swage HOOK keeps for one item (R389). -/
structure HookCount where
  pc : BitVec 16
  cause : BitVec 6
  slot : BitVec 4
  count : Nat
deriving DecidableEq, Repr

/-- The slot that last acted for a strand (R395). -/
structure SwageLast where
  slot : BitVec 4
  valid : Bool
  act : BitVec 2
deriving DecidableEq, Repr

/-- One strand (R8, R9): registers, position, call stack, cut images, and what it waits for. -/
structure Strand where
  s : Bank
  coord : Coord
  flags : BitVec 13
  member : BitVec 8
  phase : BitVec 8
  cc : BitVec 3
  pc : BitVec 16
  hdr : BitVec 16
  remain : BitVec 32
  calls : List CallEntry
  run : Run
  /-- in a lockstep bundle (R11) -/
  lockstep : Bool
  /-- cycle in which the lowered priority of a PAUSE ends; 0 for none (R126) -/
  pause : Nat
  images : List CutImage
  wait : Option RingWait
  amo : Option AmoWait
  timed : List TimedLoad
  /-- program-order number of the next side-log entry (R343) -/
  seq : Nat
  hook : Option HookCount
  last : SwageLast
  /-- engine faults that wait for the next step boundary (R105, R129) -/
  eaf : List FaultRecord
  /-- the DSYNC level at which the strand waits (R124) -/
  dsync : Option (BitVec 3)
  /-- the position of a DSYNC that has completed, and whose item has still to retire (R124) -/
  synced : Option (BitVec 16)
deriving DecidableEq, Repr

/-- A strand at reset. MEMBER bits 0 and 1 read 1 (R115). -/
def Strand.reset : Strand where
  s := Bank.zero
  coord := Coord.zero
  flags := 0
  member := 3
  phase := 0
  cc := 0
  pc := 0
  hdr := 0
  remain := 0
  calls := []
  run := .noTask
  lockstep := false
  pause := 0
  images := []
  wait := none
  amo := none
  timed := []
  seq := 0
  hook := none
  last := ⟨0, false, 0⟩
  eaf := []
  dsync := none
  synced := none

/-! ## The address strand -/

/-- Stream states (R161). -/
inductive StreamState where
  | idle | run | fault | cut | done
deriving DecidableEq, Repr

/-- One stream register and its walk (R158, R161). -/
structure Stream where
  desc : BitVec 512
  state : StreamState
  /-- the A strand's coordinate at SGO (R19) -/
  base : Coord
  /-- units placed in slots: the linear index of the head unit (R187) -/
  head : Nat
  /-- slots filled since the last SGO -/
  filled : Nat
  /-- the sparse header read at SGO (R159) -/
  sparse : BitVec 512
  /-- number of SGOs so far, so that a record of an earlier walk restarts nothing (R186) -/
  gen : Nat
  /-- launched by a stepped SGO (R105) -/
  stepped : Bool
  /-- the wait for an empty slot that it stands in: the cycle it began, and whether RING_STALL has been raised (R165) -/
  stall : Option (Nat × Bool)
  /-- what it has read of the slot that it fills, before the head unit: a unit or a scale each, in the order of its reads (R161) -/
  got : List (List (BitVec 8))
deriving DecidableEq, Repr

/-- A stream at reset. -/
def Stream.reset : Stream := ⟨0, .idle, Coord.zero, 0, 0, 0, 0, false, none, []⟩

/-- One ring table entry (R162), the strands of this core that produce into it and consume from it, the physical core of an agent
elsewhere that does (R44), one more than the greatest coordinate key its consumer has advanced past (R164), and how often HOME has
defined it: a remote entry holds the number of the definition that it agrees with (R191). -/
structure Ring where
  base : BitVec 22
  home : BitVec 8
  remote : Bool
  valid : Bool
  ns : BitVec 8
  su : BitVec 6
  head : BitVec 8
  cp : Bool
  tail : BitVec 8
  pp : Bool
  wtail : BitVec 8
  producer : Option StrandId
  consumer : Option StrandId
  peer : Option (BitVec 8)
  passed : Nat
  gen : Nat
deriving DecidableEq, Repr

/-- An undefined ring table entry. -/
def Ring.zero : Ring := ⟨0, 0, false, false, 0, 0, 0, false, 0, false, 0, none, none, none, 0, 0⟩

/-! ## The vector strand -/

/-- What an idle bank that is not FREE holds (R203, R206, R252): a parked tile, or the snapshot of a tile or of a
quantum of an accumulator for one cut image. -/
inductive IdleBank where
  | parked (pslot : BitVec 6)
  | tileSnap (tile : BitVec 6) (image : Nat)
  | accSnap (z : BitVec 3) (quantum : BitVec 6) (image : Nat)
deriving DecidableEq, Repr

/-- The V strand's tiles and masks (R197 to R207). -/
structure VectorState where
  /-- banks 0..255: lane `l` of bank `b` is cell `b * 1024 + l` -/
  banks : Cells 32
  masks : Vector (BitVec 1024) 8
  vmask : BitVec 4
  vcarry : BitVec 64
  idle : List (Nat × IdleBank)
  parkErr : Bool
  /-- what the tiles have held under the task: (tile, lanes by number), newest first (R206) -/
  past : List (Nat × Cells 32)
deriving DecidableEq, Repr

/-! ## The matrix engine -/

/-- The resident B (R245, R256). -/
structure Resident where
  res : Bool
  fmt : BitVec 4
  kblk : BitVec 9
  nm1 : BitVec 8
  spv : Bool
  dens : BitVec 2
  seed : BitVec 32
  blk0 : BitVec 32
deriving DecidableEq, Repr

/-- No B. -/
def Resident.none : Resident := ⟨false, 0, 0, 0, false, 0, 0, 0⟩

/-- A column record (R244). -/
structure ColumnRecord where
  shift : Int
  scale : BitVec 16
  sum : Int
  special : Bool
deriving DecidableEq, Repr

/-- The record of a column no load has written: scale 1.0 (R271). -/
def ColumnRecord.empty : ColumnRecord := ⟨0, 0x3F80, 0, false⟩

/-- The kinds of queued matrix operation (R267). -/
inductive MatrixKind where
  | mloadb | mma | mmac | mzero | mdrain | mspill | mfill | mcsum
deriving DecidableEq, Repr

/-- The slots that an operation reads, fixed when it is queued (R267): their format, scales, elements per slot and
offsets in slot order. No physical core is named, so that an image may be restored on another one (R110). -/
structure SlotSpan where
  fmt : BitVec 4
  scaled : Bool
  elems : Nat
  /-- address of R156 of HOME, its offset zero -/
  home : BitVec 32
  /-- offsets of the slots in HOME's scratchpad -/
  slots : List Nat
  /-- ring handle and slot indices, for RING.ADV.C (R262) -/
  ring : BitVec 4
  indices : List Nat
deriving DecidableEq, Repr

/-- What the other participants of an MMAC have issued (R277): their shapes, accumulators, coordinates and block
values, in the order of their logical cores. -/
structure PeerOffer where
  lcore : BitVec 8
  shape : BitVec 64
  z : BitVec 3
  coord : Coord
  blocks : Nat
  /-- block value of row `i`, column `j`, block `k` at `(k * 256 + i) * 256 + j`: `i · 2^e`, or none for a NaN; an
  unlisted one is +0 -/
  values : List (Nat × Option (Int × Int))
  /-- the global block at which a check of this participant fails -/
  failsAt : Option Nat
deriving DecidableEq, Repr

/-- A queued matrix operation (R250, R267). -/
structure MatrixOp where
  kind : MatrixKind
  z : BitVec 3
  shape : BitVec 64
  addr : BitVec 64
  span : SlotSpan
  /-- the resident B the operation acts on -/
  resident : Resident
  /-- m.bstat before the operation was queued: a cut that discards a load which has not begun restores it (R263) -/
  prior : Resident
  /-- names the item that waits for the result of an MCSUM -/
  waiter : Nat
  coord : Coord
  /-- carries no coordinate (R120, R297) -/
  atS : Bool
  /-- issued at S: pages with SUP admit it (R364) -/
  sup : Bool
  /-- began, so that its units are consumed and its progress counts -/
  begun : Bool
  /-- next block (KNEXT), block of a load or 64-byte block of a fill -/
  next : Nat
  /-- stopped at a failing check or a memory fault, with its record queued -/
  held : Bool
  /-- follow-on MMA of a chain: its tag and the key of its consumed counter (R304, R305) -/
  follow : Option (BitVec 6 × Nat)
  /-- address of row 0 of the A rows of a follow-on MMA -/
  buffer : BitVec 64
  /-- what the other participants of an MMAC brought, by logical core -/
  peers : List PeerOffer
  /-- launched by a stepped item (R105) -/
  stepped : Bool
  /-- the boundary at which a SAVE stops it (R264) -/
  stopAt : Option Nat
deriving DecidableEq, Repr

/-- The M strand's accumulators, macros and queue (R243 to R262). -/
structure MatrixState where
  /-- accumulators: element (i, j) of z is cell `z * 65536 + i * 256 + j` -/
  acc : Cells 32
  /-- macro cells: cell `c` of row `r` of macro `m` is cell `(m * 256 + r) * 260 + c` -/
  cells : Cells 8
  /-- column records by `block * 256 + column`; an unlisted one is `ColumnRecord.empty` -/
  cols : List (Nat × ColumnRecord)
  /-- blocks of the resident B that a load has written since its NEW (R271) -/
  written : BitVec 256
  bstat : Resident
  zc : BitVec 8
  zfree : BitVec 8
  chk : ChkCount
  failed : Bool
  chkBase : ChkCount
  /-- what each MCSUM at or above the horizon has added to FAILS, by its coordinate key: a cut withdraws it (R283) -/
  sums : List (Nat × BitVec 16)
  held : BitVec 16
  ceil : BitVec 16
  pendUnits : BitVec 16
  /-- coordinate of the pending request -/
  pendCoord : Coord
  /-- CEIL as it was when the request was made, which governs it (R422) -/
  pendCeil : BitVec 16
  /-- requests made after it and not granted yet, in their order: units, coordinate and CEIL -/
  pendMore : List (BitVec 16 × Coord × BitVec 16)
  /-- a DRAW.W that has made its request and waits: its position, its repetition, and the units it asks for (R284) -/
  drawing : Option (BitVec 16 × BitVec 32 × BitVec 16)
  queue : List MatrixOp
  /-- quanta of ZFREE accumulators that hold snapshots: (z × 64 + quantum, what it holds) -/
  zsnaps : List (Nat × IdleBank)
  /-- K-progress and accumulator of the operation last in execution (m.kprog) -/
  knext : BitVec 9
  kz : BitVec 3
  /-- one more than the greatest coordinate key of an MLOADB of the task (R263) -/
  loadTop : Nat
  /-- accumulators that a follow-on MMA without a coordinate has written under the task: no cut undoes it (R297) -/
  keptAccs : BitVec 8
  peers : List PeerOffer
deriving DecidableEq, Repr

/-! ## Row and chain engines -/

/-- A queued row command (R238, R211). -/
structure RowCommand where
  phase : Nat
  word : BitVec 64
  aux : BitVec 17
  coord : Coord
  /-- carries no coordinate: issued at S, or its task has ended (R12, R120) -/
  atS : Bool
  /-- issued at S (R364) -/
  sup : Bool
  /-- checked, and in its phase slot -/
  started : Bool
  /-- rows done -/
  row : Nat
  /-- stopped by a fault, with its record queued -/
  held : Bool
  /-- launched by a stepped item (R105) -/
  stepped : Bool
deriving DecidableEq, Repr

/-- A queued chain pass (R209, R235): the descriptor as read at issue. -/
structure ChainPass where
  desc : BitVec 2560
  addr : BitVec 64
  coord : Coord
  /-- carries no coordinate: the task that issued it has ended (R12) -/
  atS : Bool
  started : Bool
  /-- elements done -/
  next : Nat
  /-- stopped at a faulting input -/
  held : Bool
  /-- launched by a stepped item (R105) -/
  stepped : Bool
deriving DecidableEq, Repr

/-! ## Side log and slag log -/

/-- Side-log states (R168). -/
inductive SideState where
  | held | pend | faulted | sealWait
deriving DecidableEq, Repr

/-- Kinds of side-log entry (R343). -/
inductive SideKind where
  | store | release | atomic
deriving DecidableEq, Repr

/-- One side-log entry (R343). -/
structure SideEntry where
  /-- names the entry in records and waits -/
  id : Nat
  state : SideState
  strand : StrandId
  kind : SideKind
  afn : BitVec 5
  amod : BitVec 2
  scope : BitVec 3
  addr : BitVec 64
  mask : BitVec 64
  coord : Coord
  cause : BitVec 6
  seq : Nat
  data : BitVec 512
  /-- access class of the store, by its bit of R32 -/
  cls : Nat
  /-- the VAMO lane: tile and lane (R233) -/
  lane : Option (BitVec 6 × BitVec 10)
  /-- comparand of AMO.CAS: the old value of d (R181) -/
  compare : BitVec 64
  /-- carries no coordinate: issued at S, or its task has ended (R12, R120) -/
  atS : Bool
  /-- issued at S (R364) -/
  sup : Bool
  /-- its record was popped with RESUME: the memory unit translates it (R365, R369) -/
  replay : Bool
  /-- overflow record that holds it (R343) -/
  ovf : Option Nat
  /-- access classes whose reads may no longer find an older value: a read has forwarded from it, or a FENCE.P or an
  acquire covers it (R32, R35, R42) -/
  seen : BitVec 5
  /-- the pages it writes to were unmapped by a post while it was in the log: it is dropped as it leaves (R330) -/
  posted : Bool
  /-- strands that have read or acquired it, whose releases cover it (R40) -/
  readers : BitVec 4
  /-- of a release: the entries of other strands that its strand had read or acquired as it was issued (R40) -/
  covers : List Nat
  /-- made by a stepped item or engine operation (R105) -/
  stepped : Bool
  /-- names the gather, scatter or vector atomic that made it, among those of class GS (R116) -/
  op : Nat
deriving DecidableEq, Repr

/-- Kinds of slag-log entry (R341), with the parcel state of KIND 4 (R331) kept as its undo record. -/
inductive SlagKind where
  | scratch | stream | tag | parcel
deriving DecidableEq, Repr

/-- Parcel states (R318). -/
inductive ParcelState where
  | freed | opened | sealed | inTransit | bound
deriving DecidableEq, Repr

/-- A parcel record (R318). -/
structure Parcel where
  state : ParcelState
  gen : BitVec 16
  bpn : BitVec 32
  xm1 : BitVec 16
deriving DecidableEq, Repr

/-- A FREED record of generation 0. -/
def Parcel.zero : Parcel := ⟨.freed, 0, 0, 0⟩

/-- A LANDED parcel (R319, R325): its frames in the landing area, and what it takes to free its source. -/
structure Landed where
  frames : List (BitVec 36)
  xm1 : BitVec 16
  srcPkg : BitVec 18
  srcPid : BitVec 16
  /-- key id of its packets -/
  kid : BitVec 7
deriving DecidableEq, Repr

/-- An inbox and its landing area (R327, R367). -/
structure Inbox where
  enabled : Bool
  depth : BitVec 8
  landed : List Landed
  base : BitVec 36
  size : BitVec 20
  key : BitVec 7
  /-- frames that hold landed or received parcels, oldest first -/
  inUse : List (BitVec 36)
  /-- place in the ring just past the frame taken last -/
  next : Nat
deriving DecidableEq, Repr

/-- USED of k.plring (R367). -/
def Inbox.used (x : Inbox) : BitVec 20 := BitVec.ofNat 20 x.inUse.length

/-- An inbox that nobody has configured. -/
def Inbox.zero : Inbox := ⟨false, 0, [], 0, 0, 0, [], 0⟩

/-- What a cut restores beside the bytes of a slag-log entry: a stream's state (R188), or what a parcel instruction did
(R331). -/
inductive ParcelUndo where
  | none
  /-- the stream register as it stood, beside the 64 bytes of a KIND 2 entry (R164, R188) -/
  | stream (old : Stream)
  | record (key : Nat) (old : Parcel) (keepGen : Bool)
  | leaf (pa : Nat) (old : BitVec 128)
  | inbox (key : Nat) (old : Landed)
deriving DecidableEq, Repr

/-- One slag-log entry (R341). -/
structure SlagEntry where
  kind : SlagKind
  strand : StrandId
  loc : BitVec 32
  /-- scratchpad cell number of byte 0 of the block, for KIND 1 -/
  cell : Nat
  mask : BitVec 64
  coord : Coord
  data : BitVec 512
  undo : ParcelUndo
  /-- slot of the log that holds it -/
  slot : Nat
deriving DecidableEq, Repr

/-! ## The quench unit -/

/-- ST of the status word (R348). -/
inductive QuenchSt where
  | none | pending | cut
deriving DecidableEq, Repr

/-- A request that has reached the coordinator (R345): its coordinate, level, the logical core that asked, and why. -/
structure QuenchRequest where
  coord : Coord
  level : BitVec 3
  core : BitVec 8
  own : Bool
  fired : Bool
  /-- asked for by ROLLBACK (R353) -/
  rollback : Bool
deriving DecidableEq, Repr

/-- The quench unit (R336 to R350). Horizons are coordinate keys; 2^192 stands above every coordinate. -/
structure QuenchUnit where
  hk : Nat
  /-- F⁺: every coordinate below it counts as settled; 0 before the first SETTLE -/
  floor : Nat
  pin : Bool
  pinAt : Nat
  st : QuenchSt
  cut : Coord
  /-- the requests that the present or last cut answers -/
  taken : List QuenchRequest
  passed : Bool
  fired : Bool
  level : BitVec 3
  ended : BitVec 4
  merged : Bool
  requests : List QuenchRequest
  armed : Option (Coord × BitVec 3)
  /-- this core has reported its drain (R346 phase 3) -/
  reported : Bool
  /-- every other member has reported -/
  peersReported : Bool
  /-- another member's SETTLE waits to be applied at this core (R352) -/
  peerSettle : Bool
  /-- every other member has released what it kept at the floor that this core's SETTLE set (R352) -/
  peersSettled : Bool
  /-- cycle in which the request was sent to the members -/
  since : Nat
  /-- a SETTLE has been asked for and not applied -/
  settle : Bool
  /-- it has been applied, and its item has still to retire -/
  settled : Bool
  /-- QRESUME has been issued while the QUENCH_STOP record is still queued (R349) -/
  resumeDue : Bool
  /-- least horizon of the other members of the domain -/
  peersH : Nat
  /-- greatest current coordinate of the other members' strands, for SETTLE -/
  peersMax : Nat
  /-- least region start of the other members' strands (R337) -/
  peersG : Nat
  nextImage : Nat
deriving DecidableEq, Repr

/-! ## Copy engines -/

/-- Chain states (R294). -/
inductive ChainState where
  | free | held | queued | run | fault | done | killed
deriving DecidableEq, Repr

/-- Bytes that an access of a chain has read or written (R301): the cell of the first, what the bytes held before, and what the access
read or wrote. -/
structure Touch where
  cell : Nat
  old : List (BitVec 8)
  new : List (BitVec 8)
  wrote : Bool
deriving DecidableEq, Repr

/-- One chain record (R294, R301). -/
structure Chain where
  state : ChainState
  str : StrandId
  gen : BitVec 8
  engine : BitVec 4
  entry : BitVec 16
  head : BitVec 22
  /-- scratchpad offset of the entry being walked -/
  p : Nat
  coord : Coord
  atS : Bool
  /-- started at S (R364) -/
  sup : Bool
  det : Bool
  ctr : Vector Nat 3
  sinc : Vector (BitVec 64) 3
  dinc : Vector (BitVec 64) 3
  /-- the current entry, as the engine read it on reaching it (R300) -/
  held : Option (BitVec 512)
  /-- accesses of the current entry, and of the earlier ones that no SIGNAL, BARRIER or COND parts from it (R301) -/
  now : List Touch
  past : List Touch
  /-- a CPKILL waits for the unit in progress (R299) -/
  killing : Bool
  /-- units of the current entry already performed -/
  units : Nat
  /-- the current entry has begun -/
  begun : Bool
  /-- widest scope named so far -/
  scope : BitVec 3
  /-- cycle since which a COND has waited, and since which it has held its engine -/
  condSince : Option Nat
  condEngine : Nat
  /-- the strand's side-log sequence number at the CPGO (R296) -/
  after : Nat
  /-- every side-log entry with a lower number was issued before the CPGO (R45, R48) -/
  upto : Nat
  /-- a POST instruction's entry held in the record: handle and post word (R325) -/
  post : Option (BitVec 64 × BitVec 64)
  /-- the parcel that it posts is IN-TRANSIT by this chain (R319, R325) -/
  posting : Bool
  /-- waits for the far package -/
  remote : Bool
  /-- a follow-on MMA of the current entry still has to join the queue -/
  followDue : Bool
  /-- when the CPGO was issued, among the chains and side-log entries of the core -/
  num : Nat
  /-- counts of the experts of a ROUTE in progress, and its overflow count (R307) -/
  counts : List Nat
  /-- the words that a ROUTE in progress has written: address and value -/
  words : List (BitVec 64 × BitVec 32)
  /-- launched by a stepped item (R105) -/
  stepped : Bool
  /-- the sequence number under which a unit that ended in COPY_REMOTE 0x04 is sent again, so that the far end performs it once (R314,
  R415) -/
  resend : Option (BitVec 64)
deriving DecidableEq, Repr

/-- A free chain record of generation 0. -/
def Chain.zero : Chain where
  state := .free
  str := .K
  gen := 0
  engine := 0
  entry := 0
  head := 0
  p := 0
  coord := Coord.zero
  atS := false
  sup := false
  det := false
  ctr := Vector.replicate 3 0
  sinc := Vector.replicate 3 0
  dinc := Vector.replicate 3 0
  held := none
  now := []
  past := []
  killing := false
  units := 0
  begun := false
  scope := 0
  condSince := none
  condEngine := 0
  after := 0
  upto := 0
  post := none
  posting := false
  remote := false
  followDue := false
  num := 0
  counts := []
  words := []
  stepped := false
  resend := none

/-! ## The memory unit -/

/-- A leaf as a translation holds it (R363, R365), with the size of its page in bytes. -/
structure Leaf where
  word : BitVec 128
  size : Nat
deriving DecidableEq, Repr

/-- A cached translation (R365): path 0 is the core's, 1 the memory unit's, 2 + e copy engine e's; and the context it belongs to, which
alone it serves (R410). -/
structure TlbEntry where
  path : Nat
  ctx : BitVec 32
  base : Nat
  leaf : Leaf
  /-- the host's frame for APER 5, the leaf's permits being cut to those that the host gives (R366) -/
  host : Option (BitVec 52)
  /-- the key of the leaf's slot as the walk found it, under which its accesses complete (R373) -/
  key : Option (BitVec 512)
deriving DecidableEq, Repr

/-- A shoot-down not yet acknowledged by every path (R370). -/
structure Shootdown where
  /-- the context whose translations it removes -/
  ctx : BitVec 32
  first : Nat
  bytes : Nat
  paths : List Nat
deriving DecidableEq, Repr

/-- A seal record (R375), and the pages it has still to drain. -/
structure SealRecord where
  page : Nat
  pages : Nat
  shard : BitVec 64
  rw : BitVec 29
  undrained : List Nat
deriving DecidableEq, Repr

/-- Where a sealed page has been copied to (R376): the remote word and the address of its destination, and the bytes sent, where it lies in
another package. -/
structure PageCopy where
  rw : BitVec 29
  dst : BitVec 64
  bytes : List (BitVec 8)
deriving DecidableEq, Repr

/-- An ATS request the host has not answered (R366). -/
structure AtsRequest where
  path : Nat
  ctx : BitVec 32
  /-- the PASID of k.mhost that it was sent with -/
  pasid : BitVec 20
  base : Nat
  leaf : Leaf
  since : Nat
  /-- the completion status of a request that has failed, until the access that made it sees it -/
  status : Option (BitVec 8)
deriving DecidableEq, Repr

/-- A global write stamped by a die and not yet applied everywhere (R34): its clock, the dies that still wait, and
the bytes by physical address. -/
structure StampedWrite where
  die : Nat
  clock : List Nat
  waiting : List Nat
  /-- access path class of the write, by its bit (R32) -/
  cls : Nat
  bytes : List (Nat × BitVec 8)
deriving DecidableEq, Repr

/-- A byte that reads of some classes may still find old (R32): where, what it held, the class of the write (by its bit
number), the classes that may find it old (by bit), and the write itself, by its die and that die's number of it (R34): the classes that
have found the write at one die find it at every die (R35). -/
structure StaleByte where
  key : Nat
  old : BitVec 8
  writer : Nat
  classes : BitVec 5
  stamp : Nat × Nat
deriving DecidableEq, Repr

/-- Memory and the memory unit (R34, R361 to R376). -/
structure MemoryState where
  /-- global memory: local byte `pa` as die `d` has applied it is cell `d * 2^72 + pa`; peer package `p`'s byte is
  `4 * 2^72 + p * 2^52 + pa`; host byte `a` is `5 * 2^72 + a` -/
  mem : Memory
  /-- scratchpads: byte `o` of physical core `p` is cell `p * 2^22 + o` -/
  scratch : Memory
  /-- applied(d)[i], as `4 * d + i` -/
  clocks : List Nat
  inflight : List StampedWrite
  stale : List StaleByte
  /-- poisoned 64-byte blocks, by cell number of their first byte -/
  poison : List Nat
  tlb : List TlbEntry
  shoots : List Shootdown
  /-- key slots that hold a key -/
  keys : BitVec 128
  /-- their AES-256-XTS keys, by slot (R373) -/
  keyValues : List (Nat × BitVec 512)
  /-- the key that a 64-byte block of local memory stands under, by its address divided by 64, its tweak; an unlisted block has not been
  accessed under a key. `mem` holds what a read under that key gives (R373) -/
  under : List (Nat × BitVec 512)
  /-- seal records by `context * 64 + number` -/
  seals : List (Nat × SealRecord)
  /-- virtual page numbers for which a demand drain has begun (R376) -/
  drains : List Nat
  /-- pages of demand drains on their way to another package: virtual page number, sequence number of the packet, and whether it has been
  performed there (R376) -/
  drainSent : List (Nat × BitVec 64 × Bool)
  /-- the last copy of each sealed page, by `context * 2^40 + virtual page number` (R376) -/
  copies : List (Nat × PageCopy)
  ats : List AtsRequest
  touchmark : BitVec 128
  tmval : BitVec 128
deriving DecidableEq, Repr

/-! ## Scheduling -/

/-- A remap entry (R402). -/
structure RemapEntry where
  valid : Bool
  pcore : BitVec 8
  slice : BitVec 3
  nsm1 : BitVec 3
  quant : BitVec 16
deriving DecidableEq, Repr

/-- A logical core that is not placed. -/
def RemapEntry.zero : RemapEntry := ⟨false, 0, 0, 0, 0⟩

/-- Slot-table states (R397). -/
inductive EntryState where
  | free | posted | loading | loaded | running | done | rejected | returned
deriving DecidableEq, Repr

/-- A slot-table entry (R397). -/
structure SlotEntry where
  state : EntryState
  det : BitVec 8
  seq : BitVec 32
  rec_ : BitVec 42
deriving DecidableEq, Repr

/-- A FREE entry. -/
def SlotEntry.zero : SlotEntry := ⟨.free, 0, 0, 0⟩

/-- A bind record, read (R396). -/
structure BindRecord where
  ctx : BitVec 32
  lcore : BitVec 8
  qlvl : BitVec 3
  fmode : Bool
  det : Bool
  pin : Bool
  recorded : Bool
  nest : BitVec 3
  settle : BitVec 3
  trail : BitVec 5
  obj : BitVec 64
  budget : BitVec 64
  cbase : Coord
  mroot : BitVec 64
  tmkey : BitVec 64
  mhost : BitVec 64
  tmval : BitVec 128
  inputs : List (BitVec 64)
  outputs : List (BitVec 64 × BitVec 64)
deriving DecidableEq, Repr

/-- A register window: what the scalar registers, flags and masks of a task's strands start with (R12, R401). -/
structure Window where
  sK : Bank
  sA : Bank
  sV : Bank
  sM : Bank
  a : Bank
  flags : Vector (BitVec 13) 4
  vmask : BitVec 4
deriving DecidableEq, Repr

/-- The section of an object that a relocated field lies in (R60). -/
inductive RelocPart where
  | code (x : StrandId)
  /-- a data section, by its number -/
  | data (n : Nat)
  /-- the task fields: input keys, output pairs and register window -/
  | task
deriving DecidableEq, Repr

/-- A reference of an object to a symbol of another one (R60): the section of the field that takes the address, the bits of the
section's bytes that the field's bits are, from its lowest on (bit `b` is bit `b % 8` of byte `b / 8`), and the pair (object hash,
offset). A field may be words of data or the immediate of an item. -/
structure Reloc where
  part : RelocPart
  bits : List Nat
  object : BitVec 64
  offset : BitVec 64
deriving DecidableEq, Repr

/-- A plane object as the loader reads it (R12, R60, R62, R205, R251, R398): code sections, entry points, handler offset,
carry tables, register window, data sections, task fields and relocation list; and the hash and the address that it is kept
under. -/
structure PlaneObject where
  hash : BitVec 64
  /-- the address at which the object now lies (R60) -/
  base : BitVec 64
  code : Vector (List (BitVec 16)) 4
  entry : Vector (BitVec 16) 4
  tvec : BitVec 16
  vtable : List (BitVec 16 × BitVec 64)
  mtable : List (BitVec 16 × BitVec 64)
  window : Window
  /-- data sections: scratchpad offset and bytes -/
  sections : List (Nat × List (BitVec 8))
  nest : BitVec 3
  settle : BitVec 3
  trail : BitVec 5
  inputs : List (BitVec 64)
  outputs : List (BitVec 64 × BitVec 64)
  relocs : List Reloc
deriving DecidableEq, Repr

/-- The zero window. -/
def Window.zero : Window := ⟨Bank.zero, Bank.zero, Bank.zero, Bank.zero, Bank.zero, Vector.replicate 4 0, 0⟩

/-- An object with no code. -/
def PlaneObject.empty : PlaneObject :=
  ⟨0, 0, Vector.replicate 4 [], Vector.replicate 4 0, 0, [], [], Window.zero, [], 0, 0, 0, [], [], []⟩

/-- A bind record of zeros. -/
def BindRecord.zero : BindRecord where
  ctx := 0
  lcore := 0
  qlvl := 0
  fmode := false
  det := false
  pin := false
  recorded := false
  nest := 0
  settle := 0
  trail := 0
  obj := 0
  budget := 0
  cbase := Coord.zero
  mroot := 0
  tmkey := 0
  mhost := 0
  tmval := 0
  inputs := []
  outputs := []

/-- A configuration plane with its staging bank, and the slot-table entry it was loaded for (R12, R398). -/
structure Plane where
  object : PlaneObject
  /-- the other objects that it names (R60, R110) -/
  named : List PlaneObject
  bind : BindRecord
  entry : Option (BitVec 8)
  /-- the loader has filled it -/
  loaded : Bool
deriving DecidableEq, Repr

/-- An empty plane. -/
def Plane.empty : Plane := ⟨PlaneObject.empty, [], BindRecord.zero, none, false⟩

/-! ## Swage -/

/-- One Swage slot (R383): its record, the payload copied with it, and its hit count. -/
structure SwageSlot where
  record : BitVec 256
  payload : List (BitVec 32)
  hits : BitVec 32
deriving DecidableEq, Repr

/-- A patch set: the slots of one signer and its anti-rollback counter (R384, R393). -/
structure PatchSet where
  operator : Bool
  arb : BitVec 8
  slots : List (BitVec 4 × SwageSlot)
deriving DecidableEq, Repr

/-! ## Fabric, host and firmware -/

/-- A context Hearth has created (R14, R300, R406, R408). -/
structure ContextInfo where
  id : BitVec 32
  kids : BitVec 128
  partition : BitVec 6
  /-- the virtual function it is bound to; none for the physical function -/
  vf : Option (BitVec 6)
deriving DecidableEq, Repr

/-- A domain Hearth has configured (R14): members by logical core. -/
structure Domain where
  ctx : BitVec 32
  level : BitVec 3
  members : BitVec 256
  /-- packages of the members: a domain of level 5 or above exists only while they are in one optical group -/
  packages : List Nat
  /-- phases at which every member outside this core has arrived and which this core has not completed (R47, R125) -/
  arrived : Nat
deriving DecidableEq, Repr

/-- The bay of a package id (R412). -/
def bayOf (pkg : Nat) : Nat := pkg / 256 % 1024

/-- Whether a package belongs to an optical group, given by its bays: the packages of a bay are always connected (R412). -/
def inGroup (group : List Nat) (pkg : Nat) : Bool := group.contains (bayOf pkg)

/-- Whether a domain exists in an optical group (R14). -/
def Domain.exists_ (d : Domain) (group : List Nat) : Bool := decide (d.level.toNat < 5) || d.packages.all (inGroup group)

/-- A partition (R406, R411). -/
structure Partition where
  id : BitVec 6
  guaranteed : BitVec 256
  margin : BitVec 256
  /-- lent cores and the partition they are lent to -/
  lent : List (BitVec 8 × BitVec 6)
  strict : Bool
  /-- channels granted, stack × 32 + channel -/
  channels : BitVec 256
  /-- ranges of frames of the second tier: the first frame and their number (R411) -/
  frames : List (Nat × Nat)
  /-- assigned to the operator key (R392) -/
  operatorKey : Bool
deriving DecidableEq, Repr

/-- What the far end of a remote operation answers (R314, R326). -/
inductive Reply where
  | done | absent | permission | noContext | auth | inboxOff | noRoom
deriving DecidableEq, Repr

/-- What a fabric packet asks the receiving package to do (R303, R306, R308, R325). -/
inductive PacketBody where
  | write (va : BitVec 64) (bytes : List (BitVec 8))
  | read (va : BitVec 64) (len : Nat)
  | reduce (op : BitVec 2) (va : BitVec 64) (src : BitVec 32)
  | signal (va : BitVec 64) (val : BitVec 64) (dbl add : Bool) (scope : BitVec 3)
  | post (inbox : BitVec 8) (xm1 : BitVec 16) (srcPid : BitVec 16) (bytes : List (BitVec 8))
  | reply (request : BitVec 64) (answer : Reply) (bytes : List (BitVec 8))
  | notice (pid : BitVec 16)
deriving DecidableEq, Repr

/-- A fabric packet (R414): its clear fields, its tag, and its contents, which only the key that the tag holds under opens. -/
structure Packet where
  kid : BitVec 7
  gen : BitVec 8
  src : BitVec 18
  dst : BitVec 18
  engine : BitVec 6
  seq : BitVec 64
  tag : BitVec 128
  body : PacketBody
deriving DecidableEq, Repr

/-- A remote operation that has not been answered (R416). -/
structure Outstanding where
  tag : BitVec 6
  /-- key id of its packet -/
  kid : BitVec 7
  /-- sequence number of its packet -/
  seq : BitVec 64
  since : Nat
deriving DecidableEq, Repr

/-- A fabric key id: its generation, and the key that this package holds for it (R409, R414). -/
structure KeyId where
  kid : BitVec 7
  gen : BitVec 8
  key : Option (BitVec 256)
deriving DecidableEq, Repr

/-- A tenant's buffers at a link port (R418). -/
structure Tenant where
  id : Nat
  share : Nat
  own : Nat
  shared : Nat
deriving DecidableEq, Repr

/-- A link port (R418). -/
structure LinkPort where
  tenants : List Tenant
  /-- flits sent and kept for retransmission, at most 1,024 -/
  replay : Nat
deriving DecidableEq, Repr

/-- A patch image as Hearth reads it (R391): its fields, the slot records and payload words, and the signature it ends with. -/
structure PatchImage where
  magic : BitVec 64
  version : BitVec 16
  signer : BitVec 8
  flags : BitVec 8
  part : BitVec 32
  stepmask : BitVec 64
  arb : BitVec 32
  coresel : BitVec 256
  partmask : BitVec 64
  nslot : BitVec 8
  paylen : BitVec 32
  /-- the reserved bytes at 0x1D and at 0x4C -/
  reserved : List (BitVec 8)
  slots : List (BitVec 256)
  payload : List (BitVec 32)
  siglen : BitVec 16
  signature : List (BitVec 8)
deriving DecidableEq, Repr

/-- A firmware image in the carrier flash (R420): the boot step that loads it, its bytes, anti-rollback counter and signature. -/
structure Firmware where
  step : Nat
  bytes : List (BitVec 8)
  arb : BitVec 8
  signature : List (BitVec 8)
deriving DecidableEq, Repr

/-- What mailbox opcode 0x05 configures (R419). -/
inductive ConfigCommand where
  | partition (p : Partition)
  | lend (core : BitVec 8) (borrower : BitVec 6)
  /-- loads a key, or empties the slot -/
  | keySlot (slot : BitVec 7) (key : Option (BitVec 512))
  | fabricKey (k : KeyId)
  | holdKid (ctx : BitVec 32) (kid : BitVec 7)
  | domain (d : Domain)
  | enrol (switch : Nat) (kid : BitVec 7)
  | timeout (units : BitVec 24)
  | share (port tenant flits : Nat)
  /-- binds a virtual function to a partition (R408) -/
  | bindVf (vf : BitVec 6) (partition : BitVec 6)
deriving DecidableEq, Repr

/-- What a mailbox command brings beside the bytes of host memory that it names, which hold the payload (R419). The manual lays the
payloads of opcodes 0x02 and 0x05 out nowhere, and what they say stands here (log 26); those of 0x01, 0x03 and 0x04 are read from host
memory, byte by byte. -/
inductive MailPayload where
  | create (c : ContextInfo) (domains : List Domain) (remap : List (BitVec 8 × RemapEntry))
  | destroy (ctx : BitVec 32)
  /-- where Hearth places the bind record in device memory, and the sequence number of its entry -/
  | bind (pa : BitVec 52) (seq : BitVec 32)
  | configure (c : ConfigCommand)
  | other
deriving DecidableEq, Repr

/-- A submitted mailbox command (R419): the function that submitted it (none: the physical function). -/
structure MailCommand where
  vf : Option (BitVec 6)
  seq : BitVec 16
  opcode : BitVec 8
  /-- CMD[63:8], which no command of the manual gives a meaning -/
  arg : BitVec 56
  addr : BitVec 64
  len : BitVec 64
  payload : MailPayload
deriving DecidableEq, Repr

/-- A function's mailbox (R419): its registers, the sequence number and code of the command last completed, and the boot step that an answer of
a failed boot names (R420). -/
structure Mailbox where
  seq : BitVec 16
  result : BitVec 8
  step : BitVec 8
  cmd : BitVec 64
  addr : BitVec 64
  len : BitVec 64
deriving DecidableEq, Repr

/-- A mailbox at reset. -/
def Mailbox.zero : Mailbox := ⟨0, 0, 0, 0, 0, 0⟩

/-- An attestation report (R421). -/
structure Report where
  nonce : BitVec 256
  pkg : BitVec 18
  log : List (BitVec 512)
  vendorArb : BitVec 8
  operatorArb : BitVec 8
  firmwareArb : BitVec 8
  swage : BitVec 512
  partitions : List Partition
  signature : List (BitVec 8)
deriving DecidableEq, Repr

/-! ## The control strand's registers -/

/-- A forced mode in progress (R107): SAVE settling, or ROLLBACK waiting for its cut. -/
inductive Forced where
  | save | rollback
deriving DecidableEq, Repr

/-- The system registers of the task and the core (R113 to R127, R157), the fault queue, and what waits for delivery. -/
structure System where
  /-- K is at S (R98) -/
  levelS : Bool
  nest : BitVec 3
  settle : BitVec 3
  ctx : BitVec 32
  qlvl : BitVec 3
  fmode : Bool
  trail : BitVec 5
  lcore : BitVec 8
  cycle : BitVec 64
  budget : BitVec 64
  epcPc : BitVec 16
  epcHdr : BitVec 16
  epcRemain : BitVec 32
  /-- K stood at the end of its blocks, with no item left to fetch, when it entered S (R68) -/
  epcEnd : Bool
  plvl : Bool
  pend : Bool
  estatFl : BitVec 13
  tvec : BitVec 16
  yreq : Bool
  yact : Bool
  fdone : Bool
  ydl : BitVec 32
  /-- cycles left of the sampled deadline (R106) -/
  deadline : Option Nat
  step : BitVec 4
  det : Bool
  planeAct : Bool
  sheld : Bool
  fq : List FaultRecord
  /-- records whose share of the queue is full: their strands stay stopped (R101) -/
  fqWait : List FaultRecord
  lost : BitVec 8
  /-- a cause at S waits to interrupt K at its next item boundary (R100 item 3) -/
  sDue : Bool
  /-- records passed to Hearth and not yet delivered, and those Hearth holds (R100 item 4) -/
  hDue : List FaultRecord
  hearth : List FaultRecord
  /-- Hearth holds the core stopped (R100 item 4) -/
  stoppedByH : Bool
  /-- K's registers from a cut image, loaded when its ERET retires (R120) -/
  kHeld : Option (Bank × BitVec 3)
  /-- K's bundle goes on after its ERET (R121) -/
  lockT : Bool
  /-- the S-level call stack (R134) -/
  sCalls : List CallEntry
  forced : Option Forced
  /-- the task has run out of its budget; none arises again (R128) -/
  budgetDone : Bool
  /-- BUDGET has arisen and is not delivered yet (R131) -/
  budgetDue : Bool
  /-- the task has recorded a mismatch already (R354) -/
  rerun : Bool
  rstall : BitVec 32
  slbase : BitVec 52
  slsize : BitVec 24
  /-- SIDE_LOG_FULL has been raised for the present wait (R168) -/
  slFull : Bool
  spres : BitVec 10
  /-- RES in force since the last plane swap (R157) -/
  spresNow : BitVec 10
  qslagBase : BitVec 22
  qslagSize : BitVec 7
  pinsel : BitVec 8
  mroot : BitVec 64
  tmkey : BitVec 64
  tmrec : Bool
  mhost : BitVec 64
deriving DecidableEq, Repr

/-! ## The core and the package -/

/-- One core, as a context image holds it and a quench restores it. -/
structure Core where
  k : Strand
  a : Strand
  v : Strand
  m : Strand
  /-- a0..a31 (R9) -/
  areg : Bank
  streams : Vector Stream 16
  /-- the tag table: entry `n` is cell `n` (R166) -/
  tags : Cells 128
  vec : VectorState
  mat : MatrixState
  rowq : List RowCommand
  chainq : List ChainPass
  side : List SideEntry
  /-- names the next side-log entry -/
  nextEntry : Nat
  slag : List SlagEntry
  /-- the next slot of the slag log's ring -/
  slagNext : Nat
  qu : QuenchUnit
  sys : System
deriving DecidableEq, Repr

/-- Where a pair of an image stands (R60, R110): in the scratchpad, at an offset, or in a register of a strand: s0..s31, then a0..a31. -/
inductive PairAt where
  | scratch (offset : Nat)
  | reg (x : StrandId) (n : Nat)
deriving DecidableEq, Repr

/-- A context image written by CONTEXT_IMAGE_WRITE (R108): its header and object table as the manual lays them out, the core's state,
the tiles of its running plane, its scratchpad and ring table, the sparse headers that stand with its ring slots, and the
touchmark (R374). -/
structure Image where
  /-- R109 -/
  header : BitVec 512
  /-- object table entries of 16 bytes -/
  objects : List (BitVec 128)
  ctx : BitVec 32
  lcore : BitVec 8
  core : Core
  tiles : Cells 32
  scratch : Memory
  rings : List (Nat × Ring)
  /-- by `handle * 256 + slot` -/
  headers : List (Nat × BitVec 512)
  /-- the pairs that stand in the scratchpad and in registers -/
  pairs : List (PairAt × Reloc)
  obj : BitVec 64
  bind : BindRecord
  /-- the slot-table entry of a slice whose task has not ended (R398, R403) -/
  entry : Option (BitVec 8)
  touchmark : BitVec 128
  tmval : BitVec 128
deriving DecidableEq, Repr

/-- The arrival of a BARRIER entry for its strand at a level (R308): `late` when the strand stood in a DSYNC of that level already,
so that it counts for the next phase; and the chain it belongs to. -/
structure BarrierArrival where
  strand : StrandId
  level : BitVec 3
  late : Bool
  tag : BitVec 6
deriving DecidableEq, Repr

/-- The package around the core: everything that is not saved with it. -/
structure Package where
  pcore : BitVec 8
  pkg : BitVec 18
  mu : MemoryState
  /-- ring table entries by `physical core * 16 + handle` (R162) -/
  rings : List (Nat × Ring)
  /-- sparse headers that stand with ring slots, by `ring key * 256 + slot` (R159) -/
  headers : List (Nat × BitVec 512)
  /-- RES in force at the other cores, by physical core (R155, R157) -/
  spresOf : List (Nat × BitVec 10)
  chains : Vector Chain 64
  /-- tags of the chains of this core that wait for an engine, in the die's order (R291) -/
  engineQueue : List (BitVec 6)
  /-- engines that run a chain of another core -/
  engineBusy : BitVec 16
  /-- consumed counters by `physical core * 16 + n` (R305) -/
  consumed : Cells 16
  /-- parcel records by `context * 65536 + pid` (R318) -/
  parcels : List (Nat × Parcel)
  /-- inboxes by `context * 256 + inbox` (R327) -/
  inboxes : List (Nat × Inbox)
  /-- apertures of IN-TRANSIT parcels' leaves, kept until the post's end: (record key, leaf address, leaf) (R326) -/
  transit : List (Nat × Nat × BitVec 128)
  /-- PRECVs above the horizon whose bind notice waits (R331): record key, coordinate and the parcel -/
  notices : List (Nat × Coord × Landed)
  /-- parcel ids freed at or above the horizon (R331): record key, coordinate -/
  frozen : List (Nat × Coord)
  /-- remap entries by `context * 256 + logical core` (R402) -/
  remap : List (Nat × RemapEntry)
  /-- the die's slot table (R397) -/
  slots : List (Nat × SlotEntry)
  plane0 : Plane
  plane1 : Plane
  objects : List PlaneObject
  images : List Image
  /-- contexts and logical cores whose images a loader has rejected, as Hearth has reported them (R111) -/
  refused : List (BitVec 32 × BitVec 8)
  /-- the last task on the core belonged to this context (R401) -/
  lastCtx : Option (BitVec 32)
  /-- stage of the end of the task: 0 running, 1 horizon, 2 touchmark, 3 trailer, 4 ended, 5 stopped at a second
  mismatch (R122, R354) -/
  ending : Nat
  /-- the running slice is being pre-empted, and the next one follows (R403) -/
  sliceDue : Bool
  /-- cycles that the running slice has had of its own run (R403) -/
  sliceRun : Nat
  swage : Vector SwageSlot 16
  vendorArb : BitVec 8
  operatorArb : BitVec 8
  patches : List PatchSet
  /-- images that Hearth has accepted, in their order: a core that changes its partition takes its sets from them (R393) -/
  accepted : List PatchImage
  /-- Swage images held in flash, which boot step 4 loads (R420) -/
  flash : List (List (BitVec 8))
  /-- firmware images held in flash, which boot steps 1 to 3 load (R420) -/
  firmware : List Firmware
  contexts : List ContextInfo
  domains : List Domain
  /-- BARRIER arrivals that no phase has used (R308) -/
  barriers : List BarrierArrival
  /-- follow-on MMAs of this core's chains that another core has queued and whose buffers it has still to read: key of the consumed
  counter, coordinate key, whether the chain carries no coordinate, and the chain's tag (R304, R305) -/
  farMmas : List (Nat × Nat × Bool × BitVec 6)
  partitions : List Partition
  ownPartition : BitVec 6
  /-- the partition that each virtual function is bound to (R408) -/
  vfs : List (Nat × BitVec 6)
  kids : List KeyId
  /-- last accepted sequence by (key id, generation, source, engine) (R415) -/
  lastSeq : List (BitVec 39 × BitVec 64)
  enrolled : List (Nat × BitVec 7)
  inbound : List Packet
  /-- the packet at their head has been accepted, and waits to be performed (R415) -/
  taking : Bool
  outbound : List Packet
  sendSeq : BitVec 64
  unanswered : List Outstanding
  /-- send allowances outstanding, by key id (R409) -/
  allowances : List (Nat × Nat)
  /-- reply reservations of a function that is torn down: key id, and sequence number of the request (R409) -/
  reservations : List (Nat × BitVec 64)
  /-- bays of the current optical group (R412, R413) -/
  group : List Nat
  /-- the bays of the next group, while Hearth keeps remote entries from beginning and waits for those in progress (R413) -/
  switching : Option (List Nat)
  ports : List LinkPort
  ftmo : BitVec 24
  /-- commands submitted and not completed, in their order -/
  mail : List MailCommand
  /-- by function: 0 the physical one, 1 + v the virtual function v (R419) -/
  mailboxes : List (Nat × Mailbox)
  report : Option Report
  fuseVendor : BitVec 8
  fuseOperator : BitVec 8
  /-- the fused anti-rollback counter of the firmware images (R420) -/
  fuseFirmware : BitVec 8
  operatorKey : Bool
  stepping : BitVec 6
  bootStep : Nat
  bootFailed : Bool
  log : List (BitVec 512)
  /-- the package has stopped at 105 °C (R423) -/
  hot : Bool
  /-- a revocation in progress: the cycle it began, and the virtual function whose teardown asked for it (R407, R409) -/
  revoke : Option (Nat × Option (BitVec 6))
  /-- virtual functions whose teardown has asked for a revocation while another one was in progress (R409) -/
  teardowns : List (BitVec 6)
deriving DecidableEq, Repr

/-! ## The machine -/

/-- What reaches the core and the package from outside, and the table of events does not name: what the other members of the quench
domain send (R20, R336 to R352), what the host writes to a mailbox (R419), and what other agents write to the memories, scratchpads and
rings that they share with this core, or offer it (R34, R44, R156, R182, R277). -/
inductive Input where
  /-- another member's request -/
  | request (r : QuenchRequest)
  /-- the other members' least horizon, greatest coordinate and least region start, by their keys -/
  | horizons (least greatest region : Nat)
  /-- every other member has reported its drain -/
  | drained
  /-- another member's QRESUME -/
  | resume
  /-- another member's SETTLE -/
  | settle
  /-- every other member has released what it kept at the new floor -/
  | settled
  /-- Tongs' store of the SEQ and REC of a FREE slot-table entry (R397) -/
  | slotStore (entry : Nat) (seq : BitVec 32) (rec_ : BitVec 42)
  /-- a write at an offset of the BAR 0 of a function (none: the physical one), with what a payload says that the manual lays out nowhere -/
  | mailbox (vf : Option (BitVec 6)) (offset : Nat) (value : BitVec 64) (payload : MailPayload)
  /-- a write to this package's memory through an access path class: by an agent of a die, or, with no die, from the host port, Hearth or
  another package, which the home die of each byte stamps (R34) -/
  | write (die : Option (BitVec 2)) (cls : BitVec 3) (bytes : List (BitVec 52 × BitVec 8))
  /-- a write to host memory by the host -/
  | hostWrite (bytes : List (BitVec 64 × BitVec 8))
  /-- a write to another package's memory by an agent there -/
  | peerWrite (pkg : BitVec 18) (bytes : List (BitVec 52 × BitVec 8))
  /-- an atomic by another core, on naturally aligned bytes of this package's memory, performed at their home (R182) -/
  | atomic (afn : BitVec 5) (amod : BitVec 2) (cls : BitVec 3) (pa : BitVec 52) (operand compare : BitVec 64)
  /-- a store at T by another core to a scratchpad, or what an atomic of it leaves there (R155, R156, R181) -/
  | scratch (pcore : BitVec 8) (offset : BitVec 22) (bytes : List (BitVec 8))
  /-- the RES in force at another core (R157) -/
  | reserve (pcore : BitVec 8) (res : BitVec 10)
  /-- another core defines an entry of its own ring table (R162) -/
  | ringDefine (pcore : BitVec 8) (handle : BitVec 4) (entry : Ring)
  /-- an agent of another core, at a coordinate, advances past slots of the ring of a HOME entry as its producer, or as its consumer (R44,
  R163, R164) -/
  | ringAdvance (pcore : BitVec 8) (handle : BitVec 4) (producer : Bool) (core : BitVec 8) (slots : Nat) (coord : BitVec 192)
  /-- another participant has issued an MMAC (R277), or takes it back: a cut there discards it -/
  | offer (o : PeerOffer)
  | withdraw (lcore : BitVec 8)
deriving DecidableEq, Repr

/-- What moves next: an agent's step, one item (or header, or bundle) of a strand, or an input from outside. -/
inductive Act where
  | event (i : Instr)
  | issue (x : StrandId)
  | input (i : Input)
deriving DecidableEq, Repr

/-- One planned move, and the cycles that pass before it (log 2). -/
structure Move where
  cycles : Nat
  act : Act
deriving DecidableEq, Repr

/-- How the item that ran last ended: it retired in line, it set the position itself, it waits, or it raised a cause
with its detail and address. -/
inductive ItemEnd where
  | retired
  | jumped
  | waited
  | trapped (cause : BitVec 6) (detail addr : BitVec 64)
deriving DecidableEq, Repr

/-- The machine: one core, its package, and the model's own bookkeeping of who moves next. -/
structure State where
  core : Core
  pk : Package
  /-- moves to come, first to last; with none planned the agents move in turn (log 2) -/
  agenda : List Move
  /-- whose turn it is when nothing is planned: the number of an agent's move (log 2) -/
  turn : Nat
  /-- the strand that issues -/
  cur : StrandId
  /-- counter the free values are applied to (log 7) -/
  freeCtr : Nat
  /-- set while the words of a REWRITE or of a bundle run: a cause is kept in `last` and not raised (R11, R387) -/
  dry : Bool
  /-- how the last item ended -/
  last : ItemEnd
deriving DecidableEq, Repr

/-- Why the machine stops with a fault. There is no such reason: every cause of the manual is taken by the machine
itself, as a next state. -/
inductive Fault where
deriving DecidableEq, Repr

/-- Why an instruction has no meaning. -/
inductive Refusal where
  /-- raised only by an arm of `exec` whose instruction is not modelled yet; safe, since the machine then stops -/
  | notModelled (mnemonic : String)
deriving DecidableEq, Repr

/-! ## Reset -/

def VectorState.reset : VectorState := ⟨[], Vector.replicate 8 0, 0, 0, [], false, []⟩

def MatrixState.reset : MatrixState where
  acc := []
  cells := []
  cols := []
  written := 0
  bstat := Resident.none
  zc := 0
  zfree := 0
  chk := ⟨0, 0⟩
  failed := false
  chkBase := ⟨0, 0⟩
  sums := []
  held := 0
  ceil := 0
  pendUnits := 0
  pendCoord := Coord.zero
  pendCeil := 0
  pendMore := []
  drawing := none
  queue := []
  zsnaps := []
  knext := 0
  kz := 0
  loadTop := 0
  keptAccs := 0
  peers := []

def QuenchUnit.reset : QuenchUnit where
  hk := 0
  floor := 0
  pin := false
  pinAt := 0
  st := .none
  cut := Coord.zero
  taken := []
  passed := false
  fired := false
  level := 0
  ended := 0
  merged := false
  requests := []
  armed := none
  reported := false
  peersReported := true
  peerSettle := false
  peersSettled := false
  since := 0
  settle := false
  settled := false
  resumeDue := false
  peersH := 2 ^ 192
  peersMax := 0
  peersG := 2 ^ 192
  nextImage := 0

def System.reset : System where
  levelS := false
  nest := 0
  settle := 0
  ctx := 0
  qlvl := 0
  fmode := false
  trail := 0
  lcore := 0
  cycle := 0
  budget := 0
  epcPc := 0
  epcHdr := 0
  epcRemain := 0
  epcEnd := false
  plvl := false
  pend := false
  estatFl := 0
  tvec := 0
  yreq := false
  yact := false
  fdone := false
  ydl := 0
  deadline := none
  step := 0
  det := false
  planeAct := false
  sheld := false
  fq := []
  fqWait := []
  lost := 0
  sDue := false
  hDue := []
  hearth := []
  stoppedByH := false
  kHeld := none
  lockT := false
  sCalls := []
  forced := none
  budgetDone := false
  budgetDue := false
  rerun := false
  rstall := 0
  slbase := 0
  slsize := 0
  slFull := false
  spres := 0
  spresNow := 0
  qslagBase := 0
  qslagSize := 0
  pinsel := 0
  mroot := 0
  tmkey := 0
  tmrec := false
  mhost := 0

def Core.reset : Core where
  k := Strand.reset
  a := Strand.reset
  v := Strand.reset
  m := Strand.reset
  areg := Bank.zero
  streams := Vector.replicate 16 Stream.reset
  tags := []
  vec := VectorState.reset
  mat := MatrixState.reset
  rowq := []
  chainq := []
  side := []
  nextEntry := 0
  slag := []
  slagNext := 0
  qu := QuenchUnit.reset
  sys := System.reset

def MemoryState.reset : MemoryState where
  mem := []
  scratch := []
  clocks := List.replicate 16 0
  inflight := []
  stale := []
  poison := []
  tlb := []
  shoots := []
  keys := 0
  keyValues := []
  under := []
  seals := []
  drains := []
  drainSent := []
  copies := []
  ats := []
  touchmark := 0
  tmval := 0

/-- SLOTNO of each slot holds its number at reset (R383). -/
def swageReset : Vector SwageSlot 16 :=
  Vector.ofFn fun n => ⟨(BitVec.ofNat 256 n.val) <<< 252, [], 0⟩

def Package.reset : Package where
  pcore := 0
  pkg := 0
  mu := MemoryState.reset
  rings := []
  headers := []
  spresOf := []
  chains := Vector.replicate 64 Chain.zero
  engineQueue := []
  engineBusy := 0
  consumed := []
  parcels := []
  inboxes := []
  transit := []
  notices := []
  frozen := []
  remap := []
  slots := []
  plane0 := Plane.empty
  plane1 := Plane.empty
  objects := []
  images := []
  refused := []
  lastCtx := none
  ending := 4
  sliceDue := false
  sliceRun := 0
  swage := swageReset
  vendorArb := 0
  operatorArb := 0
  patches := []
  accepted := []
  flash := []
  firmware := []
  contexts := []
  domains := []
  barriers := []
  farMmas := []
  partitions := []
  ownPartition := 0
  vfs := []
  kids := []
  lastSeq := []
  enrolled := []
  inbound := []
  taking := false
  outbound := []
  sendSeq := 0
  unanswered := []
  allowances := []
  reservations := []
  group := [0]
  switching := none
  ports := List.replicate 16 ⟨[], 0⟩
  ftmo := 0x4000
  mail := []
  mailboxes := []
  report := none
  fuseVendor := 0
  fuseOperator := 0
  fuseFirmware := 0
  operatorKey := false
  stepping := 0
  bootStep := 0
  bootFailed := false
  log := []
  hot := false
  revoke := none
  teardowns := []

/-- The machine right after reset (R3, R401, R420): every register at the value the manual gives, or zero. -/
def State.reset : State where
  core := Core.reset
  pk := Package.reset
  agenda := []
  turn := 0
  cur := .K
  freeCtr := 0
  dry := false
  last := .retired

end Sys2Proof.Machine
end

