-- ==== Sys2Proof/Machine/Bits.lean ====
section
/-!
DEFINITION. Sparse tables, tables by key, and bytes: the plainest operations on the state's data.
-/
namespace Sys2Proof.Machine

/-! ## Sparse tables of cells -/

/-- Cell `n`: zero when it is not listed. -/
def cellGet {w : Nat} : Cells w → Nat → BitVec w
  | [], _ => 0
  | (k, v) :: rest, n => if n = k then v else cellGet rest n

/-- Writes cell `n`; writing zero removes the entry. -/
def cellSet {w : Nat} : Cells w → Nat → BitVec w → Cells w
  | [], n, v => if v = 0 then [] else [(n, v)]
  | (k, x) :: rest, n, v =>
    if n < k then (if v = 0 then (k, x) :: rest else (n, v) :: (k, x) :: rest)
    else if n = k then (if v = 0 then rest else (n, v) :: rest)
    else (k, x) :: cellSet rest n v

/-- The canonical form from number `lo` on: numbers rise strictly, and no cell holds zero. -/
def cellsWfFrom {w : Nat} (lo : Nat) : Cells w → Bool
  | [] => true
  | (k, v) :: rest => decide (lo ≤ k) && v != 0 && cellsWfFrom (k + 1) rest

/-- The canonical form of a table of cells. -/
def cellsWf {w : Nat} (c : Cells w) : Bool := cellsWfFrom 0 c

/-- The canonical form of a memory. -/
def Memory.wf (m : Memory) : Bool := cellsWf m

/-- Writes the cells from `n` on, one value after the other. -/
def cellPut {w : Nat} (c : Cells w) (n : Nat) : List (BitVec w) → Cells w
  | [] => c
  | v :: vs => cellPut (cellSet c n v) (n + 1) vs

/-- The `len` cells from `n` on. -/
def cellRange {w : Nat} (c : Cells w) (n len : Nat) : List (BitVec w) :=
  (List.range len).map fun i => cellGet c (n + i)

/-- Puts every cell of `[n, n + len)` to zero. -/
def cellClear {w : Nat} (c : Cells w) (n len : Nat) : Cells w :=
  c.filter fun kv => decide (kv.1 < n) || decide (n + len ≤ kv.1)

/-- The cells of `[n, n + len)`, their numbers counted from `n`. -/
def cellSlice {w : Nat} (c : Cells w) (n len : Nat) : Cells w :=
  c.filterMap fun kv => if n ≤ kv.1 ∧ kv.1 < n + len then some (kv.1 - n, kv.2) else none

/-- Replaces the cells of `[n, n + len)` by a table whose numbers count from `n`. -/
def cellPaste {w : Nat} (c : Cells w) (n len : Nat) (d : Cells w) : Cells w :=
  c.filter (fun kv => decide (kv.1 < n)) ++ (d.filter fun kv => decide (kv.1 < len)).map (fun kv => (n + kv.1, kv.2)) ++
    c.filter (fun kv => decide (n + len ≤ kv.1))

/-- The table of a list of values, numbered from `n`: zeros are not listed. -/
def cellsOf {w : Nat} (n : Nat) : List (BitVec w) → Cells w
  | [] => []
  | v :: vs => if v = 0 then cellsOf (n + 1) vs else (n, v) :: cellsOf (n + 1) vs

/-! ## Tables by key -/

/-- The value listed for a key, or the default. -/
def kGet {α : Type} (d : α) : List (Nat × α) → Nat → α
  | [], _ => d
  | (k, v) :: rest, n => if n = k then v else kGet d rest n

/-- Lists a value for a key, in rising order of keys. -/
def kSet {α : Type} : List (Nat × α) → Nat → α → List (Nat × α)
  | [], n, v => [(n, v)]
  | (k, x) :: rest, n, v =>
    if n < k then (n, v) :: (k, x) :: rest
    else if n = k then (n, v) :: rest
    else (k, x) :: kSet rest n v

/-- Whether a key is listed. -/
def kHas {α : Type} (l : List (Nat × α)) (n : Nat) : Bool := l.any fun kv => kv.1 == n

/-- Removes a key. -/
def kDel {α : Type} (l : List (Nat × α)) (n : Nat) : List (Nat × α) := l.filter fun kv => kv.1 != n

/-! ## Bytes, little-endian (R1) -/

/-- The number whose bytes are given, lowest first. -/
def leNat : List (BitVec 8) → Nat
  | [] => 0
  | b :: bs => b.toNat + 256 * leNat bs

/-- The word whose bytes are given, lowest first. -/
def ofBytes (w : Nat) (bs : List (BitVec 8)) : BitVec w := BitVec.ofNat w (leNat bs)

/-- A little-endian field of a record. -/
def field {w : Nat} (bs : List (BitVec 8)) (off : Nat) : BitVec w := ofBytes w ((bs.drop off).take ((w + 7) / 8))

/-- The lowest `n` bytes of a word, lowest first. -/
def toBytes {w : Nat} (n : Nat) (x : BitVec w) : List (BitVec 8) :=
  (List.range n).map fun i => x.extractLsb' (8 * i) 8

/-- One bit of a word. -/
def bit {w : Nat} (x : BitVec w) (i : Nat) : Bool := x.getLsbD i

/-- A flag as a word. -/
def flagBit (w : Nat) (b : Bool) (i : Nat) : BitVec w := if b then BitVec.ofNat w (2 ^ i) else 0

/-- A field as a part of a word: `x` at bit `lo`. -/
def place {v : Nat} (w : Nat) (x : BitVec v) (lo : Nat) : BitVec w := x.setWidth w <<< lo

/-- The least of two numbers that may be absent. -/
def optMin : Option Nat → Option Nat → Option Nat
  | none, b => b
  | a, none => a
  | some a, some b => some (min a b)

/-- The position of the first element that satisfies a test. -/
def findAt {α : Type} (p : α → Bool) : List α → Nat → Option Nat
  | [], _ => none
  | x :: xs, i => if p x then some i else findAt p xs (i + 1)

/-- Puts an element before the first with a greater key. -/
def insertKey {α : Type} (key : α → Nat) (x : α) : List α → List α
  | [] => [x]
  | y :: ys => if key x < key y then x :: y :: ys else y :: insertKey key x ys

/-- Sorts by a key; equal keys keep their order. -/
def sortKey {α : Type} (key : α → Nat) (l : List α) : List α := l.foldl (fun r x => insertKey key x r) []

end Sys2Proof.Machine
end

