-- ==== Sys2Proof/Machine/Numbers.lean ====
section
/-!
DEFINITION. Number formats and exact arithmetic (R79 to R97): a value is held exactly, every operation is exact, and one
rounding ends it.
-/
namespace Sys2Proof.Machine

/-! ## Flags (R80), in the bit order of k.flags -/

abbrev Flags5 := BitVec 5
abbrev fNV : Flags5 := 1
abbrev fDV : Flags5 := 2
abbrev fOF : Flags5 := 4
abbrev fUF : Flags5 := 8
abbrev fNX : Flags5 := 16

/-- A flag when a condition holds. -/
def flagIf (b : Bool) (f : Flags5) : Flags5 := if b then f else 0

/-! ## Exact values -/

/-- An exact value: a NaN (signalling or not), an infinity, or `(-1)^neg · m · 2^e`, which is a signed zero when `m` is 0. -/
inductive Val where
  | nan (signalling : Bool)
  | inf (neg : Bool)
  | num (neg : Bool) (m : Nat) (e : Int)
deriving DecidableEq, Repr

/-- `2^e` as a natural number, for exponents that are not negative. -/
def pow2 (e : Int) : Nat := 2 ^ e.toNat

/-- The value of an integer times a power of two; zero is +0. -/
def Val.ofInt (i : Int) (e : Int) : Val := .num (decide (i < 0)) i.natAbs e

/-- Numerator of a finite value. -/
def signedOf (neg : Bool) (m : Nat) : Int := if neg then -(m : Int) else m

/-- `m / 2^k`, rounded to nearest, ties to even (R79). -/
def rneNat (m k : Nat) : Nat :=
  let q := m / 2 ^ k
  let r := m % 2 ^ k
  if 2 ^ k < 2 * r ∨ (2 * r = 2 ^ k ∧ q % 2 = 1) then q + 1 else q

/-- `m · 2^e` rounded to an integer, ties to even, and whether that was inexact. -/
def rneMag (m : Nat) (e : Int) : Nat × Bool :=
  if 0 ≤ e then (m * pow2 e, false)
  else
    let k := (-e).toNat
    (rneNat m k, decide (m % 2 ^ k ≠ 0))

/-- A signed integer `i · 2^e` rounded to an integer, ties to even. -/
def rneInt (i : Int) (e : Int) : Int :=
  let (m, _) := rneMag i.natAbs e
  if i < 0 then -(m : Int) else m

/-- Compares `m1 · 2^e1` with `m2 · 2^e2`: whether the first is less. -/
def magLt (m1 : Nat) (e1 : Int) (m2 : Nat) (e2 : Int) : Bool :=
  let e := min e1 e2
  decide (m1 * pow2 (e1 - e) < m2 * pow2 (e2 - e))

/-- Whether a value is a NaN. -/
def Val.isNan : Val → Bool
  | .nan _ => true
  | _ => false

/-- Whether a value is a signalling NaN. -/
def Val.isSignalling : Val → Bool
  | .nan b => b
  | _ => false

/-- Whether a value is a zero of either sign. -/
def Val.isZero : Val → Bool
  | .num _ 0 _ => true
  | _ => false

/-- Whether a value is negative, a negative zero included. -/
def Val.isNeg : Val → Bool
  | .nan _ => false
  | .inf n => n
  | .num n _ _ => n

/-- The negative of a value. -/
def Val.negate : Val → Val
  | .nan b => .nan b
  | .inf n => .inf !n
  | .num n m e => .num (!n) m e

/-- The magnitude of a value. -/
def Val.magnitude : Val → Val
  | .nan b => .nan b
  | .inf _ => .inf false
  | .num _ m e => .num false m e

/-- Whether the first of two values is less; false for a NaN. Zeros of either sign are equal. -/
def Val.lt : Val → Val → Bool
  | .nan _, _ => false
  | _, .nan _ => false
  | .inf a, .inf b => a && !b
  | .inf a, .num _ _ _ => a
  | .num _ _ _, .inf b => !b
  | .num n1 m1 e1, .num n2 m2 e2 =>
    let e := min e1 e2
    decide (signedOf n1 m1 * (pow2 (e1 - e) : Int) < signedOf n2 m2 * (pow2 (e2 - e) : Int))

/-- Whether two values are equal; false for a NaN. -/
def Val.eqv (a b : Val) : Bool := !a.isNan && !b.isNan && !a.lt b && !b.lt a

/-! ## Floats: FP32 and BF16 (R81) -/

/-- The value of a float code of `f` fraction bits, 8 exponent bits and a sign (R81). -/
def floatVal (f : Nat) (c : Nat) : Val :=
  let neg := decide (c / 2 ^ (f + 8) % 2 = 1)
  let ex := c / 2 ^ f % 256
  let fr := c % 2 ^ f
  if ex = 255 then (if fr = 0 then .inf neg else .nan (decide (fr / 2 ^ (f - 1) = 0)))
  else if ex = 0 then .num neg fr (-126 - (f : Int))
  else .num neg (2 ^ f + fr) ((ex : Int) - 127 - (f : Int))

/-- Rounds a nonzero magnitude to a float of `f` fraction bits: the code without its sign, and the flags (R79, R80). -/
def floatRound (f : Nat) (m : Nat) (e : Int) : Nat × Flags5 :=
  let top : Int := (Nat.log2 m : Int) + e
  let q : Int := max (top - (f : Int)) (-126 - (f : Int))
  let (n, inexact) := rneMag m (e - q)
  let code := (q + 126 + (f : Int)).toNat * 2 ^ f + n
  if 255 * 2 ^ f ≤ code then (255 * 2 ^ f, fOF ||| fNX)
  else (code, flagIf inexact fNX ||| flagIf (inexact && decide (top < -126)) fUF)

/-- A value as a float of `f` fraction bits, with the flags of the one rounding (R79, R81). -/
def toFloat (f : Nat) : Val → Nat × Flags5
  | .nan b => (255 * 2 ^ f + 2 ^ (f - 1), flagIf b fNV)
  | .inf neg => (255 * 2 ^ f + (if neg then 2 ^ (f + 8) else 0), 0)
  | .num neg m e =>
    let sg := if neg then 2 ^ (f + 8) else 0
    if m = 0 then (sg, 0)
    else
      let (c, fl) := floatRound f m e
      (sg + c, fl)

/-- The value of an FP32 pattern. -/
def f32Val (x : BitVec 32) : Val := floatVal 23 x.toNat
/-- The value of a BF16 pattern. -/
def bf16Val (x : BitVec 16) : Val := floatVal 7 x.toNat
/-- A value rounded to FP32. -/
def toF32 (v : Val) : BitVec 32 × Flags5 :=
  let (c, fl) := toFloat 23 v
  (BitVec.ofNat 32 c, fl)
/-- A value rounded to BF16. -/
def toBf16 (v : Val) : BitVec 16 × Flags5 :=
  let (c, fl) := toFloat 7 v
  (BitVec.ofNat 16 c, fl)
/-- The default NaN of FP32 (R81). -/
abbrev f32NaN : BitVec 32 := 0x7FC00000

/-! ## Exact operations -/

/-- The exact sum of two values. NV: a signalling NaN, or ∞ − ∞ (R80). An exact zero sum is +0 unless both are −0. -/
def Val.add : Val → Val → Val × Flags5
  | .nan a, b => (.nan false, flagIf (a || b.isSignalling) fNV)
  | a, .nan b => (.nan false, flagIf (b || a.isSignalling) fNV)
  | .inf a, .inf b => if a = b then (.inf a, 0) else (.nan false, fNV)
  | .inf a, .num _ _ _ => (.inf a, 0)
  | .num _ _ _, .inf b => (.inf b, 0)
  | .num n1 m1 e1, .num n2 m2 e2 =>
    let e := min e1 e2
    let t := signedOf n1 m1 * (pow2 (e1 - e) : Int) + signedOf n2 m2 * (pow2 (e2 - e) : Int)
    (.num (if t = 0 then n1 && n2 else decide (t < 0)) t.natAbs e, 0)

/-- An exact zero sum as rne32 of R94 gives it: +0, whatever the signs of the addends. -/
def Val.zeroSum : Val → Val
  | .num n m e => .num (n && m != 0) m e
  | v => v

/-- The exact product of two values. NV: a signalling NaN, or 0 × ∞ (R80). -/
def Val.mul : Val → Val → Val × Flags5
  | .nan a, b => (.nan false, flagIf (a || b.isSignalling) fNV)
  | a, .nan b => (.nan false, flagIf (b || a.isSignalling) fNV)
  | .inf a, .inf b => (.inf (a != b), 0)
  | .inf a, .num n m _ => if m = 0 then (.nan false, fNV) else (.inf (a != n), 0)
  | .num n m _, .inf b => if m = 0 then (.nan false, fNV) else (.inf (b != n), 0)
  | .num n1 m1 e1, .num n2 m2 e2 => (.num (n1 != n2) (m1 * m2) (e1 + e2), 0)

/-- A quotient of nonzero magnitudes, exact or with its last bit standing for the rest: one rounding of it to a float
rounds the exact quotient. -/
def quotient (m1 : Nat) (e1 : Int) (m2 : Nat) (e2 : Int) : Nat × Int :=
  let k := Nat.log2 m2 + 64
  let n := m1 * 2 ^ k
  (2 * (n / m2) + (if n % m2 = 0 then 0 else 1), e1 - e2 - (k : Int) - 1)

/-- The square root of a nonzero magnitude, exact or with its last bit standing for the rest. -/
def rootOf (m : Nat) (e : Int) : Nat × Int :=
  let (m, e) := if e % 2 = 0 then (m, e) else (2 * m, e - 1)
  let n := m * 2 ^ 128
  let r := Nat.sqrt n
  (2 * r + (if r * r = n then 0 else 1), e / 2 - 65)

/-! ## T8 (R82 to R85) -/

/-- Length of the run of equal bits from bit 6 down (R82). -/
def t8Run (m : BitVec 7) : Nat :=
  let b := m.getLsbD 6
  let same (i : Nat) : Bool := m.getLsbD i == b
  if !same 5 then 1 else if !same 4 then 2 else if !same 3 then 3 else if !same 2 then 4 else if !same 1 then 5
  else if !same 0 then 6 else 7

/-- The magnitude of a nonzero T8 magnitude code (R82). -/
def t8Mag (c : Nat) : Nat × Int :=
  let m := BitVec.ofNat 7 c
  let l := t8Run m
  let k : Int := if m.getLsbD 6 then (l : Int) - 1 else -(l : Int)
  let rest := 6 - l
  if rest = 0 then (1, 2 * k)
  else
    let e : Int := if m.getLsbD (rest - 1) then 1 else 0
    let w := rest - 1
    (2 ^ w + c % 2 ^ w, 2 * k + e - (w : Int))

/-- The value of a T8 code (R82). -/
def t8Val (c : BitVec 8) : Val :=
  let m := c.toNat % 128
  let neg := c.getLsbD 7
  if m = 0 then (if neg then .nan false else .num false 0 0)
  else
    let (n, e) := t8Mag m
    .num neg n e

/-- The nearest magnitude code of a magnitude from 2^−12 to 4096, ties to the even code (R84). -/
def t8Nearest (m : Nat) (e : Int) : Nat :=
  let below := (List.range 127).foldl (fun best i =>
    let (n, x) := t8Mag (i + 1)
    if magLt m e n x then best else i + 1) 1
  if below = 127 then 127
  else
    let (n1, e1) := t8Mag below
    let (n2, e2) := t8Mag (below + 1)
    let x := min e1 e2
    let mid := n1 * pow2 (e1 - x) + n2 * pow2 (e2 - x)
    if magLt m e mid (x - 1) then below
    else if magLt mid (x - 1) m e then below + 1
    else if below % 2 = 0 then below else below + 1

/-- Conversion into T8 (R84). -/
def toT8 : Val → BitVec 8 × Flags5
  | .nan b => (0x80, flagIf b fNV)
  | .inf neg => (if neg then 0xFF else 0x7F, fOF ||| fNX)
  | .num neg m e =>
    let sg : BitVec 8 := if neg then 0x80 else 0
    if m = 0 then (0, 0)
    else if magLt m e 1 (-13) then (0, fUF ||| fNX)
    else if magLt m e 1 (-12) then (sg ||| 1, fUF ||| fNX)
    else if magLt 4096 0 m e then (sg ||| 0x7F, fOF ||| fNX)
    else
      let c := t8Nearest m e
      let (n, x) := t8Mag c
      (sg ||| BitVec.ofNat 8 c, flagIf (magLt m e n x || magLt n x m e) fNX)

/-! ## H4 and H8 (R86, R87) -/

/-- The value n + 1/2 of a half-step code (R86). -/
def halfVal (n : Int) : Val := Val.ofInt (2 * n + 1) (-1)

/-- Conversion into a half-step format of `w` bits (R87). -/
def toHalfStep (w : Nat) : Val → BitVec w × Flags5
  | .nan _ => (0, fNV)
  | .inf neg => (if neg then BitVec.ofNat w (2 ^ (w - 1)) else BitVec.ofNat w (2 ^ (w - 1) - 1), fOF ||| fNX)
  | .num neg m e =>
    let top := 2 ^ w - 1
    if m = 0 then (if neg then BitVec.allOnes w else 0, fNX)
    else if magLt top (-1) m e then
      (if neg then BitVec.ofNat w (2 ^ (w - 1)) else BitVec.ofNat w (2 ^ (w - 1) - 1), fOF ||| fNX)
    else
      let x := min e (-1)
      let n := rneInt (signedOf neg m * (pow2 (e - x) : Int) - (pow2 (-1 - x) : Int)) x
      let exact := Val.eqv (.num neg m e) (halfVal n)
      (BitVec.ofInt w n, flagIf (!exact) fNX)

/-! ## Integers (R88, R89) -/

/-- Clamps an integer into a range. -/
def clamp (lo hi x : Int) : Int := if x < lo then lo else if hi < x then hi else x

/-- Least and greatest value of an integer type (R88). -/
def intRange (signed : Bool) (w : Nat) : Int × Int :=
  if signed then (-(2 ^ (w - 1) : Nat), (2 ^ (w - 1) : Nat) - 1) else (0, (2 ^ w : Nat) - 1)

/-- Conversion into an integer type (R89). -/
def toInteger (signed : Bool) (w : Nat) : Val → BitVec w × Flags5
  | .nan _ => (0, fNV)
  | .inf neg => (BitVec.ofInt w (if neg then (intRange signed w).1 else (intRange signed w).2), fNV)
  | .num neg m e =>
    let (r, inexact) := rneMag m e
    let i := signedOf neg r
    let (lo, hi) := intRange signed w
    if i < lo ∨ hi < i then (BitVec.ofInt w (clamp lo hi i), fNV) else (BitVec.ofInt w i, flagIf inexact fNX)

/-! ## Formats by name -/

/-- The element formats (R81, R82, R86, R88). -/
inductive Fmt where
  | f32 | bf16 | t8 | h8 | h4
  | int (signed : Bool) (w : Nat)
deriving DecidableEq, Repr

/-- Bits of an element. -/
def Fmt.width : Fmt → Nat
  | .f32 => 32 | .bf16 => 16 | .t8 => 8 | .h8 => 8 | .h4 => 4 | .int _ w => w

/-- The value of an element's bits. -/
def Fmt.val (f : Fmt) (c : Nat) : Val :=
  match f with
  | .f32 => floatVal 23 c
  | .bf16 => floatVal 7 c
  | .t8 => t8Val (BitVec.ofNat 8 c)
  | .h8 => halfVal (BitVec.ofNat 8 c).toInt
  | .h4 => halfVal (BitVec.ofNat 4 c).toInt
  | .int true w => Val.ofInt (BitVec.ofNat w c).toInt 0
  | .int false w => Val.ofInt (c % 2 ^ w : Nat) 0

/-- A value converted to a format: its bits and the flags (R81, R84, R87, R89). -/
def Fmt.code (f : Fmt) (v : Val) : Nat × Flags5 :=
  match f with
  | .f32 => toFloat 23 v
  | .bf16 => toFloat 7 v
  | .t8 => let (c, fl) := toT8 v; (c.toNat, fl)
  | .h8 => let (c, fl) := toHalfStep 8 v; (c.toNat, fl)
  | .h4 => let (c, fl) := toHalfStep 4 v; (c.toNat, fl)
  | .int sg w => let (c, fl) := toInteger sg w v; (c.toNat, fl)

/-- The formats of a stream or chain walk by FMT (R158). -/
def fmtOf (n : Nat) : Option Fmt :=
  match n with
  | 0 => some .f32 | 1 => some .bf16 | 2 => some .t8 | 3 => some .h8 | 4 => some .h4
  | 5 => some (.int true 8) | 6 => some (.int true 16) | 7 => some (.int true 32) | 8 => some (.int true 64)
  | 9 => some (.int false 8) | 10 => some (.int false 16) | 11 => some (.int false 32) | 12 => some (.int false 64)
  | _ => none

/-! ## Binned accumulators (R95 to R97) -/

/-- The twelve bins of a binned accumulator, b[0] first. -/
abbrev Bins := List (BitVec 64)

/-- Bin `i`. -/
def binAt (b : Bins) (i : Nat) : BitVec 64 := b.getD i 0

/-- The special state a b[11] marks (R95). -/
def binSpecial (b : Bins) : Option Val :=
  let t := binAt b 11
  if t = 0x4000000000000000 then some (.inf false)
  else if t = 0xC000000000000000 then some (.inf true)
  else if 2 ^ 60 ≤ t.toInt.natAbs then some (.nan false)
  else none

/-- The marker of a special state (R95). -/
def binMarker : Val → BitVec 64
  | .inf false => 0x4000000000000000
  | .inf true => 0xC000000000000000
  | _ => 0x8000000000000000

/-- The value V of a finite accumulator (R95). -/
def binValue (b : Bins) : Val :=
  Val.ofInt ((List.range 12).foldl (fun t i => t + (binAt b i).toInt * ((2 ^ (24 * i) : Nat) : Int)) 0) (-149)

/-- special_sum of R96: the state of the accumulator, and the value added. -/
def specialSum (state : Option Val) (x : Val) : Val :=
  match state, x with
  | some (.nan _), _ => .nan false
  | _, .nan _ => .nan false
  | some (.inf a), .inf b => if a = b then .inf a else .nan false
  | some (.inf a), .num _ _ _ => .inf a
  | none, x => x
  | some (.num _ _ _), x => x

/-- Whether an addition to a bin wraps modulo 2^64: only past 2^40 - 1 additions does one (R96). -/
def binWraps (b : BitVec 64) (k : Int) : Bool := (b + BitVec.ofInt 64 k).toInt != b.toInt + k

/-- The open value of an accumulator that an addition has wrapped: each bin takes one of the accumulator's bins before and after it, which
a free choice names (R4, R96, log 7). -/
def openBins (b new : Bins) (x : BitVec 32) : Bins :=
  (List.range 12).map fun j => (b ++ new).getD (Config.binChoice b x j % 24) 0

/-- Adds an FP32 value to a binned accumulator (R96). -/
def binAdd (b : Bins) (x : BitVec 32) : Bins :=
  let v := f32Val x
  match binSpecial b, v with
  | none, .num neg m e =>
    if m = 0 then b
    else
      let p := (e + 149).toNat
      let i := p / 24
      let big := m * 2 ^ (p % 24)
      let lo0 : Int := (big % 2 ^ 24 : Nat)
      let lo := if (2 ^ 23 : Int) ≤ lo0 then lo0 - 2 ^ 24 else lo0
      let hi := ((big : Int) - lo) / 2 ^ 24
      let sg : Int := if neg then -1 else 1
      let new := (b.set i (binAt b i + BitVec.ofInt 64 (sg * lo))).set (i + 1) (binAt b (i + 1) + BitVec.ofInt 64 (sg * hi))
      if binWraps (binAt b i) (sg * lo) || binWraps (binAt b (i + 1)) (sg * hi) then openBins b new x else new
  | state, v => b.set 11 (binMarker (specialSum state v))

/-- One carry of a normalisation: bin `i` into bin `i + 1`, by floor division of the exact sum (R97). -/
def binCarry (b : Bins) (i : Nat) : Bins :=
  let c := BitVec.ofInt 64 (((binAt b i).toInt + 2 ^ 23) / 2 ^ 24)
  (b.set i (binAt b i - c * 0x1000000)).set (i + 1) (binAt b (i + 1) + c)

/-- Normalises a finite accumulator; a special one stays as it is (R97). -/
def binNormalise (b : Bins) : Bins :=
  if (binSpecial b).isSome then b else (List.range 11).foldl binCarry b

/-- rne32(V) of an accumulator, with the flags of one FP32 rounding (R97); a special state gives its value. -/
def binRound (b : Bins) : BitVec 32 × Flags5 :=
  match binSpecial b with
  | some v => ((toF32 v).1, 0)
  | none => toF32 (binValue b)

/-! ## Sums of an accumulation (R94) -/

/-- acc + bk, rounded once (R94). -/
def accumulate (acc : BitVec 32) (bk : Val) : BitVec 32 := (toF32 ((f32Val acc).add bk).1).1

end Sys2Proof.Machine
end

