-- ==== Sys2Proof/Machine/Coords.lean ====
section
/-!
DEFINITION. Coordinates (R15 to R17), and the parts of the state under their own names: one strand, the registers of a
strand, the code it runs.
-/
namespace Sys2Proof.Machine

/-! ## Coordinates -/

/-- Register `j` of a coordinate; those above c5 read zero. -/
def Coord.get (c : Coord) : Nat → BitVec 32
  | 0 => c.c0 | 1 => c.c1 | 2 => c.c2 | 3 => c.c3 | 4 => c.c4 | 5 => c.c5 | _ => 0

/-- A coordinate with register `j` replaced. -/
def Coord.put (c : Coord) (j : Nat) (v : BitVec 32) : Coord :=
  match j with
  | 0 => { c with c0 := v } | 1 => { c with c1 := v } | 2 => { c with c2 := v }
  | 3 => { c with c3 := v } | 4 => { c with c4 := v } | 5 => { c with c5 := v } | _ => c

/-- The coordinate as one number, c0 the most significant: R15's order is the order of these. -/
def Coord.key (c : Coord) : Nat :=
  ((((c.c0.toNat * 2 ^ 32 + c.c1.toNat) * 2 ^ 32 + c.c2.toNat) * 2 ^ 32 + c.c3.toNat) * 2 ^ 32 + c.c4.toNat) * 2 ^ 32
    + c.c5.toNat

/-- The coordinate with a given number. -/
def Coord.ofKey (k : Nat) : Coord :=
  let r (j : Nat) : BitVec 32 := BitVec.ofNat 32 (k / 2 ^ (32 * (5 - j)))
  ⟨r 0, r 1, r 2, r 3, r 4, r 5⟩

/-- Above every coordinate. -/
def topKey : Nat := 2 ^ 192

/-- Keeps c0..cj and puts the more inner registers to zero (R153). -/
def Coord.cutAfter (c : Coord) (j : Nat) : Coord :=
  let z (i : Nat) : BitVec 32 := if i ≤ j then c.get i else 0
  ⟨z 0, z 1, z 2, z 3, z 4, z 5⟩

/-- CADV j: one more in dimension `j`, zero in the inner ones (R16). -/
def Coord.advance (c : Coord) (j : Nat) : Coord := (c.cutAfter j).put j (c.get j + 1)

/-- CSET j: `v` in dimension `j`, zero in the inner ones (R153). -/
def Coord.assign (c : Coord) (j : Nat) (v : BitVec 32) : Coord := (c.cutAfter j).put j v

/-- The coordinate as the 192 bits of a record: c0 lowest (R102). -/
def Coord.bits (c : Coord) : BitVec 192 := c.c5 ++ c.c4 ++ c.c3 ++ c.c2 ++ c.c1 ++ c.c0

/-- A coordinate from the 192 bits of a record. -/
def Coord.ofBits (x : BitVec 192) : Coord :=
  let r (j : Nat) : BitVec 32 := x.extractLsb' (32 * j) 32
  ⟨r 0, r 1, r 2, r 3, r 4, r 5⟩

/-- The least coordinate above one, in a nest of depth `d` (R337): 2^192 where it is the greatest. -/
def keyAbove (d k : Nat) : Nat :=
  let unit := 2 ^ (32 * (6 - d))
  min topKey ((k / unit + 1) * unit)

/-! ## Fixed tables -/

/-- Element `n` of sixteen. -/
def at16 {α : Type} (v : Vector α 16) (n : BitVec 4) : α := v[n.toFin]
/-- Sixteen elements with one replaced. -/
def put16 {α : Type} (v : Vector α 16) (n : BitVec 4) (x : α) : Vector α 16 := v.set n.toFin x
/-- Element `n` of sixty-four. -/
def at64 {α : Type} (v : Vector α 64) (n : BitVec 6) : α := v[n.toFin]
/-- Sixty-four elements with one replaced. -/
def put64 {α : Type} (v : Vector α 64) (n : BitVec 6) (x : α) : Vector α 64 := v.set n.toFin x
/-- Element `n` of eight. -/
def at8 {α : Type} (v : Vector α 8) (n : BitVec 3) : α := v[n.toFin]
/-- Eight elements with one replaced. -/
def put8 {α : Type} (v : Vector α 8) (n : BitVec 3) (x : α) : Vector α 8 := v.set n.toFin x

/-! ## Strands -/

/-- The number of a strand in records (R102). -/
def strandNum : StrandId → Nat
  | .K => 0 | .A => 1 | .V => 2 | .M => 3

/-- The strand with a number. -/
def strandOf (n : Nat) : StrandId :=
  match n % 4 with
  | 0 => .K | 1 => .A | 2 => .V | _ => .M

/-- All strands, lowest number first. -/
def strandIds : List StrandId := [.K, .A, .V, .M]

/-- Strand `x` of a core. -/
def Core.strand (c : Core) : StrandId → Strand
  | .K => c.k | .A => c.a | .V => c.v | .M => c.m

/-- The core with strand `x` replaced. -/
def Core.putStrand (c : Core) (x : StrandId) (t : Strand) : Core :=
  match x with
  | .K => { c with k := t } | .A => { c with a := t } | .V => { c with v := t } | .M => { c with m := t }

/-- Strand `x`. -/
def State.strand (s : State) (x : StrandId) : Strand := s.core.strand x
/-- Replaces strand `x`. -/
def State.putStrand (s : State) (x : StrandId) (t : Strand) : State := { s with core := s.core.putStrand x t }
/-- Changes strand `x`. -/
def State.onStrand (s : State) (x : StrandId) (f : Strand → Strand) : State := s.putStrand x (f (s.strand x))

/-- Changes the system registers. -/
def State.onSys (s : State) (f : System → System) : State := { s with core := { s.core with sys := f s.core.sys } }
/-- Changes the quench unit. -/
def State.onQu (s : State) (f : QuenchUnit → QuenchUnit) : State := { s with core := { s.core with qu := f s.core.qu } }
/-- Changes the vector state. -/
def State.onVec (s : State) (f : VectorState → VectorState) : State := { s with core := { s.core with vec := f s.core.vec } }
/-- Changes the matrix engine. -/
def State.onMat (s : State) (f : MatrixState → MatrixState) : State := { s with core := { s.core with mat := f s.core.mat } }
/-- Changes the memory unit. -/
def State.onMu (s : State) (f : MemoryState → MemoryState) : State := { s with pk := { s.pk with mu := f s.pk.mu } }
/-- Changes the package. -/
def State.onPk (s : State) (f : Package → Package) : State := { s with pk := f s.pk }
/-- Changes the core. -/
def State.onCore (s : State) (f : Core → Core) : State := { s with core := f s.core }

/-- The system registers. -/
abbrev State.sys (s : State) : System := s.core.sys

/-! ## Scalar registers -/

/-- A register of a bank. -/
def Bank.get (b : Bank) (n : BitVec 5) : BitVec 64 := b[n.toFin]
/-- A bank with one register replaced. -/
def Bank.put (b : Bank) (n : BitVec 5) (v : BitVec 64) : Bank := b.set n.toFin v

/-- Reads the register a 6-bit field names for strand `x` (R71): s0 reads zero (R132). -/
def State.reg (s : State) (x : StrandId) (f : BitVec 6) : BitVec 64 :=
  if f.getLsbD 5 then s.core.areg.get (f.setWidth 5)
  else if f = 0 then 0 else (s.strand x).s.get (f.setWidth 5)

/-- Writes the register a 6-bit field names for strand `x` (R71): a write to s0 is discarded (R132). -/
def State.putReg (s : State) (x : StrandId) (f : BitVec 6) (v : BitVec 64) : State :=
  if f.getLsbD 5 then { s with core := { s.core with areg := s.core.areg.put (f.setWidth 5) v } }
  else if f = 0 then s else s.onStrand x fun t => { t with s := t.s.put (f.setWidth 5) v }

/-- Whether a 6-bit register field names a class the strand has (R71, R77 step 7). -/
def regOk (x : StrandId) (f : BitVec 6) : Bool := !f.getLsbD 5 || x == .A

/-! ## Code -/

/-- The running plane (R12, R123). -/
def State.plane (s : State) : Plane := if s.sys.planeAct then s.pk.plane1 else s.pk.plane0
/-- The shadow plane. -/
def State.shadow (s : State) : Plane := if s.sys.planeAct then s.pk.plane0 else s.pk.plane1
/-- Replaces the running plane. -/
def State.putPlane (s : State) (p : Plane) : State :=
  s.onPk fun k => if s.sys.planeAct then { k with plane1 := p } else { k with plane0 := p }
/-- Replaces the shadow plane. -/
def State.putShadow (s : State) (p : Plane) : State :=
  s.onPk fun k => if s.sys.planeAct then { k with plane0 := p } else { k with plane1 := p }

/-- The code section of strand `x` in an object. -/
def PlaneObject.codeOf (o : PlaneObject) : StrandId → List (BitVec 16)
  | .K => o.code[0] | .A => o.code[1] | .V => o.code[2] | .M => o.code[3]

/-- The code section strand `x` fetches from. -/
def State.code (s : State) (x : StrandId) : List (BitVec 16) := s.plane.object.codeOf x

/-- The halfword at an offset; beyond the section there is none. -/
def halfAt (code : List (BitVec 16)) (p : Nat) : BitVec 16 := code.getD p 0

/-- The 32-bit item at an offset: high halfword first (R63). -/
def wordAt (code : List (BitVec 16)) (p : Nat) : BitVec 32 := halfAt code p ++ halfAt code (p + 1)

/-- The item at an offset (R69). -/
def itemAt (code : List (BitVec 16)) (p : Nat) : Item :=
  if (halfAt code p).getLsbD 15 then .wide (wordAt code p) else .compact (halfAt code p)

/-- LEN of a header word (R64). -/
def hdrLen (h : BitVec 32) : Nat := (h.extractLsb' 19 10).toNat

/-- The header after the one at `h` (R65 item 5). -/
def nextHeader (code : List (BitVec 16)) (h : Nat) : Nat :=
  let e := h + 2 + hdrLen (wordAt code h)
  e + e % 2

/-- Whether the chain of blocks reaches a header at offset `p`, from offset `h` on (R62). -/
def headerFrom (code : List (BitVec 16)) : Nat → Nat → Nat → Bool
  | 0, _, _ => false
  | fuel + 1, h, p =>
    if h = p then decide (p + 1 < code.length) else if p < h then false else headerFrom code fuel (nextHeader code h) p

/-- Whether the chain of blocks reaches offset `p`, from offset `h` on: a header beyond the code leads nowhere. -/
def chainFrom (code : List (BitVec 16)) : Nat → Nat → Nat → Bool
  | 0, _, _ => false
  | fuel + 1, h, p =>
    if h = p then true else if p < h ∨ code.length ≤ h + 1 then false else chainFrom code fuel (nextHeader code h) p

/-- Whether a section's blocks end at offset `p`: the place of the header after the last block (R65 item 5). -/
def blocksEnd (code : List (BitVec 16)) (p : Nat) : Bool :=
  p % 2 == 0 && decide (code.length ≤ p + 1) && chainFrom code (code.length + 1) 0 p

/-- Whether a block header stands at offset `p` of a section (R62, R68). -/
def isHeader (code : List (BitVec 16)) (p : Nat) : Bool :=
  p % 2 == 0 && headerFrom code (code.length + 1) 0 p

/-- Whether an item of a body starts at offset `p`, from offset `q` on (R68, R69). -/
def startFrom (code : List (BitVec 16)) : Nat → Nat → Nat → Bool
  | 0, _, _ => false
  | fuel + 1, q, p =>
    if q = p then true
    else if p < q then false
    else startFrom code fuel (q + if (halfAt code q).getLsbD 15 then 2 else 1) p

/-- Whether an item of the body of the block at `h` starts at offset `p`. -/
def isStart (code : List (BitVec 16)) (h p : Nat) : Bool :=
  let len := hdrLen (wordAt code h)
  decide (h + 2 ≤ p ∧ p < h + 2 + len) && startFrom code (len + 1) (h + 2) p

/-- The offset just past the body of the block at `h`. -/
def bodyEnd (code : List (BitVec 16)) (h : Nat) : Nat := h + 2 + hdrLen (wordAt code h)

/-! ## Free values -/

/-- A free value of `w` bits (log 7), and the state with the counter advanced. -/
def State.fresh (s : State) (w : Nat) : BitVec w × State :=
  (Config.freeBits w s.freeCtr, { s with freeCtr := s.freeCtr + 1 })

/-- `k` open values, each a freely chosen member of the set that the manual states for them (R4). -/
def State.choose {w : Nat} (s : State) (k : Nat) (pool : List (BitVec w)) : List (BitVec w) × State :=
  let a := pool.toArray
  ((List.range k).map fun l => a.getD (Config.freeNat (s.freeCtr + l) % a.size) 0, { s with freeCtr := s.freeCtr + k })

/-- A free choice (log 7). -/
def State.freshNat (s : State) : Nat × State := (Config.freeNat s.freeCtr, { s with freeCtr := s.freeCtr + 1 })

end Sys2Proof.Machine
end

