-- ==== Sys2Proof/Machine/Ops.lean ====
section
/-!
DEFINITION. The operations every meaning uses: causes, records and their delivery, entry into S and return, the end of
an item, the horizon, changes of coordinate and cut images.
-/
namespace Sys2Proof.Machine

/-! ## Causes (R104) -/

abbrev cIllegalEncoding : BitVec 6 := 0x01
abbrev cReservedSpace : BitVec 6 := 0x02
abbrev cWrongStrand : BitVec 6 := 0x03
abbrev cBadBlock : BitVec 6 := 0x04
abbrev cLoopBuffer : BitVec 6 := 0x05
abbrev cPrivileged : BitVec 6 := 0x06
abbrev cPatchTrap : BitVec 6 := 0x07
abbrev cBreakpoint : BitVec 6 := 0x08
abbrev cSingleStep : BitVec 6 := 0x09
abbrev cSoftTrap : BitVec 6 := 0x0A
abbrev cPcAlign : BitVec 6 := 0x0B
abbrev cDivideZero : BitVec 6 := 0x0C
abbrev cFpTrap : BitVec 6 := 0x0D
abbrev cOperandRange : BitVec 6 := 0x0E
abbrev cSysregAccess : BitVec 6 := 0x0F
abbrev cPageAbsent : BitVec 6 := 0x10
abbrev cPageProtect : BitVec 6 := 0x11
abbrev cRemoteAtomic : BitVec 6 := 0x12
abbrev cDiscardedWrite : BitVec 6 := 0x13
abbrev cDataAlign : BitVec 6 := 0x14
abbrev cAperture : BitVec 6 := 0x15
abbrev cLatencyClass : BitVec 6 := 0x16
abbrev cKeyAbsent : BitVec 6 := 0x17
abbrev cHostTranslation : BitVec 6 := 0x18
abbrev cSideLogFull : BitVec 6 := 0x19
abbrev cScratchBounds : BitVec 6 := 0x1A
abbrev cTagTable : BitVec 6 := 0x1B
abbrev cStreamDesc : BitVec 6 := 0x1C
abbrev cRingProtocol : BitVec 6 := 0x1D
abbrev cRingStall : BitVec 6 := 0x1E
abbrev cParcelEscape : BitVec 6 := 0x1F
abbrev cParcelTransit : BitVec 6 := 0x20
abbrev cParcelState : BitVec 6 := 0x21
abbrev cCoordOrder : BitVec 6 := 0x22
abbrev cQuenchStop : BitVec 6 := 0x23
abbrev cQuenchScope : BitVec 6 := 0x24
abbrev cMatrixCheck : BitVec 6 := 0x25
abbrev cMatrixShape : BitVec 6 := 0x26
abbrev cMacroState : BitVec 6 := 0x27
abbrev cSparseSeed : BitVec 6 := 0x28
abbrev cDrawRefused : BitVec 6 := 0x29
abbrev cVectorShape : BitVec 6 := 0x2A
abbrev cChainDesc : BitVec 6 := 0x2B
abbrev cRowEngine : BitVec 6 := 0x2C
abbrev cCopyChain : BitVec 6 := 0x2D
abbrev cCopyRemote : BitVec 6 := 0x2E
abbrev cFabricGroup : BitVec 6 := 0x2F
abbrev cFabricAuth : BitVec 6 := 0x30
abbrev cBarrierProtocol : BitVec 6 := 0x31
abbrev cTouchmark : BitVec 6 := 0x32
abbrev cEccUncorrected : BitVec 6 := 0x33
abbrev cEccCorrected : BitVec 6 := 0x34
abbrev cPoison : BitVec 6 := 0x35
abbrev cYieldRequest : BitVec 6 := 0x36
abbrev cYieldDeadline : BitVec 6 := 0x37
abbrev cBudget : BitVec 6 := 0x38
abbrev cDomainSync : BitVec 6 := 0x39
abbrev cPlaneSwap : BitVec 6 := 0x3A
abbrev cRemap : BitVec 6 := 0x3B
abbrev cRevoked : BitVec 6 := 0x3C
abbrev cEngineAsync : BitVec 6 := 0x3D
abbrev cHypercall : BitVec 6 := 0x3E
abbrev cMachineCheck : BitVec 6 := 0x3F

/-- Causes that do not stop the strand (R104). -/
def nonStopping (c : BitVec 6) : Bool :=
  c == cSideLogFull || c == cRingStall || c == cEccCorrected || c == cPlaneSwap

/-- Causes delivered at H (R104). -/
def deliveredAtH (c : BitVec 6) : Bool := c == cRemap || c == cHypercall || c == cMachineCheck

/-- Causes with no resume: the work is rolled back or abandoned (R104, code X). -/
def resumesNever (c : BitVec 6) : Bool := c == cTouchmark || c == cEccUncorrected || c == cRevoked || c == cMachineCheck

/-- Causes whose resume point is the next item (R104, code N). -/
def resumesNext (c : BitVec 6) : Bool := c == cSingleStep || c == cSoftTrap || c == cHypercall

/-! ## Records (R102) -/

/-- An item as ITEM of a record holds it. -/
def itemBits : Item → BitVec 32
  | .compact h => h.setWidth 32
  | .wide w => w

/-- Whether an item is compact. -/
def itemCompact : Item → Bool
  | .compact _ => true
  | .wide _ => false

/-- What stands at a strand's position: its header at a header or just past the body, else its item (R65 item 3). -/
def State.itemOf (s : State) (x : StrandId) : Item :=
  let t := s.strand x
  let code := s.code x
  if t.pc = t.hdr || t.pc.toNat == bodyEnd code t.hdr.toNat then .wide (wordAt code t.hdr.toNat)
  else itemAt code t.pc.toNat

/-- Halfwords of the item at a strand's position. -/
def State.itemLen (s : State) (x : StrandId) : Nat := if itemCompact (s.itemOf x) then 1 else 2

/-- Whether strand `x` runs at S (R98). -/
def State.atS (s : State) (x : StrandId) : Bool := x == .K && s.sys.levelS

/-- A record of strand `x` at its position, whose resume point lies `skip` halfwords further (R99, R102, R104). -/
def State.record (s : State) (x : StrandId) (c : BitVec 6) (cls : CauseClass) (detail addr : BitVec 64) (eng : BitVec 4)
    (coord : Coord) (resume : Resume) (skip : Nat) : FaultRecord :=
  let t := s.strand x
  let i := s.itemOf x
  { cause := c, raised := c, cls := cls, strand := x, cmp := itemCompact i, lks := t.lockstep, lvl := s.atS x, eng := eng, slot := 0
    item := itemBits i, pc := t.pc + BitVec.ofNat 16 skip, hdr := t.hdr, remain := t.remain, coord := coord, addr := addr
    detail := detail, stamp := s.sys.cycle, resume := resume }

/-- Whether a record stops its strand (R100 item 1, R168). -/
def FaultRecord.stops (r : FaultRecord) : Bool :=
  !nonStopping r.raised && (match r.resume with | .sideEntry _ => false | _ => true)

/-- Whether a record is one of the K strand's own, for which an entry is reserved (R101, R131). -/
def FaultRecord.own (r : FaultRecord) : Bool := r.strand == .K && r.cls == .precise

/-- The 512 bits of a record (R102). -/
def FaultRecord.bits (r : FaultRecord) : BitVec 512 :=
  let cls : BitVec 2 := match r.cls with | .precise => 0 | .asynchronous => 1 | .engine => 2
  place 512 r.cause 0 ||| place 512 cls 6 ||| place 512 (BitVec.ofNat 2 (strandNum r.strand)) 8 ||| flagBit 512 r.cmp 10 |||
    flagBit 512 r.lks 11 ||| flagBit 512 r.lvl 12 ||| place 512 r.eng 16 ||| place 512 r.slot 20 ||| place 512 r.item 32 |||
    place 512 r.pc 64 ||| place 512 r.hdr 80 ||| place 512 r.remain 96 ||| place 512 r.coord.bits 128 |||
    place 512 r.addr 320 ||| place 512 r.detail 384 ||| place 512 r.stamp 448

/-! ## The fault queue (R101) -/

/-- Whether the queue has room for a record: 16 for any strand, and one more for the K strand's own. -/
def roomFor (fq : List FaultRecord) (r : FaultRecord) : Bool :=
  let reserve := fq.any (·.own)
  if r.own && !reserve then true else decide (fq.length < 16 + if reserve then 1 else 0)

/-- A record that has been queued interrupts K, or sets PEND while K is at S (R100 item 3, R118). -/
def State.interrupt (s : State) : State :=
  s.onSys fun y => if y.levelS then { y with pend := true } else { y with sDue := true }

/-- Whether a record that is queued is a fault of the task, which keeps its successor back (R404): a cause that no system event raised
and that stops its strand, or leaves a store of it FAULTED (R168). -/
def FaultRecord.holdsShadow (r : FaultRecord) : Bool :=
  !nonStopping r.raised && !([cQuenchStop, cYieldRequest, cYieldDeadline, cBudget, cRevoked, cTouchmark] : List (BitVec 6)).contains r.raised

/-- Places a record in the fault queue; when its share is full it waits, or is dropped and counted (R101). DESIGN CHOICE: the
record of a side-log entry, whose strand does not stop (R168), waits too (log 39). -/
def State.enqueue (s : State) (r : FaultRecord) : State :=
  if roomFor s.sys.fq r then
    (s.onSys fun y => { y with fq := y.fq ++ [r], sheld := y.sheld || r.holdsShadow }).interrupt
  else if nonStopping r.raised then
    s.onSys fun y => { y with lost := if y.lost = 255 then 255 else y.lost + 1 }
  else s.onSys fun y => { y with fqWait := y.fqWait ++ [r] }

/-- Moves the first waiting records that now have room into the queue. -/
def admitWaiting : List FaultRecord → List FaultRecord → List FaultRecord × List FaultRecord × Bool
  | fq, [] => (fq, [], false)
  | fq, r :: rest =>
    if roomFor fq r then
      let (q, w, _) := admitWaiting (fq ++ [r]) rest
      (q, w, true)
    else
      let (q, w, b) := admitWaiting fq rest
      (q, r :: w, b)

/-- Removes the head record; what waits for room comes in. -/
def State.dropHead (s : State) : State :=
  let (q, w, came) := admitWaiting (s.sys.fq.drop 1) s.sys.fqWait
  let held := came && s.sys.fqWait.any (·.holdsShadow)
  let s := s.onSys fun y => { y with fq := q, fqWait := w, sheld := y.sheld || held }
  if came then s.interrupt else s

/-- A record delivered at H: it is passed to Hearth and the core stops, unless it does not stop (R100 item 4). -/
def State.toHearth (s : State) (r : FaultRecord) : State :=
  s.onSys fun y => { y with hDue := y.hDue ++ [r], stoppedByH := y.stoppedByH || r.stops }

/-- MACHINE_CHECK with a detail, raised outside any item (R100). -/
def State.machineCheck (s : State) (detail : BitVec 64) : State :=
  s.toHearth (s.record .K cMachineCheck .asynchronous detail 0 0 (s.strand .K).coord .nothing 0)

/-- Every pending timed load of a strand lands, in the order of their landing (R176 items 2 and 5). -/
def State.landAll (s : State) (x : StrandId) : State :=
  let l := sortKey (·.at_) (s.strand x).timed
  l.foldl (fun s t => s.putReg x t.reg t.value) (s.onStrand x fun t => { t with timed := [] })

/-! ## Entry into S and return (R118) -/

/-- K enters S (R118): epc, PLVL and FL are written, the flags are cleared, the S stack is emptied, and K stands at the
handler's first header. Without an overlay MACHINE_CHECK is delivered at H and K does not enter. -/
def State.enterS (s : State) : State :=
  let s := s.landAll .K
  let k := s.strand .K
  let off := s.sys.tvec
  if off = 0 || !isHeader (s.code .K) off.toNat then
    (s.onSys fun y => { y with sDue := false }).machineCheck 0x0B
  else
    let s := s.onSys fun y => { y with
      epcPc := k.pc, epcHdr := k.hdr, epcRemain := k.remain
      epcEnd := k.pc == k.hdr && blocksEnd (s.code .K) k.pc.toNat, plvl := false, estatFl := k.flags, levelS := true
      sCalls := [], sDue := false, lockT := k.lockstep }
    -- a SETTLE that K waits in asks again after the ERET; one of the handler is its own (R352)
    let s := s.onQu fun q => { q with settle := false, settled := false }
    s.onStrand .K fun k => { k with
      flags := 0, pc := off, hdr := off, remain := 0, wait := none, dsync := none, pause := 0, lockstep := false
      -- a K that waited at an S header stands at it again after its ERET (R11 item 1)
      run := if k.run == .meeting then .running else k.run }

/-- ERET (R118): the flags and the level return, K stands at the position of k.epc, and with PEND set it enters S again first.
Registers that a cut holds for K are loaded (R120). A K of a bundle goes on in it from the body of its S block; at a header it enters
that block afresh, outside the bundle (R68), which DESIGN CHOICE: then stalls (log 18). -/
def State.leaveS (s : State) (pos : BitVec 16 × BitVec 16 × BitVec 32) : State :=
  let y := s.sys
  let inBundle := pos.1 != pos.2.1 && (wordAt (s.code .K) pos.2.1.toNat).getLsbD 31
  let s := s.onStrand .K fun k => { k with
    flags := y.estatFl &&& 0x1F3F, pc := pos.1, hdr := pos.2.1, remain := pos.2.2, lockstep := y.lockT && inBundle
    -- a DSYNC that has completed retires when K returns to it (R124)
    synced := if k.synced = some pos.1 then k.synced else none }
  let s := match y.kHeld with
    | some (b, cc) => s.onStrand .K fun k => { k with s := b, cc := cc }
    | none => s
  let s := s.onSys fun y => { y with levelS := y.plvl, kHeld := none, lockT := false }
  if y.pend && !y.plvl then s.enterS else s

/-! ## Swage hooks (R385, R389) -/

/-- A field of a slot record. -/
def SwageSlot.field (t : SwageSlot) (lo w : Nat) : Nat := (t.record.extractLsb' lo w).toNat

/-- Of the slots that satisfy a test, the one with the greatest priority, the lowest number among equals (R385). -/
def bestSlot (swage : Vector SwageSlot 16) (p : SwageSlot → Bool) : Option (BitVec 4) :=
  (List.range 16).foldl (fun best i =>
    let n := BitVec.ofNat 4 i
    let t := at16 swage n
    if p t then
      match best with
      | none => some n
      | some b => if (at16 swage b).field 8 4 < t.field 8 4 then some n else some b
    else best) none

/-- A slot acts for a strand: its hit is counted and remembered (R383, R395). -/
def State.slotActs (s : State) (n : BitVec 4) (x : StrandId) : State :=
  let slot := at16 s.pk.swage n
  let s := s.onPk fun k => { k with swage := put16 k.swage n { slot with hits := slot.hits + 1 } }
  s.onStrand x fun t => { t with last := ⟨n, true, BitVec.ofNat 2 (slot.field 12 2)⟩ }

/-- Whether a hook slot matches a record (R385). -/
def SwageSlot.hooks (t : SwageSlot) (r : FaultRecord) : Bool :=
  t.field 0 1 == 1 && t.field 6 1 == 1 && t.record.getLsbD (1 + (strandNum r.strand)) && t.field 96 6 == r.cause.toNat &&
    (t.field 5 1 == 1) == r.cmp && (r.item &&& t.record.extractLsb' 32 32) == t.record.extractLsb' 64 32

/-! ## Resuming what a record stopped (R101, R104, R369) -/

/-- Restarts the engine a record names (R161, R254, R210, R314, R369). -/
def State.resumeEngine (s : State) : Resume → State
  | .strand => s
  | .nothing => s
  | .stream q gen => s.onCore fun c =>
      let t := at16 c.streams q
      if t.state == .fault && t.gen == gen then { c with streams := put16 c.streams q { t with state := .run, stall := none } } else c
  | .sideEntry id => s.onCore fun c =>
      { c with side := c.side.map fun e =>
          if e.id = id ∧ e.state = .faulted then { e with state := .pend, cause := 0, replay := true } else e }
  | .chain tag gen => s.onPk fun k =>
      let c := at64 k.chains tag
      if c.state == .fault && c.gen == gen then
        { k with chains := put64 k.chains tag { c with state := .run, condSince := none }, engineQueue := k.engineQueue ++ [tag] }
      else k
  | .matrix => s.onMat fun m =>
      { m with queue := match m.queue with | [] => [] | o :: rest => { o with held := false } :: rest }
  | .chainPass => s.onCore fun c =>
      { c with chainq := match c.chainq with | [] => [] | p :: rest => { p with held := false } :: rest }
  | .rowPass n => s.onCore fun c =>
      { c with rowq := c.rowq.map fun r => if r.phase = n ∧ r.held then { r with held := false } else r }

/-- A strand at a resume point: the arrival of a DSYNC that has completed stands only where the strand goes on at that item, in the same
repetition (R47, R124). -/
def Strand.goesOn (t : Strand) (pc hdr : BitVec 16) (remain : BitVec 32) : Strand :=
  { t with
    run := .running, pc := pc, hdr := hdr, remain := remain
    synced := if t.synced = some pc ∧ t.pc = pc ∧ t.hdr = hdr ∧ t.remain = remain then t.synced else none }

/-- A strand runs on from a record's resume point, unless another record of its own still stops it (R101, R102). -/
def State.restart (s : State) (r : FaultRecord) (others : List FaultRecord) : State :=
  if r.stops && (s.strand r.strand).run == .faulted && !others.any (fun o => o.strand == r.strand && o.stops) then
    s.onStrand r.strand (·.goesOn r.pc r.hdr r.remain)
  else s

/-- POP with RESUME of a record (R101): the engine and the strand go on; K resumes only by ERET, and a QUENCH_STOP
resumes nothing (R349), nor does a cause of resume code X (R104). -/
def State.resumeRecord (s : State) (r : FaultRecord) (others : List FaultRecord) : State :=
  if r.raised = cQuenchStop || resumesNever r.raised then s
  else
    let s := s.resumeEngine r.resume
    if r.strand = .K then s else s.restart r others

/-! ## Raising a cause (R100) -/

/-- Whether a strand stands already, so that a record that stops it leaves it as it stands. -/
def Strand.stands (t : Strand) : Bool :=
  t.run == .halted || t.run == .pastEnd || t.run == .taskEnd || t.run == .cut || t.run == .noTask

/-- The strand of a record stops where the record says (R100 item 1), and waits in no ring and no DSYNC any more (R125, R165); a K strand
at T enters S instead (R131). At S only HYPERCALL moves it: Hearth holds the core, and its resume goes on at the next item (R104,
R144). -/
def State.stopFor (s : State) (r : FaultRecord) : State :=
  if s.atS r.strand then (if r.raised = cHypercall then s.onStrand r.strand fun t => { t with pc := r.pc } else s)
  else if !r.stops then s
  else if r.strand = .K then s.onStrand .K fun t => { t with pc := r.pc }
  else
    s.onStrand r.strand fun t =>
      if t.stands then { t with pc := r.pc } else { t with run := .faulted, pc := r.pc, wait := none, dsync := none }

/-- Queues a record of a cause delivered at S; K's own enters S directly (R131). -/
def State.queueRecord (s : State) (r : FaultRecord) : State :=
  let room := roomFor s.sys.fq r
  let s := (s.stopFor r).enqueue r
  if r.own && room && !s.sys.levelS then s.enterS else s

/-- Raises a cause: its record goes to Hearth, or is offered to the hooks and then queued (R100, R389). -/
def State.raise (s : State) (r : FaultRecord) : State :=
  let s := s.onStrand r.strand fun t =>
    { t with hook := match t.hook with | some h => if h.pc = r.pc ∧ h.cause = r.cause then some h else none | none => none }
  if deliveredAtH r.cause then (s.stopFor r).toHearth r
  else
    match bestSlot s.pk.swage (·.hooks r) with
    | none => s.queueRecord r
    | some n =>
      let t := at16 s.pk.swage n
      if t.field 102 1 = 1 then
        (s.slotActs n r.strand).queueRecord { r with cause := BitVec.ofNat 6 (t.field 103 6), slot := n }
      else
        let count := match (s.strand r.strand).hook with | some h => h.count | none => 0
        if count < t.field 109 8 then
          let s := s.slotActs n r.strand
          let s := s.onStrand r.strand fun t =>
            { t with hook := some ⟨r.pc, r.cause, n, count + 1⟩, pc := if r.stops then r.pc else t.pc }
          s.resumeEngine r.resume
        else s.queueRecord r

/-- The failure of the host's translation of a page has been seen by the item that asked for it, on the core's path: the item asks again
when it is resumed (R366). -/
def State.atsSeen (s : State) (addr : BitVec 64) : State :=
  let seen (r : AtsRequest) : Bool :=
    r.path == 0 && r.ctx == s.sys.ctx && r.status.isSome && decide (r.base ≤ addr.toNat ∧ addr.toNat < r.base + r.leaf.size)
  s.onMu fun m => { m with ats := m.ats.filter (!seen ·) }

/-- Raises a cause at the item of strand `x` (R99): precise, also REMAP of an access (R171), which the cause table has as
asynchronous otherwise (R104, R265, log 19). At S it is MACHINE_CHECK at H (R100 item 5). -/
def State.raisePrecise (s : State) (x : StrandId) (c : BitVec 6) (detail addr : BitVec 64) (eng slot : BitVec 4) : State :=
  let s := if c = cHostTranslation then s.atsSeen addr else s
  let skip := if resumesNext c && eng != 9 then s.itemLen x else 0
  let cls : CauseClass := if c = cRemap && !addr.getLsbD 63 then .asynchronous else .precise
  let r := { s.record x c cls detail addr eng (s.strand x).coord .strand skip with slot := slot }
  if s.atS x && c != cHypercall then
    s.raise { r with cause := cMachineCheck, raised := cMachineCheck, cls := .asynchronous, detail := c.setWidth 64 }
  else s.raise r

/-- Raises an asynchronous cause for strand `x` (R99). -/
def State.raiseAsync (s : State) (x : StrandId) (c : BitVec 6) (detail addr : BitVec 64) (eng : BitVec 4) (coord : Coord)
    (resume : Resume) : State :=
  s.raise (s.record x c .asynchronous detail addr eng coord resume 0)

/-- Whether strand `x` is single-stepped now (R127, R118 item 3). -/
def State.stepping (s : State) (x : StrandId) : Bool := s.sys.step.getLsbD (strandNum x) && !s.atS x

/-- Raises an engine cause of an operation of strand `x`; that of an operation which a stepped item launched waits for the next
step boundary as ENGINE_ASYNC (R99, R105). REMAP is asynchronous, and goes to Hearth (R104). -/
def State.raiseEngine (s : State) (x : StrandId) (stepped : Bool) (c : BitVec 6) (detail addr : BitVec 64) (eng : BitVec 4)
    (coord : Coord) (resume : Resume) : State :=
  let r := s.record x c (if c = cRemap then .asynchronous else .engine) detail addr eng coord resume 0
  if stepped && c != cRemap then
    s.onStrand x fun t => { t with eaf := t.eaf ++ [{ r with cause := cEngineAsync, raised := cEngineAsync, detail := c.setWidth 64 }] }
  else s.raise r

/-! ## The end of an item -/

/-- How the body of an item ends. -/
inductive Res where
  /-- it retires, and the strand continues after it -/
  | retire (s : State)
  /-- it retires and has set the position itself -/
  | jump (s : State)
  /-- it waits: what it changed stands, and it issues again -/
  | wait (s : State)
  /-- it raises a precise cause, and nothing it did stands -/
  | trap (cause : BitVec 6) (detail addr : BitVec 64)

/-- Raises a precise cause with a small detail. -/
def Res.fail (cause : BitVec 6) (detail : BitVec 64) : Res := .trap cause detail 0

/-- Delivers, at a step boundary of strand `x`, the engine faults that waited for it (R105): `t` is the strand as the boundary
finds it. -/
def State.deliverEaf (s : State) (x : StrandId) (t : Strand) : State :=
  t.eaf.foldl (fun s r => s.raise { r with pc := t.pc, hdr := t.hdr, remain := t.remain })
    (s.onStrand x fun t => { t with eaf := [] })

/-- The step boundary after an item of strand `x` has retired (R129): SINGLE_STEP first, then ENGINE_ASYNC. The record
names the item, from the state before it, and resumes after it. A strand that the item has stopped, at its end, a yield point
or a cut, is stepped like any other. -/
def State.stepBoundary (s before : State) (x : StrandId) : State :=
  let t := s.strand x
  let s := if before.stepping x then
      s.raise { before.record x cSingleStep .precise 0 0 0 (before.strand x).coord .strand 0 with
        pc := t.pc, hdr := t.hdr, remain := t.remain }
    else s
  if t.eaf.isEmpty || before.atS x then s else s.deliverEaf x t

/-- Ends an item of strand `x` that has retired. In a bundle or a REWRITE the wrapper does the rest. -/
def State.afterRetire (s before : State) (x : StrandId) : State :=
  if s.dry then s
  else
    let s := s.onStrand x fun t => { t with hook := none, wait := none, dsync := none }
    s.stepBoundary before x

/-- Moves strand `x` past its item of `len` halfwords. In a bundle or a REWRITE the wrapper does it. -/
def State.pastItem (s : State) (x : StrandId) (len : Nat) : State :=
  if s.dry then s else s.onStrand x fun t => { t with pc := t.pc + BitVec.ofNat 16 len }

/-- A strand whose item raises: an atomic whose failure is raised is forgotten, and the item waits in no ring any more (R165). -/
def Strand.clearBad (t : Strand) : Strand :=
  { t with amo := t.amo.bind (fun w => if w.bad.isSome then none else some w), wait := none }

/-- Ends an item, from the state before it and what its body gave. -/
def State.finish (s : State) (x : StrandId) (len : Nat) : Res → State
  | .retire t => { ((t.pastItem x len).afterRetire s x) with last := .retired }
  | .jump t => { (t.afterRetire s x) with last := .jumped }
  | .wait t => { t with last := .waited }
  | .trap c d a =>
    if s.dry then { s with last := .trapped c d a }
    else { ((s.onStrand x (·.clearBad)).raisePrecise x c d a 0 0) with last := .trapped c d a }

/-- Runs an item of the issuing strand: R77 steps 4, 5, 7 and 8, then its body. `legal` are the strands the major is
legal in, `priv` marks major 0x1B, `cls` and `ok` are the checks of steps 7 and 8. -/
def runItem (s : State) (len : Nat) (legal : List StrandId) (priv : Bool) (cls ok : Bool) (body : Res) : State :=
  s.finish s.cur len
    (if !legal.contains s.cur then .fail cWrongStrand 0
     else if priv && !s.sys.levelS then .fail cPrivileged 0
     else if !cls then .fail cWrongStrand 0
     else if !ok then .fail cIllegalEncoding 0
     else body)

/-- Every strand (R73). -/
abbrev allStrands : List StrandId := [.K, .A, .V, .M]

/-- The offset just past the item that runs: in a bundle or a REWRITE, past the item that stands in the code. -/
def State.afterItem (s : State) (x : StrandId) (len : Nat) : Nat :=
  (s.strand x).pc.toNat + if s.dry then s.itemLen x else len

/-- FMODE as it reads (R107, R115). -/
def System.fmodeNow (y : System) : Bool := y.fmode || decide (1 < y.qlvl.toNat)

/-! ## The horizon (R20, R336, R337) -/

/-- Whether a strand has stopped by HALT or by the end of its code (R122). -/
def Strand.ended (t : Strand) : Bool := t.run == .halted || t.run == .pastEnd

/-- Whether the wait of a TASKEND has completed (R122). -/
def State.othersEnded (s : State) : Bool := s.core.a.ended && s.core.v.ended && s.core.m.ended

/-- Whether a strand holds the horizon by its coordinate (R20). A K that stands at TASKEND below a cut stays stopped there, and has ended
for it (R154, R340). -/
def State.holdsH (s : State) (x : StrandId) : Bool :=
  match (s.strand x).run with
  | .noTask | .halted | .pastEnd => false
  | .taskEnd => !(s.othersEnded || s.core.qu.st != .none)
  | _ => true

/-- The coordinate of a stream's head unit lies at its base with the mapped indices added (R19); its key. -/
def Stream.keyAt (t : Stream) (unitIdx : Nat) : Nat :=
  let bound (i : Nat) : Nat := (t.desc.extractLsb' (64 + 48 * i + 32) 16).toNat + 1
  let idx (i : Nat) : Nat := (unitIdx / ((List.range i).foldl (fun p k => p * bound k) 1)) % bound i
  let c := (List.range 6).foldl (fun (c : Coord) i =>
    let m := (t.desc.extractLsb' (434 + 3 * i) 3).toNat
    if m = 0 ∨ m > 6 then c else c.put (m - 1) (c.get (m - 1) + BitVec.ofNat 32 (idx i))) t.base
  c.key

/-- The keys of the coordinates of the operations that have not completed (R20, R41). -/
def State.opKeys (s : State) : List Nat :=
  (s.core.side.filterMap fun e => if e.state = .held ∨ e.atS then none else some e.coord.key) ++
  (s.core.streams.toList.filterMap fun t =>
    match t.state with
    | .run | .fault | .cut => some (t.keyAt t.head)
    | _ => none) ++
  (s.core.mat.queue.filterMap fun o => if o.atS then none else some o.coord.key) ++
  (s.pk.farMmas.filterMap fun o => if o.2.2.1 then none else some o.2.1) ++
  (s.core.rowq.filterMap fun r => if r.atS then none else some r.coord.key) ++
  (s.core.chainq.filterMap fun p => if p.atS then none else some p.coord.key) ++
  (s.pk.chains.toList.filterMap fun c =>
    match c.state with
    | .queued | .run | .fault => if c.atS then none else some c.coord.key
    | _ => none) ++
  (strandIds.flatMap fun x => (s.strand x).timed.filterMap fun l => if l.atS then none else some l.coord.key)

/-- The horizon H of the core: 2^192 when nothing holds it. It never decreases: what the known horizon has passed and released may still
be on its way to be performed (R20, R41). -/
def State.coreH (s : State) : Nat :=
  max s.core.qu.hk ((s.opKeys ++ (strandIds.filterMap fun x => if s.holdsH x then some (s.strand x).coord.key else none)).foldl
    min topKey)

/-- H of the quench domain: with the other members' least horizon when it is wider than the core (R20). -/
def State.domainH (s : State) : Nat :=
  if s.sys.qlvl.toNat ≤ 1 then s.coreH else max s.core.qu.hk (min s.coreH s.core.qu.peersH)

/-- The start of the region a coordinate stands in (R17, R337). -/
def regionStart (settle : Nat) (c : Coord) : Nat := (c.cutAfter settle).key

/-- G of R337: the least region start over the member strands, those of the other members among them. -/
def State.regionG (s : State) : Nat :=
  let own := (strandIds.map fun x => regionStart s.sys.settle.toNat (s.strand x).coord).foldl min topKey
  if s.sys.qlvl.toNat ≤ 1 then own else min own s.core.qu.peersG

/-- The effective horizon (R337). From the fixing of a cut until QRESUME nothing at or above the cut is performed or
released, and the horizon stops at the cut (R346 phase 2, R347). It never decreases. -/
def State.effectiveH (s : State) : Nat :=
  let q := s.core.qu
  let h := if q.st = .none then s.domainH else min s.domainH q.cut.key
  max q.hk (max q.floor (if q.pin then min h (max s.regionG q.pinAt) else h))

/-- Whether an operation of strand `x` is at or above the known horizon, so that it is kept (R21); at S none is (R120). -/
def State.kept (s : State) (x : StrandId) (c : Coord) : Bool := !s.atS x && decide (s.core.qu.hk ≤ c.key)

/-! ## Cut images and changes of coordinate (R21, R339, R340) -/

/-- The remap entry of a logical core of the running context (R402). -/
def State.remapOf (s : State) (lcore : Nat) : RemapEntry := kGet RemapEntry.zero s.pk.remap (s.sys.ctx.toNat * 256 + lcore)

/-- The entry that holds HEAD and TAIL of a handle of this core: HOME's for a REMOTE one (R162). -/
def State.ringHome (s : State) (h : Nat) : Ring :=
  let r := kGet Ring.zero s.pk.rings (s.pk.pcore.toNat * 16 + h)
  if r.remote then kGet Ring.zero s.pk.rings ((s.remapOf r.home.toNat).pcore.toNat * 16 + h) else r

/-- The cut image of strand `x` as it stands, with its next position (R339). -/
def State.imageOf (s : State) (x : StrandId) (entry : Bool) : CutImage :=
  let t := s.strand x
  let v := s.core.vec
  let heads := (List.range 16).map fun h => ((s.ringHome h).head, (s.ringHome h).cp)
  { id := s.core.qu.nextImage, coord := t.coord, pc := t.pc, hdr := t.hdr, remain := t.remain, s := t.s, flags := t.flags
    cc := t.cc, calls := t.calls, phase := t.phase, heads := heads, entry := entry, a := s.core.areg, masks := v.masks
    vmask := v.vmask, vcarry := v.vcarry, zc := s.core.mat.zc, chk := s.core.mat.chkBase }

/-- Takes the cut image of strand `x` at its present position; below the horizon nothing is kept (R337). -/
def State.takeImage (s : State) (x : StrandId) (entry : Bool) : State :=
  if s.core.qu.hk ≤ (s.strand x).coord.key then
    let i := s.imageOf x entry
    (s.onStrand x fun t => { t with images := t.images ++ [i] }).onQu fun q => { q with nextImage := q.nextImage + 1 }
  else s

/-- Whether strand `x` may open one more image: at most 8 are open (R21). -/
def State.imageRoom (s : State) (x : StrandId) : Bool := decide ((s.strand x).images.length < 8)

/-- Whether a change of strand `x` to a coordinate can take its image now (R21, R337). -/
def State.mayChange (s : State) (x : StrandId) (c : Coord) : Bool := s.imageRoom x || decide (c.key < s.core.qu.hk)

/-- The strand's coordinate changes, its position being the one after the change: the image is taken, and a strand that
reaches a pending cut stops there (R340). -/
def State.changeCoord (s : State) (x : StrandId) (c : Coord) : State :=
  let s := (s.onStrand x fun t => { t with coord := c }).takeImage x false
  if s.core.qu.st = .pending ∧ s.core.qu.cut.key ≤ c.key then s.onStrand x fun t => { t with run := .cut } else s

/-! ## Packets to other packages (R325, R414) -/

/-- The contents of a packet as bytes, in an order of the model (DESIGN CHOICE, log 10). -/
def PacketBody.bytes : PacketBody → List (BitVec 8)
  | .write va bs => 0 :: toBytes 8 va ++ bs
  | .read va n => 1 :: toBytes 8 va ++ toBytes 8 (BitVec.ofNat 64 n)
  | .reduce op va src => 2 :: op.setWidth 8 :: toBytes 8 va ++ toBytes 4 src
  | .signal va v dbl add scope => 3 :: (flagBit 8 dbl 0 ||| flagBit 8 add 1 ||| place 8 scope 2) :: toBytes 8 va ++ toBytes 8 v
  | .post n xm1 pid bs => 4 :: n :: toBytes 2 xm1 ++ toBytes 2 pid ++ bs
  | .reply request a bs =>
    let code : BitVec 8 := match a with
      | .done => 0 | .absent => 1 | .permission => 2 | .noContext => 3 | .auth => 4 | .inboxOff => 5 | .noRoom => 6
    5 :: code :: toBytes 8 request ++ bs
  | .notice pid => 6 :: toBytes 2 pid

/-- The GCM nonce of a packet: SRC, ENGINE, zero and SEQ (R414). -/
def Packet.nonce (p : Packet) : BitVec 96 := p.src ++ p.engine ++ (0 : BitVec 8) ++ p.seq

/-- The tag of a packet under a key: its clear fields are the additional authenticated data (R414). -/
def Packet.tagUnder (p : Packet) (key : BitVec 256) : BitVec 128 :=
  Config.gcmTag key p.nonce (p.kid ++ p.gen ++ p.src ++ p.engine ++ p.seq) p.body.bytes

/-- The present record of a key id. -/
def State.keyId (s : State) (kid : BitVec 7) : Option KeyId := s.pk.kids.find? (·.kid == kid)

/-- Whether the package holds the key of a packet's key id and generation, and the tag holds under it (R414, R415). -/
def State.authentic (s : State) (p : Packet) : Bool :=
  match s.keyId p.kid with
  | some ⟨_, gen, some key⟩ => gen == p.gen && p.tag == p.tagUnder key
  | _ => false

/-- Sends a packet: its generation and key are those of the key id, its sequence number is never repeated. One for this package itself
comes back to it. DESIGN CHOICE: with no key here the tag is an open value, and with no record of the key id the generation is 0 (log 10). -/
def State.sendPacket (s : State) (dst : BitVec 18) (kid : BitVec 7) (engine : BitVec 6) (body : PacketBody) : State :=
  let gen := match s.keyId kid with | some k => k.gen | none => 0
  let bare : Packet := ⟨kid, gen, s.pk.pkg, dst, engine, s.pk.sendSeq, 0, body⟩
  let (tag, s) := match (s.keyId kid).bind (·.key) with | some key => (bare.tagUnder key, s) | none => s.fresh 128
  s.onPk fun k =>
    let p : Packet := { bare with tag := tag }
    let k := { k with sendSeq := k.sendSeq + 1 }
    if dst = k.pkg then { k with inbound := k.inbound ++ [p] } else { k with outbound := k.outbound ++ [p] }

/-- Sends the bind notice of a parcel to its source. -/
def State.sendNotice (s : State) (l : Landed) : State :=
  s.sendPacket l.srcPkg l.kid (BitVec.ofNat 6 (s.pk.pcore.toNat / 64 * 16)) (.notice l.srcPid)

/-! ## Stopping at a boundary -/

/-- Whether the item of a strand, or its bundle, waits for the result of an atomic (R182, R11). -/
def State.awaits (s : State) (x : StrandId) : Bool :=
  (s.strand x).amo.isSome ||
    ((s.strand x).lockstep && strandIds.any fun y => (s.strand y).lockstep && (s.strand y).amo.isSome)

/-- Whether a strand has a record that its share of the queue has no room for: it stays stopped at its item (R101). -/
def State.stoppedFull (s : State) (x : StrandId) : Bool := s.sys.fqWait.any fun r => r.strand == x && r.stops

/-- Whether the DSYNC of a strand, outside a bundle, has completed and has still to retire (R124). -/
def Strand.passed (t : Strand) : Bool := t.synced == some t.pc && !t.lockstep

/-- Whether a strand may issue: it runs, nothing of Hearth stops it, and a SAVE lets it only finish an item that waits for
an atomic or whose DSYNC has completed (R107, R124); K at S issues whatever stopped it at T. -/
def State.mayIssue (s : State) (x : StrandId) : Bool :=
  !s.sys.stoppedByH && (s.atS x ||
    ((s.strand x).run == .running && !s.stoppedFull x && (s.sys.forced != some .save || s.awaits x || (s.strand x).passed)))

/-- Whether a strand counts as stopped for a yield request (R106 item 1). -/
def Strand.atYield (t : Strand) : Bool :=
  match t.run with
  | .yielded | .halted | .pastEnd | .taskEnd | .noTask => true
  | _ => false

/-- A yield point of strand `x` (R106, R148): with a request outstanding the strand stops there, but while a quench drains
(R106 item 4). -/
def State.yieldPoint (s : State) (x : StrandId) : State :=
  if s.sys.yreq && s.sys.yact && !s.atS x && s.core.qu.st != .pending then s.onStrand x fun t => { t with run := .yielded } else s

end Sys2Proof.Machine
end

