-- ==== Sys2Proof/Machine/Flags.lean ====
section
/-!
DEFINITION. Flags: the condition register k.cc (R133, R137, R139) and the sticky flags of k.flags with their trap enables
(R80, R114).
-/
namespace Sys2Proof.Machine

/-- k.cc after a comparison: EQ, LT and LTU (R137). -/
def compareCc (a b : BitVec 64) : BitVec 3 :=
  flagBit 3 (a == b) 0 ||| flagBit 3 (a.slt b) 1 ||| flagBit 3 (a.ult b) 2

/-- Whether a condition of R139 holds; 11 to 15 name none. -/
def condHolds (c : Nat) (cc : BitVec 3) : Bool :=
  let eq := cc.getLsbD 0
  let lt := cc.getLsbD 1
  let ltu := cc.getLsbD 2
  match c with
  | 0 => true | 1 => eq | 2 => !eq | 3 => lt | 4 => !lt | 5 => ltu | 6 => !ltu | 7 => !lt && !eq | 8 => lt || eq
  | 9 => !ltu && !eq | 10 => ltu || eq | _ => false

/-- Writes k.cc of strand `x`. -/
def State.putCc (s : State) (x : StrandId) (cc : BitVec 3) : State := s.onStrand x fun t => { t with cc := cc }

/-- Sets sticky flags of strand `x`; none is cleared (R80). -/
def State.addFlags (s : State) (x : StrandId) (fl : Flags5) : State :=
  s.onStrand x fun t => { t with flags := t.flags ||| fl.setWidth 13 }

/-- The trap enables of strand `x`, in the order of the flags (R114). -/
def State.enables (s : State) (x : StrandId) : Flags5 := (s.strand x).flags.extractLsb' 8 5

/-- Whether flags an instruction would set meet an enable (R114). -/
def State.flagsTrap (s : State) (x : StrandId) (fl : Flags5) : Bool := (s.enables x &&& fl) != 0

/-- Completes an instruction that sets flags, or raises FP_TRAP in its place (R114). -/
def State.withFlags (s : State) (x : StrandId) (fl : Flags5) (r : State → Res) : Res :=
  if s.flagsTrap x fl then .fail cFpTrap (fl.setWidth 64) else r (s.addFlags x fl)

end Sys2Proof.Machine
end

