-- ==== Sys2Proof/Machine/Scalar.lean ====
section
/-!
DEFINITION. Scalar arithmetic of every strand: majors 0x00, 0x01 and 0x02, and the compact forms that are other words for
them (R132, R136 to R138, R76).
-/
namespace Sys2Proof.Machine

/-! ## Shared operations -/

/-- A register field of a compact form: s0..s31 (R75). -/
abbrev sReg (f : BitVec 5) : BitVec 6 := f.setWidth 6

/-- A result of two registers, written to a third (R136). -/
def alu (s : State) (len : Nat) (d a b : BitVec 6) (f : BitVec 64 → BitVec 64 → BitVec 64) : State :=
  let x := s.cur
  runItem s len allStrands false (regOk x d && regOk x a && regOk x b) true
    (.retire (s.putReg x d (f (s.reg x a) (s.reg x b))))

/-- A result of a register and a constant (R138). -/
def aluImm (s : State) (len : Nat) (d a : BitVec 6) (v : BitVec 64) (f : BitVec 64 → BitVec 64 → BitVec 64) : State :=
  let x := s.cur
  runItem s len allStrands false (regOk x d && regOk x a) true (.retire (s.putReg x d (f (s.reg x a) v)))

/-- A result of one register. -/
def aluOne (s : State) (len : Nat) (d a : BitVec 6) (f : BitVec 64 → BitVec 64) : State :=
  let x := s.cur
  runItem s len allStrands false (regOk x d && regOk x a) true (.retire (s.putReg x d (f (s.reg x a))))

/-- A constant written to a register. -/
def loadConst (s : State) (len : Nat) (d : BitVec 6) (v : BitVec 64) : State :=
  let x := s.cur
  runItem s len allStrands false (regOk x d) true (.retire (s.putReg x d v))

/-- A division: a zero divisor raises DIVIDE_ZERO (R137). -/
def divide (s : State) (d a b : BitVec 6) (f : BitVec 64 → BitVec 64 → BitVec 64) : State :=
  let x := s.cur
  runItem s 2 allStrands false (regOk x d && regOk x a && regOk x b) true
    (if s.reg x b = 0 then .fail cDivideZero 0 else .retire (s.putReg x d (f (s.reg x a) (s.reg x b))))

/-- CMP: k.cc and d (R137). -/
def compareTo (s : State) (len : Nat) (x : StrandId) (cls : Bool) (d : BitVec 6) (a b : BitVec 64) : State :=
  let cc := compareCc a b
  runItem s len allStrands false cls true (.retire ((s.putCc x cc).putReg x d (cc.setWidth 64)))

/-- High half of the exact product of two integers (R136). -/
def highProduct (a b : Int) : BitVec 64 := BitVec.ofInt 64 (a * b / 2 ^ 64)

/-- Number of leading zero bits (R136). -/
def leadingZeros (a : BitVec 64) : BitVec 64 :=
  BitVec.ofNat 64 (((List.range 64).reverse.takeWhile fun i => !a.getLsbD i).length)

/-- Number of one bits (R136). -/
def oneBits (a : BitVec 64) : BitVec 64 := BitVec.ofNat 64 (((List.range 64).filter fun i => a.getLsbD i).length)

/-- The shift count of a register or an immediate (R136). -/
def shiftCount (b : BitVec 64) : Nat := (b.extractLsb' 0 6).toNat

def minSigned (a b : BitVec 64) : BitVec 64 := if b.slt a then b else a
def minUnsigned (a b : BitVec 64) : BitVec 64 := if b.ult a then b else a
def maxSigned (a b : BitVec 64) : BitVec 64 := if a.slt b then b else a
def maxUnsigned (a b : BitVec 64) : BitVec 64 := if a.ult b then b else a

/-- The odd register of an even pair (R137). -/
def pairOf (f : BitVec 6) : BitVec 6 := f ||| 1

/-- A 128-bit value of an even register pair (R137). -/
def State.pair (s : State) (x : StrandId) (f : BitVec 6) : BitVec 128 := s.reg x (pairOf f) ++ s.reg x f

/-- Writes a 128-bit value to an even register pair. -/
def State.putPair (s : State) (x : StrandId) (f : BitVec 6) (v : BitVec 128) : State :=
  (s.putReg x f (v.extractLsb' 0 64)).putReg x (pairOf f) (v.extractLsb' 64 64)

/-! ## Register form (R136, R137) -/

/-- ADD. -/
def execAdd (d a b : BitVec 6) (s : State) : Host.Outcome State Fault Refusal :=
  .next (alu s 2 d a b (· + ·))

/-- SUB. -/
def execSub (d a b : BitVec 6) (s : State) : Host.Outcome State Fault Refusal :=
  .next (alu s 2 d a b (· - ·))

/-- MUL. -/
def execMul (d a b : BitVec 6) (s : State) : Host.Outcome State Fault Refusal :=
  .next (alu s 2 d a b (· * ·))

/-- MULH.i. -/
def execMulhI (d a b : BitVec 6) (s : State) : Host.Outcome State Fault Refusal :=
  .next (alu s 2 d a b fun a b => highProduct a.toInt b.toInt)

/-- MULH.n. -/
def execMulhN (d a b : BitVec 6) (s : State) : Host.Outcome State Fault Refusal :=
  .next (alu s 2 d a b fun a b => highProduct a.toNat b.toNat)

/-- MULH.in. -/
def execMulhIn (d a b : BitVec 6) (s : State) : Host.Outcome State Fault Refusal :=
  .next (alu s 2 d a b fun a b => highProduct a.toInt b.toNat)

/-- DIV.i: −2^63 by −1 gives −2^63. -/
def execDivI (d a b : BitVec 6) (s : State) : Host.Outcome State Fault Refusal :=
  .next (divide s d a b BitVec.sdiv)

/-- DIV.n. -/
def execDivN (d a b : BitVec 6) (s : State) : Host.Outcome State Fault Refusal :=
  .next (divide s d a b BitVec.udiv)

/-- REM.i. -/
def execRemI (d a b : BitVec 6) (s : State) : Host.Outcome State Fault Refusal :=
  .next (divide s d a b BitVec.srem)

/-- REM.n. -/
def execRemN (d a b : BitVec 6) (s : State) : Host.Outcome State Fault Refusal :=
  .next (divide s d a b BitVec.umod)

/-- AND. -/
def execAnd (d a b : BitVec 6) (s : State) : Host.Outcome State Fault Refusal :=
  .next (alu s 2 d a b (· &&& ·))

/-- OR. -/
def execOr (d a b : BitVec 6) (s : State) : Host.Outcome State Fault Refusal :=
  .next (alu s 2 d a b (· ||| ·))

/-- XOR. -/
def execXor (d a b : BitVec 6) (s : State) : Host.Outcome State Fault Refusal :=
  .next (alu s 2 d a b (· ^^^ ·))

/-- ANDN. -/
def execAndn (d a b : BitVec 6) (s : State) : Host.Outcome State Fault Refusal :=
  .next (alu s 2 d a b fun a b => a &&& ~~~b)

/-- SHL. -/
def execShl (d a b : BitVec 6) (s : State) : Host.Outcome State Fault Refusal :=
  .next (alu s 2 d a b fun a b => a <<< shiftCount b)

/-- SHR. -/
def execShr (d a b : BitVec 6) (s : State) : Host.Outcome State Fault Refusal :=
  .next (alu s 2 d a b fun a b => a >>> shiftCount b)

/-- SRA. -/
def execSra (d a b : BitVec 6) (s : State) : Host.Outcome State Fault Refusal :=
  .next (alu s 2 d a b fun a b => a.sshiftRight (shiftCount b))

/-- ROT: to the right. -/
def execRot (d a b : BitVec 6) (s : State) : Host.Outcome State Fault Refusal :=
  .next (alu s 2 d a b fun a b => a.rotateRight (shiftCount b))

/-- CLZ. -/
def execClz (d a : BitVec 6) (s : State) : Host.Outcome State Fault Refusal :=
  .next (aluOne s 2 d a leadingZeros)

/-- POPC. -/
def execPopc (d a : BitVec 6) (s : State) : Host.Outcome State Fault Refusal :=
  .next (aluOne s 2 d a oneBits)

/-- MIN.i. -/
def execMinI (d a b : BitVec 6) (s : State) : Host.Outcome State Fault Refusal :=
  .next (alu s 2 d a b minSigned)

/-- MIN.n. -/
def execMinN (d a b : BitVec 6) (s : State) : Host.Outcome State Fault Refusal :=
  .next (alu s 2 d a b minUnsigned)

/-- MAX.i. -/
def execMaxI (d a b : BitVec 6) (s : State) : Host.Outcome State Fault Refusal :=
  .next (alu s 2 d a b maxSigned)

/-- MAX.n. -/
def execMaxN (d a b : BitVec 6) (s : State) : Host.Outcome State Fault Refusal :=
  .next (alu s 2 d a b maxUnsigned)

/-- SEL: condition MOD + 1 of R139. -/
def execSel (d a b : BitVec 6) (c : BitVec 3) (s : State) : Host.Outcome State Fault Refusal :=
  .next (alu s 2 d a b fun p q => if condHolds (c.toNat + 1) (s.strand s.cur).cc then p else q)

/-- CMP. -/
def execCmp (d a b : BitVec 6) (s : State) : Host.Outcome State Fault Refusal :=
  let x := s.cur
  .next (compareTo s 2 x (regOk x d && regOk x a && regOk x b) d (s.reg x a) (s.reg x b))

/-- MOV. -/
def execMov (d b : BitVec 6) (s : State) : Host.Outcome State Fault Refusal :=
  .next (aluOne s 2 d b id)

/-- ADD128: even pairs; with d = 0 only s1 is written (R137). -/
def execAdd128 (d a b : BitVec 6) (s : State) : Host.Outcome State Fault Refusal :=
  let x := s.cur
  .next (runItem s 2 allStrands false (regOk x d && regOk x a && regOk x b) (evenOk d && evenOk a && evenOk b)
    (.retire (s.putPair x d (s.pair x a + s.pair x b))))

/-! ## Immediate form (R138) -/

/-- ADD with a sign-extended immediate. -/
def execAddImm (d a : BitVec 6) (i : BitVec 10) (s : State) : Host.Outcome State Fault Refusal :=
  .next (aluImm s 2 d a (i.signExtend 64) (· + ·))

/-- SUB with a sign-extended immediate. -/
def execSubImm (d a : BitVec 6) (i : BitVec 10) (s : State) : Host.Outcome State Fault Refusal :=
  .next (aluImm s 2 d a (i.signExtend 64) (· - ·))

/-- MUL with a sign-extended immediate. -/
def execMulImm (d a : BitVec 6) (i : BitVec 10) (s : State) : Host.Outcome State Fault Refusal :=
  .next (aluImm s 2 d a (i.signExtend 64) (· * ·))

/-- AND with a sign-extended immediate. -/
def execAndImm (d a : BitVec 6) (i : BitVec 10) (s : State) : Host.Outcome State Fault Refusal :=
  .next (aluImm s 2 d a (i.signExtend 64) (· &&& ·))

/-- OR with a sign-extended immediate. -/
def execOrImm (d a : BitVec 6) (i : BitVec 10) (s : State) : Host.Outcome State Fault Refusal :=
  .next (aluImm s 2 d a (i.signExtend 64) (· ||| ·))

/-- XOR with a sign-extended immediate. -/
def execXorImm (d a : BitVec 6) (i : BitVec 10) (s : State) : Host.Outcome State Fault Refusal :=
  .next (aluImm s 2 d a (i.signExtend 64) (· ^^^ ·))

/-- ANDN with a sign-extended immediate. -/
def execAndnImm (d a : BitVec 6) (i : BitVec 10) (s : State) : Host.Outcome State Fault Refusal :=
  .next (aluImm s 2 d a (i.signExtend 64) fun a b => a &&& ~~~b)

/-- MIN with a sign-extended immediate. -/
def execMinImm (d a : BitVec 6) (i : BitVec 10) (s : State) : Host.Outcome State Fault Refusal :=
  .next (aluImm s 2 d a (i.signExtend 64) minSigned)

/-- MAX with a sign-extended immediate. -/
def execMaxImm (d a : BitVec 6) (i : BitVec 10) (s : State) : Host.Outcome State Fault Refusal :=
  .next (aluImm s 2 d a (i.signExtend 64) maxSigned)

/-- SHL by an immediate count. -/
def execShlImm (d a i : BitVec 6) (s : State) : Host.Outcome State Fault Refusal :=
  .next (aluImm s 2 d a (i.setWidth 64) fun a b => a <<< shiftCount b)

/-- SHR by an immediate count. -/
def execShrImm (d a i : BitVec 6) (s : State) : Host.Outcome State Fault Refusal :=
  .next (aluImm s 2 d a (i.setWidth 64) fun a b => a >>> shiftCount b)

/-- SRA by an immediate count. -/
def execSraImm (d a i : BitVec 6) (s : State) : Host.Outcome State Fault Refusal :=
  .next (aluImm s 2 d a (i.setWidth 64) fun a b => a.sshiftRight (shiftCount b))

/-- ROT by an immediate count. -/
def execRotImm (d a i : BitVec 6) (s : State) : Host.Outcome State Fault Refusal :=
  .next (aluImm s 2 d a (i.setWidth 64) fun a b => a.rotateRight (shiftCount b))

/-- CMP with a sign-extended immediate. -/
def execCmpImm (d a : BitVec 6) (i : BitVec 10) (s : State) : Host.Outcome State Fault Refusal :=
  let x := s.cur
  .next (compareTo s 2 x (regOk x d && regOk x a) d (s.reg x a) (i.signExtend 64))

/-- LIMM: a sign-extended 20-bit constant. -/
def execLimm (d : BitVec 6) (i : BitVec 20) (s : State) : Host.Outcome State Fault Refusal :=
  .next (loadConst s 2 d (i.signExtend 64))

/-! ## Compact forms (R76) -/

/-- MOV, compact. -/
def execMovC (d b : BitVec 5) (s : State) : Host.Outcome State Fault Refusal :=
  .next (aluOne s 1 (sReg d) (sReg b) id)

/-- ADD of a register into itself, compact. -/
def execAddC (d b : BitVec 5) (s : State) : Host.Outcome State Fault Refusal :=
  .next (alu s 1 (sReg d) (sReg d) (sReg b) (· + ·))

/-- SUB of a register into itself, compact. -/
def execSubC (d b : BitVec 5) (s : State) : Host.Outcome State Fault Refusal :=
  .next (alu s 1 (sReg d) (sReg d) (sReg b) (· - ·))

/-- AND of a register into itself, compact. -/
def execAndC (d b : BitVec 5) (s : State) : Host.Outcome State Fault Refusal :=
  .next (alu s 1 (sReg d) (sReg d) (sReg b) (· &&& ·))

/-- OR of a register into itself, compact. -/
def execOrC (d b : BitVec 5) (s : State) : Host.Outcome State Fault Refusal :=
  .next (alu s 1 (sReg d) (sReg d) (sReg b) (· ||| ·))

/-- XOR of a register into itself, compact. -/
def execXorC (d b : BitVec 5) (s : State) : Host.Outcome State Fault Refusal :=
  .next (alu s 1 (sReg d) (sReg d) (sReg b) (· ^^^ ·))

/-- MUL of a register into itself, compact. -/
def execMulC (d b : BitVec 5) (s : State) : Host.Outcome State Fault Refusal :=
  .next (alu s 1 (sReg d) (sReg d) (sReg b) (· * ·))

/-- ADD of a signed 5-bit constant, compact. -/
def execAddCImm (d i : BitVec 5) (s : State) : Host.Outcome State Fault Refusal :=
  .next (aluImm s 1 (sReg d) (sReg d) (i.signExtend 64) (· + ·))

/-- LIMM of a signed 5-bit constant, compact. -/
def execLimmC (d i : BitVec 5) (s : State) : Host.Outcome State Fault Refusal :=
  .next (loadConst s 1 (sReg d) (i.signExtend 64))

/-- SHL by a count from 0 to 31, compact. -/
def execShlC (d i : BitVec 5) (s : State) : Host.Outcome State Fault Refusal :=
  .next (aluImm s 1 (sReg d) (sReg d) (i.setWidth 64) fun a b => a <<< shiftCount b)

/-- SHR by a count from 0 to 31, compact. -/
def execShrC (d i : BitVec 5) (s : State) : Host.Outcome State Fault Refusal :=
  .next (aluImm s 1 (sReg d) (sReg d) (i.setWidth 64) fun a b => a >>> shiftCount b)

/-- SRA by a count from 0 to 31, compact. -/
def execSraC (d i : BitVec 5) (s : State) : Host.Outcome State Fault Refusal :=
  .next (aluImm s 1 (sReg d) (sReg d) (i.setWidth 64) fun a b => a.sshiftRight (shiftCount b))

end Sys2Proof.Machine
end

