-- ==== Sys2Proof/Machine/Memory.lean ====
section
/-!
DEFINITION. Memory: scratchpad, translation, what a read of a die returns, the store side log and the slag log (R34 to
R38, R155, R156, R168, R171, R172, R320, R341 to R343, R361 to R372).
-/
namespace Sys2Proof.Machine

/-! ## Access path classes (R32), by their bit -/

abbrev clsLS : Nat := 0
abbrev clsMX : Nat := 1
abbrev clsCP : Nat := 2
abbrev clsGS : Nat := 3
abbrev clsRW : Nat := 4

/-! ## Places -/

/-- First cell of a die's view of the package's memory. -/
def dieBase (die : Nat) : Nat := die * 2 ^ 72
/-- First cell of a peer package's memory. -/
def peerBase (pkg : Nat) : Nat := 4 * 2 ^ 72 + pkg * 2 ^ 52
/-- First cell of host memory. -/
def hostBase : Nat := 5 * 2 ^ 72

/-- HBM4E addresses (R361). -/
def inHbm (pa : Nat) : Bool := decide (pa < 2 ^ 39)
/-- Second-tier addresses (R361). -/
def inLpddr (pa : Nat) : Bool := decide (2 ^ 40 ≤ pa ∧ pa < 2 ^ 40 + 768 * 2 ^ 30)

/-- The home die of a local address (R361). -/
def homeDie (pa : Nat) : Nat := if pa < 2 ^ 40 then pa / 2 ^ 36 % 8 / 2 else (pa - 2 ^ 40) / (192 * 2 ^ 30) % 4

/-- The die of the core (R7). -/
def State.die (s : State) : Nat := s.pk.pcore.toNat / 64

/-- Where a virtual byte lies: in this package, or at a cell of a peer's or the host's memory. -/
inductive Loc where
  | here (pa : Nat)
  | peer (cell : Nat)
  | host (cell : Nat)
deriving DecidableEq, Repr

/-- The cell of a place as die `d` sees it. -/
def Loc.cell (d : Nat) : Loc → Nat
  | .here pa => dieBase d + pa
  | .peer c => c
  | .host c => c

/-- The cell of a place at its home. -/
def Loc.homeCell : Loc → Nat
  | .here pa => dieBase (homeDie pa) + pa
  | .peer c => c
  | .host c => c

/-! ## Scratchpad (R155, R156) -/

/-- B of a physical core: the first offset a task may not reach there (R155), by the RES in force at that core (R157). -/
def State.scratchB (s : State) (p : Nat) : Nat :=
  0x3E0000 - min 512 (if p = s.pk.pcore.toNat then s.sys.spresNow else kGet 0 s.pk.spresOf p).toNat * 0x1000

/-- B of this core. -/
def State.ownB (s : State) : Nat := s.scratchB s.pk.pcore.toNat

/-- First cell of a physical core's scratchpad. -/
def scratchBase (pcore : Nat) : Nat := pcore * 2 ^ 22

/-- The physical core that a logical core of the context is placed on: REMAP when it is not placed (R402), or when it is another slice
of this one (R403). -/
def State.coreOf (s : State) (l : BitVec 8) : Except (BitVec 6) Nat :=
  let e := s.remapOf l.toNat
  if !e.valid then .error cRemap
  else if e.pcore = s.pk.pcore ∧ l ≠ s.sys.lcore then .error cRemap
  else .ok e.pcore.toNat

/-- The physical core a scratchpad address names, or the cause (R156, R402, R403): bit 31 is SCRATCH_BOUNDS. -/
def State.scratchCore (s : State) (a : BitVec 32) : Except (BitVec 6) Nat :=
  if a.getLsbD 31 then .error cScratchBounds
  else if a.getLsbD 30 then .ok s.pk.pcore.toNat
  else s.coreOf (a.extractLsb' 22 8)

/-- Checks an access of `n` bytes at offset `off` of a physical core's scratchpad: at T it lies below that core's B (R155), and
at S in the scratchpad. -/
def State.scratchOk (s : State) (atS : Bool) (p off n : Nat) : Bool :=
  decide (off + n ≤ if atS then 2 ^ 22 else s.scratchB p)

/-- How far past its first byte, at offset `off`, an access that runs out of bounds has its first byte out of bounds, which is the
faulting one (R155, R172). -/
def State.pastBound (s : State) (atS : Bool) (p off : Nat) : Nat := (if atS then 2 ^ 22 else s.scratchB p) - off

/-- Step 3 of R171 for `n` bytes at an address of R156: the bounds, then the core. B of a core that is not placed is not known, and
only an offset above every B is out of bounds there. -/
def State.scratchPlace (s : State) (atS : Bool) (a : BitVec 32) (n : Nat) : Except (BitVec 6) Nat :=
  let off := (a.extractLsb' 0 22).toNat
  match s.scratchCore a with
  | .ok p => if s.scratchOk atS p off n then .ok p else .error cScratchBounds
  | .error c => .error (if decide (off + n ≤ if atS then 2 ^ 22 else 0x3E0000) then c else cScratchBounds)

/-- The same for an access at an address of R156 that `scratchPlace` refuses. -/
def State.pastPlace (s : State) (atS : Bool) (a : BitVec 32) : Nat :=
  let off := (a.extractLsb' 0 22).toNat
  match s.scratchCore a with
  | .ok p => s.pastBound atS p off
  | .error _ => (if atS then 2 ^ 22 else 0x3E0000) - off

/-- Bytes of a scratchpad. -/
def State.scratchRead (s : State) (pcore off n : Nat) : List (BitVec 8) := cellRange s.pk.mu.scratch (scratchBase pcore + off) n

/-- Writes bytes of a scratchpad with nothing kept. -/
def State.scratchPut (s : State) (pcore off : Nat) (bs : List (BitVec 8)) : State :=
  s.onMu fun m => { m with scratch := cellPut m.scratch (scratchBase pcore + off) bs }

/-! ## The slag log (R338, R341, R342) -/

/-- Whether k.qslag names space inside the supervisor region (R338). -/
def State.slagOk (s : State) : Bool :=
  let b := s.sys.qslagBase.toNat
  let n := s.sys.qslagSize.toNat
  b % 0x1000 == 0 && decide (n ≤ 64) && (n == 0 || decide (s.ownB ≤ b ∧ b + n * 0x1000 ≤ 0x3E0000))

/-- Entries of the slag log. -/
def State.slagCap (s : State) : Nat := if s.slagOk then s.sys.qslagSize.toNat * 32 else 0

/-- Whether `n` more entries fit. -/
def State.slagRoom (s : State) (n : Nat) : Bool := decide (s.core.slag.length + n ≤ s.slagCap)

/-- The 128 bytes of an entry (R341). -/
def slagBits (e : SlagEntry) : BitVec 1024 :=
  let kind : BitVec 4 := match e.kind with | .scratch => 1 | .stream => 2 | .tag => 3 | .parcel => 4
  place 1024 kind 0 ||| place 1024 (BitVec.ofNat 2 (strandNum e.strand)) 4 ||| place 1024 e.loc 32 ||| place 1024 e.mask 64 |||
    place 1024 e.coord.bits 128 ||| place 1024 e.data 512

/-- The first free slot of the ring from `n` on. -/
def freeSlot (used : List Nat) (cap : Nat) : Nat → Nat → Nat
  | 0, n => n
  | fuel + 1, n => if used.contains n then freeSlot used cap fuel ((n + 1) % cap) else n

/-- Adds an entry, and writes it to the log's place in scratchpad. -/
def State.slagAdd (s : State) (e : SlagEntry) : State :=
  let cap := s.slagCap
  let slot := freeSlot (s.core.slag.map (·.slot)) cap cap (s.core.slagNext % cap)
  let e := { e with slot := slot }
  let s := s.onCore fun c => { c with slag := c.slag ++ [e], slagNext := (slot + 1) % cap }
  s.scratchPut s.pk.pcore.toNat (s.sys.qslagBase.toNat + 128 * slot) (toBytes 128 (slagBits e))

/-- Frees an entry: KIND 0 in its place (R342). -/
def State.slagFree (s : State) (keep : SlagEntry → Bool) : State :=
  let gone := s.core.slag.filter fun e => !keep e
  let s := s.onCore fun c => { c with slag := c.slag.filter keep }
  gone.foldl (fun s e => s.scratchPut s.pk.pcore.toNat (s.sys.qslagBase.toNat + 128 * e.slot) [0]) s

/-- A mask of the bytes `[lo, lo + n)` of a block. -/
def byteMask (lo n : Nat) : BitVec 64 := BitVec.ofNat 64 ((2 ^ n - 1) * 2 ^ lo)

/-- The parts of `[a, a + n)` by 64-byte block: block address, first byte in the block, bytes. -/
def blocksOf : Nat → Nat → Nat → List (Nat × Nat × Nat)
  | 0, _, _ => []
  | fuel + 1, a, n =>
    if n = 0 then []
    else
      let lo := a % 64
      let k := min n (64 - lo)
      (a - lo, lo, k) :: blocksOf fuel (a + k) (n - k)

/-- The 64-byte blocks of a range. -/
def blocks (a n : Nat) : List (Nat × Nat × Nat) := blocksOf (n / 64 + 2) a n

/-- What a store to scratchpad comes to. -/
inductive Stored where
  | done (s : State)
  /-- the slag log or the side log has no room (R21, R168) -/
  | full

/-- The pre-image of one block of a scratchpad, as a slag-log entry (R179, R341). -/
def State.preImage (s : State) (x : StrandId) (coord : Coord) (pcore : Nat) (loc : BitVec 32) (blk lo k : Nat) : SlagEntry :=
  { kind := .scratch, strand := x, loc := loc, cell := scratchBase pcore + blk, mask := byteMask lo k, coord := coord
    data := ofBytes 512 (s.scratchRead pcore blk 64), undo := .none, slot := 0 }

/-- A store to scratchpad by strand `x` or an engine of it (R155, R179, R210): writes to the slot-state area are ignored;
at or above the horizon each block's pre-image is logged first. `addr` is the address of R156 of the first byte. -/
def State.scratchStore (s : State) (x : StrandId) (coord : Coord) (keep : Bool) (pcore : Nat) (addr : BitVec 32)
    (bs : List (BitVec 8)) : Stored :=
  let off := (addr.extractLsb' 0 22).toNat
  let bs := bs.take (0x3E0000 - off)
  if bs.isEmpty then .done s
  else if keep then
    let parts := blocks off bs.length
    if s.slagRoom parts.length then
      let s' := parts.foldl (fun t (blk, lo, k) =>
        t.slagAdd (s.preImage x coord pcore (addr.extractLsb' 22 10 ++ BitVec.ofNat 22 blk) blk lo k)) s
      .done (s'.scratchPut pcore off bs)
    else .full
  else .done (s.scratchPut pcore off bs)

/-! ## Reading a die (R32, R34 to R36) -/

/-- How many of the first stale bytes belong to the first `n` writes: a write is found whole, at every die. -/
def wholeStale (l : List StaleByte) (n : Nat) : Nat :=
  match n, l[n - 1]? with
  | 0, _ => 0
  | n, some b => n + ((l.drop n).takeWhile fun o => o.stamp = b.stamp).length
  | n, none => n

/-- Lets class `c` see the first `n` stale bytes, and every one before a byte the class has already seen (R35). -/
def showStale (l : List StaleByte) (c n : Nat) (keys : List Nat) : List StaleByte :=
  let seen := (List.range l.length).foldl (fun m i =>
    match l[i]? with
    | some b => if keys.contains b.key && !b.classes.getLsbD c then i + 1 else m
    | none => m) 0
  let upto := wholeStale l (max n seen)
  let l := (List.range l.length).filterMap fun i => (l[i]?).map fun b =>
    if i < upto then { b with classes := b.classes &&& ~~~(1#5 <<< c) } else b
  l.dropWhile fun b => b.classes = 0

/-- Reads cells as class `c` sees them: of a write of another class the read may still find the older value (R32). -/
def State.readCells (s : State) (c : Nat) (keys : List Nat) : List (BitVec 8) × State :=
  if s.pk.mu.stale.isEmpty then (keys.map (cellGet s.pk.mu.mem), s)
  else
    let (k, s) := s.freshNat
    let l := showStale s.pk.mu.stale c (k % (s.pk.mu.stale.length + 1)) keys
    let s := s.onMu fun m => { m with stale := l }
    (keys.map fun n =>
      match l.find? (fun b => b.key == n && b.classes.getLsbD c) with
      | some b => b.old
      | none => cellGet s.pk.mu.mem n, s)

/-- Every write becomes visible to the classes of a mask (R40, R42): of the writers in `w`, by bit. -/
def State.settleStale (s : State) (w y : BitVec 5) : State :=
  if s.pk.mu.stale.isEmpty then s
  else s.onMu fun m => { m with
    stale := (m.stale.map fun b => if w.getLsbD b.writer then { b with classes := b.classes &&& ~~~y } else b).dropWhile
      (fun b => b.classes = 0) }

/-- The classes through which a read has found an entry that is still in the side log, or must find it. What the die applies
before that entry leaves causally precedes it, so those classes find it at once (R35, R42). -/
def State.sideSeen (s : State) : BitVec 5 := s.core.side.foldl (fun m e => m ||| e.seen) 0

/-- The stale bytes of a write `stamp` at a further die, beside those of its own die: which classes may still find it old is the same
at every die (R35). Where a byte of the same place is noted after it, and where none of its own is left, it is noted last: whoever reads it
finds nothing older. -/
def joinStale (l : List StaleByte) (stamp : Nat × Nat) (classes : BitVec 5) (old : BitVec 5 → List StaleByte) : List StaleByte :=
  match (l.find? (·.stamp = stamp)).map (·.classes) with
  | none => if l.isEmpty then [] else l ++ old 0
  | some c =>
    let before := l.takeWhile (·.stamp ≠ stamp)
    let rest := l.drop before.length
    let own := rest.takeWhile (·.stamp = stamp)
    let after := rest.drop own.length
    let new := old (c &&& classes)
    if after.any fun b => new.any (·.key = b.key) then l ++ old 0 else before ++ own ++ new ++ after

/-- A die applies the bytes of a write `stamp`, made through class `c`: other classes may still find the old ones (R32), unless they have
to find what was written after them (R35), or have found the write at another die. A write that every class finds at once is noted, too,
where older bytes are: who reads it finds none of them. -/
def State.applyAt (s : State) (die c : Nat) (stamp : Nat × Nat) (bytes : List (Nat × BitVec 8)) : State :=
  let classes := ~~~(1#5 <<< c) &&& ~~~s.sideSeen
  s.onMu fun m =>
    let old (k : BitVec 5) : List StaleByte :=
      bytes.map fun (pa, _) => ⟨dieBase die + pa, cellGet m.mem (dieBase die + pa), c, k, stamp⟩
    let stale :=
      if stamp.1 ≠ die then joinStale m.stale stamp classes old
      else if classes != 0 || !m.stale.isEmpty then m.stale ++ old classes
      else []
    { m with mem := bytes.foldl (fun t (pa, b) => cellSet t (dieBase die + pa) b) m.mem, stale := stale }

/-- Component `i` of applied(d) (R34). -/
def appliedAt (clocks : List Nat) (d i : Nat) : Nat := clocks.getD (4 * d + i) 0

/-- A write of the package's own memory leaves the side log for die `d`: it is stamped and applied there, and is in flight
to the others (R34). -/
def State.stampWrite (s : State) (d c : Nat) (bytes : List (Nat × BitVec 8)) : State :=
  let clocks := s.pk.mu.clocks.set (4 * d + d) (appliedAt s.pk.mu.clocks d d + 1)
  let stamp := (List.range 4).map fun i => appliedAt clocks d i
  let s := s.onMu fun m => { m with
    clocks := clocks, inflight := m.inflight ++ [⟨d, stamp, (List.range 4).filter (· ≠ d), c, bytes⟩] }
  s.applyAt d c (d, stamp.getD d 0) bytes

/-- Whether die `e` may apply a stamped write now (R34). -/
def State.mayApply (s : State) (w : StampedWrite) (e : Nat) : Bool :=
  w.waiting.contains e && (List.range 4).all fun i =>
    if i = w.die then appliedAt s.pk.mu.clocks e i + 1 == w.clock.getD i 0
    else decide (w.clock.getD i 0 ≤ appliedAt s.pk.mu.clocks e i)

/-- Die `e` applies a stamped write (R34). -/
def State.applyStamped (s : State) (w : StampedWrite) (e : Nat) : State :=
  let s := s.onMu fun m => { m with
    clocks := m.clocks.set (4 * e + w.die) (w.clock.getD w.die 0)
    inflight := (m.inflight.map fun v => if v.die = w.die ∧ v.clock = w.clock then { v with waiting := v.waiting.filter (· ≠ e) } else v).filter
      (fun v => !v.waiting.isEmpty) }
  s.applyAt e w.cls (w.die, w.clock.getD w.die 0) w.bytes

/-- Die `e` applies every write that is in flight to it, in the order of their stamps. -/
def State.deliverTo (s : State) (e : Nat) : State :=
  s.pk.mu.inflight.foldl (fun t w => if w.waiting.contains e then t.applyStamped w e else t) s

/-- Die `e` applies what die `d` has applied and is in flight to it, in the order of the stamps: whatever causally precedes a
write of `d` (R35, R37). -/
def State.deliverFrom (s : State) (d e : Nat) : State :=
  s.pk.mu.inflight.foldl (fun t w => if w.waiting.contains e && !w.waiting.contains d then t.applyStamped w e else t) s

/-- Every home die applies what is in flight to it, so that a read there finds no older value than a read at another home
(R35, R36). -/
def State.refreshHomes (s : State) (pas : List Nat) : State :=
  if s.pk.mu.inflight.isEmpty then s
  else (List.range 4).foldl (fun t h => if pas.any fun pa => homeDie pa == h then t.deliverTo h else t) s

/-- Writes bytes to memory: those of this package are stamped at die `d`; a peer's and the host's memory has one view. -/
def State.writeLocs (s : State) (d c : Nat) (bytes : List (Loc × BitVec 8)) : State :=
  let here := bytes.filterMap fun (l, b) => match l with | .here pa => some (pa, b) | _ => none
  let far := bytes.filterMap fun (l, b) => match l with | .here _ => none | l => some (l.homeCell, b)
  let s := if here.isEmpty then s else s.stampWrite d c here
  if far.isEmpty then s else s.onMu fun m => { m with mem := far.foldl (fun t (k, b) => cellSet t k b) m.mem }

/-- Writes that arrive from outside the dies: each byte is stamped by the die that homes it (R34). -/
def State.writeHome (s : State) (c : Nat) (bytes : List (Loc × BitVec 8)) : State :=
  let at_ (h : Nat) : List (Loc × BitVec 8) := bytes.filter fun p => match p.1 with | .here pa => homeDie pa == h | _ => false
  let s := (List.range 4).foldl (fun t h => if (at_ h).isEmpty then t else t.writeLocs h c (at_ h)) s
  s.writeLocs s.die c (bytes.filter fun p => match p.1 with | .here _ => false | _ => true)

/-! ## Poison (R372) -/

/-- The number that a place has in the list of poisoned blocks: a local byte's address, and the cell of a byte of a peer's or the host's
memory, which lie above every one. -/
def Loc.number : Loc → Nat
  | .here pa => pa
  | .peer c => c
  | .host c => c

/-- The block of a place, by its number. -/
def Loc.block (l : Loc) : Nat := l.number / 64 * 64

/-- Whether one of the places lies in a poisoned block. -/
def State.anyPoison (s : State) (ls : List Loc) : Bool := !s.pk.mu.poison.isEmpty && ls.any fun l => s.pk.mu.poison.contains l.block

/-- Writes of whole blocks clear their poison. -/
def State.clearPoison (s : State) (ls : List Loc) : State :=
  if s.pk.mu.poison.isEmpty then s
  else
    let ns := ls.map Loc.number
    s.onMu fun m => { m with poison := m.poison.filter (fun b => !(List.range 64).all fun i => ns.contains (b + i)) }

/-! ## Tables and leaves (R362, R363) -/

def leafV (l : BitVec 128) : Bool := l.getLsbD 0
def leafLeaf (l : BitVec 128) : Bool := l.getLsbD 1
def leafSz (l : BitVec 128) : Nat := (l.extractLsb' 2 2).toNat
def leafAper (l : BitVec 128) : Nat := (l.extractLsb' 4 3).toNat
def leafR (l : BitVec 128) : Bool := l.getLsbD 7
def leafW (l : BitVec 128) : Bool := l.getLsbD 8
def leafX (l : BitVec 128) : Bool := l.getLsbD 9
def leafRA (l : BitVec 128) : Bool := l.getLsbD 10
def leafLat (l : BitVec 128) : Nat := (l.extractLsb' 11 3).toNat
def leafKey (l : BitVec 128) : Nat := (l.extractLsb' 14 7).toNat
def leafDisc (l : BitVec 128) : Bool := l.getLsbD 21
def leafSeal (l : BitVec 128) : Bool := l.getLsbD 22
def leafSup (l : BitVec 128) : Bool := l.getLsbD 23
def leafPV (l : BitVec 128) : Bool := l.getLsbD 24
def leafPid (l : BitVec 128) : Nat := (l.extractLsb' 25 16).toNat
def leafPeer (l : BitVec 128) : Nat := (l.extractLsb' 41 18).toNat
def leafFrame (l : BitVec 128) : Nat := (l.extractLsb' 64 36).toNat

/-- A table or leaf entry of 16 bytes, read at the home die of its frame (R364). -/
def State.entryAt (s : State) (pa : Nat) : BitVec 128 := ofBytes 128 (cellRange s.pk.mu.mem (dieBase (homeDie pa) + pa) 16)

/-- The index of a virtual address in a table of level `l` (R362). -/
def vaIndex (va l : Nat) : Nat :=
  match l with
  | 0 => va / 2 ^ 52 % 16 | 1 => va / 2 ^ 40 % 4096 | 2 => va / 2 ^ 28 % 4096 | _ => va / 2 ^ 16 % 4096

/-- The partition of the running context (R411). -/
def State.ctxPartition (s : State) : BitVec 6 :=
  match s.pk.contexts.find? (·.id == s.sys.ctx) with
  | some c => c.partition
  | none => s.pk.ownPartition

/-- Whether strict mode refuses a frame to the running context (R364 reason 9, R411). -/
def State.strictRefuses (s : State) (pa : Nat) : Bool :=
  let own := s.ctxPartition
  let ch := pa / 2 ^ 31
  s.pk.partitions.any fun p =>
    p.strict && (if p.id = own then !(inHbm pa && p.channels.getLsbD ch) else inHbm pa && p.channels.getLsbD ch)

/-- A failed walk: the cause, and the reason and level of R364 with the ATS status of R366. -/
structure WalkFail where
  cause : BitVec 6
  reason : Nat
  level : Nat
  status : BitVec 8
deriving DecidableEq, Repr

/-- The walk fields of DETAIL (R364, R366). -/
def WalkFail.bits (f : WalkFail) : BitVec 64 :=
  place 64 (BitVec.ofNat 4 f.reason) 60 ||| place 64 (BitVec.ofNat 2 f.level) 58 ||| place 64 f.status 50

/-- Bits of a table entry that are reserved (R362). -/
def tableReserved (e : BitVec 128) : Bool := e.extractLsb' 2 62 != 0 || e.extractLsb' 100 28 != 0
/-- Bits of a leaf that are reserved (R363). -/
def leafReserved (e : BitVec 128) : Bool := e.extractLsb' 59 5 != 0 || e.extractLsb' 100 28 != 0

/-- The size of the page a leaf describes (R363). -/
def pageSize (sz : Nat) : Nat := if sz = 0 then 2 ^ 16 else if sz = 1 then 2 ^ 21 else 2 ^ 30

/-- Whether a leaf at a level is malformed (R364 reason 2). -/
def leafBad (e : BitVec 128) (level : Nat) : Bool :=
  let pa := leafFrame e * 2 ^ 16
  decide (level < 2) || leafSz e == 3 || leafAper e == 7 || (leafSz e == 2) != (level == 2) || leafReserved e ||
    ((leafAper e == 1 || leafAper e == 3) && !inHbm pa) || ((leafAper e == 2 || leafAper e == 4) && !inLpddr pa)

/-- The walk from a table of level `l` at `pa` (R364 reasons 1, 2 and 9 of tables): the leaf's address, the leaf and its
level. `n` is the number of levels still to read. -/
def State.walkFrom (s : State) (va : Nat) : Nat → Nat → Nat → Except WalkFail (Nat × BitVec 128 × Nat)
  | 0, l, _ => .error ⟨cPageAbsent, 2, l, 0⟩
  | n + 1, l, pa =>
    let at_ := pa + 16 * vaIndex va l
    let e := s.entryAt at_
    if !leafV e then .error ⟨cPageAbsent, 1, l, 0⟩
    else if leafLeaf e then (if leafBad e l then .error ⟨cPageAbsent, 2, l, 0⟩ else .ok (at_, e, l))
    else
      let next := leafFrame e * 2 ^ 16
      if l = 3 ∨ tableReserved e ∨ !(inHbm next || inLpddr next) then .error ⟨cPageAbsent, 2, l, 0⟩
      else if s.strictRefuses next then .error ⟨cAperture, 9, l, 0⟩
      else walkFrom s va n (l + 1) next

/-- The walk of a virtual address in the running context's table (R362, R364). DESIGN CHOICE: a root table in a frame that strict mode
keeps from the context is refused as an entry that names it would be, at level 0 (R411 item 1, log 30). -/
def State.walk (s : State) (va : Nat) : Except WalkFail (Nat × BitVec 128 × Nat) :=
  let root := s.sys.mroot.toNat % 2 ^ 52 / 256 * 256
  if !(inHbm root || inLpddr root) then .error ⟨cPageAbsent, 2, 0, 0⟩
  else if s.strictRefuses root then .error ⟨cAperture, 9, 0, 0⟩
  else s.walkFrom va 4 0 root

/-! ## Translation (R171 step 4, R364 to R366) -/

/-- What an access needs. -/
inductive Need where
  | read | write | atomic
deriving DecidableEq, Repr

/-- The access path of the core's engines, of the memory unit and of a copy engine (R365). -/
def pathCore : Nat := 0
def pathMemory : Nat := 1
def pathEngine (e : BitVec 4) : Nat := 2 + e.toNat

/-- A translation: the page, the state with its caches filled, or a wait for the host, or a failure. -/
inductive Xlat where
  | ok (e : TlbEntry) (s : State)
  | wait (s : State)
  | fail (f : WalkFail) (s : State)

/-- The permits of a leaf for an access (R364 reasons 3 to 6). -/
def permits (e : BitVec 128) (level : Nat) (sup : Bool) (need : Need) : Option WalkFail :=
  if leafAper e = 0 then some ⟨cPageAbsent, 3, level, 0⟩
  else if (need ≠ .write && !leafR e) || (need ≠ .read && !leafW e) then some ⟨cPageProtect, 4, level, 0⟩
  else if leafSup e && !sup then some ⟨cPageProtect, 5, level, 0⟩
  else if need = .atomic && (leafAper e = 3 ∨ leafAper e = 4) && !leafRA e then some ⟨cRemoteAtomic, 6, level, 0⟩
  else none

/-- The translation that a cache holds of a virtual address, for an access path of the running context (R365, R410). -/
def State.cached (s : State) (path va : Nat) : Option TlbEntry :=
  s.pk.mu.tlb.find? fun e => e.path == path && e.ctx == s.sys.ctx && decide (e.base ≤ va ∧ va < e.base + e.leaf.size)

/-- The key that a slot holds (R373). -/
def State.keyOf (s : State) (slot : Nat) : Option (BitVec 512) := (s.pk.mu.keyValues.find? (·.1 == slot)).map (·.2)

/-- Fills a cache. -/
def State.cacheFill (s : State) (e : TlbEntry) : State := s.onMu fun m => { m with tlb := m.tlb ++ [e] }

/-- Translates a virtual address for an access path: from its cache, or by a walk (R364 to R366). `sup` is an access of
code at S. -/
def State.translate (s : State) (path va : Nat) (sup : Bool) (need : Need) : Xlat :=
  match s.cached path va with
  | some e =>
    match permits e.leaf.word (if leafSz e.leaf.word = 2 then 2 else 3) sup need with
    | some f => .fail f s
    | none => .ok e s
  | none =>
    match s.walk va with
    | .error f => .fail f s
    | .ok (_, w, level) =>
      let size := pageSize (leafSz w)
      let base := va / size * size
      match permits w level sup need with
      | some f => .fail f s
      | none =>
        if !s.pk.mu.keys.getLsbD (leafKey w) then .fail ⟨cKeyAbsent, 7, level, 0⟩ s
        else if leafAper w = 5 then
          if !s.sys.mhost.getLsbD 20 then .fail ⟨cHostTranslation, 8, level, 0⟩ s
          else
            let mine (r : AtsRequest) : Bool := r.path == path && r.ctx == s.sys.ctx && r.base == base
            match s.pk.mu.ats.find? mine with
            | some r =>
              match r.status with
              | some st => .fail ⟨cHostTranslation, 8, level, st⟩ (s.onMu fun m => { m with ats := m.ats.filter (!mine ·) })
              | none => .wait s
            | none => .wait (s.onMu fun m => { m with
                ats := m.ats ++ [⟨path, s.sys.ctx, s.sys.mhost.setWidth 20, base, ⟨w, size⟩, s.sys.cycle.toNat, none⟩] })
        else if leafAper w = 1 && s.strictRefuses (leafFrame w * 2 ^ 16) then .fail ⟨cAperture, 9, level, 0⟩ s
        else
          let e : TlbEntry := ⟨path, s.sys.ctx, base, ⟨w, size⟩, none, s.keyOf (leafKey w)⟩
          .ok e (s.cacheFill e)

/-- Where a virtual byte lies under a translation. -/
def State.locOf (s : State) (e : TlbEntry) (va : Nat) : Loc :=
  let w := e.leaf.word
  let pa := leafFrame w * 2 ^ 16 + (va - e.base)
  match leafAper w with
  | 3 | 4 => if leafPeer w = s.pk.pkg.toNat then .here pa else .peer (peerBase (leafPeer w) + pa)
  | 5 => match e.host with
    | some f => .host (hostBase + f.toNat * 2 ^ 16 + (va - e.base))
    | none => .host (hostBase + pa)
  | _ => .here pa

/-- The home cell of a virtual byte by the page tables as they stand, or a cell that nothing else has where there is none: two
addresses of one byte have one cell. -/
def State.vaCell (s : State) (va : Nat) : Nat :=
  match s.walk va with
  | .ok (_, w, _) =>
    let size := pageSize (leafSz w)
    (s.locOf ⟨0, 0, va / size * size, ⟨w, size⟩, none, none⟩ va).homeCell
  | .error _ => 6 * 2 ^ 72 + va

/-- The cell of a byte in a space: scratchpads follow the memories. -/
def State.spaceCell (s : State) (scratch : Bool) (a : BitVec 64) : Nat :=
  if scratch then
    match s.scratchCore (a.setWidth 32) with
    | .ok p => 7 * 2 ^ 72 + scratchBase p + a.toNat % 2 ^ 22
    | .error _ => 8 * 2 ^ 72 + a.toNat % 2 ^ 32
  else s.vaCell a.toNat

/-- What a cell of `spaceCell` holds. -/
def State.peek (s : State) (cell : Nat) : BitVec 8 :=
  if 7 * 2 ^ 72 ≤ cell then cellGet s.pk.mu.scratch (cell - 7 * 2 ^ 72) else cellGet s.pk.mu.mem cell

/-- Whether a page is discarded: what it held is never returned (R371). -/
def State.discardedAt (s : State) (va : Nat) : Bool :=
  match s.walk va with
  | .ok (_, w, _) => leafDisc w
  | .error _ => false

/-- What a byte of a space holds, as an open value may draw it: zero on a discarded page (R4, R371). -/
def State.peekSpace (s : State) (scratch : Bool) (a : BitVec 64) : BitVec 8 :=
  if !scratch && s.discardedAt a.toNat then 0 else s.peek (s.spaceCell scratch a)

/-! ## Parcel pages (R320) -/

/-- The key of a parcel record of the running context. -/
def State.parcelKey (s : State) (pid : Nat) : Nat := s.sys.ctx.toNat * 65536 + pid

/-- Step 5 of R171: what the state of the parcel on the page refuses (R320). -/
def State.parcelRefuses (s : State) (w : BitVec 128) (need : Need) : Option (BitVec 6 × BitVec 64) :=
  if !leafPV w then (if leafAper w = 6 then some (cParcelTransit, 1) else none)
  else
    match (kGet Parcel.zero s.pk.parcels (s.parcelKey (leafPid w))).state with
    | .inTransit => some (cParcelTransit, 1)
    | .sealed => if need = .read then none else some (cParcelState, 2)
    | .freed => if leafAper w = 6 then some (cParcelTransit, 1) else none
    | _ => none

/-- A write has met the sealed page of a virtual address: its demand drain begins (R376). -/
def State.startDrain (s : State) (va : Nat) : State :=
  if s.pk.mu.drains.contains (va / 2 ^ 16) then s else s.onMu fun m => { m with drains := m.drains ++ [va / 2 ^ 16] }

/-! ## Access fields of DETAIL (R172) -/

/-- log2 of an access size; 6 for 64 bytes and for a binned accumulator. DESIGN CHOICE: 6 also for the 4,096 bytes of a ring slot or a tile,
whose logarithm the three bits of DETAIL[4:2] do not hold (R172, log 39). -/
def sizeLog (n : Nat) : Nat := min 6 (Nat.log2 n)

/-- The access fields: load 0, store 1, atomic 2; log2 of the size; scratchpad. -/
def accessBits (need : Need) (size : Nat) (scratch : Bool) : BitVec 64 :=
  (match need with | .read => 0 | .write => 1 | .atomic => 2) ||| BitVec.ofNat 64 (sizeLog size * 4) |||
    flagBit 64 scratch 8

/-! ## The side log (R168, R343) -/

/-- Overflow records that fit, where the area lies in this package's memory (R157, R343), outside the channels that strict mode keeps
from the context (R411). -/
def State.overCap (s : State) : Nat :=
  let a := s.sys.slbase.toNat
  let n := s.sys.slsize.toNat
  let last := a + 128 * n - 1
  if ((inHbm a && inHbm last) || (inLpddr a && inLpddr last)) && !s.strictRefuses a && !s.strictRefuses last then n else 0

/-- On-die entries in use, and overflow records in use. -/
def State.sideUse (s : State) : Nat × Nat :=
  let n := (s.core.side.filter (·.ovf.isSome)).length
  (s.core.side.length - n, n)

/-- Whether `n` more entries fit. -/
def State.sideRoom (s : State) (n : Nat) : Bool := decide (s.core.side.length + n ≤ 2048 + s.overCap)

/-- The 128 bytes of an entry (R343). -/
def sideBits (e : SideEntry) : BitVec 1024 :=
  let st : BitVec 3 := match e.state with | .held => 1 | .pend => 2 | .faulted => 3 | .sealWait => 4
  let kind : BitVec 2 := match e.kind with | .store => 0 | .release => 1 | .atomic => 2
  place 1024 st 0 ||| place 1024 (BitVec.ofNat 2 (strandNum e.strand)) 3 ||| place 1024 kind 5 ||| place 1024 e.afn 7 |||
    place 1024 e.amod 12 ||| place 1024 e.scope 14 ||| place 1024 e.addr 64 ||| place 1024 e.mask 128 |||
    place 1024 e.coord.bits 192 ||| place 1024 e.cause 384 ||| place 1024 (BitVec.ofNat 64 e.seq) 448 ||| place 1024 e.data 512

/-- Writes physical bytes as the hardware does, at every die. -/
def State.physPut (s : State) (pa : Nat) (bs : List (BitVec 8)) : State :=
  s.onMu fun m => { m with mem := (List.range 4).foldl (fun t d => cellPut t (dieBase d + pa) bs) m.mem }

/-- Writes the overflow records as their entries stand. -/
def State.syncOverflow (s : State) : State :=
  s.core.side.foldl (fun t e =>
    match e.ovf with
    | some k => t.physPut (s.sys.slbase.toNat + 128 * k) (toBytes 128 (sideBits e))
    | none => t) s

/-- Adds an entry; beyond 2,048 on-die entries it goes to the overflow area in order (R168). -/
def State.sideAdd (s : State) (e : SideEntry) : State :=
  let ovf := if s.sideUse.1 < 2048 then none
    else some (freeSlot (s.core.side.filterMap (·.ovf)) s.overCap s.overCap 0)
  let e := { e with id := s.core.nextEntry, seq := (s.strand e.strand).seq, ovf := ovf }
  let s := s.onCore fun c => { c with side := c.side ++ [e], nextEntry := c.nextEntry + 1 }
  let s := s.onStrand e.strand fun t => { t with seq := t.seq + 1 }
  match ovf with
  | some k => s.physPut (s.sys.slbase.toNat + 128 * k) (toBytes 128 (sideBits e))
  | none => s

/-- Removes an entry. -/
def State.sideDrop (s : State) (id : Nat) : State :=
  let s := match (s.core.side.find? (·.id == id)).bind (·.ovf) with
    | some k => s.physPut (s.sys.slbase.toNat + 128 * k) [0]
    | none => s
  s.onCore fun c => { c with side := c.side.filter (·.id != id), sys := { c.sys with slFull := false } }

/-- Changes an entry. -/
def State.sideSet (s : State) (id : Nat) (f : SideEntry → SideEntry) : State :=
  (s.onCore fun c => { c with side := c.side.map fun e => if e.id = id then f e else e }).syncOverflow

/-- The newest entry that covers a virtual address. -/
def coveringEntry (side : List SideEntry) (va : Nat) : Option SideEntry :=
  side.foldl (fun r e => if e.kind ≠ .atomic ∧ e.addr.toNat = va / 64 * 64 ∧ e.mask.getLsbD (va % 64) then some e else r) none

/-- An entry that strands of a mask have read or acquired, and that classes of a mask have found. -/
def SideEntry.found (e : SideEntry) (classes : BitVec 5) (readers : BitVec 4) : SideEntry :=
  { e with seen := e.seen ||| classes, readers := e.readers ||| readers }

/-- A read of strand `x` through class `c` has found entries: that class finds all that precedes them from now on (R35), and
releases of the strand cover them (R40). -/
def State.sawEntries (s : State) (x : StrandId) (c : Nat) (ids : List Nat) : State :=
  if ids.isEmpty then s
  else
    let find (e : SideEntry) : SideEntry := if ids.contains e.id then e.found (1#5 <<< c) (1#4 <<< strandNum x) else e
    (s.settleStale 0x1F (1#5 <<< c)).onCore fun k => { k with side := k.side.map find }

/-- The byte the newest covering entry holds for a virtual address (R168). -/
def forwarded (side : List SideEntry) (va : Nat) : Option (BitVec 8) :=
  side.foldl (fun r e =>
    if e.kind ≠ .atomic ∧ e.addr.toNat = va / 64 * 64 ∧ e.mask.getLsbD (va % 64) then some (e.data.extractLsb' (8 * (va % 64)) 8)
    else r) none

/-! ## Reading virtual memory -/

/-- What a read gives. -/
inductive Got where
  | ok (bs : List (BitVec 8)) (s : State)
  | wait (s : State)
  /-- cause, walk fields or code, faulting byte -/
  | fail (cause : BitVec 6) (bits : BitVec 64) (va : Nat) (s : State)

/-- The parts of `[va, va + n)` by 64 KiB page. -/
def pagesOf : Nat → Nat → Nat → List (Nat × Nat)
  | 0, _, _ => []
  | fuel + 1, va, n =>
    if n = 0 then []
    else
      let k := min n (2 ^ 16 - va % 2 ^ 16)
      (va, k) :: pagesOf fuel (va + k) (n - k)

/-- The 64 KiB pages of a range. -/
def pages (va n : Nat) : List (Nat × Nat) := pagesOf (n / 2 ^ 16 + 2) va n

/-- Sets DZ of a strand (R371). -/
def State.setDz (s : State) (x : StrandId) : State := s.onStrand x fun t => { t with flags := t.flags ||| 0x20 }

/-- How a read is made: for which strand, on which path and class, at which die, at S or not, forwarding or not. -/
structure ReadBy where
  strand : StrandId
  path : Nat
  cls : Nat
  /-- none: each byte at its home die (R36) -/
  die : Option Nat
  sup : Bool
  forward : Bool

/-! ## Keys (R373) -/

/-- What a block of 64 bytes holds at a die, read through the key it stands under and another one. -/
def crossBlock (old key : BitVec 512) (block : Nat) (mem : Memory) (d : Nat) : Memory :=
  let at_ := dieBase d + block * 64
  cellPut mem at_ (toBytes 64 (Config.xtsCross old key (BitVec.ofNat 64 block) (ofBytes 512 (cellRange mem at_ 64))))

/-- A 64-byte block of local memory comes to stand under a key: what another key left there reads through both. -/
def State.blockUnder (s : State) (key : BitVec 512) (block : Nat) : State :=
  match s.pk.mu.under.find? (·.1 == block) with
  | none => s.onMu fun m => { m with under := kSet m.under block key }
  | some (_, old) =>
    if old = key then s
    else s.onMu fun m => { m with
      mem := (List.range 4).foldl (crossBlock old key block) m.mem, under := kSet m.under block key }

/-- An access to places under a key. DESIGN CHOICE: a block takes the first key that an access comes under; one that stands under another
key comes to stand under this one, and back (log 10). -/
def State.underKey (s : State) (key : Option (BitVec 512)) (ls : List Loc) : State :=
  match key with
  | none => s
  | some k =>
    let blocks := (ls.filterMap fun l => match l with | .here pa => some (pa / 64) | _ => none).eraseDups
    blocks.foldl (·.blockUnder k) s

/-- Reads part of one page. -/
def State.readPage (s : State) (by_ : ReadBy) (va n : Nat) : Got :=
  match s.translate by_.path va by_.sup .read with
  | .wait s => .wait s
  | .fail f s => .fail f.cause f.bits va s
  | .ok e s =>
    match s.parcelRefuses e.leaf.word .read with
    | some (c, d) => .fail c d va s
    | none =>
      let addrs := (List.range n).map (va + ·)
      let fw := addrs.map fun a => if by_.forward then forwarded s.core.side a else none
      let found := if by_.forward && !s.core.side.isEmpty then (addrs.filterMap (coveringEntry s.core.side)).map (·.id) else []
      let s := s.sawEntries by_.strand by_.cls found
      let pick (mem : List (BitVec 8)) : List (BitVec 8) :=
        List.zipWith (fun (o : Option (BitVec 8)) b => o.getD b) fw mem
      if leafDisc e.leaf.word then .ok (addrs.map fun _ => 0) (s.setDz by_.strand)
      else
        let locs := addrs.map (s.locOf e)
        match (List.zip addrs (List.zip fw locs)).find? fun p => p.2.1.isNone && s.anyPoison [p.2.2] with
        | some p => .fail cPoison 0 p.1 s
        | none =>
          let s := s.underKey e.key locs
          let s := if by_.die.isNone then s.refreshHomes (locs.filterMap fun l => match l with | .here pa => some pa | _ => none) else s
          let (mem, s) := s.readCells by_.cls (locs.map fun l => match by_.die with | some d => l.cell d | none => l.homeCell)
          .ok (pick mem) s

/-- Reads virtual memory, page by page (R174). -/
def State.readVirtual (s : State) (by_ : ReadBy) (va n : Nat) : Got :=
  (pages va n).foldl (fun r (a, k) =>
    match r with
    | .ok bs s =>
      match s.readPage by_ a k with
      | .ok more s => .ok (bs ++ more) s
      | r => r
    | r => r) (.ok [] s)

/-! ## Checking and storing to virtual memory (R171, R179) -/

/-- What a check of a page for a write gives. -/
inductive Checked where
  | ok (s : State)
  | wait (s : State)
  | fail (cause : BitVec 6) (bits : BitVec 64) (va : Nat) (s : State)

/-- Steps 4 and 5 of R171 for a write or an atomic to `[va, va + n)`, at issue. A discarded page refuses an atomic, and a
host page too (R182 items 6 and 7): the translation comes first, so that a page which the host does not translate is
HOST_TRANSLATION, or waits for the host (DESIGN CHOICE, log 39). -/
def State.checkWrite (s : State) (path : Nat) (sup : Bool) (need : Need) (va n : Nat) : Checked :=
  (pages va n).foldl (fun r (a, _) =>
    match r with
    | .ok s =>
      match s.translate path a sup need with
      | .wait s => .wait s
      | .fail f s => .fail f.cause f.bits a s
      | .ok e s =>
        if need = .atomic && leafAper e.leaf.word = 5 then .fail cAperture 0 a s
        else
          match s.parcelRefuses e.leaf.word need with
          | some (c, d) => .fail c d a s
          | none => if need = .atomic && leafDisc e.leaf.word then .fail cDiscardedWrite 0 a s else .ok s
    | r => r) (.ok s)

/-! ## Leaving the side log (R168, R171, R182) -/

/-- The entry of strand `x` that may leave next: the first that is not HELD, when it is PEND (R33, R120, R168). -/
def State.nextOut (s : State) (x : StrandId) : Option SideEntry :=
  match s.core.side.find? fun e => e.strand == x && e.state != .held with
  | some e => if e.state = .pend then some e else none
  | none => none

/-- The bytes an entry writes, by virtual address. -/
def entryBytes (e : SideEntry) : List (Nat × BitVec 8) :=
  (List.range 64).filterMap fun i => if e.mask.getLsbD i then some (e.addr.toNat + i, e.data.extractLsb' (8 * i) 8) else none

/-- The access path on which an entry leaves: the core's, and the memory unit's once its record was popped with RESUME (R365, R369). -/
def SideEntry.path (e : SideEntry) : Nat := if e.replay then pathMemory else pathCore

/-- What the second translation of an entry gives (R171 step 4, R371, R376). -/
inductive Leaving where
  | ok (s : State)
  | wait (s : State)
  | sealed_ (va : Nat) (s : State)
  | fail (cause : BitVec 6) (bits : BitVec 64) (va : Nat) (s : State)

/-- Translates `[va, va + n)` again as an entry leaves; one whose pages a post has unmapped is dropped, whatever stands there now
(R330). -/
def State.leaveCheck (s : State) (e : SideEntry) (va n : Nat) : Leaving :=
  let need := if e.kind = .atomic then Need.atomic else .write
  if e.posted then .fail cParcelTransit 0x02 (max va e.addr.toNat) s
  else (pages va n).foldl (fun r (a, _) =>
    match r with
    | .ok s =>
      match s.translate e.path a e.sup need with
      | .wait s => .wait s
      | .fail f s => .fail f.cause f.bits a s
      | .ok t s =>
        let w := t.leaf.word
        if leafAper w = 6 then .fail cParcelTransit 0x02 a s
        else if e.kind = .atomic && leafAper w = 5 then .fail cAperture 0 a s
        else if leafDisc w then .fail cDiscardedWrite 0 a s
        else if leafSeal w then .sealed_ a s
        else .ok s
    | r => r) (.ok s)

/-- Where a virtual byte lies by the cached translation of a path. -/
def State.cachedLoc (s : State) (path va : Nat) : Loc :=
  match s.cached path va with
  | some e => s.locOf e va
  | none => .here va

/-- The key of the cached translation of a path. -/
def State.cachedKey (s : State) (path va : Nat) : Option (BitVec 512) := (s.cached path va).bind (·.key)

/-- Virtual address of the first byte an entry acts on. -/
def entryStart (e : SideEntry) : Nat :=
  e.addr.toNat + ((List.range 64).find? fun i => e.mask.getLsbD i).getD 0

/-- One byte folded into the touchmark (R374). -/
def foldByte (key : BitVec 64) (t : BitVec 128) (a : Nat) (b : BitVec 8) : BitVec 128 :=
  let x : BitVec 128 := (key.setWidth 128 <<< 64) + BitVec.ofNat 128 a
  let x := x ^^^ (b.setWidth 128 * 0x9E3779B97F4A7C15#128)
  let x := x * 0xD1B54A32D192ED03#128
  let x := x ^^^ (x >>> 67)
  let x := x * 0x94D049BB133111EB#128
  let x := x ^^^ (x >>> 59)
  t + x

/-- Writes the bytes of a store and folds them into the touchmark (R374). -/
def State.writeEntry (s : State) (e : SideEntry) : State :=
  let bs := entryBytes e
  let locs := bs.map fun p => s.cachedLoc e.path p.1
  let s := s.underKey (s.cachedKey e.path (entryStart e)) locs
  let s := s.writeLocs s.die e.cls (List.zip locs (bs.map (·.2)))
  let s := s.clearPoison locs
  s.onMu fun m => { m with touchmark := bs.foldl (fun t p => foldByte s.sys.tmkey t p.1 p.2) m.touchmark }

/-- Performs a store: it is written, and the entry is freed. -/
def State.performStore (s : State) (e : SideEntry) : State := (s.writeEntry e).sideDrop e.id

/-- The entries of a global store, one for each 64-byte block (R168, R179). -/
def storeEntries (x : StrandId) (cls : Nat) (coord : Coord) (keep atS stepped : Bool) (kind : SideKind) (scope : BitVec 3) (va : Nat)
    (bs : List (BitVec 8)) : List SideEntry :=
  (blocks va bs.length).map fun (blk, lo, k) =>
    { id := 0, state := if keep then .held else .pend, strand := x, kind := kind, afn := 0, amod := 0
      scope := scope, addr := BitVec.ofNat 64 blk, mask := byteMask lo k, coord := coord, cause := 0, seq := 0
      data := ofBytes 512 ((bs.drop (blk + lo - va)).take k) <<< (8 * lo), cls := cls, lane := none, compare := 0
      atS := atS, sup := atS, replay := false, ovf := none, seen := 0, posted := false, readers := 0, covers := [], stepped := stepped
      op := 0 }

/-- A release that enters the side log covers the entries of other strands that its strand has read or acquired (R40). -/
def State.coverOthers (s : State) (e : SideEntry) : SideEntry :=
  if e.kind = .release then
    { e with covers := (s.core.side.filter fun o => o.strand != e.strand && o.readers.getLsbD (strandNum e.strand)).map (·.id) }
  else e

/-- A block stored at S is performed at once (R120); one that cannot be performed yet enters the side log. -/
def State.storeNow (s : State) (e : SideEntry) : Stored :=
  match s.leaveCheck e (entryStart e) (e.addr.toNat + 64 - entryStart e) with
  | .ok s => .done (s.writeEntry e)
  | _ => if s.sideRoom 1 then .done (s.sideAdd e) else .full

/-- A global store of strand `x` by 64-byte blocks: into the side log, HELD when it is kept, else PEND (R168, R179); at S it is
performed at once (R120). `sup` is a store of code at S: an operation whose task has ended carries no coordinate, too. -/
def State.sideStoreAs (s : State) (sup : Bool) (x : StrandId) (cls : Nat) (coord : Coord) (keep atS stepped : Bool) (kind : SideKind)
    (scope : BitVec 3) (va : Nat) (bs : List (BitVec 8)) : Stored :=
  let es := (storeEntries x cls coord keep atS stepped kind scope va bs).map fun e => s.coverOthers { e with sup := sup }
  if atS then
    es.foldl (fun r e => match r with | .done s => s.storeNow e | .full => .full) (.done s)
  else if s.sideRoom es.length then .done (es.foldl (fun t e => t.sideAdd e) s)
  else .full

/-- A global store of an item of strand `x`. -/
def State.sideStore (s : State) (x : StrandId) (cls : Nat) (coord : Coord) (keep atS stepped : Bool) (kind : SideKind)
    (scope : BitVec 3) (va : Nat) (bs : List (BitVec 8)) : Stored := s.sideStoreAs atS x cls coord keep atS stepped kind scope va bs

end Sys2Proof.Machine
end

