-- ==== Sys2Proof/Machine/Operands.lean ====
section
/-!
DEFINITION. Operands that several families share: scalar addresses (R171), rings and their slots (R162, R163), stream
slots as operands (R72, R199), and what releases and acquires do (R39, R40, R44).
-/
namespace Sys2Proof.Machine

/-! ## Scalar addresses (R171) -/

/-- A checked scalar address: scratchpad of a physical core with its address of R156, or virtual. -/
inductive Place where
  | scratch (pcore : Nat) (addr : BitVec 32)
  | global (va : Nat)
deriving DecidableEq, Repr

/-- Offset of a scratchpad address. -/
def scratchOff (a : BitVec 32) : Nat := (a.extractLsb' 0 22).toNat

/-- A refused address: cause, DETAIL and ADDR. -/
structure BadAddr where
  cause : BitVec 6
  detail : BitVec 64
  addr : BitVec 64

/-- Steps 1 to 3 of R171 for an access of strand `x`: `size` bytes aligned to `align`; the access fields of R172 stand in
DETAIL for the memory causes. -/
def State.checkAddr (s : State) (x : StrandId) (ea : BitVec 64) (need : Need) (size align : Nat) : Except BadAddr Place :=
  let scratch := ea.getLsbD 63
  let f := accessBits need size scratch
  if ea.extractLsb' 56 7 ≠ 0 ∨ (scratch ∧ (ea.extractLsb' 32 24 ≠ 0 ∨ ea.getLsbD 31)) then
    .error ⟨cOperandRange, 0x10, ea⟩
  else if ea.toNat % align ≠ 0 then .error ⟨cDataAlign, f, ea⟩
  else if scratch then
    let a : BitVec 32 := ea.setWidth 32
    match s.scratchPlace (s.atS x) a size with
    | .error c =>
      .error (if c = cScratchBounds then ⟨c, f, ea + BitVec.ofNat 64 (s.pastPlace (s.atS x) a)⟩ else ⟨c, 0, ea⟩)
    | .ok p => .ok (.scratch p a)
  else .ok (.global ea.toNat)

/-- DETAIL of a cause that translation or the page gave: the walk fields beside the access fields of a memory cause, a
parcel cause's own code (R172, R332). -/
def faultDetail (c : BitVec 6) (bits : BitVec 64) (need : Need) (size : Nat) : BitVec 64 :=
  if c = cParcelTransit ∨ c = cParcelState then bits else bits ||| accessBits need size false

/-- A read of strand `x` itself: LS, from its own die, with forwarding (R174). -/
def State.readAs (s : State) (x : StrandId) (cls : Nat) : ReadBy := ⟨x, pathCore, cls, some s.die, s.atS x, true⟩

/-- A load of `size` bytes (R174): precise causes, or the bytes. -/
def State.load (s : State) (x : StrandId) (ea : BitVec 64) (size : Nat) (k : List (BitVec 8) → State → Res) : Res :=
  match s.checkAddr x ea .read size size with
  | .error b => .trap b.cause b.detail b.addr
  | .ok (.scratch p a) => k (s.scratchRead p (scratchOff a) size) s
  | .ok (.global va) =>
    match s.readVirtual (s.readAs x clsLS) va size with
    | .ok bs s => k bs s
    | .wait s => .wait s
    | .fail c bits va _ => .trap c (faultDetail c bits .read size) (BitVec.ofNat 64 va)

/-- A store finds the side log and its overflow area full: SIDE_LOG_FULL is raised once (R168). -/
def State.sideFull (s : State) (x : StrandId) : State :=
  if s.sys.slFull then s
  else (s.onSys fun y => { y with slFull := true }).raiseAsync x cSideLogFull 0 0 7 (s.strand x).coord .nothing

/-- A store of bytes (R179): to scratchpad at once, to global memory through the side log. -/
def State.store (s : State) (x : StrandId) (ea : BitVec 64) (bs : List (BitVec 8)) (kind : SideKind) (scope : BitVec 3)
    (k : State → Res) : Res :=
  let size := bs.length
  let c := (s.strand x).coord
  match s.checkAddr x ea .write size size with
  | .error b => .trap b.cause b.detail b.addr
  | .ok (.scratch p a) =>
    match s.scratchStore x c (s.kept x c) p a bs with
    | .done s => k s
    | .full => .wait s
  | .ok (.global va) =>
    match s.checkWrite pathCore (s.atS x) .write va size with
    | .wait s => .wait s
    | .fail f bits va _ => .trap f (faultDetail f bits .write size) (BitVec.ofNat 64 va)
    | .ok s =>
      -- an earlier store that is about to leave the side log goes first (R33 item 2)
      if s.atS x && (s.nextOut x).isSome then .wait s
      else match s.sideStore x clsLS c (s.kept x c) (s.atS x) (s.stepping x) kind scope va bs with
      | .done s => k s
      | .full => .wait (s.sideFull x)

/-! ## Releases and acquires (R39, R40, R44) -/

/-- Bits of all five classes. -/
abbrev allClasses : BitVec 5 := 0x1F


/-- At package scope and beyond, the die's reads return what the home dies have applied last (R36). Every write in flight
is applied first, so that causal order stands (R35). -/
def State.refreshDie (s : State) : State :=
  let d := s.die
  let s := (List.range 4).foldl (fun t e => t.deliverTo e) s
  s.onMu fun m =>
    let kept := m.mem.filter fun kv => !(decide (dieBase d ≤ kv.1 ∧ kv.1 < dieBase (d + 1))) || homeDie (kv.1 - dieBase d) == d
    let fromHome := m.mem.filterMap fun (k, v) =>
      let pa := k % 2 ^ 72
      if k < dieBase 4 ∧ k / 2 ^ 72 = homeDie pa ∧ homeDie pa ≠ d then some (pa, v) else none
    { m with mem := fromHome.foldl (fun t (pa, v) => cellSet t (dieBase d + pa) v) kept }

/-- The older values that reads of any class might still find are gone, also those under entries that are still in the side
log; the strands of a mask have acquired those entries (R32, R40). -/
def State.settleAll (s : State) (readers : BitVec 4) : State :=
  let s := s.settleStale allClasses allClasses
  if s.core.side.isEmpty then s
  else s.onCore fun c => { c with side := c.side.map fun e => e.found allClasses readers }

/-- An acquire of strand `x` at a scope (R40, R36). -/
def State.acquire (s : State) (x : StrandId) (scope : Nat) : State :=
  let s := if 4 ≤ scope then s.refreshDie else s
  s.settleAll (1#4 <<< strandNum x)

/-- An acquire at system scope for every strand: a quench cut, a plane swap, a restore (R26, R46, R49). -/
def State.acquireAll (s : State) : State := s.refreshDie.settleAll 0xF

/-! ## Rings (R162, R163) -/

/-- A ring as a strand of this core uses it: the entry at HOME, and HOME's scratchpad. -/
structure RingAt where
  handle : BitVec 4
  key : Nat
  pcore : Nat
  ring : Ring
  /-- address of R156 of HOME, its offset zero -/
  home : BitVec 32

/-- A ring of HOME as a core finds it that has not redefined it since HOME did: HEAD, TAIL and the parities are open, so that the slots
and states it uses are open ones of HOME's (R191, log 7); they are drawn anew in each cycle. -/
def State.openRing (s : State) (r : Ring) : Ring :=
  let v : BitVec 18 := Config.freeBits 18 (s.freeCtr * 2 ^ 64 + s.sys.cycle.toNat)
  let at_ (b : BitVec 8) : BitVec 8 := BitVec.ofNat 8 (b.toNat % (r.ns.toNat + 1))
  { r with head := at_ (v.extractLsb' 0 8), tail := at_ (v.extractLsb' 8 8), cp := v.getLsbD 16, pp := v.getLsbD 17 }

/-- Resolves a handle, or gives the cause and its DETAIL: RING_PROTOCOL of an undefined one, or of one whose HOME entry is undefined
(code 5), and REMAP of one whose HOME is not placed (R163, R191, R402). -/
def State.ringOf (s : State) (h : BitVec 4) : Except (BitVec 6 × BitVec 64) RingAt :=
  let own := s.pk.pcore.toNat
  let r := kGet Ring.zero s.pk.rings (own * 16 + h.toNat)
  if !r.valid then .error (cRingProtocol, h.setWidth 64)
  else if !r.remote then .ok ⟨h, own * 16 + h.toNat, own, r, 0x40000000⟩
  else
    match s.coreOf r.home with
    | .error c => .error (c, 0)
    | .ok p =>
      let r' := kGet Ring.zero s.pk.rings (p * 16 + h.toNat)
      if !r'.valid then .error (cRingProtocol, h.setWidth 64 ||| 0x50)
      else .ok ⟨h, p * 16 + h.toNat, p, if r'.gen = r.gen then r' else s.openRing r', place 32 r.home 22⟩

/-- Slots of a ring. -/
def RingAt.slots (r : RingAt) : Nat := r.ring.ns.toNat + 1
/-- Slot size in bytes. -/
def RingAt.slotSize (r : RingAt) : Nat := (r.ring.su.toNat + 1) * 256
/-- The slot `i` past a start index. -/
def RingAt.index (r : RingAt) (start i : Nat) : Nat := (start + i) % r.slots
/-- Its expected parity (R163). -/
def RingAt.parity (r : RingAt) (start : Nat) (base : Bool) (i : Nat) : Bool := base ^^ decide ((start + i) / r.slots % 2 = 1)
/-- Offset of a slot's data in HOME's scratchpad. -/
def RingAt.slotOff (r : RingAt) (idx : Nat) : Nat := r.ring.base.toNat + idx * r.slotSize
/-- The scratchpad address of R156 of a slot's byte. -/
def RingAt.slotAddr (r : RingAt) (idx byte : Nat) : BitVec 32 := r.home ||| BitVec.ofNat 32 (r.slotOff idx + byte)

/-- The entry at HOME after a use that found `seen` there and leaves `new`: what the use did not change stands as it is, also where the
use saw open values. -/
def Ring.after (home seen new : Ring) : Ring := { new with
  head := if new.head = seen.head then home.head else new.head
  cp := if new.cp = seen.cp then home.cp else new.cp
  tail := if new.tail = seen.tail then home.tail else new.tail
  pp := if new.pp = seen.pp then home.pp else new.pp }

/-- Replaces the entry at HOME. -/
def State.putRing (s : State) (r : RingAt) (ring : Ring) : State :=
  s.onPk fun k => { k with rings := kSet k.rings r.key ((kGet Ring.zero k.rings r.key).after r.ring ring) }

/-- A slot's state record (R162). -/
structure SlotState where
  full : Bool
  ph : Bool
  written : Bool
  coord : Coord
deriving DecidableEq, Repr

/-- Offset of a slot's state record. -/
def RingAt.stateOff (r : RingAt) (idx : Nat) : Nat := 0x3E0000 + (r.handle.toNat * 256 + idx) * 32

/-- Reads a slot's state record. -/
def State.slotState (s : State) (r : RingAt) (idx : Nat) : SlotState :=
  let v := ofBytes 256 (s.scratchRead r.pcore (r.stateOff idx) 32)
  ⟨v.getLsbD 0, v.getLsbD 1, v.getLsbD 2, Coord.ofBits (v.extractLsb' 64 192)⟩

/-- Writes a slot's state record. -/
def State.putSlot (s : State) (r : RingAt) (idx : Nat) (t : SlotState) : State :=
  let v : BitVec 256 := flagBit 256 t.full 0 ||| flagBit 256 t.ph 1 ||| flagBit 256 t.written 2 ||| place 256 t.coord.bits 64
  s.scratchPut r.pcore (r.stateOff idx) (toBytes 32 v)

/-- What a full-barrier wait finds. -/
inductive FullWait where
  | ready | waits | wrongLap
deriving DecidableEq, Repr

/-- The slots `[from, from + n)` past HEAD (R163, RING.WAITF). -/
def State.fullWait (s : State) (r : RingAt) (from_ n : Nat) : FullWait :=
  (List.range n).foldl (fun w i =>
    let t := s.slotState r (r.index r.ring.head.toNat (from_ + i))
    if t.full && t.ph != r.parity r.ring.head.toNat r.ring.cp (from_ + i) then .wrongLap
    else if !t.full && w == .ready then .waits else w) .ready

/-- The narrowest scope that encloses two physical cores (R31): the number of R173. -/
def scopeOf (a b : Nat) : Nat := if a = b then 1 else if a / 4 = b / 4 then 2 else if a / 64 = b / 64 then 3 else 4

/-- Whether the ring table of physical core `q` names the same ring: its entry of the handle lies at this HOME (R162). -/
def State.usesRing (s : State) (r : RingAt) (q : Nat) : Bool :=
  let e := kGet Ring.zero s.pk.rings (q * 16 + r.handle.toNat)
  e.valid && (if e.remote then (s.remapOf e.home.toNat).pcore.toNat == r.pcore else q == r.pcore)

/-- Scope of a ring's tokens by placement (R44): the core when its producer and its consumer are strands of this one, else the narrowest
that encloses this core and that of the other strand. DESIGN CHOICE: until that strand has used the ring, its core may be any whose table
names the ring, HOME's among them, and the scope encloses them all (log 29). -/
def State.ringScope (s : State) (r : RingAt) : Nat :=
  let own := s.pk.pcore.toNat
  match r.ring.peer with
  | some p => scopeOf own p.toNat
  | none =>
    if r.ring.producer.isSome && r.ring.consumer.isSome then 1
    else (s.pk.rings.filterMap fun e => if e.1 % 16 = r.handle.toNat ∧ s.usesRing r (e.1 / 16) then some (scopeOf own (e.1 / 16)) else none).foldl
      max (scopeOf own r.pcore)

/-- A strand waits at a ring; the wait began when it was first found (R165). -/
def State.ringWait (s : State) (x : StrandId) (h : BitVec 4) (full : Bool) : State :=
  s.onStrand x fun t => { t with wait :=
    match t.wait with
    | some w => if w.handle = h ∧ w.full = full then some w else some ⟨h, full, s.sys.cycle.toNat, false⟩
    | none => some ⟨h, full, s.sys.cycle.toNat, false⟩ }

/-- The ring wait of a strand is over, whatever its item waits for next (R165). -/
def State.ringFound (s : State) (x : StrandId) : State := s.onStrand x fun t => { t with wait := none }

/-- A ring that strand `x` of this core consumes from (R164): no core elsewhere does where one here produces. -/
def Ring.consumedBy (r : Ring) (x : StrandId) : Ring :=
  { r with consumer := some x, peer := if r.producer.isSome then none else r.peer }

/-- A ring that strand `x` of this core produces into, itself or by a stream (R44). -/
def Ring.producedBy (r : Ring) (x : StrandId) : Ring :=
  { r with producer := some x, peer := if r.consumer.isSome then none else r.peer }

/-- Strand `x` consumes from a ring (R164). -/
def State.consumes (s : State) (x : StrandId) (r : RingAt) : State :=
  if r.ring.consumer = some x then s else s.putRing r (r.ring.consumedBy x)

/-- Strand `x` produces into a ring, itself or by a stream (R44). -/
def State.produces (s : State) (x : StrandId) (r : RingAt) : State :=
  if r.ring.producer = some x then s else s.putRing r (r.ring.producedBy x)

/-- The lane of a V access to 32-bit elements whose byte `k` faults (R208). -/
def laneOfByte (x : StrandId) (k : Nat) : BitVec 64 := if x = .V then place 64 (BitVec.ofNat 10 (k / 4)) 16 else 0

/-- An access of strand `x` to `len` bytes of a slot from a byte on: SCRATCH_BOUNDS where it reaches HOME's B (R155); ADDR is that of
the first byte out of bounds, and on V its lane stands in DETAIL (R172, R208). -/
def State.slotAccess (s : State) (x : StrandId) (r : RingAt) (need : Need) (idx byte len : Nat) (res : Res) : Res :=
  if len == 0 || s.scratchOk false r.pcore (r.slotOff idx + byte) len then res
  else
    let k := s.pastBound false r.pcore (r.slotOff idx + byte)
    .trap cScratchBounds (accessBits need len true ||| laneOfByte x k) (flagBit 64 true 63 ||| (r.slotAddr idx (byte + k)).setWidth 64)

/-- Waits, as RING.WAITF does, until the slots are full, then acquires (R163, R44); `len` bytes of each are read from `byte` on. -/
def State.awaitSlots (s : State) (x : StrandId) (r : RingAt) (from_ n byte len : Nat) (k : State → Res) : Res :=
  match s.fullWait r from_ n with
  | .wrongLap => .fail cRingProtocol (r.handle.setWidth 64)
  | .waits => .wait (s.ringWait x r.handle true)
  | .ready =>
    (List.range n).foldr (fun i res => s.slotAccess x r .read (r.index r.ring.head.toNat (from_ + i)) byte len res)
      (k ((s.consumes x r).acquire x (s.ringScope r)))

/-! ## Stream slots as operands (R72, R163, R199) -/

/-- FMT, EPS, SCV, RING and ADV of a descriptor (R158). -/
def descFmt (d : BitVec 512) : Nat := (d.extractLsb' 57 4).toNat
def descEps (d : BitVec 512) : Nat := (d.extractLsb' 477 8).toNat
def descScv (d : BitVec 512) : Bool := d.getLsbD 409
def descRing (d : BitVec 512) : BitVec 4 := d.extractLsb' 452 4
def descAdv (d : BitVec 512) : Bool := d.getLsbD 476
def descSpv (d : BitVec 512) : Bool := d.getLsbD 459

/-- Elements per slot (R159). -/
def descE (d : BitVec 512) : Nat := (descEps d + 1) * 64

/-- The stream and slot offset of a stream-form selector 1qqqqoo (R72). -/
def selStream (f : BitVec 7) : BitVec 4 := f.extractLsb' 2 4
def selOffset (f : BitVec 7) : Nat := (f.extractLsb' 0 2).toNat

/-- Elements of a unit (R158). -/
def unitElems (fmt : Nat) : Nat := if fmt = 4 then 2 else 1

/-- Units of a slot. -/
def slotUnits (d : BitVec 512) : Nat := descE d / unitElems (descFmt d)

/-- The slot that a stream would write next, when it is free (R163). -/
def State.freeSlotFor (s : State) (r : RingAt) (d : BitVec 512) : Option Nat :=
  if descAdv d then
    let i := r.ring.tail.toNat
    if (s.slotState r i).full then none else some i
  else
    let i := r.ring.wtail.toNat
    let t := s.slotState r i
    if t.full || t.written then none else some i

/-- Whether a pending cut or a SAVE holds a stream back (R346 phase 2, R107). -/
def State.streamHeld (s : State) (key : Nat) : Bool :=
  (s.core.qu.st == .pending && decide (s.core.qu.cut.key ≤ key)) || s.sys.forced == some .save

/-- Whether a stream has elements still to read: all of its walk counts, also what waits for a free slot, but not what stands at or above
a pending cut, which reads no more (R40, R161, R346). -/
def State.streamReads (s : State) (t : Stream) : Bool :=
  (t.state == .run || t.state == .fault) &&
    !(s.core.qu.st == .pending && decide (s.core.qu.cut.key ≤ t.keyAt (t.filled * slotUnits t.desc)))

/-! ## What a release waits for (R40, R41) -/

/-- Whether a strand's engine work launched before a release, or before an acquire that follows its reads, has made its accesses (R40,
R150, R262 item 2): row commands, chain passes, the lanes of vector atomics, which a fault may leave in the side log (R233), matrix
operations and stream elements. -/
def State.engineQuiet (s : State) : StrandId → Bool
  | .K => s.core.rowq.isEmpty
  | .V => s.core.chainq.isEmpty && s.core.side.all fun e => e.strand != .V || e.lane.isNone
  | .M => s.core.mat.queue.all (·.follow.isSome)
  | .A => !s.core.streams.toList.any s.streamReads

/-- Whether the stores that a release of strand `x` covers have been performed at a scope (R40, R41): beyond the core, the side-log
entries that are not HELD and that the strand has made, read or acquired; beyond the die, the writes this die has applied. -/
def State.writesDone (s : State) (x : StrandId) (scope : Nat) : Bool :=
  (decide (scope ≤ 1) ||
    s.core.side.all fun e => !(e.strand == x || e.readers.getLsbD (strandNum x)) || e.state == .held) &&
  (decide (scope ≤ 3) || s.pk.mu.inflight.all fun w => w.waiting.contains s.die)

/-- Whether everything a release of strand `x` covers has been performed at a scope: engine accesses, and stores. -/
def State.releaseDone (s : State) (x : StrandId) (scope : Nat) : Bool := s.engineQuiet x && s.writesDone x scope

/-- The same for an advance of a ring by strand `x`. DESIGN CHOICE: the elements that a stream of A has still to place in slots of this
ring that are not advanced here are not waited for, since the stream may wait for a consumer of this very ring; R241 has the advance
complete before them (log 29). -/
def State.advanceDone (s : State) (x : StrandId) (h : BitVec 4) (scope : Nat) : Bool :=
  (if x = .A then !s.core.streams.toList.any fun t => descRing t.desc != h && s.streamReads t else s.engineQuiet x) && s.writesDone x scope

/-! ## Elements of a slot -/

/-- Bytes of the elements of a slot. -/
def dataBytes (d : BitVec 512) : Nat :=
  match fmtOf (descFmt d) with
  | some f => descE d * f.width / 8
  | none => 0

end Sys2Proof.Machine
end

