-- ==== Sys2Proof/Machine/Tiles.lean ====
section
/-!
DEFINITION. Tiles: lanes, layouts, the active lanes, banks and the snapshots of carried tiles, and tile operands (R197 to
R206, R214).
-/
namespace Sys2Proof.Machine

/-- The lanes of a tile, lane 0 first. -/
abbrev Tile := List (BitVec 32)

/-- Lane `l` of a tile. -/
def lane (t : Tile) (l : Nat) : BitVec 32 := t.getD l 0

/-- Every lane index, lowest first. -/
def laneIds : List Nat := List.range 1024

/-- The `k` cells from number `n` on, of a table that lists none below `n`. -/
def denseFrom {w : Nat} : Nat → Nat → Cells w → List (BitVec w)
  | 0, _, _ => []
  | k + 1, n, [] => 0 :: denseFrom k (n + 1) []
  | k + 1, n, (i, v) :: rest => if i = n then v :: denseFrom k (n + 1) rest else 0 :: denseFrom k (n + 1) ((i, v) :: rest)

/-! ## Banks (R203) -/

/-- The bank of tile `n` of the running plane. -/
def State.bankOf (s : State) (n : BitVec 6) : Nat := (if s.sys.planeAct then 64 else 0) + n.toNat

/-- The tile that a bank holds. -/
def VectorState.bank (v : VectorState) (b : Nat) : Tile := denseFrom 1024 0 (cellSlice v.banks (b * 1024) 1024)

/-- Replaces the tile that a bank holds. -/
def VectorState.putBank (v : VectorState) (b : Nat) (t : Tile) : VectorState :=
  { v with banks := cellPaste v.banks (b * 1024) 1024 (cellsOf 0 t) }

/-- Copies a bank. -/
def VectorState.copyBank (v : VectorState) (src dst : Nat) : VectorState :=
  { v with banks := cellPaste v.banks (dst * 1024) 1024 (cellSlice v.banks (src * 1024) 1024) }

/-- The lowest FREE idle bank (R203). -/
def VectorState.freeBank (v : VectorState) : Option Nat :=
  (List.range 128).findSome? fun i => if kHas v.idle (128 + i) then none else some (128 + i)

/-- The tile vN. -/
def State.tile (s : State) (n : BitVec 6) : Tile := s.core.vec.bank (s.bankOf n)

/-- What the tile vN holds joins what it has held (R206). -/
def State.keepPast (s : State) (n : BitVec 6) : State :=
  s.onVec fun v => { v with past := (n.toNat, cellSlice v.banks (s.bankOf n * 1024) 1024) :: v.past }

/-- Replaces the tile vN, with no snapshot. -/
def State.putTile (s : State) (n : BitVec 6) (t : Tile) : State := (s.keepPast n).onVec fun v => v.putBank (s.bankOf n) t

/-- The tile vN holds an open value (R206): each lane is zero, or a value that the tile has held, now, before, or in a snapshot
of it. -/
def State.openTile (s : State) (n : BitVec 6) : State :=
  let v := s.core.vec
  let snaps := v.idle.filterMap fun kv => match kv.2 with | .tileSnap m _ => if m = n then some (v.bank kv.1) else none | _ => none
  let past := v.past.filterMap fun p => if p.1 = n.toNat then some (p.2.map (·.2)) else none
  let (t, s) := s.choose 1024 (0 :: s.tile n ++ snaps.flatten ++ past.flatten)
  s.putTile n t

/-! ## Snapshots of carried tiles (R206) -/

/-- Takes the snapshots of vN that the open images of the V strand need; none when no idle bank is FREE. -/
def State.snapTile (s : State) (n : BitVec 6) : Option State :=
  let src := s.bankOf n
  let need := s.core.v.images.filter fun i =>
    i.vcarry.getLsbD n.toNat && !s.core.vec.idle.any fun kv => kv.2 == .tileSnap n i.id
  need.foldl (fun r i => r.bind fun s =>
    match s.core.vec.freeBank with
    | none => none
    | some b => some (s.onVec fun v => { (v.copyBank src b) with idle := kSet v.idle b (.tileSnap n i.id) })) (some s)

/-- Writes the tile vN, its snapshots taken first; the write waits while one cannot be taken. -/
def State.writeTile (s : State) (n : BitVec 6) (t : Tile) (k : State → Res) : Res :=
  match s.snapTile n with
  | none => .wait s
  | some s => k (s.putTile n t)

/-! ## Masks (R201, R202) -/

/-- The active lanes. -/
def State.active (s : State) : BitVec 1024 :=
  let v := s.core.vec
  if v.vmask.getLsbD 3 then BitVec.allOnes 1024 else at8 v.masks (v.vmask.setWidth 3)

/-- A result tile: the active lanes of a new tile, the old lanes elsewhere. -/
def merge (act : BitVec 1024) (old new : Tile) : Tile :=
  laneIds.map fun l => if act.getLsbD l then lane new l else lane old l

/-- A source tile as cross-lane reads see it: inactive lanes are zero (R202 item 2). -/
def crossLane (act : BitVec 1024) (t : Tile) : Tile := laneIds.map fun l => if act.getLsbD l then lane t l else 0

/-! ## Layouts (R198, R199) -/

/-- Elements per lane of a format, by FMT code; none for the 64-bit types and the reserved codes. -/
def perLane (fmt : Nat) : Option Nat :=
  match fmtOf fmt with
  | some f => if f.width = 64 then none else some (32 / f.width)
  | none => none

/-- Sub-element `j` of a lane that holds `k` elements. -/
def subElem (k j : Nat) (x : BitVec 32) : Nat := x.toNat / 2 ^ (32 / k * j) % 2 ^ (32 / k)

/-- A lane with sub-element `j` replaced. -/
def putSub (k j : Nat) (x : BitVec 32) (e : Nat) : BitVec 32 :=
  let w := 32 / k
  let mask : BitVec 32 := BitVec.ofNat 32 ((2 ^ w - 1) * 2 ^ (w * j))
  (x &&& ~~~mask) ||| (BitVec.ofNat 32 (e % 2 ^ w) <<< (w * j))

/-- The lanes of a memory image (R197), for `n` lanes. -/
def lanesOf : Nat → List (BitVec 8) → Tile
  | 0, _ => []
  | n + 1, bs => ofBytes 32 (bs.take 4) :: lanesOf n (bs.drop 4)

/-- The memory image of a tile (R197). -/
def imageBytes (t : Tile) : List (BitVec 8) := t.flatMap fun x => toBytes 4 x

/-! ## Tile operands (R199, R214) -/

/-- Whether lanes of a vector atomic that are still out will write a tile (R233 item 3). -/
def State.lanesOut (s : State) (n : BitVec 6) : Bool :=
  s.core.side.any fun e => match e.lane with | some (t, _) => t == n | none => false

/-- A tile register as a source; it waits for lanes of a vector atomic. -/
def State.tileIn (s : State) (n : BitVec 6) (k : Tile → State → Res) : Res :=
  if s.lanesOut n then .wait s else k (s.tile n) s

/-- The first 4,096 bytes of a slot as a tile: lanes beyond the elements read zero. -/
def slotTile (s : State) (r : RingAt) (idx : Nat) (d : BitVec 512) : Tile :=
  let n := min 4096 (min (dataBytes d) r.slotSize)
  let bs := s.scratchRead r.pcore (r.slotOff idx) n
  lanesOf 1024 (bs ++ List.replicate (4096 - n) 0)

/-- A tile source of role T, in a layout of `elems` elements per lane. -/
def State.tileSource (s : State) (f : BitVec 7) (elems : Nat) (k : Tile → State → Res) : Res :=
  if !f.getLsbD 6 then s.tileIn (f.setWidth 6) k
  else
    let q := selStream f
    let d := (at16 s.core.streams q).desc
    if perLane (descFmt d) ≠ some elems then .fail cVectorShape (q.setWidth 64)
    else
      match s.ringOf (descRing d) with
      | .error (c, e) => .fail c e
      | .ok r => s.awaitSlots s.cur r (selOffset f) 1 0 (min 4096 (min (dataBytes d) r.slotSize)) fun s =>
          k (slotTile s r (r.index r.ring.head.toNat (selOffset f)) d) s

/-! ## Field checks (R214, R77 steps 7 and 8) -/

/-- Class of a role S field: 32 to 63 name registers the strand has not (R71). -/
def roleScalarCls (f : BitVec 7) : Bool := !(f.getLsbD 5) || f.getLsbD 6
/-- Range of a role S field. -/
def roleScalarOk (f : BitVec 7) : Bool := !f.getLsbD 6
/-- Range of a role V or D field. -/
def roleTileOk (f : BitVec 7) : Bool := !f.getLsbD 6
/-- Range of a role M field. -/
def roleMaskOk (f : BitVec 7) : Bool := decide (f.toNat < 8)

/-- A tile or mask number from its field. -/
abbrev tileNo (f : BitVec 7) : BitVec 6 := f.setWidth 6
abbrev maskNo (f : BitVec 7) : BitVec 3 := f.setWidth 3
/-- The scalar register of a role S field, as a 6-bit field. -/
abbrev scalarNo (f : BitVec 7) : BitVec 6 := (f.setWidth 5).setWidth 6

/-- A mask. -/
def State.mask (s : State) (m : BitVec 3) : BitVec 1024 := at8 s.core.vec.masks m
/-- Replaces a mask. -/
def State.putMask (s : State) (m : BitVec 3) (v : BitVec 1024) : State := s.onVec fun t => { t with masks := put8 t.masks m v }

/-- The mask whose bits a test gives. -/
def maskOf (p : Nat → Bool) : BitVec 1024 :=
  BitVec.ofNat 1024 (laneIds.foldr (fun l n => 2 * n + if p l then 1 else 0) 0)

end Sys2Proof.Machine
end

