-- ==== Sys2Proof/Machine/Loads.lean ====
section
/-!
DEFINITION. Scalar loads and stores: majors 0x08 and 0x09, with LD.d.c and ST.d.c, and the landing of timed loads (R171 to
R179, R368).
-/
namespace Sys2Proof.Machine

/-- The strands majors 0x08 and 0x09 are legal in. -/
abbrev memStrands : List StrandId := [.K, .A]

/-- A base register and a displacement in units of the access size (R173, R174). -/
def State.ea (s : State) (x : StrandId) (a : BitVec 6) {w : Nat} (i : BitVec w) (size : Nat) : BitVec 64 :=
  s.reg x a + BitVec.ofInt 64 (i.toInt * size)

/-- Loaded bytes as a register value: sign or zero extended (R174). -/
def extendTo (signed : Bool) (bs : List (BitVec 8)) : BitVec 64 :=
  if signed then (ofBytes (8 * bs.length) bs).signExtend 64 else ofBytes 64 bs

/-- A load (R174); with a scope it is an acquire (R175). -/
def loadItem (s : State) (len : Nat) (d a : BitVec 6) (ea : BitVec 64) (size : Nat) (signed : Bool)
    (scope : Option (BitVec 3)) : State :=
  let x := s.cur
  runItem s len memStrands false (regOk x d && regOk x a) true
    (s.load x ea size fun bs s =>
      let s := match scope with | some n => s.acquire x n.toNat | none => s
      .retire (s.putReg x d (extendTo signed bs)))

/-- A load with a displacement of 10 bits. -/
def plainLoad (s : State) (d a : BitVec 6) (i : BitVec 10) (size : Nat) (signed : Bool) : State :=
  loadItem s 2 d a (s.ea s.cur a i size) size signed none

/-- An acquire load. -/
def acquireLoad (s : State) (d a : BitVec 6) (sc : BitVec 3) (i : BitVec 7) (size : Nat) : State :=
  loadItem s 2 d a (s.ea s.cur a i size) size false (some sc)

/-- LD.b. -/
def execLdB (d a : BitVec 6) (i : BitVec 10) (s : State) : Host.Outcome State Fault Refusal := .next (plainLoad s d a i 1 true)
/-- LD.h. -/
def execLdH (d a : BitVec 6) (i : BitVec 10) (s : State) : Host.Outcome State Fault Refusal := .next (plainLoad s d a i 2 true)
/-- LD.w. -/
def execLdW (d a : BitVec 6) (i : BitVec 10) (s : State) : Host.Outcome State Fault Refusal := .next (plainLoad s d a i 4 true)
/-- LD.d. -/
def execLdD (d a : BitVec 6) (i : BitVec 10) (s : State) : Host.Outcome State Fault Refusal := .next (plainLoad s d a i 8 false)
/-- LD.b.n. -/
def execLdBN (d a : BitVec 6) (i : BitVec 10) (s : State) : Host.Outcome State Fault Refusal := .next (plainLoad s d a i 1 false)
/-- LD.h.n. -/
def execLdHN (d a : BitVec 6) (i : BitVec 10) (s : State) : Host.Outcome State Fault Refusal := .next (plainLoad s d a i 2 false)
/-- LD.w.n. -/
def execLdWN (d a : BitVec 6) (i : BitVec 10) (s : State) : Host.Outcome State Fault Refusal := .next (plainLoad s d a i 4 false)

/-- LD.w.acq. -/
def execLdWAcq (d a : BitVec 6) (sc : BitVec 3) (i : BitVec 7) (s : State) : Host.Outcome State Fault Refusal :=
  .next (acquireLoad s d a sc i 4)
/-- LD.d.acq. -/
def execLdDAcq (d a : BitVec 6) (sc : BitVec 3) (i : BitVec 7) (s : State) : Host.Outcome State Fault Refusal :=
  .next (acquireLoad s d a sc i 8)

/-- LD.d.c sD, [sB]: LD.d with no displacement (R76). -/
def execLdDC (d b : BitVec 5) (s : State) : Host.Outcome State Fault Refusal :=
  .next (loadItem s 1 (sReg d) (sReg b) (s.reg s.cur (sReg b)) 8 false none)

/-! ## Timed loads (R176, R368) -/

/-- T(L) in cycles (R368). -/
def classCycles (l : Nat) : Nat := [0, 32, 96, 256, 512, 1024, 2048, 4096].getD l 0

/-- The class a page promises; none for no promise (R368). -/
def promised (w : BitVec 128) : Option Nat :=
  if leafLat w = 0 then none
  else match leafAper w with
    | 1 => some (max (leafLat w) 3)
    | 2 => some (max (leafLat w) 5)
    | _ => none

/-- Whether a page keeps a latency class (R160, R176). -/
def keepsClass (w : BitVec 128) (l : Nat) : Bool :=
  match promised w with
  | some p => decide (p ≤ l)
  | none => false

/-- LDT: retires at issue; the value lands T(L) cycles later. The page's class is tested when the checks of R171 have passed. -/
def execLdt (d a : BitVec 6) (l : BitVec 3) (i : BitVec 7) (s : State) : Host.Outcome State Fault Refusal :=
  let x := s.cur
  let ea := s.ea x a i 8
  let issue : Res :=
    s.load x ea 8 fun bs s =>
      .retire (s.onStrand x fun t => { t with
        timed := t.timed ++ [⟨d, ofBytes 64 bs, s.sys.cycle.toNat + classCycles l.toNat, t.coord, s.atS x⟩] })
  .next (runItem s 2 memStrands false (regOk x d && regOk x a) (l != 0)
    (match s.checkAddr x ea .read 8 8 with
     | .ok (.global va) =>
       match s.translate pathCore va (s.atS x) .read with
       | .ok e _ => if keepsClass e.leaf.word l.toNat || (s.parcelRefuses e.leaf.word .read).isSome then issue else .trap cLatencyClass (accessBits .read 8 false) ea
       | _ => issue
     | _ => issue))

/-- LDT_LANDING: the timed loads of a strand whose cycle has come land, in the order of their cycles. -/
def execLdtLanding (x : StrandId) (s : State) : Host.Outcome State Fault Refusal :=
  let now := s.sys.cycle.toNat
  let due := sortKey (·.at_) ((s.strand x).timed.filter fun l => decide (l.at_ ≤ now))
  .next (due.foldl (fun s l => s.putReg x l.reg l.value)
    (s.onStrand x fun t => { t with timed := t.timed.filter fun l => decide (now < l.at_) }))

/-- PREF has no effect on results and raises nothing (R177). -/
def execPref (a : BitVec 6) (_i : BitVec 10) (s : State) : Host.Outcome State Fault Refusal :=
  .next (runItem s 2 memStrands false (regOk s.cur a) true (.retire s))

/-! ## Stores (R178, R179) -/

/-- A store of the low bytes of a register; with a scope it is a release (R179), which waits for what it covers, in the side log
behind the earlier entries, or here where the store is performed at once. -/
def storeItem (s : State) (len : Nat) (d a : BitVec 6) (ea : BitVec 64) (size : Nat) (scope : Option (BitVec 3)) : State :=
  let x := s.cur
  let bs := toBytes size (s.reg x d)
  runItem s len memStrands false (regOk x d && regOk x a) true
    (match scope with
     | none => s.store x ea bs .store 0 .retire
     | some n => if s.engineQuiet x && (!(ea.getLsbD 63 || s.atS x) || s.releaseDone x n.toNat) then s.store x ea bs .release n .retire else .wait s)

/-- ST.b. -/
def execStB (d a : BitVec 6) (i : BitVec 10) (s : State) : Host.Outcome State Fault Refusal :=
  .next (storeItem s 2 d a (s.ea s.cur a i 1) 1 none)
/-- ST.h. -/
def execStH (d a : BitVec 6) (i : BitVec 10) (s : State) : Host.Outcome State Fault Refusal :=
  .next (storeItem s 2 d a (s.ea s.cur a i 2) 2 none)
/-- ST.w. -/
def execStW (d a : BitVec 6) (i : BitVec 10) (s : State) : Host.Outcome State Fault Refusal :=
  .next (storeItem s 2 d a (s.ea s.cur a i 4) 4 none)
/-- ST.d. -/
def execStD (d a : BitVec 6) (i : BitVec 10) (s : State) : Host.Outcome State Fault Refusal :=
  .next (storeItem s 2 d a (s.ea s.cur a i 8) 8 none)

/-- ST.w.rel. -/
def execStWRel (d a : BitVec 6) (sc : BitVec 3) (i : BitVec 7) (s : State) : Host.Outcome State Fault Refusal :=
  .next (storeItem s 2 d a (s.ea s.cur a i 4) 4 (some sc))
/-- ST.d.rel. -/
def execStDRel (d a : BitVec 6) (sc : BitVec 3) (i : BitVec 7) (s : State) : Host.Outcome State Fault Refusal :=
  .next (storeItem s 2 d a (s.ea s.cur a i 8) 8 (some sc))

/-- ST.d.c [sB], sD: ST.d with no displacement (R76). -/
def execStDC (d b : BitVec 5) (s : State) : Host.Outcome State Fault Refusal :=
  .next (storeItem s 1 (sReg d) (sReg b) (s.reg s.cur (sReg b)) 8 none)

end Sys2Proof.Machine
end

