-- ==== Sys2Proof/Machine/Atomics.lean ====
section
/-!
DEFINITION. Atomics (R180 to R183), how entries leave the side log and are performed (R168, R37, R233, R374), how stamped
writes are applied at other dies (R34), and what the horizon releases as it advances (R21, R336).
-/
namespace Sys2Proof.Machine

/-! ## The operation of an atomic (R180, R181) -/

/-- Bytes an atomic acts on, by FN and MOD. -/
def amoSize (fn : Nat) (amod : BitVec 2) : Nat := if fn = 2 ∨ fn = 3 then 96 else if fn = 1 then 4 else if amod.getLsbD 0 then 8 else 4

/-- Alignment of an atomic (R180, R95). -/
def amoAlign (fn : Nat) (amod : BitVec 2) : Nat := if fn = 2 ∨ fn = 3 then 32 else amoSize fn amod

/-- What an atomic gives: the bytes it writes, its result and its flags. -/
structure AmoOut where
  new : List (BitVec 8)
  ret : BitVec 64
  flags : Flags5

/-- The new value of a word or double atomic, sign-extended operands for a signed comparison. -/
def amoNew (fn : Nat) (unsigned : Bool) {w : Nat} (m x d : BitVec w) : BitVec w :=
  let less := if unsigned then m.ult x else m.slt x
  let more := if unsigned then x.ult m else x.slt m
  match fn with
  | 0x00 => m + x
  | 0x04 => if less then m else x
  | 0x05 => if more then m else x
  | 0x06 => m &&& x
  | 0x07 => m ||| x
  | 0x08 => m ^^^ x
  | 0x09 => x
  | _ => if m = d then x else m

/-- The bins of 96 bytes. -/
def binsOf (bs : List (BitVec 8)) : Bins := (List.range 12).map fun i => ofBytes 64 ((bs.drop (8 * i)).take 8)
/-- The 96 bytes of an accumulator. -/
def binBytes (b : Bins) : List (BitVec 8) := b.flatMap fun x => toBytes 8 x

/-- Performs an atomic on the old bytes (R181): `x` is the operand, `d` the old destination. AMO.FADD rounds as rne32 of R94, whose exact
zero sum is +0. -/
def amoDo (fn : Nat) (amod : BitVec 2) (m : List (BitVec 8)) (x d : BitVec 64) : AmoOut :=
  match fn with
  | 1 =>
    let (v, fl) := (f32Val (ofBytes 32 m)).add (f32Val (x.setWidth 32))
    let (r, g) := toF32 v.zeroSum
    ⟨toBytes 4 r, ofBytes 64 m, fl ||| g⟩
  | 2 => ⟨binBytes (binAdd (binsOf m) (x.setWidth 32)), ((binRound (binsOf m)).1).setWidth 64, 0⟩
  | 3 =>
    let b := binNormalise (binsOf m)
    let (r, fl) := binRound b
    ⟨binBytes b, r.setWidth 64, fl⟩
  | _ =>
    if amod.getLsbD 0 then
      let v : BitVec 64 := ofBytes 64 m
      ⟨toBytes 8 (amoNew fn (amod.getLsbD 1) v x d), v, 0⟩
    else
      let v : BitVec 32 := ofBytes 32 m
      let signed := (fn == 4 || fn == 5) && !amod.getLsbD 1
      ⟨toBytes 4 (amoNew fn (amod.getLsbD 1) v (x.setWidth 32) (d.setWidth 32)), if signed then v.signExtend 64 else v.setWidth 64, 0⟩

/-! ## The atomic item (R181 to R183) -/

/-- FN as performed: in deterministic mode AMO.FADD is AMO.BADD (R183). -/
def State.amoFn (s : State) (fn : Nat) : Nat := if fn = 1 ∧ s.sys.det then 2 else fn

/-- The side-log entry of an atomic: its operand bytes stand in the block of its first byte (R343). -/
def amoEntry (x : StrandId) (cls fn : Nat) (amod : BitVec 2) (va : Nat) (operand compare : BitVec 64) (coord : Coord)
    (keep atS stepped : Bool) (op : Nat) (lane : Option (BitVec 6 × BitVec 10)) : SideEntry :=
  let n := if 1 ≤ fn ∧ fn ≤ 3 then 4 else amoSize fn amod
  { id := 0, state := if keep then .held else .pend, strand := x, kind := .atomic, afn := BitVec.ofNat 5 fn, amod := amod
    scope := 0, addr := BitVec.ofNat 64 (va / 64 * 64), mask := byteMask (va % 64) n, coord := coord, cause := 0, seq := 0
    data := ((operand.setWidth 512) &&& BitVec.ofNat 512 (2 ^ (8 * n) - 1)) <<< (8 * (va % 64)), cls := cls, lane := lane
    compare := compare, atS := atS, sup := atS, replay := false, ovf := none, seen := 0, posted := false, readers := 0, covers := []
    stepped := stepped, op := op }

/-- Issues a scalar atomic: on scratchpad it is performed at once; on global memory it enters the side log, and the item
waits for its result (R182). -/
def State.issueAtomic (s : State) (x : StrandId) (fn0 : Nat) (amod : BitVec 2) (d a b : BitVec 6) : Res :=
  let fn := s.amoFn fn0
  let size := amoSize fn amod
  let ea := s.reg x a
  let c := (s.strand x).coord
  match s.checkAddr x ea .atomic size (amoAlign fn amod) with
  | .error e => .trap e.cause e.detail e.addr
  | .ok (.scratch p addr) =>
    let o := amoDo fn amod (s.scratchRead p (scratchOff addr) size) (s.reg x b) (s.reg x d)
    match s.scratchStore x c (s.kept x c) p addr o.new with
    | .done s => .retire ((s.addFlags x o.flags).putReg x d o.ret)
    | .full => .wait s
  | .ok (.global va) =>
    match s.checkWrite pathCore (s.atS x) .atomic va size with
    | .wait s => .wait s
    | .fail f bits v _ => .trap f (faultDetail f bits .atomic size) (BitVec.ofNat 64 v)
    | .ok s =>
      if s.sideRoom 1 then
        let id := s.core.nextEntry
        let s := s.sideAdd (amoEntry x clsLS fn amod va (s.reg x b) (s.reg x d) c (s.kept x c) (s.atS x) (s.stepping x) 0 none)
        .wait (s.onStrand x fun t => { t with amo := some ⟨id, d, if s.dry then 0 else 2, none, 0, none⟩ })
      else .wait (s.sideFull x)

/-- The end of an atomic that has been issued: its result, its fault, or a further wait. -/
def State.atomicResult (s : State) (x : StrandId) (w : AmoWait) : Res :=
  match w.bad, w.done with
  | some (c, d, a), _ => .trap c d a
  | none, some v => .retire (((s.onStrand x fun t => { t with amo := none }).addFlags x w.flags).putReg x w.reg v)
  | none, none => .wait s

/-- A scalar atomic. -/
def atomic (s : State) (fn : Nat) (amod : BitVec 2) (d a b : BitVec 6) : State :=
  let x := s.cur
  runItem s 2 [.A] false (regOk x d && regOk x a && regOk x b) true
    (match (s.strand x).amo with
     | some w => s.atomicResult x w
     | none => s.issueAtomic x fn amod d a b)

/-- MOD[1:0] of an atomic with a size bit. -/
def sizeMod (z : BitVec 1) : BitVec 2 := z.setWidth 2
/-- MOD[1:0] of a minimum or a maximum. -/
def rangeMod (n z : BitVec 1) : BitVec 2 := n ++ z

/-- AMO.ADD. -/
def execAmoAdd (d a b : BitVec 6) (z : BitVec 1) (s : State) : Host.Outcome State Fault Refusal := .next (atomic s 0x00 (sizeMod z) d a b)
/-- AMO.FADD. -/
def execAmoFadd (d a b : BitVec 6) (s : State) : Host.Outcome State Fault Refusal := .next (atomic s 0x01 0 d a b)
/-- AMO.BADD. -/
def execAmoBadd (d a b : BitVec 6) (s : State) : Host.Outcome State Fault Refusal := .next (atomic s 0x02 0 d a b)
/-- AMO.BFIN. -/
def execAmoBfin (d a : BitVec 6) (s : State) : Host.Outcome State Fault Refusal := .next (atomic s 0x03 0 d a 0)
/-- AMO.MIN. -/
def execAmoMin (d a b : BitVec 6) (n z : BitVec 1) (s : State) : Host.Outcome State Fault Refusal := .next (atomic s 0x04 (rangeMod n z) d a b)
/-- AMO.MAX. -/
def execAmoMax (d a b : BitVec 6) (n z : BitVec 1) (s : State) : Host.Outcome State Fault Refusal := .next (atomic s 0x05 (rangeMod n z) d a b)
/-- AMO.AND. -/
def execAmoAnd (d a b : BitVec 6) (z : BitVec 1) (s : State) : Host.Outcome State Fault Refusal := .next (atomic s 0x06 (sizeMod z) d a b)
/-- AMO.OR. -/
def execAmoOr (d a b : BitVec 6) (z : BitVec 1) (s : State) : Host.Outcome State Fault Refusal := .next (atomic s 0x07 (sizeMod z) d a b)
/-- AMO.XOR. -/
def execAmoXor (d a b : BitVec 6) (z : BitVec 1) (s : State) : Host.Outcome State Fault Refusal := .next (atomic s 0x08 (sizeMod z) d a b)
/-- AMO.SWAP. -/
def execAmoSwap (d a b : BitVec 6) (z : BitVec 1) (s : State) : Host.Outcome State Fault Refusal := .next (atomic s 0x09 (sizeMod z) d a b)
/-- AMO.CAS. -/
def execAmoCas (d a b : BitVec 6) (z : BitVec 1) (s : State) : Host.Outcome State Fault Refusal := .next (atomic s 0x0A (sizeMod z) d a b)

/-! ## Leaving the side log (R168, R171, R182) -/

/-- Before an atomic is performed, its home applies what the issuing die has applied: the order at the home agrees with
causal precedence, and the strand's own stores come first (R33 item 1, R37). -/
def State.beforeAtomic (s : State) (locs : List Loc) : State :=
  match locs with
  | .here pa :: _ => s.deliverFrom s.die (homeDie pa)
  | _ => s

/-- Writes of an atomic at its home (R37). The issuing die applies them, with what precedes them, before the result returns, and
reads of the atomic's class find all of it (R33 item 1, R35). -/
def State.writeAtHome (s : State) (cls : Nat) (locs : List Loc) (bs : List (BitVec 8)) : State :=
  match locs with
  | .here pa :: _ =>
    ((s.writeLocs (homeDie pa) cls (List.zip locs bs)).deliverFrom (homeDie pa) s.die).settleStale 0x1F (1#5 <<< cls)
  | _ => s.writeLocs s.die cls (List.zip locs bs)

/-- Tells the item that waits for an entry what became of it. -/
def State.tellWaiter (s : State) (x : StrandId) (id : Nat) (f : AmoWait → AmoWait) : State :=
  let g (w : AmoWait) : AmoWait := if w.entry = id then f w else w
  s.onStrand x fun t => { t with amo := t.amo.map g }

/-- Performs an atomic at its home: the result goes to the waiting item, or to the lane (R181, R233). -/
def State.performAtomic (s : State) (e : SideEntry) : State :=
  let va := entryStart e
  let size := amoSize e.afn.toNat e.amod
  let locs := (List.range size).map fun i => s.cachedLoc e.path (va + i)
  let s := (s.beforeAtomic locs).underKey (s.cachedKey e.path va) locs
  let m := locs.map fun l => cellGet s.pk.mu.mem l.homeCell
  let x : BitVec 64 := (e.data >>> (8 * (va % 64))).setWidth 64
  let o := amoDo e.afn.toNat e.amod m x e.compare
  match e.lane with
  | none =>
    ((s.writeAtHome e.cls locs o.new).sideDrop e.id).tellWaiter e.strand e.id
      (fun w => { w with done := some o.ret, flags := o.flags })
  | some (n, l) =>
    match s.snapTile n with
    | none => s
    | some s =>
      let s := ((s.writeAtHome e.cls locs o.new).sideDrop e.id).addFlags e.strand o.flags
      (s.keepPast n).onVec fun v => { v with banks := cellSet v.banks (s.bankOf n * 1024 + l.toNat) (o.ret.setWidth 32) }

/-- An atomic of another core, on bytes of this package's memory from `pa` on, performed at their home (R37, R182). -/
def State.farAtomic (s : State) (fn : Nat) (amod : BitVec 2) (cls pa : Nat) (x d : BitVec 64) : State :=
  let locs := (List.range (amoSize fn amod)).map fun i => Loc.here (pa + i)
  let s := s.deliverTo (homeDie pa)
  let o := amoDo fn amod (locs.map fun l => cellGet s.pk.mu.mem l.homeCell) x d
  s.writeLocs (homeDie pa) cls (List.zip locs o.new)

/-- An entry's translation has failed: a store or a lane becomes FAULTED with a record; a scalar atomic is removed, and
its item raises the cause (R168, R182, R233). A write to a posted parcel is dropped and not replayed (R330). -/
def State.leaveFails (s : State) (e : SideEntry) (c : BitVec 6) (bits : BitVec 64) (va : Nat) : State :=
  let need := if e.kind = .atomic then Need.atomic else .write
  let size := if e.kind = .atomic then amoSize e.afn.toNat e.amod else (entryBytes e).length
  let d := faultDetail c bits need size
  let addr := BitVec.ofNat 64 va
  if e.kind = .atomic ∧ e.lane.isNone then
    let s := (s.sideDrop e.id).tellWaiter e.strand e.id (fun w => { w with bad := some (c, d, addr) })
    let t := s.strand e.strand
    match t.amo with
    | some w =>
      if w.entry = e.id ∧ w.len ≠ 0 ∧ t.run = .running ∧ !t.lockstep then s.finish e.strand w.len (.trap c d addr) else s
    | none => s
  else if c = cParcelTransit then (s.sideDrop e.id).raiseEngine e.strand e.stepped c d addr 7 e.coord .nothing
  else
    let d := match e.lane with | some (_, l) => d ||| place 64 l 16 | none => d
    (s.sideSet e.id fun e => { e with state := .faulted, cause := c }).raiseEngine e.strand e.stepped c d addr 7 e.coord (.sideEntry e.id)

/-- Whether a release store may be performed: the entries of other strands that it covers have been, but those that are HELD (R40, R41);
and beyond the die, what this die has applied is applied everywhere. -/
def State.releaseReady (s : State) (e : SideEntry) : Bool :=
  e.kind != .release ||
    ((s.core.side.all fun o => !e.covers.contains o.id || o.state == .held) &&
      (decide (e.scope.toNat ≤ 3) || s.pk.mu.inflight.all fun w => w.waiting.contains s.die))

/-- How far past the start of an atomic its first poisoned byte lies, where there is one (R172, R372). -/
def State.poisonIn (s : State) (e : SideEntry) (va n : Nat) : Option Nat :=
  (List.range n).find? fun i => s.anyPoison [s.cachedLoc e.path (va + i)]

/-- SIDE_LOG_PERFORM: the next entry of a strand leaves the side log, is translated again, and is performed, or becomes
FAULTED or SEAL-WAIT. DESIGN CHOICE: POISON that a lane of VAMO meets as it leaves makes it FAULTED, too (log 39). -/
def execSideLogPerform (x : StrandId) (s : State) : Host.Outcome State Fault Refusal :=
  .next (
    match s.nextOut x with
    | none => s
    | some e =>
      if !s.releaseReady e then s
      else
        let va := entryStart e
        let n := if e.kind = .atomic then amoSize e.afn.toNat e.amod else e.addr.toNat + 64 - va
        match s.leaveCheck e va n with
        | .wait s => s
        | .sealed_ a s => (s.sideSet e.id fun e => { e with state := .sealWait }).startDrain a
        | .fail c bits a s => s.leaveFails e c bits a
        | .ok s =>
          if e.kind ≠ .atomic then s.performStore e
          else match s.poisonIn e va n with
            | some i => s.leaveFails e cPoison 0 (va + i)
            | none => s.performAtomic e)

/-- ATOMIC_RESULT_RETURN: the result of an atomic has come from its home, and the item retires. -/
def execAtomicResultReturn (x : StrandId) (s : State) : Host.Outcome State Fault Refusal :=
  let t := s.strand x
  .next (
    match t.amo with
    | none => s
    | some w =>
      if !s.mayIssue x || t.lockstep || w.len = 0 then s
      else if x = .V then
        (if s.core.side.any fun e => e.lane.isSome && e.state != .faulted then s
         else s.finish x w.len (.retire (s.onStrand x fun t => { t with amo := none })))
      else
        match w.bad, w.done with
        | none, some _ => s.finish x w.len (s.atomicResult x w)
        | _, _ => s)

/-- CAUSAL_APPLY: a die applies a stamped write once its clock conditions hold (R34). -/
def execCausalApply (die : BitVec 2) (k : Nat) (s : State) : Host.Outcome State Fault Refusal :=
  .next (
    match s.pk.mu.inflight[k]? with
    | some w => if s.mayApply w die.toNat then s.applyStamped w die.toNat else s
    | none => s)

/-! ## The horizon advances (R21, R336, R339, R342) -/

/-- Frees what a cut image no longer owns. -/
def IdleBank.ownedBy (b : IdleBank) (ids : List Nat) : Bool :=
  match b with
  | .tileSnap _ i => ids.contains i
  | .accSnap _ _ i => ids.contains i
  | .parked _ => false

/-- Frees cut images that a test rejects, with their snapshots; the entry image of a task with a recorded touchmark stays
(R339, R354). -/
def State.freeImages (s : State) (keep : CutImage → Bool) : State :=
  let keep := fun i => keep i || (i.entry && s.sys.tmrec)
  let gone := (strandIds.flatMap fun x => (s.strand x).images.filter fun i => !keep i).map (·.id)
  if gone.isEmpty then s
  else
    let s := strandIds.foldl (fun s x => s.onStrand x fun t => { t with images := t.images.filter keep }) s
    let s := s.onVec fun v => { v with idle := v.idle.filter fun kv => !kv.2.ownedBy gone }
    s.onMat fun m => { m with zsnaps := m.zsnaps.filter fun kv => !kv.2.ownedBy gone }

/-- The known horizon rises to a key: HELD entries below it become PEND, and images, slag entries, snapshots and counts below it
are freed (R21, R283). -/
def State.raiseHorizon (s : State) (h : Nat) : State :=
  let h := max h s.core.qu.hk
  let s := s.onQu fun q => { q with hk := h }
  let s := s.onCore fun c => { c with
    side := c.side.map fun e => if e.state = .held ∧ e.coord.key < h then { e with state := .pend } else e }
  let s := s.syncOverflow
  let s := s.freeImages fun i => decide (h ≤ i.coord.key)
  let s := s.slagFree fun e => decide (h ≤ e.coord.key)
  let s := s.onMat fun m => { m with sums := m.sums.filter fun c => decide (h ≤ c.1) }
  let due := s.pk.notices.filter fun n => decide (n.2.1.key < h)
  let s := due.foldl (fun s n => s.sendNotice n.2.2) s
  s.onPk fun k => { k with
    frozen := k.frozen.filter fun f => decide (h ≤ f.2.key)
    notices := k.notices.filter fun n => decide (h ≤ n.2.1.key) }

/-- HORIZON_UPDATE: the known horizon follows the effective horizon (R336). -/
def execHorizonUpdate (s : State) : Host.Outcome State Fault Refusal := .next (s.raiseHorizon s.effectiveH)

end Sys2Proof.Machine
end

