-- ==== Sys2Proof/Machine/Control.lean ====
section
/-!
DEFINITION. Control flow, traps, yields and coordinates of every strand: majors 0x03 to 0x07 but for SYSRD, SYSWR and the
synchronisation, with their compact forms (R68, R76, R118, R122, R126, R139 to R145, R148, R153).
-/
namespace Sys2Proof.Machine

/-! ## Targets (R68, R119) -/

/-- Whether the level lets strand `x` continue at a target: K at T below the overlay, K at S within it (R119). -/
def State.levelAllows (s : State) (x : StrandId) (t : Nat) : Bool :=
  x != .K || (if s.sys.levelS then decide (s.sys.tvec.toNat ≤ t) else s.sys.tvec == 0 || decide (t < s.sys.tvec.toNat))

/-- Whether an offset lies in the body of the block at `h`. -/
def inBody (code : List (BitVec 16)) (h p : Nat) : Bool := decide (h + 2 ≤ p ∧ p < bodyEnd code h)

/-- Continues strand `x` at a target (R68): in the body of its block, or at a header, which is entered afresh; a refused target is
PC_ALIGN. In lockstep a target outside the body is BAD_BLOCK, wherever it lies; DESIGN CHOICE: the block's own header too, since it
enters the block afresh (log 18). -/
def State.continueAt (s : State) (x : StrandId) (target : Int) (k : State → State) : Res :=
  let t := s.strand x
  let code := s.code x
  let n := target.toNat
  let bad : Res := .fail cPcAlign ((BitVec.ofInt 16 target).setWidth 64)
  if t.lockstep && !(0 ≤ target && inBody code t.hdr.toNat n) then .fail cBadBlock 0
  else if target < 0 ∨ (code.length : Int) ≤ target ∨ !s.levelAllows x n then bad
  else if isStart code t.hdr.toNat n then .jump ((k s).onStrand x fun t => { t with pc := BitVec.ofNat 16 n })
  else if isHeader code n then
    .jump ((k s).onStrand x fun t => { t with pc := BitVec.ofNat 16 n, hdr := BitVec.ofNat 16 n, remain := 0 })
  else bad

/-- The target of a displacement: from the item's own offset (R140). -/
def State.target (s : State) (x : StrandId) {w : Nat} (disp : BitVec w) : Int := (s.strand x).pc.toNat + disp.toInt

/-- A branch (R140). -/
def branch (s : State) (len : Nat) (c : BitVec 4) {w : Nat} (disp : BitVec w) : State :=
  let x := s.cur
  runItem s len allStrands false true (condOk c)
    (if condHolds c.toNat (s.strand x).cc then s.continueAt x (s.target x disp) id else .retire s)

/-- The call stack in use: the S-level one for K at S (R134). -/
def State.callStack (s : State) (x : StrandId) : List CallEntry := if s.atS x then s.sys.sCalls else (s.strand x).calls

/-- Replaces the call stack in use. -/
def State.putCalls (s : State) (x : StrandId) (l : List CallEntry) : State :=
  if s.atS x then s.onSys fun y => { y with sCalls := l } else s.onStrand x fun t => { t with calls := l }

/-- CALL (R141): the return offset, the header and the count go on the stack, the top first. -/
def State.callTo (s : State) (x : StrandId) (target : Int) : Res :=
  let t := s.strand x
  let l := s.callStack x
  if 16 ≤ l.length then .fail cOperandRange 0x01
  else s.continueAt x target fun s =>
    s.putCalls x (⟨BitVec.ofNat 16 (s.afterItem x 2), t.hdr, t.remain⟩ :: l)

/-- RET (R141): the caller's position, block and count. -/
def ret (s : State) (len : Nat) : State :=
  let x := s.cur
  let code := s.code x
  runItem s len allStrands false true true
    (match s.callStack x with
     | [] => .fail cOperandRange 0x02
     | e :: rest =>
       let h := e.hdr.toNat
       let p := e.pc.toNat
       if !(isHeader code h && (isStart code h p || p == bodyEnd code h) && s.levelAllows x p) then
         .fail cPcAlign (e.pc.setWidth 64)
       else if (s.strand x).lockstep && e.hdr != (s.strand x).hdr then .fail cBadBlock 0
       else .jump ((s.putCalls x rest).onStrand x fun t => { t with pc := e.pc, hdr := e.hdr, remain := e.remain }))

/-! ## Major 0x03 and 0x04 -/

/-- BR.cond. -/
def execBr (c : BitVec 4) (d : BitVec 22) (s : State) : Host.Outcome State Fault Refusal := .next (branch s 2 c d)

/-- BR.cond, compact: a displacement of 6 bits. -/
def execBrC (c : BitVec 4) (d : BitVec 6) (s : State) : Host.Outcome State Fault Refusal := .next (branch s 1 c d)

/-- JMP. -/
def execJmp (d : BitVec 22) (s : State) : Host.Outcome State Fault Refusal :=
  .next (runItem s 2 allStrands false true true (s.continueAt s.cur (s.target s.cur d) id))

/-- CALL. -/
def execCall (d : BitVec 22) (s : State) : Host.Outcome State Fault Refusal :=
  .next (runItem s 2 allStrands false true true (s.callTo s.cur (s.target s.cur d)))

/-- RET. -/
def execRet (s : State) : Host.Outcome State Fault Refusal := .next (ret s 2)

/-- RET, compact. -/
def execRetC (s : State) : Host.Outcome State Fault Refusal := .next (ret s 1)

/-- JMP to the halfword offset in a register. -/
def execJmpReg (b : BitVec 5) (s : State) : Host.Outcome State Fault Refusal :=
  .next (runItem s 2 allStrands false true true (s.continueAt s.cur ((s.reg s.cur (sReg b)).toNat : Int) id))

/-- CALL of the halfword offset in a register. -/
def execCallReg (b : BitVec 5) (s : State) : Host.Outcome State Fault Refusal :=
  .next (runItem s 2 allStrands false true true (s.callTo s.cur ((s.reg s.cur (sReg b)).toNat : Int)))

/-! ## Major 0x05 -/

/-- NOP. -/
def execNop (s : State) : Host.Outcome State Fault Refusal :=
  .next (runItem s 2 allStrands false true true (.retire s))

/-- NOP, compact. -/
def execNopC (s : State) : Host.Outcome State Fault Refusal :=
  .next (runItem s 1 allStrands false true true (.retire s))

/-- A strand stops for good (R143): PRIVILEGED at S, BAD_BLOCK in a bundle. A K whose TASKEND waits, or has ended its task, stands at that
item (R122, R288). -/
def State.stopBy (s : State) (x : StrandId) (len : Nat) (r : Run) : Res :=
  if s.atS x then .fail cPrivileged 0
  else if (s.strand x).lockstep then .fail cBadBlock 0
  else .jump (s.onStrand x fun t => { t with run := r, pc := if r = .taskEnd then t.pc else BitVec.ofNat 16 (s.afterItem x len) })

/-- HALT. -/
def execHalt (s : State) : Host.Outcome State Fault Refusal :=
  .next (runItem s 2 allStrands false true true (s.stopBy s.cur 2 .halted))

/-- HALT, compact. -/
def execHaltC (s : State) : Host.Outcome State Fault Refusal :=
  .next (runItem s 1 allStrands false true true (s.stopBy s.cur 1 .halted))

/-- BKPT raises BREAKPOINT with its code (R144). -/
def execBkpt (e : BitVec 12) (s : State) : Host.Outcome State Fault Refusal :=
  .next (runItem s 2 allStrands false true true (.fail cBreakpoint (e.setWidth 64)))

/-- BKPT, compact: code 0. -/
def execBkptC (s : State) : Host.Outcome State Fault Refusal :=
  .next (runItem s 1 allStrands false true true (.fail cBreakpoint 0))

/-- TASKEND: K waits for the other strands and then ends the task (R122). -/
def execTaskend (s : State) : Host.Outcome State Fault Refusal :=
  .next (runItem s 2 allStrands false (s.cur == .K) true (s.stopBy s.cur 2 .taskEnd))

/-- TASKEND, compact. -/
def execTaskendC (s : State) : Host.Outcome State Fault Refusal :=
  .next (runItem s 1 allStrands false (s.cur == .K) true (s.stopBy s.cur 1 .taskEnd))

/-- TRAP raises SOFT_TRAP at T and HYPERCALL at S (R144). -/
def execTrap (e : BitVec 12) (s : State) : Host.Outcome State Fault Refusal :=
  .next (runItem s 2 allStrands false true true
    (.fail (if s.atS s.cur then cHypercall else cSoftTrap) (e.setWidth 64)))

/-- Where K goes on after an ERET (R68, R118): nowhere while it stands stopped (R100 item 3); at a header, which is entered afresh,
at an instruction start of the block at HDR, or just past its body, inside the code section. No other position is allowed. DESIGN
CHOICE: a K that S interrupted as it stood at the end of the blocks, with no item left to fetch, returns there and stops (log 18). -/
def State.eretTo (s : State) : Option (BitVec 16 × BitVec 16 × BitVec 32) :=
  let y := s.sys
  let code := s.code .K
  let h := y.epcHdr.toNat
  let p := y.epcPc.toNat
  if (s.strand .K).run != .running then some (y.epcPc, y.epcHdr, y.epcRemain)
  else if y.plvl && decide (p < y.tvec.toNat) then none
  else if isHeader code h && ((isStart code h p && decide (p < code.length)) || (p == bodyEnd code h && decide (p ≤ code.length))) then
    some (y.epcPc, y.epcHdr, y.epcRemain)
  else if isHeader code p || (y.epcEnd && blocksEnd code p && p == h) then some (y.epcPc, y.epcPc, if p = h then y.epcRemain else 0)
  else none

/-- ERET (R118, R145): a position that R68 refuses is PC_ALIGN at the ERET. -/
def execEret (s : State) : Host.Outcome State Fault Refusal :=
  .next (runItem s 2 allStrands false (s.cur == .K) true
    (if !s.sys.levelS then .fail cPrivileged 0
     else match s.eretTo with
       | none => .fail cPcAlign (s.sys.epcPc.setWidth 64)
       | some p => .jump (s.leaveS p)))

/-! ## Major 0x06: PAUSE and YIELD -/

/-- PAUSE (R126): zero is refused; in a bundle it has no effect. -/
def pauseFor (s : State) (len n : Nat) : State :=
  let x := s.cur
  runItem s len allStrands false true true
    (if n = 0 then .fail cOperandRange 0x04
     else .retire (if (s.strand x).lockstep then s else s.onStrand x fun t => { t with pause := s.sys.cycle.toNat + n }))

/-- PAUSE. -/
def execPause (n : BitVec 16) (s : State) : Host.Outcome State Fault Refusal := .next (pauseFor s 2 n.toNat)

/-- PAUSE, compact. -/
def execPauseC (n : BitVec 10) (s : State) : Host.Outcome State Fault Refusal := .next (pauseFor s 1 n.toNat)

/-- YIELD (R148). -/
def execYield (s : State) : Host.Outcome State Fault Refusal :=
  .next (runItem s 2 allStrands false true true (.retire (s.yieldPoint s.cur)))

/-- YIELD, compact. -/
def execYieldC (s : State) : Host.Outcome State Fault Refusal :=
  .next (runItem s 1 allStrands false true true (.retire (s.yieldPoint s.cur)))

/-! ## Major 0x07: coordinates (R153) -/

/-- A change of coordinate that an item makes: it waits for an image, and its image stands after the item. -/
def State.changeBy (s : State) (x : StrandId) (len : Nat) (c : Coord) : Res :=
  if !s.mayChange x c then .wait s
  else .jump ((s.onStrand x fun t => { t with pc := BitVec.ofNat 16 (s.afterItem x len) }).changeCoord x c)

/-- CADV: the checks of R153, then the advance. -/
def advance (s : State) (len : Nat) (j : BitVec 3) : State :=
  let x := s.cur
  let c := (s.strand x).coord
  runItem s len allStrands false true true
    (if s.atS x then .fail cCoordOrder 0
     else if s.sys.nest.toNat ≤ j.toNat then .fail cOperandRange 0x03
     else if c.get j.toNat = 0xFFFFFFFF then .fail cCoordOrder (j.setWidth 64)
     else s.changeBy x len (c.advance j.toNat))

/-- CADV. -/
def execCadv (j : BitVec 3) (s : State) : Host.Outcome State Fault Refusal := .next (advance s 2 j)

/-- CADV, compact. -/
def execCadvC (j : BitVec 3) (s : State) : Host.Outcome State Fault Refusal := .next (advance s 1 j)

/-- CSET: never below the present coordinate; to the same one it has no effect. -/
def execCset (a : BitVec 6) (j : BitVec 3) (s : State) : Host.Outcome State Fault Refusal :=
  let x := s.cur
  let c := (s.strand x).coord
  let v := s.reg x a
  let c' := c.assign j.toNat (v.setWidth 32)
  .next (runItem s 2 allStrands false (regOk x a) true
    (if s.atS x then .fail cCoordOrder 0
     else if s.sys.nest.toNat ≤ j.toNat then .fail cOperandRange 0x03
     else if v.extractLsb' 32 32 ≠ 0 then .fail cOperandRange 0x05
     else if c'.key < c.key then .fail cCoordOrder (j.setWidth 64)
     else if c'.key = c.key then .retire s
     else s.changeBy x 2 c'))

/-- CGET: reads a coordinate register. -/
def readCoord (s : State) (len : Nat) (d : BitVec 6) (j : BitVec 3) : State :=
  let x := s.cur
  runItem s len allStrands false (regOk x d) true
    (if 5 < j.toNat then .fail cOperandRange 0x03
     else .retire (s.putReg x d (((s.strand x).coord.get j.toNat).setWidth 64)))

/-- CGET. -/
def execCget (d : BitVec 6) (j : BitVec 3) (s : State) : Host.Outcome State Fault Refusal := .next (readCoord s 2 d j)

/-- CGET, compact. -/
def execCgetC (d : BitVec 5) (j : BitVec 3) (s : State) : Host.Outcome State Fault Refusal := .next (readCoord s 1 (sReg d) j)

end Sys2Proof.Machine
end

