-- ==== Sys2Proof/Machine/Blocks.lean ====
section
/-!
DEFINITION. Blocks: entering one at its header, ending a repetition, the end of the code, and lockstep (R11, R62, R64 to
R66, R119, R205, R251).
-/
namespace Sys2Proof.Machine

/-! ## The header (R64, R66) -/

def hdrS (h : BitVec 32) : Bool := h.getLsbD 31
def hdrY (h : BitVec 32) : Bool := h.getLsbD 30
def hdrX (h : BitVec 32) : Bool := h.getLsbD 29
def hdrRep (h : BitVec 32) : Nat := (h.extractLsb' 7 12).toNat
def hdrCd (h : BitVec 32) : Nat := (h.extractLsb' 4 3).toNat

/-- Whether the last 32-bit instruction of a body begins at its last halfword (R66). -/
def bodyOverhangs (code : List (BitVec 16)) (h len : Nat) : Bool :=
  len != 0 && startFrom code (len + 1) (h + 2) (h + 1 + len) && (halfAt code (h + 1 + len)).getLsbD 15

/-- The checks of a header, in order (R66). -/
def headerFault (code : List (BitVec 16)) (h : Nat) : Option (BitVec 6) :=
  let w := wordAt code h
  let len := hdrLen w
  if len = 0 then some cBadBlock
  else if w.extractLsb' 0 4 ≠ 0 then some cBadBlock
  else if hdrCd w = 7 then some cBadBlock
  else if hdrX w && hdrRep w / 32 != 0 then some cBadBlock
  else if hdrX w && hdrRep w % 32 == 0 then some cBadBlock
  else if 256 < len && (hdrX w || hdrRep w != 0) then some cLoopBuffer
  else if bodyOverhangs code h len then some cBadBlock
  else none

/-- The execution count of a header: none where the register holds more than 32 bits (R65 item 1). -/
def State.execCount (s : State) (x : StrandId) (h : BitVec 32) : Option (BitVec 32) :=
  if hdrX h then
    let v := s.reg x (BitVec.ofNat 6 (hdrRep h % 32))
    if v.extractLsb' 32 32 = 0 then some (v.setWidth 32) else none
  else some (BitVec.ofNat 32 (hdrRep h + 1))

/-- Where the code of strand `x` ends at its level (R62, R119). DESIGN CHOICE: a K that an ERET puts at or beyond OFF at T stops there
too (log 18). -/
def State.fetchLimit (s : State) (x : StrandId) : Nat :=
  let n := (s.code x).length
  if x = .K ∧ !s.sys.levelS ∧ s.sys.tvec ≠ 0 then min n s.sys.tvec.toNat else n

/-- Whether strand `x` stands at or beyond the end of its code (R62). -/
def State.pastCode (s : State) (x : StrandId) : Bool :=
  let p := (s.strand x).pc.toNat
  let n := s.fetchLimit x
  decide (n ≤ p) ||
    (decide (n ≤ p + 1) && ((s.strand x).pc == (s.strand x).hdr || (halfAt (s.code x) p).getLsbD 15))

/-- The carry masks that a block's table gives to V and M (R205, R251). -/
def State.takeCarry (s : State) (x : StrandId) (h : BitVec 16) : State :=
  let o := s.plane.object
  match x with
  | .V => match o.vtable.find? (·.1 == h) with
    | some (_, m) => s.onVec fun v => { v with vcarry := m }
    | none => s
  | .M => match o.mtable.find? (·.1 == h) with
    | some (_, m) => s.onMat fun t => { t with zc := m.setWidth 8 }
    | none => s
  | _ => s

/-- Moves strand `x` to the next header (R65 item 5). -/
def State.toNextHeader (s : State) (x : StrandId) : State :=
  let n := BitVec.ofNat 16 (nextHeader (s.code x) (s.strand x).hdr.toNat)
  s.onStrand x fun t => { t with pc := n, hdr := n, remain := 0 }

/-- A yield point at the entry into a repetition, when the header asks for it and the strand still runs. -/
def State.entryYield (s : State) (x : StrandId) (y : Bool) : State :=
  if y && (s.strand x).run == .running then s.yieldPoint x else s

/-- Begins the first repetition of the block at the strand's header. -/
def State.beginBody (s : State) (x : StrandId) (count : BitVec 32) : State :=
  let h := (s.strand x).hdr
  (s.takeCarry x h).onStrand x fun t => { t with pc := h + 2, remain := count }

/-- Raises a cause at a header, with no item retired. -/
def State.headerTrap (s : State) (x : StrandId) (c : BitVec 6) (detail : BitVec 64) : State :=
  { (s.raisePrecise x c detail 0 0 0) with last := .trapped c detail 0 }

/-- The automatic advance after a repetition (R16, R65 item 3): the coordinate it gives, none when there is no advance, or
the cause. -/
def State.autoAdvance (s : State) (x : StrandId) : Except (BitVec 6 × BitVec 64) (Option Coord) :=
  let cd := hdrCd (wordAt (s.code x) (s.strand x).hdr.toNat)
  let c := (s.strand x).coord
  if cd = 0 then .ok none
  else if s.atS x then .error (cCoordOrder, 0)
  else if s.sys.nest.toNat ≤ cd - 1 then .error (cOperandRange, 0x03)
  else if c.get (cd - 1) = 0xFFFFFFFF then .error (cCoordOrder, BitVec.ofNat 64 (cd - 1))
  else .ok (some (c.advance (cd - 1)))

/-- Begins the next repetition, its advance made. -/
def State.nextRepetition (s : State) (x : StrandId) (c : Option Coord) : State :=
  let s := s.onStrand x fun t => { t with pc := t.hdr + 2, remain := t.remain - 1 }
  match c with
  | some c => s.changeCoord x c
  | none => s

/-- The end of a repetition (R65 items 3 to 5). -/
def State.endRepetition (s : State) (x : StrandId) : State :=
  let t := s.strand x
  let y := hdrY (wordAt (s.code x) t.hdr.toNat)
  if t.remain.toNat ≤ 1 then { (s.toNextHeader x) with last := .jumped }
  else
    match s.autoAdvance x with
    | .error (c, d) => s.headerTrap x c d
    | .ok none => { ((s.nextRepetition x none).entryYield x y) with last := .jumped }
    | .ok (some c) =>
      if s.mayChange x c then { ((s.nextRepetition x (some c)).entryYield x y) with last := .jumped }
      else { s with last := .waited }

/-- Entering a block at its header (R65 items 1 and 2). A lockstep header waits for the other strands (R11 item 1). DESIGN CHOICE: K
at S waits at one without joining them (log 18). DESIGN CHOICE: DETAIL of a PC_ALIGN at a position that is no header, or no
instruction start, is that offset (log 18). -/
def State.enterBlock (s : State) (x : StrandId) : State :=
  let t := s.strand x
  let code := s.code x
  let w := wordAt code t.hdr.toNat
  if !isHeader code t.hdr.toNat then s.headerTrap x cPcAlign (t.hdr.setWidth 64)
  else
    match headerFault code t.hdr.toNat with
    | some c => s.headerTrap x c 0
    | none =>
      if hdrS w then
        { (if s.atS x then s else s.onStrand x fun t => { t with run := .meeting }) with last := .waited }
      else
        match s.execCount x w with
        | none => s.headerTrap x cOperandRange 0x06
        | some n =>
          if n = 0 then { (s.toNextHeader x) with last := .jumped }
          else { ((s.beginBody x n).entryYield x (hdrY w)) with last := .jumped }

/-- Whether strand `x` stands at its header, or just past its body. -/
def State.atHeader (s : State) (x : StrandId) : Bool := (s.strand x).pc == (s.strand x).hdr
def State.atBodyEnd (s : State) (x : StrandId) : Bool :=
  !s.atHeader x && isHeader (s.code x) (s.strand x).hdr.toNat &&
    (s.strand x).pc.toNat == bodyEnd (s.code x) (s.strand x).hdr.toNat

/-- Whether strand `x` stands at an item of its block: not at a header, nor just past the body. -/
def State.atItem (s : State) (x : StrandId) : Bool :=
  isHeader (s.code x) (s.strand x).hdr.toNat && isStart (s.code x) (s.strand x).hdr.toNat (s.strand x).pc.toNat

/-- Whether strand `x` would fetch a header or an item at or beyond the end of its code (R62): its blocks end there, or it stands at a
header or an item that its level may not fetch. Any other position is PC_ALIGN (R102). -/
def State.fetchesPast (s : State) (x : StrandId) : Bool :=
  let p := (s.strand x).pc.toNat
  ((s.atHeader x && (isHeader (s.code x) p || blocksEnd (s.code x) p)) || s.atItem x) && s.pastCode x

/-- BLOCK_ENTRY: the issuing strand enters its block, or ends a repetition of it. -/
def execBlockEntry (s : State) : Host.Outcome State Fault Refusal :=
  let x := s.cur
  .next (
    if !s.mayIssue x || (s.strand x).lockstep then s
    else if s.atBodyEnd x then s.endRepetition x
    else if s.atHeader x && !s.fetchesPast x then s.enterBlock x
    else s)

/-- FETCH_END_OF_CODE: the issuing strand stops as though halted; at S it is PRIVILEGED (R62, R119). -/
def execFetchEndOfCode (s : State) : Host.Outcome State Fault Refusal :=
  let x := s.cur
  .next (
    if !s.mayIssue x || !s.fetchesPast x then s
    else if s.atS x then s.headerTrap x cPrivileged 0
    else { (s.onStrand x fun t => { t with run := .pastEnd }) with last := .jumped })

/-! ## Lockstep (R11) -/

/-- Whether strand `x` has stopped, so that the strands that wait at S headers cannot meet it (R11 item 5): at its end, or by a
fault outside a bundle, which for K is a queued record of its own. -/
def State.leftMeeting (s : State) (x : StrandId) : Bool :=
  match (s.strand x).run with
  | .halted | .pastEnd | .taskEnd | .noTask => true
  | .faulted => !(s.strand x).lockstep
  | _ => x == .K && (s.sys.fq ++ s.sys.fqWait).any fun r => r.own && r.stops && !r.lks

/-- Ends the lockstep of all four strands. -/
def State.endLockstep (s : State) : State :=
  strandIds.foldl (fun s x => s.onStrand x fun t => { t with lockstep := false }) s

/-- Raises BAD_BLOCK at every strand that satisfies a test; a strand that waited no longer waits. -/
def State.badBlocks (s : State) (p : StrandId → Bool) : State :=
  (strandIds.filter p).foldl (fun s x =>
    let s := s.onStrand x fun t => { t with run := if t.run == .meeting then .running else t.run }
    s.headerTrap x cBadBlock 0) s

/-- The four blocks begin as bundles (R11 items 2 to 4): the counts are read now, and must be equal. -/
def State.meet (s : State) : State :=
  let counts := strandIds.map fun x => (x, s.execCount x (wordAt (s.code x) (s.strand x).hdr.toNat))
  match counts.find? fun p => p.2.isNone with
  | some (x, _) => (s.onStrand x fun t => { t with run := .running }).headerTrap x cOperandRange 0x06
  | none =>
    let n := ((counts.map (·.2)).head?.getD none).getD 0
    if counts.any fun p => p.2 != some n then s.badBlocks fun _ => true
    else
      let y := strandIds.any fun x => hdrY (wordAt (s.code x) (s.strand x).hdr.toNat)
      strandIds.foldl (fun s x =>
        let s := s.onStrand x fun t => { t with run := .running }
        if n = 0 then s.toNextHeader x
        else ((s.beginBody x n).onStrand x fun t => { t with lockstep := true }).entryYield x y) s

/-- LOCKSTEP_MEET: the four strands stand at S headers and go on together, or one of them has stopped and the others
raise BAD_BLOCK. -/
def execLockstepMeet (s : State) : Host.Outcome State Fault Refusal :=
  let waits (x : StrandId) : Bool := (s.strand x).run == .meeting && !s.atS x
  .next (
    if strandIds.all waits then s.meet
    else if strandIds.any waits && strandIds.any (fun x => !waits x && s.leftMeeting x) then s.badBlocks waits
    else s)

/-- The end of a repetition of a bundle: every strand has passed its body (R11 item 3, R141). DESIGN CHOICE: where RETs of a bundle have
restored counts that differ, K's decides whether another repetition follows (log 18). -/
def State.endBundleRepetition (s : State) : State :=
  let y := strandIds.any fun x => hdrY (wordAt (s.code x) (s.strand x).hdr.toNat)
  if (s.strand .K).remain.toNat ≤ 1 then strandIds.foldl (fun s x => s.toNextHeader x) s.endLockstep
  else
    let next := strandIds.map fun x => (x, s.autoAdvance x)
    match next.findSome? fun p => match p.2 with | .error e => some (p.1, e) | .ok _ => none with
    | some (x, c, d) => s.headerTrap x c d
    | none =>
      if next.all fun p => match p.2 with | .ok (some c) => s.mayChange p.1 c | _ => true then
        next.foldl (fun s p =>
          (s.nextRepetition p.1 (match p.2 with | .ok c => c | .error _ => none)).entryYield p.1 y) s
      else { s with last := .waited }

end Sys2Proof.Machine
end

