-- ==== Sys2Proof/Machine/FloatOps.lean ====
section
/-!
DEFINITION. The FP32 operations of lanes, chain passes and row passes, and conversions between formats (R219, R220, R224,
R226 to R229).
-/
namespace Sys2Proof.Machine

/-- A result and the flags it sets. -/
abbrev Flagged := BitVec 32 × Flags5

/-- Rounds an exact value to FP32, with flags set before. -/
def finishF32 (v : Val) (fl : Flags5) : Flagged :=
  let (r, g) := toF32 v
  (r, fl ||| g)

def f32Add (x y : BitVec 32) : Flagged :=
  let (v, fl) := (f32Val x).add (f32Val y)
  finishF32 v fl
def f32Sub (x y : BitVec 32) : Flagged :=
  let (v, fl) := (f32Val x).add (f32Val y).negate
  finishF32 v fl
def f32Mul (x y : BitVec 32) : Flagged :=
  let (v, fl) := (f32Val x).mul (f32Val y)
  finishF32 v fl

/-- `a + x · y`, rounded once; `neg` subtracts the product (R219). -/
def f32Fma (neg : Bool) (a x y : BitVec 32) : Flagged :=
  let (p, fl) := (f32Val x).mul (f32Val y)
  let (v, gl) := (f32Val a).add (if neg then p.negate else p)
  finishF32 v (fl ||| gl)

/-- NV for a signalling NaN among two operands. -/
def signallingNv (x y : BitVec 32) : Flags5 := flagIf ((f32Val x).isSignalling || (f32Val y).isSignalling) fNV

/-- Whether either of two values is a NaN. -/
def unordered (x y : BitVec 32) : Bool := (f32Val x).isNan || (f32Val y).isNan

/-- Whether `x` is the lesser, −0 lying below +0 (R220). -/
def f32Below (x y : BitVec 32) : Bool :=
  (f32Val x).lt (f32Val y) || ((f32Val x).isZero && (f32Val y).isZero && (f32Val x).isNeg && !(f32Val y).isNeg)

/-- VFMIN (R220). -/
def f32Min (x y : BitVec 32) : Flagged := (if unordered x y then f32NaN else if f32Below y x then y else x, signallingNv x y)
/-- VFMAX (R220). -/
def f32Max (x y : BitVec 32) : Flagged := (if unordered x y then f32NaN else if f32Below x y then y else x, signallingNv x y)
def f32Abs (x : BitVec 32) : BitVec 32 := x &&& 0x7FFFFFFF
def f32Neg (x : BitVec 32) : BitVec 32 := x ^^^ 0x80000000

/-- `x / y` rounded to FP32: 0/0 and ∞/∞ are invalid, a finite value over zero is a division by zero (R80). -/
def f32Div (x y : BitVec 32) : Flagged :=
  match f32Val x, f32Val y with
  | .nan a, v => (f32NaN, flagIf (a || v.isSignalling) fNV)
  | v, .nan b => (f32NaN, flagIf (b || v.isSignalling) fNV)
  | .inf _, .inf _ => (f32NaN, fNV)
  | .inf a, v => finishF32 (.inf (a != v.isNeg)) 0
  | .num a _ _, .inf b => finishF32 (.num (a != b) 0 0) 0
  | .num a m e, .num b n k =>
    if n = 0 then (if m = 0 then (f32NaN, fNV) else finishF32 (.inf (a != b)) fDV)
    else if m = 0 then finishF32 (.num (a != b) 0 0) 0
    else
      let (q, x) := quotient m e n k
      finishF32 (.num (a != b) q x) 0

/-! ## RCPA, RSQA and their Newton steps (R226, R227) -/

/-- Rounds a nonzero magnitude to 12 significant bits, or to the FP32 subnormal grid where that is coarser (R226). -/
def round12 (neg : Bool) (m : Nat) (e : Int) : Flagged :=
  let top : Int := (Nat.log2 m : Int) + e
  let q : Int := max (top - 11) (-149)
  let (n, inexact) := rneMag m (e - q)
  let (r, fl) := toF32 (.num neg n q)
  (r, fl ||| flagIf inexact fNX ||| flagIf (inexact && decide (top < -126)) fUF)

/-- RCPA (R226). -/
def f32Rcpa (x : BitVec 32) : Flagged :=
  match f32Val x with
  | .nan b => (f32NaN, flagIf b fNV)
  | .inf n => finishF32 (.num n 0 0) 0
  | .num n m e =>
    if m = 0 then finishF32 (.inf n) fDV
    else
      let (q, k) := quotient 1 0 m e
      round12 n q k

/-- RSQA (R226). -/
def f32Rsqa (x : BitVec 32) : Flagged :=
  match f32Val x with
  | .nan b => (f32NaN, flagIf b fNV)
  | .inf n => if n then (f32NaN, fNV) else (0, 0)
  | .num n m e =>
    if m = 0 then finishF32 (.inf n) fDV
    else if n then (f32NaN, fNV)
    else
      let (q, k) := quotient 1 0 m e
      let (r, j) := rootOf q k
      round12 false r j

/-- One. -/
def valOne : Val := .num false 1 0

/-- RCPN (R227). -/
def f32Rcpn (x y : BitVec 32) : Flagged :=
  match f32Val y with
  | .inf _ => (y, 0)
  | vy =>
    if vy.isZero then (y, 0)
    else if unordered x y then (f32NaN, signallingNv x y)
    else
      let (p, f1) := (f32Val x).mul vy
      let (d, f2) := valOne.add p.negate
      let (e, f3) := finishF32 d (f1 ||| f2)
      let (r, f4) := f32Fma false y y e
      (r, f3 ||| f4)

/-- RSQN (R227). -/
def f32Rsqn (x y : BitVec 32) : Flagged :=
  match f32Val y with
  | .inf _ => (y, 0)
  | vy =>
    if vy.isZero then (y, 0)
    else if unordered x y then (f32NaN, signallingNv x y)
    else
      let (t, f1) := f32Mul x y
      let (p, f2) := (f32Val t).mul vy
      let (d, f3) := valOne.add p.negate
      let (e, f4) := finishF32 d (f1 ||| f2 ||| f3)
      let (h, f5) := f32Mul y 0x3F000000
      let (r, f6) := f32Fma false y h e
      (r, f4 ||| f5 ||| f6)

/-! ## EXP2 and LOG2 (R228) -/

/-- Fraction bits of the fixed-point values below: the results are irrational where they are not exact, so that the one
rounding of them is that of the exact result (log 14). -/
abbrev fracBits : Nat := 256

/-- `Σ z^(2k+1) / (2k+1)` for `z = n / 2^256`, by `fuel` terms: the sum, from the power `p = z^(2k+1)`. -/
def atanhSum (z2 : Nat) : Nat → Nat → Nat → Nat
  | 0, _, _ => 0
  | fuel + 1, k, p => p / (2 * k + 1) + atanhSum z2 fuel (k + 1) (p * z2 / 2 ^ fracBits)

/-- The natural logarithm of `a / b`, for `b ≤ a ≤ 2 b`, as a fixed-point value. -/
def lnFixed (a b : Nat) : Nat :=
  let z := (a - b) * 2 ^ fracBits / (a + b)
  2 * atanhSum (z * z / 2 ^ fracBits) 90 0 z

/-- ln 2. -/
def ln2Fixed : Nat := lnFixed 2 1

/-- `Σ y^k / k!` from `k` on, by `fuel` terms. -/
def expSum (y : Nat) : Nat → Nat → Nat → Nat
  | 0, _, _ => 0
  | fuel + 1, k, p => p + expSum y fuel (k + 1) (p * y / 2 ^ fracBits / (k + 1))

/-- EXP2 (R228). -/
def f32Exp2 (x : BitVec 32) : Flagged :=
  match f32Val x with
  | .nan b => (f32NaN, flagIf b fNV)
  | .inf n => (if n then 0 else 0x7F800000, 0)
  | .num n m e =>
    if m = 0 then (0x3F800000, 0)
    else if !magLt m e 1 9 then finishF32 (.num false 1 (if n then -400 else 400)) 0
    else
      let fixed : Int := signedOf n (m * pow2 (e + 149))
      let whole : Int := fixed / 2 ^ 149
      let part : Nat := (fixed % 2 ^ 149).toNat
      if part = 0 then finishF32 (.num false 1 whole) 0
      else
        let y := part * ln2Fixed / 2 ^ 149
        finishF32 (.num false (2 * expSum y 80 0 (2 ^ fracBits) + 1) (whole - 257)) 0

/-- LOG2 (R228). -/
def f32Log2 (x : BitVec 32) : Flagged :=
  match f32Val x with
  | .nan b => (f32NaN, flagIf b fNV)
  | .inf n => if n then (f32NaN, fNV) else (0x7F800000, 0)
  | .num n m e =>
    if m = 0 then (0xFF800000, fDV)
    else if n then (f32NaN, fNV)
    else
      let t := Nat.log2 m
      let whole : Int := (t : Int) + e
      if m = 2 ^ t then finishF32 (Val.ofInt whole 0) 0
      else
        let part := lnFixed m (2 ^ t) * 2 ^ fracBits / ln2Fixed
        let v : Int := whole * 2 ^ fracBits + part
        finishF32 (Val.ofInt (2 * v + 1) (-257)) 0

/-! ## Conversions (R224) -/

/-- Whether a conversion between one format and itself copies the code (R224). -/
def Fmt.copies : Fmt → Bool
  | .f32 => false
  | .bf16 => false
  | _ => true

/-- Converts an element (R224). -/
def convertElem (src dst : Fmt) (c : Nat) : Nat × Flags5 := if src = dst ∧ src.copies then (c, 0) else dst.code (src.val c)

/-! ## Philox4x32-10 (R229) -/

/-- One round. -/
def philoxRound (x : BitVec 32 × BitVec 32 × BitVec 32 × BitVec 32) (q0 q1 : BitVec 32) :
    BitVec 32 × BitVec 32 × BitVec 32 × BitVec 32 :=
  let (x0, x1, x2, x3) := x
  let p0 : BitVec 64 := 0xD2511F53#64 * x0.setWidth 64
  let p1 : BitVec 64 := 0xCD9E8D57#64 * x2.setWidth 64
  (p1.extractLsb' 32 32 ^^^ x1 ^^^ q0, p1.setWidth 32, p0.extractLsb' 32 32 ^^^ x3 ^^^ q1, p0.setWidth 32)

/-- The ten rounds from a counter and a key: four words. -/
def philox (ctr : BitVec 128) (key : BitVec 64) : List (BitVec 32) :=
  let start := (ctr.extractLsb' 0 32, ctr.extractLsb' 32 32, ctr.extractLsb' 64 32, ctr.extractLsb' 96 32)
  let (x0, x1, x2, x3) := (List.range 10).foldl (fun x r =>
    philoxRound x (key.setWidth 32 + BitVec.ofNat 32 (r * 0x9E3779B9)) (key.extractLsb' 32 32 + BitVec.ofNat 32 (r * 0xBB67AE85))) start
  [x0, x1, x2, x3]

end Sys2Proof.Machine
end

