-- ==== Sys2Proof/Machine/Sync.lean ====
section
/-!
DEFINITION. Synchronisation: fences, DSYNC and its completion (R42, R47, R124, R125, R149 to R151).
-/
namespace Sys2Proof.Machine

/-! ## Fences -/

/-- A FENCE of strand `x`: a release waits for what it covers, an acquire for the reads that engines of the strand have still to make,
and it takes effect when it retires (R150). -/
def fence (s : State) (scope : BitVec 3) (acq rel : Bool) : State :=
  let x := s.cur
  let n := scope.toNat
  runItem s 2 allStrands false true true
    (if !s.engineQuiet x || (rel && !s.writesDone x n) then .wait s else .retire (if acq then s.acquire x n else s))

/-- FENCE.acq. -/
def execFenceAcq (sc : BitVec 3) (s : State) : Host.Outcome State Fault Refusal := .next (fence s sc true false)

/-- FENCE.rel. -/
def execFenceRel (sc : BitVec 3) (s : State) : Host.Outcome State Fault Refusal := .next (fence s sc false true)

/-- FENCE.ar. -/
def execFenceAr (sc : BitVec 3) (s : State) : Host.Outcome State Fault Refusal := .next (fence s sc true true)

/-- Whether the writes of the classes in `w` that the strand issued before are performed at core scope (R42): row and
chain passes write as they go, stores are seen in the side log, and the lanes of a vector atomic are performed as they leave it, also
after a fault (R233). -/
def State.writersQuiet (s : State) (x : StrandId) (w : BitVec 5) : Bool :=
  (!w.getLsbD clsGS || x != .V || s.core.side.all fun e => e.strand != .V || e.lane.isNone) &&
  (!w.getLsbD clsRW || (match x with | .K => s.core.rowq.isEmpty | .V => s.core.chainq.isEmpty | _ => true)) &&
    (!w.getLsbD clsMX || x != .M || s.core.mat.queue.all (·.follow.isSome))

/-- Reads through the classes of `y` find the writes of the classes of `w`: what has been performed, and what is still in the side
log as it is performed (R42). -/
def State.settlePaths (s : State) (w y : BitVec 5) : State :=
  (s.settleStale w y).onCore fun c => { c with side := c.side.map fun e => if w.getLsbD e.cls then e.found y 0 else e }

/-- FENCE.P W, Y: empty sets are refused; then later reads through Y find the writes of W (R42, R151). -/
def execFenceP (y w : BitVec 5) (s : State) : Host.Outcome State Fault Refusal :=
  .next (runItem s 2 allStrands false true true
    (if w = 0 ∨ y = 0 then .fail cOperandRange 0x03
     else if !s.writersQuiet s.cur w then .wait s
     else .retire (s.settlePaths w y)))

/-! ## Domain synchronisation -/

/-- The scope of a domain level (R14, R31): the same numbers but for levels 5 to 7, which are bay, group and system. -/
def domainScope (l : BitVec 3) : Nat := l.toNat

/-- PHASE bit L flips (R124). -/
def State.flipPhase (s : State) (x : StrandId) (l : BitVec 3) : State :=
  s.onStrand x fun t => { t with phase := t.phase ^^^ (1#8 <<< l.toNat) }

/-- DSYNC L (R149): refused where the strand is no member or L exceeds QLVL (DESIGN CHOICE: in this order, so that DETAIL[8] is 0
where both hold, log 39); at level 0 it completes at once; else it arrives and waits. -/
def execDsync (l : BitVec 3) (s : State) : Host.Outcome State Fault Refusal :=
  let x := s.cur
  let t := s.strand x
  .next (runItem s 2 allStrands false true true
    (if !t.member.getLsbD l.toNat then .fail cDomainSync (l.setWidth 64)
     else if s.sys.qlvl < l then .fail cDomainSync (l.setWidth 64 ||| 0x100)
     else if t.synced == some t.pc && !s.atS x then .retire ((s.onStrand x fun t => { t with synced := none }).acquire x (domainScope l))
     else if !s.releaseDone x (domainScope l) then .wait s
     else if l = 0 then .retire ((s.flipPhase x l).acquire x 0)
     else .wait (s.onStrand x fun t => { t with dsync := some l })))

/-- The first arrival that a BARRIER entry made for a strand in the present phase of a level. -/
def State.barrierOf (s : State) (l : BitVec 3) (x : StrandId) : Option BarrierArrival :=
  s.pk.barriers.find? fun b => b.strand == x && b.level == l && !b.late

/-- Whether a strand counts as arrived at a DSYNC of a level (R125): it waits there, a BARRIER entry arrived for it, or it
has stopped for good. A faulted strand and K at S do not arrive; DESIGN CHOICE: a K that has stopped for good counts as arrived
while its handler runs, too (log 39). -/
def State.arrived (s : State) (l : BitVec 3) (x : StrandId) : Bool :=
  let t := s.strand x
  (s.barrierOf l x).isSome ||
    (match t.run with
     | .halted | .pastEnd | .taskEnd | .noTask => true
     | .running => t.dsync == some l && !s.atS x
     | _ => false)

/-- The domain of a level that this core belongs to, while it exists (R14). -/
def State.domainAt (s : State) (l : BitVec 3) : Option Domain :=
  s.pk.domains.find? fun d => d.ctx == s.sys.ctx && d.level == l && d.members.getLsbD s.sys.lcore.toNat && d.exists_ s.pk.group

/-- Whether a core is its domain's only member. -/
def State.soleMember (s : State) (d : Domain) : Bool := d.members == 1#256 <<< s.sys.lcore.toNat

/-- Whether the members outside the core have arrived (R125): there are none at levels 0 and 1, and none where this core is the only
member. -/
def State.othersArrived (s : State) (l : BitVec 3) : Bool :=
  l.toNat ≤ 1 ||
    (match s.domainAt l with
     | some d => s.soleMember d || d.arrived != 0
     | none => false)

/-- One strand's part of a completed phase: its first arrival is used, and one that came after its DSYNC counts now. -/
def State.passPhase (s : State) (l : BitVec 3) (x : StrandId) : State :=
  let first := s.barrierOf l x
  let s := s.flipPhase x l
  let s := if first.isNone && (s.strand x).dsync == some l then s.onStrand x fun t => { t with dsync := none, synced := some t.pc } else s
  let now (b : BarrierArrival) : BarrierArrival := if b.strand = x ∧ b.level = l then { b with late := false } else b
  s.onPk fun k => { k with barriers := (match first with | some b => k.barriers.erase b | none => k.barriers).map now }

/-- DSYNC_COMPLETE: every member has arrived; each DSYNC completes as an acquire and the phase of every member strand
flips. -/
def execDsyncComplete (level : BitVec 3) (s : State) : Host.Outcome State Fault Refusal :=
  let waits (x : StrandId) : Bool := (s.strand x).dsync == some level || (s.barrierOf level x).isSome
  .next (
    if level ≠ 0 ∧ strandIds.any waits ∧ strandIds.all (s.arrived level) ∧ s.othersArrived level then
      let s := strandIds.foldl (fun s x => s.passPhase level x) s
      s.onPk fun k => { k with
        domains := k.domains.map fun d => if d.ctx = s.sys.ctx ∧ d.level = level then { d with arrived := d.arrived - 1 } else d }
    else s)

end Sys2Proof.Machine
end

