-- ==== Sys2Proof/Machine/Rings.lean ====
section
/-!
DEFINITION. Rings: waits, advances, pushes, pops and definitions, RING_STALL and the end of a ring wait (R163, R165, R190,
R191, R193, R194).
-/
namespace Sys2Proof.Machine

/-- The strands major 0x0C is legal in (R190). -/
abbrev ringStrands : List StrandId := [.A, .V, .M]

/-- Runs a ring operation on a resolved handle with its count in range (R193). -/
def State.withRing (s : State) (h : BitVec 4) (k : RingAt → Res) : Res :=
  match s.ringOf h with
  | .error (c, d) => .fail c d
  | .ok r => k r

/-- A count from 1 to NS + 1. -/
def RingAt.countOk (r : RingAt) (n : Nat) : Bool := decide (1 ≤ n ∧ n ≤ r.slots)

/-- RING.WAITF (R163). -/
def State.waitFull (s : State) (x : StrandId) (h : BitVec 4) (n : Nat) : Res :=
  s.withRing h fun r =>
    if !r.countOk n then .fail cRingProtocol (h.setWidth 64)
    else s.awaitSlots x r 0 n 0 0 .retire

/-- RING.WAITE (R163). -/
def State.waitEmpty (s : State) (x : StrandId) (h : BitVec 4) (n : Nat) : Res :=
  s.withRing h fun r =>
    if !r.countOk n then .fail cRingProtocol (h.setWidth 64)
    else if (List.range n).all fun i => !(s.slotState r (r.index r.ring.tail.toNat i)).full then
      .retire (s.acquire x (s.ringScope r))
    else .wait (s.ringWait x h false)

/-- Whether queued matrix operations still have to read slots of a ring (R262 item 2). -/
def State.slotsRead (s : State) (r : RingAt) (n : Nat) : Bool :=
  s.core.mat.queue.any fun o =>
    !o.span.slots.isEmpty && o.span.ring == r.handle &&
      o.span.indices.any fun i => (List.range n).any fun k => r.index r.ring.head.toNat k == i

/-- RING.ADV.C (R163): each slot becomes empty; it is a release of the reads of the freed slots. -/
def State.advanceConsumer (s : State) (x : StrandId) (h : BitVec 4) (n : Nat) : Res :=
  s.withRing h fun r =>
    let idx := (List.range n).map (r.index r.ring.head.toNat)
    if !r.countOk n then .fail cRingProtocol (h.setWidth 64)
    else if idx.any fun i => !(s.slotState r i).full then .fail cRingProtocol (h.setWidth 64)
    else if (x == .M && s.slotsRead r n) || !s.advanceDone x h (s.ringScope r) then .wait (s.ringFound x)
    else
      let top := idx.foldl (fun m i => max m ((s.slotState r i).coord.key + 1)) r.ring.passed
      let s' := idx.foldl (fun t i => t.putSlot r i { t.slotState r i with full := false }) s
      .retire (s'.putRing r { r.ring.consumedBy x with
        head := BitVec.ofNat 8 (r.index r.ring.head.toNat n), cp := r.parity r.ring.head.toNat r.ring.cp n, passed := top })

/-- Whether a stream is not finished with its ring (R160, R163). -/
def Stream.active (t : Stream) : Bool := t.state == .run || t.state == .fault || t.state == .cut

/-- The stream of this core that targets a handle. DESIGN CHOICE: one that is DONE targets it no more, for RING.ADV.P as for RING.DEF, whose
code 3 names RUN, FAULT and CUT: an advance then neither waits for W nor is refused (R163, R191, log 39). -/
def State.streamFor (s : State) (h : BitVec 4) : Option Stream :=
  s.core.streams.toList.find? fun t => t.active && descRing t.desc == h

/-- RING.ADV.P (R163, R193). -/
def State.advanceProducer (s : State) (x : StrandId) (h : BitVec 4) (n : Nat) : Res :=
  s.withRing h fun r =>
    let idx := (List.range n).map fun i => (i, r.index r.ring.tail.toNat i)
    let st := s.streamFor h
    if !r.countOk n then .fail cRingProtocol (h.setWidth 64)
    else if (match st with | some t => descAdv t.desc | none => false) then .fail cRingProtocol (h.setWidth 64)
    else if idx.any fun p => (s.slotState r p.2).full then .fail cRingProtocol (h.setWidth 64)
    else if st.isSome && idx.any fun p => !(s.slotState r p.2).written then .wait (s.ringWait x h false)
    else if !s.advanceDone x h (s.ringScope r) then .wait (s.ringFound x)
    else
      let s' := idx.foldl (fun t p =>
        let o := t.slotState r p.2
        t.putSlot r p.2 ⟨true, r.parity r.ring.tail.toNat r.ring.pp p.1, false,
          if o.written then o.coord else (s.strand x).coord⟩) s
      .retire (s'.putRing r { r.ring.producedBy x with
        tail := BitVec.ofNat 8 (r.index r.ring.tail.toNat n), pp := r.parity r.ring.tail.toNat r.ring.pp n })

/-! ## Waits (major 0x06, SEL 5 and 6) -/

/-- RING.WAITF. -/
def execRingWaitf (h : BitVec 4) (n : BitVec 10) (s : State) : Host.Outcome State Fault Refusal :=
  .next (runItem s 2 allStrands false (s.cur != .K) true (s.waitFull s.cur h n.toNat))

/-- RING.WAITE. -/
def execRingWaite (h : BitVec 4) (n : BitVec 10) (s : State) : Host.Outcome State Fault Refusal :=
  .next (runItem s 2 allStrands false (s.cur != .K) true (s.waitEmpty s.cur h n.toNat))

/-- RING.WAITF, compact. -/
def execRingWaitfC (h : BitVec 4) (n : BitVec 6) (s : State) : Host.Outcome State Fault Refusal :=
  .next (runItem s 1 allStrands false (s.cur != .K) true (s.waitFull s.cur h n.toNat))

/-- RING.WAITE, compact. -/
def execRingWaiteC (h : BitVec 4) (n : BitVec 6) (s : State) : Host.Outcome State Fault Refusal :=
  .next (runItem s 1 allStrands false (s.cur != .K) true (s.waitEmpty s.cur h n.toNat))

/-! ## Advances (major 0x0C) -/

/-- RING.ADV.C. -/
def execRingAdvC (h : BitVec 4) (n : BitVec 10) (s : State) : Host.Outcome State Fault Refusal :=
  .next (runItem s 2 ringStrands false true true (s.advanceConsumer s.cur h n.toNat))

/-- RING.ADV.P. -/
def execRingAdvP (h : BitVec 4) (n : BitVec 10) (s : State) : Host.Outcome State Fault Refusal :=
  .next (runItem s 2 ringStrands false true true (s.advanceProducer s.cur h n.toNat))

/-- RING.ADV.C, compact. -/
def execRingAdvCC (h : BitVec 4) (n : BitVec 6) (s : State) : Host.Outcome State Fault Refusal :=
  .next (runItem s 1 ringStrands false true true (s.advanceConsumer s.cur h n.toNat))

/-- RING.ADV.P, compact. -/
def execRingAdvPC (h : BitVec 4) (n : BitVec 6) (s : State) : Host.Outcome State Fault Refusal :=
  .next (runItem s 1 ringStrands false true true (s.advanceProducer s.cur h n.toNat))

/-! ## Pushes and pops (R194) -/

/-- Writes bytes into the slot `o` past TAIL. -/
def State.push (s : State) (x : StrandId) (h : BitVec 4) (o byte : Nat) (bs : List (BitVec 8)) : Res :=
  s.withRing h fun r =>
    if r.slotSize < byte + bs.length then .fail cRingProtocol (h.setWidth 64)
    else
      let c := (s.strand x).coord
      s.slotAccess x r .write (r.index r.ring.tail.toNat o) byte bs.length <|
      match s.scratchStore x c (s.kept x c) r.pcore (r.slotAddr (r.index r.ring.tail.toNat o) byte) bs with
      | .done s => .retire (s.produces x r)
      | .full => .wait s

/-- Reads bytes of the full slot `o` past HEAD. -/
def State.pop (s : State) (x : StrandId) (h : BitVec 4) (o byte n : Nat) (k : List (BitVec 8) → State → Res) : Res :=
  s.withRing h fun r =>
    if r.slotSize < byte + n then .fail cRingProtocol (h.setWidth 64)
    else s.awaitSlots x r o 1 byte n fun s =>
      k (s.scratchRead r.pcore (r.slotOff (r.index r.ring.head.toNat o) + byte) n) s

/-- RING.PUSH of a register on A. -/
def execRingPushA (h : BitVec 4) (w : BitVec 10) (o : BitVec 2) (d : BitVec 6) (s : State) : Host.Outcome State Fault Refusal :=
  .next (runItem s 2 ringStrands false (s.cur == .A) true
    (s.push s.cur h o.toNat (8 * w.toNat) (toBytes 8 (s.reg s.cur d))))

/-- RING.POP into a register on A. -/
def execRingPopA (h : BitVec 4) (w : BitVec 10) (o : BitVec 2) (d : BitVec 6) (s : State) : Host.Outcome State Fault Refusal :=
  .next (runItem s 2 ringStrands false (s.cur == .A) true
    (s.pop s.cur h o.toNat (8 * w.toNat) 8 fun bs s => .retire (s.putReg s.cur d (ofBytes 64 bs))))

/-! ## RING.DEF (R191) -/

/-- The checks of a definition word, in order: the cause and its DETAIL, or the entry and HOME's physical core. A HOME that is another
slice of this core is REMAP (R403). DESIGN CHOICE: one that is not placed lies outside the package, code 2 (log 39). -/
def State.checkDef (s : State) (h : BitVec 4) (w : BitVec 64) : Except (BitVec 6 × BitVec 64) (Ring × Nat) :=
  let own := s.pk.pcore.toNat
  let bad (code : Nat) : Except (BitVec 6 × BitVec 64) (Ring × Nat) :=
    .error (cRingProtocol, h.setWidth 64 ||| BitVec.ofNat 64 (code * 16))
  let slot0 : BitVec 32 := w.setWidth 32
  let ns : BitVec 8 := w.extractLsb' 32 8
  let su : BitVec 6 := w.extractLsb' 40 6
  let self := slot0.getLsbD 30
  let l : BitVec 8 := if self then s.sys.lcore else slot0.extractLsb' 22 8
  let e := s.remapOf l.toNat
  let p := if self then own else e.pcore.toNat
  if w.extractLsb' 46 18 ≠ 0 ∨ slot0.getLsbD 31 ∨ ns = 0 ∨ slot0.extractLsb' 0 8 ≠ 0 then bad 1
  else if !self && !e.valid then bad 2
  else if !self && e.pcore == s.pk.pcore && l != s.sys.lcore then .error (cRemap, 0)
  else if s.scratchB p < scratchOff slot0 + (ns.toNat + 1) * (su.toNat + 1) * 256 then bad 2
  else if (s.streamFor h).isSome then bad 3
  else
    let remote := l != s.sys.lcore
    let there := kGet Ring.zero s.pk.rings (p * 16 + h.toNat)
    let r : Ring := { Ring.zero with
      base := slot0.setWidth 22, home := l, remote := remote, valid := true, ns := ns, su := su
      gen := if remote then there.gen else there.gen + 1 }
    if remote && !(there.valid && !there.remote && there.base == r.base && there.ns == ns && there.su == su) then bad 4
    else .ok (r, p)

/-- RING.DEF waits until H reaches its coordinate, checks the word and writes the entry; at HOME it clears the slot
states. -/
def execRingDef (h : BitVec 4) (a : BitVec 6) (s : State) : Host.Outcome State Fault Refusal :=
  let x := s.cur
  .next (runItem s 2 ringStrands false (x == .A) true
    (if s.core.qu.hk < (s.strand x).coord.key then .wait s
     else
       match s.checkDef h (s.reg x a) with
       | .error (c, d) => .fail c d
       | .ok (r, _) =>
         let own := s.pk.pcore.toNat
         let s := s.onPk fun k => { k with rings := kSet k.rings (own * 16 + h.toNat) r }
         .retire (if r.remote then s
           else s.onMu fun m => { m with scratch := cellClear m.scratch (scratchBase own + 0x3E0000 + h.toNat * 8192) 8192 })))

/-! ## Waits that last -/

/-- Whether a wait that began in a cycle, and has raised RING_STALL or not, has lasted LIMIT cycles (R165). -/
def State.stallDue (s : State) (since : Nat) (raised : Bool) : Bool :=
  !raised && s.sys.rstall != 0 && decide (since + s.sys.rstall.toNat ≤ s.sys.cycle.toNat)

/-- Whether the ring wait of a strand has lasted LIMIT cycles. -/
def State.strandStalls (s : State) (x : StrandId) : Bool :=
  match (s.strand x).wait with
  | some w => s.stallDue w.since w.raised
  | none => false

/-- The first running stream whose wait for an empty slot has lasted LIMIT cycles. -/
def State.streamStalls (s : State) : Option (BitVec 4) :=
  ((List.range 16).map (BitVec.ofNat 4)).find? fun q =>
    let t := at16 s.core.streams q
    t.state == .run && (match t.stall with | some (since, raised) => s.stallDue since raised | none => false)

/-- Whether RING_STALL is due for a strand: streams are A's. -/
def State.stalls (s : State) (x : StrandId) : Bool := s.strandStalls x || (x == .A && s.streamStalls.isSome)

/-- RING_STALL of a stream's wait for an empty slot. -/
def State.raiseStreamStall (s : State) (q : BitVec 4) : State :=
  let t := at16 s.core.streams q
  (s.onCore fun c => { c with streams := put16 c.streams q { t with stall := t.stall.map fun w => (w.1, true) } }).raiseAsync .A cRingStall
    ((descRing t.desc).setWidth 64) 0 1 (Coord.ofKey (t.keyAt t.head)) .nothing

/-- RING_STALL: a ring wait of a strand, or of a stream of A, has lasted LIMIT cycles; it is raised once and the wait goes on (R165). -/
def execRingStall (x : StrandId) (s : State) : Host.Outcome State Fault Refusal :=
  let t := s.strand x
  .next (
    match t.wait, s.strandStalls x with
    | some w, true =>
      (s.onStrand x fun t => { t with wait := some { w with raised := true } }).raiseAsync x cRingStall
        (w.handle.setWidth 64 ||| flagBit 64 w.full 8) 0 0 t.coord .nothing
    | _, _ =>
      match if x = .A then s.streamStalls else none with
      | some q => s.raiseStreamStall q
      | none => s)

end Sys2Proof.Machine
end

