-- ==== Sys2Proof/Machine/Streams.lean ====
section
/-!
DEFINITION. Streams and the tag table: descriptors, majors 0x0B and 0x0D, and the filling of slots (R158 to R161, R163,
R166, R184 to R188, R195, R196).
-/
namespace Sys2Proof.Machine

/-! ## Descriptors (R158, R159) -/

def descBase (d : BitVec 512) : Nat := (d.extractLsb' 0 56).toNat
def descSpace (d : BitVec 512) : Bool := d.getLsbD 56
def descLat (d : BitVec 512) : Nat := (d.extractLsb' 61 3).toNat
def descStride (d : BitVec 512) (i : Nat) : Int := (d.extractLsb' (64 + 48 * i) 32).toInt
/-- Count of dimension `i`. -/
def descCount (d : BitVec 512) (i : Nat) : Nat := (d.extractLsb' (64 + 48 * i + 32) 16).toNat + 1
def descSbase (d : BitVec 512) : Nat := (d.extractLsb' 352 56).toNat
def descSsp (d : BitVec 512) : Bool := d.getLsbD 408
def descSstr (d : BitVec 512) : Int := (d.extractLsb' 410 24).toInt
def descCmap (d : BitVec 512) (i : Nat) : Nat := (d.extractLsb' (434 + 3 * i) 3).toNat
def descKdim (d : BitVec 512) : Nat := (d.extractLsb' 456 3).toNat
def descSph (d : BitVec 512) : Nat := (d.extractLsb' 460 16).toNat

/-- The dimensions of a walk. -/
def dims : List Nat := List.range 6

/-- Bytes of a unit (R158). -/
def unitBytes (fmt : Nat) : Nat :=
  match fmtOf fmt with
  | some f => max 1 (f.width / 8)
  | none => 1

/-- Units of dimensions below `i`. -/
def unitsBelow (d : BitVec 512) (i : Nat) : Nat := (List.range i).foldl (fun p k => p * descCount d k) 1

/-- Units of the walk. -/
def unitCount (d : BitVec 512) : Nat := unitsBelow d 6

/-- Index of unit `u` in dimension `i`, dimension 0 varying fastest. -/
def unitIdx (d : BitVec 512) (u i : Nat) : Nat := u / unitsBelow d i % descCount d i

/-- Where a walk's addresses start: the whole base, or the offset alone in scratchpad (R159). -/
def spaceStart (scratch : Bool) (base : Nat) : Int := if scratch then (base % 2 ^ 22 : Nat) else (base : Int)

/-- Address or offset of unit `u`. -/
def unitAt (d : BitVec 512) (u : Nat) : Int :=
  dims.foldl (fun a i => a + descStride d i * unitIdx d u i) (spaceStart (descSpace d) (descBase d))

/-- The address as a program sees it: in scratchpad the bits above the offset are the base's (R159). -/
def withSpace (scratch : Bool) (base : Nat) (a : Int) : BitVec 64 :=
  if scratch then BitVec.ofNat 64 (base / 2 ^ 22 * 2 ^ 22 + a.toNat) else BitVec.ofInt 64 a

/-- Address of unit `u`. -/
def unitAddr (d : BitVec 512) (u : Nat) : BitVec 64 := withSpace (descSpace d) (descBase d) (unitAt d u)

/-- Row number of unit `u`: its linear index over dimensions 1 to 5. -/
def unitRow (d : BitVec 512) (u : Nat) : Nat := u / descCount d 0

/-- Address or offset of the scale of the group that unit `u` stands in (R159). -/
def scaleAt (d : BitVec 512) (u : Nat) : Int :=
  spaceStart (descSsp d) (descSbase d) + descSstr d * unitRow d u + 2 * (unitIdx d u 0 * unitElems (descFmt d) / 64 : Nat)

/-- Least and greatest of an affine form over the walk. -/
def walkRange (d : BitVec 512) : Int × Int :=
  let term (i : Nat) : Int := descStride d i * ((descCount d i : Int) - 1)
  let a := spaceStart (descSpace d) (descBase d)
  (dims.foldl (fun m i => m + min 0 (term i)) a, dims.foldl (fun m i => m + max 0 (term i)) a)

/-- Least and greatest of the scale addresses. -/
def scaleRange (d : BitVec 512) : Int × Int :=
  let rows : Int := ((unitCount d / descCount d 0 : Nat) : Int) - 1
  let a := spaceStart (descSsp d) (descSbase d)
  let last : Int := (2 * ((descCount d 0 - 1) * unitElems (descFmt d) / 64) : Nat)
  (a + min 0 (descSstr d * rows), a + max 0 (descSstr d * rows) + last)

/-- Whether a range of addresses of `n` bytes leaves its space (R160 check 0x03). -/
def leavesSpace (scratch : Bool) (r : Int × Int) (n : Nat) : Bool :=
  decide (r.1 < 0 ∨ (if scratch then (2 ^ 22 : Int) else 2 ^ 56) < r.2 + n)

/-- Reserved values of a descriptor (R160 check 0x01). DESIGN CHOICE: what R158 says of BASE in scratchpad, that the bits above the address
are zero, holds of SBASE too, with SCV = 0 as well (log 39). -/
def descReserved (d : BitVec 512) : Bool :=
  (fmtOf (descFmt d)).isNone || (descKdim d != 0 && descKdim d != 7) || (dims.any fun i => descCmap d i == 7) ||
    d.extractLsb' 485 27 != 0 || (descSpace d && decide (2 ^ 32 ≤ descBase d)) || (descSsp d && decide (2 ^ 32 ≤ descSbase d))

/-- Misaligned addresses or strides (R160 check 0x02). -/
def descMisaligned (d : BitVec 512) : Bool :=
  let n := unitBytes (descFmt d)
  decide (descBase d % n ≠ 0) || (dims.any fun i => descStride d i % n != 0) || decide (descSbase d % 2 ≠ 0) || descSstr d % 2 != 0

/-- Addresses out of range (R160 check 0x03). -/
def descOutside (d : BitVec 512) : Bool :=
  leavesSpace (descSpace d) (walkRange d) (unitBytes (descFmt d)) || (descScv d && leavesSpace (descSsp d) (scaleRange d) 2)

/-- A coordinate map that R19 refuses, in a nest of depth `depth` from a base coordinate. -/
def badMap (d : BitVec 512) (depth : Nat) (base : Coord) : Bool :=
  let mapped := dims.filter fun i => descCmap d i != 0
  mapped.any fun i =>
    let j := descCmap d i - 1
    decide (depth ≤ j) || decide (2 ^ 32 ≤ (base.get j).toNat + (descCount d i - 1)) ||
      mapped.any fun o => decide (i < o) && decide (j ≤ descCmap d o - 1)

/-- The elements of the walk and of a slot (R159). -/
def elemCount (d : BitVec 512) : Nat := unitCount d * unitElems (descFmt d)
/-- Bytes of a slot that a stream writes: elements and scales. -/
def slotBytes (d : BitVec 512) : Nat := dataBytes d + if descScv d then 2 * (descEps d + 1) else 0

/-! ## SGO (R160, R186) -/

/-- The first check of R160 that fails. DESIGN CHOICE: "running" of code 0x09 takes in streams in FAULT and CUT, which still target their
ring (log 39). -/
def State.streamFault (s : State) (q : BitVec 4) : Option Nat :=
  let t := at16 s.core.streams q
  let d := t.desc
  let entry := kGet Ring.zero s.pk.rings (s.pk.pcore.toNat * 16 + (descRing d).toNat)
  let others := (List.range 16).any fun n =>
    let o := at16 s.core.streams (BitVec.ofNat 4 n)
    n != q.toNat && o.active && descRing o.desc == descRing d
  if descReserved d then some 0x01
  else if descMisaligned d then some 0x02
  else if descOutside d then some 0x03
  else if elemCount d % descE d ≠ 0 then some 0x04
  else if entry.valid && decide ((entry.su.toNat + 1) * 256 < slotBytes d) then some 0x05
  else if (descKdim d = 0 ∧ descCount d 0 * unitElems (descFmt d) % 64 ≠ 0) ∨ (descScv d ∧ descKdim d = 7) then some 0x06
  else if badMap d s.sys.nest.toNat (s.strand .A).coord then some 0x07
  else if dims.any fun j => descCmap d j != 0 && unitsBelow d j * unitElems (descFmt d) % descE d != 0 then some 0x08
  else if !entry.valid || others then some 0x09
  else if descSpv d && decide (s.ownB < descSph d * 64 + 64) then some 0x0A
  else none

/-- Offset of the first unit, in visit order, that reaches a limit, where one does: dimension by dimension, outermost first, the least
index from which the inner dimensions can still reach it. -/
def firstOver (d : BitVec 512) (limit : Int) : Int :=
  let n : Int := unitBytes (descFmt d)
  dims.reverse.foldl (fun a i =>
    let inner := (List.range i).foldl (fun m k => m + max 0 (descStride d k * ((descCount d k : Int) - 1))) 0
    let j := ((List.range (descCount d i)).find? fun (j : Nat) => decide (limit < a + descStride d i * (j : Int) + inner + n)).getD 0
    a + descStride d i * (j : Int)) (spaceStart (descSpace d) (descBase d))

/-- Offset of the first scale that reaches a limit, where one does. -/
def firstScaleOver (d : BitVec 512) (limit : Int) : Int :=
  let a := spaceStart (descSsp d) (descSbase d)
  let last : Int := (2 * ((descCount d 0 - 1) * unitElems (descFmt d) / 64) : Nat)
  let row := if limit < a + last + 2 then 0 else (limit - 2 - last - a) / descSstr d + 1
  let r := a + descSstr d * row
  r + 2 * max 0 ((limit - 2 - r) / 2 + 1)

/-- Whether a scratchpad walk from a base reaches a refused place: the cause, and the address of the faulting byte (R155, R156, R160,
R172); `first` is the offset of its first access that reaches a limit. DESIGN CHOICE: ADDR is the address of R156, bit 63 clear, as the
descriptor holds it (log 39). -/
def State.scratchWalk (s : State) (base : Nat) (top : Int) (first : Int → Int) : Option (BitVec 6 × BitVec 64) :=
  match s.scratchCore (BitVec.ofNat 32 base) with
  | .error c => some (c, BitVec.ofNat 64 base)
  | .ok p =>
    let b : Int := s.scratchB p
    if b < top then some (cScratchBounds, withSpace true base (max b (first b))) else none

/-- The scratchpad causes of a descriptor. -/
def State.scratchFault (s : State) (d : BitVec 512) : Option (BitVec 6 × BitVec 64) :=
  let data := if descSpace d then s.scratchWalk (descBase d) ((walkRange d).2 + unitBytes (descFmt d)) (firstOver d) else none
  let scales := if descScv d && descSsp d then s.scratchWalk (descSbase d) ((scaleRange d).2 + 2) (firstScaleOver d) else none
  data <|> scales

/-- The first page of a timed walk that does not keep its class; the pages translated so far are cached. -/
def State.timedFault (s : State) (d : BitVec 512) : State × Option (BitVec 64) :=
  let addrs := ((List.range (unitCount d)).filterMap fun u => if descSpace d then none else some (unitAddr d u)) ++
    (if descScv d && !descSsp d then (List.range (unitCount d)).map fun u => withSpace false (descSbase d) (scaleAt d u) else [])
  addrs.foldl (fun r a =>
    match r with
    | (s, some b) => (s, some b)
    | (s, none) =>
      match s.translate pathCore a.toNat false .read with
      | .ok e s => (s, if keepsClass e.leaf.word (descLat d) then none else some a)
      | .wait s => (s, some a)
      | .fail _ s => (s, some a)) (s, none)

/-- Starts a stream whose checks have passed (R186). -/
def State.startStream (s : State) (q : BitVec 4) : State :=
  let t := at16 s.core.streams q
  let d := t.desc
  let sparse := if descSpv d then ofBytes 512 (s.scratchRead s.pk.pcore.toNat (descSph d * 64) 64) else 0
  let stepped := s.stepping .A
  let s := match s.ringOf (descRing d) with
    | .ok r => s.putRing r { r.ring with wtail := r.ring.tail }
    | .error _ => s
  s.onCore fun c => { c with
    streams := put16 c.streams q { t with
      state := .run, base := c.a.coord, head := 0, filled := 0, sparse := sparse, gen := t.gen + 1, stepped := stepped, stall := none
      got := [] } }

/-- SGO. -/
def execSgo (n : BitVec 4) (s : State) : Host.Outcome State Fault Refusal :=
  let t := at16 s.core.streams n
  let d := t.desc
  .next (runItem s 2 [.A] false true true
    (if t.active then .fail cStreamDesc 0x0B
     else
       match s.streamFault n with
       | some c => .fail cStreamDesc (BitVec.ofNat 64 c)
       | none =>
         match s.scratchFault d with
         | some (c, a) => .trap c (if c = cRemap then 0 else accessBits .read (unitBytes (descFmt d)) true) a
         | none =>
           match s.ringOf (descRing d) with
           | .error (c, e) => .fail c e
           | .ok _ =>
           if descLat d = 0 then .retire (s.startStream n)
           else
             match s.timedFault d with
             | (_, some a) => .trap cLatencyClass (accessBits .read (unitBytes (descFmt d)) false) a
             | (s, none) => .retire (s.startStream n)))

/-! ## Moving descriptors (R185) -/

/-- Room for a pre-image that a write of strand A needs now. -/
def State.preRoom (s : State) : Bool := !s.kept .A (s.strand .A).coord || s.slagRoom 1

/-- Logs a pre-image of kind 2 or 3 when it is kept (R166, R185), and what else a cut restores. -/
def State.logPre (s : State) (kind : SlagKind) (number : Nat) (mask : BitVec 64) (old : BitVec 512) (undo : ParcelUndo) : State :=
  let c := (s.strand .A).coord
  if s.kept .A c then
    s.slagAdd { kind := kind, strand := .A, loc := BitVec.ofNat 32 number, cell := number, mask := mask, coord := c
                data := old, undo := undo, slot := 0 }
  else s

/-- Writes a descriptor: refused while the stream is not finished; its previous one goes to the slag log, with the stream's state, so
that a cut gives it back a finished stream as it stood (R164 item 4, R188). -/
def State.setDesc (s : State) (q : BitVec 4) (v : BitVec 512) : Res :=
  let t := at16 s.core.streams q
  if t.active then .fail cStreamDesc 0x0B
  else if !s.preRoom then .wait s
  else .retire ((s.logPre .stream q.toNat (BitVec.allOnes 64) t.desc (.stream t)).onCore fun c =>
    { c with streams := put16 c.streams q { t with desc := v, state := .idle } })

/-- The eight registers from `f` on, first lowest. -/
def State.octet (s : State) (f : BitVec 6) : BitVec 512 :=
  (List.range 8).foldl (fun v i => v ||| place 512 (s.reg .A (f + BitVec.ofNat 6 i)) (64 * i)) 0

/-- Writes eight registers. -/
def State.putOctet (s : State) (f : BitVec 6) (v : BitVec 512) : State :=
  (List.range 8).foldl (fun s i => s.putReg .A (f + BitVec.ofNat 6 i) (v.extractLsb' (64 * i) 64)) s

/-- Whether a register field names the first of an octet (R184). -/
def octetOk (f : BitVec 6) : Bool := f.setWidth 3 == (0 : BitVec 3)

/-- SDEF. -/
def execSdef (a : BitVec 6) (n : BitVec 4) (s : State) : Host.Outcome State Fault Refusal :=
  .next (runItem s 2 [.A] false true (octetOk a) (s.setDesc n (s.octet a)))

/-- The scratchpad address of SCRLD and SCRST: a global one is refused (R185). -/
def State.scratchAddr (s : State) (ea : BitVec 64) (need : Need) (k : Nat → BitVec 32 → Res) : Res :=
  if !ea.getLsbD 63 ∧ ea.extractLsb' 56 7 = 0 then .trap cOperandRange 0x11 ea
  else
    match s.checkAddr .A ea need 64 64 with
    | .error b => .trap b.cause b.detail b.addr
    | .ok (.scratch p a) => k p a
    | .ok (.global _) => .trap cOperandRange 0x11 ea

/-- SCRLD of a stream register. DESIGN CHOICE: its address is checked before the stream is found unfinished (log 39). -/
def execScrldStream (a : BitVec 6) (e : BitVec 10) (n : BitVec 4) (s : State) : Host.Outcome State Fault Refusal :=
  .next (runItem s 2 [.A] false true true
    (s.scratchAddr (s.ea .A a e 64) .read fun p o => s.setDesc n (ofBytes 512 (s.scratchRead p (scratchOff o) 64))))

/-- SCRLD of eight registers. -/
def execScrldOctet (a : BitVec 6) (e : BitVec 10) (d : BitVec 6) (s : State) : Host.Outcome State Fault Refusal :=
  .next (runItem s 2 [.A] false true (octetOk d)
    (s.scratchAddr (s.ea .A a e 64) .read fun p o => .retire (s.putOctet d (ofBytes 512 (s.scratchRead p (scratchOff o) 64)))))

/-- Stores 64 bytes to scratchpad. -/
def State.scratchBlock (s : State) (ea : BitVec 64) (v : BitVec 512) : Res :=
  s.scratchAddr ea .write fun p o =>
    let c := (s.strand .A).coord
    match s.scratchStore .A c (s.kept .A c) p o (toBytes 64 v) with
    | .done s => .retire s
    | .full => .wait s

/-- SCRST of a stream register. -/
def execScrstStream (a : BitVec 6) (e : BitVec 10) (n : BitVec 4) (s : State) : Host.Outcome State Fault Refusal :=
  .next (runItem s 2 [.A] false true true (s.scratchBlock (s.ea .A a e 64) (at16 s.core.streams n).desc))

/-- SCRST of eight registers. -/
def execScrstOctet (a : BitVec 6) (e : BitVec 10) (d : BitVec 6) (s : State) : Host.Outcome State Fault Refusal :=
  .next (runItem s 2 [.A] false true (octetOk d) (s.scratchBlock (s.ea .A a e 64) (s.octet d)))

/-! ## SSTOP and SSTAT (R186, R187) -/

/-- SSTOP waits until the horizon reaches its coordinate, and puts the stream to IDLE. -/
def execSstop (n : BitVec 4) (s : State) : Host.Outcome State Fault Refusal :=
  .next (runItem s 2 [.A] false true true
    (if s.core.qu.hk < (s.strand .A).coord.key then .wait s
     else .retire (s.onCore fun c => { c with streams := put16 c.streams n { (at16 c.streams n) with state := .idle } })))

/-- The number of a stream state (R187). -/
def streamNum : StreamState → Nat
  | .idle => 0 | .run => 1 | .fault => 2 | .cut => 3 | .done => 4

/-- What SSTAT reads. DESIGN CHOICE: idx reads 0 in IDLE and DONE, as addr does (log 39). -/
def Stream.stat (t : Stream) (w : BitVec 2) : BitVec 64 :=
  match w.toNat with
  | 0 => BitVec.ofNat 64 (streamNum t.state + 256 * min t.filled 0xFFFFFF)
  | 1 => if t.active then unitAddr t.desc t.head else 0
  | _ => if t.active then BitVec.ofNat 64 (t.head * unitElems (descFmt t.desc)) else 0

/-- SSTAT. -/
def execSstat (d : BitVec 6) (w : BitVec 2) (n : BitVec 4) (s : State) : Host.Outcome State Fault Refusal :=
  .next (runItem s 2 [.A] false true (w != 3) (.retire (s.putReg .A d ((at16 s.core.streams n).stat w))))

/-! ## Filling slots (R161, R163) -/

/-- Bytes that an engine of a strand reads: from a scratchpad, or from virtual memory. -/
def State.engineRead (s : State) (x : StrandId) (sup : Bool) (cls : Nat) (scratch : Bool) (a : BitVec 64) (n : Nat) : Got :=
  if scratch then
    let a : BitVec 32 := a.setWidth 32
    match s.scratchPlace sup a n with
    | .error c => .fail c 0 a.toNat s
    | .ok p => .ok (s.scratchRead p (scratchOff a) n) s
  else s.readVirtual ⟨x, pathCore, cls, some s.die, sup, true⟩ a.toNat n

/-- A read that a slot takes: the unit at the head when it faults, its space, address and size, and whether it reads a scale. -/
structure Part where
  unit : Nat
  scratch : Bool
  addr : BitVec 64
  size : Nat
  scale : Bool

/-- What reading the parts of a slot gives: each part's bytes, or those before the failing part, and that part. -/
inductive Parts where
  | ok (got : List (List (BitVec 8))) (s : State)
  | wait (s : State)
  | fail (part : Part) (got : List (List (BitVec 8))) (cause : BitVec 6) (bits : BitVec 64) (s : State)

/-- Reads parts in order; what has been read before them is at hand, the last first. -/
def State.readParts (s : State) : List Part → List (List (BitVec 8)) → Parts
  | [], acc => .ok acc.reverse s
  | p :: rest, acc =>
    match s.engineRead .A false clsLS p.scratch p.addr p.size with
    | .ok bs s => State.readParts s rest (bs :: acc)
    | .wait s => .wait s
    | .fail c bits _ s => .fail p acc.reverse c bits s

/-- The parts of the slot that starts at unit `u`, in the order of their reads: of each group its scale, then its units. DESIGN CHOICE: where
the read of a scale faults, the head is the first unit of its group and ADDR the scale's address (R161 speaks of units alone, log 39). -/
def slotParts (d : BitVec 512) (u : Nat) : List Part :=
  let per := 64 / unitElems (descFmt d)
  (List.range (descEps d + 1)).flatMap fun g =>
    let v := u + g * per
    (if descScv d then [⟨v, descSsp d, withSpace (descSsp d) (descSbase d) (scaleAt d v), 2, true⟩] else []) ++
      (List.range per).map fun i => ⟨v + i, descSpace d, unitAddr d (v + i), unitBytes (descFmt d), false⟩

/-- The bytes of a slot from those of its parts: the data, then the scales (R159). -/
def slotFrom (ps : List Part) (got : List (List (BitVec 8))) : List (BitVec 8) :=
  let pick (scale : Bool) : List (BitVec 8) := ((ps.zip got).filter fun p => p.1.scale == scale).flatMap (·.2)
  pick false ++ pick true

/-- A slot that has been read is written, with the sparse header of its walk, and the ring's producer side moves (R163, R159). -/
def State.placeSlot (s : State) (q : BitVec 4) (t : Stream) (r : RingAt) (i : Nat) (bs : List (BitVec 8)) : State :=
  let d := t.desc
  let units := slotUnits d
  let coord := Coord.ofKey (t.keyAt (t.filled * units))
  let s := s.scratchPut r.pcore (r.slotOff i) bs
  let s := if descSpv d then s.onPk fun k => { k with headers := kSet k.headers (r.key * 256 + i) t.sparse } else s
  let s :=
    if descAdv d then
      (s.putSlot r i ⟨true, r.ring.pp, false, coord⟩).putRing r { r.ring.producedBy .A with
        tail := BitVec.ofNat 8 (r.index i 1), pp := r.parity i r.ring.pp 1 }
    else
      (s.putSlot r i { s.slotState r i with written := true, coord := coord }).putRing r { r.ring.producedBy .A with
        wtail := BitVec.ofNat 8 (r.index i 1) }
  let n := t.filled + 1
  s.onCore fun c => { c with streams := put16 c.streams q { (at16 c.streams q) with
    filled := n, head := n * units, stall := none, got := [], state := if unitCount d ≤ n * units then .done else .run } }

/-- A stream stops at a faulting unit, with a record (R161); what it has read before that unit is kept, and it waits for no slot any more.
A ring's or a parcel's cause keeps its own DETAIL (R191, R332). DESIGN CHOICE: RING_PROTOCOL and SCRATCH_BOUNDS that a running stream meets
stop it so, too, with a record of class E: R170 and R104 have these causes at an item alone (log 39). -/
def State.streamFails (s : State) (q : BitVec 4) (t : Stream) (u : Nat) (got : List (List (BitVec 8))) (a : BitVec 64) (c : BitVec 6)
    (bits : BitVec 64) : State :=
  let s := s.onCore fun k => { k with
    streams := put16 k.streams q { (at16 k.streams q) with state := .fault, head := u, got := got, stall := none } }
  let own := c == cRingProtocol || c == cParcelTransit || c == cParcelState
  s.raiseEngine .A t.stepped c (if own then bits else bits ||| q.setWidth 64) a 1 (Coord.ofKey (t.keyAt u)) (.stream q t.gen)

/-- A stream waits for an empty slot; the wait began when it was first found (R165). -/
def State.streamWaits (s : State) (q : BitVec 4) (t : Stream) : State :=
  if t.stall.isSome then s
  else s.onCore fun c => { c with streams := put16 c.streams q { t with stall := some (s.sys.cycle.toNat, false) } }

/-- STREAM_SLOT_FILL: a running stream fills its next free slot; after a RESUME it reads on at its head (R161). -/
def execStreamSlotFill (q : BitVec 4) (s : State) : Host.Outcome State Fault Refusal :=
  let t := at16 s.core.streams q
  let d := t.desc
  let u := t.filled * slotUnits d
  .next (
    if t.state ≠ .run ∨ s.streamHeld (t.keyAt u) then s
    else
      match s.ringOf (descRing d) with
      | .error (c, e) => s.streamFails q t t.head t.got 0 c e
      | .ok r =>
        match s.freeSlotFor r d with
        | none => s.streamWaits q t
        | some i =>
          if !s.scratchOk false r.pcore (r.slotOff i) (slotBytes d) then
            s.streamFails q t t.head t.got (flagBit 64 true 63 ||| (r.slotAddr i (s.pastBound false r.pcore (r.slotOff i))).setWidth 64) cScratchBounds 0
          else
          let ps := slotParts d u
          match s.readParts (ps.drop t.got.length) t.got.reverse with
          | .ok got s => s.placeSlot q t r i (slotFrom ps got)
          | .wait s => s
          | .fail p got c bits s => s.streamFails q t p.unit got p.addr c bits)

/-! ## The tag table: major 0x0D (R166, R195, R196) -/

def tagKey (e : BitVec 128) : BitVec 64 := e.extractLsb' 0 64
def tagSlot (e : BitVec 128) : BitVec 14 := e.extractLsb' 64 14
def tagV (e : BitVec 128) : Bool := e.getLsbD 78
def tagRdy (e : BitVec 128) : Bool := e.getLsbD 79
def tagLen (e : BitVec 128) : BitVec 16 := e.extractLsb' 80 16

/-- The valid entry that holds a key. -/
def tagFind (t : Cells 128) (key : BitVec 64) : Option (Nat × BitVec 128) := t.find? fun kv => tagV kv.2 && tagKey kv.2 == key

/-- TLOOK: a hit that is ready is an acquire at core scope. -/
def execTlook (d a : BitVec 6) (s : State) : Host.Outcome State Fault Refusal :=
  .next (runItem s 2 [.A] false true true
    (match tagFind s.core.tags (s.reg .A a) with
     | some (n, e) =>
       let v := BitVec.ofNat 64 n ||| place 64 (tagSlot e) 12 ||| flagBit 64 (tagRdy e) 26 ||| place 64 (tagLen e) 28
       .retire ((if tagRdy e then s.acquire .A 1 else s).putReg .A d v)
     | none => .retire (s.putReg .A d 0x8000000000000000)))

/-- Writes an entry; its pre-image is logged. -/
def State.setTag (s : State) (n : Nat) (v : BitVec 128) : Res :=
  if !s.preRoom then .wait s
  else .retire ((s.logPre .tag n 0xFFFF ((cellGet s.core.tags n).setWidth 512) .none).onCore fun c =>
    { c with tags := cellSet c.tags n v })

/-- An entry of the tag table (R195). -/
def tagEntry (key : BitVec 64) (slot : BitVec 14) (len : BitVec 16) : BitVec 128 :=
  place 128 key 0 ||| place 128 slot 64 ||| flagBit 128 true 78 ||| place 128 len 80

/-- Runs a tag-table item on the entry that a register names. -/
def tagItem (s : State) (a : BitVec 6) (k : Nat → Res) : State :=
  let e := s.reg .A a
  runItem s 2 [.A] false true true (if 4095 < e.toNat then .fail cOperandRange 0x12 else k e.toNat)

/-- TSET. -/
def execTset (d a b : BitVec 6) (s : State) : Host.Outcome State Fault Refusal :=
  let p := s.reg .A d
  let key := s.reg .A b
  let slot : BitVec 14 := p.extractLsb' 0 14
  let len : BitVec 16 := p.extractLsb' 16 16
  .next (tagItem s a fun n =>
    if p.extractLsb' 14 2 ≠ 0 ∨ p.extractLsb' 32 32 ≠ 0 then .fail cOperandRange 0x13
    else if (s.core.tags.any fun kv => kv.1 != n && tagV kv.2 && tagKey kv.2 == key) || len == 0 ||
        decide (s.ownB < (slot.toNat + len.toNat) * 256) then .fail cTagTable 0
    else s.setTag n (tagEntry key slot len))

/-- TREADY: sets RDY as a release at core scope (R196). -/
def execTready (a : BitVec 6) (s : State) : Host.Outcome State Fault Refusal :=
  .next (tagItem s a fun n =>
    let e := cellGet s.core.tags n
    if !tagV e then .fail cTagTable 0
    else if !s.releaseDone .A 1 then .wait s
    else s.setTag n (e ||| flagBit 128 true 79))

/-- TREADY.clr. -/
def execTreadyClr (a : BitVec 6) (s : State) : Host.Outcome State Fault Refusal :=
  .next (tagItem s a fun n =>
    let e := cellGet s.core.tags n
    if !tagV e then .fail cTagTable 0 else s.setTag n (e &&& ~~~(flagBit 128 true 79)))

/-- TDROP: no effect on an invalid entry. -/
def execTdrop (a : BitVec 6) (s : State) : Host.Outcome State Fault Refusal :=
  .next (tagItem s a fun n =>
    let e := cellGet s.core.tags n
    if !tagV e then .retire s else s.setTag n (e &&& ~~~(flagBit 128 true 78 ||| flagBit 128 true 79)))

end Sys2Proof.Machine
end

