-- ==== Sys2Proof/Machine/Passes.lean ====
section
/-!
DEFINITION. The chain engine and the row engine: major 0x14, and the passes and rows they perform (R130, R209 to R211, R234
to R239).
-/
namespace Sys2Proof.Machine

/-- Whether a pending cut holds an engine operation back (R346 phase 2). -/
def State.cutHolds (s : State) (c : Coord) : Bool := s.core.qu.st == .pending && decide (s.core.qu.cut.key ≤ c.key)

/-! ## Chain descriptors (R235) -/

/-- A stream descriptor of a chain: inputs 0 to 2, output 3. -/
def chainStream (d : BitVec 2560) (i : Nat) : BitVec 512 := d.extractLsb' (512 * i) 512
def chainControl (d : BitVec 2560) : BitVec 64 := d.extractLsb' 0x800 64
def chainNin (d : BitVec 2560) : Nat := (d.extractLsb' 0x800 2).toNat
/-- Op words used. -/
def chainOps (d : BitVec 2560) : Nat := (d.extractLsb' 0x802 3).toNat + 1
def chainConst (d : BitVec 2560) (i : Nat) : BitVec 32 := d.extractLsb' (0x880 + 32 * i) 32
def chainOp (d : BitVec 2560) (i : Nat) : BitVec 32 := d.extractLsb' (0x900 + 32 * i) 32

def opCode (w : BitVec 32) : Nat := (w.extractLsb' 0 4).toNat
def opDest (w : BitVec 32) : Nat := (w.extractLsb' 4 2).toNat
/-- Source fields X, Y and Z. -/
def opSource (w : BitVec 32) (i : Nat) : Nat := (w.extractLsb' (6 + 4 * i) 4).toNat
/-- Sources that an operation reads. -/
def opArity (c : Nat) : Nat := if c = 3 then 3 else if c ≤ 2 ∨ c = 4 ∨ c = 5 then 2 else 1

/-- Whether an op word has a reserved part, or names an input that is not used (R237 code 0x02). -/
def badOp (nin : Nat) (w : BitVec 32) : Bool :=
  decide (9 < opCode w) || w.extractLsb' 18 14 != 0 ||
    (List.range 3).any fun i =>
      let v := opSource w i
      if i < opArity (opCode w) then v == 3 || decide (11 < v) || decide (v < 3 ∧ nin ≤ v) else v != 0

/-- The streams of a descriptor that are used: the inputs and the output. -/
def usedStreams (d : BitVec 2560) : List (BitVec 512) := ((List.range (chainNin d)).map (chainStream d)) ++ [chainStream d 3]

/-- Fields that must be zero in a stream of a chain (R237 code 0x03). -/
def notPlain (t : BitVec 512) : Bool :=
  descLat t != 0 || descScv t || (dims.any fun i => descCmap t i != 0) || descRing t != 0 || descKdim t != 0 || descSpv t ||
    descAdv t || descEps t != 0

/-- Whether an address names a chain descriptor in the task region of the issuing core (R237 code 0x01). -/
def State.chainPlace (s : State) (a : BitVec 64) : Bool :=
  let w : BitVec 32 := a.setWidth 32
  a.getLsbD 63 && a.extractLsb' 32 31 == 0 && !w.getLsbD 31 && decide (a.toNat % 64 = 0) &&
    (w.getLsbD 30 || w.extractLsb' 22 8 == s.sys.lcore) && decide (scratchOff w + 320 ≤ s.ownB)

/-- The first check of R237 that fails. DESIGN CHOICE: code 0x02 looks at the NOPS + 1 op words that the pass uses, not at those beyond them
(log 39). -/
def State.chainFault (s : State) (p : ChainPass) : Option Nat :=
  let d := p.desc
  let used := usedStreams d
  let first := elemCount (chainStream d 3)
  if !s.chainPlace p.addr then some 0x01
  else if (chainControl d).extractLsb' 5 59 ≠ 0 ∨ d.extractLsb' 0x840 64 ≠ 0 ∨ chainNin d = 0 ∨
      ((List.range (chainOps d)).any fun i => badOp (chainNin d) (chainOp d i)) then some 0x02
  else if used.any notPlain then some 0x03
  else if used.any fun t => descReserved t || descMisaligned t || descOutside t then some 0x04
  else if used.any fun t => elemCount t != first then some 0x05
  else if used.any fun t => descFmt t == 8 || descFmt t == 12 then some 0x06
  else none

/-- CHAIN reads its descriptor and queues the pass; it stalls while four are queued (R209, R235). -/
def execChain (a : BitVec 6) (s : State) : Host.Outcome State Fault Refusal :=
  let x := s.cur
  let addr := s.reg x a
  let off := scratchOff (addr.setWidth 32)
  .next (runItem s 2 [.K, .A, .V, .M] false (x == .V && regOk x a) true
    (if 4 ≤ s.core.chainq.length then .wait s
     else
       let d : BitVec 2560 := if s.chainPlace addr then ofBytes 2560 (s.scratchRead s.pk.pcore.toNat off 320) else 0
       .retire (s.onCore fun c => { c with chainq := c.chainq ++ [⟨d, addr, c.v.coord, false, false, 0, false, s.stepping .V⟩] })))

/-- CHAIN_PASS_START: the pass at the head of the queue is checked; one that fails is dropped with a record. -/
def execChainPassStart (s : State) : Host.Outcome State Fault Refusal :=
  .next (
    match s.core.chainq with
    | [] => s
    | p :: rest =>
      if p.started || (!p.atS && s.cutHolds p.coord) then s
      else
        match s.chainFault p with
        | some c => (s.onCore fun k => { k with chainq := rest }).raiseEngine .V p.stepped cChainDesc (BitVec.ofNat 64 c) 0 5 p.coord .nothing
        | none => s.onCore fun k => { k with chainq := { p with started := true } :: rest })

/-! ## Elements of a pass (R236) -/

/-- The bits of element `e` of a stream, from the bytes of its unit. -/
def elemBits (t : BitVec 512) (e : Nat) (bs : List (BitVec 8)) : Nat :=
  if descFmt t = 4 then leNat bs / 16 ^ (e % 2) % 16 else leNat bs

/-- An input element as FP32, and the flags of its conversion (R80, R81, R89, R236). DESIGN CHOICE: every input of the element is
converted, so that a signalling NaN sets NV whether an op computes with it or not (log 39). -/
def inputF32 (t : BitVec 512) (bits : Nat) : Flagged :=
  match fmtOf (descFmt t) with
  | some f => let (v, fl) := convertElem f .f32 bits; (BitVec.ofNat 32 v, fl)
  | none => (0, 0)

/-- The result of one op (R235). -/
def opResult (c : Nat) (x y z : BitVec 32) : Flagged :=
  match c with
  | 0 => f32Add x y | 1 => f32Sub x y | 2 => f32Mul x y | 3 => f32Fma false z x y | 4 => f32Min x y | 5 => f32Max x y
  | 6 => (f32Abs x, 0) | 7 => (f32Neg x, 0) | 8 => f32Exp2 x | _ => (x, 0)

/-- Applies the ops to the inputs of one index: t0 and the flags. -/
def chainElem (d : BitVec 2560) (ins : List (BitVec 32)) : Flagged :=
  let (t, fl) := (List.range (chainOps d)).foldl (fun (t, fl) i =>
    let w := chainOp d i
    let src (j : Nat) : BitVec 32 :=
      let v := opSource w j
      if v < 4 then ins.getD v 0 else if v < 8 then t.getD (v - 4) 0 else chainConst d (v - 8)
    let (r, g) := opResult (opCode w) (src 0) (src 1) (src 2)
    (t.set (opDest w) r, fl ||| g)) (([0, 0, 0, 0] : List (BitVec 32)), (0 : Flags5))
  (t.getD 0 0, fl)

/-- What reading the inputs of an element gives: their values and flags, or the failing access. -/
inductive Inputs where
  | ok (vs : List Flagged) (s : State)
  | wait (s : State)
  | fail (addr : BitVec 64) (cause : BitVec 6) (bits : BitVec 64) (s : State)

/-- Reads the inputs of element `e`. -/
def State.chainInputs (s : State) (d : BitVec 2560) (e : Nat) : List (BitVec 512) → List Flagged → Inputs
  | [], acc => .ok acc.reverse s
  | t :: rest, acc =>
    let u := e / unitElems (descFmt t)
    match s.engineRead .V false clsRW (descSpace t) (unitAddr t u) (unitBytes (descFmt t)) with
    | .ok bs s => State.chainInputs s d e rest (inputF32 t (elemBits t e bs) :: acc)
    | .wait s => .wait s
    | .fail c bits _ s => .fail (unitAddr t u) c bits s

/-- What the elements of one output unit come to: their bits lowest first, and their flags. -/
inductive UnitRun where
  | ok (bits : Nat) (fl : Flags5) (s : State)
  | wait (s : State)
  | fail (addr : BitVec 64) (cause : BitVec 6) (bits : BitVec 64) (s : State)

/-- Computes the elements of output unit `u`. -/
def State.chainUnit (s : State) (d : BitVec 2560) (u : Nat) : UnitRun :=
  let out := chainStream d 3
  let n := unitElems (descFmt out)
  let ins := (List.range (chainNin d)).map (chainStream d)
  (List.range n).foldl (fun r j =>
    match r with
    | .ok bits fl s =>
      match s.chainInputs d (u * n + j) ins [] with
      | .ok vs s =>
        let fl := vs.foldl (fun f v => f ||| v.2) fl
        let (v, g) := chainElem d (vs.map (·.1))
        let (c, h) := match fmtOf (descFmt out) with | some f => convertElem .f32 f v.toNat | none => (0, 0)
        .ok (bits + c * 16 ^ j) (fl ||| g ||| h) s
      | .wait s => .wait s
      | .fail a c b s => .fail a c b s
    | r => r) (.ok 0 0 s)

/-- The cell of the first byte of unit `u` of a stream. -/
def State.unitCell (s : State) (t : BitVec 512) (u : Nat) : Nat := s.spaceCell (descSpace t) (unitAddr t u)

/-- The half bytes of element `j` of a unit whose first byte lies at a cell: its first and its number. An H4 element is one (R158). -/
def elemHalves (t : BitVec 512) (cell j : Nat) : Nat × Nat :=
  if descFmt t = 4 then (2 * cell + j, 1) else (2 * cell, 2 * unitBytes (descFmt t))

/-- An element of an input: its number, and its half bytes. -/
abbrev InputElem := Nat × Nat × Nat

/-- The elements of a pass's inputs by the 4 KiB block of their cells; none lies in two. -/
def State.inputElems (s : State) (d : BitVec 2560) : List (Nat × List InputElem) :=
  (List.range (chainNin d)).foldl (fun m i =>
    let t := chainStream d i
    (List.range (unitCount t)).foldl (fun m v =>
      let c := s.unitCell t v
      kSet m (c / 4096) (((List.range (unitElems (descFmt t))).map fun j => (v * unitElems (descFmt t) + j, elemHalves t c j)) ++
        kGet [] m (c / 4096))) m) []

/-- Whether `n` half bytes from `h` on, output element `e`, overlap an input in any other way than an input element of the same index
at the same byte address, which is read before it is written (R236). -/
def overlapsIn (ins : List (Nat × List InputElem)) (h n e : Nat) : Bool :=
  (kGet [] ins (h / 8192)).any fun i =>
    decide (i.2.1 < h + n ∧ h < i.2.1 + i.2.2) && !(i.2.1 / 2 == h / 2 && i.1 == e)

/-- Whether element `j` of output unit `u` of a pass holds an open value (R236). -/
def State.overlapped (s : State) (d : BitVec 2560) (ins : List (Nat × List InputElem)) (u j : Nat) : Bool :=
  let out := chainStream d 3
  let h := elemHalves out (s.unitCell out u) j
  overlapsIn ins h.1 h.2 (u * unitElems (descFmt out) + j)

/-- An open value for an output unit: zero, the value computed for it, or the present bits of a unit of the pass, an input's or the
output's, which a free choice names (R4, R236). -/
def State.openUnit (s : State) (d : BitVec 2560) (computed : BitVec 64) : BitVec 64 × State :=
  let k := Config.freeNat s.freeCtr
  let i := k % (chainNin d + 3)
  let v :=
    if i = 0 then 0
    else if i = 1 then computed
    else
      let t := chainStream d (if i = 2 then 3 else i - 3)
      let a := unitAddr t (Config.freeNat (s.freeCtr + 1) % unitCount t)
      ofBytes 64 ((List.range (unitBytes (descFmt t))).map fun b => s.peekSpace (descSpace t) (a + BitVec.ofNat 64 b))
  (v, { s with freeCtr := s.freeCtr + 2 })

/-- The value of output unit `u` with its overlapped elements open (R236). -/
def State.openElems (s : State) (d : BitVec 2560) (ins : List (Nat × List InputElem)) (u : Nat) (computed : BitVec 64) : BitVec 64 × State :=
  let n := unitElems (descFmt (chainStream d 3))
  let open_ := (List.range n).map (s.overlapped d ins u)
  if open_.any id then
    let (v, s) := s.openUnit d computed
    -- an H4 unit is one byte of two elements of four bits
    let part (j : Nat) : BitVec 64 := if n = 1 then BitVec.allOnes 64 else 0xF#64 <<< (4 * j)
    let mask := (List.range n).foldl (fun m j => if open_.getD j false then m ||| part j else m) 0
    ((v &&& mask) ||| (computed &&& ~~~mask), s)
  else (computed, s)

/-- What the parcel on the page of an engine's write refuses as it is made (R320); another failure of its translation turns up as the
write leaves the side log (R210). -/
def State.parcelAt (s : State) (va : Nat) : Option (BitVec 6 × BitVec 64) :=
  match s.translate pathCore va false .write with
  | .ok e _ => s.parcelRefuses e.leaf.word .write
  | _ => none

/-- Writes the bytes of an output unit for strand `x` (R210). -/
def State.engineWrite (s : State) (x : StrandId) (cls : Nat) (c : Coord) (atS stepped scratch : Bool) (a : BitVec 64)
    (bs : List (BitVec 8)) : Except (BitVec 6 × BitVec 64) Stored :=
  let keep := !atS && decide (s.core.qu.hk ≤ c.key)
  if scratch then
    match s.scratchPlace false (a.setWidth 32) bs.length with
    | .error e => .error (e, 0)
    | .ok p => .ok (s.scratchStore x c keep p (a.setWidth 32) bs)
  else match s.parcelAt a.toNat with
    | some e => .error e
    | none => .ok (s.sideStoreAs false x cls c keep atS stepped .store 0 a.toNat bs)

/-- Replaces the pass at the head of the queue. -/
def State.setPass (s : State) (p : ChainPass) : State :=
  s.onCore fun c => { c with chainq := match c.chainq with | [] => [] | _ :: rest => p :: rest }

/-- A pass stops at a faulting element, with a record (R210). -/
def State.passFails (s : State) (p : ChainPass) (a : BitVec 64) (c : BitVec 6) (bits : BitVec 64) : State :=
  (s.setPass { p with held := true }).raiseEngine .V p.stepped c bits a 5 p.coord .chainPass

/-- Performs the units of a pass from its next one on, by `fuel` units: until it ends, faults or finds no room; a full slag log only
stalls it (R168, R210). DESIGN CHOICE: the elements are processed in ascending walk order, which the manual leaves open (log 39). -/
def State.runPass (s : State) (ins : List (Nat × List InputElem)) (p : ChainPass) : Nat → State
  | 0 => s.onCore fun c => { c with chainq := c.chainq.drop 1 }
  | fuel + 1 =>
    let d := p.desc
    let out := chainStream d 3
    let a := unitAddr out p.next
    match s.chainUnit d p.next with
    | .wait s => s.setPass p
    | .fail a c b s => s.passFails p a c b
    | .ok bits fl s =>
      let n := unitBytes (descFmt out)
      let v : BitVec 64 := BitVec.ofNat 64 bits
      let (v, s) := s.openElems d ins p.next v
      match s.engineWrite .V clsRW p.coord p.atS p.stepped (descSpace out) a (toBytes n v) with
      | .error (c, b) => s.passFails p a c b
      | .ok .full => (if descSpace out then s else s.sideFull .V).setPass p
      | .ok (.done s) => State.runPass (s.addFlags .V fl) ins { p with next := p.next + 1 } fuel

/-- CHAIN_PASS_COMPLETE: the pass at the head makes its accesses, up to its end, a fault, or a full log. -/
def execChainPassComplete (s : State) : Host.Outcome State Fault Refusal :=
  .next (
    match s.core.chainq with
    | [] => s
    | p :: _ =>
      if !p.started || p.held || (!p.atS && s.cutHolds p.coord) then s
      else s.runPass (s.inputElems p.desc) p (unitCount (chainStream p.desc 3) - p.next))

/-! ## The row engine (R130, R211, R238, R239) -/

def rowBase (w : BitVec 64) : Nat := (w.extractLsb' 0 22).toNat
/-- Elements per row. -/
def rowLen (w : BitVec 64) : Nat := (w.extractLsb' 22 14).toNat + 1
/-- Rows. -/
def rowCount (w : BitVec 64) : Nat := (w.extractLsb' 36 8).toNat + 1
def rowStride (w : BitVec 64) : Nat := 4 * (w.extractLsb' 44 20).toNat
/-- Offset of row `i`. -/
def rowAt (w : BitVec 64) (i : Nat) : Nat := rowBase w + rowStride w * i
/-- Offset of the AUX record of row `i`. -/
def auxAt (r : RowCommand) (i : Nat) : Nat := 32 * r.aux.toNat + 8 * i

/-- A row command enters the queue of 16; a full queue stalls K (R130). -/
def rowCommand (s : State) (phase : Nat) (a : BitVec 6) (e : BitVec 17) : State :=
  let x := s.cur
  runItem s 2 [.K, .A, .V, .M] false (x == .K && regOk x a) true
    (if 16 ≤ s.core.rowq.length then .wait s
     else .retire (s.onCore fun c => { c with
       rowq := c.rowq ++ [⟨phase, s.reg x a, e, c.k.coord, s.atS x, s.atS x, false, 0, false, s.stepping x⟩] }))

/-- ROW.MAX. -/
def execRowMax (a : BitVec 6) (e : BitVec 17) (s : State) : Host.Outcome State Fault Refusal := .next (rowCommand s 0 a e)
/-- ROW.EXP. -/
def execRowExp (a : BitVec 6) (e : BitVec 17) (s : State) : Host.Outcome State Fault Refusal := .next (rowCommand s 1 a e)
/-- ROW.SCL. -/
def execRowScl (a : BitVec 6) (e : BitVec 17) (s : State) : Host.Outcome State Fault Refusal := .next (rowCommand s 2 a e)

/-- The check of R238 that fails. -/
def State.rowFault (s : State) (r : RowCommand) : Option Nat :=
  let last := rowCount r.word - 1
  let limit := if r.sup then 2 ^ 22 else s.ownB
  if rowBase r.word % 4 ≠ 0 ∨ (rowStride r.word = 0 ∧ 0 < last) then some 0x01
  else if limit < rowAt r.word last + 4 * rowLen r.word then some 0x02
  else if limit < auxAt r last + 8 then some 0x03
  else none

/-- ROW_COMMAND_START: the first command that has not started reaches its phase slot and is checked. -/
def execRowCommandStart (s : State) : Host.Outcome State Fault Refusal :=
  let q := s.core.rowq
  .next (
    match findAt (fun r => !r.started) q 0 with
    | none => s
    | some i =>
      match q[i]? with
      | none => s
      | some r =>
        if (q.any fun o => o.started && o.phase == r.phase) || (!r.atS && s.cutHolds r.coord) then s
        else
          match s.rowFault r with
          | some c => (s.onCore fun k => { k with rowq := q.eraseIdx i }).raiseEngine .K r.stepped cRowEngine (BitVec.ofNat 64 c) 0 4 r.coord .nothing
          | none => s.onCore fun k => { k with rowq := q.set i { r with started := true } })

/-- What a phase computes for a row: the new elements, the new max and sum where it writes them, and its flags (R239). -/
def rowResult (phase : Nat) (xs : List (BitVec 32)) (mx sum : BitVec 32) :
    List (BitVec 32) × Option (BitVec 32) × Option (BitVec 32) × Flags5 :=
  match phase with
  | 0 =>
    let x0 := xs.headD 0
    let (m, fl) := xs.foldl (fun r x => let (v, g) := f32Max r.1 x; (v, r.2 ||| g)) (f32Max x0 x0)
    ([], some m, none, fl)
  | 1 =>
    let rs := xs.map fun x =>
      let (a, f1) := f32Sub x mx
      let (b, f2) := f32Mul a 0x3FB8AA3B
      let (c, f3) := f32Exp2 b
      (c, f1 ||| f2 ||| f3)
    let acc := rs.foldl (fun b r => binAdd b r.1) (List.replicate 12 0)
    let (t, g) := binRound (binNormalise acc)
    (rs.map (·.1), none, some t, rs.foldl (fun fl r => fl ||| r.2) g)
  | _ =>
    let rs := xs.map fun x => f32Div x sum
    (rs.map (·.1), none, none, rs.foldl (fun fl r => fl ||| r.2) 0)

/-- Writes several parts of the core's own scratchpad, all or none (R210). -/
def State.rowWrites (s : State) (keep : Bool) (c : Coord) : List (Nat × List (BitVec 8)) → Option State
  | [] => some s
  | (off, bs) :: rest =>
    if bs.isEmpty then State.rowWrites s keep c rest
    else
      match s.scratchStore .K c keep s.pk.pcore.toNat (0x40000000 ||| BitVec.ofNat 32 off) bs with
      | .done s => State.rowWrites s keep c rest
      | .full => none

/-- Performs the next row of a command: none when the slag log has no room. -/
def State.doRow (s : State) (r : RowCommand) : Option State :=
  let p := s.pk.pcore.toNat
  let off := rowAt r.word r.row
  let aux := auxAt r r.row
  let xs := lanesOf (rowLen r.word) (s.scratchRead p off (4 * rowLen r.word))
  let m : BitVec 32 := ofBytes 32 (s.scratchRead p aux 4)
  let t : BitVec 32 := ofBytes 32 (s.scratchRead p (aux + 4) 4)
  let (ys, m', t', fl) := rowResult r.phase xs m t
  let part (o : Option (BitVec 32)) : List (BitVec 8) := match o with | some v => toBytes 4 v | none => []
  ((s.rowWrites (!r.atS && decide (s.core.qu.hk ≤ r.coord.key)) r.coord
    [(off, imageBytes ys), (aux, part m'), (aux + 4, part t')]).map fun s => s.addFlags .K fl)

/-- ROW_PHASE_END: the command in a phase slot ends its next row, once the phase before it has ended the same row (R211). -/
def execRowPhaseEnd (phase : Nat) (s : State) : Host.Outcome State Fault Refusal :=
  let q := s.core.rowq
  .next (
    match findAt (fun r => r.started && r.phase == phase) q 0 with
    | none => s
    | some i =>
      match q[i]? with
      | none => s
      | some r =>
        let here := rowAt r.word r.row
        let earlier := (q.take i).any (fun o =>
          o.phase + 1 == phase && (List.range (rowCount o.word)).any (fun j => decide (o.row ≤ j) && rowAt o.word j == here))
        if earlier || (r.held || (!r.atS && s.cutHolds r.coord)) then s
        else
          match s.doRow r with
          | none => s
          | some s =>
            let q' := if rowCount r.word ≤ r.row + 1 then s.core.rowq.eraseIdx i else s.core.rowq.set i { r with row := r.row + 1 }
            s.onCore fun k => { k with rowq := q' })

end Sys2Proof.Machine
end

