-- ==== Sys2Proof/Machine/Matrix.lean ====
section
/-!
DEFINITION. The matrix engine: alignment, patterns and checksums, the accumulators and their snapshots, draw grants and the
events of the engine (R90 to R94, R243 to R265, R422).
-/
namespace Sys2Proof.Machine

/-! ## Alignment (R90, R91) -/

/-- Whether a format is a half-step one. -/
def Fmt.half : Fmt → Bool
  | .h4 => true
  | .h8 => true
  | _ => false

/-- The format of a stream or of the resident B, by its code; the matrix formats are 1 to 4. -/
def matrixFmt (n : Nat) : Fmt :=
  match n with
  | 1 => .bf16 | 2 => .t8 | 3 => .h8 | _ => .h4

/-- Whether a format code is one of BF16, T8, H8 and H4. -/
def isMatrixFmt (n : Nat) : Bool := decide (1 ≤ n ∧ n ≤ 4)

/-- Broadcast planes of an A format (R246). -/
def planesOf (n : Nat) : Nat := match n with | 3 => 8 | 4 => 4 | _ => 16

/-- Cells per value of a B format (R243). -/
def cellsPer (n : Nat) : Nat := if n = 1 then 2 else 1

/-- `floor(log2 |x|)` of a nonzero finite value. -/
def expoOf : Val → Option Int
  | .num _ m e => if m = 0 then none else some ((Nat.log2 m : Int) + e)
  | _ => none

/-- Whether a value is a NaN or an infinity. -/
def Val.notFinite : Val → Bool
  | .num _ _ _ => false
  | _ => true

/-- A value in units of `2^shift`, rounded; a value that is not finite marks its block special and counts as 0. -/
def inUnits (shift : Int) : Val → Int
  | .num n m e => rneInt (signedOf n m) (e - shift)
  | _ => 0

/-- An aligned group: the integers, their shift, and whether the group is special. -/
structure Aligned where
  ints : List Int
  shift : Int
  special : Bool

/-- Aligns codes of a format, the greatest exponent standing `keep` bits up (R90, R91); half-step codes stand as they are. -/
def align (f : Fmt) (keep : Int) (codes : List Nat) : Aligned :=
  if f.half then ⟨codes.map fun c => (BitVec.ofNat f.width c).toInt, 0, false⟩
  else
    let vs := codes.map f.val
    let top := (vs.filterMap expoOf).foldl (fun (m : Option Int) e => some (match m with | none => e | some m => max m e)) none
    let shift := top.getD 0 - keep
    ⟨vs.map (inUnits shift), shift, vs.any Val.notFinite⟩

/-- Bits below the leading one that alignment keeps for B: 6 for one cell, 14 for two (R91). -/
def keepB (fmt : Nat) : Int := if fmt = 1 then 14 else 6

/-- The elements of packed bytes (R86, R1). -/
def unpackElems (w : Nat) : List (BitVec 8) → List Nat
  | [] => []
  | b :: bs =>
    if w = 4 then b.toNat % 16 :: b.toNat / 16 :: unpackElems w bs
    else if w = 8 then b.toNat :: unpackElems w bs
    else match bs with
      | [] => [b.toNat]
      | c :: cs => (b.toNat + 256 * c.toNat) :: unpackElems w cs

/-! ## Seeded sparsity (R256, R257) -/

/-- SEED, DENS and BLK0 of a sparse header, and whether it is malformed (R258 code 0x01). -/
def headSeed (h : BitVec 512) : BitVec 32 := h.extractLsb' 0 32
def headDens (h : BitVec 512) : BitVec 2 := h.extractLsb' 32 2
def headBlk0 (h : BitVec 512) : BitVec 32 := h.extractLsb' 64 32
def headBad (h : BitVec 512) : Bool := headDens h == 0 || h.extractLsb' 34 30 != 0 || h.extractLsb' 96 416 != 0

/-- Kept rows per block by density code. -/
def keptOf (dens : BitVec 2) : Nat := match dens.toNat with | 1 => 32 | 2 => 16 | 3 => 8 | _ => 64

/-- Steps of the pattern procedure from step `i` on. -/
def patternSteps (n : Nat) : Nat → Nat → BitVec 32 → List Nat → List Nat
  | 0, _, _, p => p
  | fuel + 1, i, x, p =>
    let x := x * 0x2C9277B5 + 0xAC564B05
    let j := (x.toNat / 2 ^ 16) * (64 - i) / 2 ^ 16
    let a := p.getD i 0
    let b := p.getD (i + j) 0
    patternSteps n fuel (i + 1) x ((p.set i b).set (i + j) a)

/-- The kept rows of the block of an index, ascending (R257). -/
def keptRows (seed : BitVec 32) (dens : BitVec 2) (index : BitVec 32) : List Nat :=
  let n := keptOf dens
  if n = 64 then List.range 64
  else sortKey id ((patternSteps n n 0 (seed ^^^ (index * 0x9E3779B9)) (List.range 64)).take n)

/-! ## The resident B (R243 to R245) -/

/-- Kept rows per block. -/
def Resident.kept (r : Resident) : Nat := if r.spv then keptOf r.dens else 64
/-- Physical rows per block. -/
def Resident.rows (r : Resident) : Nat := r.kept * cellsPer r.fmt.toNat
/-- Blocks that fit in the core. -/
def Resident.capacity (r : Resident) : Nat := 2048 / r.rows
/-- The kept rows of resident block `b`. -/
def Resident.pattern (r : Resident) (b : Nat) : List Nat :=
  if r.spv then keptRows r.seed r.dens (r.blk0 + BitVec.ofNat 32 b) else List.range 64

/-- The 260 cells of physical row `g`, counted across macros. -/
def MatrixState.row (m : MatrixState) (g : Nat) : List (BitVec 8) := denseFrom 260 0 (cellSlice m.cells (g * 260) 260)

/-- A 16-bit value of two cells. -/
def wordOf (lo hi : BitVec 8) : BitVec 16 := hi ++ lo

/-- One kept row of a block: its values, C1 and C2. -/
structure RowOfB where
  ib : List Int
  c1 : BitVec 16
  c2 : BitVec 16

/-- The checksum cells of a physical row. -/
def rowSums (cells : List (BitVec 8)) : BitVec 16 × BitVec 16 :=
  let c (i : Nat) : BitVec 8 := cells.getD i 0
  (wordOf (c 256) (c 257), wordOf (c 258) (c 259))

/-- The values of kept row `t` of resident block `b`. -/
def MatrixState.rowOfB (m : MatrixState) (r : Resident) (b t : Nat) : RowOfB :=
  let g := b * r.rows + t * cellsPer r.fmt.toNat
  let lo := m.row g
  let (c1, c2) := rowSums lo
  if cellsPer r.fmt.toNat = 1 then ⟨(lo.take 256).map BitVec.toInt, c1, c2⟩
  else ⟨(List.zipWith wordOf (lo.take 256) ((m.row (g + 1)).take 256)).map BitVec.toInt, c1, c2⟩

/-- The column record of column `j` of block `b`. -/
def MatrixState.column (m : MatrixState) (b j : Nat) : ColumnRecord := kGet ColumnRecord.empty m.cols (b * 256 + j)

/-- C1 and C2 of the values of a row (R253). -/
def sumsOf (ib : List Int) : BitVec 16 × BitVec 16 :=
  let (c1, c2, _) := ib.foldl (fun (a, b, j) v => (a + v, b + j * v, j + 1)) ((0 : Int), (0 : Int), (1 : Int))
  (BitVec.ofInt 16 c1, BitVec.ofInt 16 c2)

/-! ## Accumulators and their snapshots (R249, R252) -/

/-- `n` elements of an accumulator from element number `e` on. -/
def MatrixState.accRun (m : MatrixState) (z e n : Nat) : List (BitVec 32) := denseFrom n 0 (cellSlice m.acc (z * 65536 + e) n)

/-- Replaces them. -/
def MatrixState.putRun (m : MatrixState) (z e : Nat) (l : List (BitVec 32)) : MatrixState :=
  { m with acc := cellPaste m.acc (z * 65536 + e) l.length (cellsOf 0 l) }

/-- Element number of row `r` of quantum `q`: quanta are 16 rows by 64 columns. -/
def quantumAt (q r : Nat) : Nat := (q / 4 * 16 + r) * 256 + q % 4 * 64

/-- A quantum of an accumulator. -/
def MatrixState.quantum (m : MatrixState) (z q : Nat) : List (BitVec 32) :=
  (List.range 16).flatMap fun r => m.accRun z (quantumAt q r) 64

/-- Replaces a quantum. -/
def MatrixState.putQuantum (m : MatrixState) (z q : Nat) (l : List (BitVec 32)) : MatrixState :=
  (List.range 16).foldl (fun m r => m.putRun z (quantumAt q r) ((l.drop (64 * r)).take 64)) m

/-- The quanta of a window of an accumulator. -/
def quantaOf (row0 rows col0 cols : Nat) : List Nat :=
  (List.range 64).filter fun q =>
    decide (row0 < q / 4 * 16 + 16 ∧ q / 4 * 16 < row0 + rows ∧ col0 < q % 4 * 64 + 64 ∧ q % 4 * 64 < col0 + cols)

/-- A free quantum of an accumulator marked ZFREE, by `z * 64 + quantum`. -/
def MatrixState.freeQuantum (m : MatrixState) : Option Nat :=
  (List.range 512).find? fun n => m.zfree.getLsbD (n / 64) && !kHas m.zsnaps n

/-- Whether the snapshot of a quantum for an image stands somewhere. -/
def State.hasQuantum (s : State) (z : BitVec 3) (q : BitVec 6) (image : Nat) : Bool :=
  let b := IdleBank.accSnap z q image
  s.core.mat.zsnaps.any (fun kv => kv.2 == b) || s.core.vec.idle.any (fun kv => kv.2 == b)

/-- Places a snapshot of a quantum: in a free quantum, else in a FREE idle bank. -/
def State.placeQuantum (s : State) (b : IdleBank) (l : List (BitVec 32)) : Option State :=
  match s.core.mat.freeQuantum with
  | some n => some (s.onMat fun m => { (m.putQuantum (n / 64) (n % 64) l) with zsnaps := kSet m.zsnaps n b })
  | none => s.core.vec.freeBank.map fun n => s.onVec fun v => { (v.putBank n l) with idle := kSet v.idle n b }

/-- Takes the snapshots that open images of the M strand need before an operation of a coordinate key writes quanta of an
accumulator: those of images at or below it. An operation below an image stands in what the image keeps (R22). -/
def State.snapQuanta (s : State) (key : Nat) (z : BitVec 3) (qs : List Nat) : Option State :=
  let images := (s.core.m.images.filter fun i => i.zc.getLsbD z.toNat && decide (i.coord.key ≤ key)).map (·.id)
  (qs.flatMap fun q => images.map fun i => (q, i)).foldl (fun r (q, i) => r.bind fun s =>
    let q6 := BitVec.ofNat 6 q
    if s.hasQuantum z q6 i then some s
    else s.placeQuantum (.accSnap z q6 i) (s.core.mat.quantum z.toNat q)) (some s)

/-- Gives an accumulator open values: zero, or what the task's accumulators and snapshots hold (R251, R252). -/
def State.openAcc (s : State) (z : Nat) : State :=
  let v := s.core.vec
  let snaps := v.idle.filterMap fun kv => match kv.2 with | .accSnap _ _ _ => some (v.bank kv.1) | _ => none
  let (l, s) := s.choose 65536 (0 :: s.core.mat.acc.map (·.2) ++ snaps.flatten)
  s.onMat fun m => m.putRun z 0 l

/-! ## m.carry, m.bstat, m.kprog, m.chk, m.draw (R245, R251, R255, R261) -/

/-- Moves the snapshots that stand in the accumulators of a mask into FREE idle banks, while one is FREE (R251). -/
def State.moveSnaps (s : State) (zs : BitVec 8) : State :=
  (s.core.mat.zsnaps.filter fun kv => zs.getLsbD (kv.1 / 64)).foldl (fun s (n, b) =>
    match s.core.vec.freeBank with
    | none => s
    | some k =>
      let l := s.core.mat.quantum (n / 64) (n % 64)
      (s.onVec fun v => { (v.putBank k l) with idle := kSet v.idle k b }).onMat fun m => { m with zsnaps := kDel m.zsnaps n }) s

/-- Writes m.carry: the state, and whether the write has taken effect. It has not while a snapshot stands in an accumulator whose
ZFREE bit it clears, and no idle bank is FREE (R251). -/
def State.putMcarry (s : State) (v : BitVec 64) : State × Bool :=
  let zfree : BitVec 8 := v.extractLsb' 8 8
  let old := s.core.mat.zfree
  let s := s.moveSnaps (old &&& ~~~zfree)
  if s.core.mat.zsnaps.any fun kv => (old &&& ~~~zfree).getLsbD (kv.1 / 64) then (s, false)
  else
    let s := (List.range 8).foldl (fun s z => if !old.getLsbD z && zfree.getLsbD z then s.openAcc z else s) s
    (s.onMat fun m => { m with zc := v.extractLsb' 0 8, zfree := zfree }, true)

/-- MCARRY_WRITE. -/
def execMcarryWrite (v : BitVec 64) (s : State) : Host.Outcome State Fault Refusal := .next (s.putMcarry v).1

def MatrixState.mcarry (m : MatrixState) : BitVec 64 := place 64 m.zc 0 ||| place 64 m.zfree 8
def MatrixState.mbstat (m : MatrixState) : BitVec 64 :=
  let b := m.bstat
  flagBit 64 b.res 0 ||| place 64 b.fmt 1 ||| place 64 b.kblk 5 ||| place 64 b.nm1 14 ||| flagBit 64 b.spv 22 |||
    place 64 (if b.spv then b.dens else 0) 23

/-- Whether a SAVE has stopped an operation: at its boundary, or before it began (R264). -/
def MatrixOp.stopped (o : MatrixOp) : Bool := match o.stopAt with | some n => decide (n ≤ o.next) | none => false

/-- Whether an operation is in execution; one that a SAVE has stopped is not. -/
def MatrixState.active (m : MatrixState) : Bool := m.queue.any fun o => o.begun && !o.stopped
/-- Operations issued and not begun. -/
def MatrixState.queued (m : MatrixState) : Nat := (m.queue.filter fun o => !o.begun).length

def MatrixState.mkprog (m : MatrixState) : BitVec 64 :=
  place 64 m.knext 0 ||| flagBit 64 m.active 9 ||| place 64 m.kz 10 ||| place 64 (BitVec.ofNat 3 m.queued) 13
def MatrixState.mchk (m : MatrixState) : BitVec 64 := place 64 m.chk.blocks 0 ||| place 64 m.chk.fails 32 ||| flagBit 64 m.failed 48
def MatrixState.mdraw (m : MatrixState) : BitVec 64 := place 64 m.held 0 ||| place 64 m.ceil 16 ||| flagBit 64 (m.pendUnits != 0) 32

/-- Adds failed checks, saturating. -/
def MatrixState.addFails (m : MatrixState) (n : Nat) : MatrixState :=
  if n = 0 then m
  else { m with chk := { m.chk with fails := BitVec.ofNat 16 (min 0xFFFF (m.chk.fails.toNat + n)) }, failed := true }

/-! ## Shape words (R269, R274, R280) -/

def loadKb0 (w : BitVec 64) : Nat := (w.extractLsb' 0 9).toNat
def loadNb (w : BitVec 64) : Nat := (w.extractLsb' 9 9).toNat
def loadNm1 (w : BitVec 64) : BitVec 8 := w.extractLsb' 18 8
def loadNew (w : BitVec 64) : Bool := w.getLsbD 26

/-- Rows M. -/
def mmaRows (w : BitVec 64) : Nat := (w.extractLsb' 0 8).toNat + 1
/-- Columns N. -/
def mmaCols (w : BitVec 64) : Nat := (w.extractLsb' 8 8).toNat + 1
def mmaKb0 (w : BitVec 64) : Nat := (w.extractLsb' 16 9).toNat
def mmaKbn (w : BitVec 64) : Nat := (w.extractLsb' 25 9).toNat
def mmaRow0 (w : BitVec 64) : Nat := (w.extractLsb' 34 8).toNat
def mmaZinit (w : BitVec 64) : Bool := w.getLsbD 42
def mmaPm1 (w : BitVec 64) : Nat := (w.extractLsb' 43 2).toNat
def mmaLbase (w : BitVec 64) : Nat := (w.extractLsb' 45 8).toNat

def drainRows (w : BitVec 64) : Nat := (w.extractLsb' 0 8).toNat + 1
def drainCols (w : BitVec 64) : Nat := (w.extractLsb' 8 8).toNat + 1
def drainRow0 (w : BitVec 64) : Nat := (w.extractLsb' 16 8).toNat
def drainCol0 (w : BitVec 64) : Nat := (w.extractLsb' 24 8).toNat
def drainFmt (w : BitVec 64) : Nat := (w.extractLsb' 32 4).toNat
def drainClr (w : BitVec 64) : Bool := w.getLsbD 36
def drainStride (w : BitVec 64) : Nat := (w.extractLsb' 40 24).toNat

/-! ## Draw grants (R260, R261) -/

/-- Units that an MMA or MMAC needs: none up to 2^24 cell-cycles. -/
def drawUnits (r : Resident) (aFmt : Nat) (shape : BitVec 64) : Nat :=
  let c := mmaKbn shape * r.rows * mmaCols shape * mmaRows shape * planesOf aFmt
  if c ≤ 2 ^ 24 then 0 else (c + 2 ^ 20 - 1) / 2 ^ 20

/-- Units whose requests are pending. -/
def MatrixState.pending (m : MatrixState) : Nat := m.pendMore.foldl (fun n r => n + r.1.toNat) m.pendUnits.toNat

/-- Requests units from Bellows: what the requests already pending, which stay under the CEIL of their own time, do not cover (R284,
R422). -/
def State.requestUnits (s : State) (n : Nat) (c : Coord) : State :=
  if n ≤ s.core.mat.pending then s
  else s.onMat fun m =>
    if m.pendUnits = 0 then { m with pendUnits := BitVec.ofNat 16 n, pendCoord := c, pendCeil := m.ceil }
    else { m with pendMore := m.pendMore ++ [(BitVec.ofNat 16 (n - m.pending), c, m.ceil)] }

/-- The first pending request is gone: the next one takes its place. -/
def MatrixState.nextRequest (m : MatrixState) : MatrixState :=
  match m.pendMore with
  | [] => { m with pendUnits := 0 }
  | (u, c, ceil) :: rest => { m with pendUnits := u, pendCoord := c, pendCeil := ceil, pendMore := rest }

/-- Withdraws the pending requests at or above a coordinate key (R284). -/
def MatrixState.withdraw (m : MatrixState) (key : Nat) : MatrixState :=
  let m := { m with pendMore := m.pendMore.filter fun r => decide (r.2.1.key < key) }
  if key ≤ m.pendCoord.key then m.nextRequest else m

/-- No request is pending: what is held and requested has gone back to Bellows (R261). -/
def MatrixState.noUnits (m : MatrixState) : MatrixState := { m with held := 0, pendUnits := 0, pendMore := [], drawing := none }

/-- DRAW_GRANT: the first pending request is served in full, whatever CEIL has become since it was made; one for more than CEIL was then is held
back until CEIL admits it (R261, R422, log 34). -/
def execDrawGrant (s : State) : Host.Outcome State Fault Refusal :=
  .next (s.onMat fun m =>
    if m.pendUnits ≤ m.pendCeil ∨ m.pendUnits ≤ m.ceil then { m.nextRequest with held := m.held + m.pendUnits } else m)

/-- CEIL_CHANGE: held units above the new CEIL are returned. -/
def execCeilChange (ceil : BitVec 16) (s : State) : Host.Outcome State Fault Refusal :=
  .next (s.onMat fun m => { m with ceil := ceil, held := if ceil < m.held then ceil else m.held })

/-- ECC_UNCORRECTED: an accumulator word has a double-bit error (R249). It resumes nothing (R104). -/
def execEccUncorrected (z : BitVec 3) (elem : BitVec 16) (s : State) : Host.Outcome State Fault Refusal :=
  let _ := z
  .next (s.raiseAsync .M cEccUncorrected (elem.setWidth 64) 0 3 (s.strand .M).coord .nothing)

/-! ## The queue (R250, R264) -/

/-- Whether one more operation may enter the queue: four wait. -/
def State.matrixRoom (s : State) : Bool := decide (s.core.mat.queued < 4)

/-- Adds an operation. -/
def State.pushMatrix (s : State) (o : MatrixOp) : State := s.onMat fun m => { m with queue := m.queue ++ [o] }

/-- Replaces the operation at the head. -/
def State.setHead (s : State) (o : MatrixOp) : State :=
  s.onMat fun m => { m with queue := match m.queue with | [] => [] | _ :: rest => o :: rest }

/-- The operation at the head ends; a follow-on MMA has read its buffer (R305). -/
def State.popMatrix (s : State) (o : MatrixOp) : State :=
  let s := s.onMat fun m => { m with queue := m.queue.drop 1 }
  match o.follow with
  | some (_, key) => s.onPk fun k => { k with consumed := cellSet k.consumed key (cellGet k.consumed key - 1) }
  | none => s

/-- A SAVE applies to the operation in execution (R264): a load stops after its next whole block; a multiplication at the commit that it
has made last, or, before the first, at that one (R248, R278: a SAVE after the first wave leaves KNEXT 1). -/
def MatrixOp.stopNext (o : MatrixOp) : MatrixOp :=
  let stop (n : Nat) : MatrixOp := if o.begun && o.stopAt.isNone then { o with stopAt := some n } else o
  match o.kind with
  | .mma | .mmac => stop (max 1 o.next)
  | .mloadb => stop (o.next + 1)
  | _ => o

/-- Whether a settling SAVE keeps the operation at the head from going on: before it begins, or at the boundary where it stops,
but not while a follow-on MMA waits (R264). -/
def State.saveHolds (s : State) (o : MatrixOp) : Bool :=
  s.sys.forced == some .save && s.core.mat.queue.all (·.follow.isNone) && (!o.begun || o.stopped)

/-- Whether the operation at the head may make progress. -/
def State.headRuns (s : State) (o : MatrixOp) : Bool := !o.held && (o.atS || !s.cutHolds o.coord)

/-- The operation stops with a record at a fault of its accesses (R265). -/
def State.matrixFails (s : State) (o : MatrixOp) (c : BitVec 6) (detail addr : BitVec 64) : State :=
  (s.setHead { o with held := true }).raiseEngine .M o.stepped c detail addr 3 o.coord .matrix

/-- Whether what an operation writes is kept (R21, R120). -/
def State.opKept (s : State) (o : MatrixOp) : Bool := !o.atS && decide (s.core.qu.hk ≤ o.coord.key)

/-- Writes bytes at an address for an operation. -/
def State.opWrite (s : State) (o : MatrixOp) (a : BitVec 64) (bs : List (BitVec 8)) : Except (BitVec 6) Stored :=
  if a.getLsbD 63 then
    let w : BitVec 32 := a.setWidth 32
    match s.scratchCore w with
    | .error e => .error e
    | .ok p => .ok (s.scratchStore .M o.coord (s.opKept o) p w bs)
  else .ok (s.sideStoreAs o.sup .M clsMX o.coord (s.opKept o) o.atS o.stepped .store 0 a.toNat bs)

/-! ## Reading A and B (R270, R275, R304) -/

/-- Bytes of element range `[e, e + n)` of the slots an operation reads, in the scratchpad of physical core `p`. -/
def State.spanBytes (s : State) (p : Nat) (sp : SlotSpan) (e n : Nat) : List (BitVec 8) :=
  let w := (matrixFmt sp.fmt.toNat).width
  s.scratchRead p (sp.slots.getD (e / sp.elems) 0 + e % sp.elems * w / 8) (n * w / 8)

/-- The scale of the group of element `e`. -/
def State.spanScale (s : State) (p : Nat) (sp : SlotSpan) (e : Nat) : BitVec 16 :=
  if !sp.scaled then 0x3F80
  else
    let w := (matrixFmt sp.fmt.toNat).width
    ofBytes 16 (s.scratchRead p (sp.slots.getD (e / sp.elems) 0 + sp.elems * w / 8 + 2 * (e % sp.elems / 64)) 2)

/-- The codes of elements `[e, e + n)`: where the first of two nibbles of a byte is not read, the pair is read and dropped. -/
def State.spanElems (s : State) (p : Nat) (sp : SlotSpan) (e n : Nat) : List Nat :=
  let w := (matrixFmt sp.fmt.toNat).width
  let skip := if w = 4 then e % 2 else 0
  ((unpackElems w (s.spanBytes p sp (e - skip) (n + 2 * skip))).drop skip).take n

/-- The failure of a read of slots whose HOME is no longer placed (R156, R402). -/
def SlotSpan.addr (sp : SlotSpan) : BitVec 64 :=
  flagBit 64 true 63 ||| (sp.home ||| BitVec.ofNat 32 (sp.slots.getD 0 0)).setWidth 64

/-- A row group of A: its codes and scale, or what its read gives. -/
inductive GroupOfA where
  | ok (codes : List Nat) (scale : BitVec 16) (s : State)
  | wait (s : State)
  | fail (cause : BitVec 6) (bits : BitVec 64) (addr : BitVec 64) (s : State)

/-- Reads the group of row `i` in block `k`. -/
def State.groupOfA (s : State) (o : MatrixOp) (i k : Nat) : GroupOfA :=
  let n := mmaKbn o.shape
  if o.follow.isNone then
    let e := (i * n + k) * 64
    match s.scratchCore o.span.home with
    | .error c => .fail c 0 o.span.addr s
    | .ok p => .ok (s.spanElems p o.span e 64) (s.spanScale p o.span e) s
  else
    let w := (matrixFmt o.span.fmt.toNat).width
    let data := n * 8 * w
    let row := o.buffer + BitVec.ofNat 64 (i * (data + if o.span.scaled then 2 * n else 0))
    let a := row + BitVec.ofNat 64 (k * 8 * w)
    match s.engineRead .M o.sup clsMX (a.getLsbD 63) a (8 * w) with
    | .wait s => .wait s
    | .fail c b v s => .fail c b (if a.getLsbD 63 then a else BitVec.ofNat 64 v) s
    | .ok bs s =>
      if !o.span.scaled then .ok (unpackElems w bs) 0x3F80 s
      else
        let b := row + BitVec.ofNat 64 (data + 2 * k)
        match s.engineRead .M o.sup clsMX (b.getLsbD 63) b 2 with
        | .wait s => .wait s
        | .fail c d v s => .fail c d (if b.getLsbD 63 then b else BitVec.ofNat 64 v) s
        | .ok ss s => .ok (unpackElems w bs) (ofBytes 16 ss) s

/-! ## MLOADB (R271) -/

/-- Starts a new resident B: every cell and record is cleared. -/
def MatrixState.clearB (m : MatrixState) : MatrixState := { m with cells := [], cols := [], written := 0 }

/-- The bytes of a value in its cells, low byte first. -/
def cellBytes (n : Nat) (v : Int) : List (BitVec 8) := toBytes n (BitVec.ofInt 16 v)

/-- The physical rows of one kept row of values: the low bytes, then the high bytes, each with C1 and C2. -/
def rowCells (per : Nat) (ib : List Int) : List (BitVec 8) :=
  let (c1, c2) := sumsOf ib
  (List.range per).flatMap fun b => ib.map (fun v => (cellBytes 2 v).getD b 0) ++ toBytes 2 c1 ++ toBytes 2 c2

/-- Loads operand block `b` of an MLOADB, from slots in the scratchpad of physical core `p`. -/
def State.loadBlock (s : State) (p : Nat) (o : MatrixOp) (b : Nat) : State :=
  let r := o.resident
  let n := r.kept
  let len := loadNb o.shape * n
  let rb := loadKb0 o.shape + b
  let fmt := r.fmt.toNat
  let cols := (List.range 256).map fun j =>
    if j ≤ r.nm1.toNat then
      let e := j * len + b * n
      let g := align (matrixFmt fmt) (keepB fmt) (s.spanElems p o.span e n)
      let sc := s.spanScale p o.span e
      (g.ints, (⟨g.shift, sc, g.ints.foldl (· + ·) 0, g.special || (bf16Val sc).notFinite⟩ : ColumnRecord))
    else (List.replicate n 0, ColumnRecord.empty)
  let rows := (List.range n).flatMap fun t => rowCells (cellsPer fmt) (cols.map fun c => c.1.getD t 0)
  s.onMat fun m =>
    let recs := (List.range 256).foldl (fun l j =>
      let c := (cols.getD j ([], ColumnRecord.empty)).2
      if c = ColumnRecord.empty then kDel l (rb * 256 + j) else kSet l (rb * 256 + j) c) m.cols
    { m with
      cells := cellPaste m.cells (rb * r.rows * 260) (r.rows * 260) (cellsOf 0 rows), cols := recs, written := m.written ||| (1#256 <<< rb) }

/-- MLOADB_BLOCK_LOADED: the MLOADB in execution loads its next block. -/
def execMloadbBlockLoaded (s : State) : Host.Outcome State Fault Refusal :=
  .next (
    match s.core.mat.queue with
    | [] => s
    | o :: _ =>
      if o.kind ≠ .mloadb || !o.begun || !s.headRuns o || s.saveHolds o then s
      else
        match s.scratchCore o.span.home with
        | .error c => s.matrixFails o c 0 o.span.addr
        | .ok p =>
          let s := s.loadBlock p o o.next
          if loadNb o.shape ≤ o.next + 1 then s.popMatrix o else s.setHead { o with next := o.next + 1 })

/-! ## Multiplication (R93, R94, R246, R248, R253, R254, R277) -/

/-- Adds `a` times a row to the column sums. -/
def addRow (a : Int) (p ib : List Int) : List Int := List.zipWith (fun x y => x + a * y) p ib

/-- The column sums P of one row of A over the kept rows of a block. -/
def columnSums (ia : List Int) (rows : List RowOfB) : List Int :=
  (List.zip ia rows).foldl (fun p (a, r) => addRow a p r.ib) (List.replicate 256 0)

/-- Which of the two congruences of R253 fails: the plain one, or only the weighted one. -/
def checkFails (ia : List Int) (rows : List RowOfB) (p : List Int) : Option Bool :=
  let (s1, s2) := sumsOf p
  let (t1, t2) := (List.zip ia rows).foldl (fun (x, y) (a, r) => (x + a * r.c1.toNat, y + a * r.c2.toNat)) ((0 : Int), (0 : Int))
  if s1 != BitVec.ofInt 16 t1 then some false else if s2 != BitVec.ofInt 16 t2 then some true else none

/-- The exact block value of R93 for one column. DESIGN CHOICE: a block that no load has `written` contributes +0, of a half-step format
too (R271), but where R93 makes it special (log 34). -/
def blockValue (a b : Fmt) (written : Bool) (n : Nat) (sumA p : Int) (shiftA : Int) (scaleA : BitVec 16) (special : Bool)
    (c : ColumnRecord) : Val :=
  if special || c.special || (bf16Val scaleA).notFinite || (bf16Val c.scale).notFinite then .nan false
  else if !written then .num false 0 0
  else
    let sum : Int := 4 * p + (if b.half then 2 * sumA else 0) + (if a.half then 2 * c.sum else 0) +
      (if a.half && b.half then (n : Int) else 0)
    let v := ((Val.ofInt sum (shiftA + c.shift - 2)).mul (bf16Val scaleA)).1
    let v := (v.mul (bf16Val c.scale)).1
    if v.isZero then .num false 0 0 else v

/-- What forming a block comes to: the block values row by row; a failing check of a row; or what a read gave. -/
inductive BlockRun where
  | ok (values : List (List Val)) (s : State)
  | check (row : Nat) (weighted : Bool) (s : State)
  | wait (s : State)
  | fail (cause : BitVec 6) (bits addr : BitVec 64) (s : State)

/-- Forms block `k` of the core's own blocks for the rows of an operation, checking each row. -/
def State.formBlock (s : State) (o : MatrixOp) (k : Nat) : BlockRun :=
  let r := o.resident
  let rb := mmaKb0 o.shape + k
  let n := r.kept
  let rows := (List.range n).map (s.core.mat.rowOfB r rb)
  let cols := (List.range (mmaCols o.shape)).map (s.core.mat.column rb)
  let fa := matrixFmt o.span.fmt.toNat
  let fb := matrixFmt r.fmt.toNat
  let pat := r.pattern rb
  (List.range (mmaRows o.shape)).foldl (fun res i =>
    match res with
    | .ok vs s =>
      match s.groupOfA o i k with
      | .wait s => .wait s
      | .fail c b a s => .fail c b a s
      | .ok codes scale s =>
        let g := align fa 14 (pat.map fun t => codes.getD t 0)
        let p := columnSums g.ints rows
        match checkFails g.ints rows p with
        | some w => .check i w s
        | none =>
          let sumA := g.ints.foldl (· + ·) 0
          let row := List.zipWith (fun pj c => blockValue fa fb (s.core.mat.written.getLsbD rb) n sumA pj g.shift scale g.special c) p cols
          .ok (vs ++ [row]) s
    | r => r) (.ok [] s)

/-- The block values that another participant brought for its block `k`. -/
def PeerOffer.block (p : PeerOffer) (rows cols k : Nat) : List (List Val) :=
  (List.range rows).map fun i => (List.range cols).map fun j =>
    match p.values.find? fun kv => kv.1 == (k * 256 + i) * 256 + j with
    | some (_, some (v, e)) => Val.ofInt v e
    | some (_, none) => .nan false
    | none => .num false 0 0

/-- What a block makes of a quantum of its accumulator. -/
def MatrixOp.overQuantum (o : MatrixOp) (first : Bool) (vs : List (List Val)) (q : Nat) (l : List (BitVec 32)) : List (BitVec 32) :=
  List.zipWith (fun i old =>
    let row := q / 4 * 16 + i / 64
    match (if mmaRow0 o.shape ≤ row then (vs.getD (row - mmaRow0 o.shape) [])[q % 4 * 64 + i % 64]? else none) with
    | some v => accumulate (if first && mmaZinit o.shape then 0 else old) v
    | none => old) (List.range l.length) l

/-- Commits a block to the snapshots of an accumulator: a cut that restores them does not undo an operation without a coordinate
(R297). -/
def State.commitSnaps (s : State) (o : MatrixOp) (first : Bool) (vs : List (List Val)) : State :=
  let s := s.core.mat.zsnaps.foldl (fun s (n, b) =>
    match b with
    | .accSnap z q _ =>
      if z = o.z then s.onMat fun m => m.putQuantum (n / 64) (n % 64) (o.overQuantum first vs q.toNat (m.quantum (n / 64) (n % 64))) else s
    | _ => s) s
  s.core.vec.idle.foldl (fun s (n, b) =>
    match b with
    | .accSnap z q _ => if z = o.z then s.onVec fun v => v.putBank n (o.overQuantum first vs q.toNat (v.bank n)) else s
    | _ => s) s

/-- Commits a block to the window of an accumulator (R94, R248, R252). -/
def State.commitBlock (s : State) (o : MatrixOp) (first : Bool) (vs : List (List Val)) : Option State :=
  let row0 := mmaRow0 o.shape
  let n := mmaCols o.shape
  let z := o.z.toNat
  let s := if o.atS then some ((s.commitSnaps o first vs).onMat fun m => { m with keptAccs := m.keptAccs ||| (1#8 <<< z) })
    else s.snapQuanta o.coord.key o.z (quantaOf row0 (mmaRows o.shape) 0 n)
  s.map fun s => s.onMat fun m =>
    (List.range vs.length).foldl (fun m i =>
      let e := (row0 + i) * 256
      let old := if first && mmaZinit o.shape then List.replicate n 0 else m.accRun z e n
      m.putRun z e (List.zipWith accumulate old (vs.getD i []))) m

/-- This core's own logical core comes `before` as many blocks of the global sequence (R277 item 3). -/
def State.blocksBefore (s : State) (o : MatrixOp) : Nat :=
  ((o.peers.filter fun p => decide (p.lcore < s.sys.lcore)).map (·.blocks)).foldl (· + ·) 0

/-- Whether this core owns the accumulator of an operation. -/
def State.ownsAcc (s : State) (o : MatrixOp) : Bool := o.kind == .mma || mmaLbase o.shape == s.sys.lcore.toNat

/-- The participant whose block follows after `k` blocks of the peers, and its own number of it. -/
def peerBlock : List PeerOffer → Nat → Option (PeerOffer × Nat)
  | [], _ => none
  | p :: rest, k => if k < p.blocks then some (p, k) else peerBlock rest (k - p.blocks)

/-- Blocks that this core takes part in: all of them as the owner, its own ones otherwise. -/
def State.opBlocks (s : State) (o : MatrixOp) : Nat :=
  mmaKbn o.shape + if s.ownsAcc o then (o.peers.map (·.blocks)).foldl (· + ·) 0 else 0

/-- Block `next` of the operation is done. DESIGN CHOICE: KNEXT has nine bits, and counts the blocks of an MMAC of more than 511 modulo 512
(R245, R277, log 34). -/
def State.blockDone (s : State) (o : MatrixOp) : State :=
  let n := o.next + 1
  let s := if s.ownsAcc o then s.onMat fun m => { m with knext := BitVec.ofNat 9 n } else s
  if s.opBlocks o ≤ n then s.popMatrix o else s.setHead { o with next := n }

/-- Whether another participant of an MMAC has failed at a global block that this core has reached or passed: the whole MMAC stops
there (R259, R277 item 6). -/
def MatrixOp.peerStops (o : MatrixOp) (here : Nat) : Bool :=
  o.peers.any fun p => match p.failsAt with | some g => decide (g ≤ here) | none => false

/-- MATRIX_WAVE_COMMIT: the next block of the operation in execution is checked for every row and committed for every
element, or the operation stops at it. DESIGN CHOICE: the block that DETAIL of an MMAC's MATRIX_CHECK names is the participant's own number
of it, from 0 (R254, R277, log 34). -/
def execMatrixWaveCommit (s : State) : Host.Outcome State Fault Refusal :=
  .next (
    match s.core.mat.queue with
    | [] => s
    | o :: _ =>
      let mult := o.kind == .mma || o.kind == .mmac
      let here := s.blocksBefore o + o.next
      if !mult || !o.begun || !s.headRuns o || s.saveHolds o || o.peerStops here then s
      else if o.next < mmaKbn o.shape then
        match s.formBlock o o.next with
        | .wait s => s
        | .fail c b a s => s.matrixFails o c b a
        | .check i w s =>
          let k := o.next
          let macroNo := (mmaKb0 o.shape + k) * o.resident.rows / 256
          let s := s.onMat fun m => MatrixState.addFails { m with chk := { m.chk with blocks := m.chk.blocks + BitVec.ofNat 32 i } } 1
          s.matrixFails o cMatrixCheck (place 64 (BitVec.ofNat 9 k) 0 ||| place 64 (BitVec.ofNat 8 i) 9 |||
            place 64 (BitVec.ofNat 3 macroNo) 17 ||| flagBit 64 w 20) 0
        | .ok vs s =>
          let counted (s : State) : State := s.onMat fun m =>
            { m with chk := { m.chk with blocks := m.chk.blocks + BitVec.ofNat 32 (mmaRows o.shape) } }
          if s.ownsAcc o then
            match s.commitBlock o (o.next == 0) vs with
            | some s => (counted s).blockDone o
            | none => s
          else (counted s).blockDone o
      else
        match peerBlock o.peers (o.next - mmaKbn o.shape) with
        | none => s.popMatrix o
        | some (p, k) =>
          match s.commitBlock o false (p.block (mmaRows o.shape) (mmaCols o.shape) k) with
          | some s => s.blockDone o
          | none => s)

/-! ## MZERO, MDRAIN, MSPILL, MFILL and MCSUM in execution (R272, R279 to R281) -/

/-- One element of a drain in its destination format, and its flags. -/
def drainElem (fmt : Nat) (x : BitVec 32) : Nat × Flags5 :=
  match fmtOf fmt with
  | some f => convertElem .f32 f x.toNat
  | none => (0, 0)

/-- Packs element codes of `w` bits into bytes, lowest first. -/
def packElems (w : Nat) (l : List Nat) : List (BitVec 8) :=
  toBytes (l.length * w / 8) (BitVec.ofNat (l.length * w) (l.foldr (fun c n => n * 2 ^ w + c) 0))

/-- Bytes of a drained row. -/
def drainBytes (w : BitVec 64) : Nat := drainCols w * ((fmtOf (drainFmt w)).getD .f32).width / 8

/-- Writes rows of an accumulator from row `o.next` on: `row i` gives the bytes, flags and the cleared accumulator. -/
def State.writeRows (s : State) (o : MatrixOp) (rows : Nat) (stride : Nat) (row : State → Nat → List (BitVec 8) × Flags5)
    (clear : State → Nat → Option State) : Nat → State
  | 0 => s.popMatrix o
  | fuel + 1 =>
    let i := rows - (fuel + 1)
    let o' := { o with next := i }
    let (bs, fl) := row s i
    match s.opWrite o (o.addr + BitVec.ofNat 64 (i * stride)) bs with
    | .error c => s.matrixFails o' c 0 (o.addr + BitVec.ofNat 64 (i * stride))
    -- a full slag log only stalls the operation (R168, R179)
    | .ok .full => (if o.addr.getLsbD 63 then s else s.sideFull .M).setHead o'
    | .ok (.done t) =>
      match clear t i with
      | none => s.setHead o'
      | some t => State.writeRows (t.addFlags .M fl) o rows stride row clear fuel

/-- An MDRAIN goes on. -/
def State.runDrain (s : State) (o : MatrixOp) : State :=
  let w := o.shape
  let z := o.z.toNat
  let n := drainCols w
  let at_ (i : Nat) : Nat := (drainRow0 w + i) * 256 + drainCol0 w
  let row (s : State) (i : Nat) : List (BitVec 8) × Flags5 :=
    let cs := (s.core.mat.accRun z (at_ i) n).map (drainElem (drainFmt w))
    (packElems ((fmtOf (drainFmt w)).getD .f32).width (cs.map (·.1)), cs.foldl (fun f c => f ||| c.2) 0)
  let clear (s : State) (i : Nat) : Option State :=
    if !drainClr w then some s
    else
      (if o.atS then some s else s.snapQuanta o.coord.key o.z (quantaOf (drainRow0 w + i) 1 (drainCol0 w) n)).map fun s =>
        s.onMat fun m => m.putRun z (at_ i) (List.replicate n 0)
  s.writeRows o (drainRows w) (drainStride w) row clear (drainRows w - o.next)

/-- An MSPILL goes on. -/
def State.runSpill (s : State) (o : MatrixOp) : State :=
  s.writeRows o 256 1024 (fun s i => (imageBytes (s.core.mat.accRun o.z.toNat (i * 256) 256), 0)) (fun s _ => some s) (256 - o.next)

/-- An MFILL goes on, by `fuel` blocks. -/
def State.runFill (s : State) (o : MatrixOp) : Nat → State
  | 0 => s.popMatrix o
  | fuel + 1 =>
    let b := 4096 - (fuel + 1)
    let a := o.addr + BitVec.ofNat 64 (64 * b)
    let o' := { o with next := b }
    match s.engineRead .M o.sup clsMX (a.getLsbD 63) a 64 with
    | .wait s => s.setHead o'
    | .fail c d v s => s.matrixFails o' c d (if a.getLsbD 63 then a else BitVec.ofNat 64 v)
    | .ok bs s =>
      match (if o.atS then some s else s.snapQuanta o.coord.key o.z (quantaOf (b / 16) 1 (b % 16 * 16) 16)) with
      | none => s.setHead o'
      | some s => State.runFill (s.onMat fun m => m.putRun o.z.toNat (16 * b) (lanesOf 16 bs)) o fuel

/-- Rows of resident blocks whose checksum cells disagree with their data cells (R272). -/
def MatrixState.badRows (m : MatrixState) (r : Resident) (kb0 nb : Nat) : Nat :=
  let per := cellsPer r.fmt.toNat
  ((List.range (nb * r.kept)).flatMap fun t =>
    let g := kb0 * r.rows + t * per
    let sums := sumsOf (m.rowOfB r (kb0 + t / r.kept) (t % r.kept)).ib
    (List.range per).filter fun i => rowSums (m.row (g + i)) != sums).length

/-- An MCSUM counts its failures; what one at or above the horizon adds is kept, so that a cut can withdraw it (R283, R285). -/
def State.countSums (s : State) (o : MatrixOp) (n : Nat) : State :=
  s.onMat fun m =>
    let t := m.addFails n
    if s.opKept o then { t with sums := t.sums ++ [(o.coord.key, t.chk.fails - m.chk.fails)] } else t

/-- Runs an operation of the kinds that have no waves; what stalls goes on at the next begin. -/
def State.runWhole (s : State) (o : MatrixOp) : State :=
  match o.kind with
  | .mzero =>
    match (if o.atS then some s else s.snapQuanta o.coord.key o.z (List.range 64)) with
    | none => s
    | some s => (s.onMat fun m => { m with acc := cellClear m.acc (o.z.toNat * 65536) 65536 }).popMatrix o
  | .mdrain => s.runDrain o
  | .mspill => s.runSpill o
  | .mfill => s.runFill o (4096 - o.next)
  | .mcsum =>
    let n := s.core.mat.badRows o.resident (loadKb0 o.shape) (loadNb o.shape)
    ((s.countSums o n).popMatrix o).tellWaiter .M o.waiter fun w => { w with done := some (BitVec.ofNat 64 n) }
  | _ => s

/-- What beginning an operation does to the registers: KNEXT counts the blocks of an MMA or an owned MMAC, and Z names its
accumulator (R245); a load marks the macros as written at its coordinate (R263), and clears them for a new resident B (R271). -/
def State.beginOp (s : State) (o : MatrixOp) : State :=
  let s := s.setHead { o with begun := true }
  match o.kind with
  | .mma | .mmac => if s.ownsAcc o then s.onMat fun m => { m with knext := 0, kz := o.z } else s
  | .mloadb => s.onMat fun m =>
      let m := if o.atS then m else { m with loadTop := max m.loadTop (o.coord.key + 1) }
      if loadNew o.shape then m.clearB else m
  | .mcsum => s
  | _ => s.onMat fun m => { m with kz := o.z }

/-- MATRIX_OP_BEGIN: the operation at the head begins once its draw units are held (R261); an operation without waves or blocks
runs. -/
def execMatrixOpBegin (s : State) : Host.Outcome State Fault Refusal :=
  .next (
    match s.core.mat.queue with
    | [] => s
    | o :: _ =>
      if !s.headRuns o then s
      else if o.begun then s.runWhole o
      else if s.saveHolds o then s
      else
        let u := if o.kind = .mma ∨ o.kind = .mmac then drawUnits o.resident o.span.fmt.toNat o.shape else 0
        let m := s.core.mat
        if m.held.toNat < u then s.requestUnits (u - m.held.toNat) o.coord
        else
          ((s.onMat fun m => { m with held := m.held - BitVec.ofNat 16 u }).beginOp o).runWhole { o with begun := true })

end Sys2Proof.Machine
end

