-- ==== Sys2Proof/Machine/MatrixItems.lean ====
section
/-!
DEFINITION. The matrix instructions: majors 0x15, 0x16 and 0x17 (R266 to R285).
-/
namespace Sys2Proof.Machine

/-! ## Checks -/

/-- The first check that fails, of checks in order: each with its condition of failure and its cause. -/
def firstFail : List (Bool × Res) → Option Res
  | [] => none
  | (b, r) :: rest => if b then some r else firstFail rest

/-- Runs a body when no check fails. -/
def guarded (l : List (Bool × Res)) (k : Res) : Res := (firstFail l).getD k

/-- MATRIX_SHAPE with a code (R268). -/
def badShape (c : BitVec 64) : Res := .fail cMatrixShape c
/-- MACRO_STATE with a code (R268). -/
def badMacro (c : BitVec 64) : Res := .fail cMacroState c
/-- SPARSE_SEED with a code (R258). -/
def badSeed (c : BitVec 64) : Res := .fail cSparseSeed c

/-- Whether an accumulator is lent for snapshots (R251). -/
def State.lent (s : State) (z : BitVec 3) : Bool := s.core.mat.zfree.getLsbD z.toNat

/-- The scalar register of a role S field of the M strand. -/
def State.mreg (s : State) (f : BitVec 7) : BitVec 64 := s.reg .M (scalarNo f)

/-- An operation as it enters the queue. -/
def State.newOp (s : State) (kind : MatrixKind) (z : BitVec 3) (shape addr : BitVec 64) : MatrixOp where
  kind := kind
  z := z
  shape := shape
  addr := addr
  span := ⟨0, false, 1, 0, [], 0, []⟩
  resident := s.core.mat.bstat
  prior := s.core.mat.bstat
  waiter := 0
  coord := (s.strand .M).coord
  atS := false
  sup := false
  begun := false
  next := 0
  held := false
  follow := none
  buffer := 0
  peers := []
  stepped := s.stepping .M
  stopAt := none

/-- Queues an operation, or waits for room. -/
def State.queueOp (s : State) (o : MatrixOp) : Res := if s.matrixRoom then .retire (s.pushMatrix o) else .wait s

/-- The slots `[HEAD + o, HEAD + o + n)` as an operation reads them. -/
def spanOf (d : BitVec 512) (r : RingAt) (o n : Nat) : SlotSpan :=
  let idx := (List.range n).map fun i => r.index r.ring.head.toNat (o + i)
  { fmt := BitVec.ofNat 4 (descFmt d), scaled := descScv d, elems := descE d
    home := r.home, slots := idx.map r.slotOff, ring := r.handle, indices := idx }

/-- The sparse header of an operand (R159): the one that came with its first slot, or, before that slot is full, the one that will. -/
def State.slotHeader (s : State) (t : Stream) (o : Nat) : BitVec 512 :=
  match s.ringOf (descRing t.desc) with
  | .ok r =>
    let i := r.index r.ring.head.toNat o
    if (s.slotState r i).full then kGet 0 s.pk.headers (r.key * 256 + i) else t.sparse
  | .error _ => t.sparse

/-- Waits for the slots that an operation reads and for room, fixes the slot indices, and queues it (R267). -/
def State.queueSlots (s : State) (d : BitVec 512) (r : RingAt) (o n : Nat) (k : SlotSpan → State → State) : Res :=
  if !s.matrixRoom then .wait s
  else s.awaitSlots .M r o n 0 (dataBytes d + if descScv d then 2 * (descE d / 64) else 0) fun s => .retire (k (spanOf d r o n) s)

/-! ## Major 0x15 (R274 to R277) -/

/-- Slots that an MMA reads. -/
def mmaSlots (w : BitVec 64) (elems : Nat) : Nat :=
  let perSlot := elems / (mmaKbn w * 64)
  (mmaRows w + perSlot - 1) / perSlot

/-- The checks 1 to 7 of R275. -/
def State.mmaChecks (s : State) (z : BitVec 3) (q : BitVec 4) (w : BitVec 64) (coop owner : Bool) (fmt : Nat) : List (Bool × Res) :=
  let b := s.core.mat.bstat
  [(w.extractLsb' 53 11 != 0 || mmaKbn w == 0 || (if coop then mmaPm1 w == 0 else w.extractLsb' 43 10 != 0), badShape 0x01),
   (!isMatrixFmt fmt, .fail cVectorShape (q.setWidth 64)),
   (!b.res, badMacro 0x01),
   (owner && s.lent z, badMacro 0x04),
   (decide (b.kblk.toNat < mmaKb0 w + mmaKbn w), badShape 0x02),
   (decide (b.nm1.toNat < mmaCols w - 1), badShape 0x03),
   (decide (256 < mmaRow0 w + mmaRows w), badShape 0x04)]

/-- The checks 10 and 11 of R275. -/
def State.mmaLate (s : State) (w : BitVec 64) (fmt : Nat) (spv : Bool) (h : BitVec 512) : List (Bool × Res) :=
  let b := s.core.mat.bstat
  let u := drawUnits b fmt w
  [(spv && b.spv && (headSeed h != b.seed || headDens h != b.dens || headBlk0 h != b.blk0), badSeed 0x02),
   (spv && !b.spv, badSeed 0x03),
   (decide (s.core.mat.ceil.toNat < u), .fail cDrawRefused (BitVec.ofNat 64 u))]

/-- The other participants of an MMAC that have issued theirs; none while one is missing (R277 item 1). -/
def State.peersOf (s : State) (w : BitVec 64) : Option (List PeerOffer) :=
  let want := ((List.range (mmaPm1 w + 1)).map (mmaLbase w + ·)).filter (· ≠ s.sys.lcore.toNat)
  let got := want.filterMap fun l => s.core.mat.peers.find? fun p => p.lcore.toNat == l && mmaLbase p.shape == mmaLbase w
  if got.length = want.length then some got else none

/-- Whether the participants' shapes and accumulators agree (R277 item 1). -/
def agrees (z : BitVec 3) (w : BitVec 64) (p : PeerOffer) : Bool :=
  mmaRows p.shape == mmaRows w && mmaCols p.shape == mmaCols w && mmaRow0 p.shape == mmaRow0 w && mmaZinit p.shape == mmaZinit w &&
    mmaPm1 p.shape == mmaPm1 w && p.z == z

/-- Whether the participants lie in one quench domain of level 2 or wider (R277 item 2). -/
def State.oneDomain (s : State) (w : BitVec 64) : Bool :=
  decide (2 ≤ s.sys.qlvl.toNat) && s.pk.domains.any fun d => d.ctx == s.sys.ctx && d.level == s.sys.qlvl &&
    (List.range (mmaPm1 w + 1)).all fun i => d.members.getLsbD (mmaLbase w + i)

/-- Whether the participants stand on distinct physical cores of one quad (R259). -/
def State.oneQuad (s : State) (w : BitVec 64) : Bool :=
  let es := (List.range (mmaPm1 w + 1)).map fun i => s.remapOf (mmaLbase w + i)
  let ps : List Nat := es.map fun e => e.pcore.toNat
  es.all (·.valid) && decide ps.Nodup && ps.all (fun p => p / 4 == s.pk.pcore.toNat / 4)

/-- The greater of two coordinates. -/
def Coord.max2 (a b : Coord) : Coord := if a.key < b.key then b else a

/-- The end of an MMAC's issue: scope, placement and the other participants. -/
def State.meetPeers (s : State) (z : BitVec 3) (w : BitVec 64) (k : List PeerOffer → Res) : Res :=
  if !(decide (mmaLbase w ≤ s.sys.lcore.toNat ∧ s.sys.lcore.toNat ≤ mmaLbase w + mmaPm1 w)) then badShape 0x08
  else if !s.oneDomain w then .fail cQuenchScope 0
  else if !s.oneQuad w then .fail cRemap 0
  else
    match s.peersOf w with
    | none => .wait s
    | some ps => if ps.all (agrees z w) then k ps else badShape 0x08

/-- After an MMAC whose participants differ, none is queued, and each has to issue its own again (R277 item 1). -/
def State.dropOffers (s : State) (w : BitVec 64) : State :=
  if s.last = .trapped cMatrixShape 0x08 0 ∧ mmaLbase w ≤ s.sys.lcore.toNat ∧ s.sys.lcore.toNat ≤ mmaLbase w + mmaPm1 w then
    s.onMat fun m => { m with peers := m.peers.filter fun p => mmaLbase p.shape != mmaLbase w }
  else s

/-- MMA and MMAC. -/
def multiply (s : State) (coop : Bool) (fz fq fs : BitVec 7) : State :=
  let z : BitVec 3 := fz.setWidth 3
  let q := selStream fq
  let st := at16 s.core.streams q
  let d := st.desc
  let w := s.mreg fs
  let o := selOffset fq
  runItem s 2 [.M] false (fq.getLsbD 6 && roleScalarCls fs) (decide (fz.toNat < 8) && roleScalarOk fs)
    (guarded (s.mmaChecks z q w coop (!coop || mmaLbase w == s.sys.lcore.toNat) (descFmt d))
      (if descE d % (mmaKbn w * 64) ≠ 0 then badShape 0x05
       else
         match s.ringOf (descRing d) with
         | .error (c, e) => .fail c e
         | .ok r =>
           let n := mmaSlots w (descE d)
           guarded ((decide (r.slots < n), badShape 0x06) :: s.mmaLate w (descFmt d) (descSpv d) (s.slotHeader st o))
             (let op := s.newOp (if coop then .mmac else .mma) z w 0
              if coop then
                s.meetPeers z w fun ps => s.queueSlots d r o n fun sp s =>
                  let c := (ps.map (·.coord)).foldl Coord.max2 op.coord
                  (s.onMat fun m => { m with peers := m.peers.filter fun p => !ps.contains p }).pushMatrix
                    { op with span := sp, peers := ps, coord := c }
              else s.queueSlots d r o n fun sp s => s.pushMatrix { op with span := sp })))

/-- MMA. -/
def execMma (z q sc : BitVec 7) (s : State) : Host.Outcome State Fault Refusal := .next (multiply s false z q sc)
/-- MMAC. -/
def execMmac (z q sc : BitVec 7) (s : State) : Host.Outcome State Fault Refusal := .next ((multiply s true z q sc).dropOffers (s.mreg sc))

/-! ## Major 0x16 (R269 to R273) -/

/-- The resident B that an MLOADB leaves (R271). -/
def Resident.loaded (b : Resident) (w : BitVec 64) (fmt : Nat) (spv : Bool) (h : BitVec 512) : Resident :=
  let last := loadKb0 w + loadNb w
  if loadNew w then
    { res := true, fmt := BitVec.ofNat 4 fmt, kblk := BitVec.ofNat 9 last, nm1 := loadNm1 w, spv := spv
      dens := if spv then headDens h else 0, seed := if spv then headSeed h else 0, blk0 := if spv then headBlk0 h else 0 }
  else { b with kblk := BitVec.ofNat 9 (max b.kblk.toNat last) }

/-- MLOADB. -/
def execMloadb (q sc : BitVec 7) (s : State) : Host.Outcome State Fault Refusal :=
  let n := selStream q
  let st := at16 s.core.streams n
  let d := st.desc
  let spv := descSpv d
  let w := s.mreg sc
  let o := selOffset q
  let h := s.slotHeader st o
  let b := s.core.mat.bstat
  let b' := b.loaded w (descFmt d) spv h
  let len := loadNb w * b'.kept
  .next (runItem s 2 [.M] false (q.getLsbD 6 && roleScalarCls sc) (roleScalarOk sc)
    (guarded
      [(w.extractLsb' 27 37 != 0 || loadNb w == 0, badShape 0x01),
       (!isMatrixFmt (descFmt d), .fail cVectorShape (n.setWidth 64)),
       (spv && headBad h, badSeed 0x01),
       (spv && descScv d, badShape 0x07),
       (!loadNew w && !b.res, badMacro 0x02),
       (!loadNew w && (BitVec.ofNat 4 (descFmt d) != b.fmt || spv != b.spv ||
         (spv && (headSeed h != b.seed || headDens h != b.dens || headBlk0 h != b.blk0))), badShape 0x07),
       (!loadNew w && loadNm1 w != b.nm1, badShape 0x03),
       (descE d % len != 0, badShape 0x05)]
      (match s.ringOf (descRing d) with
       | .error (c, e) => .fail c e
       | .ok r =>
         let slots := (((loadNm1 w).toNat + 1) * len + descE d - 1) / descE d
         guarded [(decide (r.slots < slots), badShape 0x06), (decide (b'.capacity < loadKb0 w + loadNb w), badShape 0x02)]
           (s.queueSlots d r o slots fun sp s =>
             (s.onMat fun m => { m with bstat := b' }).pushMatrix { s.newOp .mloadb 0 w 0 with span := sp, resident := b' }))))

/-- MCSUM: it is queued, and retires when its count is written. -/
def execMcsum (d sc : BitVec 7) (s : State) : Host.Outcome State Fault Refusal :=
  let w := s.mreg sc
  let b := s.core.mat.bstat
  .next (runItem s 2 [.M] false (roleScalarCls d && roleScalarCls sc) (roleScalarOk d && roleScalarOk sc)
    (match (s.strand .M).amo with
     | some a => s.atomicResult .M a
     | none =>
       guarded
         [(w.extractLsb' 18 46 != 0 || loadNb w == 0, badShape 0x01),
          (!b.res, badMacro 0x01),
          (decide (b.kblk.toNat < loadKb0 w + loadNb w), badShape 0x02)]
         (if !s.matrixRoom then .wait s
          else
            let id := s.core.nextEntry
            let s := s.onCore fun c => { c with nextEntry := id + 1 }
            let s := s.pushMatrix { s.newOp .mcsum 0 w 0 with waiter := id }
            .wait (s.onStrand .M fun t => { t with amo := some ⟨id, scalarNo d, if s.dry then 0 else 2, none, 0, none⟩ }))))

/-- MSEED. -/
def execMseed (d a b : BitVec 7) (s : State) : Host.Outcome State Fault Refusal :=
  let x := s.mreg a
  let y := s.mreg b
  let dens : BitVec 2 := x.extractLsb' 32 2
  .next (runItem s 2 [.M] false (roleScalarCls d && roleScalarCls a && roleScalarCls b)
    (roleScalarOk d && roleScalarOk a && roleScalarOk b)
    (if x.extractLsb' 34 30 ≠ 0 ∨ y.extractLsb' 32 32 ≠ 0 then .fail cOperandRange 0x30
     else if dens = 0 then badSeed 0x01
     else .retire (s.putReg .M (scalarNo d)
       ((keptRows (x.setWidth 32) dens (y.setWidth 32)).foldl (fun (v : BitVec 64) t => v ||| flagBit 64 true t) 0))))

/-! ## Major 0x17 (R279 to R284) -/

/-- MZERO. -/
def execMzero (z : BitVec 7) (s : State) : Host.Outcome State Fault Refusal :=
  let n : BitVec 3 := z.setWidth 3
  .next (runItem s 2 [.M] false true (decide (z.toNat < 8))
    (if s.lent n then badMacro 0x04 else s.queueOp (s.newOp .mzero n 0 0)))

/-- Goes on when `len` bytes from a scratchpad address on lie below B; else SCRATCH_BOUNDS names the first byte that does not
(R155, R172). -/
def State.inBounds (s : State) (p : Nat) (w : BitVec 32) (need : Need) (size len : Nat) (a : BitVec 64) (k : Res) : Res :=
  if s.scratchOk false p (scratchOff w) len then k
  else .trap cScratchBounds (accessBits need size true) (a + BitVec.ofNat 64 (s.scratchB p - scratchOff w))

/-- The check of one written row of `len` bytes of units of `size` bytes (R171 steps 1, 3 and 5). -/
def State.checkRow (s : State) (size len : Nat) (a : BitVec 64) (k : State → Res) : Res :=
  match s.checkAddr .M a .write size 1 with
  | .error b => .trap b.cause b.detail b.addr
  | .ok (.scratch p w) => s.inBounds p w .write size len a (k s)
  | .ok (.global va) =>
    if 2 ^ 56 < va + len then .trap cOperandRange 0x10 a
    else
      match s.checkWrite pathCore false .write va len with
      | .wait s => .wait s
      | .fail f bits v _ => .trap f (faultDetail f bits .write size) (BitVec.ofNat 64 v)
      | .ok s => k s

/-- The checks of the rows from row `i` on. -/
def State.checkRows (s : State) (size len stride : Nat) (a : BitVec 64) : Nat → (State → Res) → Res
  | 0, k => k s
  | fuel + 1, k => s.checkRow size len a fun s => State.checkRows s size len stride (a + BitVec.ofNat 64 stride) fuel k

/-- MDRAIN. -/
def execMdrain (z a b : BitVec 7) (s : State) : Host.Outcome State Fault Refusal :=
  let n : BitVec 3 := z.setWidth 3
  let w := s.mreg b
  let addr := s.mreg a
  let fmt := drainFmt w
  let unit := unitBytes fmt
  .next (runItem s 2 [.M] false (roleScalarCls a && roleScalarCls b) (decide (z.toNat < 8) && roleScalarOk a && roleScalarOk b)
    (guarded
      [(w.extractLsb' 37 3 != 0, badShape 0x01),
       (decide (256 < drainRow0 w + drainRows w ∨ 256 < drainCol0 w + drainCols w), badShape 0x04),
       (decide (4 < fmt) || (fmt == 4 && drainCols w % 2 == 1), badShape 0x09),
       (drainClr w && s.lent n, badMacro 0x04),
       (decide (addr.toNat % unit ≠ 0 ∨ drainStride w % unit ≠ 0), .trap cDataAlign (accessBits .write unit (addr.getLsbD 63)) addr)]
      (s.checkRows unit (drainBytes w) (drainStride w) addr (drainRows w) fun s => s.queueOp (s.newOp .mdrain n w addr))))

/-- MSPILL. -/
def execMspill (z a : BitVec 7) (s : State) : Host.Outcome State Fault Refusal :=
  let n : BitVec 3 := z.setWidth 3
  let addr := s.mreg a
  .next (runItem s 2 [.M] false (roleScalarCls a) (decide (z.toNat < 8) && roleScalarOk a)
    (if addr.toNat % 64 ≠ 0 then .trap cDataAlign (accessBits .write 64 (addr.getLsbD 63)) addr
     else s.checkRows 64 1024 1024 addr 256 fun s => s.queueOp (s.newOp .mspill n 0 addr)))

/-- MFILL. -/
def execMfill (z a : BitVec 7) (s : State) : Host.Outcome State Fault Refusal :=
  let n : BitVec 3 := z.setWidth 3
  let addr := s.mreg a
  .next (runItem s 2 [.M] false (roleScalarCls a) (decide (z.toNat < 8) && roleScalarOk a)
    (if s.lent n then badMacro 0x04
     else if addr.toNat % 64 ≠ 0 then .trap cDataAlign (accessBits .read 64 (addr.getLsbD 63)) addr
     else
       match s.checkAddr .M addr .read 64 64 with
       | .error b => .trap b.cause b.detail b.addr
       | .ok (.scratch p w) => s.inBounds p w .read 64 262144 addr (s.queueOp (s.newOp .mfill n 0 addr))
       | .ok (.global va) =>
         if 2 ^ 56 < va + 262144 then .trap cOperandRange 0x10 addr else s.queueOp (s.newOp .mfill n 0 addr)))

/-- MSTAT (R282). -/
def execMstat (d : BitVec 7) (s : State) : Host.Outcome State Fault Refusal :=
  let m := s.core.mat
  let own := m.queue.filter (·.follow.isNone)
  .next (runItem s 2 [.M] false (roleScalarCls d) (roleScalarOk d)
    (.retire (s.putReg .M (scalarNo d)
      (flagBit 64 (!own.isEmpty) 0 ||| flagBit 64 (own.any fun o => o.kind == .mdrain || o.kind == .mspill) 1 |||
        place 64 m.knext 2 ||| flagBit 64 m.active 11 ||| place 64 (BitVec.ofNat 3 m.queued) 12 |||
        flagBit 64 (m.pendUnits != 0) 15))))

/-- MCHK (R283). -/
def execMchk (d : BitVec 7) (s : State) : Host.Outcome State Fault Refusal :=
  let m := s.core.mat
  let f := m.chk.fails - m.chkBase.fails
  .next (runItem s 2 [.M] false (roleScalarCls d) (roleScalarOk d)
    (if m.queue.any fun o => o.follow.isNone && !o.held then .wait s
     else .retire ((s.onMat fun m => { m with chkBase := m.chk }).putReg .M (scalarNo d)
       (place 64 (m.chk.blocks - m.chkBase.blocks) 0 ||| place 64 f 32 ||| flagBit 64 (f != 0) 63))))

/-- DRAW and DRAW.W (R284): CEIL is compared as the item issues, and not again while it waits for its units (R422). -/
def drawAhead (s : State) (a : BitVec 7) (waits : Bool) : State :=
  let v := s.mreg a
  let u := v.toNat
  let m := s.core.mat
  let t := s.strand .M
  let me : Option (BitVec 16 × BitVec 32 × BitVec 16) := some (t.pc, t.remain, v.setWidth 16)
  let ends (s : State) : State := s.onMat fun m => { m with drawing := none }
  runItem s 2 [.M] false (roleScalarCls a) (roleScalarOk a)
    (if u = 0 ∨ v.extractLsb' 16 48 ≠ 0 then .fail cOperandRange 0x31
     else if m.ceil.toNat < u ∧ m.drawing ≠ me then .fail cDrawRefused v
     else if u ≤ m.held.toNat then .retire (ends s)
     else
       let s := s.requestUnits (u - m.held.toNat) t.coord
       if waits then .wait (s.onMat fun m => { m with drawing := me }) else .retire (ends s))

/-- DRAW. -/
def execDraw (a : BitVec 7) (s : State) : Host.Outcome State Fault Refusal := .next (drawAhead s a false)
/-- DRAW.W. -/
def execDrawW (a : BitVec 7) (s : State) : Host.Outcome State Fault Refusal := .next (drawAhead s a true)

end Sys2Proof.Machine
end

