-- ==== Sys2Proof/Machine/Parcels.lean ====
section
/-!
DEFINITION. Parcels: handles, records, leaves and inboxes, and major 0x19 but for POST (R316 to R332).
-/
namespace Sys2Proof.Machine

/-! ## Pages -/

/-- The first number from `n` on that satisfies a test, among `fuel`. -/
def firstNat (p : Nat → Bool) : Nat → Nat → Option Nat
  | 0, _ => none
  | fuel + 1, n => if p n then some n else firstNat p fuel (n + 1)

/-- Bytes of a page. -/
abbrev pageBytes : Nat := 65536

/-- The virtual addresses of `n` pages from `va` on. -/
def pageAddrs (va n : Nat) : List Nat := (List.range n).map fun i => va + i * pageBytes

/-- Every path forgets the running context's translations of a range at once. -/
def State.forget (s : State) (va bytes : Nat) : State :=
  s.onMu fun m => { m with tlb := m.tlb.filter fun e => !(e.ctx == s.sys.ctx && decide (e.base < va + bytes ∧ va < e.base + e.leaf.size)) }

/-- A leaf with fields replaced: `clear` names the bits that change, `set` what they become. -/
def leafWith (e clear set : BitVec 128) : BitVec 128 := (e &&& ~~~clear) ||| set

/-- PV and PID of a leaf. -/
def leafOwner : BitVec 128 := place 128 (0x1FFFF#17) 24
/-- APER of a leaf. -/
def leafAperMask : BitVec 128 := 0x70

/-- The distinct leaves of the pages of a range that have one: address and entry. -/
def State.leavesOf (s : State) (va n : Nat) : List (Nat × BitVec 128) :=
  (pageAddrs va n).foldl (fun l a =>
    match s.walk a with
    | .ok (pa, e, _) => if kHas l pa then l else l ++ [(pa, e)]
    | .error _ => l) []

/-! ## Records and their undo (R318, R331) -/

/-- The 128 bits of a record (R318). -/
def Parcel.bits (p : Parcel) : BitVec 128 :=
  let st : BitVec 3 := match p.state with | .freed => 0 | .opened => 1 | .sealed => 2 | .inTransit => 3 | .bound => 4
  place 128 st 0 ||| place 128 p.gen 3 ||| place 128 p.bpn 19 ||| place 128 p.xm1 51

/-- Base address of a parcel. -/
def Parcel.base (p : Parcel) : Nat := p.bpn.toNat * pageBytes
/-- Pages of a parcel. -/
def Parcel.pages (p : Parcel) : Nat := p.xm1.toNat + 1
/-- Extent of a parcel in bytes. -/
def Parcel.extent (p : Parcel) : Nat := p.pages * pageBytes

/-- The record of a parcel id of the running context. -/
def State.parcel (s : State) (pid : Nat) : Parcel := kGet Parcel.zero s.pk.parcels (s.parcelKey pid)

/-- Whether strand `x` can log `n` more changes. -/
def State.undoRoom (s : State) (x : StrandId) (n : Nat) : Bool := !s.kept x (s.strand x).coord || s.slagRoom n

/-- Logs the pre-image of a change to parcel state when it is kept (R331). -/
def State.logParcel (s : State) (x : StrandId) (loc : Nat) (old : BitVec 128) (undo : ParcelUndo) : State :=
  let c := (s.strand x).coord
  if s.kept x c then
    s.slagAdd { kind := .parcel, strand := x, loc := BitVec.ofNat 32 loc, cell := loc, mask := 0xFFFF, coord := c
                data := old.setWidth 512, undo := undo, slot := 0 }
  else s

/-- Writes a record. `keepGen` says that a cut keeps the new GEN. -/
def State.putParcel (s : State) (x : StrandId) (pid : Nat) (p : Parcel) (keepGen : Bool) : State :=
  let key := s.parcelKey pid
  let old := kGet Parcel.zero s.pk.parcels key
  (s.logParcel x key old.bits (.record key old keepGen)).onPk fun k => { k with parcels := kSet k.parcels key p }

/-- Writes leaves, each with its pre-image logged, and forgets the translations of their range. -/
def State.putLeaves (s : State) (x : StrandId) (va n : Nat) (l : List (Nat × BitVec 128 × BitVec 128)) : State :=
  (l.foldl (fun s (pa, old, new) => (s.logParcel x pa old (.leaf pa old)).physPut pa (toBytes 16 new)) s).forget va (n * pageBytes)

/-- The lowest FREED parcel id that may be taken (R322, R331). -/
def State.freePid (s : State) : Option Nat :=
  firstNat (fun n => (s.parcel n).state == .freed && !s.pk.frozen.any (fun f => f.1 == s.parcelKey n)) 65536 0

/-- The next generation: it skips 0 (R316). -/
def nextGen (g : BitVec 16) : BitVec 16 := if g + 1 = 0 then 1 else g + 1

/-! ## Handles (R316, R323) -/

def handlePid (h : BitVec 64) : Nat := (h.extractLsb' 48 16).toNat
def handleGen (h : BitVec 64) : BitVec 16 := h.extractLsb' 0 16
/-- The handle of a parcel. -/
def handleOf (pid : Nat) (p : Parcel) : BitVec 64 := place 64 (BitVec.ofNat 16 pid) 48 ||| place 64 p.bpn 16 ||| place 64 p.gen 0
/-- PID and GEN as a reference carries them. -/
def handleTag (h : BitVec 64) : BitVec 32 := h.extractLsb' 48 16 ++ handleGen h

/-- The record of a handle, which must be the current one. -/
def State.byHandle (s : State) (h : BitVec 64) (k : Parcel → Res) : Res :=
  let p := s.parcel (handlePid h)
  if handleGen h = 0 ∨ p.gen ≠ handleGen h ∨ p.state = .freed then .fail cParcelState 0x01 else k p

/-- The strands major 0x19 is legal in. -/
abbrev parcelStrands : List StrandId := [.K, .A]

/-! ## POPEN (R322) -/

/-- The check of a page that is to become part of a parcel. -/
def State.openFault (s : State) (x : StrandId) (va : Nat) : Option Res :=
  match s.walk va with
  | .error f => some (.trap f.cause f.bits (BitVec.ofNat 64 va))
  | .ok (_, e, level) =>
    match permits e level (s.atS x) .write with
    | some f => some (.trap f.cause f.bits (BitVec.ofNat 64 va))
    | none => if leafAper e = 1 ∨ leafAper e = 2 then none else some (.trap cAperture 0 (BitVec.ofNat 64 va))

/-- POPEN. -/
def execPopen (d a b : BitVec 6) (s : State) : Host.Outcome State Fault Refusal :=
  let x := s.cur
  let va := (s.reg x a).toNat
  let len := (s.reg x b).toNat
  let n := len / pageBytes
  .next (runItem s 2 parcelStrands false (regOk x d && regOk x a && regOk x b) true
    (if va % pageBytes ≠ 0 ∨ 2 ^ 48 ≤ va ∨ len = 0 ∨ len % pageBytes ≠ 0 ∨ 2 ^ 32 < len then .fail cOperandRange 0x50
     else
       match (pageAddrs va n).findSome? (s.openFault x) with
       | some r => r
       | none =>
         let leaves := s.leavesOf va n
         if leaves.any fun l => leafPV l.2 then .fail cParcelState 0x04
         else
           match s.freePid with
           | none => .fail cParcelState 0x03
           | some pid =>
             let p : Parcel := ⟨.opened, nextGen (s.parcel pid).gen, BitVec.ofNat 32 (va / pageBytes), BitVec.ofNat 16 (n - 1)⟩
             if !s.undoRoom x (1 + leaves.length) then .wait s
             else
               let owner := flagBit 128 true 24 ||| place 128 (BitVec.ofNat 16 pid) 25
               let s := s.putParcel x pid p true
               let s := s.putLeaves x va n (leaves.map fun (pa, e) => (pa, e, leafWith e leafOwner owner))
               .retire (s.putReg x d (handleOf pid p))))

/-! ## PLD, PST, PSTREF and PMKREF (R323) -/

/-- The checks of a reference for an access of `size` bytes; then the address. -/
def State.byRef (s : State) (need : Need) (h r : BitVec 64) (size : Nat) (k : BitVec 64 → Res) : Res :=
  s.byHandle h fun p =>
    let off := (r.extractLsb' 0 32).toNat
    let ea := BitVec.ofNat 64 (p.base + off)
    if r.extractLsb' 32 32 ≠ 0 ∧ r.extractLsb' 32 32 ≠ handleTag h then .trap cParcelEscape 0x04 ea
    else if off % size ≠ 0 then .trap cDataAlign (accessBits need size false) ea
    else if p.extent < off + size then .trap cParcelEscape 0x01 ea
    else k ea

/-- PLD. -/
def execPld (d a b : BitVec 6) (m : BitVec 3) (s : State) : Host.Outcome State Fault Refusal :=
  let x := s.cur
  let size := match m.toNat with | 0 | 4 => 1 | 1 | 5 => 2 | 2 | 6 => 4 | _ => 8
  .next (runItem s 2 parcelStrands false (regOk x d && regOk x a && regOk x b) true
    (s.byRef .read (s.reg x a) (s.reg x b) size fun ea =>
      s.load x ea size fun bs s => .retire (s.putReg x d (extendTo (decide (m.toNat < 3)) bs))))

/-- PST. -/
def execPst (d a b : BitVec 6) (m : BitVec 2) (s : State) : Host.Outcome State Fault Refusal :=
  let x := s.cur
  let size := 2 ^ m.toNat
  .next (runItem s 2 parcelStrands false (regOk x d && regOk x a && regOk x b) true
    (s.byRef .write (s.reg x a) (s.reg x b) size fun ea => s.store x ea (toBytes size (s.reg x d)) .store 0 .retire))

/-- PSTREF. -/
def execPstref (d a b : BitVec 6) (s : State) : Host.Outcome State Fault Refusal :=
  let x := s.cur
  let h := s.reg x a
  let v := s.reg x d
  .next (runItem s 2 parcelStrands false (regOk x d && regOk x a && regOk x b) true
    (s.byRef .write h (s.reg x b) 4 fun ea =>
      if v ≠ 0xFFFFFFFF ∧ v.extractLsb' 32 32 ≠ handleTag h then
        -- the page is checked first: steps 4 and 5 of R171
        match s.checkWrite pathCore (s.atS x) .write ea.toNat 4 with
        | .wait s => .wait s
        | .fail f bits va _ => .trap f (faultDetail f bits .write 4) (BitVec.ofNat 64 va)
        | .ok _ => .trap cParcelEscape 0x03 ea
      else s.store x ea (toBytes 4 v) .store 0 .retire))

/-- PMKREF. -/
def execPmkref (d a b : BitVec 6) (s : State) : Host.Outcome State Fault Refusal :=
  let x := s.cur
  let h := s.reg x a
  let r := s.reg x b
  .next (runItem s 2 parcelStrands false (regOk x d && regOk x a && regOk x b) true
    (s.byHandle h fun p =>
      if p.state = .inTransit then .fail cParcelTransit 0x01
      else if r.toNat < p.base ∨ p.base + p.extent ≤ r.toNat then .trap cParcelEscape 0x02 r
      else .retire (s.putReg x d (place 64 (handleTag h) 32 ||| BitVec.ofNat 64 (r.toNat - p.base)))))

/-! ## PSEAL and PFREE (R324, R329) -/

/-- PSEAL. -/
def execPseal (a : BitVec 6) (s : State) : Host.Outcome State Fault Refusal :=
  let x := s.cur
  let h := s.reg x a
  .next (runItem s 2 parcelStrands false (regOk x a) true
    (s.byHandle h fun p =>
      if p.state ≠ .opened ∧ p.state ≠ .bound then .fail cParcelState 0x02
      else if !s.undoRoom x 1 then .wait s
      else .retire (s.putParcel x (handlePid h) { p with state := .sealed } false)))

/-- PFREE. -/
def execPfree (a : BitVec 6) (s : State) : Host.Outcome State Fault Refusal :=
  let x := s.cur
  let h := s.reg x a
  let pid := handlePid h
  let c := (s.strand x).coord
  .next (runItem s 2 parcelStrands false (regOk x a) true
    (s.byHandle h fun p =>
      if p.state = .inTransit then .fail cParcelState 0x02
      else
        let leaves := (s.leavesOf p.base p.pages).filter fun l => leafPV l.2 && leafPid l.2 == pid
        if !s.undoRoom x (1 + leaves.length) then .wait s
        else
          let frozen := s.kept x c
          let s := s.putParcel x pid { p with state := .freed } false
          let s := s.putLeaves x p.base p.pages (leaves.map fun (pa, e) => (pa, e, leafWith e leafOwner 0))
          .retire (if frozen then s.onPk fun k => { k with frozen := k.frozen ++ [(s.parcelKey pid, c)] } else s)))

/-! ## PRECV (R327, R328) -/

/-- The inbox of the running context. -/
def State.inboxKey (s : State) (n : Nat) : Nat := s.sys.ctx.toNat * 256 + n
/-- An inbox. -/
def State.inbox (s : State) (n : Nat) : Inbox := kGet Inbox.zero s.pk.inboxes (s.inboxKey n)
/-- Replaces an inbox. -/
def State.putInbox (s : State) (n : Nat) (i : Inbox) : State := s.onPk fun k => { k with inboxes := kSet k.inboxes (s.inboxKey n) i }

/-- The leaf that maps a landing frame (R328). -/
def boundLeaf (key : BitVec 7) (pid : Nat) (frame : BitVec 36) : BitVec 128 :=
  let aper : BitVec 3 := if inHbm (frame.toNat * pageBytes) then 1 else 2
  0x183#128 ||| place 128 aper 4 ||| place 128 key 14 ||| flagBit 128 true 24 ||| place 128 (BitVec.ofNat 16 pid) 25 |||
    place 128 frame 64

/-- The leaf of a page of the destination range: its address and entry when it is one that PRECV may write. -/
def State.freeLeaf (s : State) (va : Nat) : Option (Nat × BitVec 128) :=
  match s.walk va with
  | .ok (pa, e, 3) => if leafAper e = 0 then some (pa, e) else none
  | _ => none

/-- Whether a page is mapped. -/
def State.mapped (s : State) (va : Nat) : Bool :=
  match s.walk va with
  | .ok (_, e, _) => leafAper e != 0
  | .error _ => false

/-- Binds the oldest landed parcel of an inbox at a base. -/
def State.receive (s : State) (x : StrandId) (n : Nat) (va : Nat) (l : Landed) (d : BitVec 6) : Res :=
  let c := (s.strand x).coord
  let pages := pageAddrs va (l.xm1.toNat + 1)
  if pages.any s.mapped then .fail cParcelState 0x05
  else
    match s.freePid with
    | none => .fail cParcelState 0x03
    | some pid =>
      match pages.find? fun a => (s.freeLeaf a).isNone with
      | some a => .trap cPageAbsent (WalkFail.bits ⟨cPageAbsent, 1, 3, 0⟩) (BitVec.ofNat 64 a)
      | none =>
        let leaves := pages.filterMap s.freeLeaf
        if !s.undoRoom x (2 + leaves.length) then .wait s
        else
          let p : Parcel := ⟨.bound, nextGen (s.parcel pid).gen, BitVec.ofNat 32 (va / pageBytes), l.xm1⟩
          let i := s.inbox n
          let keep := s.kept x c
          let s := (s.logParcel x (s.inboxKey n) 0 (.inbox (s.inboxKey n) l)).putInbox n { i with landed := i.landed.drop 1 }
          let s := s.putParcel x pid p false
          let s := s.putLeaves x va (l.xm1.toNat + 1)
            ((List.zip leaves l.frames).map fun ((pa, e), f) => (pa, e, boundLeaf i.key pid f))
          let s := if keep then s.onPk fun k => { k with notices := k.notices ++ [(s.parcelKey pid, c, l)] } else s.sendNotice l
          .retire ((s.acquire x 7).putReg x d (handleOf pid p))

/-- PRECV and PRECV.W. -/
def receiveItem (s : State) (d a b : BitVec 6) (waits : Bool) : State :=
  let x := s.cur
  let n := s.reg x a
  let va := (s.reg x b).toNat
  runItem s 2 parcelStrands false (regOk x d && regOk x a && regOk x b) true
    (if n.extractLsb' 8 56 ≠ 0 ∨ va % pageBytes ≠ 0 ∨ 2 ^ 48 ≤ va then .fail cOperandRange 0x51
     else
       let i := s.inbox n.toNat
       if !i.enabled then .fail cParcelState 0x06
       else match i.landed with
         | [] => if waits then .wait s else .retire (s.putReg x d 0)
         | l :: _ => s.receive x n.toNat va l d)

/-- PRECV. -/
def execPrecv (d a b : BitVec 6) (s : State) : Host.Outcome State Fault Refusal := .next (receiveItem s d a b false)
/-- PRECV.W. -/
def execPrecvW (d a b : BitVec 6) (s : State) : Host.Outcome State Fault Refusal := .next (receiveItem s d a b true)

/-! ## The landing area (R367) -/

/-- Returns frames to the area of the inbox that k.pinsel selects, oldest first. -/
def State.returnFrames (s : State) (n : Nat) : State :=
  let i := s.inbox s.sys.pinsel.toNat
  let k := min n i.used.toNat
  s.putInbox s.sys.pinsel.toNat { i with inUse := i.inUse.drop k }

/-- PLRING_RETURN. -/
def execPlringReturn (n : BitVec 32) (s : State) : Host.Outcome State Fault Refusal :=
  .next (s.returnFrames (n.toNat % 2 ^ 20))

end Sys2Proof.Machine
end

