-- ==== Sys2Proof/Machine/Copy.lean ====
section
/-!
DEFINITION. Copy engines: chain records, major 0x18, the walk of a chain and its COPY, RREDUCE, ROUTE, BARRIER, SIGNAL,
LOOP, COND and END entries, remote transfers and follow-on MMAs (R291 to R315). Entries are performed one after another.
-/
namespace Sys2Proof.Machine

/-! ## Chain records (R294) -/

/-- A chain record. -/
def State.chain (s : State) (tag : BitVec 6) : Chain := at64 s.pk.chains tag
/-- Replaces a chain record. -/
def State.putChain (s : State) (tag : BitVec 6) (c : Chain) : State := s.onPk fun k => { k with chains := put64 k.chains tag c }

/-- Whether a record may be allocated: it is free, or its chain is DONE. -/
def Chain.isFree (c : Chain) : Bool := c.state == .free || c.state == .done

/-- The lowest record that may be allocated. -/
def State.freeChain (s : State) : Option (BitVec 6) :=
  (List.range 64).findSome? fun i => if (s.chain (BitVec.ofNat 6 i)).isFree then some (BitVec.ofNat 6 i) else none

/-- Chains HELD and QUEUED at the port. -/
def State.portCount (s : State) : Nat := (s.pk.chains.toList.filter fun c => c.state == .held || c.state == .queued).length

/-- The number of a chain's strand in a ticket. -/
def strOf (x : StrandId) : BitVec 2 := if x = .A then 1 else 0

/-- The ticket of a record. -/
def ticketOf (tag : BitVec 6) (c : Chain) : BitVec 64 := place 64 tag 0 ||| place 64 (strOf c.str) 6 ||| place 64 c.gen 8

/-- k.cpport (R292). -/
def State.cpport (s : State) : BitVec 64 :=
  let n (p : Chain → Bool) : BitVec 64 := BitVec.ofNat 64 (s.pk.chains.toList.filter p).length
  n (·.state == .held) ||| (n (·.state == .queued)) <<< 6 ||| (n fun c => !c.isFree) <<< 12

/-- Starts a chain of strand `x` in a free record (R295, R297): HELD, or QUEUED at S. -/
def State.startChain (s : State) (x : StrandId) (tag : BitVec 6) (head : Nat) (post : Option (BitVec 64 × BitVec 64)) :
    BitVec 64 × State :=
  let atS := s.atS x
  let c : Chain := { Chain.zero with
    state := if atS then .queued else .held, str := x, gen := (s.chain tag).gen + 1, head := BitVec.ofNat 22 head, p := head
    coord := (s.strand x).coord, atS := atS, sup := atS, posting := post.isSome, det := s.sys.det, after := (s.strand x).seq, upto := s.core.nextEntry, post := post
    num := s.core.nextEntry, stepped := s.stepping x }
  let s := s.onCore fun k => { k with nextEntry := k.nextEntry + 1 }
  let s := s.putChain tag c
  (ticketOf tag c, if atS then (s.settlePaths allClasses (1#5 <<< clsCP)).onPk fun k => { k with engineQueue := k.engineQueue ++ [tag] } else s)

/-- Whether strand `x` may start a chain, which is a release at a scope (R39): at T the chain waits at the port for the stores before
it (R296); at S it goes to an engine at once, so that CPGO or POST waits for them, but for the HELD ones (R297). -/
def State.startReady (s : State) (x : StrandId) (scope : Nat) : Bool := if s.atS x then s.releaseDone x scope else s.engineQuiet x

/-- Allocates a record when the port has room; a CPGO stalls otherwise (R291). -/
def State.withRecord (s : State) (k : BitVec 6 → Res) : Res :=
  match s.freeChain with
  | some tag => if 32 ≤ s.portCount then .wait s else k tag
  | none => .wait s

/-! ## CPGO, CPWAIT, CPSTAT and CPKILL (R293 to R299) -/

/-- The strands majors 0x18 and 0x19 are legal in. -/
abbrev copyStrands : List StrandId := [.K, .A]

/-- CPGO. -/
def execCpgo (a d : BitVec 6) (s : State) : Host.Outcome State Fault Refusal :=
  let x := s.cur
  .next (runItem s 2 copyStrands false (regOk x a && regOk x d) true
    (match s.checkAddr x (s.reg x a) .read 64 64 with
     | .error b => .trap b.cause b.detail b.addr
     | .ok (.global _) => .fail cOperandRange 0x41
     | .ok (.scratch _ w) =>
       if !w.getLsbD 30 && w.extractLsb' 22 8 != s.sys.lcore then .fail cOperandRange 0x41
       else if !s.startReady x 4 then .wait s
       else s.withRecord fun tag =>
         let (t, s) := s.startChain x tag (scratchOff w) none
         .retire (s.putReg x d t)))

/-- A ticket's fields are legal. -/
def ticketOk (t : BitVec 64) : Bool := t.extractLsb' 16 48 == 0 && !t.getLsbD 7

/-- The record of a ticket, unless it is GONE. -/
def State.ofTicket (s : State) (t : BitVec 64) : Option Chain :=
  let c := s.chain (t.setWidth 6)
  if c.gen ≠ t.extractLsb' 8 8 ∨ c.state = .free then none else some c

/-- The status word of a ticket. DESIGN CHOICE: of a CPGO that a cut discards, a copy of the ticket keeps the bits that were written, and
reads GONE for ever; R315 has it an open value (log 7). -/
def State.ticketStatus (s : State) (t : BitVec 64) : BitVec 64 :=
  match s.ofTicket t with
  | none => 6
  | some c =>
    let entry : BitVec 64 := BitVec.ofNat 64 (c.p / 64) <<< 16
    let eng := place 64 c.engine 8
    match c.state with
    | .held => 0 | .queued => 1 | .run => 2 ||| eng ||| entry | .fault => 3 ||| eng ||| entry | .done => 4 ||| eng ||| entry
    | .killed => 5 ||| eng ||| entry | .free => 6

/-- A report frees a KILLED record. -/
def State.freeKilled (s : State) (t : BitVec 64) : State :=
  let tag : BitVec 6 := t.setWidth 6
  match s.ofTicket t with
  | some c => if c.state = .killed then s.putChain tag { c with state := .free } else s
  | none => s

/-- CPWAIT. -/
def execCpwait (t d : BitVec 6) (s : State) : Host.Outcome State Fault Refusal :=
  let x := s.cur
  let v := s.reg x t
  .next (runItem s 2 copyStrands false (regOk x t && regOk x d) true
    (if !ticketOk v then .fail cOperandRange 0x42
     else
       let report : Res := .retire ((s.freeKilled v).putReg x d (s.ticketStatus v))
       match s.ofTicket v with
       | none => report
       | some c =>
         match c.state with
         | .done | .killed | .free => report
         | .held => if !c.atS && decide ((s.strand x).coord.key ≤ c.coord.key) then .fail cOperandRange 0x40 else .wait s
         | _ => .wait s))

/-- CPSTAT. -/
def execCpstat (t d : BitVec 6) (s : State) : Host.Outcome State Fault Refusal :=
  let x := s.cur
  let v := s.reg x t
  .next (runItem s 2 copyStrands false (regOk x t && regOk x d) true
    (if !ticketOk v then .fail cOperandRange 0x42 else .retire ((s.freeKilled v).putReg x d (s.ticketStatus v))))

/-! ## Posts that end early (R326, R299) -/

/-- The record key and record of the parcel that a handle names, whatever its state. -/
def State.postParcel (s : State) (h : BitVec 64) : Nat × Parcel := (s.parcelKey (handlePid h), s.parcel (handlePid h))

/-- Gives the leaf at an address the aperture of another leaf, and leaves its other fields as they stand. -/
def State.putAper (s : State) (pa : Nat) (aper : BitVec 128) : State :=
  s.physPut pa (toBytes 16 (leafWith (s.entryAt pa) leafAperMask (aper &&& leafAperMask)))

/-- The parcel of a failed or killed post is SEALED again, and its leaves take back their apertures. -/
def State.unpost (s : State) (h : BitVec 64) : State :=
  let (key, p) := s.postParcel h
  if p.state ≠ .inTransit ∨ p.gen ≠ handleGen h then s
  else
    let mine := s.pk.transit.filter fun t => t.1 == key
    let s := mine.foldl (fun s t => s.putAper t.2.1 t.2.2) s
    let s := s.onPk fun k => { k with
      parcels := kSet k.parcels key { p with state := .sealed }, transit := k.transit.filter fun t => t.1 != key }
    s.forget p.base p.extent

/-- Whether a landed parcel is the one that this package posted under a parcel id, to the contexts of a key id. -/
def State.isOwn (s : State) (pid : BitVec 16) (kid : BitVec 7) (l : Landed) : Bool := l.srcPkg == s.pk.pkg && l.srcPid == pid && l.kid == kid

/-- A landed parcel is withdrawn from an inbox: its frames are free again (R326). -/
def Inbox.withdraw (x : Inbox) (own : Landed → Bool) : Inbox :=
  let gone := (x.landed.filter own).flatMap (·.frames)
  { x with landed := x.landed.filter fun l => !own l, inUse := x.inUse.filter fun f => !gone.contains f }

/-- What a post to this package has done at its destination goes away: its packet, or what has landed of it (R326). -/
def State.unland (s : State) (pid : BitVec 16) (kid : BitVec 7) : State :=
  let posts (p : Packet) : Bool := match p.body with | .post _ _ q _ => p.src == s.pk.pkg && q == pid && p.kid == kid | _ => false
  s.onPk fun k => { k with
    inbound := k.inbound.filter fun p => !posts p
    inboxes := k.inboxes.map fun (n, x) => (n, if x.landed.any (s.isOwn pid kid) then x.withdraw (s.isOwn pid kid) else x) }

/-- Whether a PRECV of this package has taken the parcel that a chain posts, so that the post can no longer fail. -/
def State.postTaken (s : State) (tag : BitVec 6) (pid : BitVec 16) : Bool :=
  match s.pk.unanswered.find? (·.tag == tag) with
  | none => false
  | some u =>
    s.pk.inbound.any (fun p => match p.body with | .reply r .done _ => r == u.seq | _ => false) &&
      !s.pk.inboxes.any fun x => x.2.landed.any (s.isOwn pid u.kid)

/-- The post of a chain ends before its parcel has been taken: the parcel is withdrawn from where it landed under a key id, and is SEALED
again (R299, R326). -/
def State.withdrawPost (s : State) (tag : BitVec 6) (h : BitVec 64) (kid : BitVec 7) : State :=
  let pid := BitVec.ofNat 16 (handlePid h)
  if s.postTaken tag pid then s else (s.unland pid kid).unpost h

/-! ## Entries (R300) -/

/-- Word `i` of an entry. -/
def word (e : BitVec 512) (i : Nat) : BitVec 64 := e.extractLsb' (64 * i) 64

def entryKind (e : BitVec 512) : Nat := (e.extractLsb' 0 4).toNat
def entryWce (e : BitVec 512) : Bool := e.getLsbD 4
def entryCen (e : BitVec 512) : Nat := (e.extractLsb' 5 4).toNat
def entryCecore (e : BitVec 512) : Nat := (e.extractLsb' 9 8).toNat
def entryN (e : BitVec 512) : Nat := (e.extractLsb' 32 32).toNat

/-- A remote word (R300). -/
def rwPkg (w : BitVec 64) : BitVec 18 := w.setWidth 18
def rwRem (w : BitVec 64) : Bool := w.getLsbD 18
def rwKid (w : BitVec 64) : BitVec 7 := w.extractLsb' 19 7
def rwScope (w : BitVec 64) : BitVec 3 := w.extractLsb' 26 3

/-- The entry that a chain stands at: as the engine read it on reaching it (R300), in scratchpad before that, or the one that the
record of a POST holds (R325). -/
def State.entryOf (s : State) (c : Chain) : BitVec 512 :=
  match c.post with
  | none => c.held.getD (ofBytes 512 (s.scratchRead s.pk.pcore.toNat c.p 64))
  | some (h, w) =>
    if c.p = c.head.toNat then
      place 512 (10#4) 0 ||| place 512 h 64 ||| place 512 (w.setWidth 29) 192 ||| place 512 (w.extractLsb' 29 8) 256
    else 0

/-- Bits of W1 to W7 that a kind names; the rest is reserved (R303 to R312). -/
def namedBits (kind : Nat) (fmma : Bool) : List (BitVec 64) :=
  let all := BitVec.allOnes 64
  match kind with
  | 1 => [all, all, if fmma then 0xFFFFF else 0, if fmma then all else 0, 0xFFFFFFFF, 0xFFFFFFFF, 0xFFFFFFFF]
  | 2 | 3 => [all, all, 0x1FFFFFFF, 0, 0xFFFFFFFF, 0xFFFFFFFF, 0xFFFFFFFF]
  | 4 => [all, all, 0x7FFFFFFF, 0, 0, 0, 0]
  | 5 => [all, all, all, all, 0x1FFFFFFFF, 0xFFFFFFFF, 0]
  | 6 => [0xF, 0, 0, 0, 0, 0, 0]
  | 7 => [all, all, 0x7FFFFFFF, 0, 0, 0, 0]
  | 8 => [0xFFFF0003, all, all, 0, 0, 0, 0]
  | 9 => [all, all, 0xFFFF007F, 0xFFFFFFFF, 0, 0, 0]
  | 10 => [all, 0, 0x1FFFFFFF, 0xFF, 0, 0, 0]
  | 11 => [all, all, 0x1FFFFFFF, all, 0, 0, 0]
  | _ => [0, 0, 0, 0, 0, 0, 0]

/-- Kinds that count with N. -/
def kindCounts (kind : Nat) : Bool := kind == 1 || kind == 2 || kind == 3 || kind == 4 || kind == 5 || kind == 8 || kind == 11
/-- Kinds with a remote word. -/
def kindRemote (kind : Nat) : Bool := kind == 2 || kind == 3 || kind == 4 || kind == 7 || kind == 10 || kind == 11

/-! ## The addresses of an entry (R302) -/

/-- The scale of loop offsets in an address of the source or destination role (R302). -/
def Chain.offset (c : Chain) (source : Bool) : BitVec 64 :=
  (List.range 3).foldl (fun v i =>
    let ctr := if i = 0 then c.ctr[0] else if i = 1 then c.ctr[1] else c.ctr[2]
    let inc := if source then (if i = 0 then c.sinc[0] else if i = 1 then c.sinc[1] else c.sinc[2])
      else (if i = 0 then c.dinc[0] else if i = 1 then c.dinc[1] else c.dinc[2])
    v + BitVec.ofNat 64 ctr * inc) 0

/-- Rows of a move. -/
def moveRows (e : BitVec 512) : Nat := ((word e 5).extractLsb' 0 32).toNat + 1
/-- The signed stride in a word of a move. -/
def moveStride (w : BitVec 64) : Int := (w.extractLsb' 0 32).toInt

/-- OP as performed: in deterministic mode an FP32 sum is binned (R183, R306). -/
def reduceOp (c : Chain) (e : BitVec 512) : Nat :=
  let op := ((word e 3).extractLsb' 29 2).toNat
  if op = 0 ∧ c.det then 2 else op

/-- Bytes of a destination element, and its alignment. -/
def reduceSize (op : Nat) : Nat := match op with | 1 => 2 | 2 => 96 | _ => 4
def reduceAlign (op : Nat) : Nat := match op with | 1 => 2 | 2 => 32 | _ => 4
/-- Bytes of a source element. -/
def sourceSize (op : Nat) : Nat := if op = 1 then 2 else 4

def routeE (e : BitVec 512) : Nat := ((word e 5).extractLsb' 0 16).toNat + 1
def routeC (e : BitVec 512) : Nat := ((word e 5).extractLsb' 16 16).toNat + 1
def routeApp (e : BitVec 512) : Bool := (word e 5).getLsbD 32
def routeList (c : Chain) (e : BitVec 512) (x i : Nat) : BitVec 64 :=
  word e 2 + c.offset false + BitVec.ofNat 64 (4 * (routeC e * x + i))
def routeCnt (c : Chain) (e : BitVec 512) (x : Nat) : BitVec 64 := word e 3 + c.offset false + BitVec.ofNat 64 (4 * x)
def routeOvf (c : Chain) (e : BitVec 512) (i : Nat) : BitVec 64 := word e 4 + c.offset false + BitVec.ofNat 64 (4 * i)


/-- Whether R171 steps 1 and 2 hold for every element of `n` rows of `len` bytes, `stride` apart from an address on, aligned to
`align`: every row lies in the space of the first. At a far package SELF must be 0 (R302). -/
def rowsOk (a : BitVec 64) (n len align : Nat) (stride : Int) (far : Bool) : Bool :=
  let lo : Int := if a.getLsbD 63 then 2 ^ 63 else 0
  let hi : Int := if a.getLsbD 63 then (if far then 2 ^ 63 + 2 ^ 30 else 2 ^ 63 + 2 ^ 31) else 2 ^ 56
  let first : Int := a.toNat
  let last := first + stride * (n - 1)
  decide (a.toNat % align = 0) && (n == 0 || decide (lo ≤ min first last ∧ max first last + len ≤ hi))

/-- Whether the addresses of an entry pass R171 steps 1 and 2 for their elements (R313 code 0x02). -/
def Chain.addrsOk (c : Chain) (e : BitVec 512) : Bool :=
  let src (i : Nat) : BitVec 64 := word e i + c.offset true
  let dst (i : Nat) : BitVec 64 := word e i + c.offset false
  let n := entryN e
  let far := rwRem (word e 3)
  match entryKind e with
  | 1 | 2 | 3 =>
    -- a COPY of no bytes names the buffer of its follow-on MMA
    if n = 0 then rowsOk (dst 2) 1 1 1 0 false
    else (rowsOk (src 1) (moveRows e) n 1 (moveStride (word e 6)) (entryKind e == 2) &&
      rowsOk (dst 2) (moveRows e) n 1 (moveStride (word e 7)) (entryKind e == 3))
  -- an element that is only misaligned is code 0x0B
  | 4 =>
    let op := reduceOp c e
    rowsOk (src 1) n (sourceSize op) 1 (sourceSize op) false && rowsOk (dst 2) n (reduceSize op) 1 (reduceSize op) far
  | 5 =>
    rowsOk (src 1) n 2 2 2 false && rowsOk (dst 2) (routeE e * routeC e) 4 4 4 false && rowsOk (dst 3) (routeE e + 1) 4 4 4 false &&
      rowsOk (dst 4) 1 4 4 4 false
  | 7 => let k := if (word e 3).getLsbD 29 then 8 else 4; rowsOk (dst 1) 1 k k 0 far
  | 9 => let k := if (word e 3).getLsbD 2 then 8 else 4; rowsOk (src 1) 1 k k 0 false
  | 11 => rowsOk (src 1) n 65536 1 65536 false && rowsOk (dst 2) n 65536 1 65536 far && rowsOk (dst 4) 1 64 1 0 false
  | _ => true

/-- Whether a global destination lies in local memory. -/
def State.localMemory (s : State) (a : BitVec 64) : Bool :=
  a.getLsbD 63 ||
    (match s.walk a.toNat with
     | .ok (_, e, _) => leafAper e == 1 || leafAper e == 2 || leafAper e == 0
     | .error _ => true)

/-- Whether the elements of an RREDUCE are aligned, and its local destination is local memory (R306, R313 code 0x0B). -/
def State.reduceOk (s : State) (c : Chain) (e : BitVec 512) : Bool :=
  let op := reduceOp c e
  let b := word e 2 + c.offset false
  decide ((word e 1 + c.offset true).toNat % sourceSize op = 0 ∧ b.toNat % reduceAlign op = 0) &&
    (rwRem (word e 3) || b.getLsbD 63 ||
      (pages b.toNat (entryN e * reduceSize op)).all fun p => s.localMemory (BitVec.ofNat 64 p.1))

/-- The first check of an entry that fails as the engine reads it (R313). -/
def State.entryFault (s : State) (c : Chain) (e : BitVec 512) : Option Nat :=
  let k := entryKind e
  let fmma := (word e 3).getLsbD 0
  let rw_ := word e 3
  let tgt1 := ((word e 1).extractLsb' 16 16).toNat * 64
  let tgt3 := ((word e 3).extractLsb' 16 16).toNat * 64
  let waits := (word e 3).getLsbD 6
  let reserved := decide (11 < k) || e.extractLsb' 17 15 != 0 || (!entryWce e && e.extractLsb' 5 12 != 0) ||
    (!kindCounts k && entryN e != 0) ||
    (List.zip (List.range 7) (namedBits k fmma)).any (fun p => word e (p.1 + 1) &&& ~~~p.2 != 0) ||
    (kindRemote k && !rwRem rw_ && (rwPkg rw_ != 0 || rwKid rw_ != 0)) || ((k == 2 || k == 3) && !rwRem rw_) ||
    (k == 10 && (!rwRem rw_ || rwScope rw_ != 0))
  if c.post.isNone && decide (s.ownB < c.p + 64) then some 0x07
  else if reserved then some 0x01
  else if entryN e = 0 ∧ (k = 2 ∨ k = 3 ∨ k = 4 ∨ k = 5 ∨ k = 8 ∨ k = 11 ∨ (k = 1 ∧ !fmma)) ∨ (k = 5 ∧ 2 ^ 20 < entryN e) then some 0x03
  else if k = 8 ∧ ((word e 1).extractLsb' 0 2 = 3 ∨ c.p < tgt1) then some 0x04
  else if k = 9 ∧ ((waits ∧ tgt3 ≠ 0) ∨ s.ownB < tgt3 + 64) then some 0x05
  else if entryWce e ∧ !(s.remapOf (entryCecore e)).valid then some 0x09
  else if k = 1 ∧ fmma ∧ !(s.remapOf ((word e 3).extractLsb' 1 8).toNat).valid then some 0x09
  else if !c.addrsOk e then some 0x02
  else if k = 4 ∧ !s.reduceOk c e then some 0x0B
  else none

/-- The key of a consumed counter. -/
def State.counterKey (s : State) (lcore n : Nat) : Nat := (s.remapOf lcore).pcore.toNat * 16 + n
/-- Adds to a consumed counter. -/
def State.addCounter (s : State) (key : Nat) (v : BitVec 16) : State :=
  s.onPk fun k => { k with consumed := cellSet k.consumed key (cellGet k.consumed key + v) }

/-- The consumed counter that a COPY with a follow-on MMA holds (R304). -/
def State.followKey (s : State) (e : BitVec 512) : Option Nat :=
  if entryKind e = 1 ∧ (word e 3).getLsbD 0 then
    some (s.counterKey ((word e 3).extractLsb' 1 8).toNat ((word e 3).extractLsb' 16 4).toNat)
  else none

/-! ## Faults of a chain (R313, R314) -/

/-- The engine number of a chain's engine at its die. -/
def State.engineNo (s : State) (c : Chain) : BitVec 6 := BitVec.ofNat 6 (s.pk.pcore.toNat / 64 * 16 + c.engine.toNat)

/-- The fields of DETAIL that every fault of a chain carries. -/
def Chain.detail (c : Chain) : BitVec 64 := BitVec.ofNat 64 (c.p / 64) <<< 8 ||| place 64 c.engine 24

/-- The address of a chain's entry. -/
def Chain.entryAddr (c : Chain) : BitVec 64 := 0x8000000040000000 ||| BitVec.ofNat 64 c.p

/-- A chain stops at a fault; where RESUME reads the entry again (R313), it has not begun, and its counter is withdrawn (R305). -/
def State.chainFails (s : State) (tag : BitVec 6) (cause : BitVec 6) (detail addr : BitVec 64) (again : Bool) : State :=
  let c := s.chain tag
  let s := if again && c.begun then
      match s.followKey (s.entryOf c) with
      | some key => s.addCounter key (-1)
      | none => s
    else s
  let c := { c with state := .fault, remote := false }
  let c := if again then { c with held := none, followDue := false, begun := false, units := 0, counts := [], words := [] } else c
  (s.putChain tag c).raiseEngine c.str c.stepped cause (detail ||| c.detail) addr 6 c.coord (.chain tag c.gen)

/-- COPY_CHAIN with a code. -/
def State.chainBad (s : State) (tag : BitVec 6) (code : Nat) : State :=
  s.chainFails tag cCopyChain (BitVec.ofNat 64 code) (s.chain tag).entryAddr true

/-- A fault of an access of the chain: it goes on with the first unit not performed. -/
def State.chainStops (s : State) (tag : BitVec 6) (cause : BitVec 6) (bits addr : BitVec 64) : State :=
  s.chainFails tag cause bits addr false

/-! ## Accesses of an engine (R302) -/

/-- The scratchpad of an address, its bounds checked. -/
def State.chainScratch (s : State) (c : Chain) (a : BitVec 64) (n : Nat) : Except (BitVec 6) (Nat × Nat) :=
  let w : BitVec 32 := a.setWidth 32
  (s.scratchPlace c.sup w n).map fun p => (p, scratchOff w)

/-- Reads bytes for a chain, each from its home (R36). -/
def State.chainRead (s : State) (c : Chain) (a : BitVec 64) (n : Nat) : Got :=
  if a.getLsbD 63 then
    match s.chainScratch c a n with
    | .error e => .fail e 0 a.toNat s
    | .ok (p, off) => .ok (s.scratchRead p off n) s
  else s.readVirtual ⟨c.str, pathEngine c.engine, clsCP, none, c.sup, false⟩ a.toNat n

/-- Where the bytes of a global range lie for an access of a chain; a write to a sealed page starts its drain (R376). -/
inductive Places where
  | ok (ls : List Loc) (s : State)
  | wait (s : State)
  | fail (cause : BitVec 6) (bits : BitVec 64) (va : Nat) (s : State)

/-- Translates a range for a chain. -/
def State.chainPlaces (s : State) (c : Chain) (need : Need) (va n : Nat) : Places :=
  (pages va n).foldl (fun r (a, k) =>
    match r with
    | .ok ls s =>
      match s.translate (pathEngine c.engine) a c.sup need with
      | .wait s => .wait s
      | .fail f s => .fail f.cause f.bits a s
      | .ok e s =>
        match s.parcelRefuses e.leaf.word need with
        | some (x, d) => .fail x d a s
        | none =>
          if need ≠ .read && leafDisc e.leaf.word then .fail cDiscardedWrite 0 a s
          else if need ≠ .read && leafSeal e.leaf.word then .wait (s.startDrain a)
          else
            let more := (List.range k).map fun i => s.locOf e (a + i)
            .ok (ls ++ more) (s.underKey e.key more)
    | r => r) (.ok [] s)

/-- What a write of a chain comes to. -/
inductive ChainWrote where
  | done (s : State)
  | wait (s : State)
  | fail (cause : BitVec 6) (bits : BitVec 64) (addr : BitVec 64) (s : State)

/-- Writes bytes for a chain; they do not pass through a side log. A write of this package's engine is stamped by its die, one that
comes from another package (`far`) by the die that homes it (R34). -/
def State.chainWrite (s : State) (c : Chain) (far : Bool) (a : BitVec 64) (bs : List (BitVec 8)) : ChainWrote :=
  if a.getLsbD 63 then
    match s.chainScratch c a bs.length with
    | .error e => .fail e 0 a s
    | .ok (p, _) =>
      match s.scratchStore c.str c.coord false p (a.setWidth 32) bs with
      | .done s => .done s
      | .full => .wait s
  else
    match s.chainPlaces c .write a.toNat bs.length with
    | .wait s => .wait s
    | .fail x b va s => .fail x b (BitVec.ofNat 64 va) s
    | .ok ls s =>
      let l := List.zip ls bs
      .done ((if far then s.writeHome clsCP l else s.writeLocs s.die clsCP l).clearPoison ls)

/-! ## Entries that touch the same bytes (R301, R303) -/

/-- The parts of `n` bytes at an address by page: the cell of the first byte, its offset in the range, and the bytes. -/
def State.chainParts (s : State) (a : BitVec 64) (n : Nat) : List (Nat × Nat × Nat) :=
  if a.getLsbD 63 then [(s.spaceCell true a, 0, n)] else (pages a.toNat n).map fun (v, k) => (s.vaCell v, v - a.toNat, k)

/-- What the bytes of a part hold. -/
def State.peekRange (s : State) (cell n : Nat) : List (BitVec 8) := (List.range n).map fun i => s.peek (cell + i)

/-- Writes bytes to cells of `spaceCell`. -/
def State.pokeRange (s : State) (cell : Nat) (bs : List (BitVec 8)) : State :=
  if 7 * 2 ^ 72 ≤ cell then s.onMu fun m => { m with scratch := cellPut m.scratch (cell - 7 * 2 ^ 72) bs }
  else
    let loc (n : Nat) : Loc := if n < dieBase 4 then .here (n % 2 ^ 72) else .peer n
    s.writeHome clsCP (List.zip ((List.range bs.length).map fun i => loc (cell + i)) bs)

/-- What the bytes at an address hold, as an open value may draw them: zeros on a discarded page (R4, R371). -/
def State.peekAt (s : State) (a : BitVec 64) (n : Nat) : List (BitVec 8) :=
  if a.getLsbD 63 then s.peekRange (s.spaceCell true a) n
  else (pages a.toNat n).flatMap fun (v, k) => if s.discardedAt v then List.replicate k 0 else s.peekRange (s.vaCell v) k

/-- Whether a cell is one of the slot-state area of a scratchpad, which no engine writes (R155). -/
def slotStateCell (cell : Nat) : Bool := decide (7 * 2 ^ 72 ≤ cell) && decide (0x3E0000 ≤ (cell - 7 * 2 ^ 72) % 2 ^ 22)

/-- The values that earlier entries of the chain have given to a byte: what they read or wrote there and, for a later read, what stood
there before they wrote. -/
def Touch.values (l : List Touch) (read : Bool) (cell : Nat) : List (BitVec 8) :=
  l.flatMap fun t =>
    if cell < t.cell ∨ t.cell + t.new.length ≤ cell ∨ (read ∧ !t.wrote) then []
    else if read then [t.old.getD (cell - t.cell) 0, t.new.getD (cell - t.cell) 0] else [t.new.getD (cell - t.cell) 0]

/-- Bytes of one part of an access of a chain, open where an earlier entry has touched them (R301); the access is remembered. -/
def State.shadePart (s : State) (tag : BitVec 6) (read : Bool) (cell : Nat) (bs : List (BitVec 8)) : List (BitVec 8) × State :=
  let near := (s.chain tag).past.filter fun t => decide (t.cell < cell + bs.length ∧ cell < t.cell + t.new.length)
  let old := if read then bs else s.peekRange cell bs.length
  let (out, s) :=
    if near.isEmpty then (bs, s)
    else (List.range bs.length).foldl (fun (out, s) i =>
      let v := bs.getD i 0
      match (if slotStateCell (cell + i) then [] else Touch.values near read (cell + i)) with
      | [] => (out ++ [v], s)
      | l =>
        let (w, s) := s.choose 1 (v :: l)
        -- a byte that one entry has written and this one reads is left open, too
        let (u, s) := if read then s.choose 1 (v :: l) else (w, s)
        (out ++ w, if read then s.pokeRange (cell + i) u else s)) ([], s)
  let c := s.chain tag
  (out, s.putChain tag { c with now := c.now ++ [⟨cell, old, out, !read⟩] })

/-- Bytes of an access of a chain, with what R301 leaves open. -/
def State.shade (s : State) (tag : BitVec 6) (read : Bool) (a : BitVec 64) (bs : List (BitVec 8)) : List (BitVec 8) × State :=
  (s.chainParts a bs.length).foldl (fun (out, s) (cell, off, k) =>
    let (l, s) := s.shadePart tag read cell ((bs.drop off).take k)
    (out ++ l, s)) ([], s)

/-- A read that is performed as `c`'s, for the current entry of a chain. -/
def State.shadedRead (s : State) (tag : BitVec 6) (c : Chain) (a : BitVec 64) (n : Nat) : Got :=
  match s.chainRead c a n with
  | .ok bs s => let (l, s) := s.shade tag true a bs; .ok l s
  | r => r

/-- A write that is performed as `c`'s, for the current entry of a chain. -/
def State.shadedWrite (s : State) (tag : BitVec 6) (c : Chain) (far : Bool) (a : BitVec 64) (bs : List (BitVec 8)) : ChainWrote :=
  match s.chainWrite c far a bs with
  | .wait s => .wait s
  | .fail c b v s => .fail c b v s
  | .done _ =>
    let (l, s) := s.shade tag false a bs
    s.chainWrite c far a l

/-- A read of the current entry of a chain. -/
def State.entryRead (s : State) (tag : BitVec 6) (a : BitVec 64) (n : Nat) : Got := s.shadedRead tag (s.chain tag) a n

/-- A write of the current entry of a chain. -/
def State.entryWrite (s : State) (tag : BitVec 6) (a : BitVec 64) (bs : List (BitVec 8)) : ChainWrote :=
  s.shadedWrite tag (s.chain tag) false a bs

/-- What an access of `t` that waits or fails has asked for, on a state that is otherwise as before it: drains of sealed pages (R376) and
translations by the host (R366). -/
def State.withAsks (s t : State) : State := s.onMu fun m => { m with drains := t.pk.mu.drains, ats := t.pk.mu.ats }

/-- Accesses of later entries are ordered after those of the earlier ones (R301). -/
def State.partEntries (s : State) (tag : BitVec 6) : State := s.putChain tag { s.chain tag with now := [], past := [] }

/-! ## Release, engines and the end of entries (R291, R296, R301, R315) -/

/-- Whether the writes this die has applied are applied everywhere, where the scope asks for it (R40). -/
def State.scopeQuiet (s : State) (scope : Nat) : Bool :=
  decide (scope ≤ 3) || s.pk.mu.inflight.all fun w => w.waiting.contains s.die

/-- The chain goes on to an entry. -/
def State.goEntry (s : State) (tag : BitVec 6) (p : Nat) : State :=
  let c := s.chain tag
  s.putChain tag { c with p := p, held := none, begun := false, units := 0, remote := false, posting := false, followDue := false, condSince := none
                          resend := none, counts := [], words := [], now := [], past := c.past ++ c.now }

/-- The chain goes on to the next entry. -/
def State.nextEntry (s : State) (tag : BitVec 6) : State := s.goEntry tag ((s.chain tag).p + 64)

/-- Unmaps the pages of a parcel that is posted (R325 item 1). -/
def State.unmapParcel (s : State) (h : BitVec 64) : State :=
  let (key, p) := s.postParcel h
  if s.pk.transit.any fun t => t.1 == key then s
  else
    let leaves := (s.leavesOf p.base p.pages).filter fun l => leafPV l.2 && leafPid l.2 == handlePid h
    let s := leaves.foldl (fun s (pa, _) => s.putAper pa 0x60) s
    -- a write that is still in the side log is performed nowhere (R330)
    let s := s.onCore fun c => { c with side := c.side.map fun e =>
      if p.base ≤ e.addr.toNat ∧ e.addr.toNat < p.base + p.extent then { e with posted := true } else e }
    (s.onPk fun k => { k with transit := k.transit ++ leaves.map fun l => (key, l.1, l.2) }).forget p.base p.extent

/-- Whether the stores that hold a chain at the port have been performed: those of its strand issued before the CPGO (R296), and those
that other strands have released to it, but for the HELD ones (R39, R45, R48). -/
def State.storesDone (s : State) (c : Chain) : Bool :=
  s.core.side.all fun e =>
    (e.strand != c.str || decide (c.after ≤ e.seq)) &&
      (!e.readers.getLsbD (strandNum c.str) || e.state == .held || decide (c.upto ≤ e.id))

/-- CHAIN_RELEASE: a HELD chain leaves the port. What its CPGO or POST released is found by class CP (R45, R48). -/
def execChainRelease (tag : BitVec 6) (s : State) : Host.Outcome State Fault Refusal :=
  let c := s.chain tag
  let earlier := s.pk.chains.toList.any fun o => o.state == .held && o.str == c.str && decide (o.num < c.num)
  let below := decide (c.coord.key < s.core.qu.hk) || s.sys.forced == some .save
  .next (
    if c.state ≠ .held || earlier || !below || !s.storesDone c || !s.scopeQuiet 4 then s
    else
      let s := s.settlePaths allClasses (1#5 <<< clsCP)
      let s := (s.putChain tag { c with state := .queued }).onPk fun k => { k with engineQueue := k.engineQueue ++ [tag] }
      match c.post with
      | some (h, _) => s.unmapParcel h
      | none => s)

/-- Whether an engine walks a chain now. -/
def State.engineTaken (s : State) (e : BitVec 4) : Bool :=
  s.pk.engineBusy.getLsbD e.toNat ||
    (List.range 64).any fun i =>
      let c := s.chain (BitVec.ofNat 6 i)
      c.state == .run && c.engine == e && !s.pk.engineQueue.contains (BitVec.ofNat 6 i)

/-- ENGINE_TAKE_CHAIN: a free engine takes the chain at the head of the queue. -/
def execEngineTakeChain (engine : BitVec 4) (s : State) : Host.Outcome State Fault Refusal :=
  .next (
    match s.pk.engineQueue with
    | [] => s
    | tag :: rest =>
      if s.engineTaken engine then s
      else
        let c := s.chain tag
        (s.putChain tag { c with state := .run, engine := engine, condEngine := s.sys.cycle.toNat }).onPk fun k =>
          { k with engineQueue := rest })

/-- CPKILL ends a chain (R299): at once, or at the end of the unit that is on its way to or from another package. -/
def State.killChain (s : State) (tag : BitVec 6) : State :=
  let c := s.chain tag
  let e := s.entryOf c
  if c.remote && entryKind e != 10 then s.putChain tag { c with killing := true }
  else
    let s := if c.begun || c.followDue then
        match s.followKey e with
        | some key => s.addCounter key (-1)
        | none => s
      else s
    let s := if c.posting then s.withdrawPost tag (word e 1) (rwKid (word e 3)) else s
    (s.putChain tag { c with state := .killed, posting := false, remote := false, begun := false, followDue := false, killing := false }).onPk fun k =>
      { k with engineQueue := k.engineQueue.filter (· != tag), unanswered := k.unanswered.filter fun u => u.tag != tag }

/-- CPKILL. -/
def execCpkill (t : BitVec 6) (s : State) : Host.Outcome State Fault Refusal :=
  let x := s.cur
  let v := s.reg x t
  .next (runItem s 2 copyStrands false (regOk x t) true
    (if !ticketOk v then .fail cOperandRange 0x42
     else if !s.atS x && v.extractLsb' 6 2 != strOf x then .fail cOperandRange 0x43
     else
       match s.ofTicket v with
       | none => .retire s
       | some c =>
         match c.state with
         | .done | .killed | .free => .retire s
         | _ =>
           if !s.atS x && c.str != x then .fail cOperandRange 0x43
           else
             let t := s.killChain (v.setWidth 6)
             -- it retires once the chain is KILLED
             if (t.chain (v.setWidth 6)).killing then .wait t else .retire t))

/-- The chain that an entry's event acts on: in RUN with an engine, standing at an entry of the kind, not waiting. The
entry is read and checked once, as the chain reaches it (R300, R313); a reserved kind is refused with those of END. -/
def State.atEntry (s : State) (tag : BitVec 6) (kind : Nat) (k : State → Chain → BitVec 512 → State) : State :=
  let c := s.chain tag
  if c.state ≠ .run || s.pk.engineQueue.contains tag || c.remote || c.followDue || c.killing then s
  else
    let e := s.entryOf c
    let waits := entryWce e && cellGet s.pk.consumed (s.counterKey (entryCecore e) (entryCen e)) != 0
    if entryKind e ≠ kind && !(kind == 0 && decide (11 < entryKind e)) then s
    else if c.begun then k s c e
    else
      match (if c.held.isNone then s.entryFault c e else none) with
      | some code => s.chainBad tag code
      | none =>
        let c := { c with held := some e }
        let s := s.putChain tag c
        if waits then s else k s c e

/-- Marks the entry as begun, with the widest scope it names. -/
def Chain.begin_ (c : Chain) (scope : BitVec 3) : Chain := { c with begun := true, scope := if c.scope < scope then scope else c.scope }

/-- Whether an entry may act at a far package (R314): the package is in the group, and the context holds the key. -/
def State.remoteFault (s : State) (rw_ : BitVec 64) : Option (BitVec 6) :=
  if !inGroup s.pk.group (rwPkg rw_).toNat then some cFabricGroup
  else
    match s.pk.contexts.find? (·.id == s.sys.ctx) with
    | some c => if c.kids.getLsbD (rwKid rw_).toNat then none else some cFabricAuth
    | none => some cFabricAuth

/-- Sends an entry's packet and waits for its answer (R416). DESIGN CHOICE: an element or a signal that COPY_REMOTE 0x04 has stopped is
sent again under the number of the first packet, so that the far end performs it once (R314, R415, log 32). -/
def State.sendFor (s : State) (tag : BitVec 6) (c : Chain) (rw_ : BitVec 64) (body : PacketBody) : State :=
  let next := s.pk.sendSeq
  let seq := c.resend.getD next
  let s := (s.onPk fun k => { k with sendSeq := seq }).sendPacket (rwPkg rw_) (rwKid rw_) (s.engineNo c) body
  let s := if c.resend.isSome then s.onPk fun k => { k with sendSeq := next } else s
  (s.putChain tag { c with remote := true }).onPk fun k => { k with unanswered := k.unanswered ++ [⟨tag, rwKid rw_, seq, s.sys.cycle.toNat⟩] }

/-! ## COPY, RREAD and RWRITE (R303) -/

/-- Unit numbers per row: one for each 64-byte block that a row may touch. -/
def unitsPerRow (n : Nat) : Nat := n / 64 + 2

/-- Part `b` of the row `[a, a + n)` by 64-byte blocks: its offset in the row and its bytes. -/
def rowPart (a n b : Nat) : Nat × Nat :=
  let lo := if b = 0 then a else (a / 64 + b) * 64
  let hi := min (a + n) ((a / 64 + b + 1) * 64)
  (lo - a, hi - lo)

/-- The next unit from number `u` on that has bytes: its number, row, offset and size. -/
def nextUnit (e : BitVec 512) (dst : BitVec 64) : Nat → Nat → Option (Nat × Nat × Nat × Nat)
  | 0, _ => none
  | fuel + 1, u =>
    let n := entryN e
    let r := u / unitsPerRow n
    if n = 0 ∨ moveRows e ≤ r then none
    else
      let a := dst + BitVec.ofNat 64 r * ((word e 7).extractLsb' 0 32).signExtend 64
      let (off, k) := rowPart a.toNat n (u % unitsPerRow n)
      if k = 0 then nextUnit e dst fuel (u + 1) else some (u, r, off, k)

/-- Whether the page of a virtual address is discarded, by the translation of a chain's engine. -/
def State.pageDisc (s : State) (c : Chain) (va : Nat) : Bool :=
  match s.translate (pathEngine c.engine) va c.sup .read with
  | .ok e _ => leafDisc e.leaf.word
  | _ => false

/-- Whether a range of one page holds poison that a read finds: a discarded page reads zeros (R371). -/
def State.poisonedPart (s : State) (c : Chain) (va n : Nat) : Bool :=
  match s.chainPlaces c .read va n with
  | .ok ls s => s.anyPoison ls && !s.pageDisc c va
  | _ => false

/-- Whether a source range holds poison. -/
def State.poisonedFrom (s : State) (c : Chain) (a : BitVec 64) (n : Nat) : Bool :=
  if a.getLsbD 63 || s.pk.mu.poison.isEmpty then false else (pages a.toNat n).any fun (v, k) => s.poisonedPart c v k

/-- Marks the blocks of a destination range as poisoned. -/
def State.poisonTo (s : State) (c : Chain) (a : BitVec 64) (n : Nat) : State :=
  match s.chainPlaces c .write a.toNat n with
  | .ok ls s => s.onMu fun m => { m with poison := ls.foldl (fun p l => if p.contains l.block then p else p ++ [l.block]) m.poison }
  | _ => s

/-- Reads the part of a unit of a COPY that lies in one page: what a copy takes from a poisoned block goes on with its poison (R372). -/
def State.copyReadPart (s : State) (tag : BitVec 6) (va n : Nat) : Got :=
  let c := s.chain tag
  if s.poisonedPart c va n then
    match s.chainPlaces c .read va n with
    | .ok ls s =>
      let s := s.refreshHomes (ls.filterMap fun l => match l with | .here pa => some pa | _ => none)
      let (bs, s) := s.readCells clsCP (ls.map Loc.homeCell)
      .ok bs s
    | .wait s => .wait s
    | .fail x b v s => .fail x b v s
  else s.entryRead tag (BitVec.ofNat 64 va) n

/-- Reads the bytes of a unit of a COPY. -/
def State.copyRead (s : State) (tag : BitVec 6) (a : BitVec 64) (n : Nat) : Got :=
  if s.poisonedFrom (s.chain tag) a n then
    (pages a.toNat n).foldl (fun r (v, k) =>
      match r with
      | .ok bs s =>
        match s.copyReadPart tag v k with
        | .ok more s => .ok (bs ++ more) s
        | r => r
      | r => r) (.ok [] s)
  else s.entryRead tag a n

/-- The source and destination addresses of row `r` at an offset. -/
def moveAddrs (c : Chain) (e : BitVec 512) (r off : Nat) : BitVec 64 × BitVec 64 :=
  let at_ (base st : BitVec 64) : BitVec 64 := base + BitVec.ofNat 64 r * (st.extractLsb' 0 32).signExtend 64 + BitVec.ofNat 64 off
  (at_ (word e 1 + c.offset true) (word e 6), at_ (word e 2 + c.offset false) (word e 7))

/-- The next unit of a move, and its addresses. -/
def Chain.moveUnit (c : Chain) (e : BitVec 512) : Option (Nat × BitVec 64 × BitVec 64 × Nat) :=
  (nextUnit e (word e 2 + c.offset false) 4 c.units).map fun (u, r, off, k) =>
    let (a, b) := moveAddrs c e r off
    (u, a, b, k)

/-- The moves of an entry are done: a follow-on MMA has to join, or the chain goes on. -/
def State.moveDone (s : State) (tag : BitVec 6) (e : BitVec 512) : State :=
  if (s.followKey e).isSome then s.putChain tag { s.chain tag with followDue := true } else s.nextEntry tag

/-- Whether a test holds of one of the numbers below `n`. -/
def anyBelow (p : Nat → Bool) : Nat → Bool
  | 0 => false
  | n + 1 => p n || anyBelow p n

/-- Whether a row of the source of a move holds a byte of `k` cells. -/
def State.inSource (s : State) (c : Chain) (e : BitVec 512) (cell k : Nat) : Bool :=
  anyBelow (fun r => (s.chainParts (moveAddrs c e r 0).1 (entryN e)).any fun p => decide (p.1 < cell + k ∧ cell < p.1 + p.2.2)) (moveRows e)

/-- The bytes of the source and the destination of a move. -/
def State.moveBytes (s : State) (c : Chain) (e : BitVec 512) : List (BitVec 8) :=
  (List.range (moveRows e)).flatMap fun r =>
    let (a, b) := moveAddrs c e r 0
    s.peekAt a (entryN e) ++ s.peekAt b (entryN e)

/-- The bytes that a unit of a COPY writes: those that lie in the source too are open, drawn from the source and the destination
(R303). -/
def State.overlapped_ (s : State) (c : Chain) (e : BitVec 512) (b : BitVec 64) (bs : List (BitVec 8)) : List (BitVec 8) × State :=
  (s.chainParts b bs.length).foldl (fun (out, s) (cell, off, k) =>
    let part := (bs.drop off).take k
    if !s.inSource c e cell k then (out ++ part, s)
    else
      let (w, s) := s.choose k (s.moveBytes c e)
      (out ++ (List.range k).map fun i => if s.inSource c e (cell + i) 1 then w.getD i 0 else part.getD i 0, s)) ([], s)

/-- CHAIN_COPY: a COPY entry begins, or moves its next unit. -/
def execChainCopy (tag : BitVec 6) (s : State) : Host.Outcome State Fault Refusal :=
  .next (s.atEntry tag 1 fun s c e =>
    let full := match s.followKey e with | some key => cellGet s.pk.consumed key == 0xFFFF | none => false
    if !c.begun && full then s
    else
      let s := if c.begun then s else
        let s := s.putChain tag (c.begin_ 0)
        match s.followKey e with
        | some key => s.addCounter key 1
        | none => s
      let c := s.chain tag
      match c.moveUnit e with
      | none => s.moveDone tag e
      | some (u, a, b, k) =>
        let bad := s.poisonedFrom c a k
        match s.copyRead tag a k with
        | .wait s => s
        | .fail x d va s => s.chainStops tag x d (if a.getLsbD 63 then a else BitVec.ofNat 64 va)
        | .ok bs s =>
          if bad && b.getLsbD 63 then s.chainStops tag cPoison 0 a
          else
            let (bs, s) := s.overlapped_ c e b bs
            match s.entryWrite tag b bs with
            | .wait s => s
            | .fail x d addr s => s.chainStops tag x d addr
            | .done s =>
              let s := if bad then s.poisonTo c b k else s
              s.putChain tag { s.chain tag with units := u + 1 })

/-- Begins an entry that acts at a far package, or raises the cause that refuses it. -/
def State.beginRemote (s : State) (tag : BitVec 6) (c : Chain) (rw_ : BitVec 64) (k : State → Chain → State) : State :=
  if c.begun then k s c
  -- while Hearth switches the circuits no entry with REM = 1 begins (R413)
  else if rwRem rw_ && s.pk.switching.isSome then s
  else
    match (if rwRem rw_ then s.remoteFault rw_ else none) with
    | some x => s.chainFails tag x 0 c.entryAddr true
    | none =>
      let c := c.begin_ (rwScope rw_)
      k (s.putChain tag c) c

/-- CHAIN_RREAD: an RREAD entry asks the far package for its next unit. -/
def execChainRread (tag : BitVec 6) (s : State) : Host.Outcome State Fault Refusal :=
  .next (s.atEntry tag 2 fun s c e => s.beginRemote tag c (word e 3) fun s c =>
    match c.moveUnit e with
    | none => s.nextEntry tag
    | some (u, a, _, k) => s.sendFor tag { c with units := u } (word e 3) (.read a k))

/-- CHAIN_RWRITE: an RWRITE entry sends its next unit to the far package. -/
def execChainRwrite (tag : BitVec 6) (s : State) : Host.Outcome State Fault Refusal :=
  .next (s.atEntry tag 3 fun s c e => s.beginRemote tag c (word e 3) fun s c =>
    match c.moveUnit e with
    | none => s.nextEntry tag
    | some (u, a, b, k) =>
      match (s.putChain tag { c with units := u }).entryRead tag a k with
      | .wait s => s
      | .fail x d va s => s.chainStops tag x d (if a.getLsbD 63 then a else BitVec.ofNat 64 va)
      | .ok bs s => s.sendFor tag (s.chain tag) (word e 3) (.write b bs))

/-! ## RREDUCE (R306) -/

/-- Combines a source element into a destination element (R306): no flag is set. OP 0 rounds as rne32 of R94, whose exact zero sum is +0;
a zero of OP 1 has the sign IEEE 754 gives it (R81; log 39). -/
def reduceElem (op : Nat) (src : BitVec 32) (dst : List (BitVec 8)) : List (BitVec 8) :=
  match op with
  | 0 => toBytes 4 (toF32 ((f32Val (ofBytes 32 dst)).add (f32Val src)).1.zeroSum).1
  | 1 => toBytes 2 (toBf16 ((bf16Val (ofBytes 16 dst)).add (bf16Val (src.setWidth 16))).1).1
  | 2 => binBytes (binAdd (binsOf dst) src)
  | _ => toBytes 4 (f32Max (ofBytes 32 dst) src).1

/-- Reads and writes `n` bytes at their home in one step: `f` gives what is written (R37, R306, R308). Both the read and the write must
be allowed (R182). -/
def State.chainAtomic (s : State) (c : Chain) (need : Need) (a : BitVec 64) (n : Nat) (f : List (BitVec 8) → List (BitVec 8)) : ChainWrote :=
  if a.getLsbD 63 then
    match s.chainScratch c a n with
    | .error x => .fail x 0 a s
    | .ok (p, off) =>
      -- the slot-state area takes no write (R155)
      match s.scratchStore c.str c.coord false p (a.setWidth 32) (f (s.scratchRead p off n)) with
      | .done s => .done s
      | .full => .wait s
  else
    match s.chainPlaces c need a.toNat n with
    | .wait s => .wait s
    | .fail x b va s => .fail x b (BitVec.ofNat 64 va) s
    | .ok ls s =>
      if s.anyPoison ls then .fail cPoison 0 a s
      else
        let s := s.beforeAtomic ls
        .done (s.writeAtHome clsCP ls (f (ls.map fun l => cellGet s.pk.mu.mem l.homeCell)))

/-- Combines at an element's home, in one step. -/
def State.reduceAt (s : State) (c : Chain) (op : Nat) (a : BitVec 64) (src : BitVec 32) : ChainWrote :=
  s.chainAtomic c .atomic a (reduceSize op) (reduceElem op src)

/-- The same, performed as `c`'s, for an element of the current entry of a chain, whose bytes are open where an earlier entry has
touched them (R301). -/
def State.shadedReduce (s : State) (tag : BitVec 6) (c : Chain) (op : Nat) (a : BitVec 64) (src : BitVec 32) : ChainWrote :=
  match s.reduceAt c op a src with
  | .done t =>
    let new := (t.chainParts a (reduceSize op)).flatMap fun p => t.peekRange p.1 p.2.2
    let (l, s) := s.shade tag false a new
    s.chainAtomic c .atomic a (reduceSize op) fun _ => l
  | r => r

/-- CHAIN_RREDUCE: an RREDUCE entry combines its next element. -/
def execChainRreduce (tag : BitVec 6) (s : State) : Host.Outcome State Fault Refusal :=
  .next (s.atEntry tag 4 fun s c e => s.beginRemote tag c (word e 3) fun s c =>
    let op := reduceOp c e
    let i := c.units
    if entryN e ≤ i then s.nextEntry tag
    else
      let a := word e 1 + c.offset true + BitVec.ofNat 64 (i * sourceSize op)
      let b := word e 2 + c.offset false + BitVec.ofNat 64 (i * reduceSize op)
      match s.entryRead tag a (sourceSize op) with
      | .wait s => s
      | .fail x d va s => s.chainStops tag x d (if a.getLsbD 63 then a else BitVec.ofNat 64 va)
      | .ok bs s =>
        let src : BitVec 32 := ofBytes 32 bs
        if rwRem (word e 3) then s.sendFor tag (s.chain tag) (word e 3) (.reduce (BitVec.ofNat 2 op) b src)
        else
          match s.shadedReduce tag (s.chain tag) op b src with
          | .wait s => s
          | .fail x d addr s => s.chainStops tag x d addr
          | .done s => s.putChain tag { s.chain tag with units := i + 1 })

/-! ## ROUTE (R307) -/

/-- Writes words one after another, up to the first that cannot be written; they are remembered. -/
def State.routeWrites (s : State) (tag : BitVec 6) : List (BitVec 64 × Nat) → ChainWrote
  | [] => .done s
  | (a, v) :: rest =>
    match s.entryWrite tag a (toBytes 4 (BitVec.ofNat 32 v)) with
    | .done s =>
      let c := s.chain tag
      State.routeWrites (s.putChain tag { c with words := c.words ++ [(a, BitVec.ofNat 32 v)] }) tag rest
    | r => r

/-- Reads `n` words, as numbers. -/
def State.routeReads (s : State) (tag : BitVec 6) (a : BitVec 64) (n : Nat) (k : List Nat → State → State) : State :=
  match s.entryRead tag a (4 * n) with
  | .ok bs s => k ((lanesOf n bs).map BitVec.toNat) s
  | .wait s => s
  | .fail x d va s => s.chainStops tag x d (if a.getLsbD 63 then a else BitVec.ofNat 64 va)

/-- Puts an index into an ascending list of at most `cap`: the list, and what falls out. -/
def insertIndex (cap : Nat) (l : List Nat) (v : Nat) : List Nat × Option Nat :=
  let l := insertKey id v l
  if l.length ≤ cap then (l, none) else (l.take cap, l.getLast?)

/-- A token's writes: the list words, counts and overflow words that it changes, and the counts after it. In deterministic
appends the lists and the overflow list stay ascending (R307). -/
def routeToken (c : Chain) (e : BitVec 512) (x v cnt over_ : Nat) (list ovf : List Nat) : List (BitVec 64 × Nat) × Nat × Nat :=
  if routeApp e && c.det then
    let (l, out) := insertIndex (routeC e) list v
    let lw := (List.range l.length).map fun i => (routeList c e x i, l.getD i 0)
    match out with
    | none => (lw, l.length, over_)
    | some w =>
      let o := insertKey id w ovf
      (lw ++ (List.range o.length).map (fun i => (routeOvf c e i, o.getD i 0)), l.length, o.length)
  else if cnt < routeC e then ([(routeList c e x cnt, v)], cnt + 1, over_)
  else ([(routeOvf c e over_, v)], cnt, over_ + 1)

/-- The words written so far hold open values, drawn from what the entry has written (R307). -/
def State.openWords (s : State) (tag : BitVec 6) : State :=
  let ws := (s.chain tag).words
  ws.foldl (fun s w =>
    let (v, s) := s.choose 1 (ws.map (·.2))
    match s.chainWrite (s.chain tag) false w.1 (toBytes 4 (v.headD 0)) with
    | .done s => s
    | _ => s) s

/-- CHAIN_ROUTE: a ROUTE entry takes its next token, and writes the counts after the last. -/
def execChainRoute (tag : BitVec 6) (s : State) : Host.Outcome State Fault Refusal :=
  .next (s.atEntry tag 5 fun s c e =>
    let n := routeE e
    let a := word e 1 + c.offset true + BitVec.ofNat 64 (2 * c.units)
    let c := if c.begun then c else { c.begin_ 0 with counts := List.replicate (n + 1) 0, words := [] }
    let s := s.putChain tag c
    -- a token's words are written together, so that one which is taken again finds none of them (R314)
    let wrote (r : ChainWrote) (k : State → State) : State :=
      match r with
      | .done s => k s
      | .wait t => s.withAsks t
      | .fail x d a t => (s.withAsks t).chainStops tag x d a
    if entryN e ≤ c.units then
      if routeApp e then s.nextEntry tag
      else wrote (s.routeWrites tag ((List.range (n + 1)).map fun x => (routeCnt c e x, c.counts.getD x 0))) (·.nextEntry tag)
    else
      match s.entryRead tag a 2 with
      | .wait s => s
      | .fail x d va s => s.chainStops tag x d (if a.getLsbD 63 then a else BitVec.ofNat 64 va)
      | .ok bs s =>
        let x := leNat bs
        let done (s : State) : State := s.putChain tag { s.chain tag with units := c.units + 1 }
        let v := (((word e 6).extractLsb' 0 32).toNat + c.units) % 2 ^ 32
        if x = 0xFFFF then done s
        else if n ≤ x then (s.openWords tag).chainBad tag 0x0A
        else if !routeApp e then
          let (ws, cnt, ov) := routeToken c e x v (c.counts.getD x 0) (c.counts.getD n 0) [] []
          wrote (s.routeWrites tag ws) fun s =>
            done (s.putChain tag { s.chain tag with counts := (c.counts.set x cnt).set n ov })
        else
          s.routeReads tag (routeCnt c e x) 1 fun cx s => s.routeReads tag (routeCnt c e n) 1 fun co s =>
            let cnt := cx.headD 0
            let ov := co.headD 0
            s.routeReads tag (routeList c e x 0) (if c.det then min cnt (routeC e) else 0) fun list s =>
              s.routeReads tag (routeOvf c e 0) (if c.det then ov else 0) fun ovf s =>
                let (ws, cnt, ov) := routeToken c e x v cnt ov list ovf
                wrote (s.routeWrites tag (ws ++ [(routeCnt c e x, cnt), (routeCnt c e n, ov)])) done)

/-! ## BARRIER, SIGNAL, LOOP, COND and END (R308 to R312) -/

/-- CHAIN_BARRIER. -/
def execChainBarrier (tag : BitVec 6) (s : State) : Host.Outcome State Fault Refusal :=
  .next (s.atEntry tag 6 fun s c e =>
    let l : BitVec 3 := (word e 1).setWidth 3
    let t := s.strand c.str
    if c.begun then
      (if s.pk.barriers.any fun b => b.tag == tag && b.strand == c.str && b.level == l then s else s.nextEntry tag)
    else if l = 0 ∨ s.sys.qlvl < l ∨ !t.member.getLsbD l.toNat then
      (s.nextEntry tag).raiseAsync c.str cBarrierProtocol c.detail c.entryAddr 6 c.coord .nothing
    else if !s.scopeQuiet (domainScope l) then s
    else
      let s := (s.partEntries tag).onPk fun k => { k with barriers := k.barriers ++ [⟨c.str, l, t.dsync == some l, tag⟩] }
      if (word e 1).getLsbD 3 then s.putChain tag ((s.chain tag).begin_ 0) else s.nextEntry tag)

/-- A SIGNAL's write or add of `n` bytes (R308): an add is one atomic step at the flag's home. -/
def State.signalAt (s : State) (c : Chain) (far : Bool) (a : BitVec 64) (n : Nat) (v : BitVec 64) (add : Bool) : ChainWrote :=
  if !add then s.chainWrite c far a (toBytes n v)
  else s.chainAtomic c .atomic a n fun old => toBytes n (ofBytes 64 old + v)

/-- CHAIN_SIGNAL. -/
def execChainSignal (tag : BitVec 6) (s : State) : Host.Outcome State Fault Refusal :=
  .next (s.atEntry tag 7 fun s c e => s.beginRemote tag c (word e 3) fun s c =>
    let w := word e 3
    let n := if w.getLsbD 29 then 8 else 4
    let add := w.getLsbD 30
    let a := word e 1 + c.offset false
    if !s.scopeQuiet (rwScope w).toNat then s
    else if rwRem w then
      (if c.units = 0 then (s.partEntries tag).sendFor tag { c with now := [], past := [] } w (.signal a (word e 2) (w.getLsbD 29) add (rwScope w))
       else s.nextEntry tag)
    else
      match s.signalAt c false a n (word e 2) add with
      | .wait s => s
      | .fail x d addr s => s.chainStops tag x d addr
      | .done s => (s.partEntries tag).nextEntry tag)

/-- CHAIN_LOOP (R309). -/
def execChainLoop (tag : BitVec 6) (s : State) : Host.Outcome State Fault Refusal :=
  .next (s.atEntry tag 8 fun s c e =>
    let put {α : Type} (v : Vector α 3) (i : Nat) (x : α) : Vector α 3 := if i = 0 then v.set 0 x else if i = 1 then v.set 1 x else v.set 2 x
    let lv := ((word e 1).extractLsb' 0 2).toNat
    let cur := if lv = 0 then c.ctr[0] else if lv = 1 then c.ctr[1] else c.ctr[2]
    let c := { c with sinc := put c.sinc lv (word e 2), dinc := put c.dinc lv (word e 3) }
    if cur + 1 < entryN e then
      (s.putChain tag { c with ctr := put c.ctr lv (cur + 1) }).goEntry tag (((word e 1).extractLsb' 16 16).toNat * 64)
    else (s.putChain tag { c with ctr := put c.ctr lv 0 }).nextEntry tag)

/-- Whether the test of a COND holds (R310). -/
def condTest (e : BitVec 512) (v : BitVec 64) : Bool :=
  let w := if (word e 3).getLsbD 2 then word e 2 else (word e 2).extractLsb' 0 32 |>.setWidth 64
  match ((word e 3).extractLsb' 0 2).toNat with
  | 0 => v == w | 1 => v != w | 2 => v.ult w | _ => !v.ult w

/-- Reads the flag of a COND; a test that holds is an acquire. -/
def State.condRead (s : State) (tag : BitVec 6) (c : Chain) (e : BitVec 512) (k : Bool → State → State) : State :=
  let n := if (word e 3).getLsbD 2 then 8 else 4
  let a := word e 1 + c.offset true
  let scope := (word e 3).extractLsb' 3 3
  match s.shadedRead tag c a n with
  | .wait s => s
  | .fail x d va s => s.chainStops tag x d (if a.getLsbD 63 then a else BitVec.ofNat 64 va)
  | .ok bs s =>
    let s := (s.acquire c.str scope.toNat).partEntries tag
    k (condTest e (ofBytes 64 bs)) (s.putChain tag ((s.chain tag).begin_ scope))

/-- CHAIN_COND: a COND entry reads its flag and branches, goes on, or begins to wait. -/
def execChainCond (tag : BitVec 6) (s : State) : Host.Outcome State Fault Refusal :=
  .next (s.atEntry tag 9 fun s c e =>
    if c.condSince.isSome then s
    else s.condRead tag c e fun holds s =>
      if !(word e 3).getLsbD 6 then
        (if holds then s.goEntry tag (((word e 3).extractLsb' 16 16).toNat * 64) else s.nextEntry tag)
      else if holds then s.nextEntry tag
      else s.putChain tag { s.chain tag with condSince := some s.sys.cycle.toNat, condEngine := s.sys.cycle.toNat })

/-- COND_WAIT_SATISFIED: a waiting COND reads its flag again and finds the test holding. -/
def execCondWaitSatisfied (tag : BitVec 6) (s : State) : Host.Outcome State Fault Refusal :=
  .next (s.atEntry tag 9 fun s c e =>
    if c.condSince.isNone then s else s.condRead tag c e fun holds s => if holds then s.nextEntry tag else s)

/-- Whether a chain waits at a COND. -/
def Chain.condWaits (c : Chain) : Bool := c.state == .run && c.condSince.isSome

/-- COND_ENGINE_YIELD: a COND that has waited 1,024 cycles gives its engine up. -/
def execCondEngineYield (tag : BitVec 6) (s : State) : Host.Outcome State Fault Refusal :=
  let c := s.chain tag
  .next (
    if c.condWaits && !s.pk.engineQueue.contains tag && decide (c.condEngine + 1024 ≤ s.sys.cycle.toNat) then
      s.onPk fun k => { k with engineQueue := k.engineQueue ++ [tag] }
    else s)

/-- COND_WAIT_LIMIT: a wait has lasted more than LIM units of 1,024 cycles. -/
def execCondWaitLimit (tag : BitVec 6) (s : State) : Host.Outcome State Fault Refusal :=
  let c := s.chain tag
  let lim := ((word (s.entryOf c) 4).extractLsb' 0 32).toNat
  .next (
    match c.condSince with
    | none => s
    | some t =>
      if c.state = .run ∧ lim ≠ 0 ∧ t + lim * 1024 < s.sys.cycle.toNat then
        (s.onPk fun k => { k with engineQueue := k.engineQueue.filter (· != tag) }).chainBad tag 0x06
      else s)

/-- CHAIN_END. -/
def execChainEnd (tag : BitVec 6) (s : State) : Host.Outcome State Fault Refusal :=
  .next (s.atEntry tag 0 fun s c _ => if s.scopeQuiet (max 4 c.scope.toNat) then s.putChain tag { c with state := .done } else s)

/-! ## Follow-on MMAs (R304) -/

/-- Bytes of the buffer that a follow-on MMA reads. -/
def followBytes (shape : BitVec 64) (fmt : Nat) (scaled : Bool) : Nat :=
  mmaRows shape * (mmaKbn shape * 8 * (matrixFmt fmt).width + if scaled then 2 * mmaKbn shape else 0)

/-- The first check of R275 that a follow-on MMA fails at this core (R304): its cause and code. Checks 8 and 9 are replaced by one, of
the bytes that the entry has copied. -/
def State.followRefuses (s : State) (z : BitVec 3) (q : BitVec 4) (shape : BitVec 64) (copied : Nat) : Option (BitVec 6 × BitVec 64) :=
  let t := at16 s.core.streams q
  let d := t.desc
  let short := copied != 0 && decide (copied < followBytes shape (descFmt d) (descScv d))
  match firstFail (s.mmaChecks z q shape false true (descFmt d) ++ [(short, badShape 0x05)] ++ s.mmaLate shape (descFmt d) (descSpv d) t.sparse) with
  | some (.trap cause code _) => some (cause, code)
  | _ => none

/-- A follow-on MMA joins this core's queue: what its entry has written into the buffer is found by class MX (R250, R304). -/
def State.joinMma (s : State) (z : BitVec 3) (q : BitVec 4) (shape buffer : BitVec 64) (c : Coord) (atS sup stepped : Bool)
    (follow : BitVec 6 × Nat) : State :=
  let d := (at16 s.core.streams q).desc
  let op := { s.newOp .mma z shape 0 with
    span := ⟨BitVec.ofNat 4 (descFmt d), descScv d, 64, 0, [], 0, []⟩, coord := c, atS := atS, sup := sup, stepped := stepped
    follow := some follow, buffer := buffer }
  let s := s.settlePaths (1#5 <<< clsCP) (1#5 <<< clsMX)
  -- what a SAVE has stopped ahead of it runs on to completion (R264)
  (s.onMat fun m => { m with queue := m.queue.map fun o => { o with stopAt := none } }).pushMatrix op

/-- The entry of a chain of this core is done, and its MMA joins the queue of its core, or is refused. What another core's checks
come to, that core tells. -/
def State.joinOwn (s : State) (tag : BitVec 6) (refused : Option (BitVec 6 × BitVec 8)) : State :=
  let c := s.chain tag
  let e := s.entryOf c
  let w := word e 3
  let z : BitVec 3 := w.extractLsb' 9 3
  let q : BitVec 4 := w.extractLsb' 12 4
  let key := (s.followKey e).getD 0
  let bad (cause : BitVec 6) (code : BitVec 8) : State :=
    s.chainFails tag cCopyChain (0x08 ||| place 64 cause 32 ||| place 64 code 38) c.entryAddr true
  if c.state ≠ .run || !c.followDue || c.killing then s
  else if (s.remapOf (w.extractLsb' 1 8).toNat).pcore ≠ s.pk.pcore then
    match refused with
    | some (cause, code) => bad cause code
    | none => (s.onPk fun k => { k with farMmas := k.farMmas ++ [(key, c.coord.key, c.atS, tag)] }).nextEntry tag
  else if !s.matrixRoom then s
  else
    match s.followRefuses z q (word e 4) (entryN e * moveRows e) with
    | some (cause, code) => bad cause (code.setWidth 8)
    | none => (s.joinMma z q (word e 4) (word e 2 + c.offset false) c.coord c.atS c.sup c.stepped (tag, key)).nextEntry tag

/-- FOLLOW_ON_MMA_JOIN. Of another core's MMA this core tells that core alone what its checks come to. -/
def execFollowOnMmaJoin (step : FollowStep) (s : State) : Host.Outcome State Fault Refusal :=
  let mine (ce : BitVec 4) : Nat := s.pk.pcore.toNat * 16 + ce.toNat
  .next (
    match step with
    | .own tag refused => s.joinOwn tag refused
    | .farRead tag core =>
      match s.pk.farMmas.find? (fun f => f.2.2.2 == tag && f.1 / 16 == core.toNat) with
      | none => s
      | some f => (s.onPk fun k => { k with farMmas := k.farMmas.erase f }).addCounter f.1 (-1)
    | .farBegins ce => if cellGet s.pk.consumed (mine ce) == 0xFFFF then s else s.addCounter (mine ce) 1
    | .farEnds ce => if cellGet s.pk.consumed (mine ce) == 0 then s else s.addCounter (mine ce) (-1)
    | .brought z q ce shape buffer copied coord atS =>
      if cellGet s.pk.consumed (mine ce) == 0 || !s.matrixRoom then s
      else
        match s.followRefuses z q shape copied with
        | some _ => s.addCounter (mine ce) (-1)
        | none => s.joinMma z q shape buffer (Coord.ofBits coord) atS atS false (0, mine ce))

end Sys2Proof.Machine
end

