-- ==== Sys2Proof/Machine/Vector.lean ====
section
/-!
DEFINITION. Vector instructions on tiles and masks: majors 0x0E to 0x12, RING.PUSH and RING.POP of tiles, parking (R194,
R204, R214 to R229).
-/
namespace Sys2Proof.Machine

/-! ## Shared forms -/

/-- Runs an item of the V strand. -/
def vecItem (s : State) (cls ok : Bool) (body : Res) : State := runItem s 2 [.V] false cls ok body

/-- The flags of the active lanes together (R208). -/
def laneFlags (act : BitVec 1024) (r : List Flagged) : Flags5 :=
  (List.zip laneIds r).foldl (fun fl p => if act.getLsbD p.1 then fl ||| p.2.2 else fl) 0

/-- DETAIL of FP_TRAP: the flags, and the lowest lane that would have set an enabled one (R208). -/
def trapDetail (act : BitVec 1024) (en : Flags5) (r : List Flagged) : BitVec 64 :=
  let l := (List.zip laneIds r).find? fun p => act.getLsbD p.1 && (p.2.2 &&& en) != 0
  (laneFlags act r).setWidth 64 ||| place 64 (BitVec.ofNat 10 ((l.map (·.1)).getD 0)) 16

/-- Sets the flags of lane results, or raises FP_TRAP in their place (R114, R208). -/
def State.withLaneFlags (s : State) (r : List Flagged) (k : State → Res) : Res :=
  let x := s.cur
  let fl := laneFlags s.active r
  if s.flagsTrap x fl then .fail cFpTrap (trapDetail s.active (s.enables x) r) else k (s.addFlags x fl)

/-- Writes lane results to the active lanes of vD. -/
def State.writeLanes (s : State) (d : BitVec 6) (r : List Flagged) : Res :=
  s.tileIn d fun old s =>
    s.withLaneFlags r fun s => s.writeTile d (merge s.active old (r.map (·.1))) .retire

/-- Writes lane results to the bits of mD that belong to active lanes. -/
def State.writeBits (s : State) (d : BitVec 3) (bits : List (Bool × Flags5)) : Res :=
  let r : List Flagged := bits.map fun b => (flagBit 32 b.1 0, b.2)
  let new := maskOf fun l => (bits.getD l (false, 0)).1
  s.withLaneFlags r fun s => .retire (s.putMask d ((new &&& s.active) ||| (s.mask d &&& ~~~s.active)))

/-- vD := f A B, lane by lane, in layout P1. -/
def lanes2 (s : State) (d a b : BitVec 7) (f : BitVec 32 → BitVec 32 → Flagged) : State :=
  vecItem s true (roleTileOk d)
    (s.tileSource a 1 fun ta s => s.tileSource b 1 fun tb s => s.writeLanes (tileNo d) (List.zipWith f ta tb))

/-- vD := f A, lane by lane, in layout P1. -/
def lanes1 (s : State) (d a : BitVec 7) (f : BitVec 32 → Flagged) : State :=
  vecItem s true (roleTileOk d) (s.tileSource a 1 fun ta s => s.writeLanes (tileNo d) (ta.map f))

/-- vD := f vD A B, lane by lane, with A and B in a layout. -/
def lanes3 (s : State) (d a b : BitVec 7) (elems : Nat) (f : BitVec 32 → BitVec 32 → BitVec 32 → Flagged) : State :=
  vecItem s true (roleTileOk d)
    (s.tileSource a elems fun ta s => s.tileSource b elems fun tb s => s.tileIn (tileNo d) fun td s =>
      s.writeLanes (tileNo d) (List.zipWith (fun x p => f x p.1 p.2) td (List.zip ta tb)))

/-- mD := f A B, lane by lane, in layout P1. -/
def bits2 (s : State) (d a b : BitVec 7) (f : BitVec 32 → BitVec 32 → Bool × Flags5) : State :=
  vecItem s true (roleMaskOk d)
    (s.tileSource a 1 fun ta s => s.tileSource b 1 fun tb s => s.writeBits (maskNo d) (List.zipWith f ta tb))

/-- A lane operation that sets no flag. -/
def plain (f : BitVec 32 → BitVec 32 → BitVec 32) (x y : BitVec 32) : Flagged := (f x y, 0)
/-- A comparison that sets no flag. -/
def plainBit (f : BitVec 32 → BitVec 32 → Bool) (x y : BitVec 32) : Bool × Flags5 := (f x y, 0)

/-- An exact integer saturated to 32 bits, with OF when it is clamped (R216). -/
def saturate (signed : Bool) (v : Int) : Flagged :=
  let (lo, hi) := intRange signed 32
  (BitVec.ofInt 32 (clamp lo hi v), flagIf (decide (v < lo ∨ hi < v)) fOF)

/-- The shift count of a lane. -/
def laneShift (y : BitVec 32) : Nat := (y.extractLsb' 0 5).toNat

/-! ## Integer, lane and mask operations: major 0x0E (R216 to R218) -/

/-- VADD. -/
def execVadd (d a b : BitVec 7) (s : State) : Host.Outcome State Fault Refusal := .next (lanes2 s d a b (plain (· + ·)))
/-- VSUB. -/
def execVsub (d a b : BitVec 7) (s : State) : Host.Outcome State Fault Refusal := .next (lanes2 s d a b (plain (· - ·)))
/-- VMUL. -/
def execVmul (d a b : BitVec 7) (s : State) : Host.Outcome State Fault Refusal := .next (lanes2 s d a b (plain (· * ·)))
/-- VMIN.i. -/
def execVminI (d a b : BitVec 7) (s : State) : Host.Outcome State Fault Refusal :=
  .next (lanes2 s d a b (plain fun x y => if y.slt x then y else x))
/-- VMIN.n. -/
def execVminN (d a b : BitVec 7) (s : State) : Host.Outcome State Fault Refusal :=
  .next (lanes2 s d a b (plain fun x y => if y.ult x then y else x))
/-- VMAX.i. -/
def execVmaxI (d a b : BitVec 7) (s : State) : Host.Outcome State Fault Refusal :=
  .next (lanes2 s d a b (plain fun x y => if x.slt y then y else x))
/-- VMAX.n. -/
def execVmaxN (d a b : BitVec 7) (s : State) : Host.Outcome State Fault Refusal :=
  .next (lanes2 s d a b (plain fun x y => if x.ult y then y else x))
/-- VADDS.i. -/
def execVaddsI (d a b : BitVec 7) (s : State) : Host.Outcome State Fault Refusal :=
  .next (lanes2 s d a b fun x y => saturate true (x.toInt + y.toInt))
/-- VADDS.n. -/
def execVaddsN (d a b : BitVec 7) (s : State) : Host.Outcome State Fault Refusal :=
  .next (lanes2 s d a b fun x y => saturate false ((x.toNat : Int) + y.toNat))
/-- VSUBS.i. -/
def execVsubsI (d a b : BitVec 7) (s : State) : Host.Outcome State Fault Refusal :=
  .next (lanes2 s d a b fun x y => saturate true (x.toInt - y.toInt))
/-- VSUBS.n. -/
def execVsubsN (d a b : BitVec 7) (s : State) : Host.Outcome State Fault Refusal :=
  .next (lanes2 s d a b fun x y => saturate false ((x.toNat : Int) - y.toNat))
/-- VAND. -/
def execVand (d a b : BitVec 7) (s : State) : Host.Outcome State Fault Refusal := .next (lanes2 s d a b (plain (· &&& ·)))
/-- VOR. -/
def execVor (d a b : BitVec 7) (s : State) : Host.Outcome State Fault Refusal := .next (lanes2 s d a b (plain (· ||| ·)))
/-- VXOR. -/
def execVxor (d a b : BitVec 7) (s : State) : Host.Outcome State Fault Refusal := .next (lanes2 s d a b (plain (· ^^^ ·)))
/-- VANDN. -/
def execVandn (d a b : BitVec 7) (s : State) : Host.Outcome State Fault Refusal :=
  .next (lanes2 s d a b (plain fun x y => x &&& ~~~y))
/-- VSHL. -/
def execVshl (d a b : BitVec 7) (s : State) : Host.Outcome State Fault Refusal :=
  .next (lanes2 s d a b (plain fun x y => x <<< laneShift y))
/-- VSHR. -/
def execVshr (d a b : BitVec 7) (s : State) : Host.Outcome State Fault Refusal :=
  .next (lanes2 s d a b (plain fun x y => x >>> laneShift y))
/-- VSRA. -/
def execVsra (d a b : BitVec 7) (s : State) : Host.Outcome State Fault Refusal :=
  .next (lanes2 s d a b (plain fun x y => x.sshiftRight (laneShift y)))
/-- VCEQ. -/
def execVceq (d a b : BitVec 7) (s : State) : Host.Outcome State Fault Refusal := .next (bits2 s d a b (plainBit (· == ·)))
/-- VCLT.i. -/
def execVcltI (d a b : BitVec 7) (s : State) : Host.Outcome State Fault Refusal := .next (bits2 s d a b (plainBit BitVec.slt))
/-- VCLT.n. -/
def execVcltN (d a b : BitVec 7) (s : State) : Host.Outcome State Fault Refusal := .next (bits2 s d a b (plainBit BitVec.ult))
/-- VMOV. -/
def execVmov (d a : BitVec 7) (s : State) : Host.Outcome State Fault Refusal := .next (lanes1 s d a fun x => (x, 0))

/-- VBCS: the low word of a scalar register in every active lane. -/
def execVbcs (d a : BitVec 7) (s : State) : Host.Outcome State Fault Refusal :=
  let v : BitVec 32 := (s.reg s.cur (scalarNo a)).setWidth 32
  .next (vecItem s (roleScalarCls a) (roleTileOk d && roleScalarOk a) (s.writeLanes (tileNo d) (laneIds.map fun _ => (v, 0))))

/-- VINS: one lane from a scalar register (R217). -/
def execVins (d a b : BitVec 7) (s : State) : Host.Outcome State Fault Refusal :=
  let n := (s.reg s.cur (scalarNo b)).toNat
  let v : BitVec 32 := (s.reg s.cur (scalarNo a)).setWidth 32
  .next (vecItem s (roleScalarCls a && roleScalarCls b) (roleTileOk d && roleScalarOk a && roleScalarOk b)
    (if 1023 < n then .fail cOperandRange 0x20
     else s.tileIn (tileNo d) fun old s =>
       if s.active.getLsbD n then s.writeTile (tileNo d) (old.set n v) .retire else .retire s))

/-- VEXT: one lane to a scalar register; an inactive lane gives zero (R217). -/
def execVext (d a b : BitVec 7) (s : State) : Host.Outcome State Fault Refusal :=
  let n := (s.reg s.cur (scalarNo b)).toNat
  .next (vecItem s (roleScalarCls d && roleScalarCls b) (roleScalarOk d && roleScalarOk b)
    (if 1023 < n then .fail cOperandRange 0x20
     else s.tileSource a 1 fun t s =>
       .retire (s.putReg s.cur (scalarNo d) (if s.active.getLsbD n then (lane t n).setWidth 64 else 0))))

/-- VIDX: the lane index. -/
def execVidx (d : BitVec 7) (s : State) : Host.Outcome State Fault Refusal :=
  .next (vecItem s true (roleTileOk d) (s.writeLanes (tileNo d) (laneIds.map fun l => (BitVec.ofNat 32 l, 0))))

/-- One lane of DOT4.S (R218). -/
def dot4 (acc x y : BitVec 32) : Flagged :=
  let p (j : Nat) : Int := (x.extractLsb' (8 * j) 8).toInt * (y.extractLsb' (8 * j) 8).toInt
  saturate true (acc.toInt + p 0 + p 1 + p 2 + p 3)

/-- DOT4.S: a slot source must be a stream of .i8. -/
def execDot4S (d a b : BitVec 7) (s : State) : Host.Outcome State Fault Refusal :=
  let bad (f : BitVec 7) : Bool := f.getLsbD 6 && descFmt (at16 s.core.streams (selStream f)).desc != 5
  .next (
    if bad a then vecItem s true (roleTileOk d) (.fail cVectorShape ((selStream a).setWidth 64))
    else if bad b then vecItem s true (roleTileOk d) (.fail cVectorShape ((selStream b).setWidth 64))
    else lanes3 s d a b 4 dot4)

/-- A mask of two masks; every bit is written. -/
def masks2 (s : State) (d a b : BitVec 7) (f : BitVec 1024 → BitVec 1024 → BitVec 1024) : State :=
  vecItem s true (roleMaskOk d && roleMaskOk a && roleMaskOk b)
    (.retire (s.putMask (maskNo d) (f (s.mask (maskNo a)) (s.mask (maskNo b)))))

/-- MK.and. -/
def execMkAnd (d a b : BitVec 7) (s : State) : Host.Outcome State Fault Refusal := .next (masks2 s d a b (· &&& ·))
/-- MK.or. -/
def execMkOr (d a b : BitVec 7) (s : State) : Host.Outcome State Fault Refusal := .next (masks2 s d a b (· ||| ·))
/-- MK.xor. -/
def execMkXor (d a b : BitVec 7) (s : State) : Host.Outcome State Fault Refusal := .next (masks2 s d a b (· ^^^ ·))
/-- MK.andn. -/
def execMkAndn (d a b : BitVec 7) (s : State) : Host.Outcome State Fault Refusal :=
  .next (masks2 s d a b fun x y => x &&& ~~~y)

/-- MK.set: the lowest bits. -/
def execMkSet (d a : BitVec 7) (s : State) : Host.Outcome State Fault Refusal :=
  let n := min 1024 (s.reg s.cur (scalarNo a)).toNat
  .next (vecItem s (roleScalarCls a) (roleMaskOk d && roleScalarOk a)
    (.retire (s.putMask (maskNo d) (BitVec.ofNat 1024 (2 ^ n - 1)))))

/-! ## Float operations: major 0x0F (R219, R220) -/

/-- VFADD. -/
def execVfadd (d a b : BitVec 7) (s : State) : Host.Outcome State Fault Refusal := .next (lanes2 s d a b f32Add)
/-- VFSUB. -/
def execVfsub (d a b : BitVec 7) (s : State) : Host.Outcome State Fault Refusal := .next (lanes2 s d a b f32Sub)
/-- VFMUL. -/
def execVfmul (d a b : BitVec 7) (s : State) : Host.Outcome State Fault Refusal := .next (lanes2 s d a b f32Mul)
/-- VFMA. -/
def execVfma (d a b : BitVec 7) (s : State) : Host.Outcome State Fault Refusal := .next (lanes3 s d a b 1 (f32Fma false))
/-- VFNMA. -/
def execVfnma (d a b : BitVec 7) (s : State) : Host.Outcome State Fault Refusal := .next (lanes3 s d a b 1 (f32Fma true))
/-- VFMIN. -/
def execVfmin (d a b : BitVec 7) (s : State) : Host.Outcome State Fault Refusal := .next (lanes2 s d a b f32Min)
/-- VFMAX. -/
def execVfmax (d a b : BitVec 7) (s : State) : Host.Outcome State Fault Refusal := .next (lanes2 s d a b f32Max)
/-- VFABS. -/
def execVfabs (d a : BitVec 7) (s : State) : Host.Outcome State Fault Refusal := .next (lanes1 s d a fun x => (f32Abs x, 0))
/-- VFNEG. -/
def execVfneg (d a : BitVec 7) (s : State) : Host.Outcome State Fault Refusal := .next (lanes1 s d a fun x => (f32Neg x, 0))
/-- VFCEQ. -/
def execVfceq (d a b : BitVec 7) (s : State) : Host.Outcome State Fault Refusal :=
  .next (bits2 s d a b fun x y => ((f32Val x).eqv (f32Val y), signallingNv x y))
/-- VFCLT. -/
def execVfclt (d a b : BitVec 7) (s : State) : Host.Outcome State Fault Refusal :=
  .next (bits2 s d a b fun x y => ((f32Val x).lt (f32Val y), flagIf (unordered x y) fNV))
/-- VFCLE. -/
def execVfcle (d a b : BitVec 7) (s : State) : Host.Outcome State Fault Refusal :=
  .next (bits2 s d a b fun x y => ((f32Val x).lt (f32Val y) || (f32Val x).eqv (f32Val y), flagIf (unordered x y) fNV))
/-- VFCUN. -/
def execVfcun (d a b : BitVec 7) (s : State) : Host.Outcome State Fault Refusal :=
  .next (bits2 s d a b fun x y => (unordered x y, signallingNv x y))

/-- A tile and the low word of a scalar register. -/
def lanesScalar (s : State) (d a b : BitVec 7) (f : BitVec 32 → BitVec 32 → Flagged) : State :=
  let v : BitVec 32 := (s.reg s.cur (scalarNo b)).setWidth 32
  vecItem s (roleScalarCls b) (roleTileOk d && roleScalarOk b)
    (s.tileSource a 1 fun ta s => s.writeLanes (tileNo d) (ta.map fun x => f x v))

/-- VFMULS. -/
def execVfmuls (d a b : BitVec 7) (s : State) : Host.Outcome State Fault Refusal := .next (lanesScalar s d a b f32Mul)
/-- VFADDS. -/
def execVfadds (d a b : BitVec 7) (s : State) : Host.Outcome State Fault Refusal := .next (lanesScalar s d a b f32Add)

/-! ## Axis operations: major 0x10 (R221, R222) -/

/-- A lane that takes the source lane an index function gives, read across lanes (R202). -/
def moveLanes (s : State) (d a b : BitVec 7) (limit : Nat) (src : Nat → Nat → Nat → Nat) : State :=
  let k := (s.reg s.cur (scalarNo b)).toNat
  vecItem s (roleScalarCls b) (roleTileOk d && roleScalarOk b)
    (if limit < k then .fail cOperandRange 0x21
     else s.tileSource a 1 fun t s =>
       let t := crossLane s.active t
       s.writeLanes (tileNo d) (laneIds.map fun l => (lane t (src k (l / 64) (l % 64)), 0)))

/-- ROTR. -/
def execRotr (d a b : BitVec 7) (s : State) : Host.Outcome State Fault Refusal :=
  .next (moveLanes s d a b (2 ^ 64) fun k r c => r * 64 + (c + 64 - k % 64) % 64)
/-- ROTC. -/
def execRotc (d a b : BitVec 7) (s : State) : Host.Outcome State Fault Refusal :=
  .next (moveLanes s d a b (2 ^ 64) fun k r c => (r + 16 - k % 16) % 16 * 64 + c)
/-- BCR. -/
def execBcr (d a b : BitVec 7) (s : State) : Host.Outcome State Fault Refusal :=
  .next (moveLanes s d a b 63 fun k r _ => r * 64 + k)
/-- BCC. -/
def execBcc (d a b : BitVec 7) (s : State) : Host.Outcome State Fault Refusal :=
  .next (moveLanes s d a b 15 fun k _ c => k * 64 + c)

/-- One level of the reduction tree: neighbours combine (R222). -/
def pairUp (op : BitVec 32 → BitVec 32 → Flagged) : List Flagged → List Flagged
  | x :: y :: rest =>
    let (v, fl) := op x.1 y.1
    (v, x.2 ||| y.2 ||| fl) :: pairUp op rest
  | l => l

/-- The reduction of `2^levels` values (R222). -/
def reduceTree (op : BitVec 32 → BitVec 32 → Flagged) : Nat → List Flagged → Flagged
  | 0, l => l.headD (0, 0)
  | n + 1, l => reduceTree op n (pairUp op l)

/-- REDR and REDC: each active lane takes the reduction of its row or column (R221). -/
def reduce (s : State) (rows : Bool) (d a : BitVec 7) (op : BitVec 32 → BitVec 32 → Flagged) : State :=
  vecItem s true (roleTileOk d)
    (s.tileSource a 1 fun t s =>
      let t := crossLane s.active t
      let sums : List Flagged :=
        if rows then (List.range 16).map fun r => reduceTree op 6 ((List.range 64).map fun c => (lane t (r * 64 + c), 0))
        else (List.range 64).map fun c => reduceTree op 4 ((List.range 16).map fun r => (lane t (r * 64 + c), 0))
      s.writeLanes (tileNo d) (laneIds.map fun l => sums.getD (if rows then l / 64 else l % 64) (0, 0)))

def opMaxI : BitVec 32 → BitVec 32 → Flagged := plain fun x y => if x.slt y then y else x
def opMinI : BitVec 32 → BitVec 32 → Flagged := plain fun x y => if y.slt x then y else x
def opMaxN : BitVec 32 → BitVec 32 → Flagged := plain fun x y => if x.ult y then y else x
def opMinN : BitVec 32 → BitVec 32 → Flagged := plain fun x y => if y.ult x then y else x

/-- REDR.fadd. -/
def execRedrFadd (d a : BitVec 7) (s : State) : Host.Outcome State Fault Refusal := .next (reduce s true d a f32Add)
/-- REDR.fmax. -/
def execRedrFmax (d a : BitVec 7) (s : State) : Host.Outcome State Fault Refusal := .next (reduce s true d a f32Max)
/-- REDR.fmin. -/
def execRedrFmin (d a : BitVec 7) (s : State) : Host.Outcome State Fault Refusal := .next (reduce s true d a f32Min)
/-- REDR.add. -/
def execRedrAdd (d a : BitVec 7) (s : State) : Host.Outcome State Fault Refusal := .next (reduce s true d a (plain (· + ·)))
/-- REDR.max.i. -/
def execRedrMaxI (d a : BitVec 7) (s : State) : Host.Outcome State Fault Refusal := .next (reduce s true d a opMaxI)
/-- REDR.min.i. -/
def execRedrMinI (d a : BitVec 7) (s : State) : Host.Outcome State Fault Refusal := .next (reduce s true d a opMinI)
/-- REDR.max.n. -/
def execRedrMaxN (d a : BitVec 7) (s : State) : Host.Outcome State Fault Refusal := .next (reduce s true d a opMaxN)
/-- REDR.min.n. -/
def execRedrMinN (d a : BitVec 7) (s : State) : Host.Outcome State Fault Refusal := .next (reduce s true d a opMinN)
/-- REDC.fadd. -/
def execRedcFadd (d a : BitVec 7) (s : State) : Host.Outcome State Fault Refusal := .next (reduce s false d a f32Add)
/-- REDC.fmax. -/
def execRedcFmax (d a : BitVec 7) (s : State) : Host.Outcome State Fault Refusal := .next (reduce s false d a f32Max)
/-- REDC.fmin. -/
def execRedcFmin (d a : BitVec 7) (s : State) : Host.Outcome State Fault Refusal := .next (reduce s false d a f32Min)
/-- REDC.add. -/
def execRedcAdd (d a : BitVec 7) (s : State) : Host.Outcome State Fault Refusal := .next (reduce s false d a (plain (· + ·)))
/-- REDC.max.i. -/
def execRedcMaxI (d a : BitVec 7) (s : State) : Host.Outcome State Fault Refusal := .next (reduce s false d a opMaxI)
/-- REDC.min.i. -/
def execRedcMinI (d a : BitVec 7) (s : State) : Host.Outcome State Fault Refusal := .next (reduce s false d a opMinI)
/-- REDC.max.n. -/
def execRedcMaxN (d a : BitVec 7) (s : State) : Host.Outcome State Fault Refusal := .next (reduce s false d a opMaxN)
/-- REDC.min.n. -/
def execRedcMinN (d a : BitVec 7) (s : State) : Host.Outcome State Fault Refusal := .next (reduce s false d a opMinN)

/-! ## Conversion: major 0x11 (R223, R224) -/

/-- Whether a type code names a type that a lane holds (R223). -/
def cvtCode (n : BitVec 4) : Bool := n != 8 && decide (n.toNat ≤ 11)

/-- One destination lane of CVT: each of its written elements takes its source element (R224). -/
def cvtLane (src dst : Fmt) (ks kd p : Nat) (own cross : Tile) (l : Nat) (old : BitVec 32) : Flagged :=
  (List.range kd).foldl (fun r j =>
    let t := l * kd + j
    let e : Option Nat :=
      if ks ≤ kd then
        (if p * 1024 * ks ≤ t ∧ t < (p + 1) * 1024 * ks then some (t - p * 1024 * ks) else none)
      else some (p * 1024 * kd + t)
    match e with
    | none => r
    | some e =>
      let x := lane (if e / ks = l then own else cross) (e / ks)
      let (c, fl) := convertElem src dst (subElem ks (e % ks) x)
      (putSub kd j r.1 c, r.2 ||| fl)) (old, 0)

/-- CVT. -/
def execCvt (d a : BitVec 7) (f : BitVec 4) (p : BitVec 3) (t : BitVec 4) (s : State) : Host.Outcome State Fault Refusal :=
  .next (
    match fmtOf f.toNat, fmtOf t.toNat, perLane f.toNat, perLane t.toNat with
    | some src, some dst, some ks, some kd =>
      vecItem s true (roleTileOk d && cvtCode f && cvtCode t && decide (p.toNat < max ks kd / min ks kd))
        (s.tileSource a ks fun ta s => s.tileIn (tileNo d) fun td s =>
          let cross := crossLane s.active ta
          s.writeLanes (tileNo d) (List.zipWith (cvtLane src dst ks kd p.toNat ta cross) laneIds td))
    | _, _, _, _ => vecItem s true false (.retire s))

/-! ## Special functions: major 0x12 (R225 to R229) -/

/-- RCPA. -/
def execRcpa (d a : BitVec 7) (s : State) : Host.Outcome State Fault Refusal := .next (lanes1 s d a f32Rcpa)
/-- RSQA. -/
def execRsqa (d a : BitVec 7) (s : State) : Host.Outcome State Fault Refusal := .next (lanes1 s d a f32Rsqa)
/-- RCPN. -/
def execRcpn (d a b : BitVec 7) (s : State) : Host.Outcome State Fault Refusal := .next (lanes2 s d a b f32Rcpn)
/-- RSQN. -/
def execRsqn (d a b : BitVec 7) (s : State) : Host.Outcome State Fault Refusal := .next (lanes2 s d a b f32Rsqn)
/-- EXP2. -/
def execExp2 (d a : BitVec 7) (s : State) : Host.Outcome State Fault Refusal := .next (lanes1 s d a f32Exp2)
/-- LOG2. -/
def execLog2 (d a : BitVec 7) (s : State) : Host.Outcome State Fault Refusal := .next (lanes1 s d a f32Log2)

/-- RAND: 256 blocks of Philox4x32-10 from the counter in two tiles (R229). -/
def execRand (d a b : BitVec 7) (s : State) : Host.Outcome State Fault Refusal :=
  let key := s.reg s.cur (scalarNo b)
  .next (vecItem s (roleScalarCls b) (roleTileOk d && roleTileOk a && !a.getLsbD 0 && roleScalarOk b)
    (s.tileIn (tileNo a) fun lo s => s.tileIn (tileNo a ||| 1) fun hi s =>
      let lo := crossLane s.active lo
      let hi := crossLane s.active hi
      let x : BitVec 128 := lane hi 1 ++ lane hi 0 ++ lane lo 1 ++ lane lo 0
      s.writeLanes (tileNo d)
        (((List.range 256).flatMap fun i => philox (x + BitVec.ofNat 128 i) key).map fun w => (w, 0))))

/-! ## Pushes and pops of tiles (R194) -/

/-- RING.PUSH of a tile on V: its 4,096 bytes at the slot's start. -/
def execRingPushV (h : BitVec 4) (o : BitVec 2) (v : BitVec 6) (s : State) : Host.Outcome State Fault Refusal :=
  .next (runItem s 2 ringStrands false (s.cur == .V) true
    (s.tileIn v fun t s => s.push s.cur h o.toNat 0 (imageBytes t)))

/-- RING.POP into a tile on V: every lane is written, whatever the mask. -/
def execRingPopV (h : BitVec 4) (o : BitVec 2) (v : BitVec 6) (s : State) : Host.Outcome State Fault Refusal :=
  .next (runItem s 2 ringStrands false (s.cur == .V) true
    (s.tileIn v fun _ s => s.pop s.cur h o.toNat 0 4096 fun bs s => s.writeTile v (lanesOf 1024 bs) .retire))

/-! ## Parking (R204) -/

/-- Whether the V strand is stopped: also when it stands in a bundle, and K is at S (R121) or another strand of the bundle has faulted
(R11 item 6). -/
def State.vStopped (s : State) : Bool :=
  (s.core.v.run != .running && s.core.v.run != .meeting) ||
    (s.core.v.lockstep && (s.sys.levelS || strandIds.any fun x => (s.strand x).lockstep && (s.strand x).run == .faulted))

/-- A parking command is refused. -/
def State.refusePark (s : State) : State := s.onVec fun v => { v with parkErr := true }

/-- The idle bank parked under a slot. -/
def VectorState.parkedIn (v : VectorState) (pslot : BitVec 6) : Option Nat :=
  (v.idle.find? fun kv => kv.2 == .parked pslot).map (·.1)

/-- Parks vN in a park slot. DESIGN CHOICE: a command that succeeds leaves an ERR of an earlier one, which only a write of 1 clears
(log 39). -/
def State.park (s : State) (tile pslot : BitVec 6) : State :=
  let v := s.core.vec
  if !s.vStopped || (v.parkedIn pslot).isSome then s.refusePark
  else match v.freeBank with
    | none => s.refusePark
    | some b => s.onVec fun v => { (v.copyBank (s.bankOf tile) b) with idle := kSet v.idle b (.parked pslot) }

/-- Unparks a park slot into vN; none while a snapshot that the write of vN needs finds no FREE bank: the command stalls (R206). -/
def State.unparkNow (s : State) (tile pslot : BitVec 6) : Option State :=
  match s.core.vec.parkedIn pslot with
  | some b =>
    if !s.vStopped then some s.refusePark
    else (s.snapTile tile).map fun s =>
      (s.keepPast tile).onVec fun v => { (v.copyBank b (s.bankOf tile)) with idle := kDel v.idle b }
  | none => some s.refusePark

/-- Unparks a park slot into vN, or changes nothing yet. -/
def State.unpark (s : State) (tile pslot : BitVec 6) : State := (s.unparkNow tile pslot).getD s

/-- V_PARK: a v.park write with DIR 0. -/
def execVPark (tile : BitVec 6) (pslot : BitVec 7) (s : State) : Host.Outcome State Fault Refusal :=
  .next (s.park tile (pslot.setWidth 6))

/-- V_UNPARK: a v.park write with DIR 1. -/
def execVUnpark (tile : BitVec 6) (pslot : BitVec 7) (s : State) : Host.Outcome State Fault Refusal :=
  .next (s.unpark tile (pslot.setWidth 6))

end Sys2Proof.Machine
end

