-- ==== Sys2Proof/Machine/Gather.lean ====
section
/-!
DEFINITION. Vector memory instructions: major 0x13, VLD, VST, VGATH, VSCAT and VAMO (R230 to R233).
-/
namespace Sys2Proof.Machine

/-! ## Lane addresses -/

/-- The active lanes with their addresses, lowest lane first. -/
abbrev LaneAddrs := List (Nat × BitVec 64)

/-- Addresses of VLD and VST: rows of a stride (R231). -/
def rowAddrs (act : BitVec 1024) (base st : BitVec 64) : LaneAddrs :=
  (laneIds.filter fun l => act.getLsbD l).map fun l => (l, base + BitVec.ofNat 64 (l / 64) * st + BitVec.ofNat 64 (4 * (l % 64)))

/-- Addresses of VGATH, VSCAT and VAMO: an index for each lane (R232). -/
def indexAddrs (act : BitVec 1024) (base : BitVec 64) (idx : Tile) : LaneAddrs :=
  ((List.zip laneIds idx).filter fun p => act.getLsbD p.1).map fun p => (p.1, base + (p.2.signExtend 64) * 4)

/-- DETAIL with the lane index (R208). -/
def laneDetail (d : BitVec 64) (l : Nat) : BitVec 64 := d ||| place 64 (BitVec.ofNat 10 l) 16

/-- The alignment of the base, and of the stride (R231, R232). DESIGN CHOICE: the record, for which the manual names no address and no
lane, carries the base as ADDR, also where only the stride is misaligned, and the lowest active lane (log 39). -/
def misaligned (need : Need) (act : BitVec 1024) (a st : BitVec 64) : Option Res :=
  if a.toNat % 4 ≠ 0 ∨ st.toNat % 4 ≠ 0 then
    some (.trap cDataAlign (laneDetail (accessBits need 4 (a.getLsbD 63)) ((laneIds.find? fun l => act.getLsbD l).getD 0)) a)
  else none

/-! ## Loads -/

/-- Checks every lane's address and page for a load (R231): the first failure is the item's. -/
def State.checkLoads (s : State) (x : StrandId) : LaneAddrs → (State → Res) → Res
  | [], k => k s
  | (l, ea) :: rest, k =>
    match s.checkAddr x ea .read 4 1 with
    | .error b => .trap b.cause (laneDetail b.detail l) b.addr
    | .ok (.scratch _ _) => State.checkLoads s x rest k
    | .ok (.global va) =>
      match s.checkWrite pathCore (s.atS x) .read va 4 with
      | .wait s => .wait s
      | .fail f bits v _ => .trap f (laneDetail (faultDetail f bits .read 4) l) (BitVec.ofNat 64 v)
      | .ok s => State.checkLoads s x rest k

/-- Reads four bytes for each address as LD.w reads (R174, R231), through a class; the first failure is the item's. -/
def State.loadLanes (s : State) (x : StrandId) (cls : Nat) : LaneAddrs → Tile → (Tile → State → Res) → Res
  | [], t, k => k t s
  | (l, ea) :: rest, t, k =>
    match s.checkAddr x ea .read 4 1 with
    | .error b => .trap b.cause (laneDetail b.detail l) b.addr
    | .ok (.scratch p a) =>
      State.loadLanes s x cls rest (t.set l (ofBytes 32 (s.scratchRead p (scratchOff a) 4))) k
    | .ok (.global va) =>
      match s.readVirtual (s.readAs x cls) va 4 with
      | .ok bs s => State.loadLanes s x cls rest (t.set l (ofBytes 32 bs)) k
      | .wait s => .wait s
      | .fail c bits va _ => .trap c (laneDetail (faultDetail c bits .read 4) l) (BitVec.ofNat 64 va)

/-- Loads the lanes of vD, every lane checked before any is read. -/
def State.vload (s : State) (cls : Nat) (d : BitVec 6) (addrs : LaneAddrs) : Res :=
  s.tileIn d fun old s => s.checkLoads s.cur addrs fun s => s.loadLanes s.cur cls addrs old fun t s => s.writeTile d t .retire

/-- The row stride of VLD and VST. -/
def strideOf (v : BitVec 64) : BitVec 64 := if v = 0 then 256 else v

/-- VLD. -/
def execVld (d a b : BitVec 7) (s : State) : Host.Outcome State Fault Refusal :=
  let base := s.reg s.cur (scalarNo a)
  let st := strideOf (s.reg s.cur (scalarNo b))
  .next (vecItem s (roleScalarCls a && roleScalarCls b) (roleTileOk d && roleScalarOk a && roleScalarOk b)
    ((misaligned .read s.active base st).getD (s.vload clsLS (tileNo d) (rowAddrs s.active base st))))

/-- VGATH. -/
def execVgath (d a b : BitVec 7) (s : State) : Host.Outcome State Fault Refusal :=
  let base := s.reg s.cur (scalarNo a)
  .next (vecItem s (roleScalarCls a) (roleTileOk d && roleScalarOk a)
    ((misaligned .read s.active base 0).getD
      (s.tileSource b 1 fun idx s => s.vload clsGS (tileNo d) (indexAddrs s.active base idx))))

/-! ## Stores -/

/-- The bytes that lanes write to one 64-byte block (R231). -/
structure BlockWrite where
  place : Place
  mask : BitVec 64
  data : BitVec 512

/-- The block of a place. -/
def Place.block : Place → Place
  | .scratch p a => .scratch p (a &&& ~~~63)
  | .global va => .global (va / 64 * 64)

/-- The first byte of a place in its block. -/
def Place.inBlock : Place → Nat
  | .scratch _ a => a.toNat % 64
  | .global va => va % 64

/-- Adds `n` bytes at a place to the block writes, in the order of their first bytes: one write for each block (R231). -/
def addBytes (l : List BlockWrite) (p : Place) (n : Nat) (v : BitVec 64) : List BlockWrite :=
  let i := p.inBlock
  let m := byteMask i n
  let bits : BitVec 512 := BitVec.ofNat 512 ((2 ^ (8 * n) - 1) * 2 ^ (8 * i))
  let put (w : BlockWrite) : BlockWrite := { w with mask := w.mask ||| m, data := (w.data &&& ~~~bits) ||| ((v.setWidth 512 <<< (8 * i)) &&& bits) }
  if l.any fun w => w.place == p.block then l.map fun w => if w.place = p.block then put w else w
  else l ++ [put ⟨p.block, 0, 0⟩]

/-- The block writes of lanes of four bytes, which lie in one block or in two. -/
def addLane (l : List BlockWrite) (p : Place) (v : BitVec 32) : List BlockWrite := addBytes l p 4 (v.setWidth 64)

/-- Checks every lane's address for a store (R231): the first failure is the item's. -/
def State.storeLanes (s : State) (x : StrandId) : LaneAddrs → Tile → List BlockWrite → (List BlockWrite → State → Res) → Res
  | [], _, ws, k => k ws s
  | (l, ea) :: rest, t, ws, k =>
    match s.checkAddr x ea .write 4 1 with
    | .error b => .trap b.cause (laneDetail b.detail l) b.addr
    | .ok (.scratch p a) => State.storeLanes s x rest t (addLane ws (.scratch p a) (lane t l)) k
    | .ok (.global va) =>
      match s.checkWrite pathCore (s.atS x) .write va 4 with
      | .wait s => .wait s
      | .fail f bits v _ => .trap f (laneDetail (faultDetail f bits .write 4) l) (BitVec.ofNat 64 v)
      | .ok s => State.storeLanes s x rest t (addLane ws (.global va) (lane t l)) k

/-- One block write: to scratchpad at once, with its pre-image; to global memory as one side-log entry (R179). -/
def State.blockStore (s : State) (x : StrandId) (cls : Nat) (c : Coord) (keep stepped : Bool) (op : Nat) (w : BlockWrite) : Stored :=
  match w.place with
  | .scratch p a =>
    let off := scratchOff a
    let bytes := (List.range 64).filter fun i => w.mask.getLsbD i && decide (off + i < 0x3E0000)
    let write (s : State) : State := s.onMu fun m => { m with scratch := bytes.foldl (fun t i =>
      cellSet t (scratchBase p + off + i) (w.data.extractLsb' (8 * i) 8)) m.scratch }
    if keep && !bytes.isEmpty then
      if s.slagRoom 1 then
        .done (write (s.slagAdd { kind := .scratch, strand := x, loc := a, cell := scratchBase p + off, mask := w.mask
                                  coord := c, data := ofBytes 512 (s.scratchRead p off 64), undo := .none, slot := 0 }))
      else .full
    else .done (write s)
  | .global va =>
    if s.sideRoom 1 then
      .done (s.sideAdd { id := 0, state := if keep then .held else .pend, strand := x, kind := .store, afn := 0, amod := 0
                         scope := 0, addr := BitVec.ofNat 64 va, mask := w.mask, coord := c, cause := 0, seq := 0
                         data := w.data, cls := cls, lane := none, compare := 0, atS := s.atS x, sup := s.atS x, replay := false, ovf := none, seen := 0
                         posted := false, readers := 0, covers := [], stepped := stepped, op := op })
    else .full

/-- Every block write, in order; with no room for one the item waits and nothing stands. -/
def State.blockStores (s : State) (x : StrandId) (cls : Nat) (ws : List BlockWrite) (k : State → Res) : Res :=
  let c := (s.strand x).coord
  let r := ws.foldl (fun (r : Option State × Bool) w =>
    match r with
    | (some t, _) =>
      match t.blockStore x cls c (t.kept x c) (t.stepping x) s.core.nextEntry w with
      | .done t => (some t, false)
      | .full => (none, match w.place with | .global _ => true | _ => false)
    | r => r) (some s, false)
  match r with
  | (some s, _) => k s
  | (none, true) => .wait (s.sideFull x)
  | (none, false) => .wait s

/-- Stores the active lanes of vD. -/
def State.vstore (s : State) (cls : Nat) (d : BitVec 6) (addrs : LaneAddrs) : Res :=
  s.tileIn d fun t s => s.storeLanes s.cur addrs t [] fun ws s => s.blockStores s.cur cls ws .retire

/-- VST. -/
def execVst (d a b : BitVec 7) (s : State) : Host.Outcome State Fault Refusal :=
  let base := s.reg s.cur (scalarNo a)
  let st := strideOf (s.reg s.cur (scalarNo b))
  .next (vecItem s (roleScalarCls a && roleScalarCls b) (roleTileOk d && roleScalarOk a && roleScalarOk b)
    ((misaligned .write s.active base st).getD (s.vstore clsLS (tileNo d) (rowAddrs s.active base st))))

/-- VSCAT. -/
def execVscat (d a b : BitVec 7) (s : State) : Host.Outcome State Fault Refusal :=
  let base := s.reg s.cur (scalarNo a)
  .next (vecItem s (roleScalarCls a) (roleTileOk d && roleScalarOk a)
    ((misaligned .write s.active base 0).getD
      (s.tileSource b 1 fun idx s => s.vstore clsGS (tileNo d) (indexAddrs s.active base idx))))

/-! ## Vector atomics (R233) -/

/-- Checks every lane's address for an atomic, before any lane is performed. -/
def State.checkLanes (s : State) (x : StrandId) (size align : Nat) : LaneAddrs → List (Nat × Place) → (List (Nat × Place) → State → Res) → Res
  | [], ps, k => k ps.reverse s
  | (l, ea) :: rest, ps, k =>
    match s.checkAddr x ea .atomic size align with
    | .error b => .trap b.cause (laneDetail b.detail l) b.addr
    | .ok (.scratch p a) => State.checkLanes s x size align rest ((l, .scratch p a) :: ps) k
    | .ok (.global va) =>
      match s.checkWrite pathCore (s.atS x) .atomic va size with
      | .wait s => .wait s
      | .fail f bits v _ => .trap f (laneDetail (faultDetail f bits .atomic size) l) (BitVec.ofNat 64 v)
      | .ok s => State.checkLanes s x size align rest ((l, .global va) :: ps) k

/-- What the lanes come to: the state, the tile with the results of scratchpad lanes, whether a lane is out. -/
inductive LaneRun where
  | going (s : State) (t : Tile) (out : Bool)
  | full (side : Bool)

/-- Issues one lane of a vector atomic. -/
def State.laneAtomic (s : State) (x : StrandId) (op fn : Nat) (amod : BitVec 2) (n : BitVec 6) (t : Tile) (out : Bool)
    (l : Nat) : Place → LaneRun
  | .scratch p a =>
    let c := (s.strand x).coord
    let o := amoDo fn amod (s.scratchRead p (scratchOff a) (amoSize fn amod)) ((lane t l).setWidth 64) 0
    match s.scratchStore x c (s.kept x c) p a o.new with
    | .done s => .going (s.addFlags x o.flags) (t.set l (o.ret.setWidth 32)) out
    | .full => .full false
  | .global va =>
    let c := (s.strand x).coord
    if s.sideRoom 1 then
      .going (s.sideAdd (amoEntry x clsGS fn amod va ((lane t l).setWidth 64) 0 c (s.kept x c) (s.atS x) (s.stepping x) op
        (some (n, BitVec.ofNat 10 l)))) t true
    else .full true

/-- A vector atomic: the lanes are checked, then issued in lane order; the item waits for the results of the lanes that
do not fault (R182, R233). -/
def vecAtomic (s : State) (fn0 : Nat) (amod : BitVec 2) (d a b : BitVec 7) : State :=
  let base := s.reg s.cur (scalarNo a)
  let fn := s.amoFn fn0
  let size := amoSize fn amod
  let n := tileNo d
  vecItem s (roleScalarCls a) (roleTileOk d && roleScalarOk a)
    (match (s.strand s.cur).amo with
     | some _ =>
       if s.core.side.any fun e => e.lane.isSome && e.state != .faulted then .wait s
       else .retire (s.onStrand s.cur fun t => { t with amo := none })
     | none =>
       (misaligned .atomic s.active base 0).getD
         (s.tileSource b 1 fun idx s => s.tileIn n fun t s =>
           s.checkLanes s.cur size (if fn = 2 then 32 else 1) (indexAddrs s.active base idx) [] fun ps s =>
             match s.snapTile n with
             | none => .wait s
             | some s0 =>
               match ps.foldl (fun r p => match r with
                 | .going s t out => s.laneAtomic s.cur s0.core.nextEntry fn amod n t out p.1 p.2
                 | r => r) (LaneRun.going s0 t false) with
               | .full true => .wait (s.sideFull s.cur)
               | .full false => .wait s
               | .going s t out =>
                 let s := s.putTile n t
                 if out then .wait (s.onStrand s.cur fun t => { t with amo := some ⟨0, n, if s.dry then 0 else 2, none, 0, none⟩ })
                 else .retire s))

/-- VAMO.add. -/
def execVamoAdd (d a b : BitVec 7) (s : State) : Host.Outcome State Fault Refusal := .next (vecAtomic s 0x00 0 d a b)
/-- VAMO.fadd. -/
def execVamoFadd (d a b : BitVec 7) (s : State) : Host.Outcome State Fault Refusal := .next (vecAtomic s 0x01 0 d a b)
/-- VAMO.min.i. -/
def execVamoMinI (d a b : BitVec 7) (s : State) : Host.Outcome State Fault Refusal := .next (vecAtomic s 0x04 0 d a b)
/-- VAMO.min.n. -/
def execVamoMinN (d a b : BitVec 7) (s : State) : Host.Outcome State Fault Refusal := .next (vecAtomic s 0x04 2 d a b)
/-- VAMO.max.i. -/
def execVamoMaxI (d a b : BitVec 7) (s : State) : Host.Outcome State Fault Refusal := .next (vecAtomic s 0x05 0 d a b)
/-- VAMO.max.n. -/
def execVamoMaxN (d a b : BitVec 7) (s : State) : Host.Outcome State Fault Refusal := .next (vecAtomic s 0x05 2 d a b)
/-- VAMO.and. -/
def execVamoAnd (d a b : BitVec 7) (s : State) : Host.Outcome State Fault Refusal := .next (vecAtomic s 0x06 0 d a b)
/-- VAMO.or. -/
def execVamoOr (d a b : BitVec 7) (s : State) : Host.Outcome State Fault Refusal := .next (vecAtomic s 0x07 0 d a b)
/-- VAMO.xor. -/
def execVamoXor (d a b : BitVec 7) (s : State) : Host.Outcome State Fault Refusal := .next (vecAtomic s 0x08 0 d a b)
/-- VAMO.swap. -/
def execVamoSwap (d a b : BitVec 7) (s : State) : Host.Outcome State Fault Refusal := .next (vecAtomic s 0x09 0 d a b)

end Sys2Proof.Machine
end

