-- ==== Sys2Proof/Machine/Keccak.lean ====
section
/-!
DEFINITION. SHAKE256, which the manual names and does not define: PRESUMED to be that of FIPS 202 (log 9). Its rotations
and round constants are computed where they are used, as the steps of that standard define them.
-/
namespace Sys2Proof.Machine

/-- The state of the permutation, column by column: lane `y` of column `x`; and the register its round constants come from. -/
structure Sponge where
  cols : Array (Array (BitVec 64))
  lfsr : BitVec 8

/-- The empty sponge. -/
def Sponge.empty : Sponge := ⟨Array.replicate 5 (Array.replicate 5 0), 1⟩

/-- Lane `y` of column `x`; both wrap at five. -/
def Sponge.lane (p : Sponge) (x y : Nat) : BitVec 64 := (p.cols.getD (x % 5) #[]).getD (y % 5) 0

/-- Every lane anew, from its column and place. -/
def Sponge.fill (p : Sponge) (f : Nat → Nat → BitVec 64) : Sponge :=
  { p with cols := (Array.range 5).map fun x => (Array.range 5).map fun y => f x y }

/-- The sum of a column. -/
def Sponge.parity (p : Sponge) (x : Nat) : BitVec 64 := (p.cols.getD (x % 5) #[]).foldl BitVec.xor 0

/-- Each lane takes up the parities of the columns beside it. -/
def Sponge.mixColumns (p : Sponge) : Sponge :=
  let turn := (Array.range 5).map fun x => p.parity (x + 4) ^^^ (p.parity (x + 1)).rotateLeft 1
  p.fill fun x y => p.lane x y ^^^ turn.getD x 0

/-- Carries the lanes along the cycle that starts at column 1: from `(x, y)` to `(y, 2x + 3y)`, the step `t` turning by the
triangular number of `t`. Lane `(0, 0)` stays. -/
def Sponge.carry (p : Sponge) : Nat → Nat → Nat → Nat → Array (Array (BitVec 64)) → Array (Array (BitVec 64))
  | 0, _, _, _, out => out
  | n + 1, t, x, y, out =>
    let u := (2 * x + 3 * y) % 5
    Sponge.carry p n (t + 1) y u (out.modify y fun col => col.setIfInBounds u ((p.lane x y).rotateLeft (t * (t + 1) / 2 % 64)))

/-- The next state of the register: it divides by x^8 + x^6 + x^5 + x^4 + 1. -/
def stepLfsr (r : BitVec 8) : BitVec 8 := (r <<< 1) ^^^ (if r.getLsbD 7 then 0x71 else 0)

/-- Seven bits of the register enter lane `(0, 0)`, at the places one below the powers of two. -/
def Sponge.addConstant (p : Sponge) : Sponge :=
  let (r, v) := (List.range 7).foldl (fun (st : BitVec 8 × BitVec 64) j =>
    (stepLfsr st.1, if st.1.getLsbD 0 then st.2 ^^^ (1#64 <<< (2 ^ j - 1)) else st.2)) (p.lfsr, p.lane 0 0)
  ⟨p.cols.modify 0 fun col => col.setIfInBounds 0 v, r⟩

/-- One round. -/
def Sponge.round (p : Sponge) : Sponge :=
  let p := p.mixColumns
  let p := { p with cols := p.carry 24 1 1 0 p.cols }
  (p.fill fun x y => p.lane x y ^^^ (p.lane (x + 2) y &&& ~~~p.lane (x + 1) y)).addConstant

/-- The twenty-four rounds; the register begins anew. -/
def Sponge.stir (p : Sponge) : Sponge := (List.range 24).foldl (fun q _ => q.round) { p with lfsr := 1 }

/-- Byte `i` of a message with its domain bits and its padding to whole blocks of 136 bytes. -/
def paddedByte (m : Array (BitVec 8)) (i : Nat) : BitVec 8 :=
  m.getD i (if i = m.size then 0x1F else 0) ^^^ (if i + 1 = (m.size / 136 + 1) * 136 then 0x80 else 0)

/-- Takes up block `k` of a message, eight bytes a lane. -/
def Sponge.soak (p : Sponge) (m : Array (BitVec 8)) (k : Nat) : Sponge :=
  (p.fill fun x y =>
    let w := 5 * y + x
    if w < 17 then p.lane x y ^^^ ofBytes 64 ((List.range 8).map fun b => paddedByte m (136 * k + 8 * w + b)) else p.lane x y).stir

/-- The first 64 bytes of SHAKE256 of a message, held in an array. -/
def shakeArray (a : Array (BitVec 8)) : BitVec 512 :=
  let p := (List.range (a.size / 136 + 1)).foldl (fun p k => p.soak a k) Sponge.empty
  (List.range 8).foldl (fun v w => v ||| place 512 (p.lane w (w / 5)) (64 * w)) 0

/-- The first 64 bytes of SHAKE256 of a message. -/
def shake256 (m : List (BitVec 8)) : BitVec 512 := shakeArray m.toArray

end Sys2Proof.Machine
end

