-- ==== Sys2Proof/Machine/Objects.lean ====
section
/-!
DEFINITION. Plane objects and context images as bytes: the digest of an object and its relocation (R60), and the layout, header and
digest of an image (R108 to R111).
-/
namespace Sys2Proof.Machine

/-! ## Plane objects (R60) -/

/-- A section as the digest takes it: KIND, load address and length, then its bytes. -/
def sectionBytes (kind addr : Nat) (bs : List (BitVec 8)) : List (BitVec 8) :=
  toBytes 4 (BitVec.ofNat 32 kind) ++ toBytes 4 (BitVec.ofNat 32 addr) ++ toBytes 8 (BitVec.ofNat 64 bs.length) ++ bs

/-- The entries of a carry table. -/
def carryBytes (t : List (BitVec 16 × BitVec 64)) : List (BitVec 8) :=
  t.flatMap fun e => toBytes 8 (e.1.setWidth 64) ++ toBytes 8 e.2

/-- The register window of strand `x`: s0..s31, a0..a31, k.flags and v.mask, in words of 8 bytes. -/
def Window.bytes (w : Window) (x : StrandId) : List (BitVec 8) :=
  let words (b : Bank) : List (BitVec 8) := b.toList.flatMap (toBytes 8)
  let s := match x with | .K => w.sK | .A => w.sA | .V => w.sV | .M => w.sM
  words s ++ words (if x = .A then w.a else Bank.zero) ++
    toBytes 8 ((w.flags.toList.getD (strandNum x) 0).setWidth 64) ++
    toBytes 8 (if x = .V then w.vmask.setWidth 64 else 0 : BitVec 64)

/-- The task fields. -/
def PlaneObject.taskBytes (o : PlaneObject) : List (BitVec 8) :=
  [o.nest.setWidth 8, o.settle.setWidth 8, o.trail.setWidth 8, BitVec.ofNat 8 o.inputs.length, BitVec.ofNat 8 o.outputs.length, 0, 0, 0] ++
    o.inputs.flatMap (toBytes 8) ++ (o.outputs.flatMap fun r => toBytes 8 r.1 ++ toBytes 8 r.2) ++ toBytes 8 (o.tvec.setWidth 64) ++
    strandIds.flatMap o.window.bytes

/-- A byte with a bit replaced. -/
def putBit (b : Bool) (n : Nat) (x : BitVec 8) : BitVec 8 := if b then x ||| (1#8 <<< n) else x &&& ~~~(1#8 <<< n)

/-- Replaces bits of a section, given by their numbers, lowest of the value first (R60). -/
def putBits (bs : List (BitVec 8)) (bits : List Nat) (v : BitVec 64) : List (BitVec 8) :=
  (List.range bits.length).foldl (fun bs i =>
    let b := bits.getD i 0
    bs.modify (b / 8) (putBit (v.getLsbD i) (b % 8))) bs

/-- The halfwords of a section's bytes. -/
def halvesOf : List (BitVec 8) → List (BitVec 16)
  | lo :: hi :: rest => (hi ++ lo) :: halvesOf rest
  | _ => []

/-- A bank of 32 registers from words of 8 bytes. -/
def bankOf (bs : List (BitVec 8)) : Bank := Vector.ofFn fun i => ofBytes 64 ((bs.drop (8 * i.val)).take 8)

/-- The window of the four strands, from the bytes of `Window.bytes` of each in turn. -/
def readWindow (bs : List (BitVec 8)) : Window :=
  let part (n : Nat) : List (BitVec 8) := (bs.drop (528 * n)).take 528
  let s (n : Nat) : Bank := bankOf (part n)
  { sK := s 0, sA := s 1, sV := s 2, sM := s 3, a := bankOf ((part 1).drop 256)
    flags := Vector.ofFn fun n => ofBytes 13 (((part n.val).drop 512).take 8)
    vmask := ofBytes 4 (((part 2).drop 520).take 8) }

/-- An object with other task fields: the counts of its input keys and output pairs stand. -/
def PlaneObject.withTask (o : PlaneObject) (bs : List (BitVec 8)) : PlaneObject :=
  let word (i : Nat) : BitVec 64 := ofBytes 64 ((bs.drop (8 + 8 * i)).take 8)
  let n := o.inputs.length
  let m := o.outputs.length
  { o with
    inputs := (List.range n).map word, outputs := (List.range m).map fun i => (word (n + 2 * i), word (n + 2 * i + 1))
    tvec := (word (n + 2 * m)).setWidth 16, window := readWindow (bs.drop (8 + 8 * (n + 2 * m + 1))) }

/-- An object with a value in one relocated field, which lies in a code section, a data section or the task fields (R60). -/
def PlaneObject.fillReloc (o : PlaneObject) (r : Reloc) (v : BitVec 64) : PlaneObject :=
  let put (bs : List (BitVec 8)) : List (BitVec 8) := putBits bs r.bits v
  match r.part with
  | .code x => { o with code := o.code.set! (strandNum x) (halvesOf (put ((o.codeOf x).flatMap (toBytes 2)))) }
  | .data n => { o with sections := o.sections.modify n fun d => (d.1, put d.2) }
  | .task => o.withTask (put o.taskBytes)

/-- An object with a value in every relocated field. -/
def PlaneObject.fillRelocs (o : PlaneObject) (value : Reloc → BitVec 64) : PlaneObject :=
  o.relocs.foldl (fun o r => o.fillReloc r (value r)) o

/-- The bytes that the object hash is taken over, with every relocated field zero. -/
def PlaneObject.bytes (o : PlaneObject) : List (BitVec 8) :=
  let o := o.fillRelocs fun _ => 0
  (strandIds.flatMap fun x => sectionBytes (strandNum x) 0 ((o.codeOf x).flatMap (toBytes 2))) ++
    ((sortKey (·.1) (o.sections.filter fun d => !d.2.isEmpty)).flatMap fun d => sectionBytes 4 d.1 d.2) ++
    sectionBytes 5 0 (carryBytes o.vtable) ++ sectionBytes 6 0 (carryBytes o.mtable) ++ sectionBytes 7 0 o.taskBytes

/-- The object hash of an object's bytes. -/
def PlaneObject.digest (o : PlaneObject) : BitVec 64 := (shake256 o.bytes).setWidth 64

/-- Whether an object's bytes match the hash it is kept under (R399). -/
def PlaneObject.intact (o : PlaneObject) : Bool := o.digest == o.hash

/-- An object that the loader can find. -/
def State.objectOf (s : State) (hash : BitVec 64) : Option PlaneObject := s.pk.objects.find? (·.hash == hash)

/-- An object whose hash holds, and so do those of the objects it refers to (R399 code 0x04). -/
def State.usable (s : State) (o : PlaneObject) : Bool :=
  o.intact && o.relocs.all fun r => match s.objectOf r.object with | some t => t.intact | none => false

/-- The machine with another context's tables in force. -/
def State.under (s : State) (ctx : BitVec 32) (mroot : BitVec 64) : State := s.onSys fun y => { y with ctx := ctx, mroot := mroot }

/-- Whether the plane loader may read an object: every page that it lies in carries the code permit (R363, R398). -/
def State.codePermit (s : State) (o : PlaneObject) : Bool :=
  (pages o.base.toNat o.bytes.length).all fun p =>
    match s.walk p.1 with
    | .ok (_, w, _) => leafAper w != 0 && leafX w
    | .error _ => false

/-- Whether the loader can load an object: the hashes hold, and it may read the pages (R111, R399 code 0x04). -/
def State.loadable (s : State) (o : PlaneObject) : Bool := s.usable o && s.codePermit o

/-- What a pair (object hash, offset) gives: the address at which the named object now lies, plus the offset (R60). -/
def State.pairValue (s : State) (r : Reloc) : BitVec 64 := (match s.objectOf r.object with | some t => t.base | none => 0) + r.offset

/-- The object as it is loaded into a plane, its pairs resolved (R60). -/
def State.resolve (s : State) (o : PlaneObject) : PlaneObject := o.fillRelocs s.pairValue

/-- The other objects that an object's pairs name. -/
def State.namedBy (s : State) (o : PlaneObject) : List PlaneObject := ((o.relocs.map (·.object)).eraseDups.filter (· ≠ o.hash)).filterMap s.objectOf

/-- The word of the register window that a field of the task fields lies in, counted over the four strands, where it lies in one (R60). -/
def PlaneObject.windowWord (o : PlaneObject) (r : Reloc) : Option Nat :=
  let first := 64 + 64 * (o.inputs.length + 2 * o.outputs.length + 1)
  match r.bits with
  | [] => none
  | b :: rest => if first ≤ b ∧ rest.all (fun c => first ≤ c && (c - first) / 64 == (b - first) / 64) then some ((b - first) / 64) else none

/-- A field's bits, counted from a bit on. -/
def Reloc.from (r : Reloc) (first : Nat) : Reloc := { r with bits := r.bits.map (· - first) }

/-- The byte of the core's own scratchpad that bit `b` of a section at an offset lies in. -/
def State.pairCell (s : State) (off b : Nat) : Nat := s.pk.pcore.toNat * 2 ^ 22 + off + b / 8

/-- The register that a place of a pair names. -/
def State.pairReg (s : State) (x : StrandId) (n : Nat) : BitVec 64 :=
  if n < 32 then (s.strand x).s.toList.getD n 0 else s.core.areg.toList.getD (n - 32) 0

/-- Whether the value that a pair now has stands at its place. -/
def State.pairStands (s : State) (p : PairAt × Reloc) : Bool :=
  let v := s.pairValue p.2
  (List.range p.2.bits.length).all fun i =>
    let b := p.2.bits.getD i 0
    v.getLsbD i == match p.1 with
      | .scratch off => (cellGet s.pk.mu.scratch (s.pairCell off b)).getLsbD (b % 8)
      | .reg x n => (s.pairReg x n).getLsbD b

/-- Where the fields of an object's data sections and of its register window are loaded: in the scratchpad, and in registers. -/
def PlaneObject.pairPlaces (o : PlaneObject) : List (PairAt × Reloc) :=
  o.relocs.filterMap fun r =>
    match r.part with
    | .data n => (o.sections[n]?).map fun d => (.scratch d.1, r)
    | .task => (o.windowWord r).bind fun w =>
      let n := w % 66
      ((strandIds[w / 66]?).bind fun x =>
        if n < 32 ∨ (n < 64 ∧ x = .A) then some (.reg x n, r.from (64 + 64 * (o.inputs.length + 2 * o.outputs.length + 1 + w))) else none)
    | .code _ => none

/-- The pairs of an object that still stand, in scratchpad and in registers, as they were loaded (R60, R110). -/
def State.pairsHere (s : State) (o : PlaneObject) : List (PairAt × Reloc) := o.pairPlaces.filter s.pairStands

/-- Resolves a pair of an image where it stands (R60, R110). -/
def State.fillPair (s : State) (p : PairAt × Reloc) : State :=
  let v := s.pairValue p.2
  let filled (w : BitVec 64) : BitVec 64 :=
    (List.range p.2.bits.length).foldl (fun w i =>
      let m : BitVec 64 := 1#64 <<< p.2.bits.getD i 0
      if v.getLsbD i then w ||| m else w &&& ~~~m) w
  match p.1 with
  | .scratch off => s.onMu fun m => { m with
      scratch := (List.range p.2.bits.length).foldl (fun t i =>
        let b := p.2.bits.getD i 0
        cellSet t (s.pairCell off b) (putBit (v.getLsbD i) (b % 8) (cellGet t (s.pairCell off b)))) m.scratch }
  | .reg x n =>
    if n < 32 then s.onStrand x fun t => { t with s := t.s.set! n (filled (s.pairReg x n)) }
    else s.onCore fun c => { c with areg := c.areg.set! (n - 32) (filled (s.pairReg x n)) }

/-! ## The layout of a context image (R108) -/

/-- Offsets of the sections. -/
abbrev imageObjects : Nat := 0x1000
abbrev imageStrands : Nat := 0x2000
abbrev imageExtras : Nat := 0x6000
abbrev imageRecords : Nat := 0x8000
abbrev imageTags : Nat := 0x9000
abbrev imageMasks : Nat := 0x19000
abbrev imageTiles : Nat := 0x1A000
abbrev imageAccs : Nat := 0x5A000
abbrev imageMatrix : Nat := 0x25A000
abbrev imageCells : Nat := 0x25B000
abbrev imageScratch : Nat := 0x2DD000
/-- Bytes of an image. -/
abbrev imageSize : Nat := 0x6DD000

/-- A table of `n`-byte cells as bytes, from an offset on. -/
def wideBytes {w : Nat} (n base : Nat) (t : Cells w) : Cells 8 := t.flatMap fun kv => cellsOf (base + n * kv.1) (toBytes n kv.2)

/-- One number for each run state. -/
def runCode (r : Run) : BitVec 8 :=
  match r with
  | .noTask => 0 | .running => 1 | .halted => 2 | .pastEnd => 3 | .taskEnd => 4 | .faulted => 5 | .yielded => 6 | .cut => 7
  | .meeting => 8 | .saved => 9

/-- The section of a strand: s0..s31, c0..c5, flags and k.cc, level, PC, HDR, REMAIN, the call stack, and how it stands. The places
inside the section are the model's (DESIGN CHOICE, log 22). -/
def Strand.imageBytes (t : Strand) (level step : Bool) : List (BitVec 8) :=
  t.s.toList.flatMap (toBytes 8) ++ toBytes 24 t.coord.bits ++ toBytes 2 (t.flags.setWidth 16) ++ [t.cc.setWidth 8, flagBit 8 level 0] ++
    toBytes 2 t.pc ++ toBytes 2 t.hdr ++ toBytes 4 t.remain ++
    [BitVec.ofNat 8 t.calls.length, runCode t.run, t.phase, flagBit 8 t.lockstep 0 ||| flagBit 8 step 1] ++
    t.calls.flatMap fun c => toBytes 2 c.pc ++ toBytes 2 c.hdr ++ toBytes 4 c.remain

/-- The 128 bits of a ring table entry (R162). -/
def Ring.bits (r : Ring) : BitVec 128 :=
  place 128 r.base 0 ||| place 128 r.home 22 ||| flagBit 128 r.remote 30 ||| flagBit 128 r.valid 31 ||| place 128 r.ns 32 |||
    place 128 r.su 40 ||| place 128 r.head 48 ||| flagBit 128 r.cp 56 ||| place 128 r.tail 64 ||| flagBit 128 r.pp 72 |||
    place 128 r.wtail 80

/-- One number for each stream state. -/
def streamCode (t : StreamState) : BitVec 8 :=
  match t with | .idle => 0 | .run => 1 | .fault => 2 | .cut => 3 | .done => 4

/-- The matrix state: the registers of the engine and the draw grant state, the queue, and the column records. DESIGN CHOICE: of records
that the section's 4 KiB do not hold, the first do (log 22). -/
def MatrixState.imageBytes (m : MatrixState) : List (BitVec 8) :=
  toBytes 8 m.mkprog ++ toBytes 8 m.mbstat ++ toBytes 8 m.mchk ++ toBytes 4 m.bstat.seed ++ toBytes 4 m.bstat.blk0 ++
    toBytes 8 (place 64 m.zc 0 ||| place 64 m.zfree 8) ++ toBytes 8 m.mdraw ++ toBytes 2 m.pendUnits ++ toBytes 24 m.pendCoord.bits ++ toBytes 32 m.written ++
    (m.queue.flatMap fun o => toBytes 8 o.shape ++ toBytes 8 o.addr ++ [o.z.setWidth 8, BitVec.ofNat 8 o.next] ++ toBytes 24 o.coord.bits ++
      o.span.indices.map (BitVec.ofNat 8)) ++
    (m.cols.take 512).flatMap fun c => toBytes 4 (BitVec.ofNat 32 c.1) ++ toBytes 2 (BitVec.ofInt 16 c.2.shift) ++ toBytes 2 c.2.scale ++
      toBytes 4 (BitVec.ofInt 32 c.2.sum) ++ [flagBit 8 c.2.special 0]

/-- The bytes of an image after its header, by offset: zeros are not listed. -/
def Image.bytes (i : Image) : Cells 8 :=
  let c := i.core
  let ring (h : Nat) : BitVec 128 := (kGet Ring.zero i.rings h).bits
  let strand (x : StrandId) : Cells 8 :=
    cellsOf (imageStrands + 0x1000 * strandNum x) (((c.strand x).imageBytes false (c.sys.step.getLsbD (strandNum x))).take 0xF00)
  -- T, the recorded value and REC stand at 0xF00 of the K section (R374)
  let mark : Cells 8 := cellsOf (imageStrands + 0xF00) (toBytes 16 i.touchmark ++ toBytes 16 i.tmval ++ toBytes 8 (flagBit 64 c.sys.tmrec 0))
  cellsOf imageObjects (i.objects.flatMap (toBytes 16)) ++ strandIds.flatMap strand ++ mark ++
    cellsOf imageExtras (c.areg.toList.flatMap (toBytes 8) ++ c.streams.toList.flatMap (fun t => toBytes 64 t.desc) ++
      (List.range 16).flatMap (fun h => toBytes 16 (ring h)) ++
      c.streams.toList.flatMap fun t => [streamCode t.state] ++ toBytes 8 (BitVec.ofNat 64 t.head)) ++
    cellsOf imageRecords (c.sys.fq.flatMap fun r => toBytes 64 r.bits) ++ wideBytes 16 imageTags c.tags ++
    cellsOf imageMasks (c.vec.masks.toList.flatMap (toBytes 128) ++ [c.vec.vmask.setWidth 8] ++ toBytes 8 c.vec.vcarry) ++
    wideBytes 4 imageTiles i.tiles ++ wideBytes 4 imageAccs c.mat.acc ++ cellsOf imageMatrix (c.mat.imageBytes.take 0x1000) ++
    wideBytes 1 imageCells c.mat.cells ++ wideBytes 1 imageScratch i.scratch

/-- First 64 bits of the digest of every section after the header. -/
def Image.digest (i : Image) : BitVec 64 :=
  let n := imageSize - imageObjects
  (shakeArray (i.bytes.foldl (fun a kv => a.setIfInBounds (kv.1 - imageObjects) kv.2) (Array.replicate n 0))).setWidth 64

/-- The header of an image of a context (R109). -/
def Image.headerOf (i : Image) : BitVec 512 :=
  let y := i.core.sys
  place 512 (0x43524B49#32) 0 ||| place 512 (1#16) 32 ||| place 512 i.ctx 64 ||| flagBit 512 y.fmodeNow 96 ||| place 512 y.qlvl 97 |||
    place 512 y.nest 100 ||| place 512 y.settle 104 ||| place 512 y.trail 107 ||| place 512 y.budget 128 ||| place 512 i.lcore 192 |||
    place 512 (BitVec.ofNat 9 i.objects.length) 200 ||| place 512 i.digest 448

/-- An object table entry: object hash, plane section and size in bytes (R108). DESIGN CHOICE: the plane section, whose coding the manual
does not give, is 0, and the size is that of the byte sequence that the object hash is taken over, section headers included (log 22). -/
def objectEntry (o : PlaneObject) : BitVec 128 :=
  place 128 o.hash 0 ||| place 128 (BitVec.ofNat 48 o.bytes.length) 72

/-- Whether the fields of an image allow its restore (R110 step 1, R111): MAGIC and HASH hold, VERSION is 1, GEN is at most this part's,
NOBJ is in range, and every reserved field is zero. -/
def Image.headerOk (i : Image) : Bool :=
  let h := i.header
  let n := (h.extractLsb' 200 9).toNat
  h.extractLsb' 0 32 == 0x43524B49 && h.extractLsb' 448 64 == i.digest && h.extractLsb' 32 16 == 1 && h.extractLsb' 48 8 == 0 &&
    decide (1 ≤ n ∧ n ≤ 256) && h.extractLsb' 56 8 == 0 && h.extractLsb' 112 16 == 0 && h.extractLsb' 209 239 == 0 &&
    i.objects.all fun e => e.extractLsb' 120 8 == 0

/-- The objects that an image names in its table, the plane object first; none where one is not available (R108, R111). -/
def State.imageObjectsOf (s : State) (i : Image) : Option (List PlaneObject) :=
  i.objects.foldr (fun e l => match s.objectOf (e.setWidth 64), l with | some o, some l => some (o :: l) | _, _ => none) (some [])

/-- Whether a part restores an image: also every object named in its table can be loaded under the context's tables (R111). -/
def State.mayRestore (s : State) (i : Image) : Bool :=
  i.headerOk && (match s.imageObjectsOf i with
    | some l => l.all (s.under i.ctx i.core.sys.mroot).loadable
    | none => false)

end Sys2Proof.Machine
end

