-- ==== Sys2Proof/Machine/Posts.lean ====
section
/-!
DEFINITION. Posting a parcel, and what arrives over the fabric: POST, its chain entry, packets, replies, the fabric timeout
and bind notices (R325, R326, R414 to R416). A packet takes effect within the receiving context.
-/
namespace Sys2Proof.Machine

/-! ## POST (R325) -/

/-- The bits of a post word that name something; the others must be zero. -/
def postWordOk (w : BitVec 64) : Bool := w.extractLsb' 37 27 == 0 && rwRem w && rwScope w == 0

/-- POST. -/
def execPost (d a b : BitVec 6) (s : State) : Host.Outcome State Fault Refusal :=
  let x := s.cur
  let h := s.reg x a
  let w := s.reg x b
  .next (runItem s 2 parcelStrands false (regOk x d && regOk x a && regOk x b) true
    (if !postWordOk w then .fail cOperandRange 0x52
     else s.byHandle h fun p =>
       if p.state ≠ .sealed then .fail cParcelState 0x02
       else if !s.startReady x 7 || !s.undoRoom x 1 then .wait s
       else s.withRecord fun tag =>
         let s := s.putParcel x (handlePid h) { p with state := .inTransit } false
         let (t, s) := s.startChain x tag 0 (some (h, w))
         let s := if s.atS x then s.unmapParcel h else s
         .retire (s.putReg x d t)))

/-- A post that cannot land: the parcel is SEALED again, and COPY_REMOTE tells why (R326). -/
def State.postFails (s : State) (tag : BitVec 6) (sub : Nat) : State :=
  let c := s.chain tag
  let e := s.entryOf c
  let h := word e 1
  let s := (s.unland (BitVec.ofNat 16 (handlePid h)) (rwKid (word e 3))).unpost h
  (s.putChain tag { c with posting := false }).chainFails tag cCopyRemote (0x05 ||| BitVec.ofNat 64 sub <<< 32) c.entryAddr true

/-- What the handle of a POST entry is refused for as it begins; a chain that has its parcel IN-TRANSIT already goes on with it. -/
def State.postRefused (s : State) (c : Chain) (h : BitVec 64) : Option (BitVec 64) :=
  let p := s.parcel (handlePid h)
  if handleGen h = 0 ∨ p.gen ≠ handleGen h ∨ p.state = .freed then some 0x01
  else if p.state = .sealed ∨ (c.posting ∧ p.state = .inTransit) then none
  else some 0x02

/-- Why the far package cannot be reached, as a subcode of R326. -/
def State.postUnreachable (s : State) (rw_ : BitVec 64) : Option Nat :=
  match s.remoteFault rw_ with
  | none => none
  | some c => some (if c = cFabricGroup then 1 else 2)

/-- The leaf of a page, and the places of its bytes: its frame, whatever its aperture is now. -/
def State.pageLocs (s : State) (va : Nat) : Except WalkFail (BitVec 128 × List Loc) :=
  match s.walk va with
  | .error f => .error f
  | .ok (_, e, _) =>
    let pa := leafFrame e * pageBytes + va % pageSize (leafSz e)
    .ok (e, (List.range pageBytes).map fun i => .here (pa + i))

/-- The bytes of places, read as class CP at their home, where every write stamped before has been applied (R36, R48). -/
def State.readHome (s : State) (ls : List Loc) : List (BitVec 8) × State :=
  let s := (s.refreshHomes (ls.filterMap fun l => match l with | .here pa => some pa | _ => none)).settleStale allClasses (1#5 <<< clsCP)
  s.readCells clsCP (ls.map Loc.homeCell)

/-- The bytes of a parcel's pages, read for a chain of strand `x`; a discarded page reads zeros (R371). -/
def State.parcelBytes (s : State) (x : StrandId) : List Nat → Got
  | [] => .ok [] s
  | va :: rest =>
    match s.pageLocs va with
    | .error f => .fail f.cause f.bits va s
    | .ok (e, ls) =>
      if !leafDisc e && s.anyPoison ls then .fail cPoison 0 va s
      else
        let s := s.underKey (s.keyOf (leafKey e)) ls
        let (bs, s) := if leafDisc e then (ls.map fun _ => 0, s.setDz x) else s.readHome ls
        match State.parcelBytes s x rest with
        | .ok more s => .ok (bs ++ more) s
        | r => r

/-- CHAIN_POST: a POST entry unmaps its parcel and sends its pages to the inbox. -/
def execChainPost (tag : BitVec 6) (s : State) : Host.Outcome State Fault Refusal :=
  .next (s.atEntry tag 10 fun s c e =>
    let h := word e 1
    -- while Hearth switches the circuits no entry with REM = 1 begins (R413)
    if !c.begun && s.pk.switching.isSome then s
    else match (if c.begun then none else s.postRefused c h) with
    | some code => s.chainFails tag cParcelState code c.entryAddr true
    | none =>
      let p := s.parcel (handlePid h)
      let s := s.onPk fun k => { k with parcels := kSet k.parcels (s.parcelKey (handlePid h)) { p with state := .inTransit } }
      let s := (s.unmapParcel h).putChain tag { c.begin_ 0 with posting := true }
      match s.postUnreachable (word e 3) with
      | some sub => s.postFails tag sub
      | none =>
        match s.parcelBytes c.str (pageAddrs p.base p.pages) with
        | .wait s => s
        | .fail x d va s => s.chainStops tag x d (BitVec.ofNat 64 va)
        | .ok bs s =>
          s.sendFor tag (s.chain tag) (word e 3) (.post ((word e 4).setWidth 8) p.xm1 (BitVec.ofNat 16 (handlePid h)) bs))

/-! ## Bind notices (R325) -/

/-- The source record of a bound parcel becomes FREED, and its leaves lose their aperture, PV and PID (R325, R335). -/
def State.bound (s : State) (key : Nat) : State :=
  let p := kGet Parcel.zero s.pk.parcels key
  if p.state ≠ .inTransit then s
  else
    let mine := s.pk.transit.filter fun t => t.1 == key
    let s := mine.foldl (fun s t => s.physPut t.2.1 (toBytes 16 (leafWith (s.entryAt t.2.1) (leafAperMask ||| leafOwner) 0))) s
    (s.onPk fun k => { k with
      parcels := kSet k.parcels key { p with state := .freed }, transit := k.transit.filter fun t => t.1 != key }).forget p.base p.extent

/-- Whether a chain of the core still posts the parcel of a record. -/
def State.posting (s : State) (key : Nat) : Bool :=
  s.pk.chains.toList.any fun c =>
    (c.state == .held || c.state == .queued || c.state == .run || c.state == .fault) &&
      (match c.post with
       | some (h, _) => c.p == c.head.toNat && s.parcelKey (handlePid h) == key
       | none => c.begun && entryKind (s.entryOf c) == 10 && s.parcelKey (handlePid (word (s.entryOf c) 1)) == key)

/-- BIND_NOTICE: the destination has bound a parcel of the running context. -/
def execBindNotice (pid : BitVec 16) (s : State) : Host.Outcome State Fault Refusal :=
  let key := s.parcelKey pid.toNat
  .next (if s.posting key then s else s.bound key)

/-! ## Packets (R415) -/

/-- The root of a context's tables, as far as the package knows it. -/
def State.rootOf (s : State) (ctx : BitVec 32) : BitVec 64 :=
  match s.pk.images.find? (·.ctx == ctx) with
  | some i => i.core.sys.mroot
  | none =>
    if s.pk.plane0.bind.ctx = ctx then s.pk.plane0.bind.mroot
    else if s.pk.plane1.bind.ctx = ctx then s.pk.plane1.bind.mroot else 0

/-- Does something within a context: under its tables, with nothing cached for another than the running one. -/
def State.inContext (s : State) (ctx : BitVec 32) (k : State → State) : State :=
  -- the registers of a context that has been saved have left the core (R290)
  if ctx = s.sys.ctx ∧ !(s.pk.ending = 4 ∧ s.pk.images.any (·.ctx == ctx)) then k s
  else
    let y := s.sys
    let tlb := s.pk.mu.tlb
    let t := k ((s.onSys fun z => { z with ctx := ctx, mroot := s.rootOf ctx, mhost := 0 }).onMu fun m => { m with tlb := [] })
    (t.onSys fun z => { z with ctx := y.ctx, mroot := y.mroot, mhost := y.mhost }).onMu fun m => { m with tlb := tlb }

/-- The copy engine that performs what arrives. -/
def farChain : Chain := Chain.zero

/-- The packet at the head has been dealt with. -/
def State.packetDone (s : State) : State := s.onPk fun k => { k with inbound := k.inbound.drop 1, taking := false }

/-- Answers the packet at the head. -/
def State.answer (s : State) (p : Packet) (a : Reply) (bs : List (BitVec 8)) : State :=
  s.packetDone.sendPacket p.src p.kid (BitVec.ofNat 6 (s.die * 16)) (.reply p.seq a bs)

/-- What a refused access is answered with (R314): a page that is absent and a logical core that is not placed here (R302) by 0x01. -/
def refusal (cause : BitVec 6) : Reply := if cause = cPageAbsent ∨ cause = cRemap then .absent else .permission

/-- Answers what a write came to; one that waits leaves the packet where it is. -/
def State.answerWrote (s : State) (p : Packet) : ChainWrote → State
  | .wait t => { t with pk := { t.pk with inbound := s.pk.inbound } }
  | .done t => t.answer p .done []
  | .fail c _ _ t => t.answer p (refusal c) []

/-- The place of a frame in the ring of a landing area. -/
def Inbox.placeOf (x : Inbox) (f : BitVec 36) : Nat := (f - x.base).toNat

/-- The place just past the used frames of a landing area (R367). -/
def Inbox.afterUsed (x : Inbox) : Nat := match x.inUse.getLast? with | some f => x.placeOf f + 1 | none => x.next

/-- Up to `n` free frames of a landing area from a place in its ring on. -/
def Inbox.freeFrames (x : Inbox) : Nat → Nat → Nat → List (BitVec 36)
  | 0, _, _ => []
  | fuel + 1, place, n =>
    if n = 0 then []
    else
      let f := x.base + BitVec.ofNat 36 (place % x.size.toNat)
      if x.inUse.contains f then Inbox.freeFrames x fuel (place + 1) n else f :: Inbox.freeFrames x fuel (place + 1) (n - 1)

/-- Whether a frame can take landed pages: it lies in memory, and not in a channel that strict mode keeps from the context (R411). -/
def State.landsIn (s : State) (f : BitVec 36) : Bool :=
  (inHbm (f.toNat * pageBytes) || inLpddr (f.toNat * pageBytes)) && !s.strictRefuses (f.toNat * pageBytes)

/-- Whether the post of a packet still stands: of a parcel of this package the record is IN-TRANSIT (R319). -/
def State.postStands (s : State) (p : Packet) (pid : BitVec 16) : Bool :=
  p.src != s.pk.pkg || s.pk.parcels.any fun r => r.1 % 65536 == pid.toNat && r.2.state == .inTransit

/-- A parcel lands at the tail of an inbox of the receiving context (R325, R326, R367). -/
def State.land (s : State) (p : Packet) (n : BitVec 8) (xm1 pid : BitVec 16) (bs : List (BitVec 8)) : State :=
  let x := s.inbox n.toNat
  let pages := xm1.toNat + 1
  let frames := x.freeFrames x.size.toNat x.afterUsed pages
  if !s.postStands p pid then s.packetDone
  else if !x.enabled || decide (x.depth.toNat ≤ x.landed.length) then s.answer p .inboxOff []
  else if frames.length < pages ∨ !frames.all s.landsIn then s.answer p .noRoom []
  else
    let locs := frames.flatMap fun f => (List.range pageBytes).map fun i => Loc.here (f.toNat * pageBytes + i)
    let s := (s.writeHome clsCP (List.zip locs bs)).clearPoison locs
    let s := s.putInbox n.toNat { x with
      landed := x.landed ++ [⟨frames, xm1, p.src, pid, p.kid⟩], inUse := x.inUse ++ frames
      next := match frames.getLast? with | some f => x.placeOf f + 1 | none => x.next }
    s.answer p .done []

/-- The chain of this package whose current entry a packet belongs to: its accesses are those of the entry (R301). -/
def State.chainOf (s : State) (p : Packet) : Option (BitVec 6) :=
  if p.src ≠ s.pk.pkg then none else (s.pk.unanswered.find? (·.seq == p.seq)).map (·.tag)

/-- Performs a packet within the receiving context, at the level of its code at T. -/
def State.performPacket (s : State) (p : Packet) : State :=
  let own := s.chainOf p
  match p.body with
  | .write va bs =>
    s.answerWrote p (match own with | some tag => s.shadedWrite tag farChain true va bs | none => s.chainWrite farChain true va bs)
  | .read va n =>
    let flags := (s.strand .K).flags
    (match (match own with | some tag => s.shadedRead tag farChain va n | none => s.chainRead farChain va n) with
     | .wait s => s
     | .fail c _ _ s => s.answer p (refusal c) []
     | .ok bs s => s.answer p .done bs).onStrand .K fun t => { t with flags := flags }
  | .reduce op va src =>
    if !va.getLsbD 63 && (pages va.toNat (reduceSize op.toNat)).any (fun q => !s.localMemory (BitVec.ofNat 64 q.1)) then
      s.answer p .permission []
    else s.answerWrote p (match own with
      | some tag => s.shadedReduce tag farChain op.toNat va src
      | none => s.reduceAt farChain op.toNat va src)
  | .signal va v dbl add _ => s.answerWrote p (s.signalAt farChain true va (if dbl then 8 else 4) v add)
  | .post n xm1 pid bs => s.land p n xm1 pid bs
  | .notice pid => (s.bound (s.parcelKey pid.toNat)).packetDone
  | .reply _ _ _ => s.packetDone

/-! ## Replies (R314, R326) -/

/-- A unit at the far end has been performed: the entry goes on after it. -/
def State.unitDone (s : State) (tag : BitVec 6) (c : Chain) : State := s.putChain tag { c with units := c.units + 1, remote := false, resend := none }

/-- A unit on its way has come to its end; a CPKILL that waits for that takes effect now (R299). -/
def State.unitEnds (s : State) (tag : BitVec 6) : State :=
  let c := s.chain tag
  if c.killing then (s.putChain tag { c with remote := false }).killChain tag else s

/-- The far address that the unit in progress acts on. -/
def Chain.farAddr (c : Chain) (e : BitVec 512) : BitVec 64 :=
  match entryKind e with
  | 2 => (match c.moveUnit e with | some (_, a, _, _) => a | none => 0)
  | 3 => (match c.moveUnit e with | some (_, _, b, _) => b | none => 0)
  | 4 => word e 2 + c.offset false + BitVec.ofNat 64 (c.units * reduceSize (reduceOp c e))
  | _ => word e 1 + c.offset false

/-- A refusal of the far package, or its silence: for a post the subcode of R326, else COPY_REMOTE with the code, or
FABRIC_AUTH. -/
def State.refusedFar (s : State) (tag : BitVec 6) (c : Chain) (post code : Nat) : State :=
  let e := s.entryOf c
  if entryKind e = 10 then s.postFails tag post
  -- an RREDUCE that has combined elements goes on after them (R314)
  else if code = 0 then s.chainFails tag cFabricAuth 0 c.entryAddr !(entryKind e == 4 && c.units != 0)
  else s.chainFails tag cCopyRemote (BitVec.ofNat 64 code) (c.farAddr e) false

/-- What an answer does to the chain that waits for it; an error where its data cannot be written yet. -/
def State.takeReply (s : State) (tag : BitVec 6) (a : Reply) (bs : List (BitVec 8)) : Except State State :=
  let c := s.chain tag
  let e := s.entryOf c
  match a with
  | .absent => .ok (s.refusedFar tag c 5 1)
  | .permission => .ok (s.refusedFar tag c 5 2)
  | .noContext => .ok (s.refusedFar tag c 3 3)
  | .auth => .ok (s.refusedFar tag c 2 0)
  | .inboxOff => .ok (s.refusedFar tag c 4 2)
  | .noRoom => .ok (s.refusedFar tag c 5 2)
  | .done =>
    match entryKind e with
    | 10 => .ok (s.nextEntry tag)
    | 2 =>
      match c.moveUnit e with
      | none => .ok (s.unitDone tag c)
      | some (u, _, b, _) =>
        match s.entryWrite tag b bs with
        | .wait s => .error s
        | .fail x d addr s => .ok (s.chainStops tag x d addr)
        | .done s => .ok (s.unitDone tag { s.chain tag with units := u })
    | _ => .ok (s.unitDone tag c)

/-- A reply to the packet of a demand drain (R376): its page has been copied, or a refusal has it sent again. -/
def State.drainReply (s : State) (request : BitVec 64) (a : Reply) : State :=
  s.onMu fun m => { m with
    drainSent := if a = .done then m.drainSent.map fun d => if d.2.1 = request then (d.1, d.2.1, true) else d
      else m.drainSent.filter fun d => d.2.1 != request }

/-- Where the last accepted sequence number of a source stands (R415). -/
def Packet.source (p : Packet) : BitVec 39 := p.engine ++ p.src ++ p.gen ++ p.kid

/-- Whether the last accepted sequence number of a packet's source is not below its own. -/
def State.replayed (s : State) (p : Packet) : Bool := s.pk.lastSeq.any fun l => l.1 == p.source && decide (p.seq.toNat ≤ l.2.toNat)

/-- Whether a packet's sender and number are checked against the last one accepted: a refusal by a package that holds no key carries no tag
that holds (R415). -/
def Packet.refusesKey (p : Packet) : Bool := match p.body with | .reply _ .auth _ => true | _ => false

/-- The packet at the head is accepted: its number is the last of its source, and until it has been dealt with it is at the head. -/
def State.accept (s : State) (p : Packet) : State :=
  s.onPk fun k => { k with taking := true, lastSeq := k.lastSeq.filter (fun l => l.1 != p.source) ++ [(p.source, p.seq)] }

/-- The answer to a unit that COPY_REMOTE 0x04 has stopped comes late: performed, the entry goes on after it (R314). -/
def State.lateReply (s : State) (request : BitVec 64) (a : Reply) : State :=
  (List.range 64).foldl (fun s i =>
    let tag : BitVec 6 := BitVec.ofNat 6 i
    let c := s.chain tag
    if a = .done ∧ c.resend = some request ∧ (c.state = .fault ∨ c.state = .run) then s.unitDone tag c else s) s

/-- An accepted reply takes effect: for one of this core's chains or for a demand drain; one that nothing waits for has none. -/
def State.performReply (s : State) (request : BitVec 64) (a : Reply) (bs : List (BitVec 8)) : State :=
  match s.pk.unanswered.find? (·.seq == request) with
  | none => (s.packetDone.drainReply request a).lateReply request a
  | some u =>
    let t := s.packetDone.onPk fun k => { k with unanswered := k.unanswered.filter fun v => v.seq != request }
    if (s.chain u.tag).state ≠ .run || !(s.chain u.tag).remote then t
    else
      match t.takeReply u.tag a bs with
      | .ok t => t.unitEnds u.tag
      | .error t => s.withAsks t

/-- A reply is checked as every packet is, and takes effect (R415). -/
def State.receiveReply (s : State) (p : Packet) (request : BitVec 64) (a : Reply) (bs : List (BitVec 8)) : State :=
  if s.pk.taking then s.performReply request a bs
  else if s.authentic p then (if s.replayed p then s.packetDone else (s.accept p).performReply request a bs)
  else if p.refusesKey then s.performReply request a bs
  else s.packetDone

/-- Whether a generation is older than another: up to half way round (R409). -/
def olderGen (g current : BitVec 8) : Bool := g != current && decide ((current - g).toNat < 128)

/-- Whether a packet is of an older generation of its key id than the present one. -/
def State.outdated (s : State) (p : Packet) : Bool :=
  match s.pk.kids.find? (·.kid == p.kid) with
  | some k => olderGen p.gen k.gen
  | none => false

/-- A packet of an older generation is discarded; a reply frees the reservation that was made for it (R409). -/
def State.discardPacket (s : State) (p : Packet) : State :=
  match p.body with
  | .reply request _ _ => s.packetDone.onPk fun k => { k with reservations := k.reservations.filter (· ≠ (p.kid.toNat, request)) }
  | _ => s.packetDone

/-- FABRIC_PACKET_RECEIVE: the packet at the head is refused, discarded, or performed (R415). -/
def execFabricPacketReceive (s : State) : Host.Outcome State Fault Refusal :=
  .next (
    match s.pk.inbound with
    | [] => s
    | p :: _ =>
      if !s.pk.taking && s.outdated p then s.discardPacket p
      else match p.body with
      | .reply request a bs => s.receiveReply p request a bs
      | _ =>
        if !s.pk.taking && !s.authentic p then s.answer p .auth []
        else
          match s.pk.contexts.find? fun c => c.kids.getLsbD p.kid.toNat with
          | none => s.answer p .noContext []
          | some c =>
            if s.pk.taking then s.inContext c.id (·.performPacket p)
            else if s.replayed p then s.packetDone
            else (s.accept p).inContext c.id (·.performPacket p))

/-- FABRIC_TIMEOUT: a remote operation has not been answered in time (R416). -/
def execFabricTimeout (tag : BitVec 6) (s : State) : Host.Outcome State Fault Refusal :=
  .next (
    match s.pk.unanswered.find? (·.tag == tag) with
    | none => s
    | some u =>
      let c := s.chain tag
      let e := s.entryOf c
      if s.sys.cycle.toNat < u.since + max 1 s.pk.ftmo.toNat * 1024 ||
          (entryKind e == 10 && s.postTaken tag (BitVec.ofNat 16 (handlePid (word e 1)))) then s
      else
        let s := s.onPk fun k => { k with unanswered := k.unanswered.filter fun v => v.seq != u.seq }
        if c.state = .run ∧ c.remote then
          (if c.killing then s.unitEnds tag
           else if entryKind e == 4 || entryKind e == 7 then (s.putChain tag { c with resend := some u.seq }).refusedFar tag c 6 4
           else s.refusedFar tag c 6 4)
        else s)

end Sys2Proof.Machine
end

