-- ==== Sys2Proof/Machine/MemoryUnit.lean ====
section
/-!
DEFINITION. The memory unit: shoot-downs, discarded and sealed pages, touchmarks, answers of the host, memory errors and
demand drains, the SEALDRAIN entry and the manifests of checkpoints (R366, R370 to R379). Changes of leaves are shot down at once.
-/
namespace Sys2Proof.Machine

/-- Runs a privileged item of the memory unit (R378). -/
def memoryItem (s : State) (cls ok : Bool) (body : Res) : State := runItem s 2 [.K] true cls ok body

/-! ## Shoot-downs (R370) -/

/-- Every access path of the package: the core, the memory unit and the copy engines. -/
def allPaths : List Nat := List.range 18

/-- The range of R379: its first address and its pages, unless it is refused. -/
def pageRange (a n : BitVec 64) : Option (Nat × Nat) :=
  if a.toNat % pageBytes ≠ 0 ∨ 2 ^ 56 ≤ a.toNat ∨ n = 0 ∨ 2 ^ 32 ≤ n.toNat ∨ 2 ^ 56 < a.toNat + n.toNat * pageBytes then none
  else some (a.toNat, n.toNat)

/-- A store of K that a shoot-down waits for: not one that is HELD (R41) or FAULTED, nor one that a FAULTED one holds back, so that a
supervisor which evicts a page on behalf of its own fault completes its TLBSYNC (DEDUCED, log 30). -/
def State.shootWaits (s : State) (e : SideEntry) : Bool :=
  e.strand == .K && (e.state == .pend || e.state == .sealWait) &&
    s.core.side.all fun f => f.strand != .K || f.state != .faulted || decide (e.seq < f.seq)

/-- A shoot-down of the running context begins when the stores of K before it have been performed at package scope. -/
def State.beginShootdown (s : State) (first bytes : Nat) : Res :=
  if (s.core.side.all fun e => !s.shootWaits e) && s.scopeQuiet 4 then
    .retire (s.onMu fun m => { m with shoots := m.shoots ++ [⟨s.sys.ctx, first, bytes, allPaths⟩] })
  else .wait s

/-- TLBINV. -/
def execTlbinv (a b : BitVec 6) (s : State) : Host.Outcome State Fault Refusal :=
  let x := s.cur
  .next (memoryItem s (regOk x a && regOk x b) true
    (match pageRange (s.reg x a) (s.reg x b) with
     | none => .fail cOperandRange 0x70
     | some (va, n) => s.beginShootdown va (n * pageBytes)))

/-- TLBINV.ALL. -/
def execTlbinvAll (s : State) : Host.Outcome State Fault Refusal :=
  .next (memoryItem s true true (s.beginShootdown 0 (2 ^ 56)))

/-- TLBSYNC: every shoot-down has been acknowledged by every cache. -/
def execTlbsync (s : State) : Host.Outcome State Fault Refusal :=
  .next (memoryItem s true true (if s.pk.mu.shoots.isEmpty then .retire s else .wait s))

/-- Whether a page of a context lies in the range of a shoot-down. -/
def Shootdown.hits (r : Shootdown) (ctx : BitVec 32) (base size : Nat) : Bool :=
  decide (r.ctx = ctx ∧ base < r.first + r.bytes ∧ r.first < base + size)

/-- SHOOTDOWN_ACK: a cache holds nothing more of the ranges it was asked to remove, and what waits for the host translates
again. -/
def execShootdownAck (path : Nat) (s : State) : Host.Outcome State Fault Refusal :=
  let mine := s.pk.mu.shoots.filter fun r => r.paths.contains path
  let keeps (p : Nat) (ctx : BitVec 32) (base size : Nat) : Bool := p != path || mine.all fun r => !r.hits ctx base size
  .next (s.onMu fun m => { m with
    tlb := m.tlb.filter fun e => keeps e.path e.ctx e.base e.leaf.size
    ats := m.ats.filter fun r => keeps r.path r.ctx r.base r.leaf.size
    shoots := (m.shoots.map fun r => { r with paths := r.paths.filter (· ≠ path) }).filter fun r => !r.paths.isEmpty })

/-! ## Leaves -/

/-- Writes fields of the leaves of pages, and forgets their translations. -/
def State.setLeaves (s : State) (va n : Nat) (clear set : BitVec 128) : State :=
  ((s.leavesOf va n).foldl (fun s (pa, e) => s.physPut pa (toBytes 16 (leafWith e clear set))) s).forget va (n * pageBytes)

def leafDiscBit : BitVec 128 := 0x200000
def leafSealBit : BitVec 128 := 0x400000

/-- PGDISC: every page has to be local memory; then each is discarded (R371). -/
def execPgdisc (a b : BitVec 6) (s : State) : Host.Outcome State Fault Refusal :=
  let x := s.cur
  let isLocal (va : Nat) : Bool := match s.walk va with | .ok (_, e, _) => leafAper e == 1 || leafAper e == 2 | .error _ => false
  .next (memoryItem s (regOk x a && regOk x b) true
    (match pageRange (s.reg x a) (s.reg x b) with
     | none => .fail cOperandRange 0x70
     | some (va, n) =>
       if (pageAddrs va n).all isLocal then .retire (s.setLeaves va n 0 leafDiscBit) else .fail cPageAbsent 0))

/-! ## Seals (R375, R376) -/

/-- The key of a seal record of the running context. -/
def State.sealKey (s : State) (n : Nat) : Nat := s.sys.ctx.toNat * 64 + n

/-- The seal records of the running context. -/
def State.sealsHere (s : State) : List (Nat × SealRecord) := s.pk.mu.seals.filter fun r => r.1 / 64 == s.sys.ctx.toNat

/-- Why a page may not be sealed. -/
def State.sealFault (s : State) (va : Nat) : Option (BitVec 6 × BitVec 64) :=
  match s.walk va with
  | .error f => some (f.cause, 0)
  | .ok (_, e, _) =>
    if leafAper e = 0 then some (cPageAbsent, 0)
    else if leafAper e ≠ 1 ∧ leafAper e ≠ 2 then some (cAperture, 0)
    else if leafPV e then some (cParcelState, 0x04) else none

/-- The name of a page of the running context among the copies of sealed pages. -/
def State.copyKey (s : State) (va : Nat) : Nat := s.sys.ctx.toNat * 2 ^ 40 + va / pageBytes

/-- What is known of earlier copies of `n` pages is given up. -/
def State.forgetCopies (s : State) (va n : Nat) : State :=
  s.onMu fun m => { m with copies := m.copies.filter fun c => decide (c.1 < s.copyKey va) || decide (s.copyKey va + n ≤ c.1) }

/-- A page has been copied to its place in a shard. -/
def State.noteCopy (s : State) (va : Nat) (dst rw_ : BitVec 64) (bs : List (BitVec 8)) : State :=
  s.onMu fun m => { m with copies := kSet m.copies (s.copyKey va) ⟨rw_.setWidth 29, dst, bs⟩ }

/-- The copy of a page at a place in a shard. -/
def State.copyAt (s : State) (va : Nat) (dst rw_ : BitVec 64) : Option PageCopy :=
  match s.pk.mu.copies.find? (·.1 == s.copyKey va) with
  | some (_, c) => if c.dst = dst ∧ c.rw = rw_.setWidth 29 then some c else none
  | none => none

/-- Whether a page is sealed. -/
def State.isSealed (s : State) (va : Nat) : Bool :=
  match s.walk va with
  | .ok (_, e, _) => leafSeal e
  | .error _ => false

/-- Side-log entries that wait for pages which are sealed no more become PEND. -/
def State.releaseSealWait (s : State) : State :=
  (s.onCore fun c => { c with
    side := c.side.map fun e => if e.state = .sealWait ∧ !s.isSealed (entryStart e) then { e with state := .pend } else e }).syncOverflow

/-- Clears SEAL of a list of pages, lets what waited go on, and forgets their drains; one on its way to another package is in progress until
it is answered. -/
def State.unseal (s : State) (vas : List Nat) : State :=
  let s := vas.foldl (fun s va => s.setLeaves va 1 leafSealBit 0) s
  (s.onMu fun m => { m with
    drains := m.drains.filter fun d => s.isSealed (d * pageBytes)
    drainSent := m.drainSent.filter fun d => s.isSealed (d.1 * pageBytes) || !d.2.2 }).releaseSealWait

/-- Takes pages from the records that have still to drain them; a record with none left is free. -/
def State.drained (s : State) (vas : List Nat) : State :=
  s.onMu fun m => { m with
    seals := (m.seals.map fun (k, r) =>
      (k, if k / 64 = s.sys.ctx.toNat then { r with undrained := r.undrained.filter fun v => !vas.contains v } else r)).filter
        fun r => !r.2.undrained.isEmpty }

/-- Whether a demand drain of a page is on its way to another package. -/
def State.draining (s : State) (va : Nat) : Bool := s.pk.mu.drainSent.any fun d => d.1 == va / pageBytes && !d.2.2

/-- PGSEAL. -/
def execPgseal (d a : BitVec 6) (s : State) : Host.Outcome State Fault Refusal :=
  let x := s.cur
  .next (memoryItem s (regOk x d && regOk x a) true
    (match s.checkAddr x (s.reg x a) .read 64 64 with
     | .error b => .trap b.cause b.detail b.addr
     | .ok (.global _) => .fail cOperandRange 0x71
     | .ok (.scratch p w) =>
       let e : BitVec 512 := ofBytes 512 (s.scratchRead p (scratchOff w) 64)
       let page := (e.extractLsb' 0 56).toNat
       let n := (e.extractLsb' 64 32).toNat
       if e.extractLsb' 56 8 ≠ 0 ∨ e.extractLsb' 189 323 ≠ 0 ∨ n = 0 ∨ page % pageBytes ≠ 0 ∨ 2 ^ 56 < page + n * pageBytes then
         .fail cOperandRange 0x71
       else
         let vas := pageAddrs page n
         match vas.findSome? s.sealFault with
         | some (c, code) => .fail c code
         | none =>
           match firstNat (fun i => !kHas s.pk.mu.seals (s.sealKey i)) 64 0 with
           | none => .fail cOperandRange 0x72
           | some i =>
             if vas.any fun v => s.isSealed v || s.draining v then .fail cOperandRange 0x72
             else
               let s := s.setLeaves page n 0 leafSealBit
               let r : SealRecord := ⟨page, n, e.extractLsb' 96 64, e.extractLsb' 160 29, vas⟩
               let s := (s.onMu fun m => { m with seals := kSet m.seals (s.sealKey i) r }).forgetCopies page n
               .retire (s.putReg x d (BitVec.ofNat 64 i))))

/-- PGSEAL.CLR. -/
def execPgsealClr (a : BitVec 6) (s : State) : Host.Outcome State Fault Refusal :=
  let x := s.cur
  let n := (s.reg x a).toNat
  .next (memoryItem s (regOk x a) true
    (if 63 < n then .fail cOperandRange 0x73
     else
       match s.pk.mu.seals.find? (·.1 == s.sealKey n) with
       | none => .fail cOperandRange 0x73
       | some (key, r) => .retire ((s.onMu fun m => { m with seals := kDel m.seals key }).unseal r.undrained)))

/-- The leaf that maps a page: its address. -/
def State.leafAt (s : State) (va : Nat) : Option Nat :=
  match s.walk va with
  | .ok (pa, _, _) => some pa
  | .error _ => none

/-- The record that has to drain a page, and those of its pages that share the page's leaf. -/
def State.sealOf (s : State) (va : Nat) : Option (SealRecord × List Nat) :=
  s.sealsHere.findSome? fun r =>
    let mine := r.2.undrained.filter fun v => s.leafAt v == s.leafAt va
    if mine.isEmpty then none else some (r.2, mine)

/-- The engine that drains on demand: it acts at S, ahead of its queue, and reaches SUP pages (R364). -/
def drainChain : Chain := { Chain.zero with atS := true, sup := true }

/-- The engine that copies a page: that of the SEALDRAIN of a chain, or the one of a demand drain. -/
def State.drainBy (s : State) (tag : Option (BitVec 6)) : Chain := match tag with | some t => s.chain t | none => drainChain

/-- It writes bytes of a shard. -/
def State.drainWrite (s : State) (tag : Option (BitVec 6)) (dst : BitVec 64) (bs : List (BitVec 8)) : ChainWrote :=
  match tag with
  | some t => s.entryWrite t dst bs
  | none => s.chainWrite drainChain false dst bs

/-- It reads the bytes of a sealed page at their home (R36); a discarded page reads zeros, and sets DZ for the strand of a SEALDRAIN's
chain (R371). -/
def State.drainRead (s : State) (tag : Option (BitVec 6)) (va : Nat) (w : BitVec 128) (ls : List Loc) : List (BitVec 8) × State :=
  let (bs, s) :=
    if leafDisc w then (ls.map fun _ => 0, s)
    else (s.refreshHomes (ls.filterMap fun l => match l with | .here pa => some pa | _ => none)).readCells clsCP (ls.map Loc.homeCell)
  match tag with
  | some t => (if leafDisc w then s.setDz (s.chain t).str else s).shade t true (BitVec.ofNat 64 va) bs
  | none => (bs, s)

/-- Copies a sealed page to its place in a shard: within the package, or in a packet to the far one. A poisoned block
carries its poison (R372), and a page whose parcel is on its way is refused as every access is (R320). -/
def State.copyPage (s : State) (tag : Option (BitVec 6)) (va : Nat) (dst : BitVec 64) (rw_ : BitVec 64)
    (far : BitVec 64 → List (BitVec 8) → State → ChainWrote) : ChainWrote :=
  match s.pageLocs va with
  | .error f => .fail f.cause f.bits (BitVec.ofNat 64 va) s
  | .ok (w, ls) =>
    match s.parcelRefuses w .read with
    | some (x, d) => .fail x d (BitVec.ofNat 64 va) s
    | none =>
      let bad := if leafDisc w then [] else (List.range 1024).filter fun i => s.anyPoison [ls.getD (64 * i) (.here 0)]
      let (bs, s) := (s.underKey (s.keyOf (leafKey w)) ls).drainRead tag va w ls
      if rwRem rw_ then (if bad.isEmpty then far dst bs (s.noteCopy va dst rw_ bs) else .fail cPoison 0 (BitVec.ofNat 64 va) s)
      else
        match s.drainWrite tag dst bs with
        | .done s =>
          .done ((bad.foldl (fun s i => s.poisonTo (s.drainBy tag) (dst + BitVec.ofNat 64 (64 * i)) 64) s).noteCopy va dst rw_ [])
        | r => r

/-- A page on demand goes to another package. -/
def State.sendDrain (s : State) (r : SealRecord) (va : Nat) (dst : BitVec 64) (bs : List (BitVec 8)) : State :=
  let seq := s.pk.sendSeq
  (s.sendPacket (rwPkg (r.rw.setWidth 64)) (rwKid (r.rw.setWidth 64)) (BitVec.ofNat 6 (s.die * 16)) (.write dst bs)).onMu fun m =>
    { m with drainSent := m.drainSent ++ [(va / pageBytes, seq, false)] }

/-- Copies pages of a record; an error, with what has been asked for, where one cannot be copied now. -/
def State.drainPages (s : State) (r : SealRecord) : List Nat → Except State State
  | [] => .ok s
  | va :: rest =>
    match s.copyPage none va (r.shard + BitVec.ofNat 64 (va - r.page)) (r.rw.setWidth 64) (fun dst bs s => .done (s.sendDrain r va dst bs)) with
    | .done s => State.drainPages s r rest
    | .wait t | .fail _ _ _ t => .error t

/-- Whether the copy of a page has been performed at its destination. -/
def State.drainHere (s : State) (far : Bool) (va : Nat) : Bool :=
  !far || s.pk.mu.drainSent.any fun d => d.1 == va / pageBytes && d.2.2

/-- DEMAND_DRAIN_COMPLETE: a page that a write has met sealed is copied to its record's destination; once the copy has been performed there,
with an answer where that is another package, the page is sealed no more and the writes that waited go on (R376). -/
def execDemandDrainComplete (k : Nat) (s : State) : Host.Outcome State Fault Refusal :=
  .next (
    match s.pk.mu.drains[k]? with
    | none => s
    | some vpn =>
      match s.sealOf (vpn * pageBytes) with
      | none => s
      | some (r, vas) =>
        let far := rwRem (r.rw.setWidth 64)
        -- while Hearth switches the circuits nothing goes to another package (R413)
        if far && s.pk.switching.isSome then s else
        let out (va : Nat) : Bool := s.pk.mu.drainSent.any fun d => d.1 == va / pageBytes
        match s.drainPages r (if far then vas.filter (!out ·) else vas) with
        | .error t => s.withAsks t
        | .ok s => if vas.all (s.drainHere far) then (s.drained vas).unseal vas else s)

/-- A page of a SEALDRAIN has been copied: when no other page of its leaf has still to be, its seal is cleared. -/
def State.drainedPage (s : State) (va : Nat) : State :=
  let s := s.drained [va]
  if (s.sealOf va).isSome then s else s.unseal [va]

/-- A page that SEALDRAIN passes over: it has been drained to its place in the shard, or the entry describes pages and destinations of no
record, and the shard holds open values there, drawn from the page and from what the shard held. -/
def State.passPage (s : State) (tag : BitVec 6) (va : Nat) (dst rw_ : BitVec 64) : ChainWrote :=
  if rwRem rw_ || (s.copyAt va dst rw_).isSome then .done s
  else
    let (bs, s) := s.choose pageBytes (0 :: s.peekAt (BitVec.ofNat 64 va) pageBytes ++ s.peekAt dst pageBytes)
    s.entryWrite tag dst bs

/-- The bytes of a shard in another package, where every page has been copied to its place. -/
def State.farShard (s : State) (va : Nat) (dst rw_ : BitVec 64) (n : Nat) : Option (List (BitVec 8)) :=
  (List.range n).foldl (fun l i =>
    match l, s.copyAt (va + i * pageBytes) (dst + BitVec.ofNat 64 (i * pageBytes)) rw_ with
    | some l, some c => some (l ++ c.bytes)
    | _, _ => none) (some [])

/-- The digest of a shard: of its bytes, open where one of its pages in another package holds open values. -/
def State.shardDigest (s : State) (tag : BitVec 6) (va : Nat) (dst rw_ : BitVec 64) (n : Nat) (k : BitVec 512 → State → State)
    (fails : BitVec 6 → BitVec 64 → Nat → State → State) : State :=
  if rwRem rw_ then
    match s.farShard va dst rw_ n with
    | some bs => k (shake256 bs) s
    | none =>
      let (v, s) := s.fresh 512
      k v s
  else
    match s.entryRead tag dst (n * pageBytes) with
    | .wait s => s
    | .fail x b va s => fails x b va s
    | .ok bs s => k (shake256 bs) s

/-- CHAIN_SEALDRAIN: a SEALDRAIN entry copies its next page when it is still sealed, and after the last writes the
digest. -/
def execChainSealdrain (tag : BitVec 6) (s : State) : Host.Outcome State Fault Refusal :=
  .next (s.atEntry tag 11 fun s c e => s.beginRemote tag c (word e 3) fun s c =>
    let far := rwRem (word e 3)
    let n := entryN e
    let i := c.units
    let va := (word e 1 + c.offset true).toNat
    let dst := word e 2 + c.offset false
    let dig := word e 4 + c.offset false
    let s := if far && decide (0 < i) && s.isSealed (va + (i - 1) * pageBytes) then s.drainedPage (va + (i - 1) * pageBytes) else s
    if n ≤ i then
      s.shardDigest tag va dst (word e 3) n (fun v s =>
        match s.entryWrite tag dig (toBytes 64 v) with
        | .wait s => s
        | .fail x b a s => s.chainStops tag x b a
        | .done s => s.nextEntry tag) (fun x b a s => s.chainStops tag x b (BitVec.ofNat 64 a))
    else
      let page := va + i * pageBytes
      match s.walk page with
      | .error f => s.chainStops tag f.cause f.bits (BitVec.ofNat 64 page)
      | .ok (_, w, _) =>
        if !leafSeal w then
          match s.passPage tag page (dst + BitVec.ofNat 64 (i * pageBytes)) (word e 3) with
          | .wait s => s
          | .fail x b a s => s.chainStops tag x b a
          | .done s => s.putChain tag { s.chain tag with units := i + 1 }
        else
          match s.copyPage (some tag) page (dst + BitVec.ofNat 64 (i * pageBytes)) (word e 3)
              (fun a bs s => .done (s.sendFor tag (s.chain tag) (word e 3) (.write a bs))) with
          | .wait s => s
          | .fail x b a s => s.chainStops tag x b a
          | .done s =>
            if far then s
            else let s := s.drainedPage page; s.putChain tag { s.chain tag with units := i + 1 })

/-! ## Manifests (R377) -/

/-- What a manifest says of one shard. -/
structure ShardEntry where
  dst : BitVec 64
  pages : BitVec 64
  digest : BitVec 512
deriving DecidableEq, Repr

/-- The manifest of a checkpoint. -/
structure Manifest where
  seq : BitVec 64
  cut : Coord
  shards : List ShardEntry
deriving DecidableEq, Repr

def manifestMagic : BitVec 64 := 0x464E414D4B48435A

/-- The bytes of a manifest that its digest covers. -/
def Manifest.body (m : Manifest) : List (BitVec 8) :=
  toBytes 8 manifestMagic ++ toBytes 8 m.seq ++ toBytes 24 m.cut.bits ++ toBytes 8 (BitVec.ofNat 64 m.shards.length) ++
    m.shards.flatMap fun h => toBytes 8 h.dst ++ toBytes 8 h.pages ++ toBytes 64 h.digest

/-- The bytes of a manifest. -/
def Manifest.bytes (m : Manifest) : List (BitVec 8) := m.body ++ toBytes 64 (shake256 m.body)

/-- The most shards that the manifest of a 4 KiB slot holds. -/
def manifestShards : Nat := (4096 - 0x30 - 64) / 80

/-- The manifest in a slot of 4 KiB, when its MAGIC and its digest check. -/
def readManifest (bs : List (BitVec 8)) : Option Manifest :=
  let n := (field bs 0x28 : BitVec 64).toNat
  let len := 0x30 + 80 * n
  if field bs 0 ≠ manifestMagic ∨ manifestShards < n ∨ field bs len ≠ shake256 (bs.take len) then none
  else some ⟨field bs 8, Coord.ofBits (field bs 0x10),
    (List.range n).map fun i => ⟨field bs (0x30 + 80 * i), field bs (0x38 + 80 * i), field bs (0x40 + 80 * i)⟩⟩

/-- The bytes from an address of the checkpoint store on, read at their homes (R36); none where they cannot be read. -/
def State.storeBytes (s : State) (a : BitVec 64) (n : Nat) : Option (List (BitVec 8)) :=
  match s.chainRead drainChain a n with
  | .ok bs _ => some bs
  | _ => none

/-- Whether a shard matches its digest. -/
def State.shardHolds (s : State) (h : ShardEntry) : Bool :=
  match s.storeBytes h.dst (h.pages.toNat * pageBytes) with
  | some bs => shake256 bs == h.digest
  | none => false

/-- The manifest that the restoring loader accepts in the slot at an address. -/
def State.acceptSlot (s : State) (a : BitVec 64) : Option Manifest :=
  match (s.storeBytes a 4096).bind readManifest with
  | some m => if m.shards.all s.shardHolds then some m else none
  | none => none

/-- The address of the slot that checkpoint number `n` uses, the two slots lying one after the other (log 30). -/
def slotAddr (store n : BitVec 64) : BitVec 64 := store + (if n.getLsbD 0 then 4096 else 0)

/-- The checkpoint that the restoring loader takes from the two slots of a store: the accepted one with the greater SEQ. -/
def State.lastCheckpoint (s : State) (store : BitVec 64) : Option Manifest :=
  match s.acceptSlot (slotAddr store 0), s.acceptSlot (slotAddr store 1) with
  | some a, some b => some (if a.seq < b.seq then b else a)
  | some a, none => some a
  | none, b => b

/-! ## Touchmarks (R374, R379) -/

/-- TMREAD. -/
def execTmread (d : BitVec 6) (s : State) : Host.Outcome State Fault Refusal :=
  .next (memoryItem s (regOk s.cur d) (!d.getLsbD 0) (.retire (s.putPair s.cur d s.pk.mu.touchmark)))

/-- TMREAD.REC. -/
def execTmreadRec (d : BitVec 6) (s : State) : Host.Outcome State Fault Refusal :=
  .next (memoryItem s (regOk s.cur d) (!d.getLsbD 0) (.retire (s.putPair s.cur d (if s.sys.tmrec then s.pk.mu.tmval else 0))))

/-- TMSET. -/
def execTmset (a : BitVec 6) (s : State) : Host.Outcome State Fault Refusal :=
  let v : BitVec 128 := s.reg s.cur (a + 1) ++ s.reg s.cur a
  .next (memoryItem s (regOk s.cur a) (!a.getLsbD 0)
    (.retire ((s.onMu fun m => { m with tmval := v }).onSys fun y => { y with tmrec := true })))

/-- TMSET.CLR. -/
def execTmsetClr (s : State) : Host.Outcome State Fault Refusal :=
  .next (memoryItem s true true (.retire (s.onSys fun y => { y with tmrec := false })))

/-! ## The host's answers (R366) -/

/-- Changes the `k`-th request that has not been answered. -/
def State.answerAts (s : State) (k : Nat) (f : AtsRequest → State) : State :=
  match s.pk.mu.ats[k]? with
  | some r => if r.status.isNone then f r else s
  | none => s

/-- An ATS request has failed with a status. -/
def State.failAts (s : State) (k : Nat) (status : BitVec 8) : State :=
  s.answerAts k fun r => s.onMu fun m => { m with ats := m.ats.set k { r with status := some status } }

/-- A leaf whose permits are cut to those that the host gives (R366). -/
def Leaf.cut (l : Leaf) (canRead canWrite : Bool) : Leaf :=
  { l with word := l.word &&& ~~~((if canRead then 0 else 0x80) ||| (if canWrite then 0 else 0x100)) }

/-- ATS_COMPLETION: a translation is cached with permits that the leaf and the host both give, or the request has failed. -/
def execAtsCompletion (k : Nat) (status : AtsStatus) (frame : BitVec 52) (canRead canWrite : Bool) (s : State) :
    Host.Outcome State Fault Refusal :=
  .next (
    match status with
    | .absent => s.failAts k 1
    | .denied => s.failAts k 4
    | .ok =>
      if !canRead && !canWrite then s.failAts k 0
      else s.answerAts k fun r =>
        (s.onMu fun m => { m with ats := m.ats.eraseIdx k }).cacheFill 
          ⟨r.path, r.ctx, r.base, r.leaf.cut canRead canWrite, some frame, s.keyOf (leafKey r.leaf.word)⟩)

/-- ATS_TIMEOUT: no completion within 2^20 cycles. -/
def execAtsTimeout (k : Nat) (s : State) : Host.Outcome State Fault Refusal :=
  .next (s.answerAts k fun r => if r.since + 2 ^ 20 ≤ s.sys.cycle.toNat then s.failAts k 0xFF else s)

/-- ATS_INVALIDATION: the host names I/O virtual frames, and their cached translations are removed. -/
def execAtsInvalidation (first count : Nat) (s : State) : Host.Outcome State Fault Refusal :=
  let named (w : BitVec 128) (size : Nat) : Bool :=
    leafAper w == 5 && decide (leafFrame w < first + count ∧ first < leafFrame w + size / pageBytes)
  .next (s.onMu fun m => { m with tlb := m.tlb.filter fun e => !named e.leaf.word e.leaf.size })

/-! ## Errors (R372) -/

/-- ECC_CORRECTED of a block of memory (R372), or of a word of the accumulator store (R249, R265). -/
def execEccCorrected (site : EccSite) (s : State) : Host.Outcome State Fault Refusal :=
  let report (x : StrandId) (eng : BitVec 4) : State := s.raiseAsync x cEccCorrected 0 0 eng (s.strand x).coord .nothing
  .next (
    match site with
    | .memory pa => if inHbm pa.toNat || inLpddr pa.toNat then report .K 7 else s
    | .accumulator _ _ => report .M 3)

/-- UNCORRECTABLE_ERROR: the block is poisoned. -/
def execUncorrectableError (pa : BitVec 52) (s : State) : Host.Outcome State Fault Refusal :=
  let b := pa.toNat / 64 * 64
  .next (if (inHbm b || inLpddr b) && !s.pk.mu.poison.contains b then
    s.onMu fun m => { m with poison := m.poison ++ [b] } else s)

end Sys2Proof.Machine
end

