-- ==== Sys2Proof/Machine/Quench.lean ====
section
/-!
DEFINITION. The quench unit: major 0x1A, and the phases of a quench: accepting requests, draining, the commit that undoes,
discards, rewinds and restores, and SETTLE (R20 to R26, R336 to R356, and the rules at a cut of every engine).
-/
namespace Sys2Proof.Machine

/-! ## Requests (R345, R350) -/

/-- The strands major 0x1A is legal in. -/
abbrev quenchStrands : List StrandId := [.K]

/-- Reads and checks the coordinate of QREQ and QARM: the code of the failure, or the coordinate. -/
def State.quenchCoord (s : State) (a : BitVec 6) (l : BitVec 3) : Except (BitVec 6 × BitVec 64) Coord :=
  let d := s.sys.nest.toNat
  let regs := (List.range d).map fun i => s.reg s.cur (a + BitVec.ofNat 6 i)
  if 31 < a.toNat + d - 1 then .error (cOperandRange, 0x60)
  else if regs.any fun v => v.extractLsb' 32 32 != 0 then .error (cOperandRange, 0x61)
  else if l ≠ s.sys.qlvl then .error (cQuenchScope, 0x01)
  else .ok ((List.range d).foldl (fun c i => c.put i ((regs.getD i 0).setWidth 32)) Coord.zero)

/-- Sends a request to the coordinator. -/
def State.sendRequest (s : State) (r : QuenchRequest) : State := s.onQu fun q => { q with requests := q.requests ++ [r] }

/-- QREQ. -/
def execQreq (a : BitVec 6) (l : BitVec 3) (s : State) : Host.Outcome State Fault Refusal :=
  .next (runItem s 2 quenchStrands false (regOk s.cur a) true
    (match s.quenchCoord a l with
     | .error (c, d) => .fail c d
     | .ok q => .retire (s.sendRequest ⟨q, l, s.sys.lcore, true, false, false⟩)))

/-- Whether something stands at or above an armed coordinate: a member strand, or an operation that has issued and not
completed (R350). -/
def State.reaches (s : State) (key : Nat) : Bool :=
  (strandIds.any fun x => (s.strand x).run != .noTask && decide (key ≤ (s.strand x).coord.key)) ||
    (s.opKeys ++ (s.core.side.filterMap fun e => if e.atS then none else some e.coord.key)).any (fun k => decide (key ≤ k)) ||
    (decide (1 < s.sys.qlvl.toNat) && decide (key ≤ s.core.qu.peersMax))

/-- The armed breakpoint fires when its coordinate has been reached. -/
def State.fireArm (s : State) : State :=
  match s.core.qu.armed with
  | some (c, l) =>
    if s.reaches c.key then (s.onQu fun q => { q with armed := none }).sendRequest ⟨c, l, s.sys.lcore, true, true, false⟩ else s
  | none => s

/-- QARM. -/
def execQarm (a : BitVec 6) (l : BitVec 3) (s : State) : Host.Outcome State Fault Refusal :=
  .next (runItem s 2 quenchStrands false (regOk s.cur a) true
    (match s.quenchCoord a l with
     | .error (c, d) => .fail c d
     | .ok q => .retire (s.onQu fun u => { u with armed := some (q, l) }).fireArm))

/-- QARM.CLR. -/
def execQarmClr (s : State) : Host.Outcome State Fault Refusal :=
  .next (runItem s 2 quenchStrands false true true (.retire (s.onQu fun q => { q with armed := none })))

/-- QARM_FIRE. -/
def execQarmFire (s : State) : Host.Outcome State Fault Refusal := .next s.fireArm

/-! ## Reading the unit (R348, R351) -/

/-- ST as a number. -/
def stNum : QuenchSt → Nat
  | .none => 0 | .pending => 1 | .cut => 2

/-- ST of the unit: PENDING from the moment a request is sent until it is accepted, also at a standing cut (R358). -/
def QuenchUnit.stNow (q : QuenchUnit) : QuenchSt := if q.requests.isEmpty then q.st else .pending

/-- ST as QSTAT, QWAIT and QRESUME find it: it is still PENDING where the QUENCH_STOP record that answers a request waits for room in the
fault queue (R101, R358). -/
def State.quenchSt (s : State) : QuenchSt :=
  if s.sys.fqWait.any fun r => r.raised == cQuenchStop then .pending else s.core.qu.stNow

/-- The status word of QSTAT, with its ST. -/
def QuenchUnit.status (q : QuenchUnit) (st : QuenchSt) : BitVec 64 :=
  BitVec.ofNat 64 (stNum st) ||| flagBit 64 q.passed 2 ||| flagBit 64 q.armed.isSome 3 ||| flagBit 64 q.fired 4 |||
    place 64 q.ended 5 ||| place 64 q.level 9 ||| flagBit 64 q.merged 12

/-- QSTAT. -/
def execQstat (d : BitVec 6) (w : BitVec 3) (s : State) : Host.Outcome State Fault Refusal :=
  let q := s.core.qu
  .next (runItem s 2 quenchStrands false (regOk s.cur d) (w != 7)
    (.retire (s.putReg s.cur d (if w.toNat ≤ 5 then (q.cut.get w.toNat).setWidth 64 else q.status s.quenchSt))))

/-- QHORIZ: a horizon above every coordinate has no c(j), and reads open. -/
def execQhoriz (d : BitVec 6) (j : BitVec 3) (s : State) : Host.Outcome State Fault Refusal :=
  let h := s.effectiveH
  .next (runItem s 2 quenchStrands false (regOk s.cur d) (decide (j.toNat < 6))
    (if s.sys.nest.toNat ≤ j.toNat then .retire (s.putReg s.cur d 0)
     else if topKey ≤ h then
       let (v, s) := s.fresh 32
       .retire (s.putReg s.cur d (v.setWidth 64))
     else .retire (s.putReg s.cur d (((Coord.ofKey h).get j.toNat).setWidth 64))))

/-- QWAIT (R349). -/
def execQwait (s : State) : Host.Outcome State Fault Refusal :=
  .next (runItem s 2 quenchStrands false true true
    (if !s.atS s.cur then .fail cQuenchScope 0x03 else if s.quenchSt = .pending then .wait s else .retire s))

/-! ## Resuming (R349) -/

/-- Whether a queued record keeps strand `x` stopped (R101). -/
def State.heldByRecord (s : State) (x : StrandId) : Bool :=
  x != .K && (s.sys.fq ++ s.sys.fqWait).any fun r => r.strand == x && r.stops

/-- Whether a pending cut keeps what stands at a coordinate stopped (R346 phase 2). -/
def State.cutKeeps (s : State) (c : Coord) : Bool := s.core.qu.st == .pending && decide (s.core.qu.cut.key ≤ c.key)

/-- Every strand that stands at the cut runs on, but one whose record is still queued (R129), and one at or above a cut that a request
accepted since has fixed (R346); every stream in CUT enters RUN. -/
def State.resumeCut (s : State) : State :=
  let s := strandIds.foldl (fun s x => s.onStrand x fun t =>
    if t.run == .cut && !s.cutKeeps t.coord then { t with run := if s.heldByRecord x then .faulted else .running } else t) s
  let s := s.onCore fun c => { c with streams := c.streams.map fun t => { t with state := if t.state == .cut then .run else t.state } }
  s.onQu fun q => { q with resumeDue := false }

/-- Whether the record of a cut is still queued. -/
def State.stopQueued (s : State) : Bool := (s.sys.fq ++ s.sys.fqWait).any fun r => r.raised == cQuenchStop

/-- The domain resumes from a standing cut: this core at once, or when its QUENCH_STOP record has been popped. -/
def State.resumeDomain (s : State) : State :=
  if s.quenchSt ≠ .cut then s
  else
    let s := s.onQu fun q => { q with st := .none, taken := [], resumeDue := true }
    if s.stopQueued then s else s.resumeCut

/-- QRESUME. -/
def execQresume (s : State) : Host.Outcome State Fault Refusal :=
  .next (runItem s 2 quenchStrands false true true
    (if !s.atS s.cur then .fail cQuenchScope 0x03 else .retire s.resumeDomain))

/-! ## Accepting (R346 phase 1, R347) -/

/-- The QUENCH_STOP record of the last cut (R346). -/
def State.queueStop (s : State) : State :=
  let q := s.core.qu
  let d : BitVec 64 := flagBit 64 q.passed 0 ||| flagBit 64 q.fired 1 ||| place 64 q.level 2 ||| place 64 q.ended 5
  s.enqueue (s.record .K cQuenchStop .asynchronous d 0 8 q.cut .nothing 0)

/-- What QSTAT reports of the requests that a cut answers: PASSED for this core's own, and whether more than one core asked (R348). -/
def QuenchUnit.report (q : QuenchUnit) (cut : Nat) : QuenchUnit :=
  { q with
    passed := (q.taken.filter (·.own)).any (fun r => r.coord.key != cut)
    fired := q.taken.any (·.fired)
    level := match q.taken.getLast? with | some r => r.level | none => q.level
    merged := decide (1 < (q.taken.map (·.core)).eraseDups.length) }

/-- Whether a strand has stopped for good at its end. -/
def Strand.atEnd (t : Strand) : Bool := t.run == .halted || t.run == .pastEnd || t.run == .taskEnd || t.run == .noTask

/-- Phase 2 as it begins: strands at or above the cut stop, and one below that stands at a yield point runs on (R106 item
4, R340). -/
def State.stopAbove (s : State) (cut : Nat) : State :=
  strandIds.foldl (fun s x => s.onStrand x fun t =>
    if t.run == .noTask then t
    else if cut ≤ t.coord.key then { t with run := .cut }
    else if t.run == .yielded then { t with run := .running } else t) s

/-- Whether the quench domain has no member but this core: its level is 1, or this core is the only member there (R336). -/
def State.alone (s : State) : Bool :=
  s.sys.qlvl.toNat ≤ 1 || (match s.domainAt s.sys.qlvl with | some d => s.soleMember d | none => true)

/-- QUENCH_ACCEPT: the requests pending are merged and the cut is fixed. -/
def execQuenchAccept (s : State) : Host.Outcome State Fault Refusal :=
  let q := s.core.qu
  .next (
    if q.requests.isEmpty then s
    else
      match q.st with
      | .cut =>
        let q' := { q with taken := q.requests, requests := [] }
        (s.onQu fun _ => q'.report q.cut.key).queueStop
      | st =>
        let taken := (if st = .pending then q.taken else []) ++ q.requests
        let least := (taken.map fun r => r.coord.key).foldl min topKey
        let cut := max least s.effectiveH
        let q' := { q with taken := taken, requests := [] }
        if topKey ≤ cut then s.onQu fun _ => q'.report cut
        else
          let q' := { q'.report cut with
            st := .pending, cut := Coord.ofKey cut, reported := false, peersReported := s.alone, ended := 0
            since := if st = .pending then q.since else s.sys.cycle.toNat }
          (s.onQu fun _ => q').stopAbove cut)

/-! ## Draining (R346 phase 3) -/

/-- Whether every operation below the cut has completed, every strand stands at the cut or has ended, and everything below
is performed at system scope. -/
def State.drainedTo (s : State) (cut : Nat) : Bool :=
  (strandIds.all fun x =>
    let t := s.strand x
    t.atEnd || (t.run == .cut && decide (cut ≤ t.coord.key))) &&
  (s.opKeys.all fun k => decide (cut ≤ k)) &&
  (s.core.side.all fun e => e.atS || decide (cut ≤ e.coord.key)) &&
  (s.pk.chains.toList.all fun c =>
    match c.state with
    | .held => decide (cut ≤ c.coord.key)
    | .queued | .run | .fault => false
    | _ => true) &&
  -- the follow-on MMAs of chains that have left the port, those of S chains among them (R304, R315)
  s.pk.farMmas.isEmpty && (s.core.mat.queue.all fun o => !o.atS || o.follow.isNone) &&
  s.pk.mu.inflight.isEmpty

/-- QUENCH_DRAIN_REPORT. -/
def execQuenchDrainReport (s : State) : Host.Outcome State Fault Refusal :=
  let q := s.core.qu
  .next (if q.st = .pending && !q.reported && s.drainedTo q.cut.key then s.onQu fun q => { q with reported := true } else s)

/-- Whether every member of the domain has reported. -/
def State.allReported (s : State) : Bool := s.core.qu.reported && (decide (s.sys.qlvl.toNat ≤ 1) || s.core.qu.peersReported)

/-- QUENCH_MEMBER_TIMEOUT: a member package has not reported within the fabric timeout; Hearth hears of it (R347). -/
def execQuenchMemberTimeout (s : State) : Host.Outcome State Fault Refusal :=
  let q := s.core.qu
  .next (if q.st = .pending && decide (5 ≤ s.sys.qlvl.toNat) && !q.peersReported &&
      decide (q.since + max 1 s.pk.ftmo.toNat * 1024 ≤ s.sys.cycle.toNat) then
    (s.onQu fun q => { q with since := s.sys.cycle.toNat }).machineCheck 0x23 else s)

/-! ## Undoing (R331, R342) -/

/-- Writes the bytes of a pre-image that its mask names. -/
def putMasked (m : Memory) (cell : Nat) (mask : BitVec 64) (data : BitVec 512) : Memory :=
  (List.range 64).foldl (fun m i => if mask.getLsbD i then cellSet m (cell + i) (data.extractLsb' (8 * i) 8) else m) m

/-- Restores what a change of parcel state replaced. -/
def State.undoParcel (s : State) : ParcelUndo → State
  | .none => s
  | .stream _ => s
  | .record key old keepGen => s.onPk fun k =>
      let now := kGet Parcel.zero k.parcels key
      { k with parcels := kSet k.parcels key { old with gen := if keepGen then now.gen else old.gen } }
  | .leaf pa old => (s.physPut pa (toBytes 16 old)).forget 0 (2 ^ 56)
  | .inbox key old => s.onPk fun k =>
      let i := kGet Inbox.zero k.inboxes key
      { k with inboxes := kSet k.inboxes key { i with landed := old :: i.landed } }

/-- The stream as it stood before a stream instruction that is undone: its 64 bytes are those of the entry (R188). -/
def SlagEntry.oldStream (e : SlagEntry) (now : Stream) : Stream :=
  match e.undo with
  | .stream old => { old with desc := e.data, gen := now.gen }
  | _ => { now with desc := e.data, state := .idle }

/-- Writes one slag-log entry back. -/
def State.undoEntry (s : State) (e : SlagEntry) : State :=
  match e.kind with
  | .scratch => s.onMu fun m => { m with scratch := putMasked m.scratch e.cell e.mask e.data }
  | .stream => s.onCore fun c =>
      let q := BitVec.ofNat 4 e.cell
      { c with streams := put16 c.streams q (e.oldStream (at16 c.streams q)) }
  | .tag => s.onCore fun c => { c with tags := cellSet c.tags e.cell (e.data.setWidth 128) }
  | .parcel => s.undoParcel e.undo

/-- Entries at or above the cut are written back newest first, and freed. -/
def State.undoSlag (s : State) (cut : Nat) : State :=
  let mine := s.core.slag.filter fun e => decide (cut ≤ e.coord.key)
  (mine.reverse.foldl (fun s e => s.undoEntry e) s).slagFree fun e => decide (e.coord.key < cut)

/-! ## Discarding (R315, R263, R210, R168) -/

/-- What a cut does to the resident B: the macros that an MLOADB at or above it has begun to write become empty, so that RES reads 0; a
load that is discarded before it began has written none, and m.bstat is as it was before (R263). -/
def MatrixState.cutB (m : MatrixState) (cut : Nat) : MatrixState :=
  if cut < m.loadTop then { m with bstat := { m.bstat with res := false }, loadTop := 0, cells := [], cols := [] }
  else
    match m.queue.find? fun o => o.kind == .mloadb && !o.begun && !o.atS && decide (cut ≤ o.coord.key) with
    | some o => { m with bstat := o.prior }
    | none => m

/-- What a cut does to the counts: the disagreements of an MCSUM at or above it are withdrawn, FAILED stays (R283, R285). -/
def MatrixState.cutSums (m : MatrixState) (cut : Nat) : MatrixState :=
  let gone := m.sums.filter fun c => decide (cut ≤ c.1)
  { m with
    chk := { m.chk with fails := gone.foldl (fun n c => n - c.2) m.chk.fails }
    sums := m.sums.filter fun c => decide (c.1 < cut) }

/-- HELD entries, HELD chains, passes and matrix operations at or above the cut are discarded, and a request for draw units
at or above it is withdrawn. -/
def State.discardAbove (s : State) (cut : Nat) : State :=
  let gone := (s.core.side.filter fun e => !e.atS && decide (cut ≤ e.coord.key)).map (·.id)
  let s := gone.foldl (fun s id => s.sideDrop id) s
  let s := s.onPk fun k => { k with
    chains := k.chains.map fun c => if c.state = .held ∧ cut ≤ c.coord.key then { c with state := .free } else c
    notices := k.notices.filter fun n => decide (n.2.1.key < cut)
    frozen := k.frozen.filter fun f => decide (f.2.key < cut) }
  let s := s.onCore fun c => { c with
    rowq := c.rowq.filter fun r => r.atS || decide (r.coord.key < cut)
    chainq := c.chainq.filter fun p => p.atS || decide (p.coord.key < cut) }
  -- a follow-on MMA at or above the cut is gone, and its consumed counter with it (R305)
  let lost := s.core.mat.queue.filterMap fun o => if o.atS || decide (o.coord.key < cut) then none else o.follow
  let s := lost.foldl (fun s f => s.addCounter f.2 (-1)) s
  s.onMat fun m =>
    let m := ((m.cutB cut).cutSums cut).withdraw cut
    { m with
      queue := m.queue.filter fun o => o.atS || decide (o.coord.key < cut)
      drawing := if cut ≤ s.core.m.coord.key then none else m.drawing }

/-- Streams at a cut (R164 item 4, R188): one whose SGO lies at or above it is IDLE, and one whose walk reaches it stands at
its first element at or above it. What it has read of a slot is read again, and a wait for a slot has ended. -/
def Stream.cutAt (t : Stream) (cut : Nat) : Stream :=
  let t := { t with got := [], stall := none }
  if t.state = .idle then t
  else if cut ≤ t.base.key then { t with state := .idle, head := 0, filled := 0 }
  else
    let units := slotUnits t.desc
    match firstNat (fun k => decide (cut ≤ t.keyAt (k * units))) (unitCount t.desc / units) 0 with
    | some k => { t with state := .cut, head := k * units, filled := k }
    | none => t

/-- The image to which a strand is restored: that of its first change at or above the cut. -/
def Strand.imageAt (t : Strand) (cut : Nat) : Option CutImage := t.images.find? fun i => decide (cut ≤ i.coord.key)

/-- A ring that this core uses is rewound, at its HOME (R164, R355): HEAD and CP return when the consumer itself has passed a slot at or
above the cut; the first such slot becomes TAIL, and it and what follows is empty. -/
def State.rewindRing (s : State) (h : BitVec 4) (cut : Nat) : State :=
  match s.ringOf h with
  | .error _ => s
  | .ok r =>
    let saved := if cut < r.ring.passed then
        (r.ring.consumer.bind fun x => (s.strand x).imageAt cut).bind fun i => i.heads[h.toNat]?
      else none
    let (head, cp) := saved.getD (r.ring.head, r.ring.cp)
    let back := (r.ring.head.toNat + r.slots - head.toNat) % r.slots
    let at_ (i : Nat) : Nat := r.index head.toNat i
    let mine (i : Nat) : Bool := let t := s.slotState r (at_ i); t.full || t.written || decide (i < back)
    match (List.range r.slots).find? fun i => mine i && decide (cut ≤ (s.slotState r (at_ i)).coord.key) with
    | none => s.putRing r { r.ring with head := head, cp := cp }
    | some k =>
      let s := (List.range r.slots).foldl (fun s i =>
        if k ≤ i then s.putSlot r (at_ i) { s.slotState r (at_ i) with full := false, written := false } else s) s
      s.putRing r { r.ring with
        head := head, cp := cp, tail := BitVec.ofNat 8 (at_ k), pp := r.parity head.toNat cp k, wtail := BitVec.ofNat 8 (at_ k)
        passed := min r.ring.passed cut }

/-! ## Restoring (R206, R252, R263, R340, R120) -/

/-- The earliest of the images from one on for which a test holds. -/
def laterImages (images : List CutImage) (i : CutImage) : List CutImage := images.dropWhile fun j => j.id != i.id

/-- Tiles at a restore of V to an image: carried ones from their snapshots, others open. -/
def State.restoreTiles (s : State) (i : CutImage) : State :=
  let later := laterImages s.core.v.images i
  (List.range 64).foldl (fun s n =>
    let t := BitVec.ofNat 6 n
    if i.vcarry.getLsbD n then
      match later.findSome? fun j => (s.core.vec.idle.find? fun kv => kv.2 == .tileSnap t j.id).map (·.1) with
      | some b => (s.keepPast t).onVec fun v => v.copyBank b (s.bankOf t)
      | none => s
    else s.openTile t) s

/-- The snapshot of a quantum that an image owns. -/
def State.quantumSnap (s : State) (b : IdleBank) : Option (List (BitVec 32)) :=
  match s.core.mat.zsnaps.find? (·.2 == b) with
  | some (n, _) => some (s.core.mat.quantum (n / 64) (n % 64))
  | none => (s.core.vec.idle.find? (·.2 == b)).map fun kv => s.core.vec.bank kv.1

/-- Accumulators at a restore of M to an image: the quanta of carried ones from their snapshots, the others open, but for those that an
operation without a coordinate has written (R297). -/
def State.restoreAccs (s : State) (i : CutImage) : State :=
  let later := laterImages s.core.m.images i
  let s := (List.range 512).foldl (fun s n =>
    if i.zc.getLsbD (n / 64) then
      match later.findSome? fun j => s.quantumSnap (.accSnap (BitVec.ofNat 3 (n / 64)) (BitVec.ofNat 6 (n % 64)) j.id) with
      | some l => s.onMat fun m => m.putQuantum (n / 64) (n % 64) l
      | none => s
    else s) s
  (List.range 8).foldl (fun s z => if i.zc.getLsbD z || s.core.mat.keptAccs.getLsbD z then s else s.openAcc z) s

/-- Whether an image stands in the body of a lockstep block. -/
def State.lockstepAt (s : State) (x : StrandId) (i : CutImage) : Bool :=
  i.pc != i.hdr && hdrS (wordAt (s.code x) i.hdr.toNat)

/-- The strand's own part of an image. K at S keeps its registers and its place in the handler: the image's go to k.epc,
k.estat, and to what ERET loads (R120). -/
def State.restoreStrand (s : State) (x : StrandId) (i : CutImage) (r : Run) : State :=
  let lock := s.lockstepAt x i
  let rest (t : Strand) : Strand := { t with
    coord := i.coord, calls := i.calls, phase := i.phase, run := r, amo := none, synced := none
    timed := t.timed.filter (·.atS)
    images := t.images.filter fun j => decide (j.id ≤ i.id) }
  if s.atS x then
    (s.onStrand x rest).onSys fun y => { y with
      epcPc := i.pc, epcHdr := i.hdr, epcRemain := i.remain, estatFl := i.flags, kHeld := some (i.s, i.cc), lockT := lock }
  else
    s.onStrand x fun t => { rest t with
      s := i.s, flags := i.flags, cc := i.cc, pc := i.pc, hdr := i.hdr, remain := i.remain, lockstep := lock
      wait := none, dsync := none, pause := 0 }

/-- Restores a strand to an image, with the engine state the image holds (R339). -/
def State.restoreImage (s : State) (x : StrandId) (i : CutImage) (r : Run) : State :=
  let s := match x with
    | .K => s
    | .A => s.onCore fun c => { c with areg := i.a }
    | .V => (s.restoreTiles i).onVec fun v => { v with masks := i.masks, vmask := i.vmask, vcarry := i.vcarry }
    | .M => (s.restoreAccs i).onMat fun m => { m with zc := i.zc, chkBase := i.chk }
  s.restoreStrand x i r

/-- Every snapshot of the task is freed (R206). -/
def State.freeSnaps (s : State) : State :=
  let parked (b : IdleBank) : Bool := match b with | .parked _ => true | _ => false
  (s.onVec fun v => { v with idle := v.idle.filter fun kv => parked kv.2 }).onMat fun m => { m with zsnaps := [] }

/-- Records at or above the cut leave the queue, and those that wait for it (R25, R103). -/
def State.dropRecords (s : State) (cut : Nat) : State :=
  let below (r : FaultRecord) : Bool := decide (r.coord.key < cut)
  let s := strandIds.foldl (fun s x => s.onStrand x fun t => { t with eaf := t.eaf.filter below }) s
  s.onSys fun y =>
    let (q, w, _) := admitWaiting (y.fq.filter below) (y.fqWait.filter below)
    { y with fq := q, fqWait := w }

/-- Phase 4 at this core (R346): every strand at or above the cut returns to its image; the horizon is the cut. -/
def State.cutTo (s : State) (cut : Nat) : State :=
  -- the loads of K's handler carry no coordinate, and land in their own cycles (R120, R176)
  let s := strandIds.foldl (fun s x => if s.atS x then s else s.landAll x) s
  let s := s.undoSlag cut
  let s := (List.range 16).foldl (fun s h => s.rewindRing (BitVec.ofNat 4 h) cut) s
  let s := s.onCore fun c => { c with streams := c.streams.map (·.cutAt cut) }
  let s := s.discardAbove cut
  let s := strandIds.foldl (fun s x =>
    let t := s.strand x
    if t.run = .noTask ∨ t.coord.key < cut then s
    else match t.imageAt cut with
      | some i => s.restoreImage x i .cut
      | none => s.onStrand x fun t => { t with run := .cut }) s
  (s.freeSnaps.dropRecords cut).raiseHorizon cut

/-- The ENDED mask: strands that ended before they reached the cut. -/
def State.endedMask (s : State) (cut : Nat) : BitVec 4 :=
  strandIds.foldl (fun m x =>
    let t := s.strand x
    if t.atEnd && decide (t.coord.key < cut) then m ||| (1#4 <<< strandNum x) else m) 0

/-- QUENCH_COMMIT: every member has reported; the core undoes, discards, rewinds and restores, and queues QUENCH_STOP. It is a
synchronisation point at system scope: later reads find every write below the cut (R26, R39). -/
def execQuenchCommit (s : State) : Host.Outcome State Fault Refusal :=
  let q := s.core.qu
  let cut := q.cut.key
  .next (
    if q.st ≠ .pending || !s.allReported then s
    else
      let ended := s.endedMask cut
      let s := (s.cutTo cut).acquireAll
      let withdrawn := !s.atS .K && decide (cut ≤ (s.strand .K).coord.key)
      let s := s.onQu fun q => { q with
        st := .cut, reported := false, resumeDue := false, ended := ended, settle := if withdrawn then false else q.settle
        settled := if withdrawn then false else q.settled }
      -- a task whose end was under way comes to it afresh (R122)
      (s.onPk fun k => { k with ending := if k.ending < 4 then 0 else k.ending }).queueStop)

/-! ## The pin and the floor (R337, R352) -/

/-- PIN is written: setting it fixes where the horizon stands. -/
def State.putPin (s : State) (pin : Bool) : State :=
  let p := s.effectiveH
  s.onQu fun q => { q with pin := pin, pinAt := if pin then p else q.pinAt }

/-- QCTL_PIN_WRITE. -/
def execQctlPinWrite (pin : Bool) (s : State) : Host.Outcome State Fault Refusal := .next (s.putPin pin)

/-- The floor rises to the greatest current coordinate of any member strand, and what it passes is released. -/
def State.settleNow (s : State) : State :=
  let own := (strandIds.map fun x => (s.strand x).coord.key).foldl max 0
  let top := if s.sys.qlvl.toNat ≤ 1 then own else max own s.core.qu.peersMax
  let s := s.onQu fun q => { q with floor := max q.floor (keyAbove s.sys.nest.toNat top) }
  s.raiseHorizon s.effectiveH

/-- Whether all four strands have stopped other than by a fault, with K at T (R122). -/
def State.taskStopped (s : State) : Bool :=
  !s.sys.levelS && !s.sys.sDue && !s.sys.stoppedByH && ((s.strand .K).ended || (s.strand .K).run == .taskEnd) && s.othersEnded

/-- SETTLE_APPLY: the coordinator applies a settle that a member has asked for, after any pending quench, one not yet accepted among them.
One that comes while the end of a task waits for the domain's horizon ends that wait (R122). -/
def execSettleApply (s : State) : Host.Outcome State Fault Refusal :=
  let q := s.core.qu
  .next (
    if ((q.settle && !q.settled) || q.peerSettle) && q.stNow != .pending then
      (s.settleNow.onQu fun q => { q with settled := q.settle, peerSettle := false }).onPk fun k =>
        { k with ending := if k.ending = 1 ∧ s.taskStopped then 2 else k.ending }
    else s)

/-- SETTLE: asks, and retires when no entry, chain, image or snapshot below the new floor is still kept, at any member core (R352). -/
def execSettle (s : State) : Host.Outcome State Fault Refusal :=
  let q := s.core.qu
  let held := s.pk.chains.toList.any fun c => c.state == .held && decide (c.coord.key < q.hk)
  let others := decide (1 < s.sys.qlvl.toNat) && !q.peersSettled
  .next (runItem s 2 quenchStrands false true true
    (if !q.settle then .wait (s.onQu fun q => { q with settle := true, peersSettled := s.alone })
     else if !q.settled || held || others then .wait s
     else .retire (s.onQu fun q => { q with settle := false, settled := false })))

end Sys2Proof.Machine
end

