-- ==== Sys2Proof/Machine/Swage.lean ====
section
/-!
DEFINITION. Swage: which slot acts on an item, the micro-operations of EMULATE, the checks of a patch image and its
installation at a swap, and SWGSTAT (R383 to R395).
-/
namespace Sys2Proof.Machine

/-! ## Slots (R383, R385) -/

def SwageSlot.v (t : SwageSlot) : Bool := t.record.getLsbD 0
def SwageSlot.smask (t : SwageSlot) : BitVec 4 := t.record.extractLsb' 1 4
def SwageSlot.cmp (t : SwageSlot) : Bool := t.record.getLsbD 5
def SwageSlot.kind (t : SwageSlot) : Bool := t.record.getLsbD 6
def SwageSlot.slv (t : SwageSlot) : Bool := t.record.getLsbD 7
def SwageSlot.act (t : SwageSlot) : Nat := t.field 12 2
def SwageSlot.tcode (t : SwageSlot) : BitVec 16 := t.record.extractLsb' 16 16
def SwageSlot.slotMask (t : SwageSlot) : BitVec 32 := t.record.extractLsb' 32 32
def SwageSlot.value (t : SwageSlot) : BitVec 32 := t.record.extractLsb' 64 32
def SwageSlot.cause (t : SwageSlot) : Nat := t.field 96 6
def SwageSlot.hmode (t : SwageSlot) : Bool := t.record.getLsbD 102
def SwageSlot.newCause (t : SwageSlot) : Nat := t.field 103 6
def SwageSlot.payoff (t : SwageSlot) : Nat := t.field 128 16
def SwageSlot.plen (t : SwageSlot) : Nat := t.field 144 7
def SwageSlot.slotNo (t : SwageSlot) : Nat := t.field 252 4

/-- Whether a decode slot matches an item of strand `x` (R385). -/
def SwageSlot.matches_ (t : SwageSlot) (x : StrandId) (atS : Bool) (i : Item) : Bool :=
  t.v && !t.kind && t.smask.getLsbD (strandNum x) && (!atS || t.slv) && t.cmp == itemCompact i &&
    (match i with
     | .wide w => w &&& t.slotMask == t.value
     | .compact h => h &&& t.slotMask.setWidth 16 == t.value.setWidth 16)

/-- The decode slot that acts on an item. -/
def State.decodeSlot (s : State) (x : StrandId) (i : Item) : Option (BitVec 4) :=
  bestSlot s.pk.swage fun t => t.matches_ x (s.atS x) i

/-! ## Ring waits that end (R163) -/

/-- The handle, count and kind of a ring wait that an item is (R147, R76). -/
def waitItem : Item → Option (BitVec 4 × Nat × Bool)
  | .wide w =>
    if w.extractLsb' 26 6 = 0b100110 ∧ w.extractLsb' 3 9 = 0 then
      let h : BitVec 4 := w.extractLsb' 22 4
      let n := (w.extractLsb' 12 10).toNat
      if w.extractLsb' 0 3 = 5 then some (h, n, true) else if w.extractLsb' 0 3 = 6 then some (h, n, false) else none
    else none
  | .compact c =>
    let h : BitVec 4 := c.extractLsb' 6 4
    let n := (c.extractLsb' 0 6).toNat
    if c.extractLsb' 10 6 = 0x10 then some (h, n, true) else if c.extractLsb' 10 6 = 0x11 then some (h, n, false) else none

/-- RING_WAIT_SATISFIED: a ring wait whose slots have come retires; an item that waits for a slot operand, or that a slot of Swage acts
on (R77 step 2), issues next. -/
def execRingWaitSatisfied (x : StrandId) (s : State) : Host.Outcome State Fault Refusal :=
  let t := s.strand x
  .next (
    match t.wait with
    | none => s
    | some _ =>
      if !s.mayIssue x || t.lockstep then s
      else if (s.decodeSlot x (s.itemOf x)).isSome then { s with turn := strandNum x }
      else
        match waitItem (s.itemOf x) with
        | some (h, n, true) => s.finish x (s.itemLen x) (s.waitFull x h n)
        | some (h, n, false) => s.finish x (s.itemLen x) (s.waitEmpty x h n)
        | none => { s with turn := strandNum x })

/-! ## EMULATE (R388) -/

def uopOf (u : BitVec 32) : Nat := (u.extractLsb' 26 6).toNat
def uopD (u : BitVec 32) : BitVec 7 := u.extractLsb' 19 7
def uopA (u : BitVec 32) : BitVec 7 := u.extractLsb' 12 7
def uopB (u : BitVec 32) : BitVec 7 := u.extractLsb' 5 7
def uopW (u : BitVec 32) : Nat := (u.extractLsb' 0 5).toNat

/-- Where a sequence stands: its temporaries, and the register writes that take effect at its end, last first. -/
structure Sequence where
  temps : List (BitVec 64)
  writes : List (BitVec 6 × BitVec 64)

/-- An operand of a micro-operation. -/
def State.uopRead (s : State) (x : StrandId) (item : Item) (q : Sequence) (f : BitVec 7) : BitVec 64 :=
  let n := f.toNat
  if n < 64 then s.reg x (f.setWidth 6)
  else if n < 72 then q.temps.getD (n - 64) 0
  else if n = 72 then (itemBits item).setWidth 64
  else if n = 73 then (s.strand x).pc.setWidth 64
  else 0

/-- Writes a micro-operation's destination. -/
def Sequence.put (q : Sequence) (f : BitVec 7) (v : BitVec 64) : Sequence :=
  if f.toNat < 64 then { q with writes := (f.setWidth 6, v) :: q.writes } else { q with temps := q.temps.set (f.toNat - 64) v }

/-- The result of a micro-operation that only computes. -/
def uopValue (u : BitVec 32) (a b : BitVec 64) : Option (BitVec 64) :=
  let n := (b.extractLsb' 0 6).toNat
  let flag (p : Bool) : BitVec 64 := if p then 1 else 0
  match uopOf u with
  | 0 => some (a + b)
  | 1 => some (a - b)
  | 2 => some (a &&& b)
  | 3 => some (a ||| b)
  | 4 => some (a ^^^ b)
  | 5 => some (a <<< n)
  | 6 => some (a >>> n)
  | 7 => some (a.sshiftRight n)
  | 8 => some (a * b)
  | 9 => some (BitVec.ofNat 64 (a.toNat * b.toNat / 2 ^ 64))
  | 10 => some (flag (a == b))
  | 11 => some (flag (a.ult b))
  | 12 => some (flag (a.slt b))
  | 13 => some ((a >>> ((uopB u).setWidth 6 : BitVec 6).toNat) &&& BitVec.ofNat 64 (2 ^ (uopW u + 1) - 1))
  | 14 => some ((uopA u ++ uopB u).signExtend 64)
  | _ => none

/-- The register writes of a sequence take effect. -/
def State.endSequence (s : State) (x : StrandId) (q : Sequence) : Res :=
  .retire (q.writes.reverse.foldl (fun s w => s.putReg x w.1 w.2) s)

/-- Runs the micro-operations of a sequence for strand `x`; `fuel` bounds their number. -/
def State.runUops (s : State) (x : StrandId) (item : Item) (tcode : BitVec 16) : Nat → List (BitVec 32) → Sequence → Res
  | 0, _, q => s.endSequence x q
  | _ + 1, [], q => s.endSequence x q
  | fuel + 1, u :: rest, q =>
    let a := s.uopRead x item q (uopA u)
    let b := s.uopRead x item q (uopB u)
    let r : BitVec 6 := a.setWidth 6
    match uopValue u a b with
    | some v => State.runUops s x item tcode fuel rest (q.put (uopD u) v)
    | none =>
      match uopOf u with
      | 15 => s.load x a 8 fun bs s => State.runUops s x item tcode fuel rest (q.put (uopD u) (ofBytes 64 bs))
      | 16 => s.store x a (toBytes 8 b) .store 0 fun s => State.runUops s x item tcode fuel rest q
      | 17 => State.runUops s x item tcode fuel (if a = 0 then rest.drop (uopB u).toNat else rest) q
      | 18 => if regOk x r then State.runUops s x item tcode fuel rest (q.put (uopD u) (s.reg x r)) else .fail cWrongStrand 0
      | 19 => if regOk x r then State.runUops s x item tcode fuel rest { q with writes := (r, b) :: q.writes } else .fail cWrongStrand 0
      | 20 => .fail cPatchTrap (tcode.setWidth 64)
      | _ => s.endSequence x q

/-- The effect of an EMULATE slot on an item. -/
def State.emulate (s : State) (x : StrandId) (t : SwageSlot) : Res :=
  s.runUops x (s.itemOf x) t.tcode t.payload.length t.payload ⟨List.replicate 8 0, []⟩

/-- Ends an item that a slot acted on: a cause is raised at the item with ENG 9, and PATCH_TRAP names the slot (R386, R387
item 4). -/
def State.finishPatched (s : State) (x : StrandId) (n : BitVec 4) (eng : BitVec 4) : Res → State
  | .trap c d a =>
    if s.dry then { s with last := .trapped c d a }
    else { ((s.onStrand x (·.clearBad)).raisePrecise x c d a eng (if c = cPatchTrap then n else 0)) with last := .trapped c d a }
  | r => s.finish x (s.itemLen x) r

/-! ## Images (R391, R392) -/

/-- Operand fields of a micro-operation that are read, and whether its D7 is written. -/
def uopUses (u : BitVec 32) : List (BitVec 7) × Bool :=
  let a := uopA u
  let b := uopB u
  match uopOf u with
  | 13 => ([a], true)
  | 14 => ([], true)
  | 15 => ([a], true)
  | 16 => ([a, b], false)
  | 17 => ([a], false)
  | 18 => ([a], true)
  | 19 => ([a, b], false)
  | 20 => ([], false)
  | 21 => ([], false)
  | _ => ([a, b], true)

/-- Whether an EMULATE sequence is refused at load. -/
def badUops (smask : BitVec 4) (l : List (BitVec 32)) : Bool :=
  let field (f : BitVec 7) : Bool := decide (74 ≤ f.toNat) || (decide (32 ≤ f.toNat ∧ f.toNat < 64) && smask &&& 0b1101 != 0)
  let one (u : BitVec 32) : Bool :=
    let (reads, writes) := uopUses u
    decide (21 < uopOf u) || reads.any field || (writes && (field (uopD u) || uopD u == 72 || uopD u == 73)) ||
      (uopOf u != 13 && uopW u != 0) || ((uopOf u == 15 || uopOf u == 16) && smask &&& 0b1100 != 0)
  let stores := (l.filter fun u => uopOf u == 16).length
  let after := (List.range l.length).all fun i =>
    (l[i]?).map uopOf != some 16 || (l[i + 1]?).map uopOf == some 21
  l.any one || decide (1 < stores) || !after

/-- Whether a REWRITE sequence is refused at load. -/
def badRewrite (l : List (BitVec 32)) : Bool :=
  (l.any fun w => !w.getLsbD 31) || (l.dropLast.any fun w => decide (2 < (w.extractLsb' 26 5).toNat))

/-- Causes that no hook may name, and causes whose resume point is I or E (R104, R392). -/
def hookCauseOk (c : Nat) : Bool := c != 0 && c != 0x23 && c != 0x3B && c != 0x3E && c != 0x3F
def retryCauseOk (c : Nat) : Bool :=
  !([0x09, 0x0A, 0x19, 0x1E, 0x23, 0x31, 0x32, 0x33, 0x34, 0x36, 0x37, 0x38, 0x3A, 0x3C, 0x3D, 0x3E, 0x3F] : List Nat).contains c

/-- The records of `n` bytes at an offset of an image, up to `most`, as far as its bytes reach. -/
def recordsOf {w : Nat} (bs : List (BitVec 8)) (off n most : Nat) : List (BitVec w) :=
  (List.range (min most ((bs.length - off) / n))).map fun k => field bs (off + n * k)

/-- The patch image that bytes hold, with the layout of R391. -/
def PatchImage.read (bs : List (BitVec 8)) : PatchImage :=
  let nslot : BitVec 8 := field bs 0x1C
  let paylen : BitVec 32 := field bs 0x48
  let payload := 0x80 + 32 * nslot.toNat
  let end_ := payload + 4 * paylen.toNat
  let siglen : BitVec 16 := field bs end_
  { magic := field bs 0x00, version := field bs 0x08, signer := field bs 0x0A, flags := field bs 0x0B, part := field bs 0x0C
    stepmask := field bs 0x10, arb := field bs 0x18, nslot := nslot, coresel := field bs 0x20, partmask := field bs 0x40, paylen := paylen
    reserved := recordsOf bs 0x1D 1 3 ++ recordsOf bs 0x4C 1 52
    slots := recordsOf bs 0x80 32 nslot.toNat, payload := recordsOf bs payload 4 paylen.toNat
    siglen := siglen, signature := (bs.drop (end_ + 2)).take siglen.toNat }

/-- The bytes of an image from MAGIC to the end of PAYLOAD. -/
def PatchImage.bytes (i : PatchImage) : List (BitVec 8) :=
  toBytes 8 i.magic ++ toBytes 2 i.version ++ [i.signer, i.flags] ++ toBytes 4 i.part ++ toBytes 8 i.stepmask ++ toBytes 4 i.arb ++
    [i.nslot] ++ i.reserved.take 3 ++ toBytes 32 i.coresel ++ toBytes 8 i.partmask ++ toBytes 4 i.paylen ++ i.reserved.drop 3 ++
    i.slots.flatMap (toBytes 32) ++ i.payload.flatMap (toBytes 4)

/-- The slots of an image, each with its payload. -/
def PatchImage.slotList (i : PatchImage) : List SwageSlot :=
  i.slots.map fun r =>
    let t : SwageSlot := ⟨r, [], 0⟩
    if t.act = 1 ∨ t.act = 2 then { t with payload := (i.payload.drop t.payoff).take t.plen } else t

/-- GLOBAL of an image. -/
def PatchImage.isGlobal (i : PatchImage) : Bool := i.flags.getLsbD 0

/-- Whether a slot record is refused with code 0x06. -/
def badRecord (signer : Nat) (t : SwageSlot) : Bool :=
  t.field 14 2 != 0 || t.field 117 11 != 0 || t.field 151 101 != 0 || decide (t.slotNo / 8 ≠ signer) || (t.kind != (t.act == 3)) ||
    (t.act == 1 && decide (t.plen = 0 ∨ 4 < t.plen)) || (t.act == 2 && decide (t.plen = 0 ∨ 64 < t.plen)) ||
    (t.cmp && (t.slotMask.extractLsb' 16 16 != 0 || t.value.extractLsb' 16 16 != 0))

/-- The first failure of an image, in the order of R392; 0 for none. -/
def State.patchFault (s : State) (i : PatchImage) : BitVec 8 :=
  let k := s.pk
  let l := i.slotList
  let fused := if i.signer = 0 then k.fuseVendor else k.fuseOperator
  let hooks := l.filter (·.kind)
  if i.magic ≠ 0x45474157534E4146 ∨ i.version ≠ 1 ∨ i.reserved.any (· != 0) ∨ i.flags &&& 0xFE ≠ 0 ∨ 1 < i.signer.toNat ∨ 255 < i.arb.toNat then 0x01
  else if i.part ≠ 0x7240 ∨ !i.stepmask.getLsbD k.stepping.toNat then 0x02
  else if i.signer = 1 ∧ !k.operatorKey then 0x03
  else if !Config.falconVerifies i.signer.toNat (shake256 i.bytes) i.signature then 0x04
  else if i.arb.toNat < fused.toNat then 0x05
  else if 8 < i.nslot.toNat ∨ l.any (badRecord i.signer.toNat) ∨ !decide (l.map (·.slotNo)).Nodup then 0x06
  else if 4096 < i.paylen.toNat ∨ l.any (fun t => decide (i.paylen.toNat < t.payoff + t.plen)) then 0x07
  else if l.any fun t => (t.act == 1 && badRewrite t.payload) || (t.act == 2 && badUops t.smask t.payload) then 0x08
  else if hooks.any fun t => !hookCauseOk t.cause || (t.hmode && !hookCauseOk t.newCause) || (!t.hmode && !retryCauseOk t.cause) then 0x09
  else if i.signer = 1 ∧ (i.isGlobal || (List.range 64).any fun q =>
      i.partmask.getLsbD q && !k.partitions.any fun p => p.id.toNat == q && p.operatorKey) then 0x0A
  else 0

/-- Whether an image targets this core (R393). -/
def State.targeted (s : State) (i : PatchImage) : Bool :=
  i.isGlobal || (i.coresel.getLsbD s.pk.pcore.toNat && i.partmask.getLsbD s.pk.ownPartition.toNat)

/-- The patch set of an image. -/
def PatchImage.set (i : PatchImage) : PatchSet := ⟨i.signer == 1, i.arb.setWidth 8, i.slotList.map fun t => (BitVec.ofNat 4 t.slotNo, t)⟩

/-- The sets of the core's partition, as the accepted images give them: of each signer the last that targets the core, or, where none does
and the core still runs slots of another partition's, a set that empties its range (R393). -/
def State.partitionSets (s : State) : List PatchSet :=
  [false, true].filterMap fun operator =>
    match s.pk.accepted.reverse.find? fun i => (i.signer == 1) == operator && s.targeted i with
    | some i => some i.set
    | none =>
      if (List.range 8).any fun n => (at16 s.pk.swage (BitVec.ofNat 4 (n + if operator then 8 else 0))).v then some ⟨operator, 0, []⟩ else none

/-- An accepted image: the fused counter rises, and the set waits for the core's next swap. -/
def State.acceptPatch (s : State) (i : PatchImage) : State :=
  let operator := i.signer == 1
  let arb : BitVec 8 := i.arb.setWidth 8
  let set := i.set
  let hit := s.targeted i
  s.onPk fun k => { k with
    accepted := k.accepted ++ [i]
    fuseVendor := if operator then k.fuseVendor else if k.fuseVendor < arb then arb else k.fuseVendor
    fuseOperator := if operator then if k.fuseOperator < arb then arb else k.fuseOperator else k.fuseOperator
    patches := if hit then k.patches.filter (fun p => p.operator != operator) ++ [set] else k.patches }

/-- The slots of a signer's range become those of a set (R384). -/
def installSet (v : Vector SwageSlot 16) (p : PatchSet) : Vector SwageSlot 16 :=
  (List.range 8).foldl (fun v i =>
    let n := BitVec.ofNat 4 (i + if p.operator then 8 else 0)
    let t := match p.slots.find? (·.1 == n) with
      | some (_, t) => t
      | none => ⟨place 256 n 252, [], 0⟩
    put16 v n t) v

/-- The pending sets of the core replace its active slots, at a swap (R393). -/
def State.installPatches (s : State) : State :=
  s.onPk fun k => k.patches.foldl (fun k p =>
    { k with swage := installSet k.swage p, vendorArb := if p.operator then k.vendorArb else p.arb
             operatorArb := if p.operator then p.arb else k.operatorArb }) k |> fun k => { k with patches := [] }

/-! ## SWGSTAT (R395) -/

/-- Runs a SWGSTAT whose register `a` may hold `bits` bits. -/
def swageItem (s : State) (d a : BitVec 6) (bits : Nat) (k : BitVec 64 → BitVec 64) : State :=
  let x := s.cur
  let v := s.reg x a
  runItem s 2 [.K] true (regOk x d && regOk x a) true
    (if 2 ^ bits ≤ v.toNat then .fail cOperandRange 0x74 else .retire (s.putReg x d (k v)))

/-- SWGSTAT. -/
def execSwgstat (d : BitVec 6) (s : State) : Host.Outcome State Fault Refusal :=
  let k := s.pk
  let v := (List.range 16).foldl (fun v i => v ||| flagBit 64 (at16 k.swage (BitVec.ofNat 4 i)).v i) (0 : BitVec 64)
  .next (runItem s 2 [.K] true (regOk s.cur d) true
    (.retire (s.putReg s.cur d (v ||| place 64 k.vendorArb 16 ||| place 64 k.operatorArb 24 ||| flagBit 64 (!k.patches.isEmpty) 32))))

/-- SWGSTAT.REC. -/
def execSwgstatRec (d a : BitVec 6) (s : State) : Host.Outcome State Fault Refusal :=
  .next (swageItem s d a 6 fun v => (at16 s.pk.swage (v.setWidth 4)).record.extractLsb' (64 * (v.extractLsb' 4 2).toNat) 64)

/-- SWGSTAT.HIT. -/
def execSwgstatHit (d a : BitVec 6) (s : State) : Host.Outcome State Fault Refusal :=
  .next (swageItem s d a 4 fun v => (at16 s.pk.swage (v.setWidth 4)).hits.setWidth 64)

/-- SWGSTAT.LAST. -/
def execSwgstatLast (d a : BitVec 6) (s : State) : Host.Outcome State Fault Refusal :=
  .next (swageItem s d a 2 fun v =>
    let l := (s.strand (strandOf v.toNat)).last
    place 64 l.slot 0 ||| flagBit 64 l.valid 4 ||| place 64 l.act 5)

end Sys2Proof.Machine
end

