-- ==== Sys2Proof/Machine/Traps.lean ====
section
/-!
DEFINITION. Delivery, pre-emption and the end of a task: entry into S, the fault queue's commands, yield requests, deadlines
and budgets, the forced modes, the steps of a task's end, and context images (R98 to R112, R117 to R129, R354, R404).
-/
namespace Sys2Proof.Machine

/-! ## Delivery (R100, R101, R118) -/

/-- Whether a stream can fill a slot now. One that waits for a slot waits for items that have still to issue. -/
def State.streamMoves (s : State) (t : Stream) : Bool :=
  t.state == .run && (match s.ringOf (descRing t.desc) with
    | .ok r => (s.freeSlotFor r t.desc).isSome
    | .error _ => true)

/-- Whether nothing that issued earlier is still in execution, as serial mode asks (R354): engine operations and streams, those that a
fault has stopped among them, timed loads, and the stores that are not HELD. -/
def State.serialQuiet (s : State) : Bool :=
  s.core.mat.queue.isEmpty && s.core.rowq.isEmpty && s.core.chainq.isEmpty &&
    (s.core.side.all fun e => e.state == .held) && (strandIds.all fun x => (s.strand x).timed.isEmpty) &&
    !(s.core.streams.toList.any fun t => t.state == .fault || s.streamMoves t) &&
    s.pk.chains.toList.all fun c => !(c.state == .queued || c.state == .run || c.state == .fault)

/-- Whether K stands at an item boundary, or at a bundle boundary (R100, R107, R121): no item waits for an atomic, and no DSYNC whose
phase has passed has still to retire (R124). -/
def State.kAtBoundary (s : State) : Bool :=
  !s.awaits .K && !((s.strand .K).passed && s.mayIssue .K && (!s.sys.rerun || s.serialQuiet))

/-- ENTER_S: a cause delivered at S interrupts K at its next item boundary. -/
def execEnterS (s : State) : Host.Outcome State Fault Refusal :=
  .next (if s.sys.sDue && !s.sys.levelS && !s.sys.stoppedByH && s.kAtBoundary then s.enterS else s)

/-- HEARTH_DELIVERY: the records that wait reach Hearth. -/
def execHearthDelivery (s : State) : Host.Outcome State Fault Refusal :=
  .next (s.onSys fun y => { y with hearth := y.hearth ++ y.hDue, hDue := [] })

/-- POP (R101): the head record is removed. Without RESUME a FAULTED side-log entry is dropped with it (R369). When the
record of a cut is popped after QRESUME, the core resumes (R349). -/
def State.popRecord (s : State) (resume : Bool) : State :=
  match s.sys.fq with
  | [] => s
  | r :: rest =>
    let s := if resume then s.resumeRecord r (rest ++ s.sys.fqWait)
      else match r.resume with
        | .sideEntry id => if s.core.side.any (fun e => e.id == id && e.state == .faulted) then s.sideDrop id else s
        | _ => s
    let s := s.dropHead
    if s.core.qu.resumeDue && !s.stopQueued then s.resumeCut else s

/-- FQ_POP. -/
def execFqPop (s : State) : Host.Outcome State Fault Refusal := .next (s.popRecord false)

/-- FQ_POP_RESUME. -/
def execFqPopResume (s : State) : Host.Outcome State Fault Refusal := .next (s.popRecord true)

/-! ## Preloaded successors (R404) -/

/-- Whether two spans of bytes meet. -/
def spansMeet (a n b m : Nat) : Bool := decide (a < b + m ∧ b < a + n)

/-- Whether the successor in the shadow plane overlaps the running task. -/
def State.overlaps (s : State) : Bool :=
  let outs := s.plane.bind.outputs
  (s.shadow.bind.inputs.any fun key =>
    (outs.any fun o => !o.1.getLsbD 63) ||
      (match tagFind s.core.tags key with
       | some (_, e) => outs.any fun o =>
           o.1.getLsbD 63 && spansMeet ((tagSlot e).toNat * 256) ((tagLen e).toNat * 256) (o.1.extractLsb' 0 22).toNat o.2.toNat
       | none => false))

/-- Writes the state of a slot-table entry. -/
def State.setEntry (s : State) (n : Nat) (st : EntryState) (det : BitVec 8) : State :=
  s.onPk fun k => { k with slots := kSet k.slots n { kGet SlotEntry.zero k.slots n with state := st, det := det } }

/-- Empties the shadow plane and its staging bank; the entry becomes RETURNED. -/
def State.returnShadow (s : State) : State :=
  match s.shadow.entry with
  | none => s
  | some n => (s.setEntry n.toNat .returned 0).putShadow Plane.empty

/-- A successor that overlaps is returned. -/
def State.returnOverlap (s : State) : State := if s.overlaps then s.returnShadow else s

/-! ## Forced modes (R107) -/

/-- The forced mode in force: SAVE only at level 1. -/
def State.savesByForce (s : State) : Bool := decide (s.sys.qlvl.toNat ≤ 1) && !s.sys.fmode

/-- Every HELD entry is released, in order (R107, R122). -/
def State.releaseHeld (s : State) : State :=
  (s.onCore fun c => { c with side := c.side.map fun e => if e.state = .held then { e with state := .pend } else e }).syncOverflow

/-- Whether the M strand waits for an MCSUM that has not begun: a SAVE keeps that operation, and the item that waits for it issues
again on restore (R264, R285). -/
def State.waitsUnbegun (s : State) : Bool :=
  match s.core.m.amo with
  | some a => s.core.mat.queue.any fun o => o.kind == .mcsum && !o.begun && o.waiter == a.entry
  | none => false

/-- Whether a strand, or its bundle, has an item to end before a SAVE stops it. -/
def State.savesLater (s : State) (x : StrandId) : Bool :=
  (s.strand x).passed || strandIds.any fun y => (y == x || ((s.strand x).lockstep && (s.strand y).lockstep)) && (s.strand y).amo.isSome &&
    !(y == .M && s.waitsUnbegun)

/-- Strands stop at their item boundaries; one whose item waits for an atomic ends that item first. -/
def State.saveStrands (s : State) : State :=
  strandIds.foldl (fun s x => s.onStrand x fun t =>
    if (t.run == .running && !s.savesLater x) || t.run == .meeting || t.run == .yielded then { t with run := .saved, dsync := none }
    else t) s

/-- Asks for a quench to the start of the region (R107, R353). -/
def State.rollBack (s : State) : State :=
  (s.onSys fun y => { y with forced := some .rollback }).sendRequest
    ⟨Coord.ofKey s.regionG, s.sys.qlvl, s.sys.lcore, true, false, true⟩

/-- A SAVE applies to the matrix operation in execution, unless a follow-on MMA waits behind it (R264). -/
def MatrixState.save (m : MatrixState) : MatrixState :=
  if m.queue.all (·.follow.isNone) then { m with queue := m.queue.modifyHead (·.stopNext) } else m

/-- The forced mode applies to every strand. -/
def State.applyForced (s : State) : State :=
  if s.savesByForce then ((s.onSys fun y => { y with forced := some .save }).onMat (·.save)).releaseHeld.saveStrands else s.rollBack

/-- A region that will be executed again keeps its successor back, or has it returned where they overlap (R404). -/
def State.holdBack (s : State) : State := (s.onSys fun y => { y with sheld := true }).returnOverlap

/-- The forced mode applies, and a rollback keeps the successor back. -/
def State.forceMode (s : State) : State := let t := s.applyForced; if s.savesByForce then t else t.holdBack

/-- Whether every engine operation of the task has stopped, completed or faulted, as a SAVE asks (R107, R264, R315). -/
def State.enginesSaved (s : State) : Bool :=
  let head : Bool := match s.core.mat.queue with
    | [] => true
    | o :: _ => !o.begun || o.held || o.stopped
  let base := s.pk.pcore.toNat * 16
  head && s.core.mat.queue.all (·.follow.isNone) && s.core.rowq.all (·.held) && s.core.chainq.all (·.held) &&
    (s.pk.chains.toList.all fun c => !(c.state == .held || c.state == .queued || c.state == .run)) && s.pk.farMmas.isEmpty &&
    (List.range 16).all fun n => cellGet s.pk.consumed (base + n) == 0

/-- The settling of a SAVE is complete: logs and images are cleared, and the units held return to Bellows (R261). -/
def State.endSave (s : State) : State :=
  let s := ((s.slagFree fun _ => false).freeImages fun _ => false).freeSnaps
  (s.onMat (·.noUnits)).onSys fun y => { y with fdone := true }

/-- FORCED_MODE_DONE: a SAVE settles once strands and engines have stopped and every timed load has landed (R176 item 5), and is
complete when every write of the context is performed everywhere (R49); a ROLLBACK is complete when its cut is. -/
def execForcedModeDone (s : State) : Host.Outcome State Fault Refusal :=
  .next (
    if s.sys.fdone then s
    else match s.sys.forced with
      | none => s
      | some .rollback =>
        if s.core.qu.st = .pending ∨ s.core.qu.requests.any (·.rollback) then s
        else s.onSys fun y => { y with fdone := true }
      | some .save =>
        let s := s.saveStrands
        if (strandIds.any fun x => (s.strand x).run == .running || !(s.strand x).timed.isEmpty) || !s.enginesSaved then s
        else
          let s := s.settleNow.releaseHeld
          if s.core.side.isEmpty && s.pk.mu.inflight.isEmpty then s.endSave else s)

/-! ## Yield requests and deadlines (R106, R127) -/

/-- A cause of the system reaches the task: its record names K. -/
def State.raiseSystem (s : State) (c : BitVec 6) (detail : BitVec 64) : State :=
  s.raiseAsync .K c detail 0 0 (s.strand .K).coord .nothing

/-- YIELD_DEADLINE is delivered and the forced mode applies (R106 item 3). -/
def State.deadlinePassed (s : State) : State :=
  ((s.onSys fun y => { y with yact := false, deadline := none }).raiseSystem cYieldDeadline 0).forceMode

/-- Whether the deadline of a request has elapsed and nothing keeps it from being applied: it stays pending across a quench, until
QRESUME (R106 item 4). -/
def State.deadlineDue (s : State) : Bool := s.sys.yact && s.sys.deadline == some 0 && s.core.qu.st == .none

/-- A request with a deadline begins; a deadline of zero elapses at once. -/
def State.request (s : State) (d : Nat) : State :=
  let s := s.onSys fun y => { y with yreq := true, yact := true, deadline := some d }
  if s.deadlineDue then s.deadlinePassed else s

/-- YREQ_SET: YREQ goes from 0 to 1, and D is sampled. -/
def execYreqSet (s : State) : Host.Outcome State Fault Refusal :=
  .next (if s.sys.yreq then s else s.request s.sys.ydl.toNat)

/-- YREQ is written 0: a request is withdrawn, and strands at yield points, or stopped by a SAVE, go on. -/
def State.clearYreq (s : State) : State :=
  let s := if s.sys.forced == some .save then s.onMat fun m => { m with queue := m.queue.map fun o => { o with stopAt := none } } else s
  let resumes (t : Strand) : Bool := t.run == .yielded || (t.run == .saved && s.sys.forced == some .save)
  let s := strandIds.foldl (fun s x => s.onStrand x fun t => { t with run := if resumes t then .running else t.run }) s
  s.onSys fun y => { y with
    yreq := false, yact := false, deadline := none, fdone := false, forced := none }

/-- YREQ_CLEAR. -/
def execYreqClear (s : State) : Host.Outcome State Fault Refusal := .next s.clearYreq

/-- Whether all four strands have stopped within the deadline of a request, with K at T (R106 item 2, R131). -/
def State.yieldsAll (s : State) : Bool :=
  s.sys.yact && s.sys.deadline != some 0 && !s.sys.levelS && s.core.qu.st == .none && decide (s.pk.ending < 4) &&
    strandIds.all fun x => (s.strand x).atYield

/-- YIELD_REQUEST. -/
def execYieldRequest (s : State) : Host.Outcome State Fault Refusal :=
  .next (
    if s.yieldsAll then (s.onSys fun y => { y with yact := false, deadline := none }).raiseSystem cYieldRequest 0 else s)

/-- YIELD_DEADLINE. -/
def execYieldDeadline (s : State) : Host.Outcome State Fault Refusal :=
  .next (if s.deadlineDue then s.deadlinePassed else s)

/-- BUDGET: the budget has run out; a deadline that elapses with it is cleared (R128, R404). -/
def execBudget (s : State) : Host.Outcome State Fault Refusal :=
  .next (
    if s.sys.budgetDue && !s.sys.levelS && s.core.qu.st != .pending then
      let both := s.sys.yact && s.sys.deadline == some 0
      let s := s.onSys fun y => { y with
        budgetDue := false, yact := y.yact && !both, deadline := if both then none else y.deadline, sheld := false }
      (s.raiseSystem cBudget 0).applyForced
    else s)

/-- PAUSE_EXPIRY: counts that have ended restore their strand's priority (R126). -/
def execPauseExpiry (s : State) : Host.Outcome State Fault Refusal :=
  .next (strandIds.foldl (fun s x => s.onStrand x fun t =>
    { t with pause := if t.pause ≤ s.sys.cycle.toNat then 0 else t.pause }) s)

/-! ## The end of a task (R122, R354) -/

/-- The greatest coordinate of an element of a stream's walk, by its key (R19). -/
def Stream.lastKey (t : Stream) : Nat := t.keyAt (unitCount t.desc - 1)

/-- Whether the domain's horizon has passed every operation of the task: an instruction carries its strand's coordinate, the last one
the greatest, and a stream's elements may lie above it (R18, R19). -/
def State.horizonPassed (s : State) : Bool :=
  let h := s.core.qu.hk
  (s.core.side.all fun e => e.atS || e.state != .held) && (s.opKeys.all fun k => decide (k < h)) &&
    (strandIds.all fun x => decide ((s.strand x).coord.key < h)) &&
    (s.pk.chains.toList.all fun c => c.state != .held || decide (c.coord.key < h)) &&
    s.core.streams.toList.all fun t => t.state == .idle || decide (t.lastKey < h)

/-- Whether every access of the classes of a trailer mask is performed at package scope (R46). Streams fetch as class LS (R32). -/
def State.trailerDone (s : State) : Bool :=
  let m := s.sys.trail
  (List.range 5).all fun c =>
    !m.getLsbD c ||
      ((s.core.side.all fun e => e.cls != c) && (s.pk.mu.inflight.all fun w => w.cls != c) &&
        (if c = clsMX then s.core.mat.queue.isEmpty && s.pk.farMmas.isEmpty
         else if c = clsCP then s.pk.chains.toList.all fun h =>
           !(h.state == .held || h.state == .queued || h.state == .run || h.state == .fault)
         else if c = clsLS then s.core.streams.toList.all fun t => !(t.state == .run || t.state == .fault)
         else if c = clsRW then s.core.rowq.isEmpty && s.core.chainq.isEmpty
         else true))

/-- The data sections of an object are copied into the core's scratchpad (R398). -/
def State.copySections (s : State) (o : PlaneObject) : State :=
  o.sections.foldl (fun s d => s.scratchPut s.pk.pcore.toNat d.1 d.2) s

/-- What the tiles hold, the context will have held in them (R206). -/
def State.keepTiles (s : State) : State := (List.range 64).foldl (fun s n => s.keepPast (BitVec.ofNat 6 n)) s

/-- The state of R401 that every task finds the same: stacks, queues, images and logs empty, tiles, masks and streams zero. -/
def State.clearTask (s : State) : State :=
  let base := if s.sys.planeAct then 64 * 1024 else 0
  let s := strandIds.foldl (fun s x => s.onStrand x fun t => { Strand.reset with
    pc := t.pc, hdr := t.hdr, run := t.run, member := t.member, seq := t.seq, last := t.last }) s
  let s := (s.onCore fun c => { c with streams := Vector.replicate 16 Stream.reset, slag := [] }).freeSnaps
  let s := s.onVec fun v => { v with
    banks := cellClear v.banks base (64 * 1024), masks := Vector.replicate 8 0, vmask := 0, vcarry := 0 }
  let s := s.onMat fun m => { m with sums := [] }
  s.onSys fun y => { y with fq := [], fqWait := [], sDue := false, sCalls := [], kHeld := none }

/-- The task runs again from its entry images, in serial mode (R354): the state of its start returns, HEAD and CP of the rings with it
(R339), its data sections are loaded again, and the touchmark starts at zero (R374). -/
def State.rerunTask (s : State) : State :=
  let images := strandIds.map fun x => (x, (s.strand x).images.find? (·.entry))
  let s := match images.findSome? (·.2) with
    | some i => (List.range 16).foldl (fun (s : State) h => s.rewindRing (BitVec.ofNat 4 h) i.coord.key) s
    | none => s
  let s := s.keepTiles.clearTask
  let s := images.foldl (fun s p =>
    match p.2 with
    | some i =>
      let s := (s.restoreStrand p.1 i .running).onStrand p.1 fun t => { t with images := [i] }
      (match p.1 with
       | .A => s.onCore fun c => { c with areg := i.a }
       | .V => s.onVec fun v => { v with masks := i.masks, vmask := i.vmask, vcarry := i.vcarry }
       | .M => s.onMat fun m => { m with zc := i.zc, chkBase := i.chk }
       | .K => s)
    | none => s) s
  let s := s.copySections s.plane.object
  let s := (s.onMu fun m => { m with touchmark := 0 }).onQu fun q => { q with hk := 0, floor := 0 }
  (s.onSys fun y => { y with rerun := true, sheld := true }).onPk fun k => { k with ending := 0 }

/-- The end of the end (R122, R261, R350, R398): the entry becomes DONE, units held return to Bellows, and an armed breakpoint is gone. -/
def State.finishTask (s : State) : State :=
  let s := match s.plane.entry with
    | some n => s.setEntry n.toNat .done 0
    | none => s
  let s := (s.onMat (·.noUnits)).onQu fun q => { q with armed := none }
  (s.onSys fun y => { y with sheld := false }).onPk fun k => { k with ending := 4 }

/-- TASK_END: the next step of the end of a task whose strands have all stopped. -/
def execTaskEnd (s : State) : Host.Outcome State Fault Refusal :=
  let stage (n : Nat) (s : State) : State := s.onPk fun k => { k with ending := n }
  .next (
    if !s.taskStopped then s
    else match s.pk.ending with
      | 0 => stage 1 (if s.sys.qlvl.toNat ≤ 1 then (s.raiseHorizon topKey).releaseHeld else s)
      | 1 => if s.sys.qlvl.toNat ≤ 1 || s.horizonPassed then stage 2 s else s
      | 2 =>
        if !s.sys.tmrec then stage 3 s
        else if !s.core.side.isEmpty then s
        else if s.pk.mu.touchmark = s.pk.mu.tmval then stage 3 s
        else if s.sys.rerun then stage 5 (s.raiseSystem cTouchmark 1)
        else (s.returnOverlap.rerunTask).raiseSystem cTouchmark 0
      | 3 => if s.trailerDone then s.finishTask else s
      | _ => s)

/-! ## Context images (R108 to R112) -/

/-- The ring table of this core. -/
def State.ownRings (s : State) : List (Nat × Ring) :=
  (List.range 16).filterMap fun h =>
    let n := s.pk.pcore.toNat * 16 + h
    if kHas s.pk.rings n then some (h, kGet Ring.zero s.pk.rings n) else none

/-- The sparse headers that stand with the slots of this core's rings, by `handle * 256 + slot`. -/
def State.ownHeaders (s : State) : List (Nat × BitVec 512) :=
  let base := s.pk.pcore.toNat * 16 * 256
  s.pk.headers.filterMap fun h => if base ≤ h.1 ∧ h.1 < base + 4096 then some (h.1 - base, h.2) else none

/-- A strand as an image holds it, without its retry count (R390); K at S at its place at T, where its ERET would put it (R108, R288). -/
def State.savedStrand (s : State) (x : StrandId) : Strand :=
  let t := { s.strand x with images := [], hook := none }
  if s.atS x then
    let y := s.sys
    let (b, cc) := y.kHeld.getD (t.s, t.cc)
    { t with pc := y.epcPc, hdr := y.epcHdr, remain := y.epcRemain, flags := y.estatFl &&& 0x1F3F, lockstep := y.lockT, s := b, cc := cc
             wait := none }
  else t

/-- The system registers as an image holds them: K is at T. -/
def System.saved (y : System) : System := { y with levelS := false, plvl := false, pend := false, sCalls := [], kHeld := none, lockT := false }

/-- The parts of the context image of the running task. Idle banks, cut images and the logs are not part of it. -/
def State.imageParts (s : State) : Image :=
  let c := s.core
  let bare := s.savedStrand
  { header := 0, objects := ((s.plane.object :: s.plane.named).take 256).map objectEntry, ctx := s.sys.ctx, lcore := s.sys.lcore
    core := { c with
      sys := c.sys.saved
      k := bare .K, a := bare .A, v := bare .V, m := bare .M, side := [], slag := []
      vec := { VectorState.reset with masks := c.vec.masks, vmask := c.vec.vmask, vcarry := c.vec.vcarry, past := c.vec.past }
      mat := { c.mat with zsnaps := [], held := 0 } }
    tiles := cellSlice c.vec.banks (if s.sys.planeAct then 64 * 1024 else 0) (64 * 1024)
    scratch := cellSlice s.pk.mu.scratch (scratchBase s.pk.pcore.toNat) (2 ^ 22)
    rings := s.ownRings, headers := s.ownHeaders, pairs := (s.plane.object :: s.plane.named).flatMap s.pairsHere
    obj := s.plane.bind.obj, bind := s.plane.bind, entry := none
    touchmark := s.pk.mu.touchmark, tmval := s.pk.mu.tmval }

/-- The context image of the running task, with its header (R109). -/
def State.contextImage (s : State) : Image :=
  let i := s.imageParts
  { i with header := i.headerOf }

/-- The core is left idle: no strand has a task. -/
def State.idle (s : State) : State :=
  let s := strandIds.foldl (fun s x => s.putStrand x { Strand.reset with
    seq := (s.strand x).seq, hook := (s.strand x).hook, last := (s.strand x).last }) s
  (s.onSys fun y => { y with
    levelS := false, sDue := false, fq := [], fqWait := [], forced := none, fdone := false, yreq := false, yact := false
    deadline := none, stoppedByH := false, sheld := false, kHeld := none, lockT := false }).onPk fun k => { k with ending := 4 }

/-- No ticket names a record any more (R298). -/
def State.dropTickets (s : State) : State :=
  s.onPk fun k => { k with chains := k.chains.map fun c => { Chain.zero with gen := c.gen + 1 }, engineQueue := [] }

/-- What the core's shared memories, tables and accumulators hold of a context is gone; no ticket or past value of it is left (R4,
R298). -/
def State.scrubShared (s : State) : State :=
  let s := s.dropTickets
  let base := s.pk.pcore.toNat * 16
  let s := s.onMu fun m => { m with scratch := cellClear m.scratch (scratchBase s.pk.pcore.toNat) (2 ^ 22) }
  let s := s.onPk fun k => { k with
    rings := k.rings.filter fun r => !decide (base ≤ r.1 ∧ r.1 < base + 16), consumed := cellClear k.consumed base 16
    headers := k.headers.filter fun h => !decide (base * 256 ≤ h.1 ∧ h.1 < base * 256 + 4096) }
  let s := (s.onCore fun c => { c with tags := [] }).onVec fun v => { v with past := [] }
  s.onMat fun m => { m with acc := [], zsnaps := [] }

end Sys2Proof.Machine
end

