-- ==== Sys2Proof/Machine/Schedule.lean ====
section
/-!
DEFINITION. Scheduling: bind records, the plane loader and the swap, PLANESW, remap entries, time slices and the restore of
a context image, lending and revocation, and the teardown of a virtual function (R12, R13, R110 to R112, R396 to R411).
-/
namespace Sys2Proof.Machine

/-! ## Bind records (R396) -/

/-- NIN and NOUT. -/
def bindIn (bs : List (BitVec 8)) : Nat := (field bs 0x008 : BitVec 8).toNat
def bindOut (bs : List (BitVec 8)) : Nat := (field bs 0x009 : BitVec 8).toNat

/-- The fields of a bind record. -/
def readBind (bs : List (BitVec 8)) : BindRecord :=
  let mode : BitVec 8 := field bs 0x005
  let nest : BitVec 8 := field bs 0x006
  let trail : BitVec 8 := field bs 0x007
  { ctx := field bs 0x000, lcore := field bs 0x004, qlvl := mode.extractLsb' 0 3, fmode := mode.getLsbD 3, det := mode.getLsbD 4
    pin := mode.getLsbD 5, recorded := mode.getLsbD 6, nest := nest.extractLsb' 0 3, settle := nest.extractLsb' 3 3
    trail := trail.extractLsb' 0 5, obj := field bs 0x010, budget := field bs 0x018, cbase := Coord.ofBits (field bs 0x020)
    mroot := field bs 0x040, tmkey := field bs 0x048, mhost := field bs 0x050, tmval := field bs 0x058
    inputs := (List.range (bindIn bs)).map fun i => field bs (0x100 + 8 * i)
    outputs := (List.range (bindOut bs)).map fun i => (field bs (0x300 + 16 * i), field bs (0x308 + 16 * i)) }

/-- Whether a reserved byte or bit of a bind record is set. -/
def bindReserved (bs : List (BitVec 8)) : Bool :=
  let span (a n : Nat) : Bool := ((bs.drop a).take n).any (· != 0)
  span 0x00A 6 || span 0x038 8 || span 0x068 0x98 || (field bs 0x005 : BitVec 8).getLsbD 7 ||
    (field bs 0x006 : BitVec 8).extractLsb' 6 2 != 0 || (field bs 0x007 : BitVec 8).extractLsb' 5 3 != 0

/-- The bytes of the bind record of a slot-table entry, in device physical memory. -/
def State.bindBytes (s : State) (e : SlotEntry) : List (BitVec 8) :=
  let pa := e.rec_.toNat * 1024
  cellRange s.pk.mu.mem (dieBase (homeDie pa) + pa) 1024

/-- The remap entry of a record's logical core. -/
def State.bindPlace (s : State) (b : BindRecord) : RemapEntry :=
  kGet RemapEntry.zero s.pk.remap (b.ctx.toNat * 256 + b.lcore.toNat)

/-- Bytes of an object's data sections, and the offset past the last. -/
def PlaneObject.dataSize (o : PlaneObject) : Nat := o.sections.foldl (fun n d => n + d.2.length) 0
def PlaneObject.dataEnd (o : PlaneObject) : Nat := o.sections.foldl (fun n d => max n (d.1 + d.2.length)) 0

/-- B of R155 as the next swap sets it. -/
def State.nextB (s : State) : Nat := 0x3E0000 - min 512 s.sys.spres.toNat * 0x1000

/-- k.mroot as a bind record gives it (R396). -/
def rootOfBind (b : BindRecord) : BitVec 64 := b.mroot &&& 0xFFFFFFFFFFF00

/-- The first failure of a bind record (R399); 0 for none. -/
def State.bindFault (s : State) (bs : List (BitVec 8)) : BitVec 8 :=
  let b := readBind bs
  if bindReserved bs then 0x01
  else if b.qlvl = 0 ∨ b.nest = 0 ∨ 6 < b.nest.toNat ∨ b.nest.toNat ≤ b.settle.toNat then 0x02
  else if 64 < bindIn bs ∨ 16 < bindOut bs ∨ b.outputs.any (fun o => o.2 == 0 || o.2.toNat % 64 != 0) then 0x03
  else match s.objectOf b.obj with
    | none => 0x04
    | some o =>
      if !([o] ++ s.namedBy o).all (s.under b.ctx (rootOfBind b)).loadable then 0x04
      else if 2 ^ 20 < o.dataSize ∨ s.nextB < o.dataEnd then 0x05
      else if !(s.bindPlace b).valid then 0x06
      else 0

/-! ## The dispatcher (R397 to R399) -/

/-- The loan of this core: the lending partition and the borrower (R406). -/
def State.loan (s : State) : Option (BitVec 6 × BitVec 6) :=
  s.pk.partitions.findSome? fun p => (p.lent.find? (·.1 == s.pk.pcore)).map fun l => (p.id, l.2)

/-- Whether the core takes bind records of a context: a lent one those of the borrower's contexts only (R406). -/
def State.servesContext (s : State) (ctx : BitVec 32) : Bool :=
  match s.loan with
  | none => true
  | some (_, borrower) => s.pk.contexts.any fun c => c.id == ctx && c.partition == borrower

/-- The entries the dispatcher may take now: POSTED, placed on this core while its shadow plane is empty, or placed
nowhere. -/
def State.takeable (s : State) : List (Nat × SlotEntry) :=
  s.pk.slots.filter fun kv =>
    let b := readBind (s.bindBytes kv.2)
    let p := s.bindPlace b
    kv.2.state == .posted && (!p.valid || (p.pcore == s.pk.pcore && s.shadow.entry.isNone && s.servesContext b.ctx))

/-- The entry with the least SEQ, the lower number first among equals. -/
def leastSeq : List (Nat × SlotEntry) → Option (Nat × SlotEntry)
  | [] => none
  | e :: rest =>
    match leastSeq rest with
    | none => some e
    | some f => if f.2.seq < e.2.seq then some f else some e

/-- Whether a task runs on the core. -/
def State.hasTask (s : State) : Bool := decide (s.pk.ending ≠ 4)

/-- A rejected record: PLANE_SWAP reaches the supervisor of a running task on the target core, else Hearth (R399). -/
def State.rejectEntry (s : State) (n : Nat) (code : BitVec 8) (here : Bool) : State :=
  let d : BitVec 64 := place 64 code 0 ||| place 64 (BitVec.ofNat 8 n) 8
  let s := s.setEntry n .rejected code
  if here && s.hasTask then s.raiseAsync .K cPlaneSwap d 0 0 (s.strand .K).coord .nothing
  else s.toHearth (s.record .K cPlaneSwap .asynchronous d 0 0 (s.strand .K).coord .nothing 0)

/-- DISPATCH_TAKE_ENTRY: the record is checked, and the loader begins to fill the shadow plane. -/
def execDispatchTakeEntry (s : State) : Host.Outcome State Fault Refusal :=
  .next (
    match leastSeq s.takeable with
    | none => s
    | some (n, e) =>
      let bs := s.bindBytes e
      let b := readBind bs
      let c := s.bindFault bs
      if c ≠ 0 then s.rejectEntry n c (s.bindPlace b).valid
      else (s.setEntry n .loading 0).putShadow { Plane.empty with bind := b, entry := some (BitVec.ofNat 8 n) })

/-- PLANE_LOAD_COMPLETE: the plane and the staging bank hold the task, its references to other objects resolved (R60). -/
def execPlaneLoadComplete (s : State) : Host.Outcome State Fault Refusal :=
  .next (
    let p := s.shadow
    match p.entry, s.objectOf p.bind.obj with
    | some n, some o => if p.loaded then s else (s.setEntry n.toNat .loaded 0).putShadow
        { p with object := s.resolve o, named := s.namedBy o, loaded := true }
    | _, _ => s)

/-- SLOT_ENTRY_FREE: Tongs frees an entry that is done with, or posts a FREE one. -/
def execSlotEntryFree (entry : Nat) (post : Bool) (s : State) : Host.Outcome State Fault Refusal :=
  .next (
    let n := entry % 256
    let e := kGet SlotEntry.zero s.pk.slots n
    if post then (if e.state = .free then s.setEntry n .posted 0 else s)
    else if e.state = .done ∨ e.state = .rejected ∨ e.state = .returned then s.setEntry n .free 0
    else s)

/-! ## Leaving the core (R108, R290, R401) -/

/-- Whether a further task of the running context is bound to this core: it stands in the shadow plane, or its record is posted. -/
def State.contextStays (s : State) : Bool :=
  (s.shadow.entry.isSome && s.shadow.bind.ctx == s.sys.ctx) ||
    s.pk.slots.any fun kv =>
      let b := readBind (s.bindBytes kv.2)
      kv.2.state == .posted && b.ctx == s.sys.ctx && (s.bindPlace b).valid && (s.bindPlace b).pcore == s.pk.pcore

/-- What stays of the system registers when a saved context has left: what is the core's own, as at a restore, and which context it was. -/
def System.left (y : System) : System := { System.reset with
  cycle := y.cycle, planeAct := y.planeAct, step := y.step, rstall := y.rstall, slbase := y.slbase, slsize := y.slsize
  spres := y.spres, spresNow := y.spresNow, qslagBase := y.qslagBase, qslagSize := y.qslagSize, pinsel := y.pinsel
  ctx := y.ctx, lcore := y.lcore, hDue := y.hDue, hearth := y.hearth }

/-- The core holds no state of a context that has been saved, but for its parked banks and its macros (R290). DESIGN CHOICE: what R401 has
the next task of the same context find stays where such a task is bound to this core already (log 22). -/
def State.leaveSaved (s : State) : State :=
  let s := if s.contextStays then s.dropTickets.keepTiles else s.scrubShared
  let s := s.onCore fun c => { c with
    areg := Bank.zero, streams := Vector.replicate 16 Stream.reset, rowq := [], chainq := [], slag := [], sys := c.sys.left
    qu := { QuenchUnit.reset with
      peersReported := c.qu.peersReported, peersH := c.qu.peersH, peersMax := c.qu.peersMax, peersG := c.qu.peersG
      nextImage := c.qu.nextImage } }
  let s := s.onVec fun v => { v with
    banks := cellClear v.banks (if s.sys.planeAct then 64 * 1024 else 0) (64 * 1024), masks := Vector.replicate 8 0, vmask := 0, vcarry := 0 }
  let s := (s.onMu fun m => { m with touchmark := 0, tmval := 0 }).putPlane Plane.empty
  (s.onMat fun m => { MatrixState.reset with
    cells := m.cells, cols := m.cols, written := m.written, bstat := m.bstat, acc := m.acc, ceil := m.ceil }).onPk fun k => { k with barriers := [] }

/-- Writes the image of the running task, which leaves the core; a successor that overlaps a task out of its budget is returned
(R404). -/
def State.saveImage (s : State) (entry : Option (BitVec 8)) : State :=
  let i := { s.contextImage with entry := entry }
  let s := s.onPk fun k => { k with images := (k.images.filter fun j => !(j.ctx == i.ctx && j.lcore == i.lcore)) ++ [i] }
  let s := if s.sys.budgetDone then s.returnOverlap else s
  -- the save is a synchronisation point at system scope (R49)
  s.acquireAll.leaveSaved.idle

/-- The image of a task whose forced mode has completed is left to the supervisor, and its entry becomes DONE (R404). -/
def State.saveTask (s : State) : State :=
  let n := s.plane.entry
  let s := s.saveImage none
  match n with
  | some n => s.setEntry n.toNat .done 0
  | none => s

/-- CONTEXT_IMAGE_WRITE: the image of a context whose forced mode has completed is written. -/
def execContextImageWrite (s : State) : Host.Outcome State Fault Refusal :=
  .next (if s.sys.fdone && decide (s.pk.ending ≠ 4) then s.saveTask else s)

/-! ## The swap (R400, R401, R12) -/

/-- The scrub of a change of context: nothing that a task of another finds is drawn from the old one, its counts and progress
included (R4, R401). -/
def State.scrubContext (s : State) : State :=
  s.scrubShared.onMat fun m => { m with
    cells := [], cols := [], written := 0, bstat := Resident.none, chk := ⟨0, 0⟩, chkBase := ⟨0, 0⟩, failed := false, knext := 0, kz := 0 }

/-- Whether every declared input is in place (R167). -/
def State.inputsReady (s : State) (b : BindRecord) : Bool :=
  b.inputs.all fun key => match tagFind s.core.tags key with
    | some (_, e) => tagRdy e
    | none => false

/-- The image that a bind record restores: that of its context and logical core, saved while the record's object ran (R110; DESIGN CHOICE,
log 22: any other record starts a task). -/
def State.imageFor (s : State) (b : BindRecord) : Option Image :=
  s.pk.images.find? fun i => i.ctx == b.ctx && i.lcore == b.lcore && i.obj == b.obj

/-- SREADY of k.plane (R123): a task of another context finds the tag table scrubbed; one that is restored brings its own. -/
def State.sready (s : State) : Bool :=
  s.shadow.loaded &&
    (if (s.imageFor s.shadow.bind).isSome then true
     else if s.pk.lastCtx = some s.shadow.bind.ctx then s.inputsReady s.shadow.bind else s.shadow.bind.inputs.isEmpty)

/-- k.plane (R123). -/
def State.kplane (s : State) : BitVec 64 :=
  flagBit 64 s.sys.planeAct 0 ||| flagBit 64 s.sready 1 ||| flagBit 64 s.sys.sheld 2

/-- MEMBER of k.dom: the levels of the domains that exist for the context with this logical core among their members (R14, R115). -/
def State.memberOf (s : State) (ctx : BitVec 32) (lcore : BitVec 8) : BitVec 8 :=
  (s.pk.domains.filter fun d => d.ctx == ctx && d.members.getLsbD lcore.toNat && d.exists_ s.pk.group).foldl
    (fun m d => m ||| (1#8 <<< d.level.toNat)) 3

/-- What the outgoing task's engines still do goes on without a coordinate; what a fault holds is dropped (R12). -/
def State.leaveEngines (s : State) : State :=
  let s := s.onMat fun m => { m with
    queue := if m.queue.any (·.held) then [] else m.queue.map fun o => { o with atS := true } }
  let s := s.onCore fun c => { c with
    rowq := (c.rowq.filter fun r => !r.held).map fun r => { r with atS := true }
    chainq := (c.chainq.filter fun p => !p.held).map fun p => { p with atS := true }
    side := (c.side.filter fun e => e.state != .faulted).map fun e => { e with atS := true } }
  s.syncOverflow.onPk fun k => { k with
    farMmas := k.farMmas.map fun o => (o.1, o.2.1, true, o.2.2.2)
    chains := k.chains.map fun c =>
      match c.state with
      | .queued | .run | .held => { c with atS := true }
      | .fault => { c with state := .killed }
      | _ => c }

/-- Whether engine work of the outgoing task is still in flight. -/
def State.engineWork (s : State) : Bool :=
  s.core.mat.queue.any (!·.held) || s.core.rowq.any (!·.held) || s.core.chainq.any (!·.held) ||
    (s.core.side.any fun e => e.state != .faulted) ||
    s.pk.chains.toList.any fun c => c.state == .queued || c.state == .run || c.state == .held

/-- Strand `x` of a new task: at its entry point, with its window and the coordinate base. -/
def startStrand (o : PlaneObject) (b : BindRecord) (member : BitVec 8) (x : StrandId) (t : Strand) : Strand :=
  let w := o.window
  let n := strandNum x
  let bank := match x with
    | .K => w.sK | .A => w.sA | .V => w.sV | .M => w.sM
  let entry := o.entry.toList.getD n 0
  { Strand.reset with
    s := bank, coord := b.cbase.cutAfter (b.nest.toNat - 1), flags := w.flags.toList.getD n 0 &&& 0x1F3F
    member := member, pc := entry, hdr := entry, run := .running, seq := t.seq, last := t.last }

/-- The system registers of a new task, from its bind record and its plane (R115 to R117, R338, R367). -/
def startSys (o : PlaneObject) (b : BindRecord) (y : System) : System := { y with
  levelS := false, nest := b.nest, settle := b.settle, ctx := b.ctx, qlvl := b.qlvl, fmode := b.fmode, trail := b.trail
  lcore := b.lcore, det := b.det, budget := b.budget, tvec := o.tvec, tmrec := b.recorded, tmkey := b.tmkey
  mroot := rootOfBind b, mhost := b.mhost &&& 0x1FFFFF
  plvl := false, pend := false, yreq := false, yact := false, fdone := false, ydl := 0, deadline := none, sheld := false
  fq := [], fqWait := [], lost := 0, sDue := false, kHeld := none, lockT := false, sCalls := [], forced := none
  budgetDone := false, budgetDue := false, rerun := false, slFull := false
  spresNow := if 512 < y.spres.toNat then 512 else y.spres }

/-- The quench unit of a new task. -/
def startQuench (b : BindRecord) (q : QuenchUnit) : QuenchUnit := { QuenchUnit.reset with
  pin := b.pin, peersReported := q.peersReported, peersH := q.peersH, peersMax := q.peersMax, peersG := q.peersG, nextImage := q.nextImage }

/-- The successor becomes the running task: the planes flip, the pending Swage sets are installed, the staging bank is
copied, and every strand stands at its entry (R12 item 5, R393, R398, R401). -/
def State.flipPlanes (s : State) : State :=
  let trail := s.sys.trail
  let p := s.shadow
  let o := p.object
  let b := p.bind
  let s := s.installPatches.leaveEngines
  let s := (s.onSys fun y => { y with planeAct := !y.planeAct }).putShadow Plane.empty
  let s := s.clearTask
  let s := s.onSys (startSys o b)
  let s := s.onQu (startQuench b)
  let member := s.memberOf b.ctx b.lcore
  let s := strandIds.foldl (fun s x => s.onStrand x (startStrand o b member x)) s
  let s := s.onCore fun c => { c with areg := o.window.a }
  let s := s.onVec fun v => { v with vmask := o.window.vmask }
  let s := s.onMat fun m => { m with zc := 0, zfree := 0, chkBase := m.chk, loadTop := 0, keptAccs := 0, sums := [] }
  let s := (s.copySections o).onMu fun m => { m with touchmark := 0, tmval := if b.recorded then b.tmval else 0 }
  let base := s.pk.pcore.toNat * 16
  let s := s.onPk fun k => { k with
    ending := 0, lastCtx := some b.ctx, sliceDue := false, sliceRun := 0, barriers := []
    rings := k.rings.map fun r => if base ≤ r.1 ∧ r.1 < base + 16 then (r.1, { r.2 with passed := 0 }) else r }
  let s := match p.entry with
    | some n => s.setEntry n.toNat .running 0
    | none => s
  -- the acquire of the swap has the scope of the core, for the classes of the trailer mask (R39, R46)
  strandIds.foldl (fun s x => s.takeImage x true) (s.settleStale trail allClasses)

/-! ## The restore of an image (R49, R110 to R112) -/

/-- A strand after a restore: it resumes at its own position, one whose record has been popped without RESUME too (R101, R112); one whose
record is still queued stays stopped. Retry counts and what SWGSTAT.LAST reports are the core's own (R390). -/
def Strand.restored (t own : Strand) (queued : Bool) : Strand :=
  { t with run := if t.run == .saved || t.run == .yielded || t.run == .cut || (t.run == .faulted && !queued) then .running else t.run
           pause := 0, hook := own.hook, last := own.last }

/-- A stream after a restore: one that stood at a cut goes on. -/
def Stream.restored (t : Stream) : Stream := { t with state := if t.state == .cut then .run else t.state }

/-- What a core keeps as its own when an image is restored on it: its counters, its logs' areas and its step enables. -/
def restoredSys (own y : System) (act : Bool) : System := { y with
  cycle := own.cycle, planeAct := act, step := own.step, rstall := own.rstall, slbase := own.slbase, slsize := own.slsize
  spres := own.spres, spresNow := if 512 < own.spres.toNat then 512 else own.spres
  qslagBase := own.qslagBase, qslagSize := own.qslagSize, pinsel := own.pinsel
  yreq := false, yact := false, ydl := 0, deadline := none, fdone := false, forced := none, sheld := false, stoppedByH := false
  hDue := [], hearth := [], sDue := !y.levelS && !y.fq.isEmpty, pend := y.pend || (y.levelS && !y.fq.isEmpty) }

/-- The core after a restore, its new plane being the one of a number. -/
def Image.coreOn (i : Image) (own : Core) (act : Bool) : Core :=
  let queued (x : StrandId) : Bool := (i.core.sys.fq ++ i.core.sys.fqWait).any fun r => r.strand == x && r.stops
  { i.core with
  k := i.core.k.restored own.k (queued .K), a := i.core.a.restored own.a (queued .A), v := i.core.v.restored own.v (queued .V)
  m := i.core.m.restored own.m (queued .M)
  streams := i.core.streams.map (·.restored)
  vec := { i.core.vec with
    banks := cellPaste own.vec.banks (if act then 64 * 1024 else 0) (64 * 1024) i.tiles
    idle := own.vec.idle.filter fun kv => match kv.2 with | .parked _ => true | _ => false
    parkErr := own.vec.parkErr }
  mat := { i.core.mat with ceil := own.mat.ceil, queue := i.core.mat.queue.map fun o => { o with stopAt := none } }
  -- names that the image still uses are not given again
  nextEntry := max own.nextEntry i.core.nextEntry
  sys := restoredSys own.sys i.core.sys act
  qu := { i.core.qu with
    st := .none, taken := [], requests := [], armed := none, reported := false, settle := false, settled := false
    resumeDue := false, peersH := own.qu.peersH, peersMax := own.qu.peersMax, peersG := own.qu.peersG, nextImage := own.qu.nextImage } }

/-- Restores an image on the core, with the objects that it names: the pairs that stand in its scratchpad are resolved to where the
objects now lie (R60, R110). Its strands go on where they stood, members of the domains that the routers name now (R115), all that
they wrote is found (R49, R112), and no ticket names a record any more (R298). -/
def State.installImage (s : State) (i : Image) (o : PlaneObject) (named : List PlaneObject) (entry : Option (BitVec 8)) : State :=
  let own := s.core
  let act := !own.sys.planeAct
  let base := s.pk.pcore.toNat * 16
  let s := s.scrubContext
  let s := ({ s with core := i.coreOn own act }.putShadow Plane.empty).putPlane ⟨s.resolve o, named, i.bind, entry, true⟩
  let s := s.onMu fun m => { m with
    scratch := cellPaste m.scratch (scratchBase s.pk.pcore.toNat) (2 ^ 22) i.scratch
    touchmark := i.touchmark, tmval := i.tmval }
  let s := i.pairs.foldl State.fillPair s
  let s := let m := s.memberOf i.ctx i.lcore; strandIds.foldl (fun s x => s.onStrand x fun t => { t with member := m }) s
  let key := i.ctx.toNat * 256 + i.lcore.toNat
  let s := s.onPk fun k => { k with
    rings := i.rings.foldl (fun l r => kSet l (base + r.1) r.2) k.rings
    headers := i.headers.foldl (fun l h => kSet l (base * 256 + h.1) h.2) k.headers
    remap := kSet k.remap key { kGet RemapEntry.zero k.remap key with valid := true, pcore := k.pcore }
    images := k.images.filter fun j => !(j.ctx == i.ctx && j.lcore == i.lcore)
    ending := 0, lastCtx := some i.ctx, sliceDue := false, sliceRun := 0 }
  let s := match entry with
    | some n => s.setEntry n.toNat .running 0
    | none => s
  strandIds.foldl (fun s x => s.takeImage x false) s.acquireAll

/-- Hearth reports that an image has been rejected; nothing else changes (R111). -/
def State.refuseImage (s : State) (i : Image) : State :=
  s.onPk fun k => { k with refused := if k.refused.contains (i.ctx, i.lcore) then k.refused else k.refused ++ [(i.ctx, i.lcore)] }

/-- The restoring loader: it checks the image, and swaps it in on the core with the core's pending Swage sets (R393), or rejects it
(R110, R111). -/
def State.restoreContext (s : State) (i : Image) (entry : Option (BitVec 8)) : State :=
  match s.imageObjectsOf i with
  | some (o :: named) => if s.mayRestore i then s.installPatches.installImage i o named entry else s.refuseImage i
  | _ => s.refuseImage i

/-- The saved context of the record in the shadow plane is restored. An image that is rejected leaves the core as it is, and its record
is REJECTED. -/
def State.swapImage (s : State) (i : Image) : State :=
  if s.mayRestore i then s.restoreContext i s.shadow.entry
  else
    let s := match s.shadow.entry with
      | some n => s.setEntry n.toNat .rejected 0x04
      | none => s
    (s.refuseImage i).putShadow Plane.empty

/-- The task of the shadow plane starts; a change of context scrubs the core first. -/
def State.swapTask (s : State) : State :=
  let ctx := s.shadow.bind.ctx
  let same := s.pk.lastCtx = some ctx
  let s := if same then s else s.scrubContext.onPk fun k => { k with lastCtx := some ctx }
  if s.sready then (if same then s.keepTiles else s).flipPlanes else s

/-- Whether no quench of the outgoing context is pending on the core (R400 item 4). -/
def State.noQuench (s : State) : Bool := s.core.qu.st != .pending && s.core.qu.requests.isEmpty

/-- The saved slice of the running context at a position on this core. -/
def State.sliceAt (s : State) (n : Nat) : Option Image :=
  s.pk.images.find? fun i =>
    let e := s.remapOf i.lcore.toNat
    i.ctx == s.sys.ctx && e.valid && e.pcore == s.pk.pcore && e.slice.toNat == n

/-- The saved slice that follows the core's last one: a slice that has no image, its task having ended, is passed over. -/
def State.nextSlice (s : State) : Option Image :=
  let e := s.remapOf s.sys.lcore.toNat
  let n := e.nsm1.toNat + 1
  (List.range n).findSome? fun d => s.sliceAt ((e.slice.toNat + 1 + d) % n)

/-- Whether the context that the core last ran shares it by slices, and a saved one of them is to have the core next (R403). -/
def State.sliceWaits (s : State) : Bool :=
  let e := s.remapOf s.sys.lcore.toNat
  e.valid && e.nsm1 != 0 && s.nextSlice.any s.mayRestore

/-- SWAP_TOKEN_FLIP (R400): the core is idle or its task has ended, the successor is ready and not held back, no quench is pending, and no
other slice of the core is to have it (R403). What the engines still do for another context, or for one that an image replaces, ends
first. -/
def execSwapTokenFlip (s : State) : Host.Outcome State Fault Refusal :=
  .next (
    if s.hasTask || !s.shadow.loaded || s.sys.sheld || !s.noQuench || s.sys.stoppedByH || s.sliceWaits then s
    else
      match s.imageFor s.shadow.bind with
      | some i => if s.engineWork && s.mayRestore i then s else s.swapImage i
      | none => if s.pk.lastCtx != some s.shadow.bind.ctx && s.engineWork then s else s.swapTask)

/-! ## PLANESW (R405) -/

/-- Runs a PLANESW: after its effect d receives k.plane. -/
def planeswItem (s : State) (d : BitVec 6) (f : State → State) : State :=
  runItem s 2 [.K] true (regOk s.cur d) true (.retire (let s := f s; s.putReg s.cur d s.kplane))

/-- PLANESW.REL. -/
def execPlaneswRel (d : BitVec 6) (s : State) : Host.Outcome State Fault Refusal :=
  .next (planeswItem s d fun s => s.onSys fun y => { y with sheld := false })

/-- PLANESW.DROP. -/
def execPlaneswDrop (d : BitVec 6) (s : State) : Host.Outcome State Fault Refusal :=
  .next (planeswItem s d fun s => s.returnShadow.onSys fun y => { y with sheld := false })

/-- PLANESW.HOLD. -/
def execPlaneswHold (d : BitVec 6) (s : State) : Host.Outcome State Fault Refusal :=
  .next (planeswItem s d fun s => s.onSys fun y => { y with sheld := true })

/-! ## Hearth: resuming, remap entries (R100, R402) -/

/-- The work of a core is given up (R407 step 2): HELD entries, held chains and queued operations are discarded; PEND
entries are still performed. -/
def State.abandon (s : State) : State :=
  let s := (s.onCore fun c => { c with
    side := (c.side.filter fun e => e.state == .pend || e.state == .sealWait).map fun e => { e with atS := true }
    rowq := [], chainq := [], streams := Vector.replicate 16 Stream.reset, slag := [] }).freeSnaps.syncOverflow
  let s := s.onMat fun m => { m.noUnits with queue := [] }
  let s := s.onPk fun k => { k with
    chains := k.chains.map fun c =>
      match c.state with
      | .held | .queued => { c with state := .free }
      | .run | .fault => { c with state := .killed }
      | _ => c
    engineQueue := [] }
  let s := match s.plane.entry with
    | some n => s.setEntry n.toNat .done 0
    | none => s
  (s.onQu fun q => { q with st := .none, requests := [], taken := [], armed := none, settle := false, settled := false }).idle

/-- Hearth lets the core go on: what its records stopped resumes. -/
def State.hearthResume (s : State) : State :=
  let l := s.sys.hearth
  let rest := s.sys.fq ++ s.sys.fqWait
  let s := s.onSys fun y => { y with hearth := [], stoppedByH := !(y.hDue.all fun r => !r.stops) }
  l.foldl (fun s r => (s.resumeEngine r.resume).restart r rest) s

/-- A cause of resume code X is resumed by nothing (R104): Hearth has the task's work rolled back to its region start, or abandons it where
K stands at the item of its handler that raised it. -/
def State.hearthRollBack (s : State) : State :=
  if s.atS .K then s.abandon.onSys fun y => { y with hearth := [] }
  else if s.hasTask then s.hearthResume.rollBack.holdBack
  else s.hearthResume

/-- HEARTH_RESUME_OR_ABANDON: Hearth resumes or abandons a core that a cause at H has stopped. -/
def execHearthResumeOrAbandon (resume : Bool) (s : State) : Host.Outcome State Fault Refusal :=
  .next (
    if s.sys.hearth.isEmpty || s.pk.hot then s
    else if resume then (if s.sys.hearth.any fun r => resumesNever r.raised then s.hearthRollBack else s.hearthResume)
    else s.abandon.onSys fun y => { y with hearth := [] })

/-- Whether the routers hold the remap table of a context, or have room for one more: they hold up to 64 (R402). -/
def State.remapRoom (s : State) (ctx : BitVec 32) : Bool :=
  let ids := (s.pk.remap.map fun r => r.1 / 256).eraseDups
  ids.contains ctx.toNat || decide (ids.length < 64)

/-- HEARTH_REMAP_REWRITE: the entry changes in every router; an item stopped by REMAP alone is resumed. -/
def execHearthRemapRewrite (ctx : BitVec 32) (lcore pcore : BitVec 8) (slice nsm1 : BitVec 4) (quant : BitVec 16) (valid : Bool)
    (s : State) : Host.Outcome State Fault Refusal :=
  let s := if s.remapRoom ctx then s.onPk fun k => { k with
      remap := kSet k.remap (ctx.toNat * 256 + lcore.toNat) ⟨valid, pcore, slice.setWidth 3, nsm1.setWidth 3, quant⟩ }
    else s
  let remapOnly := s.sys.hDue.isEmpty && !s.sys.hearth.isEmpty && s.sys.hearth.all fun r => r.cause == cRemap
  .next (if remapOnly then s.hearthResume else s)

/-! ## Time slices (R403) -/

/-- The next slice takes the core by a swap (R110), when its image is there. DESIGN CHOICE: a successor that stands in the shadow plane then
is RETURNED, to be posted again (log 22). -/
def State.takeNextSlice (s : State) : State :=
  match s.nextSlice with
  | some i =>
    if s.engineWork || !s.noQuench then s else (if s.mayRestore i then s.returnShadow else s).restoreContext i i.entry
  | none => s

/-- SLICE_QUANTUM_EXPIRY: the quantum's end asks for the pre-emption of R106 within 4,096 cycles; the slice is saved under
its forced mode, its task's entry RUNNING still, and the next one is restored. A slice whose task has ended gives the core up at once. -/
def execSliceQuantumExpiry (s : State) : Host.Outcome State Fault Refusal :=
  let e := s.remapOf s.sys.lcore.toNat
  .next (
    if !e.valid || e.nsm1 == 0 || s.sys.stoppedByH then s
    else if !s.hasTask then s.takeNextSlice
    else if s.pk.sliceDue then
      (if s.sys.fdone then (s.saveImage s.plane.entry).takeNextSlice
       else if !s.sys.yact && s.sys.forced.isNone then s.forceMode
       else s)
    else if e.quant.toNat * 256 ≤ s.pk.sliceRun ∧ !s.sys.yreq then
      (s.onPk fun k => { k with sliceDue := true }).request 4096
    else s)

/-! ## Lending and revocation (R406, R407) -/

/-- Step 3 of R407: the core is scrubbed; every location reads zero. -/
def State.scrubCore (s : State) : State :=
  let y := s.sys
  let ceil := s.core.mat.ceil
  let area := y.slsize.toNat * 128
  let s := s.scrubContext
  let s := s.onMu fun m => { m with
    mem := (List.range 4).foldl (fun mem d => cellClear mem (dieBase d + y.slbase.toNat) area) m.mem }
  let s := { s with core := { Core.reset with
    mat := { MatrixState.reset with ceil := ceil }
    sys := { System.reset with cycle := y.cycle, planeAct := y.planeAct } } }
  s.onPk fun k => { k with
    plane0 := Plane.empty, plane1 := Plane.empty, ending := 4, lastCtx := none, sliceDue := false, barriers := []
    chains := k.chains.map fun c => { Chain.zero with gen := c.gen }, engineQueue := [] }

/-- Whether the cut of a revocation has completed, or there is no work to cut. -/
def State.cutBack (s : State) : Bool :=
  !s.hasTask || (s.sys.forced == some .rollback && s.core.qu.st != .pending && !s.core.qu.requests.any (·.rollback))

/-- Step 1: REVOKED is delivered and the work rolls back to its region start; the successor is RETURNED (R404). -/
def State.beginRevoke (s : State) (vf : Option (BitVec 6)) : State :=
  let s := (s.onPk fun k => { k with revoke := some (s.sys.cycle.toNat, vf) }).returnShadow
  if s.hasTask then (s.raiseSystem cRevoked 0).rollBack else s

/-- Whether the core is one of some contexts': the last task on it, or the one in its shadow plane, was theirs, or a remap entry of theirs
names it. -/
def State.coreServes (s : State) (mine : List ContextInfo) : Bool :=
  mine.any fun c =>
    s.pk.lastCtx == some c.id || (s.shadow.entry.isSome && s.shadow.bind.ctx == c.id) ||
      s.pk.remap.any fun r => r.1 / 256 == c.id.toNat && r.2.valid && r.2.pcore == s.pk.pcore

/-- The contexts of a virtual function. -/
def State.contextsOf (s : State) (vf : BitVec 6) : List ContextInfo := s.pk.contexts.filter fun c => c.vf == some vf

/-- The core of a virtual function that is torn down is revoked; while another revocation is under way that waits (R409 step 4). -/
def State.teardownCore (s : State) (vf : BitVec 6) : State :=
  if !s.coreServes (s.contextsOf vf) then s
  else if s.pk.revoke.isSome then s.onPk fun k => { k with teardowns := k.teardowns.filter (· != vf) ++ [vf] }
  else s.beginRevoke (some vf)

/-- The revocations that have waited come up, one after the other. -/
def State.nextTeardown (s : State) : State :=
  let l := s.pk.teardowns
  l.foldl (fun s vf => s.teardownCore vf) (s.onPk fun k => { k with teardowns := [] })

/-- The core belongs to a partition from now on: at its next swap it takes the partition's sets (R393, R407). -/
def State.joinPartition (s : State) (p : BitVec 6) : State :=
  let s := s.onPk fun k => { k with ownPartition := p }
  s.onPk fun k => { k with patches := s.partitionSets }

/-- Steps 3 to 5: scrub, the remap entries of the contexts that lose the core, and its return to its partition. -/
def State.endRevoke (s : State) : State :=
  let last := s.pk.lastCtx
  let borrower := s.loan.map (·.2)
  let vf := s.pk.revoke.bind (·.2)
  let loses (ctx : Nat) : Bool :=
    last == some (BitVec.ofNat 32 ctx) || s.pk.contexts.any fun c =>
      c.id.toNat == ctx && (some c.partition == borrower || (vf.isSome && c.vf == vf))
  let home := match s.loan with | some l => l.1 | none => s.pk.ownPartition
  ((s.scrubCore.joinPartition home).onPk fun k => { k with
    revoke := none
    remap := k.remap.map fun r => if r.2.pcore = k.pcore ∧ loses (r.1 / 256) then (r.1, { r.2 with valid := false }) else r
    partitions := k.partitions.map fun p => { p with lent := p.lent.filter fun l => l.1 != k.pcore } }).nextTeardown

/-- REVOKE_LENT_CORE: begins the revocation of a lent core, and ends it once the cut has completed and what was PEND has
been performed. -/
def execRevokeLentCore (s : State) : Host.Outcome State Fault Refusal :=
  .next (
    match s.pk.revoke with
    | none => if s.loan.isSome then s.beginRevoke none else s
    | some _ => if s.cutBack && s.core.side.all (fun e => e.state == .faulted) then s.endRevoke else s)

/-- REVOKE_CUT_TIMEOUT: the cut has not completed within 32,768 cycles, and the work is abandoned. -/
def execRevokeCutTimeout (s : State) : Host.Outcome State Fault Refusal :=
  .next (
    match s.pk.revoke with
    | some (since, _) => if !s.cutBack && decide (since + 32768 ≤ s.sys.cycle.toNat) then s.abandon else s
    | none => s)

/-! ## Virtual functions (R408, R409) -/

/-- VF_TEARDOWN: the generation of every key id of the function's contexts is bumped, which withdraws the enrolment of switches (R417), and a
core of theirs is revoked (R409). A key id's send allowance is what its own packets have taken. -/
def execVfTeardown (vf : Nat) (s : State) : Host.Outcome State Fault Refusal :=
  let mine := s.contextsOf (BitVec.ofNat 6 vf)
  let held (k : KeyId) : Bool := mine.any fun c => c.kids.getLsbD k.kid.toNat
  let waiting := (s.pk.kids.filter held).map fun k => (k.kid.toNat, (s.pk.unanswered.filter fun u => u.kid == k.kid).length)
  let s := s.onPk fun k => { k with
    kids := k.kids.map fun i => if held i then { i with gen := i.gen + 1 } else i
    enrolled := k.enrolled.filter fun e => !k.kids.any fun i => held i && i.kid == e.2
    allowances := waiting.foldl (fun l w => kSet l w.1 w.2) k.allowances
    reservations := k.reservations ++ ((k.unanswered.filter fun u => mine.any fun c => c.kids.getLsbD u.kid.toNat).map fun u =>
      (u.kid.toNat, u.seq)) }
  .next (if vf < 64 then s.teardownCore (BitVec.ofNat 6 vf) else s)

/-- ALLOWANCE_RECLAIM: two round trips after the bump, the send allowances of a key id are reclaimed, and the reply reservations left of it. -/
def execAllowanceReclaim (kid : Nat) (s : State) : Host.Outcome State Fault Refusal :=
  .next (s.onPk fun k => { k with
    allowances := kDel k.allowances kid, reservations := k.reservations.filter fun r => r.1 != kid })

end Sys2Proof.Machine
end

