-- ==== Sys2Proof/Machine/Host.lean ====
section
/-!
DEFINITION. Items that no encoding defines, Hearth's mailboxes, boot, the optical circuits, link ports and the thermal limits
(R73, R74, R77, R78, R412 to R423).
-/
namespace Sys2Proof.Machine

/-! ## Undefined and reserved items (R73, R77) -/

/-- The strands the major of a 32-bit item is legal in (R73). -/
def majorStrands (w : BitVec 32) : List StrandId :=
  let m := (w.extractLsb' 26 5).toNat
  if m ≤ 0x07 then allStrands
  else if m ≤ 0x09 then [.K, .A]
  else if m = 0x0A ∨ m = 0x0B ∨ m = 0x0D then [.A]
  else if m = 0x0C then [.A, .V, .M]
  else if m ≤ 0x13 then [.V]
  else if m = 0x14 then [.K, .V]
  else if m ≤ 0x17 then [.M]
  else if m ≤ 0x19 then [.K, .A]
  else if m ≤ 0x1B then [.K]
  else allStrands

/-- The strands the compact major of a halfword is legal in (R76). -/
def compactStrands (h : BitVec 16) : List StrandId :=
  let m := (h.extractLsb' 10 5).toNat
  if m = 0x12 ∨ m = 0x13 then [.A, .V, .M] else if m = 0x14 ∨ m = 0x15 then [.K, .A] else allStrands

/-- Whether an item's major is privileged. -/
def majorPrivileged (w : BitVec 32) : Bool := w.extractLsb' 26 5 == 0x1B

/-- Raises a cause at an item that the decoder refuses, in the order of R77: an item that a Swage slot claims does not get
here, except in the words of a REWRITE and in a bundle. -/
def refuseItem (s : State) (w : BitVec 32) (compact : Bool) (legal : List StrandId) (priv : Bool) (c : BitVec 6) : State :=
  let i : Item := if compact then .compact (w.setWidth 16) else .wide w
  if !s.dry && (s.decodeSlot s.cur i).isSome then s
  else runItem s (if compact then 1 else 2) legal priv true true (.fail c 0)

/-- RESERVED_SPACE_ITEM. -/
def execReservedSpaceItem (w : BitVec 32) (compact : Bool) (s : State) : Host.Outcome State Fault Refusal :=
  .next (refuseItem s w compact allStrands false cReservedSpace)

/-- ILLEGAL_ENCODING_ITEM: WRONG_STRAND and PRIVILEGED come first. -/
def execIllegalEncodingItem (w : BitVec 32) (compact : Bool) (s : State) : Host.Outcome State Fault Refusal :=
  .next (refuseItem s w compact (if compact then compactStrands (w.setWidth 16) else majorStrands w)
    (!compact && majorPrivileged w) cIllegalEncoding)

/-! ## Mailboxes (R419, R420) -/

/-- The number of a function's mailbox. -/
def mailboxOf : Option (BitVec 6) → Nat
  | none => 0
  | some v => 1 + v.toNat

/-- A function's mailbox. -/
def State.mailbox (s : State) (vf : Option (BitVec 6)) : Mailbox := kGet Mailbox.zero s.pk.mailboxes (mailboxOf vf)

/-- BUSY: a command of the function has been submitted and not completed. -/
def State.mailBusy (s : State) (vf : Option (BitVec 6)) : Bool := s.pk.mail.any (·.vf == vf)

/-- STATUS of a function's mailbox; the answer of a failed boot has the step number above BUSY (log 26). -/
def State.mailStatus (s : State) (vf : Option (BitVec 6)) : BitVec 32 :=
  let b := s.mailbox vf
  place 32 b.seq 0 ||| place 32 b.result 16 ||| flagBit 32 (s.mailBusy vf) 24 ||| place 32 b.step 25

/-- What the host reads at an offset of a function's BAR 0: DOORBELL is write-only, and the rest of the 4 KiB reads zero. -/
def State.mailRead (s : State) (vf : Option (BitVec 6)) (off : Nat) : BitVec 64 :=
  let b := s.mailbox vf
  match off with
  | 0x004 => (s.mailStatus vf).setWidth 64
  | 0x008 => b.cmd
  | 0x010 => b.addr
  | 0x018 => b.len
  | _ => 0

/-- What a write of the host at an offset of a function's BAR 0 does: DOORBELL submits the command, with what CMD, ADDR and LEN hold then,
unless BUSY is 1; STATUS and the reserved bytes take no write. -/
def State.mailWrite (s : State) (vf : Option (BitVec 6)) (off : Nat) (v : BitVec 64) (payload : MailPayload) : State :=
  let b := s.mailbox vf
  let put (b : Mailbox) : State := s.onPk fun k => { k with mailboxes := kSet k.mailboxes (mailboxOf vf) b }
  match off with
  | 0x000 =>
    if s.mailBusy vf then s
    else s.onPk fun k => { k with mail := k.mail ++ [⟨vf, v.setWidth 16, b.cmd.setWidth 8, b.cmd.extractLsb' 8 56, b.addr, b.len, payload⟩] }
  | 0x008 => put { b with cmd := v }
  | 0x010 => put { b with addr := v }
  | 0x018 => put { b with len := v }
  | _ => s

/-- Completes a command: STATUS of its function's mailbox tells its sequence number and code. -/
def State.mailDone (s : State) (c : MailCommand) (code : BitVec 8) : State :=
  s.onPk fun k => { k with
    mail := k.mail.erase c
    mailboxes := kSet k.mailboxes (mailboxOf c.vf) { s.mailbox c.vf with
      seq := c.seq, result := code, step := if k.bootFailed then BitVec.ofNat 8 k.bootStep else 0 } }

/-- The command that Hearth serves next: the first, and after a failed boot the first of the physical function, whose mailbox alone
answers then (R420). -/
def State.nextCommand (s : State) : Option MailCommand :=
  if s.pk.bootFailed then s.pk.mail.find? (·.vf == none) else s.pk.mail.head?

/-- Serves the next command when it has a given opcode: a failed boot answers with its step, a function that may not issue the command
gets 0xF0, an undefined opcode 0xF1. -/
def State.serve (s : State) (opcode : BitVec 8) (physicalOnly : Bool) (k : MailCommand → State) : State :=
  match s.nextCommand with
  | none => s
  | some c =>
    if s.pk.bootFailed then s.mailDone c 0xE0
    else if s.pk.bootStep < 5 then s
    else if c.opcode = 0 ∨ 5 < c.opcode.toNat then s.mailDone c 0xF1
    else if c.opcode ≠ opcode then s
    else if physicalOnly && c.vf.isSome then s.mailDone c 0xF0
    else k c

/-- A command whose outcome the manual gives no code for. -/
def State.mailOpen (s : State) (c : MailCommand) : State :=
  let (v, s) := s.fresh 8
  s.mailDone c v

/-- The LEN bytes of host memory at ADDR: a command's payload (R419). -/
def State.mailBytes (s : State) (c : MailCommand) : List (BitVec 8) := cellRange s.pk.mu.mem (hostBase + c.addr.toNat) c.len.toNat

/-- MB_LOAD_PATCH_IMAGE: the image that the payload's bytes hold is checked, and accepted or rejected with its code (R391, R392). -/
def execMbLoadPatchImage (s : State) : Host.Outcome State Fault Refusal :=
  .next (s.serve 0x01 true fun c =>
    let i := PatchImage.read (s.mailBytes c)
    let code := s.patchFault i
    if code = 0 then (s.acceptPatch i).mailDone c 0 else s.mailDone c code)

/-- `n` bytes of host memory at ADDR: a payload of a length that the manual gives. -/
def State.mailPayload (s : State) (c : MailCommand) (n : Nat) : List (BitVec 8) := cellRange s.pk.mu.mem (hostBase + c.addr.toNat) n

/-- Whether a context belongs to a function. -/
def State.ownsContext (s : State) (vf : Option (BitVec 6)) (ctx : BitVec 32) : Bool :=
  s.pk.contexts.any fun c => c.id == ctx && c.vf == vf

/-- The membership mirrors of the running task follow the routers' registers (R14, R115). -/
def State.refreshMembers (s : State) : State :=
  if !s.hasTask then s
  else
    let m := s.memberOf s.sys.ctx s.sys.lcore
    strandIds.foldl (fun s x => s.onStrand x fun t => { t with member := m }) s

/-- The partition that Hearth has bound a virtual function to (R408). -/
def State.boundTo (s : State) (vf : BitVec 6) : Option (BitVec 6) := (s.pk.vfs.find? (·.1 == vf.toNat)).map (·.2)

/-- The physical cores that a partition's contexts may be placed on: its own, but for those it has lent, and those lent to it (R406). -/
def State.coresOf (s : State) (p : BitVec 6) : BitVec 256 :=
  let bits (l : List (BitVec 8 × BitVec 6)) : BitVec 256 := l.foldl (fun m x => m ||| (1#256 <<< x.1.toNat)) 0
  s.pk.partitions.foldl (fun m q =>
    m ||| (if q.id = p then (q.guaranteed ||| q.margin) &&& ~~~(bits q.lent) else bits (q.lent.filter (·.2 == p)))) 0

/-- Whether a function may have a context in a partition, placed on some cores: a virtual function in the one it is bound to, on that
partition's cores (R408). -/
def State.contextFits (s : State) (vf : Option (BitVec 6)) (p : BitVec 6) (remap : List (BitVec 8 × RemapEntry)) : Bool :=
  match vf with
  | none => true
  | some v => s.boundTo v == some p && remap.all fun r => !r.2.valid || (s.coresOf p).getLsbD r.2.pcore.toNat

/-- The fabric key ids of a context that a function creates: Hearth gives the physical function's contexts what it asks for, and a virtual
function's no more than it has given them already (R408; DESIGN CHOICE, log 26). -/
def State.kidsFor (s : State) (vf : Option (BitVec 6)) (i : ContextInfo) : BitVec 128 :=
  match vf with
  | none => i.kids
  | some _ => match s.pk.contexts.find? fun o => o.id == i.id && o.vf == vf with
    | some o => o.kids &&& i.kids
    | none => 0

/-- What the package holds for a context goes with it: its translations, records, images and tables, and the core is scrubbed before it has
another task (R401, R410). -/
def State.forgetContext (s : State) (ctx : BitVec 32) : State :=
  let n := ctx.toNat
  let s := if s.shadow.entry.isSome && s.shadow.bind.ctx == ctx then s.returnShadow else s
  let s := s.onMu fun m => { m with
    tlb := m.tlb.filter fun e => e.ctx != ctx, ats := m.ats.filter fun r => r.ctx != ctx, shoots := m.shoots.filter fun r => r.ctx != ctx
    seals := m.seals.filter fun r => r.1 / 64 != n, copies := m.copies.filter fun c => c.1 / 2 ^ 40 != n }
  s.onPk fun k => { k with
    contexts := k.contexts.filter fun o => o.id != ctx, domains := k.domains.filter fun d => d.ctx != ctx
    remap := k.remap.filter fun r => r.1 / 256 != n, images := k.images.filter fun i => i.ctx != ctx
    refused := k.refused.filter fun r => r.1 != ctx, parcels := k.parcels.filter fun p => p.1 / 65536 != n
    inboxes := k.inboxes.filter fun x => x.1 / 256 != n, transit := k.transit.filter fun t => t.1 / 65536 != n
    notices := k.notices.filter fun t => t.1 / 65536 != n, frozen := k.frozen.filter fun f => f.1 / 65536 != n
    lastCtx := if k.lastCtx = some ctx then none else k.lastCtx }

/-- MB_CONTEXT: creates a context with its domains and remap entries, or destroys one of the function's own. -/
def execMbContext (s : State) : Host.Outcome State Fault Refusal :=
  .next (s.serve 0x02 false fun c =>
    match c.payload with
    | .create i domains remap =>
      if s.pk.contexts.any (fun o => o.id == i.id && o.vf != c.vf) then s.mailDone c 0xF0
      else if !s.contextFits c.vf i.partition remap || !s.remapRoom i.id then s.mailOpen c
      else
        let s := s.onPk fun k => { k with
          contexts := (k.contexts.filter fun o => o.id != i.id) ++ [{ i with vf := c.vf, kids := s.kidsFor c.vf i }]
          domains := (k.domains.filter fun d => d.ctx != i.id) ++ domains.map fun d => { d with ctx := i.id }
          remap := remap.foldl (fun l r => kSet l (i.id.toNat * 256 + r.1.toNat) r.2) k.remap }
        s.refreshMembers.mailDone c 0
    | .destroy ctx =>
      if !s.ownsContext c.vf ctx then s.mailDone c 0xF0
      else (s.forgetContext ctx).refreshMembers.mailDone c 0
    | _ => s.mailOpen c)

/-- MB_POST_BIND_RECORD: the record that stands in host memory at ADDR, when it is of one of the function's own contexts, is written to
device memory and posted in a FREE entry of the slot table (R396, R419). -/
def execMbPostBindRecord (s : State) : Host.Outcome State Fault Refusal :=
  .next (s.serve 0x03 false fun c =>
    match c.payload with
    | .bind pa seq =>
      let e : SlotEntry := ⟨.posted, 0, seq, pa.extractLsb' 10 42⟩
      let bs := s.mailPayload c 1024
      if !s.ownsContext c.vf (readBind bs).ctx then s.mailDone c 0xF0
      else match firstNat (fun n => (kGet SlotEntry.zero s.pk.slots n).state == .free) 256 0 with
        | some n =>
          let s := s.writeHome clsCP (List.zip ((List.range 1024).map fun i => Loc.here (pa.toNat / 1024 * 1024 + i)) bs)
          (s.onPk fun k => { k with slots := kSet k.slots n e }).mailDone c 0
        | none => s.mailOpen c
    | _ => s.mailOpen c)

/-! ## Attestation (R421) -/

/-- The bytes of a slot with its payload. -/
def SwageSlot.bytes (t : SwageSlot) : List (BitVec 8) := toBytes 32 t.record ++ t.payload.flatMap (toBytes 4)

/-- The sets that the accepted images give a partition's cores: of each signer the last that names it. -/
def State.setsOf (s : State) (p : BitVec 6) : List PatchSet :=
  [false, true].filterMap fun operator =>
    (s.pk.accepted.reverse.find? fun i => (i.signer == 1) == operator && (i.isGlobal || i.partmask.getLsbD p.toNat)).map (·.set)

/-- The digest of the active and pending Swage sets of the requester's partition: those of this core, where it belongs to it and for the
physical function, else those that the accepted images give the partition (DESIGN CHOICE, log 26). -/
def State.swageDigest (s : State) (vf : Option (BitVec 6)) : BitVec 512 :=
  let sets (l : List PatchSet) : List (BitVec 8) := l.flatMap fun p => p.slots.flatMap (·.2.bytes)
  let own := s.pk.swage.toList.flatMap (·.bytes) ++ sets s.pk.patches
  match vf.bind s.boundTo with
  | some p => shake256 (if p = s.pk.ownPartition then own else sets (s.setsOf p))
  | none => shake256 own

/-- The partitions whose configuration a function receives: a virtual function its own alone. -/
def State.reportedTo (s : State) (vf : Option (BitVec 6)) : List Partition :=
  match vf with
  | none => s.pk.partitions
  | some v => s.pk.partitions.filter fun p => s.boundTo v == some p.id

/-- The bytes of a partition's configuration. -/
def Partition.bytes (p : Partition) : List (BitVec 8) :=
  [p.id.setWidth 8] ++ toBytes 32 p.guaranteed ++ toBytes 32 p.margin ++ p.lent.flatMap (fun l => [l.1, l.2.setWidth 8]) ++
    [if p.strict then 1 else 0] ++ toBytes 32 p.channels ++
    p.frames.flatMap fun f => toBytes 8 (BitVec.ofNat 64 f.1) ++ toBytes 8 (BitVec.ofNat 64 f.2)

/-- The signed report. -/
def State.attest (s : State) (vf : Option (BitVec 6)) (nonce : BitVec 256) : Report :=
  let k := s.pk
  let ps := s.reportedTo vf
  let body := toBytes 32 nonce ++ toBytes 3 k.pkg ++ k.log.flatMap (toBytes 64) ++ [k.fuseVendor, k.fuseOperator, k.fuseFirmware] ++
    toBytes 64 (s.swageDigest vf) ++ ps.flatMap (·.bytes)
  { nonce := nonce, pkg := k.pkg, log := k.log, vendorArb := k.fuseVendor, operatorArb := k.fuseOperator
    firmwareArb := k.fuseFirmware, swage := s.swageDigest vf, partitions := ps, signature := Config.falconSign (shake256 body) }

/-- MB_ATTESTATION: the nonce is the 32 bytes of host memory at ADDR (R419, R421). -/
def execMbAttestation (s : State) : Host.Outcome State Fault Refusal :=
  .next (s.serve 0x04 false fun c =>
    (s.onPk fun k => { k with report := some (s.attest c.vf (ofBytes 256 (s.mailPayload c 32))) }).mailDone c 0)

/-! ## Configuration (R406, R411, R416, R417, R418) -/

/-- Whether a partition has a POSTED or RUNNING entry for a core: one of its contexts', placed there. -/
def State.entryFor (s : State) (p : BitVec 6) (core : BitVec 8) (e : SlotEntry) : Bool :=
  let b := readBind (s.bindBytes e)
  let r := s.bindPlace b
  (e.state == .posted || e.state == .running) && r.valid && r.pcore == core &&
    s.pk.contexts.any fun c => c.id == b.ctx && c.partition == p

/-- Whether a core may be lent: it is in its partition's margin, and the partition has no entry POSTED or RUNNING for it (R406). -/
def State.lendable (s : State) (core : BitVec 8) : Bool :=
  s.pk.partitions.any fun p =>
    p.margin.getLsbD core.toNat && !p.guaranteed.getLsbD core.toNat && p.lent.all (fun l => l.1 != core) &&
      s.pk.slots.all fun kv => !s.entryFor p.id core kv.2

/-- Sets one tenant's minimum share. -/
def setShare (tenant share : Nat) (p : LinkPort) : LinkPort :=
  if p.tenants.any (fun t => t.id == tenant) then
    { p with tenants := p.tenants.map fun t => if t.id = tenant then { t with share := share } else t }
  else { p with tenants := p.tenants ++ [⟨tenant, share, 0, 0⟩] }

/-- The sum of the minimum shares. -/
def LinkPort.shares (p : LinkPort) : Nat := p.tenants.foldl (fun n t => n + t.share) 0

/-- Whether a partition shares a channel with another, one of the two being strict (R411 item 1). -/
def State.channelClash (s : State) (p : Partition) : Bool :=
  s.pk.partitions.any fun q => q.id != p.id && (p.strict || q.strict) && p.channels &&& q.channels != 0

/-- Whether two ranges of frames meet. -/
def framesMeet (a b : Nat × Nat) : Bool := decide (a.1 < b.1 + b.2 ∧ b.1 < a.1 + a.2)

/-- Whether a partition shares a frame of the second tier with another (R411 item 4). -/
def State.frameClash (s : State) (p : Partition) : Bool :=
  s.pk.partitions.any fun q => q.id != p.id && p.frames.any fun a => q.frames.any (framesMeet a)

/-- Whether the core's side-log overflow area, or a landing area of another partition's context, lies in a channel that a partition
gets under strict mode (R411 item 1). -/
def State.areaClash (s : State) (p : Partition) : Bool :=
  let meets (first bytes : Nat) : Bool :=
    (List.range 256).any fun c => p.channels.getLsbD c && decide (first < (c + 1) * 2 ^ 31 ∧ c * 2 ^ 31 < first + bytes)
  p.strict && ((s.pk.ownPartition != p.id && meets s.sys.slbase.toNat (s.sys.slsize.toNat * 128)) ||
    s.pk.inboxes.any fun x => (s.pk.contexts.any fun c => c.id.toNat == x.1 / 256 && c.partition != p.id) &&
      meets (x.2.base.toNat * pageBytes) (x.2.size.toNat * pageBytes))

/-- Whether the core sets of a partition are sound: a core has one partition, it is guaranteed or lendable there, and those that are lent
stay lendable (R406). -/
def State.coresFit (s : State) (p : Partition) : Bool :=
  let own := p.guaranteed ||| p.margin
  p.guaranteed &&& p.margin == 0 && s.pk.partitions.all fun q =>
    if q.id = p.id then q.lent.all fun l => p.margin.getLsbD l.1.toNat else own &&& (q.guaranteed ||| q.margin) == 0

/-- Whether a core would be lent to the partition it belongs to (R406). -/
def State.lendsToOwn (s : State) (core : BitVec 8) (borrower : BitVec 6) : Bool :=
  s.pk.partitions.any fun p => p.margin.getLsbD core.toNat && p.id == borrower

/-- What one configuration command does; none where its conditions fail. -/
def State.configure (s : State) : ConfigCommand → Option State
  | .partition p =>
    if s.channelClash p || s.frameClash p || s.areaClash p || !s.coresFit p then none
    else
      let lent := match s.pk.partitions.find? (·.id == p.id) with | some q => q.lent | none => []
      let s := (s.onPk fun k => { k with
        partitions := (k.partitions.filter fun q => q.id != p.id) ++ [{ p with lent := lent }] }).onMu fun m => { m with tlb := [] }
      let n := s.pk.pcore
      some (if s.pk.ownPartition != p.id && (p.guaranteed ||| p.margin).getLsbD n.toNat && lent.all (fun l => l.1 != n)
        then s.joinPartition p.id else s)
  | .lend core borrower =>
    if !s.lendable core || s.lendsToOwn core borrower then none
    else
      let s := s.onPk fun k => { k with
        partitions := k.partitions.map fun p => if p.margin.getLsbD core.toNat then { p with lent := p.lent ++ [(core, borrower)] } else p }
      some (if core = s.pk.pcore then s.scrubCore.joinPartition borrower else s)
  | .keySlot slot key => some (s.onMu fun m =>
      match key with
      | some v => { m with keys := m.keys ||| (1#128 <<< slot.toNat), keyValues := kSet m.keyValues slot.toNat v }
      | none => { m with keys := m.keys &&& ~~~(1#128 <<< slot.toNat), keyValues := kDel m.keyValues slot.toNat })
  | .fabricKey i => some (s.onPk fun k => { k with
      kids := (k.kids.filter fun j => j.kid != i.kid) ++ [i]
      -- a new generation withdraws the enrolment of switches (R417)
      enrolled := if k.kids.contains i then k.enrolled else k.enrolled.filter fun e => e.2 != i.kid })
  | .holdKid ctx kid => some (s.onPk fun k => { k with
      contexts := k.contexts.map fun c => if c.id = ctx then { c with kids := c.kids ||| (1#128 <<< kid.toNat) } else c })
  -- a membership register is written at the creation of a context and at a change of circuits alone (R14)
  | .domain _ => none
  | .enrol switch kid => if 16368 ≤ switch then none else some (s.onPk fun k => { k with enrolled := k.enrolled ++ [(switch, kid)] })
  | .bindVf vf p =>
    -- its contexts keep the partition that they were created in
    if s.pk.contexts.any fun c => c.vf == some vf && c.partition != p then none
    else some (s.onPk fun k => { k with vfs := kSet k.vfs vf.toNat p })
  | .timeout units => some (s.onPk fun k => { k with ftmo := units })
  | .share port tenant flits =>
    match s.pk.ports[port]? with
    | none => none
    | some p =>
      let p := setShare tenant flits p
      if 2048 < p.shares then none else some (s.onPk fun k => { k with ports := k.ports.set port p })

/-- Whether a configuration waits: a partition changes only while none of its cores runs a task (R411). -/
def State.configWaits (s : State) : ConfigCommand → Bool
  | .partition p => s.hasTask && (p.id == s.pk.ownPartition || (p.guaranteed ||| p.margin).getLsbD s.pk.pcore.toNat)
  | _ => false

/-- MB_CONFIGURE. -/
def execMbConfigure (s : State) : Host.Outcome State Fault Refusal :=
  .next (s.serve 0x05 true fun c =>
    match c.payload with
    | .configure i =>
      if s.configWaits i then s
      else match s.configure i with
        | some s => s.mailDone c 0
        | none => s.mailOpen c
    | _ => s.mailOpen c)

/-! ## Reset and boot (R420) -/

/-- The Swage images in flash are checked and accepted one after another, up to the first that fails; whether none does. -/
def State.bootFlash (s : State) : List (List (BitVec 8)) → State × Bool
  | [] => (s, true)
  | bs :: rest =>
    let i := PatchImage.read bs
    if s.patchFault i = 0 then (s.acceptPatch i).bootFlash rest else (s, false)

/-- The firmware images that a boot step loads. -/
def State.firmwareOf (s : State) (step : Nat) : List Firmware := s.pk.firmware.filter (·.step == step)

/-- Whether a firmware image passes: its signature verifies under the key fused at manufacture, and its anti-rollback counter is not below
the fused one. -/
def State.firmwareOk (s : State) (f : Firmware) : Bool :=
  Config.falconVerifies 2 (shake256 f.bytes) f.signature && decide (s.pk.fuseFirmware.toNat ≤ f.arb.toNat)

/-- The bytes that a boot step loads. -/
def State.bootBytes (s : State) (step : Nat) : List (BitVec 8) :=
  if step = 4 then s.pk.flash.flatten else (s.firmwareOf step).flatMap (·.bytes)

/-- One boot step passes: the measurement log is extended with the digest of what it loaded. -/
def State.bootPass (s : State) (step : Nat) (ceil : BitVec 16) : State :=
  let digest := shake256 (s.bootBytes step)
  let s := match step with
    | 2 => s.onMat fun m => { m with ceil := ceil }
    | 3 => s.onMu fun m => { m with keys := 0, keyValues := [] }
    | 4 => (s.bootFlash s.pk.flash).1
    | _ => s
  s.onPk fun k => { k with bootStep := step, log := k.log ++ [digest] }

/-- Runs the boot steps that follow one; a failing check stops the boot at its step. -/
def State.boot (s : State) (fail : Nat) (ceil : BitVec 16) : Nat → Nat → State
  | 0, _ => s
  | n + 1, step =>
    let stop (s : State) : State := s.onPk fun k => { k with bootStep := step, bootFailed := true }
    if step = fail ∨ !(s.firmwareOf step).all s.firmwareOk then stop s
    else if step = 4 ∧ !(s.bootFlash s.pk.flash).2 then stop (s.bootFlash s.pk.flash).1
    else (s.bootPass step ceil).boot fail ceil n (step + 1)

/-- PACKAGE_RESET: everything but fuses, identity and flash is at its reset value, and the boot chain runs. The number of the next packet
stands, since none repeats under a key generation (R414). `fail` is a step at which the flash cannot be read, or 0; `ceil` is what step 2
sets. -/
def execPackageReset (fail : Nat) (ceil : BitVec 16) (s : State) : Host.Outcome State Fault Refusal :=
  let k := s.pk
  let t : State := { State.reset with
    agenda := s.agenda, turn := s.turn, cur := s.cur, freeCtr := s.freeCtr
    pk := { Package.reset with
      pcore := k.pcore, pkg := k.pkg, fuseVendor := k.fuseVendor, fuseOperator := k.fuseOperator, operatorKey := k.operatorKey
      stepping := k.stepping, fuseFirmware := k.fuseFirmware, flash := k.flash, firmware := k.firmware, group := k.group, sendSeq := k.sendSeq } }
  .next (t.boot fail ceil 5 1)

/-! ## Circuits, links and heat (R413, R418, R423) -/

/-- Whether no entry with REM = 1 is in progress, nor a demand drain to another package: all have completed or faulted (R413 step 2). -/
def State.remoteQuiet (s : State) : Bool :=
  s.pk.unanswered.isEmpty && (s.pk.mu.drainSent.all fun d => d.2.2) && s.pk.chains.toList.all fun c =>
    let e := s.entryOf c
    c.state != .run || !(c.remote || (c.begun && kindRemote (entryKind e) && rwRem (word e 3)))

/-- A domain after a change of groups (R413): one of level 6 is what is left of its packages in the group, and the phases of level 6 and 7
begin anew. A domain of level 7 exists while all its packages are in the group (R14). -/
def Domain.rebuilt (d : Domain) (group : List Nat) : Domain :=
  if d.level.toNat < 6 then d
  else { d with packages := if d.level = 6 then d.packages.filter (inGroup group) else d.packages, arrived := 0 }

/-- The circuits switch once the entries in progress are done: the new group is written, domains are rebuilt, and entries begin again. -/
def State.switchCircuits (s : State) : State :=
  match s.pk.switching with
  | some g =>
    if s.remoteQuiet then
      (s.onPk fun k => { k with group := g, switching := none, domains := k.domains.map (·.rebuilt g) }).refreshMembers
    else s
  | none => s

/-- Whether a list of bays can be this package's group: bay numbers, its own among them (R412). -/
def State.groupOk (s : State) (bays : List Nat) : Bool := bays.contains (bayOf s.pk.pkg.toNat) && bays.all (· < 1023)

/-- CIRCUIT_RECONFIGURE: Hearth keeps entries with REM = 1 from beginning, and switches to a group of bays once none is in progress
(R413). -/
def execCircuitReconfigure (members : List Nat) (s : State) : Host.Outcome State Fault Refusal :=
  .next (if s.groupOk members then (s.onPk fun k => { k with switching := some members }).switchCircuits else s)

/-- Changes a link port. -/
def State.onPort (s : State) (n : Nat) (f : LinkPort → LinkPort) : State :=
  s.onPk fun k => match k.ports[n]? with
    | some p => { k with ports := k.ports.set n (f p) }
    | none => k

/-- Flits of the shared pool in use, and its size. -/
def LinkPort.pool (p : LinkPort) : Nat × Nat := (p.tenants.foldl (fun n t => n + t.shared) 0, 4096 - p.shares)

/-- Changes one tenant's buffers; an unknown tenant has no share. -/
def LinkPort.onTenant (p : LinkPort) (tenant : Nat) (f : Tenant → Tenant) : LinkPort :=
  if p.tenants.any (fun t => t.id == tenant) then
    { p with tenants := p.tenants.map fun t => if t.id = tenant then f t else t }
  else { p with tenants := p.tenants ++ [f ⟨tenant, 0, 0, 0⟩] }

/-- LINK_FLIT_RECEIVE: a flit takes its tenant's own share first, then the shared pool; with neither free it waits. -/
def execLinkFlitReceive (port tenant : Nat) (s : State) : Host.Outcome State Fault Refusal :=
  .next (s.onPort port fun p =>
    let (used, size) := p.pool
    p.onTenant tenant fun t =>
      if t.own < t.share then { t with own := t.own + 1 }
      else if used < size then { t with shared := t.shared + 1 }
      else t)

/-- FLIT_FORWARD: a buffered flit leaves, its slot is free, and it stays in the replay buffer. Which of the tenant's slots it
held is open. -/
def execFlitForward (port tenant : Nat) (s : State) : Host.Outcome State Fault Refusal :=
  let (n, s) := s.freshNat
  .next (s.onPort port fun p =>
    if p.tenants.any fun t => t.id == tenant && (t.own != 0 || t.shared != 0) then
      { p.onTenant tenant fun t =>
          if t.shared = 0 ∨ (t.own ≠ 0 ∧ n % 2 = 0) then { t with own := t.own - 1 } else { t with shared := t.shared - 1 } with
        replay := min 1024 (p.replay + 1) }
    else p)

/-- LINK_REPLAY: the flits of the replay buffer are sent again and acknowledged; shares and pool take no part. -/
def execLinkReplay (port : Nat) (s : State) : Host.Outcome State Fault Refusal :=
  .next (s.onPort port fun p => { p with replay := 0 })

/-- THERMAL_95C: every CEIL of a die is zero; units held are consumed normally. -/
def execThermal95c (die : BitVec 2) (s : State) : Host.Outcome State Fault Refusal :=
  .next (if die.toNat = s.die then s.onMat fun m => { m with ceil := 0 } else s)

/-- THERMAL_105C: Hearth receives MACHINE_CHECK, and every core stops. -/
def execThermal105c (s : State) : Host.Outcome State Fault Refusal :=
  .next ((s.machineCheck 0x3F).onPk fun k => { k with hot := true })

end Sys2Proof.Machine
end

