-- ==== Sys2Proof/Machine/SysRegs.lean ====
section
/-!
DEFINITION. System registers: which may be accessed from where, what each reads as, and what a write does field by field
(R2, R113 to R117, R123, R127, R133, R146, R157, R183, R201, R204, R245, R251, R255, R292, R327, R338, R367, R416).
-/
namespace Sys2Proof.Machine

/-! ## Access rights (R113) -/

/-- How a register may be accessed. -/
inductive Access where
  | none | read | write
deriving DecidableEq, Repr

/-- Access at S, and whether a chapter assigns the number. -/
def accessS (n : Nat) : Access :=
  if ([0x001, 0x002, 0x004, 0x005, 0x017, 0x043, 0x061, 0x062, 0x064, 0x070, 0x091, 0x0A0, 0x0A1, 0x0A3, 0x0A4, 0x0B0] : List Nat).contains n
  then .read
  else if ([0x000, 0x003, 0x006, 0x030, 0x040, 0x041, 0x042, 0x044, 0x050, 0x051, 0x052, 0x053, 0x060, 0x063, 0x080, 0x081, 0x090, 0x092, 0x0A2, 0x0A5] : List Nat).contains n ||
      decide (0x010 ≤ n ∧ n ≤ 0x016) || n == 0x018 || decide (0x020 ≤ n ∧ n ≤ 0x027) then .write
  else .none

/-- Access at T from strand `x`. -/
def accessT (x : StrandId) (n : Nat) : Access :=
  if n = 0x000 ∨ n = 0x030 then .write
  else if ([0x001, 0x002, 0x003, 0x004, 0x005, 0x006, 0x016, 0x092, 0x0A1] : List Nat).contains n then .read
  else if n = 0x050 ∨ n = 0x051 then (if x = .V then .write else .none)
  else if n = 0x060 then (if x = .M then .write else .none)
  else if 0x061 ≤ n ∧ n ≤ 0x064 then (if x = .M then .read else .none)
  else .none

/-- Access of strand `x` at its level. -/
def State.access (s : State) (x : StrandId) (n : Nat) : Access := if s.atS x then accessS n else accessT x n

/-! ## Reading -/

/-- A count of k.engst. -/
def sat8 (n : Nat) : BitVec 64 := BitVec.ofNat 64 (min 255 n)

/-- k.engst of strand `x` (R116): a gather, scatter or vector atomic counts once, however many entries of the side log it has. -/
def State.engst (s : State) (x : StrandId) : BitVec 64 :=
  let c := s.core
  let strm := if x = .A then (c.streams.toList.filter fun t => t.state == .run || t.state == .fault).length else 0
  let mxf := if x = .M then (c.mat.queue.filter (·.follow.isNone)).length else 0
  let gsf := if x = .V then ((c.side.filter fun e => e.cls == clsGS || e.lane.isSome).map (·.op)).eraseDups.length else 0
  let rwf := match x with
    | .K => c.rowq.length
    | .V => c.chainq.length
    | _ => 0
  let cpf := (s.pk.chains.toList.filter fun h =>
    h.str == x && (h.state == .held || h.state == .queued || h.state == .run || h.state == .fault)).length
  sat8 strm ||| sat8 mxf <<< 8 ||| sat8 gsf <<< 16 ||| sat8 rwf <<< 24 ||| sat8 cpf <<< 32 |||
    flagBit 64 (!(s.strand x).eaf.isEmpty) 40

/-- k.fq (R101). DESIGN CHOICE: STOPPED shows the strand of a queued record alone; the other strands of a lockstep bundle, which stop with
it, are not shown (log 39). -/
def State.fqWord (s : State) : BitVec 64 :=
  let y := s.sys
  let stopped (x : StrandId) : Bool := y.fq.any fun r => r.strand == x && r.stops && (x == .K || (s.strand x).run == .faulted)
  BitVec.ofNat 64 y.fq.length ||| flagBit 64 (match y.fq with | r :: _ => r.own | [] => false) 5 ||| place 64 y.lost 8 |||
    strandIds.foldl (fun v x => v ||| flagBit 64 (stopped x) (16 + strandNum x)) 0

/-- k.slstat (R157). -/
def State.slstat (s : State) : BitVec 64 :=
  let (a, b) := s.sideUse
  BitVec.ofNat 64 a ||| place 64 (BitVec.ofNat 24 b) 12 ||| flagBit 64 (!s.sideRoom 1) 36

/-- v.bank (R204). -/
def VectorState.bankWord (v : VectorState) : BitVec 64 :=
  let parked := (v.idle.filter fun kv => match kv.2 with | .parked _ => true | _ => false).length
  BitVec.ofNat 64 (128 - v.idle.length) ||| place 64 (BitVec.ofNat 8 parked) 8 |||
    place 64 (BitVec.ofNat 8 (v.idle.length - parked)) 16 ||| flagBit 64 v.parkErr 24

/-- k.qsstat (R338). -/
def State.qsstat (s : State) : BitVec 64 :=
  let used := s.core.slag.length
  BitVec.ofNat 64 used ||| flagBit 64 (decide (s.slagCap ≤ used) && s.slagCap != 0) 12 ||| flagBit 64 (!s.slagOk) 13

/-- The head record as words (R101). -/
def State.frec (s : State) (i : Nat) : BitVec 64 :=
  match s.sys.fq with
  | r :: _ => r.bits.extractLsb' (64 * i) 64
  | [] => 0

/-- What register `n` reads as from strand `x`; write-only fields read zero. -/
def State.sysRead (s : State) (x : StrandId) (n : Nat) : BitVec 64 :=
  let y := s.sys
  let t := s.strand x
  let i := s.inbox y.pinsel.toNat
  match n with
  | 0x000 => t.flags.setWidth 64
  | 0x001 => place 64 y.nest 0 ||| place 64 y.settle 3
  | 0x002 => place 64 t.member 0 ||| place 64 t.phase 8
  | 0x003 => place 64 y.ctx 0 ||| place 64 y.qlvl 32 ||| flagBit 64 y.fmodeNow 35 ||| place 64 y.trail 36 ||| place 64 y.lcore 41
  | 0x004 => y.cycle
  | 0x005 => s.engst x
  | 0x006 => if y.budgetDone then 0 else y.budget
  | 0x010 => place 64 y.epcPc 0 ||| place 64 y.epcHdr 16 ||| place 64 y.epcRemain 32
  | 0x011 => flagBit 64 y.plvl 0 ||| flagBit 64 y.pend 1 ||| place 64 y.estatFl 32
  | 0x012 => y.tvec.setWidth 64
  | 0x013 => flagBit 64 y.yreq 0 ||| flagBit 64 y.yact 1 ||| flagBit 64 y.fdone 2
  | 0x014 => y.ydl.setWidth 64
  | 0x015 => y.step.setWidth 64
  | 0x016 => flagBit 64 y.det 0
  | 0x017 => s.kplane
  | 0x018 => s.fqWord
  | 0x020 => s.frec 0
  | 0x021 => s.frec 1
  | 0x022 => s.frec 2
  | 0x023 => s.frec 3
  | 0x024 => s.frec 4
  | 0x025 => s.frec 5
  | 0x026 => s.frec 6
  | 0x027 => s.frec 7
  | 0x030 => t.cc.setWidth 64
  | 0x040 => y.rstall.setWidth 64
  | 0x041 => y.slbase.setWidth 64
  | 0x042 => y.slsize.setWidth 64
  | 0x043 => s.slstat
  | 0x044 => y.spres.setWidth 64
  | 0x050 => s.core.vec.vmask.setWidth 64
  | 0x051 => s.core.vec.vcarry
  | 0x053 => s.core.vec.bankWord
  | 0x060 => s.core.mat.mcarry
  | 0x061 => s.core.mat.mbstat
  | 0x062 => s.core.mat.mkprog
  | 0x063 => s.core.mat.mchk
  | 0x064 => s.core.mat.mdraw
  | 0x070 => s.cpport
  | 0x080 => y.pinsel.setWidth 64
  | 0x081 => flagBit 64 i.enabled 0 ||| place 64 i.depth 1 ||| place 64 (BitVec.ofNat 8 i.landed.length) 9
  | 0x090 => place 64 y.qslagBase 0 ||| place 64 y.qslagSize 22
  | 0x091 => s.qsstat
  | 0x092 => flagBit 64 s.core.qu.pin 0
  | 0x0A0 => y.mroot
  | 0x0A1 => y.tmkey
  | 0x0A2 => place 64 i.base 0 ||| place 64 i.size 36 ||| place 64 i.key 56
  | 0x0A3 => flagBit 64 y.tmrec 0
  | 0x0A4 => y.mhost
  | 0x0A5 => i.used.setWidth 64
  | 0x0B0 => if s.pk.ftmo = 0 then 1 else s.pk.ftmo.setWidth 64
  | _ => 0

/-! ## Writing (R2) -/

/-- A write to k.fq: LOST, then POP with or without RESUME (R101). -/
def State.writeFq (s : State) (v : BitVec 64) : State :=
  let s := s.onSys fun y => { y with lost := v.extractLsb' 8 8 }
  if v.getLsbD 6 then s.popRecord (v.getLsbD 7) else s

/-- A write to k.frec1: PC, HDR and REMAIN of the head record (R102). -/
def State.writeFrec1 (s : State) (v : BitVec 64) : State :=
  s.onSys fun y => match y.fq with
    | r :: rest =>
      let r := { r with pc := v.extractLsb' 0 16, hdr := v.extractLsb' 16 16, remain := v.extractLsb' 32 32 }
      { y with fq := r :: rest }
    | [] => y

/-- A write to k.yreq (R127). -/
def State.writeYreq (s : State) (v : BitVec 64) : State :=
  if v.getLsbD 0 then (if s.sys.yreq then s else s.request s.sys.ydl.toNat) else s.clearYreq

/-- A write to v.park (R204); none while an unpark waits for a FREE bank (R206). -/
def State.parkNow (s : State) (v : BitVec 64) : Option State :=
  let tile : BitVec 6 := v.extractLsb' 0 6
  let pslot : BitVec 6 := v.extractLsb' 7 6
  if v.getLsbD 6 then s.unparkNow tile pslot else some (s.park tile pslot)

/-- A write to k.pland, ignored while frames are used (R367). -/
def State.writePland (s : State) (v : BitVec 64) : State :=
  let i := s.inbox s.sys.pinsel.toNat
  if i.used ≠ 0 then s
  else
    let i := { i with base := v.extractLsb' 0 36, size := v.extractLsb' 36 20, key := v.extractLsb' 56 7, next := 0 }
    s.putInbox s.sys.pinsel.toNat i

/-- What a write of register `n` from strand `x` does, each field under its access code. Writes of m.carry and v.park that
have to wait do here what they can (R206, R251). -/
def State.sysWrite (s : State) (x : StrandId) (n : Nat) (v : BitVec 64) : State :=
  let y := s.sys
  match n with
  | 0x000 => s.onStrand x fun t => { t with flags := v.setWidth 13 &&& 0x1F3F }
  | 0x003 => s.onSys fun y => { y with fmode := v.getLsbD 35 }
  | 0x006 => if y.budgetDone then s else s.onSys fun y => { y with budget := v }
  | 0x010 =>
    let pc : BitVec 16 := v.extractLsb' 0 16
    s.onSys fun y => { y with epcPc := pc, epcHdr := v.extractLsb' 16 16, epcRemain := v.extractLsb' 32 32 }
  | 0x011 =>
    let fl : BitVec 13 := v.extractLsb' 32 13
    s.onSys fun y => { y with plvl := v.getLsbD 0, pend := y.pend && !v.getLsbD 1, estatFl := fl }
  | 0x012 => s.onSys fun y => { y with tvec := v.setWidth 16 }
  | 0x013 => s.writeYreq v
  | 0x014 => s.onSys fun y => { y with ydl := v.setWidth 32 }
  | 0x015 => s.onSys fun y => { y with step := v.setWidth 4 }
  | 0x016 => s.onSys fun y => { y with det := v.getLsbD 0 }
  | 0x018 => s.writeFq v
  | 0x021 => s.writeFrec1 v
  | 0x030 => s.onStrand x fun t => { t with cc := v.setWidth 3 }
  | 0x040 => s.onSys fun y => { y with rstall := v.setWidth 32 }
  | 0x041 => if s.core.side.isEmpty then s.onSys fun y => { y with slbase := v.setWidth 52 &&& 0xFFFFFFFFFF000 } else s
  | 0x042 => if s.core.side.isEmpty then s.onSys fun y => { y with slsize := v.setWidth 24 } else s
  | 0x044 =>
    let r : BitVec 10 := v.setWidth 10
    s.onSys fun y => { y with spres := if 512 < r.toNat then 512 else r }
  | 0x050 => s.onVec fun t => { t with vmask := v.setWidth 4 }
  | 0x051 => s.onVec fun t => { t with vcarry := v }
  | 0x052 => (s.parkNow v).getD s
  | 0x053 => if v.getLsbD 24 then s.onVec fun t => { t with parkErr := false } else s
  | 0x060 => (s.putMcarry v).1
  | 0x063 => if v.getLsbD 48 then s.onMat fun m => { m with failed := false } else s
  | 0x080 => s.onSys fun y => { y with pinsel := v.setWidth 8 }
  | 0x081 =>
    let i := s.inbox y.pinsel.toNat
    s.putInbox y.pinsel.toNat { i with enabled := v.getLsbD 0, depth := v.extractLsb' 1 8 }
  | 0x090 =>
    let size : BitVec 7 := v.extractLsb' 22 7
    if s.core.slag.isEmpty then s.onSys fun y => { y with qslagBase := v.setWidth 22, qslagSize := size } else s
  | 0x092 => s.putPin (v.getLsbD 0)
  | 0x0A2 => s.writePland v
  | 0x0A5 => s.returnFrames (v.extractLsb' 20 20).toNat
  | _ => s

/-! ## SYSRD and SYSWR (R146) -/

/-- SYSRD. -/
def execSysrd (d : BitVec 6) (n : BitVec 10) (s : State) : Host.Outcome State Fault Refusal :=
  let x := s.cur
  .next (runItem s 2 allStrands false (regOk x d) true
    (if s.access x n.toNat = .none then .fail cSysregAccess 0 else .retire (s.putReg x d (s.sysRead x n.toNat))))

/-- SYSWR: at S a write to a register marked r changes nothing; one of m.carry or v.park stalls while it needs a FREE bank. -/
def execSyswr (d : BitVec 6) (n : BitVec 10) (s : State) : Host.Outcome State Fault Refusal :=
  let x := s.cur
  let a := s.access x n.toNat
  let v := s.reg x d
  .next (runItem s 2 allStrands false (regOk x d) true
    (if a = .none ∨ (a = .read ∧ !s.atS x) then .fail cSysregAccess 0
     else if a = .read then .retire s
     else if n = 0x060 then
       match s.putMcarry v with
       | (s, true) => .retire s
       | (s, false) => .wait s
     else if n = 0x052 then
       match s.parkNow v with
       | some s => .retire s
       | none => .wait s
     else .retire (s.sysWrite x n.toNat v)))

/-- SYSREG_WRITE: a write by the issuing strand takes effect, where it may be made. -/
def execSysregWrite (n : BitVec 10) (v : BitVec 64) (s : State) : Host.Outcome State Fault Refusal :=
  .next (if s.access s.cur n.toNat = .write then s.sysWrite s.cur n.toNat v else s)

end Sys2Proof.Machine
end

