-- ==== Sys2Proof/Machine/Dispatch.lean ====
section
/-!
DEFINITION. One arm per instruction: a direct call of its meaning.
-/
namespace Sys2Proof.Machine
open Host

def exec (i : Instr) (s : State) : Host.Outcome State Fault Refusal :=
  match i with
  | .add d a b => Sys2Proof.Machine.execAdd d a b s
  | .sub d a b => Sys2Proof.Machine.execSub d a b s
  | .mul d a b => Sys2Proof.Machine.execMul d a b s
  | .mulhI d a b => Sys2Proof.Machine.execMulhI d a b s
  | .mulhN d a b => Sys2Proof.Machine.execMulhN d a b s
  | .mulhIn d a b => Sys2Proof.Machine.execMulhIn d a b s
  | .divI d a b => Sys2Proof.Machine.execDivI d a b s
  | .divN d a b => Sys2Proof.Machine.execDivN d a b s
  | .remI d a b => Sys2Proof.Machine.execRemI d a b s
  | .remN d a b => Sys2Proof.Machine.execRemN d a b s
  | .and d a b => Sys2Proof.Machine.execAnd d a b s
  | .or d a b => Sys2Proof.Machine.execOr d a b s
  | .xor d a b => Sys2Proof.Machine.execXor d a b s
  | .andn d a b => Sys2Proof.Machine.execAndn d a b s
  | .shl d a b => Sys2Proof.Machine.execShl d a b s
  | .shr d a b => Sys2Proof.Machine.execShr d a b s
  | .sra d a b => Sys2Proof.Machine.execSra d a b s
  | .rot d a b => Sys2Proof.Machine.execRot d a b s
  | .clz d a => Sys2Proof.Machine.execClz d a s
  | .popc d a => Sys2Proof.Machine.execPopc d a s
  | .minI d a b => Sys2Proof.Machine.execMinI d a b s
  | .minN d a b => Sys2Proof.Machine.execMinN d a b s
  | .maxI d a b => Sys2Proof.Machine.execMaxI d a b s
  | .maxN d a b => Sys2Proof.Machine.execMaxN d a b s
  | .sel d a b c => Sys2Proof.Machine.execSel d a b c s
  | .cmp d a b => Sys2Proof.Machine.execCmp d a b s
  | .mov d b => Sys2Proof.Machine.execMov d b s
  | .add128 d a b => Sys2Proof.Machine.execAdd128 d a b s
  | .addImm d a imm => Sys2Proof.Machine.execAddImm d a imm s
  | .subImm d a imm => Sys2Proof.Machine.execSubImm d a imm s
  | .mulImm d a imm => Sys2Proof.Machine.execMulImm d a imm s
  | .andImm d a imm => Sys2Proof.Machine.execAndImm d a imm s
  | .orImm d a imm => Sys2Proof.Machine.execOrImm d a imm s
  | .xorImm d a imm => Sys2Proof.Machine.execXorImm d a imm s
  | .andnImm d a imm => Sys2Proof.Machine.execAndnImm d a imm s
  | .shlImm d a imm => Sys2Proof.Machine.execShlImm d a imm s
  | .shrImm d a imm => Sys2Proof.Machine.execShrImm d a imm s
  | .sraImm d a imm => Sys2Proof.Machine.execSraImm d a imm s
  | .rotImm d a imm => Sys2Proof.Machine.execRotImm d a imm s
  | .minImm d a imm => Sys2Proof.Machine.execMinImm d a imm s
  | .maxImm d a imm => Sys2Proof.Machine.execMaxImm d a imm s
  | .cmpImm d a imm => Sys2Proof.Machine.execCmpImm d a imm s
  | .limm d imm => Sys2Proof.Machine.execLimm d imm s
  | .br c d => Sys2Proof.Machine.execBr c d s
  | .jmp d => Sys2Proof.Machine.execJmp d s
  | .call d => Sys2Proof.Machine.execCall d s
  | .ret => Sys2Proof.Machine.execRet s
  | .jmpReg b => Sys2Proof.Machine.execJmpReg b s
  | .callReg b => Sys2Proof.Machine.execCallReg b s
  | .nop => Sys2Proof.Machine.execNop s
  | .halt => Sys2Proof.Machine.execHalt s
  | .bkpt e => Sys2Proof.Machine.execBkpt e s
  | .taskend => Sys2Proof.Machine.execTaskend s
  | .trap e => Sys2Proof.Machine.execTrap e s
  | .eret => Sys2Proof.Machine.execEret s
  | .sysrd d n => Sys2Proof.Machine.execSysrd d n s
  | .syswr d n => Sys2Proof.Machine.execSyswr d n s
  | .pause n => Sys2Proof.Machine.execPause n s
  | .yield => Sys2Proof.Machine.execYield s
  | .dsync l => Sys2Proof.Machine.execDsync l s
  | .fenceAcq sc => Sys2Proof.Machine.execFenceAcq sc s
  | .fenceRel sc => Sys2Proof.Machine.execFenceRel sc s
  | .fenceAr sc => Sys2Proof.Machine.execFenceAr sc s
  | .fenceP y w => Sys2Proof.Machine.execFenceP y w s
  | .ringWaitf h n => Sys2Proof.Machine.execRingWaitf h n s
  | .ringWaite h n => Sys2Proof.Machine.execRingWaite h n s
  | .cadv j => Sys2Proof.Machine.execCadv j s
  | .cset a j => Sys2Proof.Machine.execCset a j s
  | .cget d j => Sys2Proof.Machine.execCget d j s
  | .ldB d a imm => Sys2Proof.Machine.execLdB d a imm s
  | .ldH d a imm => Sys2Proof.Machine.execLdH d a imm s
  | .ldW d a imm => Sys2Proof.Machine.execLdW d a imm s
  | .ldD d a imm => Sys2Proof.Machine.execLdD d a imm s
  | .ldBN d a imm => Sys2Proof.Machine.execLdBN d a imm s
  | .ldHN d a imm => Sys2Proof.Machine.execLdHN d a imm s
  | .ldWN d a imm => Sys2Proof.Machine.execLdWN d a imm s
  | .ldWAcq d a sc imm => Sys2Proof.Machine.execLdWAcq d a sc imm s
  | .ldDAcq d a sc imm => Sys2Proof.Machine.execLdDAcq d a sc imm s
  | .ldt d a l imm => Sys2Proof.Machine.execLdt d a l imm s
  | .pref a imm => Sys2Proof.Machine.execPref a imm s
  | .stB d a imm => Sys2Proof.Machine.execStB d a imm s
  | .stH d a imm => Sys2Proof.Machine.execStH d a imm s
  | .stW d a imm => Sys2Proof.Machine.execStW d a imm s
  | .stD d a imm => Sys2Proof.Machine.execStD d a imm s
  | .stWRel d a sc imm => Sys2Proof.Machine.execStWRel d a sc imm s
  | .stDRel d a sc imm => Sys2Proof.Machine.execStDRel d a sc imm s
  | .amoAdd d a b z => Sys2Proof.Machine.execAmoAdd d a b z s
  | .amoFadd d a b => Sys2Proof.Machine.execAmoFadd d a b s
  | .amoBadd d a b => Sys2Proof.Machine.execAmoBadd d a b s
  | .amoBfin d a => Sys2Proof.Machine.execAmoBfin d a s
  | .amoMin d a b n z => Sys2Proof.Machine.execAmoMin d a b n z s
  | .amoMax d a b n z => Sys2Proof.Machine.execAmoMax d a b n z s
  | .amoAnd d a b z => Sys2Proof.Machine.execAmoAnd d a b z s
  | .amoOr d a b z => Sys2Proof.Machine.execAmoOr d a b z s
  | .amoXor d a b z => Sys2Proof.Machine.execAmoXor d a b z s
  | .amoSwap d a b z => Sys2Proof.Machine.execAmoSwap d a b z s
  | .amoCas d a b z => Sys2Proof.Machine.execAmoCas d a b z s
  | .sdef a n => Sys2Proof.Machine.execSdef a n s
  | .sgo n => Sys2Proof.Machine.execSgo n s
  | .sstop n => Sys2Proof.Machine.execSstop n s
  | .sstat d w n => Sys2Proof.Machine.execSstat d w n s
  | .scrldStream a e n => Sys2Proof.Machine.execScrldStream a e n s
  | .scrldOctet a e d => Sys2Proof.Machine.execScrldOctet a e d s
  | .scrstStream a e n => Sys2Proof.Machine.execScrstStream a e n s
  | .scrstOctet a e d => Sys2Proof.Machine.execScrstOctet a e d s
  | .ringAdvC h n => Sys2Proof.Machine.execRingAdvC h n s
  | .ringAdvP h n => Sys2Proof.Machine.execRingAdvP h n s
  | .ringPushA h w o d => Sys2Proof.Machine.execRingPushA h w o d s
  | .ringPushV h o v => Sys2Proof.Machine.execRingPushV h o v s
  | .ringPopA h w o d => Sys2Proof.Machine.execRingPopA h w o d s
  | .ringPopV h o v => Sys2Proof.Machine.execRingPopV h o v s
  | .ringDef h a => Sys2Proof.Machine.execRingDef h a s
  | .tlook d a => Sys2Proof.Machine.execTlook d a s
  | .tset d a b => Sys2Proof.Machine.execTset d a b s
  | .tready a => Sys2Proof.Machine.execTready a s
  | .treadyClr a => Sys2Proof.Machine.execTreadyClr a s
  | .tdrop a => Sys2Proof.Machine.execTdrop a s
  | .vadd d a b => Sys2Proof.Machine.execVadd d a b s
  | .vsub d a b => Sys2Proof.Machine.execVsub d a b s
  | .vmul d a b => Sys2Proof.Machine.execVmul d a b s
  | .vminI d a b => Sys2Proof.Machine.execVminI d a b s
  | .vminN d a b => Sys2Proof.Machine.execVminN d a b s
  | .vmaxI d a b => Sys2Proof.Machine.execVmaxI d a b s
  | .vmaxN d a b => Sys2Proof.Machine.execVmaxN d a b s
  | .vaddsI d a b => Sys2Proof.Machine.execVaddsI d a b s
  | .vaddsN d a b => Sys2Proof.Machine.execVaddsN d a b s
  | .vsubsI d a b => Sys2Proof.Machine.execVsubsI d a b s
  | .vsubsN d a b => Sys2Proof.Machine.execVsubsN d a b s
  | .vand d a b => Sys2Proof.Machine.execVand d a b s
  | .vor d a b => Sys2Proof.Machine.execVor d a b s
  | .vxor d a b => Sys2Proof.Machine.execVxor d a b s
  | .vandn d a b => Sys2Proof.Machine.execVandn d a b s
  | .vshl d a b => Sys2Proof.Machine.execVshl d a b s
  | .vshr d a b => Sys2Proof.Machine.execVshr d a b s
  | .vsra d a b => Sys2Proof.Machine.execVsra d a b s
  | .vceq d a b => Sys2Proof.Machine.execVceq d a b s
  | .vcltI d a b => Sys2Proof.Machine.execVcltI d a b s
  | .vcltN d a b => Sys2Proof.Machine.execVcltN d a b s
  | .vmov d a => Sys2Proof.Machine.execVmov d a s
  | .vbcs d a => Sys2Proof.Machine.execVbcs d a s
  | .vins d a b => Sys2Proof.Machine.execVins d a b s
  | .vext d a b => Sys2Proof.Machine.execVext d a b s
  | .vidx d => Sys2Proof.Machine.execVidx d s
  | .dot4S d a b => Sys2Proof.Machine.execDot4S d a b s
  | .mkAnd d a b => Sys2Proof.Machine.execMkAnd d a b s
  | .mkOr d a b => Sys2Proof.Machine.execMkOr d a b s
  | .mkXor d a b => Sys2Proof.Machine.execMkXor d a b s
  | .mkAndn d a b => Sys2Proof.Machine.execMkAndn d a b s
  | .mkSet d a => Sys2Proof.Machine.execMkSet d a s
  | .vfadd d a b => Sys2Proof.Machine.execVfadd d a b s
  | .vfsub d a b => Sys2Proof.Machine.execVfsub d a b s
  | .vfmul d a b => Sys2Proof.Machine.execVfmul d a b s
  | .vfma d a b => Sys2Proof.Machine.execVfma d a b s
  | .vfnma d a b => Sys2Proof.Machine.execVfnma d a b s
  | .vfmin d a b => Sys2Proof.Machine.execVfmin d a b s
  | .vfmax d a b => Sys2Proof.Machine.execVfmax d a b s
  | .vfabs d a => Sys2Proof.Machine.execVfabs d a s
  | .vfneg d a => Sys2Proof.Machine.execVfneg d a s
  | .vfceq d a b => Sys2Proof.Machine.execVfceq d a b s
  | .vfclt d a b => Sys2Proof.Machine.execVfclt d a b s
  | .vfcle d a b => Sys2Proof.Machine.execVfcle d a b s
  | .vfcun d a b => Sys2Proof.Machine.execVfcun d a b s
  | .vfmuls d a b => Sys2Proof.Machine.execVfmuls d a b s
  | .vfadds d a b => Sys2Proof.Machine.execVfadds d a b s
  | .rotr d a b => Sys2Proof.Machine.execRotr d a b s
  | .rotc d a b => Sys2Proof.Machine.execRotc d a b s
  | .bcr d a b => Sys2Proof.Machine.execBcr d a b s
  | .bcc d a b => Sys2Proof.Machine.execBcc d a b s
  | .redrFadd d a => Sys2Proof.Machine.execRedrFadd d a s
  | .redrFmax d a => Sys2Proof.Machine.execRedrFmax d a s
  | .redrFmin d a => Sys2Proof.Machine.execRedrFmin d a s
  | .redrAdd d a => Sys2Proof.Machine.execRedrAdd d a s
  | .redrMaxI d a => Sys2Proof.Machine.execRedrMaxI d a s
  | .redrMinI d a => Sys2Proof.Machine.execRedrMinI d a s
  | .redrMaxN d a => Sys2Proof.Machine.execRedrMaxN d a s
  | .redrMinN d a => Sys2Proof.Machine.execRedrMinN d a s
  | .redcFadd d a => Sys2Proof.Machine.execRedcFadd d a s
  | .redcFmax d a => Sys2Proof.Machine.execRedcFmax d a s
  | .redcFmin d a => Sys2Proof.Machine.execRedcFmin d a s
  | .redcAdd d a => Sys2Proof.Machine.execRedcAdd d a s
  | .redcMaxI d a => Sys2Proof.Machine.execRedcMaxI d a s
  | .redcMinI d a => Sys2Proof.Machine.execRedcMinI d a s
  | .redcMaxN d a => Sys2Proof.Machine.execRedcMaxN d a s
  | .redcMinN d a => Sys2Proof.Machine.execRedcMinN d a s
  | .cvt d a f p t => Sys2Proof.Machine.execCvt d a f p t s
  | .rcpa d a => Sys2Proof.Machine.execRcpa d a s
  | .rsqa d a => Sys2Proof.Machine.execRsqa d a s
  | .rcpn d a b => Sys2Proof.Machine.execRcpn d a b s
  | .rsqn d a b => Sys2Proof.Machine.execRsqn d a b s
  | .exp2 d a => Sys2Proof.Machine.execExp2 d a s
  | .log2 d a => Sys2Proof.Machine.execLog2 d a s
  | .rand d a b => Sys2Proof.Machine.execRand d a b s
  | .vld d a b => Sys2Proof.Machine.execVld d a b s
  | .vst d a b => Sys2Proof.Machine.execVst d a b s
  | .vgath d a b => Sys2Proof.Machine.execVgath d a b s
  | .vscat d a b => Sys2Proof.Machine.execVscat d a b s
  | .vamoAdd d a b => Sys2Proof.Machine.execVamoAdd d a b s
  | .vamoFadd d a b => Sys2Proof.Machine.execVamoFadd d a b s
  | .vamoMinI d a b => Sys2Proof.Machine.execVamoMinI d a b s
  | .vamoMinN d a b => Sys2Proof.Machine.execVamoMinN d a b s
  | .vamoMaxI d a b => Sys2Proof.Machine.execVamoMaxI d a b s
  | .vamoMaxN d a b => Sys2Proof.Machine.execVamoMaxN d a b s
  | .vamoAnd d a b => Sys2Proof.Machine.execVamoAnd d a b s
  | .vamoOr d a b => Sys2Proof.Machine.execVamoOr d a b s
  | .vamoXor d a b => Sys2Proof.Machine.execVamoXor d a b s
  | .vamoSwap d a b => Sys2Proof.Machine.execVamoSwap d a b s
  | .rowMax a e => Sys2Proof.Machine.execRowMax a e s
  | .rowExp a e => Sys2Proof.Machine.execRowExp a e s
  | .rowScl a e => Sys2Proof.Machine.execRowScl a e s
  | .chain a => Sys2Proof.Machine.execChain a s
  | .mma z q sc => Sys2Proof.Machine.execMma z q sc s
  | .mmac z q sc => Sys2Proof.Machine.execMmac z q sc s
  | .mloadb q sc => Sys2Proof.Machine.execMloadb q sc s
  | .mcsum d sc => Sys2Proof.Machine.execMcsum d sc s
  | .mseed d a b => Sys2Proof.Machine.execMseed d a b s
  | .mzero z => Sys2Proof.Machine.execMzero z s
  | .mdrain z a b => Sys2Proof.Machine.execMdrain z a b s
  | .mspill z a => Sys2Proof.Machine.execMspill z a s
  | .mfill z a => Sys2Proof.Machine.execMfill z a s
  | .mstat d => Sys2Proof.Machine.execMstat d s
  | .mchk d => Sys2Proof.Machine.execMchk d s
  | .draw a => Sys2Proof.Machine.execDraw a s
  | .drawW a => Sys2Proof.Machine.execDrawW a s
  | .cpgo a d => Sys2Proof.Machine.execCpgo a d s
  | .cpwait t d => Sys2Proof.Machine.execCpwait t d s
  | .cpstat t d => Sys2Proof.Machine.execCpstat t d s
  | .cpkill t => Sys2Proof.Machine.execCpkill t s
  | .popen d a b => Sys2Proof.Machine.execPopen d a b s
  | .pld d a b m => Sys2Proof.Machine.execPld d a b m s
  | .pst d a b m => Sys2Proof.Machine.execPst d a b m s
  | .pstref d a b => Sys2Proof.Machine.execPstref d a b s
  | .pmkref d a b => Sys2Proof.Machine.execPmkref d a b s
  | .pseal a => Sys2Proof.Machine.execPseal a s
  | .post d a b => Sys2Proof.Machine.execPost d a b s
  | .precv d a b => Sys2Proof.Machine.execPrecv d a b s
  | .precvW d a b => Sys2Proof.Machine.execPrecvW d a b s
  | .pfree a => Sys2Proof.Machine.execPfree a s
  | .qreq a l => Sys2Proof.Machine.execQreq a l s
  | .qstat d w => Sys2Proof.Machine.execQstat d w s
  | .qwait => Sys2Proof.Machine.execQwait s
  | .qresume => Sys2Proof.Machine.execQresume s
  | .qarm a l => Sys2Proof.Machine.execQarm a l s
  | .qarmClr => Sys2Proof.Machine.execQarmClr s
  | .qhoriz d j => Sys2Proof.Machine.execQhoriz d j s
  | .settle => Sys2Proof.Machine.execSettle s
  | .tlbinv a b => Sys2Proof.Machine.execTlbinv a b s
  | .tlbinvAll => Sys2Proof.Machine.execTlbinvAll s
  | .tlbsync => Sys2Proof.Machine.execTlbsync s
  | .pgdisc a b => Sys2Proof.Machine.execPgdisc a b s
  | .pgseal d a => Sys2Proof.Machine.execPgseal d a s
  | .pgsealClr a => Sys2Proof.Machine.execPgsealClr a s
  | .tmread d => Sys2Proof.Machine.execTmread d s
  | .tmreadRec d => Sys2Proof.Machine.execTmreadRec d s
  | .tmset a => Sys2Proof.Machine.execTmset a s
  | .tmsetClr => Sys2Proof.Machine.execTmsetClr s
  | .planeswRel d => Sys2Proof.Machine.execPlaneswRel d s
  | .planeswDrop d => Sys2Proof.Machine.execPlaneswDrop d s
  | .planeswHold d => Sys2Proof.Machine.execPlaneswHold d s
  | .swgstat d => Sys2Proof.Machine.execSwgstat d s
  | .swgstatRec d a => Sys2Proof.Machine.execSwgstatRec d a s
  | .swgstatHit d a => Sys2Proof.Machine.execSwgstatHit d a s
  | .swgstatLast d a => Sys2Proof.Machine.execSwgstatLast d a s
  | .nopC => Sys2Proof.Machine.execNopC s
  | .haltC => Sys2Proof.Machine.execHaltC s
  | .yieldC => Sys2Proof.Machine.execYieldC s
  | .retC => Sys2Proof.Machine.execRetC s
  | .bkptC => Sys2Proof.Machine.execBkptC s
  | .taskendC => Sys2Proof.Machine.execTaskendC s
  | .movC d b => Sys2Proof.Machine.execMovC d b s
  | .addC d b => Sys2Proof.Machine.execAddC d b s
  | .subC d b => Sys2Proof.Machine.execSubC d b s
  | .andC d b => Sys2Proof.Machine.execAndC d b s
  | .orC d b => Sys2Proof.Machine.execOrC d b s
  | .xorC d b => Sys2Proof.Machine.execXorC d b s
  | .mulC d b => Sys2Proof.Machine.execMulC d b s
  | .addCImm d imm => Sys2Proof.Machine.execAddCImm d imm s
  | .limmC d imm => Sys2Proof.Machine.execLimmC d imm s
  | .shlC d imm => Sys2Proof.Machine.execShlC d imm s
  | .shrC d imm => Sys2Proof.Machine.execShrC d imm s
  | .sraC d imm => Sys2Proof.Machine.execSraC d imm s
  | .brC c d => Sys2Proof.Machine.execBrC c d s
  | .cadvC j => Sys2Proof.Machine.execCadvC j s
  | .pauseC n => Sys2Proof.Machine.execPauseC n s
  | .ringWaitfC h n => Sys2Proof.Machine.execRingWaitfC h n s
  | .ringWaiteC h n => Sys2Proof.Machine.execRingWaiteC h n s
  | .ringAdvCC h n => Sys2Proof.Machine.execRingAdvCC h n s
  | .ringAdvPC h n => Sys2Proof.Machine.execRingAdvPC h n s
  | .ldDC d b => Sys2Proof.Machine.execLdDC d b s
  | .stDC d b => Sys2Proof.Machine.execStDC d b s
  | .cgetC d j => Sys2Proof.Machine.execCgetC d j s
  | .packageReset fail ceil => Sys2Proof.Machine.execPackageReset fail ceil s
  | .dispatchTakeEntry => Sys2Proof.Machine.execDispatchTakeEntry s
  | .planeLoadComplete => Sys2Proof.Machine.execPlaneLoadComplete s
  | .swapTokenFlip => Sys2Proof.Machine.execSwapTokenFlip s
  | .taskEnd => Sys2Proof.Machine.execTaskEnd s
  | .blockEntry => Sys2Proof.Machine.execBlockEntry s
  | .lockstepMeet => Sys2Proof.Machine.execLockstepMeet s
  | .fetchEndOfCode => Sys2Proof.Machine.execFetchEndOfCode s
  | .enterS => Sys2Proof.Machine.execEnterS s
  | .hearthDelivery => Sys2Proof.Machine.execHearthDelivery s
  | .fqPop => Sys2Proof.Machine.execFqPop s
  | .fqPopResume => Sys2Proof.Machine.execFqPopResume s
  | .yreqSet => Sys2Proof.Machine.execYreqSet s
  | .yreqClear => Sys2Proof.Machine.execYreqClear s
  | .yieldRequest => Sys2Proof.Machine.execYieldRequest s
  | .yieldDeadline => Sys2Proof.Machine.execYieldDeadline s
  | .budget => Sys2Proof.Machine.execBudget s
  | .forcedModeDone => Sys2Proof.Machine.execForcedModeDone s
  | .pauseExpiry => Sys2Proof.Machine.execPauseExpiry s
  | .ringStall x => Sys2Proof.Machine.execRingStall x s
  | .ringWaitSatisfied x => Sys2Proof.Machine.execRingWaitSatisfied x s
  | .dsyncComplete level => Sys2Proof.Machine.execDsyncComplete level s
  | .atomicResultReturn x => Sys2Proof.Machine.execAtomicResultReturn x s
  | .ldtLanding x => Sys2Proof.Machine.execLdtLanding x s
  | .horizonUpdate => Sys2Proof.Machine.execHorizonUpdate s
  | .sideLogPerform x => Sys2Proof.Machine.execSideLogPerform x s
  | .causalApply die k => Sys2Proof.Machine.execCausalApply die k s
  | .streamSlotFill q => Sys2Proof.Machine.execStreamSlotFill q s
  | .chainPassStart => Sys2Proof.Machine.execChainPassStart s
  | .chainPassComplete => Sys2Proof.Machine.execChainPassComplete s
  | .rowCommandStart => Sys2Proof.Machine.execRowCommandStart s
  | .rowPhaseEnd phase => Sys2Proof.Machine.execRowPhaseEnd phase s
  | .matrixOpBegin => Sys2Proof.Machine.execMatrixOpBegin s
  | .drawGrant => Sys2Proof.Machine.execDrawGrant s
  | .ceilChange ceil => Sys2Proof.Machine.execCeilChange ceil s
  | .matrixWaveCommit => Sys2Proof.Machine.execMatrixWaveCommit s
  | .mloadbBlockLoaded => Sys2Proof.Machine.execMloadbBlockLoaded s
  | .followOnMmaJoin step => Sys2Proof.Machine.execFollowOnMmaJoin step s
  | .chainRelease tag => Sys2Proof.Machine.execChainRelease tag s
  | .engineTakeChain engine => Sys2Proof.Machine.execEngineTakeChain engine s
  | .chainCopy tag => Sys2Proof.Machine.execChainCopy tag s
  | .chainRread tag => Sys2Proof.Machine.execChainRread tag s
  | .chainRwrite tag => Sys2Proof.Machine.execChainRwrite tag s
  | .chainRreduce tag => Sys2Proof.Machine.execChainRreduce tag s
  | .chainRoute tag => Sys2Proof.Machine.execChainRoute tag s
  | .chainBarrier tag => Sys2Proof.Machine.execChainBarrier tag s
  | .chainSignal tag => Sys2Proof.Machine.execChainSignal tag s
  | .chainLoop tag => Sys2Proof.Machine.execChainLoop tag s
  | .chainCond tag => Sys2Proof.Machine.execChainCond tag s
  | .condEngineYield tag => Sys2Proof.Machine.execCondEngineYield tag s
  | .condWaitLimit tag => Sys2Proof.Machine.execCondWaitLimit tag s
  | .chainPost tag => Sys2Proof.Machine.execChainPost tag s
  | .chainSealdrain tag => Sys2Proof.Machine.execChainSealdrain tag s
  | .chainEnd tag => Sys2Proof.Machine.execChainEnd tag s
  | .fabricPacketReceive => Sys2Proof.Machine.execFabricPacketReceive s
  | .fabricTimeout tag => Sys2Proof.Machine.execFabricTimeout tag s
  | .bindNotice pid => Sys2Proof.Machine.execBindNotice pid s
  | .quenchAccept => Sys2Proof.Machine.execQuenchAccept s
  | .quenchDrainReport => Sys2Proof.Machine.execQuenchDrainReport s
  | .quenchCommit => Sys2Proof.Machine.execQuenchCommit s
  | .quenchMemberTimeout => Sys2Proof.Machine.execQuenchMemberTimeout s
  | .qarmFire => Sys2Proof.Machine.execQarmFire s
  | .settleApply => Sys2Proof.Machine.execSettleApply s
  | .atsCompletion k status frame canRead canWrite => Sys2Proof.Machine.execAtsCompletion k status frame canRead canWrite s
  | .atsTimeout k => Sys2Proof.Machine.execAtsTimeout k s
  | .atsInvalidation first count => Sys2Proof.Machine.execAtsInvalidation first count s
  | .shootdownAck path => Sys2Proof.Machine.execShootdownAck path s
  | .demandDrainComplete k => Sys2Proof.Machine.execDemandDrainComplete k s
  | .eccCorrected site => Sys2Proof.Machine.execEccCorrected site s
  | .uncorrectableError pa => Sys2Proof.Machine.execUncorrectableError pa s
  | .eccUncorrected z elem => Sys2Proof.Machine.execEccUncorrected z elem s
  | .vPark tile pslot => Sys2Proof.Machine.execVPark tile pslot s
  | .vUnpark tile pslot => Sys2Proof.Machine.execVUnpark tile pslot s
  | .mcarryWrite v => Sys2Proof.Machine.execMcarryWrite v s
  | .qctlPinWrite pin => Sys2Proof.Machine.execQctlPinWrite pin s
  | .plringReturn n => Sys2Proof.Machine.execPlringReturn n s
  | .sysregWrite n v => Sys2Proof.Machine.execSysregWrite n v s
  | .mbLoadPatchImage => Sys2Proof.Machine.execMbLoadPatchImage s
  | .mbContext => Sys2Proof.Machine.execMbContext s
  | .mbPostBindRecord => Sys2Proof.Machine.execMbPostBindRecord s
  | .mbAttestation => Sys2Proof.Machine.execMbAttestation s
  | .mbConfigure => Sys2Proof.Machine.execMbConfigure s
  | .revokeLentCore => Sys2Proof.Machine.execRevokeLentCore s
  | .revokeCutTimeout => Sys2Proof.Machine.execRevokeCutTimeout s
  | .vfTeardown vf => Sys2Proof.Machine.execVfTeardown vf s
  | .allowanceReclaim kid => Sys2Proof.Machine.execAllowanceReclaim kid s
  | .circuitReconfigure members => Sys2Proof.Machine.execCircuitReconfigure members s
  | .sliceQuantumExpiry => Sys2Proof.Machine.execSliceQuantumExpiry s
  | .linkFlitReceive port tenant => Sys2Proof.Machine.execLinkFlitReceive port tenant s
  | .thermal95c die => Sys2Proof.Machine.execThermal95c die s
  | .thermal105c => Sys2Proof.Machine.execThermal105c s
  | .reservedSpaceItem w compact => Sys2Proof.Machine.execReservedSpaceItem w compact s
  | .illegalEncodingItem w compact => Sys2Proof.Machine.execIllegalEncodingItem w compact s
  | .condWaitSatisfied tag => Sys2Proof.Machine.execCondWaitSatisfied tag s
  | .hearthResumeOrAbandon resume => Sys2Proof.Machine.execHearthResumeOrAbandon resume s
  | .hearthRemapRewrite ctx lcore pcore slice nsm1 quant valid => Sys2Proof.Machine.execHearthRemapRewrite ctx lcore pcore slice nsm1 quant valid s
  | .slotEntryFree entry post => Sys2Proof.Machine.execSlotEntryFree entry post s
  | .flitForward port tenant => Sys2Proof.Machine.execFlitForward port tenant s
  | .linkReplay port => Sys2Proof.Machine.execLinkReplay port s
  | .contextImageWrite => Sys2Proof.Machine.execContextImageWrite s

end Sys2Proof.Machine
end

