-- ==== Sys2Proof/Machine/Issue.lean ====
section
/-!
DEFINITION. Issue: what a strand does when its turn comes (R11, R62, R65, R77, R129, R385 to R390), how time passes (R106, R128),
what is due at once, and the round in which the agents move when nothing is planned (log 2).
-/
namespace Sys2Proof.Machine

/-! ## One item (R69, R77) -/

/-- An item that the decoder refuses. -/
def refused (i : Item) : DecodeError → State → Host.Outcome State Fault Refusal
  | .reservedSpace, s => execReservedSpaceItem (itemBits i) (itemCompact i) s
  | .illegalEncoding, s => execIllegalEncodingItem (itemBits i) (itemCompact i) s

/-- An item of the issuing strand: its instruction, or the cause of the step that refuses it. -/
noncomputable def execItem (i : Item) (s : State) : Host.Outcome State Fault Refusal :=
  match decode s.cur i with
  | .ok j => exec j s
  | .error e => refused i e s

/-! ## The same in compiled code

Lean's code generator numbers no constructor that holds fields beyond 244, so compiled code goes from the item to the meaning
without building the instruction. The theorem says that this is the same function. -/

/-- Major 0x1B, straight to its meanings. -/
def privilegedNow (w : BitVec 32) (s : State) : Host.Outcome State Fault Refusal :=
  match (w.extractLsb' 0 8).toNat with
  | 0 => if w &&& 0x03F00000 = 0 then execTlbinv (w.extractLsb' 14 6) (w.extractLsb' 8 6) s else refused (.wide w) .illegalEncoding s
  | 1 => if w &&& 0x03FFFF00 = 0 then execTlbinvAll s else refused (.wide w) .illegalEncoding s
  | 8 => if w &&& 0x03FFFF00 = 0 then execTlbsync s else refused (.wide w) .illegalEncoding s
  | 16 => if w &&& 0x03F00000 = 0 then execPgdisc (w.extractLsb' 14 6) (w.extractLsb' 8 6) s else refused (.wide w) .illegalEncoding s
  | 24 => if w &&& 0x00003F00 = 0 then execPgseal (w.extractLsb' 20 6) (w.extractLsb' 14 6) s else refused (.wide w) .illegalEncoding s
  | 25 => if w &&& 0x03F03F00 = 0 then execPgsealClr (w.extractLsb' 14 6) s else refused (.wide w) .illegalEncoding s
  | 32 => if w &&& 0x000FFF00 = 0 then execTmread (w.extractLsb' 20 6) s else refused (.wide w) .illegalEncoding s
  | 33 => if w &&& 0x000FFF00 = 0 then execTmreadRec (w.extractLsb' 20 6) s else refused (.wide w) .illegalEncoding s
  | 40 => if w &&& 0x03F03F00 = 0 then execTmset (w.extractLsb' 14 6) s else refused (.wide w) .illegalEncoding s
  | 41 => if w &&& 0x03FFFF00 = 0 then execTmsetClr s else refused (.wide w) .illegalEncoding s
  | 48 => if w &&& 0x000FFF00 = 0 then execPlaneswRel (w.extractLsb' 20 6) s else refused (.wide w) .illegalEncoding s
  | 49 => if w &&& 0x000FFF00 = 0 then execPlaneswDrop (w.extractLsb' 20 6) s else refused (.wide w) .illegalEncoding s
  | 50 => if w &&& 0x000FFF00 = 0 then execPlaneswHold (w.extractLsb' 20 6) s else refused (.wide w) .illegalEncoding s
  | 56 => if w &&& 0x000FFF00 = 0 then execSwgstat (w.extractLsb' 20 6) s else refused (.wide w) .illegalEncoding s
  | 57 => if w &&& 0x00003F00 = 0 then execSwgstatRec (w.extractLsb' 20 6) (w.extractLsb' 14 6) s else refused (.wide w) .illegalEncoding s
  | 58 => if w &&& 0x00003F00 = 0 then execSwgstatHit (w.extractLsb' 20 6) (w.extractLsb' 14 6) s else refused (.wide w) .illegalEncoding s
  | 59 => if w &&& 0x00003F00 = 0 then execSwgstatLast (w.extractLsb' 20 6) (w.extractLsb' 14 6) s else refused (.wide w) .illegalEncoding s
  | _ => refused (.wide w) .illegalEncoding s

/-- Compact items, straight to their meanings. -/
def compactNow (h : BitVec 16) (s : State) : Host.Outcome State Fault Refusal :=
  match (h.extractLsb' 10 5).toNat with
  | 0 =>
    match (h.extractLsb' 0 10).toNat with
    | 0 => execNopC s
    | 1 => execHaltC s
    | 2 => execYieldC s
    | 3 => execRetC s
    | 4 => execBkptC s
    | 5 => execTaskendC s
    | _ => refused (.compact h) .illegalEncoding s
  | 1 => execMovC (h.extractLsb' 5 5) (h.extractLsb' 0 5) s
  | 2 => execAddC (h.extractLsb' 5 5) (h.extractLsb' 0 5) s
  | 3 => execSubC (h.extractLsb' 5 5) (h.extractLsb' 0 5) s
  | 4 => execAndC (h.extractLsb' 5 5) (h.extractLsb' 0 5) s
  | 5 => execOrC (h.extractLsb' 5 5) (h.extractLsb' 0 5) s
  | 6 => execXorC (h.extractLsb' 5 5) (h.extractLsb' 0 5) s
  | 7 => execMulC (h.extractLsb' 5 5) (h.extractLsb' 0 5) s
  | 8 => execAddCImm (h.extractLsb' 5 5) (h.extractLsb' 0 5) s
  | 9 => execLimmC (h.extractLsb' 5 5) (h.extractLsb' 0 5) s
  | 10 => execShlC (h.extractLsb' 5 5) (h.extractLsb' 0 5) s
  | 11 => execShrC (h.extractLsb' 5 5) (h.extractLsb' 0 5) s
  | 12 => execSraC (h.extractLsb' 5 5) (h.extractLsb' 0 5) s
  | 13 => execBrC (h.extractLsb' 6 4) (h.extractLsb' 0 6) s
  | 14 => if h &&& 0x03F8 = 0 then execCadvC (h.extractLsb' 0 3) s else refused (.compact h) .illegalEncoding s
  | 15 => execPauseC (h.extractLsb' 0 10) s
  | 16 => execRingWaitfC (h.extractLsb' 6 4) (h.extractLsb' 0 6) s
  | 17 => execRingWaiteC (h.extractLsb' 6 4) (h.extractLsb' 0 6) s
  | 18 => execRingAdvCC (h.extractLsb' 6 4) (h.extractLsb' 0 6) s
  | 19 => execRingAdvPC (h.extractLsb' 6 4) (h.extractLsb' 0 6) s
  | 20 => execLdDC (h.extractLsb' 5 5) (h.extractLsb' 0 5) s
  | 21 => execStDC (h.extractLsb' 5 5) (h.extractLsb' 0 5) s
  | 22 => if h &&& 0x0018 = 0 then execCgetC (h.extractLsb' 5 5) (h.extractLsb' 0 3) s else refused (.compact h) .illegalEncoding s
  | 30 | 31 => refused (.compact h) .reservedSpace s
  | _ => refused (.compact h) .illegalEncoding s

/-- An item of the issuing strand, straight to its meaning. -/
def execItemNow (i : Item) (s : State) : Host.Outcome State Fault Refusal :=
  match i with
  | .compact h => compactNow h s
  | .wide w =>
    if w.extractLsb' 26 5 = 0x1B then privilegedNow w s
    else match decodeLow s.cur w with
      | .ok j => exec j s
      | .error e => refused (.wide w) e s

theorem privilegedNow_eq (w : BitVec 32) (s : State) :
    privilegedNow w s = match decodePrivileged w with
      | .ok j => exec j s
      | .error e => refused (.wide w) e s := by
  unfold privilegedNow decodePrivileged
  generalize (w.extractLsb' 0 8).toNat = k
  split <;> first
    | (simp only [reservedZero]; split <;> rfl)
    | (split <;> simp_all)

theorem compactNow_eq (h : BitVec 16) (s : State) :
    compactNow h s = match decodeCompact h with
      | .ok j => exec j s
      | .error e => refused (.compact h) e s := by
  unfold compactNow decodeCompact
  generalize (h.extractLsb' 10 5).toNat = k
  generalize (h.extractLsb' 0 10).toNat = m
  split <;> first
    | rfl
    | (split <;> first | rfl | simp_all)

@[csimp] theorem execItem_eq_now : @execItem = @execItemNow := by
  funext i s
  cases i with
  | compact h => simpa [execItem, execItemNow, decode] using (compactNow_eq h s).symm
  | wide w =>
    simp only [execItem, execItemNow, decode, decodeWide]
    by_cases hw : w.extractLsb' 26 5 = 0x1B
    · rw [if_pos hw, if_pos hw]
      exact (privilegedNow_eq w s).symm
    · rw [if_neg hw, if_neg hw]

/-- The state after an item. -/
def State.native (s : State) (i : Item) : State :=
  match execItem i s with
  | .next t => t
  | _ => s

/-! ## REWRITE (R387) -/

/-- The registers a word of majors 0x00 to 0x02 writes: ADD128 a pair. -/
def aluWrites (w : BitVec 32) : List (BitVec 6) :=
  let d : BitVec 6 := w.extractLsb' 20 6
  match decodeLow .A w with
  | .ok (.add128 _ _ _) => [d, d + 1]
  | _ => [d]

/-- Whether such a word writes k.cc, as a comparison does (R137). -/
def aluCc (w : BitVec 32) : Bool :=
  match decodeLow .A w with
  | .ok (.cmp _ _ _) => true
  | .ok (.cmpImm _ _ _) => true
  | _ => false

/-- Whether a word is of majors 0x00 to 0x02. -/
def isAlu (w : BitVec 32) : Bool := decide ((w.extractLsb' 26 5).toNat ≤ 2)

/-- Adds the effects of a word that is not the last to what the last gives: registers, flags and k.cc, all of which it read
as the item found them. -/
def mergeWord (x : StrandId) (after : State) (w : BitVec 32) (s : State) : State :=
  let s := (aluWrites w).foldl (fun s r => s.putReg x r (after.reg x r)) s
  s.onStrand x fun t => { t with
    flags := t.flags ||| (after.strand x).flags, cc := if aluCc w then (after.strand x).cc else t.cc }

/-- The scalar register that an instruction writes which may raise a cause for the value of the same register as an operand. -/
def scalarDest : Instr → Option (BitVec 6)
  | .ldB d _ _ | .ldH d _ _ | .ldW d _ _ | .ldD d _ _ | .ldBN d _ _ | .ldHN d _ _ | .ldWN d _ _ | .ldWAcq d _ _ _ | .ldDAcq d _ _ _
  | .amoAdd d _ _ _ | .amoFadd d _ _ | .amoBadd d _ _ | .amoBfin d _ | .amoMin d _ _ _ _ | .amoMax d _ _ _ _ | .amoAnd d _ _ _
  | .amoOr d _ _ _ | .amoXor d _ _ _ | .amoSwap d _ _ _ | .amoCas d _ _ _ | .tlook d _ | .tset d _ _ | .cpgo _ d | .cpwait _ d
  | .cpstat _ d | .popen d _ _ | .pld d _ _ _ | .pmkref d _ _ | .post d _ _ | .precv d _ _ | .precvW d _ _ => some d
  | .vext d _ _ | .mcsum d _ => some (scalarNo d)
  | _ => none

/-- Whether a word names a register as one that it writes. -/
def namesDest (x : StrandId) (w : BitVec 32) (r : BitVec 6) : Bool :=
  if w.extractLsb' 26 5 = 0x1B then w.extractLsb' 20 6 == r
  else match decodeLow x w with
    | .ok i => scalarDest i == some r
    | .error _ => false

/-- Whether the last word wrote a register: known for majors 0x00 to 0x02, else found by running it on another value; where it cannot end
on that value, its destination field tells. -/
def lastWrites (x : StrandId) (before after : State) (w : BitVec 32) (r : BitVec 6) : Bool :=
  if isAlu w then (aluWrites w).contains r
  else
    let old := before.reg x r
    let trial := (before.putReg x r (~~~ old)).native (.wide w)
    after.reg x r != old ||
      (match trial.last with
       | .retired | .jumped => trial.reg x r != ~~~ old
       | _ => namesDest x w r)

/-- The flags and k.cc of a REWRITE: what the last word wrote, found by running it on others, stands over what the earlier words set. -/
def lastFlags (x : StrandId) (before after earlier : State) (w : BitVec 32) : BitVec 13 × BitVec 3 :=
  let other := ((before.onStrand x fun t => { t with flags := t.flags ^^^ 0x3F, cc := ~~~ t.cc }).native (.wide w)).strand x
  let t := after.strand x
  let kept := t.flags ^^^ other.flags
  (t.flags ||| (kept &&& (earlier.strand x).flags), if t.cc = other.cc then t.cc else (earlier.strand x).cc)

/-- The cut images that a REWRITE's last word has taken hold what all its words have written: it is one item (R339, R390). -/
def State.stampImages (s : State) (x : StrandId) (first : Nat) : State :=
  s.onStrand x fun t => { t with images := t.images.map fun i =>
    if first ≤ i.id then { i with s := t.s, flags := t.flags, cc := t.cc, a := s.core.areg } else i }

/-- Runs the words of a REWRITE in place of the item of strand `x`; `s` is dry. Each word reads what the item found; the
register writes take effect together, in order. -/
def rewriteWords (x : StrandId) (s : State) (ws : List (BitVec 32)) : Res :=
  let firsts := ws.dropLast
  let last := ws.getLastD 0
  let runs := firsts.map fun w => (w, s.native (.wide w))
  let bad := runs.findSome? fun p => match p.2.last with
    | .trapped c d a => some (c, d, a)
    | _ => none
  match bad with
  | some (c, d, a) => .trap c d a
  | none =>
    let t := s.native (.wide last)
    let earlier := runs.foldl (fun u p => mergeWord x p.2 p.1 u) s
    let merged := (List.range 64).foldl (fun u i =>
      let r := BitVec.ofNat 6 i
      if earlier.reg x r ≠ s.reg x r ∧ !lastWrites x s t last r then u.putReg x r (earlier.reg x r) else u) t
    let (flags, cc) := lastFlags x s t earlier last
    let merged := (merged.onStrand x fun v => { v with flags := flags, cc := cc }).stampImages x s.core.qu.nextImage
    match t.last with
    | .trapped c d a => .trap c d a
    | .waited => .wait t
    | .retired => .retire merged
    | .jumped => .jump merged

/-! ## Swage (R385 to R390) -/

/-- Gives the state of a result back its own kind of run. -/
def Res.withDry (b : Bool) : Res → Res
  | .retire t => .retire { t with dry := b }
  | .jump t => .jump { t with dry := b }
  | .wait t => .wait { t with dry := b }
  | .trap c d a => .trap c d a

/-- The action of a slot on the item of the issuing strand; a hit counts when the item ends. -/
def State.patched (s : State) (n : BitVec 4) : State :=
  let x := s.cur
  let slot := at16 s.pk.swage n
  let res : Res := match slot.act with
    | 0 => .fail cPatchTrap (slot.tcode.setWidth 64)
    | 1 => (rewriteWords x { s with dry := true } slot.payload).withDry s.dry
    | 2 => s.emulate x slot
    | _ => .wait s
  match res with
  | .wait _ => s.finishPatched x n 9 res
  | .trap _ _ _ => (s.slotActs n x).finishPatched x n 9 res
  | .retire t => s.finishPatched x n 9 (.retire (t.slotActs n x))
  | .jump t => s.finishPatched x n 9 (.jump (t.slotActs n x))

/-- The item of the issuing strand: a Swage slot acts on it, or it runs as it stands. -/
def State.oneItem (s : State) (i : Item) : Host.Outcome State Fault Refusal :=
  match s.decodeSlot s.cur i with
  | some n => .next (s.patched n)
  | none => execItem i s

/-! ## Bundles (R11) -/

/-- The state after the item at the position of strand `x`, in a bundle: what it ends with is in `last`. To fetch past the code is
to halt, which in a bundle is BAD_BLOCK (R62, R143). DESIGN CHOICE: DETAIL of a PC_ALIGN here is the position (log 18). -/
def State.dryItem (s : State) (x : StrandId) : State :=
  let s := { s with cur := x, dry := true }
  let code := s.code x
  let p := (s.strand x).pc.toNat
  if !isStart code (s.strand x).hdr.toNat p then { s with last := .trapped cPcAlign ((s.strand x).pc.setWidth 64) 0 }
  else if s.pastCode x then { s with last := .trapped cBadBlock 0 0 }
  else match s.oneItem (itemAt code p) with
    | .next t => t
    | _ => s

/-- The strands of the bundle that still have an item in this repetition (R11 item 3). -/
def State.bundleStrands (s : State) : List StrandId := strandIds.filter fun x => !s.atBodyEnd x

/-- The items of a bundle run one after the other: the state after them, and how each ended. -/
def State.runBundle (s : State) : List StrandId → State × List (StrandId × ItemEnd)
  | [] => (s, [])
  | x :: rest =>
    let t := s.dryItem x
    let (u, l) := t.runBundle rest
    (u, (x, t.last) :: l)

/-- The waits of a bundle that stalls stand; what its other items did does not. -/
def State.keepWaits (s : State) (l : List (StrandId × ItemEnd)) : State :=
  l.foldl (fun s p =>
    if p.2 = .waited then
      let t := s.dryItem p.1
      if t.last = .waited then t else s
    else s) s

/-- The end of a bundle that retires: positions move, a yield of one strand stops all four, one SINGLE_STEP is raised, and
waiting engine faults follow (R129, R105). -/
def State.endBundle (s before : State) (l : List (StrandId × ItemEnd)) : State :=
  let s := l.foldl (fun s p =>
    let len := if p.2 = .retired then before.itemLen p.1 else 0
    s.onStrand p.1 fun t => { t with
      pc := t.pc + BitVec.ofNat 16 len, hook := none, wait := none, dsync := none, synced := none }) s
  let yields := strandIds.any fun x => (s.strand x).run == .yielded
  let s := if yields then strandIds.foldl (fun s x => s.onStrand x fun t => { t with run := .yielded }) s else s
  let u := match strandIds.find? before.stepping with
    | some x =>
      let t := s.strand x
      s.raise { before.record x cSingleStep .precise 0 0 0 (before.strand x).coord .strand 0 with
        pc := t.pc, hdr := t.hdr, remain := t.remain }
    | none => s
  { strandIds.foldl (fun u x => if (s.strand x).eaf.isEmpty then u else u.deliverEaf x (s.strand x)) u with last := .retired }

/-- The cause that a bundle delivers: the lowest strand's. A BAD_BLOCK of any strand is raised on all four, so that K has one, unless its
own item raises a cause (R11, R68, R100 item 1). -/
def bundleCause (l : List (StrandId × ItemEnd)) : Option (StrandId × StrandId × BitVec 6 × BitVec 64 × BitVec 64) :=
  let traps := l.filterMap fun p => match p.2 with
    | .trapped c d a => some (p.1, c, d, a)
    | _ => none
  match traps.head? with
  | none => none
  | some (x, c, d, a) =>
    match if x = .K then none else traps.find? fun t => t.2.1 == cBadBlock with
    | some (y, t) => some (.K, y, t)
    | none => some (x, x, c, d, a)

/-- One bundle: nothing retires when an item raises a cause, and one is delivered; a stall of one stalls all (R11). -/
def State.bundle (s : State) : State :=
  if strandIds.any fun x => (s.strand x).run != .running || !(s.strand x).lockstep || !s.mayIssue x then s
  else
    let strands := s.bundleStrands
    if strands.isEmpty then s.endBundleRepetition
    else
      let (t, l) := s.runBundle strands
      match bundleCause l with
      | some (x, y, c, d, a) =>
        let s := { s with cur := x }
        match if x = y then s.decodeSlot x (s.itemOf x) else none with
        | some n => (s.slotActs n x).finishPatched x n 9 (.trap c d a)
        | none => s.finish x (s.itemLen x) (.trap c d a)
      | none =>
        if l.any fun p => p.2 == .waited then { s.keepWaits l with dry := s.dry, cur := s.cur, last := .waited }
        else { t with dry := s.dry, cur := s.cur }.endBundle s l

/-! ## A strand's turn -/

/-- Strand `x` issues: it enters a block, ends a repetition, stops past its code, or runs its item. DESIGN CHOICE: DETAIL of a PC_ALIGN
at a position that is no instruction start is that position (log 18). -/
def issue (x : StrandId) (s0 : State) : Host.Outcome State Fault Refusal :=
  let s := { s0 with cur := x, dry := false }
  if !s.mayIssue x || (s.sys.rerun && !s.atS x && !s.serialQuiet) then .next s
  else if (s.strand x).lockstep then .next s.bundle
  else if s.fetchesPast x then execFetchEndOfCode s
  else if s.atHeader x || s.atBodyEnd x then execBlockEntry s
  else if !s.atItem x then .next (s.headerTrap x cPcAlign ((s.strand x).pc.setWidth 64))
  else s.oneItem (itemAt (s.code x) (s.strand x).pc.toNat)

/-! ## Time (R106 item 4, R116, R128, R403) -/

/-- Whether a fault has stopped a strand: its own, or one of another strand of its bundle (R11 item 6, R100 item 1). -/
def State.stoppedByFault (s : State) (x : StrandId) : Bool :=
  (s.strand x).run == .faulted ||
    ((s.strand x).lockstep && strandIds.any fun y => (s.strand y).lockstep && (s.strand y).run == .faulted)

/-- Whether a cycle counts for the deadline and the budget: some strand of the task is not stopped by a fault. -/
def State.counts (s : State) : Bool :=
  s.hasTask && !s.sys.stoppedByH && strandIds.any fun x =>
    !s.atS x && !s.stoppedByFault x && (s.strand x).run != .noTask

/-- Cycles pass: k.cycle rises, and the deadline, the budget and the slice count. -/
def State.tick (s : State) (n : Nat) : State :=
  let c := s.counts
  let s := s.onSys fun y =>
    let left := y.budget.toNat - n
    let out := c && y.budget != 0 && !y.budgetDone && decide (left = 0) && n != 0
    { y with
      cycle := y.cycle + BitVec.ofNat 64 n
      deadline := if c then y.deadline.map (· - n) else y.deadline
      budget := if c && y.budget != 0 && !y.budgetDone then BitVec.ofNat 64 left else y.budget
      budgetDone := y.budgetDone || out, budgetDue := y.budgetDue || out }
  s.onPk fun k => { k with sliceRun := if c then k.sliceRun + n else k.sliceRun }

/-! ## What is due at once -/

/-- A move that may not be put off, when there is one: a landing whose cycle has come (R176), a record for Hearth, the budget,
at level 1 a request for a quench (R358), a deadline, a yield request, entry into S at an item boundary, an armed breakpoint that has been reached, the end of a PAUSE,
a ring wait's limit, circuits that have no entry left to wait for (R413), and at level 1 the horizon (R336). -/
def State.due (s : State) : Option (State → Host.Outcome State Fault Refusal) :=
  let now := s.sys.cycle.toNat
  let lands (x : StrandId) : Bool := (s.strand x).timed.any fun l => decide (l.at_ ≤ now)
  let fires : Bool := match s.core.qu.armed with
    | some (c, _) => s.reaches c.key
    | none => false
  match strandIds.find? lands with
  | some x => some (execLdtLanding x)
  | none =>
    if !s.sys.hDue.isEmpty then some execHearthDelivery
    else if s.sys.budgetDue && !s.sys.levelS && s.core.qu.st != .pending then some execBudget
    else if decide (s.sys.qlvl.toNat ≤ 1) && !s.core.qu.requests.isEmpty then some execQuenchAccept
    else if s.deadlineDue then some execYieldDeadline
    else if s.yieldsAll then some execYieldRequest
    else if s.sys.sDue && !s.sys.levelS && !s.sys.stoppedByH && s.kAtBoundary then some execEnterS
    else if fires then some execQarmFire
    else if s.pk.switching.isSome && s.remoteQuiet then some fun s => .next s.switchCircuits
    else if strandIds.any fun x => (s.strand x).pause != 0 && decide ((s.strand x).pause ≤ now) then some execPauseExpiry
    else match strandIds.find? s.stalls with
      | some x => some (execRingStall x)
      | none => if s.sys.qlvl = 1 && s.hasTask && decide (s.core.qu.hk < s.effectiveH) then some execHorizonUpdate else none

/-! ## The round of the agents (log 2) -/

/-- Another core makes the last read for the first MMA of a chain that it has queued. -/
def State.farReads (t : Nat) (s : State) : Host.Outcome State Fault Refusal :=
  let tag : BitVec 6 := BitVec.ofNat 6 t
  match s.pk.farMmas.find? (·.2.2.2 == tag) with
  | some f => execFollowOnMmaJoin (.farRead tag (BitVec.ofNat 8 (f.1 / 16))) s
  | none => .next s

/-- The moves of the engines and the system in their round, after the four strands; a limit in cycles takes effect at its
turn. -/
def agentMoves : List (State → Host.Outcome State Fault Refusal) :=
  strandIds.map execSideLogPerform ++ strandIds.map execAtomicResultReturn ++ strandIds.map execRingWaitSatisfied ++
  (List.range 4).map (fun d => execCausalApply (BitVec.ofNat 2 d) 0) ++
  (List.range 16).map (fun q => execStreamSlotFill (BitVec.ofNat 4 q)) ++
  [execMatrixOpBegin, execDrawGrant, execMloadbBlockLoaded, execMatrixWaveCommit, execRowCommandStart] ++
  (List.range 4).map (fun n => execRowPhaseEnd n) ++
  [execChainPassStart, execChainPassComplete, execHorizonUpdate, execLockstepMeet, execForcedModeDone,
    execTaskEnd, execSettleApply, execQuenchAccept, execQuenchDrainReport, execQuenchCommit] ++
  (List.range 8).map (fun l => execDsyncComplete (BitVec.ofNat 3 l)) ++
  (List.range 64).map (fun t => execChainRelease (BitVec.ofNat 6 t)) ++
  (List.range 16).map (fun e => execEngineTakeChain (BitVec.ofNat 4 e)) ++
  ([execChainCopy, execChainRread, execChainRwrite, execChainRreduce, execChainRoute, execChainBarrier, execChainSignal,
    execChainLoop, execChainCond, execCondWaitSatisfied, execCondEngineYield, execCondWaitLimit, execChainPost,
    execChainSealdrain, (fun tag => execFollowOnMmaJoin (.own tag none)), execChainEnd, execFabricTimeout] :
      List (BitVec 6 → State → Host.Outcome State Fault Refusal)).flatMap
      (fun f => (List.range 64).map fun t => f (BitVec.ofNat 6 t)) ++
  (List.range 64).map State.farReads ++ (List.range 18).map (fun p => execShootdownAck p) ++
  (List.range 16).map (fun k => execAtsTimeout k) ++
  [execQuenchMemberTimeout, execSliceQuantumExpiry, execRevokeCutTimeout, execDemandDrainComplete 0, execFabricPacketReceive,
    execDispatchTakeEntry, execPlaneLoadComplete, execSwapTokenFlip, execMbLoadPatchImage, execMbContext,
    execMbPostBindRecord, execMbAttestation, execMbConfigure]

/-- The cycles after which something falls due that waits for a number of cycles alone: a landing, the end of a PAUSE, a ring wait's
limit, the budget, the deadline. -/
def State.limits (s : State) : List Nat :=
  let now := s.sys.cycle.toNat
  (strandIds.flatMap fun x =>
    let t := s.strand x
    (t.timed.map fun l => l.at_ - now) ++ [t.pause - now] ++
      (match t.wait with | some w => [w.since + s.sys.rstall.toNat - now] | none => [])) ++
  (s.core.streams.toList.filterMap fun t => t.stall.map fun w => w.1 + s.sys.rstall.toNat - now) ++
  (if s.counts then [s.sys.budget.toNat] ++ s.sys.deadline.toList else [])

/-- How many of `n` cycles pass before something falls due. -/
def State.passes (s : State) (n : Nat) : Nat := (s.limits.filter (0 < ·)).foldl min n

/-- Whether a byte address is one of this package's memory. -/
def isMemory (pa : BitVec 52) : Bool := inHbm pa.toNat || inLpddr pa.toNat

/-- A write to this package's memory by another agent (R34). -/
def State.outsideWrite (s : State) (die : Option (BitVec 2)) (cls : Nat) (bytes : List (BitVec 52 × BitVec 8)) : State :=
  let l := bytes.filterMap fun (pa, b) => if isMemory pa then some (Loc.here pa.toNat, b) else none
  let s := match die with
    | some d => s.writeLocs d.toNat cls l
    | none => s.writeHome cls l
  s.clearPoison (l.map (·.1))

/-- Another core defines an entry of its ring table, or leaves it undefined; at HOME that clears the slot states (R162, R191). -/
def State.outsideRing (s : State) (pcore : BitVec 8) (h : BitVec 4) (e : Ring) : State :=
  let n := pcore.toNat * 16 + h.toNat
  let gen := if e.remote then (kGet Ring.zero s.pk.rings ((s.remapOf e.home.toNat).pcore.toNat * 16 + h.toNat)).gen
    else (kGet Ring.zero s.pk.rings n).gen + 1
  let r : Ring := { Ring.zero with
    base := e.base, home := e.home, remote := e.remote, valid := e.valid, ns := e.ns, su := e.su, gen := gen }
  if pcore = s.pk.pcore then s
  else
    let s := s.onPk fun k => { k with rings := kSet k.rings n r }
    if e.remote then s
    else s.onMu fun m => { m with scratch := cellClear m.scratch (scratchBase pcore.toNat + 0x3E0000 + h.toNat * 8192) 8192 }

/-- An agent of another core advances past slots of a ring, which has to allow it (R163). -/
def State.outsideAdvance (s : State) (pcore : BitVec 8) (h : BitVec 4) (producer : Bool) (core : BitVec 8) (n : Nat) (coord : Coord) : State :=
  let n0 := pcore.toNat * 16 + h.toNat
  let ring := kGet Ring.zero s.pk.rings n0
  let r : RingAt := ⟨h, n0, pcore.toNat, ring, 0⟩
  let first := (if producer then ring.tail else ring.head).toNat
  let idx := (List.range n).map fun i => (i, r.index first i)
  if !ring.valid || ring.remote || core == s.pk.pcore || !r.countOk n || idx.any (fun p => (s.slotState r p.2).full == producer) then s
  else if producer then
    let s := idx.foldl (fun t p => t.putSlot r p.2 ⟨true, r.parity first ring.pp p.1, false, coord⟩) s
    s.putRing r { ring with
      producer := none, peer := some core, tail := BitVec.ofNat 8 (r.index first n), pp := r.parity first ring.pp n }
  else
    let s := idx.foldl (fun t p => t.putSlot r p.2 { t.slotState r p.2 with full := false }) s
    s.putRing r { ring with
      consumer := none, peer := some core, head := BitVec.ofNat 8 (r.index first n), cp := r.parity first ring.cp n }

/-- An input from outside arrives; one that the other agent could not make does nothing. -/
def State.input (s : State) : Input → State
  | .request r => s.sendRequest { r with own := false }
  | .horizons h m g => s.onQu fun q => { q with peersH := h, peersMax := m, peersG := g }
  | .drained => s.onQu fun q => { q with peersReported := true }
  | .resume => s.resumeDomain
  | .settle => s.onQu fun q => { q with peerSettle := true }
  | .settled => s.onQu fun q => { q with peersSettled := true }
  | .slotStore n seq rec_ =>
    let e := kGet SlotEntry.zero s.pk.slots (n % 256)
    if e.state = .free then s.onPk fun k => { k with slots := kSet k.slots (n % 256) { e with seq := seq, rec_ := rec_ } } else s
  | .mailbox vf off v payload => s.mailWrite vf off v payload
  | .write die cls bytes => if 5 ≤ cls.toNat then s else s.outsideWrite die cls.toNat bytes
  | .hostWrite bytes => s.writeLocs s.die clsCP (bytes.map fun (a, b) => (Loc.host (hostBase + a.toNat), b))
  | .peerWrite pkg bytes =>
    if pkg = s.pk.pkg then s else s.writeLocs s.die clsCP (bytes.map fun (a, b) => (Loc.peer (peerBase pkg.toNat + a.toNat), b))
  | .atomic fn amod cls pa x d =>
    if 5 ≤ cls.toNat || !isMemory pa || pa.toNat % amoAlign fn.toNat amod != 0 then s else s.farAtomic fn.toNat amod cls.toNat pa.toNat x d
  | .scratch pcore off bytes =>
    if off.toNat + bytes.length ≤ s.scratchB pcore.toNat then s.scratchPut pcore.toNat off.toNat bytes else s
  | .reserve pcore res => if pcore = s.pk.pcore then s else s.onPk fun k => { k with spresOf := kSet k.spresOf pcore.toNat res }
  | .ringDefine pcore h e => s.outsideRing pcore h e
  | .ringAdvance pcore h producer core n c => s.outsideAdvance pcore h producer core n (Coord.ofBits c)
  | .offer o => if o.lcore = s.sys.lcore then s else s.onMat fun m => { m with peers := m.peers ++ [o] }
  | .withdraw l => s.onMat fun m => { m with peers := m.peers.filter fun o => o.lcore != l }

/-- A planned move is made. -/
def State.act (s : State) : Act → Host.Outcome State Fault Refusal
  | .event i => exec i s
  | .issue x => issue x s
  | .input i => .next (s.input i)

/-- The cycles that a planned move lets pass, then the move. What falls due on the way comes first, and the move stays planned with
the cycles that are left (R128, R176). -/
def State.moveAfter (s : State) (m : Move) : Host.Outcome State Fault Refusal :=
  let n := s.passes m.cycles
  let t := s.tick n
  if n = m.cycles && t.due.isNone then t.act m.act
  else .next { t with agenda := { m with cycles := m.cycles - n } :: t.agenda }

/-- The move whose turn it is, and the state with the turn passed on; a strand's turn takes a cycle. -/
def State.ownMove (s : State) : Host.Outcome State Fault Refusal :=
  let n := s.turn
  if n < 4 then { s with turn := n + 1 }.moveAfter ⟨1, .issue (strandOf n)⟩
  else match agentMoves[n - 4]? with
    | some f => f { s with turn := n + 1 }
    | none => .next { s with turn := 0 }

/-- One move of the machine: what is due, else the next planned move, else the agents' own round. -/
def oneMove (s : State) : Host.Outcome State Fault Refusal :=
  match s.due with
  | some f => f s
  | none =>
    match s.agenda with
    | m :: rest => { s with agenda := rest }.moveAfter m
    | [] => s.ownMove

/-! ## Placing one instruction (log 6) -/

/-- A strand in which an item is legal (R73, R76): K where it may issue it. -/
def homeStrand : Item → StrandId
  | .compact h => if h.extractLsb' 10 5 = 0x12 ∨ h.extractLsb' 10 5 = 0x13 then .A else .K
  | .wide w =>
    match (w.extractLsb' 26 5).toNat with
    | 0x0A | 0x0B | 0x0D => .A
    | 0x0C => tableClass w
    | 0x0E | 0x0F | 0x10 | 0x11 | 0x12 | 0x13 => .V
    | 0x14 => if w.extractLsb' 0 3 = 3 then .V else .K
    | 0x15 | 0x16 | 0x17 => .M
    | _ => .K

/-- A section of one block: a header that runs its body once, and one item as its body (R64). -/
def oneItemCode (i : Item) : List (BitVec 16) :=
  (Item.wide (BitVec.ofNat 32 (i.len * 2 ^ 19))).halves ++ i.halves

/-- Replaces the code section of strand `x` in an object. -/
def PlaneObject.putCode (o : PlaneObject) (x : StrandId) (code : List (BitVec 16)) : PlaneObject :=
  { o with code := match x with
    | .K => o.code.set 0 code | .A => o.code.set 1 code | .V => o.code.set 2 code | .M => o.code.set 3 code }

/-- Puts an item where its strand issues next: it becomes the body of the strand's block in the running plane, the strand
stands at it in the block's only repetition, and its turn is planned. -/
def State.placeItem (s : State) (i : Item) : State :=
  let x := homeStrand i
  let p := s.plane
  let s := s.putPlane { p with object := p.object.putCode x (oneItemCode i) }
  let s := s.onStrand x fun t => { t with pc := 2, hdr := 0, remain := 1, run := .running }
  { s with agenda := ⟨0, .issue x⟩ :: s.agenda }

end Sys2Proof.Machine
end

