-- ==== Sys2Proof/Machine/Step.lean ====
section
/-!
DEFINITION. The step of the machine, and the state in which it fetches a given instruction (log 2, log 6).
-/
namespace Sys2Proof.Machine

/-- One step: what is due, else the next planned move, else the agents' own round (log 2). -/
def step (s : State) : Host.Outcome State Fault Refusal := oneMove s

/-- The state with the instruction of a table word placed where the next step fetches: 16 bits are a compact item, 32 a
wide one (R63, R69). -/
def State.withFetchWord (s : State) (nbits w : Nat) : State :=
  s.placeItem (if nbits ≤ 16 then .compact (BitVec.ofNat 16 w) else .wide (BitVec.ofNat 32 w))

end Sys2Proof.Machine
end

