-- ==== Sys2Proof/Safety.lean ====
section
/-!
DEFINITION. The terms in which the statements speak: a strand about to issue, the state after an item that retires, jumps,
waits or raises a cause, the canonical form of the memories, and reading one byte.
-/
namespace Sys2Proof.Machine

/-! ## A strand about to run an item -/

/-- Strand `x` runs its item alone: it issues, not in a bundle or a REWRITE, it is not single-stepped, and no engine fault
waits for its step boundary (R105, R129). -/
def State.issues (s : State) (x : StrandId) : Prop :=
  s.cur = x ∧ s.dry = false ∧ s.stepping x = false ∧ (s.strand x).eaf = []

/-- The position of a strand's item is past, and what the item waited for is forgotten. -/
def Strand.settled (t : Strand) : Strand := { t with hook := none, wait := none, dsync := none }

/-- The state after an item of `len` halfwords of strand `x` that retires, its effect being in `t`: the pc moves past it. -/
def State.after (t : State) (x : StrandId) (len : Nat) : State :=
  { (t.onStrand x fun r => { r with pc := r.pc + BitVec.ofNat 16 len }.settled) with last := .retired }

/-- The state after an item of strand `x` that has set its position itself. -/
def State.arrives (t : State) (x : StrandId) : State := { (t.onStrand x (·.settled)) with last := .jumped }

/-- The state after an item that waits. -/
def State.waits (t : State) : State := { t with last := .waited }

/-- The state after an item of strand `x` that raises a precise cause (R77, R100): what the item did does not stand. -/
def State.raises (s : State) (x : StrandId) (c : BitVec 6) (detail addr : BitVec 64) : State :=
  { ((s.onStrand x (·.clearBad)).raisePrecise x c detail addr 0 0) with last := .trapped c detail addr }

/-! ## What an item leaves -/

/-- All that a strand's item may leave alone: every strand but `x`, the engines, the system registers and the package. -/
def State.restSame (s t : State) (x : StrandId) : Prop :=
  (∀ y, y ≠ x → t.strand y = s.strand y) ∧ t.core.streams = s.core.streams ∧ t.core.tags = s.core.tags ∧
    t.core.vec = s.core.vec ∧ t.core.mat = s.core.mat ∧ t.core.rowq = s.core.rowq ∧ t.core.chainq = s.core.chainq ∧
    t.core.side = s.core.side ∧ t.core.slag = s.core.slag ∧ t.core.qu = s.core.qu ∧ t.core.sys = s.core.sys ∧ t.pk = s.pk

/-- Every register of strand `x` but those named reads as before; its flags, condition register, coordinate, call stack and
run state are as before. -/
def State.regsSame (s t : State) (x : StrandId) (but : List (BitVec 6)) : Prop :=
  (∀ r, r ∉ but → t.reg x r = s.reg x r)

/-- Everything of strand `x` that is no register and no position. -/
def State.statusSame (s t : State) (x : StrandId) : Prop :=
  (t.strand x).flags = (s.strand x).flags ∧ (t.strand x).cc = (s.strand x).cc ∧ (t.strand x).coord = (s.strand x).coord ∧
    (t.strand x).calls = (s.strand x).calls ∧ (t.strand x).member = (s.strand x).member ∧
    (t.strand x).phase = (s.strand x).phase ∧ (t.strand x).run = (s.strand x).run

/-! ## Memory -/

/-- Byte `o` of the scratchpad of physical core `p`. -/
def State.scratchByte (s : State) (p o : Nat) : BitVec 8 := cellGet s.pk.mu.scratch (scratchBase p + o)

/-- The byte of global memory at physical address `pa` as die `d` has applied it. -/
def State.globalByte (s : State) (d pa : Nat) : BitVec 8 := cellGet s.pk.mu.mem (dieBase d + pa)

/-- Global memory, the scratchpads and the scratchpads that context images hold have the canonical form (log 4). -/
def State.memoriesWf (s : State) : Prop :=
  Memory.wf s.pk.mu.mem = true ∧ Memory.wf s.pk.mu.scratch = true ∧ ∀ i ∈ s.pk.images, Memory.wf i.scratch = true

/-- A fault queue within its bounds (R101): 16 records for any strand, and one more only where the K strand's own is among them. -/
def queueWithin (fq : List FaultRecord) : Bool := decide (fq.length ≤ 16 + if fq.any (·.own) then 1 else 0)

/-- The invariant of the model: canonical memories, and fault queues within their bounds, here and in context images. -/
def State.Inv (s : State) : Prop :=
  s.memoriesWf ∧ queueWithin s.sys.fq = true ∧ ∀ i ∈ s.pk.images, queueWithin i.core.sys.fq = true

/-! ## Terms of single statements -/

/-- The destination register of the arithmetic items of majors 0x00 to 0x02 and of their compact forms; ADD128 writes the
next register too. -/
def aluDest : Instr → Option (List (BitVec 6))
  | .add d _ _ | .sub d _ _ | .mul d _ _ | .mulhI d _ _ | .mulhN d _ _ | .mulhIn d _ _ | .divI d _ _ | .divN d _ _
  | .remI d _ _ | .remN d _ _ | .and d _ _ | .or d _ _ | .xor d _ _ | .andn d _ _ | .shl d _ _ | .shr d _ _ | .sra d _ _
  | .rot d _ _ | .clz d _ | .popc d _ | .minI d _ _ | .minN d _ _ | .maxI d _ _ | .maxN d _ _ | .sel d _ _ _ | .mov d _
  | .addImm d _ _ | .subImm d _ _ | .mulImm d _ _ | .andImm d _ _ | .orImm d _ _ | .xorImm d _ _ | .andnImm d _ _
  | .shlImm d _ _ | .shrImm d _ _ | .sraImm d _ _ | .rotImm d _ _ | .minImm d _ _ | .maxImm d _ _ | .limm d _ => some [d]
  | .add128 d _ _ => some [d, d + 1]
  | .movC d _ | .addC d _ | .subC d _ | .andC d _ | .orC d _ | .xorC d _ | .mulC d _ | .addCImm d _ | .limmC d _
  | .shlC d _ | .shrC d _ | .sraC d _ => some [d.setWidth 6]
  | _ => none

/-- Where strand `x` stands after a taken transfer to halfword offset `n` (R68): in the body of its block, or at a header,
which it enters afresh. -/
def goesTo (s : State) (x : StrandId) (n : Nat) : State :=
  (if isStart (s.code x) (s.strand x).hdr.toNat n then s.onStrand x fun t => { t with pc := BitVec.ofNat 16 n }
   else s.onStrand x fun t => { t with pc := BitVec.ofNat 16 n, hdr := BitVec.ofNat 16 n, remain := 0 }).arrives x

/-- Whether R68 lets strand `x` continue at a target: an instruction of its block's body, or, outside lockstep, a header; inside
the code section, and for K on its own side of the handler overlay (R119). -/
def mayGo (s : State) (x : StrandId) (target : Int) : Bool :=
  decide (0 ≤ target ∧ target < (s.code x).length) && s.levelAllows x target.toNat &&
    (isStart (s.code x) (s.strand x).hdr.toNat target.toNat ||
      (isHeader (s.code x) target.toNat && !(s.strand x).lockstep))

/-- Whether a target of a strand in lockstep leaves its block (R68, R141): it lies outside the body. -/
def leavesBlock (s : State) (x : StrandId) (target : Int) : Prop :=
  (s.strand x).lockstep = true ∧ ¬(0 ≤ target ∧ inBody (s.code x) (s.strand x).hdr.toNat target.toNat = true)

/-- Whether R68 and R119 refuse a target: it lies outside the code section, on the other side of the handler overlay, or is neither an
instruction of the block nor a header; in lockstep, within the body. -/
def refuses (s : State) (x : StrandId) (target : Int) : Prop :=
  ¬leavesBlock s x target ∧ (target < 0 ∨ (s.code x).length ≤ target ∨ s.levelAllows x target.toNat = false ∨
    (isStart (s.code x) (s.strand x).hdr.toNat target.toNat = false ∧ isHeader (s.code x) target.toNat = false))

/-- What a load of `size` bytes at `ea` by strand `x` finds: the bytes, and the state after the read. -/
def finds (s : State) (x : StrandId) (ea : BitVec 64) (size : Nat) (bs : List (BitVec 8)) (t : State) : Prop :=
  (∃ p a, s.checkAddr x ea .read size size = .ok (.scratch p a) ∧ bs = s.scratchRead p (scratchOff a) size ∧ t = s) ∨
    ∃ va, s.checkAddr x ea .read size size = .ok (.global va) ∧ s.readVirtual (s.readAs x clsLS) va size = .ok bs t

/-- The size of an access as the access fields of a record give it (R172). -/
def accessFields (kind size : Nat) (scratch : Bool) : BitVec 64 :=
  BitVec.ofNat 64 (kind + 4 * min 6 size.log2 + if scratch then 256 else 0)

/-- An address outside its space (R171 step 1). -/
def outsideSpace (ea : BitVec 64) : Prop :=
  ea.extractLsb' 56 7 ≠ 0 ∨ (ea.getLsbD 63 = true ∧ (ea.extractLsb' 32 24 ≠ 0 ∨ ea.getLsbD 31 = true))

/-- What steps 1 to 3 of R171 find first wrong at `ea`, item `i` of strand `x` raises, precise: `kind` is 0 for a load, 1 for a store and 2
for an atomic. -/
def addressFaults (s : State) (x : StrandId) (i : Instr) (ea : BitVec 64) (kind size align : Nat) : Prop :=
  let scratch := ea.getLsbD 63
  let raises (c : BitVec 6) (d a : BitVec 64) : Prop := exec i s = .next (s.raises x c d a)
  let off := ea.toNat % 2 ^ 22
  (outsideSpace ea → raises 0x0E 0x10 ea) ∧
  (¬outsideSpace ea → ea.toNat % align ≠ 0 → raises 0x14 (accessFields kind size scratch) ea) ∧
  (¬outsideSpace ea → ea.toNat % align = 0 → scratch = true →
    (∀ p, s.scratchCore (ea.setWidth 32) = .ok p →
      let top := if s.atS x then 2 ^ 22 else s.scratchB p
      top < off + size → raises 0x1A (accessFields kind size true) (ea + BitVec.ofNat 64 (top - off))) ∧
    (s.scratchCore (ea.setWidth 32) = .error 0x3B → off + size ≤ 0x3E0000 → raises 0x3B 0 ea))

/-- What steps 4 and 5 of R171 find first wrong at a global address of item `i` of strand `x`, where the core's cache holds nothing of its
page: the walk's failure, the permits, the key, and the state of a parcel there. -/
def pageFaults (s : State) (x : StrandId) (i : Instr) (ea : BitVec 64) (kind size align : Nat) : Prop :=
  let raises (c : BitVec 6) (d : BitVec 64) : Prop := exec i s = .next (s.raises x c (d ||| accessFields kind size false) ea)
  ¬outsideSpace ea → ea.getLsbD 63 = false → ea.toNat % align = 0 → s.cached pathCore ea.toNat = none →
    (∀ f, s.walk ea.toNat = .error f → raises f.cause (BitVec.ofNat 64 (f.reason * 2 ^ 60 + f.level * 2 ^ 58))) ∧
    ∀ pa w l, s.walk ea.toNat = .ok (pa, w, l) →
      let level : BitVec 64 := BitVec.ofNat 64 (l * 2 ^ 58)
      let aper := leafAper w
      let noRead : Prop := kind ≠ 1 ∧ leafR w = false
      let noWrite : Prop := kind ≠ 0 ∧ leafW w = false
      let sup : Prop := leafSup w = true ∧ s.atS x = false
      let noAtomic : Prop := kind = 2 ∧ (aper = 3 ∨ aper = 4) ∧ leafRA w = false
      let allowed : Prop := aper ≠ 0 ∧ ¬noRead ∧ ¬noWrite ∧ ¬sup ∧ ¬noAtomic
      (aper = 0 → raises 0x10 (0x3000000000000000 ||| level)) ∧
      (aper ≠ 0 → noRead ∨ noWrite → raises 0x11 (0x4000000000000000 ||| level)) ∧
      (aper ≠ 0 → ¬noRead → ¬noWrite → sup → raises 0x11 (0x5000000000000000 ||| level)) ∧
      (aper ≠ 0 → ¬noRead → ¬noWrite → ¬sup → noAtomic → raises 0x12 (0x6000000000000000 ||| level)) ∧
      (allowed → s.pk.mu.keys.getLsbD (leafKey w) = false → raises 0x17 (0x7000000000000000 ||| level)) ∧
      (allowed → s.pk.mu.keys.getLsbD (leafKey w) = true → aper ≠ 5 → (aper = 1 → s.strictRefuses (leafFrame w * 2 ^ 16) = false) →
        (∀ c d, s.parcelRefuses w (if kind = 0 then .read else if kind = 1 then .write else .atomic) = some (c, d) →
          exec i s = .next (s.raises x c d ea)) ∧
        (kind = 2 → s.parcelRefuses w .atomic = none → leafDisc w = true → raises 0x13 0)) ∧
      (allowed → s.pk.mu.keys.getLsbD (leafKey w) = true → aper = 5 → s.sys.mhost.getLsbD 20 = false → raises 0x18 (0x8000000000000000 ||| level))

/-- A load that finds a poisoned byte which no store in the side log covers raises POISON at the first one (R172, R372). -/
def poisonFaults (s : State) (x : StrandId) (i : Instr) (ea : BitVec 64) (size : Nat) : Prop :=
  ∀ c k, ¬outsideSpace ea → ea.getLsbD 63 = false → ea.toNat % size = 0 → s.cached pathCore ea.toNat = some c → (∀ level, permits c.leaf.word level (s.atS x) .read = none) →
    s.parcelRefuses c.leaf.word .read = none → leafDisc c.leaf.word = false → k < size →
    (let bad (j : Nat) : Prop := forwarded s.core.side (ea.toNat + j) = none ∧ s.anyPoison [s.locOf c (ea.toNat + j)] = true
     bad k ∧ ∀ j, j < k → ¬bad j) →
    ∃ t, exec i s = .next t ∧ t.last = .trapped 0x35 (accessFields 0 size false) (ea + BitVec.ofNat 64 k)

/-- The block of a byte of local memory stands under no key yet, or under that of a translation, if it has one (R373). -/
def State.underOne (s : State) (c : TlbEntry) (pa : Nat) : Prop :=
  ∀ k kv, c.key = some k → s.pk.mu.under.find? (·.1 == pa / 64) = some kv → kv.2 = k

/-- The block of a byte of local memory stands under the key that it stood under, or has come under its first one (R373). -/
def keyKept (s t : State) (pa : Nat) : Prop :=
  ∀ kv, s.pk.mu.under.find? (·.1 == pa / 64) = some kv → t.pk.mu.under.find? (·.1 == pa / 64) = some kv

/-- The operation of an integer atomic of `w` bits on the old value and the operand, with the old destination (R180). -/
def amoValue {w : Nat} (i : Nat) (unsigned : Bool) (m x d : BitVec w) : BitVec w :=
  if i = 0 then m + x
  else if i = 4 then (if unsigned then (if m.toNat ≤ x.toNat then m else x) else if m.toInt ≤ x.toInt then m else x)
  else if i = 5 then (if unsigned then (if m.toNat ≤ x.toNat then x else m) else if m.toInt ≤ x.toInt then x else m)
  else if i = 6 then m &&& x else if i = 7 then m ||| x else if i = 8 then m ^^^ x else if i = 9 then x
  else if m = d then x else m

/-- An exact value with its flags, rounded once to binary32; an exact zero is +0 (R94). -/
def rne32 (p : Val × Flags5) : BitVec 32 × Flags5 := if p.1.isZero then (0, p.2) else ((toF32 p.1).1, p.2 ||| (toF32 p.1).2)

/-- What an atomic of function `fn` and modifier `amod` makes of the old bytes with an operand `x` and the old destination `d`: the new
bytes, the result and the flags (R180, R181, R95 to R97). -/
def atomicOut (fn : Nat) (amod : BitVec 2) (m : List (BitVec 8)) (x d : BitVec 64) : List (BitVec 8) × BitVec 64 × Flags5 :=
  let w : BitVec 32 := BitVec.ofNat 32 (leNat m)
  let v : BitVec 64 := BitVec.ofNat 64 (leNat m)
  if fn = 1 then
    let r := rne32 ((f32Val w).add (f32Val (x.setWidth 32)))
    (toBytes 4 r.1, v, r.2)
  else if fn = 2 then (binBytes (binAdd (binsOf m) (x.setWidth 32)), (binRound (binsOf m)).1.setWidth 64, 0)
  else if fn = 3 then
    (binBytes (binNormalise (binsOf m)), (binRound (binNormalise (binsOf m))).1.setWidth 64, (binRound (binNormalise (binsOf m))).2)
  else if amod.getLsbD 0 = true then (toBytes 8 (amoValue fn (amod.getLsbD 1) v x d), v, 0)
  else
    (toBytes 4 (amoValue fn (amod.getLsbD 1) w (x.setWidth 32) (d.setWidth 32)),
      if (fn = 4 ∨ fn = 5) ∧ amod.getLsbD 1 = false then w.signExtend 64 else v, 0)

/-- The integer `(-1)^neg · m · 2^(e - k)`, for `k ≤ e`. -/
def scaledBy (k : Int) (neg : Bool) (m : Nat) (e : Int) : Int := (if neg then -(m : Int) else m) * 2 ^ (e - k).toNat

/-- What a tile source of strand V finds (R199, R214, R155): a register that no lane of a vector atomic still writes, or the full slot of
a stream of the declared layout, below B of its HOME; the lanes, and the state after the read. -/
def tileFound (s : State) (f : BitVec 7) (elems : Nat) (ta : Tile) (u : State) : Prop :=
  (f.getLsbD 6 = false ∧ s.lanesOut (f.setWidth 6) = false ∧ ta = s.tile (f.setWidth 6) ∧ u = s) ∨
  (f.getLsbD 6 = true ∧ perLane (descFmt (at16 s.core.streams (selStream f)).desc) = some elems ∧
    ∃ r, s.ringOf (descRing (at16 s.core.streams (selStream f)).desc) = .ok r ∧ s.fullWait r (selOffset f) 1 = .ready ∧
      s.scratchOk false r.pcore (r.slotOff (r.index r.ring.head.toNat (selOffset f)))
        (min 4096 (min (dataBytes (at16 s.core.streams (selStream f)).desc) r.slotSize)) = true ∧
      u = (s.consumes .V r).acquire .V (s.ringScope r) ∧
      ta = slotTile u r (r.index r.ring.head.toNat (selOffset f)) (at16 s.core.streams (selStream f)).desc)

/-- The union of the flags of the active lanes (R208). -/
def flagsOf (act : BitVec 1024) (fl : Nat → Flags5) (f : Flags5) : Prop :=
  ∀ b, b < 5 → (f.getLsbD b = true ↔ ∃ l, l < 1024 ∧ act.getLsbD l = true ∧ (fl l).getLsbD b = true)

/-- An item whose active lanes would set an enabled flag raises FP_TRAP: DETAIL names the flags and the lowest lane that would have
set an enabled one (R208, R114). -/
def vecTraps (s u : State) (i : Instr) (fl : Nat → Flags5) (f : Flags5) : Prop :=
  ∀ l, l < 1024 → u.active.getLsbD l = true → fl l &&& u.enables .V ≠ 0 →
    (∀ m, m < l → u.active.getLsbD m = true → fl m &&& u.enables .V = 0) →
    exec i s = .next (s.raises .V 0x0D (f.setWidth 64 ||| BitVec.ofNat 64 (l * 2 ^ 16)) 0)

/-- An item whose sources leave state `u` writes lane results to the active lanes of tile `d` and sets their flags, unless a flag is
enabled; inactive lanes keep their values (R202, R206, R208). -/
def vecWrites (s u : State) (d : BitVec 7) (i : Instr) (new : Nat → Flagged) : Prop :=
  ∀ f, flagsOf u.active (fun l => (new l).2) f → d.getLsbD 6 = false → u.lanesOut (tileNo d) = false →
    (f &&& u.enables .V = 0 → ∀ w, (u.addFlags .V f).snapTile (tileNo d) = some w →
      exec i s = .next ((w.putTile (tileNo d) (laneIds.map fun l =>
        if u.active.getLsbD l then (new l).1 else lane (u.tile (tileNo d)) l)).after .V 2)) ∧
    vecTraps s u i (fun l => (new l).2) f

/-- An item whose sources leave state `u` writes a bit for each active lane of mask `d`; the bits of inactive lanes stay. -/
def maskWrites (s u : State) (d : BitVec 7) (i : Instr) (new : Nat → Bool × Flags5) : Prop :=
  ∀ f, flagsOf u.active (fun l => (new l).2) f → d.toNat < 8 →
    (f &&& u.enables .V = 0 → ∃ v : BitVec 1024,
      (∀ l, l < 1024 → v.getLsbD l = if u.active.getLsbD l then (new l).1 else (u.mask (maskNo d)).getLsbD l) ∧
      exec i s = .next (((u.addFlags .V f).putMask (maskNo d) v).after .V 2)) ∧
    vecTraps s u i (fun l => (new l).2) f

/-- One node of the tree of R222 over `2^n` values from `i` on. -/
def treeOf (op : BitVec 32 → BitVec 32 → Flagged) (w : Nat → BitVec 32) : Nat → Nat → Flagged
  | 0, i => (w i, 0)
  | n + 1, i =>
    let x := treeOf op w n i
    let y := treeOf op w n (i + 2 ^ n)
    ((op x.1 y.1).1, x.2 ||| y.2 ||| (op x.1 y.1).2)

/-- The tile or mask destination of a vector item of majors 0x0E to 0x12, and its tile source fields. -/
def vecDest : Instr → Option (BitVec 7 × List (BitVec 7))
  | .vadd d a b | .vsub d a b | .vmul d a b | .vminI d a b | .vminN d a b | .vmaxI d a b | .vmaxN d a b | .vaddsI d a b
  | .vaddsN d a b | .vsubsI d a b | .vsubsN d a b | .vand d a b | .vor d a b | .vxor d a b | .vandn d a b | .vshl d a b
  | .vshr d a b | .vsra d a b | .dot4S d a b | .vfadd d a b | .vfsub d a b | .vfmul d a b | .vfma d a b | .vfnma d a b
  | .vfmin d a b | .vfmax d a b | .rcpn d a b | .rsqn d a b => some (d, [a, b])
  | .vmov d a | .vfabs d a | .vfneg d a | .vfmuls d a _ | .vfadds d a _ | .rotr d a _ | .rotc d a _ | .bcr d a _ | .bcc d a _
  | .redrFadd d a | .redrFmax d a | .redrFmin d a | .redrAdd d a | .redrMaxI d a | .redrMinI d a | .redrMaxN d a | .redrMinN d a
  | .redcFadd d a | .redcFmax d a | .redcFmin d a | .redcAdd d a | .redcMaxI d a | .redcMinI d a | .redcMaxN d a | .redcMinN d a
  | .cvt d a _ _ _ | .rcpa d a | .rsqa d a | .exp2 d a | .log2 d a => some (d, [a])
  | .vbcs d _ | .vins d _ _ | .vidx d | .rand d _ _ => some (d, [])
  | _ => none

/-- What the active lanes of a vector load find in state `s`, which the reads leave as it is (R231, R174). -/
def lanesFind (s : State) (cls : Nat) (ea : Nat → BitVec 64) (v : Nat → BitVec 32) : Prop :=
  ∀ l, l < 1024 → s.active.getLsbD l = true →
    (∃ p a, s.checkAddr .V (ea l) .read 4 1 = .ok (.scratch p a) ∧ v l = BitVec.ofNat 32 (leNat (s.scratchRead p (scratchOff a) 4))) ∨
    ∃ va bs, s.checkAddr .V (ea l) .read 4 1 = .ok (.global va) ∧ s.readVirtual (s.readAs .V cls) va 4 = .ok bs s ∧
      v l = BitVec.ofNat 32 (leNat bs)

/-- The active lanes address scratchpad, lane `l` offset `off l` of physical core `p l`. -/
def lanesScratch (s : State) (need : Need) (size : Nat) (ea : Nat → BitVec 64) (p off : Nat → Nat) : Prop :=
  ∀ l, l < 1024 → s.active.getLsbD l = true →
    ∃ w, s.checkAddr .V (ea l) need size (if size = 96 then 32 else 1) = .ok (.scratch (p l) w) ∧ scratchOff w = off l ∧ off l + size ≤ 0x3E0000

/-- Temporary `i` after the first `n` ops of a chain descriptor on the inputs `ins` (R235, R236). -/
def tempAfter (d : BitVec 2560) (ins : Nat → BitVec 32) : Nat → Nat → BitVec 32
  | 0, _ => 0
  | n + 1, i =>
    let w := chainOp d n
    let src (j : Nat) : BitVec 32 :=
      let v := opSource w j
      if v < 3 then ins v else if v < 8 then tempAfter d ins n (v - 4) else chainConst d (v - 8)
    let x := src 0
    let y := src 1
    let rnd (v : Val) : BitVec 32 := (toF32 v).1
    if opDest w = i then
      (match opCode w with
       | 0 => rnd ((f32Val x).add (f32Val y)).1
       | 1 => rnd ((f32Val x).add (f32Val y).negate).1
       | 2 => rnd ((f32Val x).mul (f32Val y)).1
       | 3 => rnd ((f32Val (src 2)).add ((f32Val x).mul (f32Val y)).1).1
       | 4 => (f32Min x y).1
       | 5 => (f32Max x y).1
       | 6 => x &&& 0x7FFFFFFF
       | 7 => x ^^^ 0x80000000
       | 8 => (f32Exp2 x).1
       | _ => x)
    else tempAfter d ins n i

/-- Element (i, j) of accumulator `z` (R249). -/
def accAt (m : MatrixState) (z i j : Nat) : BitVec 32 := cellGet m.acc (z * 65536 + i * 256 + j)

/-- Slots that an operation of `rows` rows of `kbn` blocks reads, of slots of `elems` elements (R267, R275). -/
def slotsOf (rows kbn elems : Nat) : Nat := (rows + elems / (kbn * 64) - 1) / (elems / (kbn * 64))

/-- An operation has entered the matrix queue and its item has retired, no register written. -/
def enters (s t : State) (p : MatrixOp → Prop) : Prop :=
  t.last = .retired ∧ t.core.m.pc = s.core.m.pc + 2 ∧ s.regsSame t .M [] ∧
    ∃ o, t.core.mat.queue = s.core.mat.queue ++ [o] ∧ o.coord = s.core.m.coord ∧ o.begun = false ∧ o.next = 0 ∧ o.held = false ∧ p o

/-- A request for what is lacking, `n` units, for an operation at a coordinate: none where pending requests cover it, else one more, under the
CEIL of now (R284, R422). -/
def State.asks (s : State) (n : Nat) (c : Coord) : State :=
  let pending := s.core.mat.pendUnits.toNat + (s.core.mat.pendMore.map fun r => r.1.toNat).sum
  s.onMat fun m =>
    if n ≤ pending then m
    else if m.pendUnits = 0 then { m with pendUnits := BitVec.ofNat 16 n, pendCoord := c, pendCeil := m.ceil }
    else { m with pendMore := m.pendMore ++ [(BitVec.ofNat 16 (n - pending), c, m.ceil)] }

/-- Chain `tag` stands, in RUN with an engine, at the start of an entry of a kind, and the entry passes its checks (R300, R301, R313);
no CPKILL waits for it. -/
def standsAt (s : State) (tag : BitVec 6) (kind : Nat) : Prop :=
  let c := s.chain tag
  c.state = .run ∧ tag ∉ s.pk.engineQueue ∧ c.remote = false ∧ c.followDue = false ∧ c.killing = false ∧ c.begun = false ∧ c.condSince = none ∧
    entryKind (s.entryOf c) = kind ∧ s.entryFault c (s.entryOf c) = none ∧
    (entryWce (s.entryOf c) = true →
      cellGet s.pk.consumed (s.counterKey (entryCecore (s.entryOf c)) (entryCen (s.entryOf c))) = 0)

/-- Chain `tag` has gone on to the entry at `p`, every other chain as before. -/
def goesOn (s t : State) (tag : BitVec 6) (p : Nat) : Prop :=
  (t.chain tag).p = p ∧ (t.chain tag).state = .run ∧ (t.chain tag).begun = false ∧ (t.chain tag).units = 0 ∧
    ∀ o, o ≠ tag → t.chain o = s.chain o

/-- What an access of `bs` from an address on leaves for the later entries of its chain (R301). -/
def touches (s : State) (read : Bool) (a : BitVec 64) (bs : List (BitVec 8)) : List Touch :=
  (s.chainParts a bs.length).map fun (cell, off, k) =>
    let l := (bs.drop off).take k
    ⟨cell, if read then l else s.peekRange cell l.length, l, !read⟩

/-- The record of a current handle: its generation is the record's and not 0, and it is not FREED (R316). -/
def handleFinds (s : State) (h : BitVec 64) (p : Parcel) : Prop :=
  s.parcel (h.extractLsb' 48 16).toNat = p ∧ h.extractLsb' 0 16 ≠ 0 ∧ p.gen = h.extractLsb' 0 16 ∧ p.state ≠ .freed

/-- Whether a strand stands at or above a coordinate key, or an operation there has issued and not completed (R350). -/
def reached (s : State) (k : Nat) : Prop :=
  (∃ x, (s.strand x).run ≠ .noTask ∧ k ≤ (s.strand x).coord.key) ∨ (∃ o ∈ s.opKeys, k ≤ o) ∨
    (∃ e ∈ s.core.side, e.atS = false ∧ k ≤ e.coord.key) ∨ (1 < s.sys.qlvl.toNat ∧ k ≤ s.core.qu.peersMax)

/-- The QUENCH_STOP record of a cut has been queued or waits for room (R346). -/
def stopIsQueued (t : State) : Prop :=
  ∃ r ∈ t.sys.fq ++ t.sys.fqWait, r.cause = 0x23 ∧ r.strand = .K ∧ r.eng = 8 ∧ r.coord = t.core.qu.cut ∧
    r.detail = BitVec.ofNat 64 ((if t.core.qu.passed then 1 else 0) + (if t.core.qu.fired then 2 else 0) + t.core.qu.level.toNat * 4 +
      t.core.qu.ended.toNat * 32)

/-- What the known horizon of a state has released (R21, R339): no store below it is HELD, and no image or entry of the slag log below it is kept,
but the entry image of a task with a recorded touchmark. -/
def releasedBelow (t : State) : Prop :=
  (∀ e ∈ t.core.side, e.state = .held → t.core.qu.hk ≤ e.coord.key) ∧ (∀ e ∈ t.core.slag, t.core.qu.hk ≤ e.coord.key) ∧
    ∀ x, ∀ i ∈ (t.strand x).images, t.core.qu.hk ≤ i.coord.key ∨ (i.entry = true ∧ t.sys.tmrec = true)

/-- The instructions of major 0x1B. -/
def privilegedItem : Instr → Bool
  | .tlbinv _ _ | .tlbinvAll | .tlbsync | .pgdisc _ _ | .pgseal _ _ | .pgsealClr _ | .tmread _ | .tmreadRec _ | .tmset _ | .tmsetClr
  | .planeswRel _ | .planeswDrop _ | .planeswHold _ | .swgstat _ | .swgstatRec _ _ | .swgstatHit _ _ | .swgstatLast _ _ => true
  | _ => false

/-- The page at `va` may be sealed (R375): its leaf is one of local memory that no parcel owns. -/
def maySeal (s : State) (va : Nat) : Prop :=
  ∃ pa e l, s.walk va = .ok (pa, e, l) ∧ (leafAper e = 1 ∨ leafAper e = 2) ∧ leafPV e = false

/-- The successor is ready (R123, R167): it is loaded, and every declared input stands in the tag table; a successor of another context finds
that table scrubbed, and so declares none; the restore of a saved context brings its own. -/
def successorReady (s : State) : Prop :=
  s.shadow.loaded = true ∧ (s.imageFor s.shadow.bind = none →
    (s.pk.lastCtx = some s.shadow.bind.ctx → s.inputsReady s.shadow.bind = true) ∧
      (s.pk.lastCtx ≠ some s.shadow.bind.ctx → s.shadow.bind.inputs = []))

/-- The task of an image runs on the core (R110, R112): its object is in the running plane, its references resolved, and every strand stands where
it stood, one that the save had stopped, or a record that was popped without RESUME, running on; the registers that hold references of the
object have their new values, every other its own. -/
def isRestored (s t : State) (i : Image) (o : PlaneObject) : Prop :=
  t.pk.ending = 0 ∧ t.plane.object = s.resolve o ∧ t.sys.ctx = i.core.sys.ctx ∧ t.sys.lcore = i.core.sys.lcore ∧
    (∀ n : Fin 32, (∀ p ∈ i.pairs, ∀ x, p.1 ≠ .reg x (n + 32)) → t.core.areg[n] = i.core.areg[n]) ∧
    t.core.tags = i.core.tags ∧ t.core.mat.acc = i.core.mat.acc ∧
    ∀ x, (t.strand x).pc = (i.core.strand x).pc ∧ (t.strand x).hdr = (i.core.strand x).hdr ∧ (t.strand x).remain = (i.core.strand x).remain ∧
      (∀ n : Fin 32, (∀ p ∈ i.pairs, p.1 ≠ .reg x n) → (t.strand x).s[n] = (i.core.strand x).s[n]) ∧
      (t.strand x).coord = (i.core.strand x).coord ∧ (t.strand x).flags = (i.core.strand x).flags ∧
      ((i.core.strand x).run = .saved ∨
          ((i.core.strand x).run = .faulted ∧ ∀ r ∈ i.core.sys.fq ++ i.core.sys.fqWait, r.strand = x → r.stops = false) →
        (t.strand x).run = .running)

/-- k.plane (R123). -/
def planeWord (s : State) (ready held : Bool) : BitVec 64 :=
  BitVec.ofNat 64 ((if s.sys.planeAct then 1 else 0) + (if ready then 2 else 0) + if held then 4 else 0)

/-- The dispatcher may take an entry for this core now (R397, R398); a lent core takes the borrower's alone (R406). -/
def mayTake (s : State) (e : SlotEntry) : Prop :=
  e.state = .posted ∧ ((s.bindPlace (readBind (s.bindBytes e))).valid = false ∨
    ((s.bindPlace (readBind (s.bindBytes e))).pcore = s.pk.pcore ∧ s.shadow.entry = none ∧
      ∀ p b, s.loan = some (p, b) → ∃ c ∈ s.pk.contexts, c.id = (readBind (s.bindBytes e)).ctx ∧ c.partition = b))

/-- A mailbox command has been answered: it has left the queue, and STATUS of its function's mailbox shows its sequence number and code. -/
def answered (t : State) (c : MailCommand) (rest : List MailCommand) (code : BitVec 8) : Prop :=
  t.pk.mail = rest ∧ (t.mailbox c.vf).seq = c.seq ∧ (t.mailbox c.vf).result = code

/-- K has entered S (R100 item 3, R118): its position, with the pc that the record names, stands in k.epc and its flags in k.estat, and whether it
stood at the end of its blocks is kept (R68); it stands at the handler's first header with clear flags and an empty call stack. -/
def entersS (s t : State) (pc : BitVec 16) : Prop :=
  t.sys.levelS = true ∧ t.sys.epcPc = pc ∧ t.sys.epcHdr = s.core.k.hdr ∧ t.sys.epcRemain = s.core.k.remain ∧ t.sys.estatFl = s.core.k.flags ∧
    t.sys.plvl = false ∧ t.core.k.flags = 0 ∧ t.core.k.pc = s.sys.tvec ∧ t.core.k.hdr = s.sys.tvec ∧ t.core.k.remain = 0 ∧ t.sys.sCalls = [] ∧
    (t.sys.epcEnd = true ↔ pc = s.core.k.hdr ∧ blocksEnd (s.code .K) pc.toNat = true) ∧
    t.core.k.run = if s.core.k.run = .meeting then .running else s.core.k.run

/-- The plane has a handler: k.tvec names a block header of K's code (R118). -/
def handlerStands (s : State) : Prop := s.sys.tvec ≠ 0 ∧ isHeader (s.code .K) s.sys.tvec.toNat = true

/-- A cause of the system has reached the task: a record of it is queued, or waits for room. -/
def systemCause (t : State) (c : BitVec 6) : Prop := ∃ r ∈ t.sys.fq ++ t.sys.fqWait, r.cause = c ∧ r.strand = .K ∧ r.cls = .asynchronous

/-- The forced mode applies (R107): SAVE only at level 1, where HELD stores are released and strands stop at their boundaries; else a quench to the
start of the region is asked for. -/
def forcedApplied (s t : State) : Prop :=
  (s.sys.qlvl ≤ 1 ∧ s.sys.fmode = false → t.sys.forced = some .save ∧ (∀ e ∈ t.core.side, e.state ≠ .held) ∧
    ∀ x, (s.strand x).run = .running → s.awaits x = false → (s.strand x).passed = false → (t.strand x).run = .saved) ∧
  (1 < s.sys.qlvl ∨ s.sys.fmode = true → t.sys.forced = some .rollback ∧
    ∃ q ∈ t.core.qu.requests, q.rollback = true ∧ q.own = true ∧ q.level = s.sys.qlvl ∧ q.coord = Coord.ofKey s.regionG)

/-- The state in which strand `x` issues after a move of `n` cycles. -/
def turnOf (s : State) (x : StrandId) (n : Nat) : State := { s.tick n with cur := x, dry := false }

/-- Strand `x` stands at an item of its block, alone, and may issue it (R62, R65, R77). -/
def atOwnItem (u : State) (x : StrandId) : Prop :=
  u.mayIssue x = true ∧ u.sys.rerun = false ∧ (u.strand x).lockstep = false ∧ u.pastCode x = false ∧ u.atHeader x = false ∧
    u.atBodyEnd x = false ∧ u.atItem x = true

/-- A move that takes `n` cycles comes at their end, with nothing due on the way (R128, R176). -/
def comes (u : State) (n : Nat) : Prop := u.passes n = n ∧ (u.tick n).due = none

end Sys2Proof.Machine
end

