-- ==== Sys2Proof/Certificates/Slice0/Obligations.lean ====
section
/-!
DEFINITION. The statements for the provers, family by family in the order of the opcode table. They speak in the terms of
Safety.lean.
-/
open Sys2Proof Sys2Proof.Machine

/-! ## Scalar arithmetic (R132, R136 to R138, R76) -/

/-- R136: the two-register results of major 0x00 but for DIV, REM, CMP and ADD128, on every strand and for every register its
fields may name; s0 reads zero and a write to it is discarded (R132), which `reg` and `putReg` say.
R136: CLZ gives the number of zero bits above the highest one bit, POPC the number of one bits, MOV the source. -/
def Obligations.AluRegisterResults : Prop :=
  (∀ (s : State) (x : StrandId) (d a b : BitVec 6) (c : BitVec 3), s.issues x → regOk x d = true → regOk x a = true →
     regOk x b = true →
     let A := s.reg x a
     let B := s.reg x b
     let n := B.toNat % 64
     let gives (i : Instr) (v : BitVec 64) : Prop := exec i s = .next ((s.putReg x d v).after x 2)
     gives (.add d a b) (A + B) ∧ gives (.sub d a b) (A - B) ∧ gives (.mul d a b) (A * B) ∧
     gives (.mulhI d a b) (BitVec.ofInt 64 (A.toInt * B.toInt / 2 ^ 64)) ∧
     gives (.mulhN d a b) (BitVec.ofNat 64 (A.toNat * B.toNat / 2 ^ 64)) ∧
     gives (.mulhIn d a b) (BitVec.ofInt 64 (A.toInt * (B.toNat : Int) / 2 ^ 64)) ∧
     gives (.and d a b) (A &&& B) ∧ gives (.or d a b) (A ||| B) ∧ gives (.xor d a b) (A ^^^ B) ∧
     gives (.andn d a b) (A &&& ~~~B) ∧ gives (.shl d a b) (A <<< n) ∧ gives (.shr d a b) (A >>> n) ∧
     gives (.sra d a b) (A.sshiftRight n) ∧ gives (.rot d a b) (A.rotateRight n) ∧
     gives (.minI d a b) (if A.toInt ≤ B.toInt then A else B) ∧ gives (.minN d a b) (if A.toNat ≤ B.toNat then A else B) ∧
     gives (.maxI d a b) (if A.toInt ≤ B.toInt then B else A) ∧ gives (.maxN d a b) (if A.toNat ≤ B.toNat then B else A) ∧
     gives (.sel d a b c) (if condHolds (c.toNat + 1) (s.strand x).cc then A else B)) ∧
  (∀ (s : State) (x : StrandId) (d a : BitVec 6), s.issues x → regOk x d = true → regOk x a = true →
     let A := s.reg x a
     let gives (i : Instr) (v : BitVec 64) : Prop := exec i s = .next ((s.putReg x d v).after x 2)
     (∃ n : Nat, n ≤ 64 ∧ gives (.clz d a) (BitVec.ofNat 64 n) ∧ (∀ i, 64 - n ≤ i → A.getLsbD i = false) ∧
       (n < 64 → A.getLsbD (63 - n) = true)) ∧
     gives (.popc d a) (BitVec.ofNat 64 ((List.range 64).countP fun i => A.getLsbD i)) ∧ gives (.mov d a) A)

/-- R137: DIV and REM round toward zero, −2^63 by −1 gives −2^63 with remainder 0, and a zero divisor raises DIVIDE_ZERO with
DETAIL 0 and writes nothing.
R137, R138: CMP writes EQ, LT and LTU to k.cc and to the destination, for a register and for a sign-extended immediate.
R137: ADD128 adds the pairs modulo 2^128 and writes both halves, the low one first; an odd register is
ILLEGAL_ENCODING. -/
def Obligations.DivisionCompareAndAdd128Results : Prop :=
  (∀ (s : State) (x : StrandId) (d a b : BitVec 6), s.issues x → regOk x d = true → regOk x a = true → regOk x b = true →
     let A := s.reg x a
     let B := s.reg x b
     let gives (i : Instr) (v : BitVec 64) : Prop :=
       exec i s = .next (if B = 0 then s.raises x 0x0C 0 0 else (s.putReg x d v).after x 2)
     let q : Int := if A.toInt = -2 ^ 63 ∧ B.toInt = -1 then -2 ^ 63 else A.toInt.tdiv B.toInt
     gives (.divI d a b) (BitVec.ofInt 64 q) ∧ gives (.remI d a b) (BitVec.ofInt 64 (A.toInt - q * B.toInt)) ∧
     gives (.divN d a b) (BitVec.ofNat 64 (A.toNat / B.toNat)) ∧
     gives (.remN d a b) (BitVec.ofNat 64 (A.toNat - A.toNat / B.toNat * B.toNat))) ∧
  ((∀ (s : State) (x : StrandId) (d a b : BitVec 6) (i : BitVec 10), s.issues x → regOk x d = true → regOk x a = true →
      let A := s.reg x a
      let cc (B : BitVec 64) : Nat := (if A = B then 1 else 0) + 2 * (if A.toInt < B.toInt then 1 else 0) +
        4 * (if A.toNat < B.toNat then 1 else 0)
      let gives (j : Instr) (B : BitVec 64) : Prop :=
        exec j s = .next (((s.putCc x (BitVec.ofNat 3 (cc B))).putReg x d (BitVec.ofNat 64 (cc B))).after x 2)
      (regOk x b = true → gives (.cmp d a b) (s.reg x b)) ∧ gives (.cmpImm d a i) (i.signExtend 64)) ∧
   (∀ (s : State) (x : StrandId) (d a b : BitVec 6), s.issues x → regOk x d = true → regOk x a = true → regOk x b = true →
      let even (r : BitVec 6) : Bool := decide (r.toNat % 2 = 0)
      let sum := (s.reg x (a + 1)).toNat * 2 ^ 64 + (s.reg x a).toNat + (s.reg x (b + 1)).toNat * 2 ^ 64 + (s.reg x b).toNat
      exec (.add128 d a b) s = .next (
        if even d && even a && even b then
          ((s.putReg x d (BitVec.ofNat 64 sum)).putReg x (d + 1) (BitVec.ofNat 64 (sum % 2 ^ 128 / 2 ^ 64))).after x 2
        else s.raises x 0x01 0 0)))

/-- R138: the immediate forms act as the register forms on a sign-extended immediate, the shifts on a count of six bits, and
LIMM writes its sign-extended constant.
R76: each compact arithmetic form has the effect of the form it is an alias of, and the pc moves one halfword. -/
def Obligations.AluImmediateAndCompactResults : Prop :=
  (∀ (s : State) (x : StrandId) (d a : BitVec 6) (i : BitVec 10) (n : BitVec 6) (l : BitVec 20), s.issues x →
     regOk x d = true → regOk x a = true →
     let A := s.reg x a
     let B : BitVec 64 := i.signExtend 64
     let gives (j : Instr) (v : BitVec 64) : Prop := exec j s = .next ((s.putReg x d v).after x 2)
     gives (.addImm d a i) (A + B) ∧ gives (.subImm d a i) (A - B) ∧ gives (.mulImm d a i) (A * B) ∧
     gives (.andImm d a i) (A &&& B) ∧ gives (.orImm d a i) (A ||| B) ∧ gives (.xorImm d a i) (A ^^^ B) ∧
     gives (.andnImm d a i) (A &&& ~~~B) ∧ gives (.shlImm d a n) (A <<< n.toNat) ∧ gives (.shrImm d a n) (A >>> n.toNat) ∧
     gives (.sraImm d a n) (A.sshiftRight n.toNat) ∧ gives (.rotImm d a n) (A.rotateRight n.toNat) ∧
     gives (.minImm d a i) (if A.toInt ≤ B.toInt then A else B) ∧ gives (.maxImm d a i) (if A.toInt ≤ B.toInt then B else A) ∧
     gives (.limm d l) (l.signExtend 64)) ∧
  (∀ (s : State) (x : StrandId) (d b i : BitVec 5), s.issues x →
     let D : BitVec 6 := d.setWidth 6
     let A := s.reg x D
     let B := s.reg x (b.setWidth 6)
     let gives (j : Instr) (v : BitVec 64) : Prop := exec j s = .next ((s.putReg x D v).after x 1)
     gives (.movC d b) B ∧ gives (.addC d b) (A + B) ∧ gives (.subC d b) (A - B) ∧ gives (.andC d b) (A &&& B) ∧
     gives (.orC d b) (A ||| B) ∧ gives (.xorC d b) (A ^^^ B) ∧ gives (.mulC d b) (A * B) ∧
     gives (.addCImm d i) (A + i.signExtend 64) ∧ gives (.limmC d i) (i.signExtend 64) ∧ gives (.shlC d i) (A <<< i.toNat) ∧
     gives (.shrC d i) (A >>> i.toNat) ∧ gives (.sraC d i) (A.sshiftRight i.toNat))

/-- R132, R136 to R138: the frame of every arithmetic item but CMP. When it retires, every register but its destination, the
flags, k.cc, the coordinate, the other strands, the engines, the system registers and every byte of memory are as before.
R77 step 7, R71: on K, V and M an address register is WRONG_STRAND, whichever of its fields an arithmetic item names it
in; nothing the item does stands. -/
def Obligations.AluFrame : Prop :=
  (∀ (i : Instr) (dest : List (BitVec 6)) (s t : State) (x : StrandId), aluDest i = some dest → s.issues x → exec i s = .next t →
     t.last = .retired →
     s.regsSame t x dest ∧ s.statusSame t x ∧ s.restSame t x ∧ (∀ y, y ≠ x → (∀ r, r.getLsbD 5 = false → t.reg y r = s.reg y r)) ∧
     (∀ p o, t.scratchByte p o = s.scratchByte p o) ∧ ∀ d pa, t.globalByte d pa = s.globalByte d pa) ∧
  (∀ (s : State) (x : StrandId) (d a b : BitVec 6) (i : BitVec 10), s.issues x → x ≠ .A →
     (d.getLsbD 5 = true ∨ a.getLsbD 5 = true ∨ b.getLsbD 5 = true) →
     exec (.add d a b) s = .next (s.raises x 0x03 0 0) ∧ exec (.cmp d a b) s = .next (s.raises x 0x03 0 0) ∧
     exec (.divI d a b) s = .next (s.raises x 0x03 0 0) ∧
     (d.getLsbD 5 = true ∨ a.getLsbD 5 = true → exec (.addImm d a i) s = .next (s.raises x 0x03 0 0)))

/-! ## Conditions and control flow (R139 to R145, R68, R76, R119) -/

/-- R140, R139, R76: which conditions hold for EQ, LT and LTU of k.cc; and BR.cond and its compact form: a branch whose condition holds continues at pc + displacement where R68 allows
it, one whose condition does not hold goes on with the next item, one whose target R68 or R119 refuses is PC_ALIGN at the branch, and conditions
11 to 15 are ILLEGAL_ENCODING.
R141, R68: JMP continues at its target. A target outside the code section, or one that is neither an instruction of the
block nor a header, raises PC_ALIGN with its low 16 bits in DETAIL, at the jump.
R68, R141: in lockstep a transfer out of the body is BAD_BLOCK; that one to the block's own header is, too, is the model's choice
(log 18). -/
def Obligations.BranchAndJumpResults : Prop :=
  ((∀ cc : BitVec 3,
     let eq := cc.getLsbD 0
     let lt := cc.getLsbD 1
     let ltu := cc.getLsbD 2
     condHolds 0 cc = true ∧ condHolds 1 cc = eq ∧ condHolds 2 cc = !eq ∧ condHolds 3 cc = lt ∧ condHolds 4 cc = !lt ∧
     condHolds 5 cc = ltu ∧ condHolds 6 cc = !ltu ∧ condHolds 7 cc = (!lt && !eq) ∧ condHolds 8 cc = (lt || eq) ∧
     condHolds 9 cc = (!ltu && !eq) ∧ condHolds 10 cc = (ltu || eq)) ∧
   ∀ (s : State) (x : StrandId) (c : BitVec 4) (d : BitVec 22) (e : BitVec 6), s.issues x →
     let pc : Int := (s.strand x).pc.toNat
     let runs (i : Instr) (len : Nat) (disp : Int) : Prop :=
       (11 ≤ c.toNat → exec i s = .next (s.raises x 0x01 0 0)) ∧
       (c.toNat < 11 → condHolds c.toNat (s.strand x).cc = false → exec i s = .next (s.after x len)) ∧
       (c.toNat < 11 → condHolds c.toNat (s.strand x).cc = true → mayGo s x (pc + disp) = true →
         exec i s = .next (goesTo s x (pc + disp).toNat)) ∧
       (c.toNat < 11 → condHolds c.toNat (s.strand x).cc = true → leavesBlock s x (pc + disp) →
         exec i s = .next (s.raises x 0x04 0 0)) ∧
       (c.toNat < 11 → condHolds c.toNat (s.strand x).cc = true → refuses s x (pc + disp) →
         exec i s = .next (s.raises x 0x0B ((BitVec.ofInt 16 (pc + disp)).setWidth 64) 0))
     runs (.br c d) 2 d.toInt ∧ runs (.brC c e) 1 e.toInt) ∧
  (∀ (s : State) (x : StrandId) (d : BitVec 22) (b : BitVec 5), s.issues x →
     let pc : Int := (s.strand x).pc.toNat
     let runs (i : Instr) (target : Int) : Prop :=
       (mayGo s x target = true → exec i s = .next (goesTo s x target.toNat)) ∧
       (leavesBlock s x target → exec i s = .next (s.raises x 0x04 0 0)) ∧
       (refuses s x target →
         exec i s = .next (s.raises x 0x0B ((BitVec.ofInt 16 target).setWidth 64) 0))
     runs (.jmp d) (pc + d.toInt) ∧ runs (.jmpReg b) (s.reg x (b.setWidth 6)).toNat)

/-- R141, R134: CALL pushes the offset after it, the header and the remaining count, then continues at its target; with 16 entries
on the stack it is OPERAND_RANGE 0x01.
R141, R76: RET returns to the pc, header and count on top of the stack, at an instruction of the caller's block or just past
its body; with an empty stack it is OPERAND_RANGE 0x02. -/
def Obligations.CallAndReturnResults : Prop :=
  (∀ (s : State) (x : StrandId) (d : BitVec 22) (b : BitVec 5), s.issues x →
     let t := s.strand x
     let entry : CallEntry := ⟨BitVec.ofNat 16 (t.pc.toNat + 2), t.hdr, t.remain⟩
     let runs (i : Instr) (target : Int) : Prop :=
       (16 ≤ (s.callStack x).length → exec i s = .next (s.raises x 0x0E 0x01 0)) ∧
       ((s.callStack x).length < 16 → mayGo s x target = true →
         exec i s = .next (goesTo (s.putCalls x (entry :: s.callStack x)) x target.toNat))
     runs (.call d) ((t.pc.toNat : Int) + d.toInt) ∧ runs (.callReg b) (s.reg x (b.setWidth 6)).toNat) ∧
  (∀ (s : State) (x : StrandId), s.issues x →
     (s.callStack x = [] → exec .ret s = .next (s.raises x 0x0E 0x02 0) ∧ exec .retC s = .next (s.raises x 0x0E 0x02 0)) ∧
     ∀ (e : CallEntry) (rest : List CallEntry), s.callStack x = e :: rest → isHeader (s.code x) e.hdr.toNat = true →
       (isStart (s.code x) e.hdr.toNat e.pc.toNat = true ∨ e.pc.toNat = bodyEnd (s.code x) e.hdr.toNat) →
       s.levelAllows x e.pc.toNat = true → ((s.strand x).lockstep = true → e.hdr = (s.strand x).hdr) →
       let t := ((s.putCalls x rest).onStrand x fun t => { t with pc := e.pc, hdr := e.hdr, remain := e.remain }).arrives x
       exec .ret s = .next t ∧ exec .retC s = .next t)

/-- R143, R122: NOP only moves the pc. HALT stops the strand and TASKEND ends K's part of the task; at S both are PRIVILEGED, in a
bundle BAD_BLOCK; TASKEND on another strand is WRONG_STRAND. R144: TRAP raises SOFT_TRAP at T and HYPERCALL at S,
BKPT raises BREAKPOINT, each with its code in DETAIL. -/
def Obligations.StopAndTrapResults : Prop :=
  ∀ (s : State) (x : StrandId) (e : BitVec 12), s.issues x →
    let stops (r : Run) (len : Nat) : State :=
      if s.atS x then s.raises x 0x06 0 0
      else if (s.strand x).lockstep then s.raises x 0x04 0 0
      else (s.onStrand x fun t => { t with run := r, pc := t.pc + BitVec.ofNat 16 len }).arrives x
    exec .nop s = .next (s.after x 2) ∧ exec .nopC s = .next (s.after x 1) ∧
    exec .halt s = .next (stops .halted 2) ∧ exec .haltC s = .next (stops .halted 1) ∧
    exec .taskend s = .next (if x = .K then stops .taskEnd 2 else s.raises x 0x03 0 0) ∧
    exec .taskendC s = .next (if x = .K then stops .taskEnd 1 else s.raises x 0x03 0 0) ∧
    exec (.trap e) s = .next (s.raises x (if s.atS x then 0x3E else 0x0A) (e.setWidth 64) 0) ∧
    exec (.bkpt e) s = .next (s.raises x 0x08 (e.setWidth 64) 0) ∧ exec .bkptC s = .next (s.raises x 0x08 0 0)

/-- R118, R145, R68: ERET at S puts K back at k.epc with the flags of k.estat, at the level PLVL names; with PEND clear it runs on
there: within the block at HDR or just past its body, inside the code section, or at a header that it enters afresh. On another strand it is
WRONG_STRAND, at T PRIVILEGED. That a position which is neither is PC_ALIGN at the ERET, with the position in DETAIL, and that the end of
the blocks is not where K entered S from there, are the model's choices (log 18).
R126, R148, R106: PAUSE lowers the strand's priority for a stated number of cycles and is OPERAND_RANGE 0x04 for zero; in a bundle
it has no effect. YIELD stops the strand when a yield request is active, and not at S, nor while a quench drains (R106 item 4). -/
def Obligations.EretPauseAndYieldResults : Prop :=
  (∀ (s : State) (x : StrandId), s.issues x →
     (x ≠ .K → exec .eret s = .next (s.raises x 0x03 0 0)) ∧
     (x = .K → s.sys.levelS = false → exec .eret s = .next (s.raises x 0x06 0 0)) ∧
     (x = .K → s.sys.levelS = true → s.sys.pend = false → s.sys.kHeld = none → (s.strand .K).run = .running →
       (s.sys.plvl = true → s.sys.tvec.toNat ≤ s.sys.epcPc.toNat) →
       let code := s.code .K
       let h := s.sys.epcHdr.toNat
       let p := s.sys.epcPc.toNat
       let inBlock : Prop := isHeader code h = true ∧ ((isStart code h p = true ∧ p < code.length) ∨ (p = bodyEnd code h ∧ p ≤ code.length))
       let returns (hdr : BitVec 16) (remain : BitVec 32) : Prop :=
         ∃ t, exec .eret s = .next t ∧ (t.strand .K).pc = s.sys.epcPc ∧ (t.strand .K).hdr = hdr ∧
           (t.strand .K).remain = remain ∧ (t.strand .K).flags = s.sys.estatFl &&& 0x1F3F ∧
           (t.strand .K).s = (s.strand .K).s ∧ t.sys.levelS = s.sys.plvl ∧ t.sys.fq = s.sys.fq ∧ t.pk = s.pk ∧
           ∀ y, y ≠ .K → t.strand y = s.strand y
       (inBlock → returns s.sys.epcHdr s.sys.epcRemain) ∧
       (¬inBlock → isHeader code p = true → returns s.sys.epcPc (if p = h then s.sys.epcRemain else 0)) ∧
       (¬inBlock → isHeader code p = false → (s.sys.epcEnd = true → blocksEnd code p = true → p ≠ h) →
         exec .eret s = .next (s.raises .K 0x0B (s.sys.epcPc.setWidth 64) 0)))) ∧
  (∀ (s : State) (x : StrandId) (n : BitVec 16) (m : BitVec 10), s.issues x →
     let pauses (i : Instr) (len k : Nat) : Prop :=
       exec i s = .next (
         if k = 0 then s.raises x 0x0E 0x04 0
         else if (s.strand x).lockstep then s.after x len
         else (s.onStrand x fun t => { t with pause := s.sys.cycle.toNat + k }).after x len)
     let yields (i : Instr) (len : Nat) : Prop :=
       exec i s = .next (
         if s.sys.yreq && s.sys.yact && !s.atS x && s.core.qu.st != .pending then (s.onStrand x fun t => { t with run := .yielded }).after x len
         else s.after x len)
     pauses (.pause n) 2 n.toNat ∧ pauses (.pauseC m) 1 m.toNat ∧ yields .yield 2 ∧ yields .yieldC 1)

/-! ## Coordinates (R16, R153) -/

/-- R153, R16: CADV and CSET raise the coordinate of dimension j and put the inner ones to zero; they refuse a dimension outside the
nest, an overflow, a fall of the coordinate and, at S, any change. With room for the cut image, or below the known horizon, the
change is made, and the pc moves past the item. A CSET to the present coordinate changes nothing.
R153: CGET reads a coordinate register into the low half of its destination; c6 and c7 are OPERAND_RANGE 0x03. R16: an advance in
dimension j keeps the outer dimensions, adds one in j, zeroes the inner ones, and always rises. -/
def Obligations.CoordinateResults : Prop :=
  (∀ (s : State) (x : StrandId) (a : BitVec 6) (j : BitVec 3), s.issues x →
     let c := (s.strand x).coord
     let moved (c' : Coord) (len : Nat) : State :=
       ((s.onStrand x fun t => { t with pc := BitVec.ofNat 16 (t.pc.toNat + len) }).changeCoord x c').arrives x
     let adv (i : Instr) (len : Nat) : Prop :=
       (s.atS x = true → exec i s = .next (s.raises x 0x22 0 0)) ∧
       (s.atS x = false → s.sys.nest.toNat ≤ j.toNat → exec i s = .next (s.raises x 0x0E 0x03 0)) ∧
       (s.atS x = false → j.toNat < s.sys.nest.toNat → c.get j.toNat = 0xFFFFFFFF →
         exec i s = .next (s.raises x 0x22 (j.setWidth 64) 0)) ∧
       (s.atS x = false → j.toNat < s.sys.nest.toNat → c.get j.toNat ≠ 0xFFFFFFFF → s.mayChange x (c.advance j.toNat) = true →
         exec i s = .next (moved (c.advance j.toNat) len)) ∧
       (s.atS x = false → j.toNat < s.sys.nest.toNat → c.get j.toNat ≠ 0xFFFFFFFF → s.mayChange x (c.advance j.toNat) = false →
         exec i s = .next s.waits)
     let v := s.reg x a
     let c' := c.assign j.toNat (v.setWidth 32)
     adv (.cadv j) 2 ∧ adv (.cadvC j) 1 ∧
     (regOk x a = true → s.atS x = true → exec (.cset a j) s = .next (s.raises x 0x22 0 0)) ∧
     (regOk x a = true → s.atS x = false → s.sys.nest.toNat ≤ j.toNat → exec (.cset a j) s = .next (s.raises x 0x0E 0x03 0)) ∧
     (regOk x a = true → s.atS x = false → j.toNat < s.sys.nest.toNat →
       (2 ^ 32 ≤ v.toNat → exec (.cset a j) s = .next (s.raises x 0x0E 0x05 0)) ∧
       (v.toNat < 2 ^ 32 → c'.key < c.key → exec (.cset a j) s = .next (s.raises x 0x22 (j.setWidth 64) 0)) ∧
       (v.toNat < 2 ^ 32 → c'.key = c.key → exec (.cset a j) s = .next (s.after x 2)) ∧
       (v.toNat < 2 ^ 32 → c.key < c'.key → s.mayChange x c' = true → exec (.cset a j) s = .next (moved c' 2)) ∧
       (v.toNat < 2 ^ 32 → c.key < c'.key → s.mayChange x c' = false → exec (.cset a j) s = .next s.waits))) ∧
  ((∀ (s : State) (x : StrandId) (d : BitVec 6) (e : BitVec 5) (j : BitVec 3), s.issues x →
     let v := ((s.strand x).coord.get j.toNat).setWidth 64
     (regOk x d = true → exec (.cget d j) s = .next (
       if 5 < j.toNat then s.raises x 0x0E 0x03 0 else (s.putReg x d v).after x 2)) ∧
     exec (.cgetC e j) s = .next (
       if 5 < j.toNat then s.raises x 0x0E 0x03 0 else (s.putReg x (e.setWidth 6) v).after x 1)) ∧
   ∀ (c : Coord) (j : Nat), j < 6 → c.get j ≠ 0xFFFFFFFF → c.key < (c.advance j).key ∧
     (∀ i, i < j → (c.advance j).get i = c.get i) ∧ (c.advance j).get j = c.get j + 1 ∧
     ∀ i, j < i → i < 6 → (c.advance j).get i = 0)

/-! ## Synchronisation (R124, R149 to R151) -/

/-- R150, R151: FENCE.rel and FENCE.ar retire once what the release covers is performed and wait until then, FENCE.acq retires once
the reads that engines of the strand have still to make are made, and an acquire takes effect as it retires. FENCE.P with an empty set
is OPERAND_RANGE 0x03; it waits for the engine passes it
names, and then the reader classes find the writes it names, those still in the side log too.
R149, R124: DSYNC L is DOMAIN_SYNC where the strand is no member or L exceeds QLVL; that DETAIL[8] is 0 whenever the strand is no
member, also for an L above QLVL, is the model's choice (log 39). At level 0 it flips PHASE bit 0 and retires;
at another level it arrives and waits, once what its release covers is performed, and when its phase has completed it retires as an
acquire. What engine work a release waits for is the model's reading (log 29). R124, R125: when every strand of the
core has arrived at a level above 0 and so have the members outside, DSYNC_COMPLETE flips the PHASE bit of that level in all four
strands at once, and every strand that waited there may retire its DSYNC. -/
def Obligations.FenceAndDsyncResults : Prop :=
  (∀ (s : State) (x : StrandId) (sc : BitVec 3) (y w : BitVec 5), s.issues x →
     let n := sc.toNat
     (s.engineQuiet x = true → exec (.fenceAcq sc) s = .next ((s.acquire x n).after x 2)) ∧
     (s.engineQuiet x = false → exec (.fenceAcq sc) s = .next s.waits) ∧
     (s.releaseDone x n = true → exec (.fenceRel sc) s = .next (s.after x 2) ∧
       exec (.fenceAr sc) s = .next ((s.acquire x n).after x 2)) ∧
     (s.releaseDone x n = false → exec (.fenceRel sc) s = .next s.waits ∧ exec (.fenceAr sc) s = .next s.waits) ∧
     (w = 0 ∨ y = 0 → exec (.fenceP y w) s = .next (s.raises x 0x0E 0x03 0)) ∧
     (w ≠ 0 → y ≠ 0 → s.writersQuiet x w = true → exec (.fenceP y w) s = .next ((s.settlePaths w y).after x 2)) ∧
     (w ≠ 0 → y ≠ 0 → s.writersQuiet x w = false → exec (.fenceP y w) s = .next s.waits)) ∧
  ((∀ (s : State) (l : BitVec 3), l ≠ 0 → (∀ x, (s.strand x).run = .running ∧ (s.strand x).dsync = some l) →
     s.sys.levelS = false → s.pk.barriers = [] → s.othersArrived l = true →
     ∃ t, exec (.dsyncComplete l) s = .next t ∧
       ∀ x, (t.strand x).phase = (s.strand x).phase ^^^ (1#8 <<< l.toNat) ∧ (t.strand x).dsync = none ∧
         (t.strand x).synced = some (s.strand x).pc ∧ (t.strand x).s = (s.strand x).s ∧ (t.strand x).pc = (s.strand x).pc) ∧
   ∀ (s : State) (x : StrandId) (l : BitVec 3), s.issues x →
     let t := s.strand x
     (t.member.getLsbD l.toNat = false → exec (.dsync l) s = .next (s.raises x 0x39 (l.setWidth 64) 0)) ∧
     (t.member.getLsbD l.toNat = true → s.sys.qlvl.toNat < l.toNat →
       exec (.dsync l) s = .next (s.raises x 0x39 (l.setWidth 64 ||| 0x100) 0)) ∧
     (t.member.getLsbD l.toNat = true → l.toNat ≤ s.sys.qlvl.toNat → t.synced = some t.pc → s.atS x = false →
       exec (.dsync l) s = .next (((s.onStrand x fun t => { t with synced := none }).acquire x l.toNat).after x 2)) ∧
     (t.member.getLsbD l.toNat = true → l.toNat ≤ s.sys.qlvl.toNat → t.synced ≠ some t.pc ∨ s.atS x = true →
       exec (.dsync l) s = .next (
         if s.releaseDone x l.toNat = false then s.waits
         else if l = 0 then (((s.onStrand x fun t => { t with phase := t.phase ^^^ 1 }).acquire x 0).after x 2)
         else (s.onStrand x fun t => { t with dsync := some l }).waits)))

/-! ## System registers (R2, R113 to R117, R133, R146) -/

/-- R146, R113: SYSRD of a register the strand may read at its level writes what the register reads as; one it may not reach is
SYSREG_ACCESS. SYSWR of one it may write makes the write; at T a register it may only read, or none, is SYSREG_ACCESS. R2: the SYSREG_WRITE step
makes the write of the issuing strand where it may be made from its level.
R113, R98: at T no strand reads or writes the exception and queue registers k.epc to k.step and k.frec0 to k.frec7.
R114, R133, R117, R127, R183: what a write to k.flags, k.cc, k.epc, k.estat, k.tvec, k.ydl, k.step and k.dmode leaves there, the
reserved bits reading zero; PEND of k.estat is cleared by writing one. R128, R157, R201, R204, R251, R255, R327, R338, R367: the same of the
other registers that SYSWR writes: FMODE of k.ctx, k.budget, k.yreq, LOST of k.fq, the position in the head record, k.rstall, the side log's
place, k.spres, v.mask, v.carry, ERR of v.bank, m.carry, m.chk, k.pinsel, k.pinbox, k.qslag, k.qctl, k.pland and k.plring; a write of
v.park is a V_PARK or V_UNPARK, and one of a register that is only read at S changes nothing. -/
def Obligations.SystemRegisterAccess : Prop :=
  (((∀ (s : State) (n : BitVec 10) (v : BitVec 64),
      exec (.sysregWrite n v) s = .next (if s.access s.cur n.toNat = .write then s.sysWrite s.cur n.toNat v else s)) ∧
    ∀ (s : State) (x : StrandId) (d : BitVec 6) (n : BitVec 10), s.issues x → regOk x d = true →
      let a := s.access x n.toNat
      exec (.sysrd d n) s = .next (
        if a = .none then s.raises x 0x0F 0 0 else (s.putReg x d (s.sysRead x n.toNat)).after x 2) ∧
      (a = .none ∨ (a = .read ∧ s.atS x = false) → exec (.syswr d n) s = .next (s.raises x 0x0F 0 0)) ∧
      (a = .read → s.atS x = true → exec (.syswr d n) s = .next (s.after x 2)) ∧
      (a = .write → n.toNat ≠ 0x052 → n.toNat ≠ 0x060 → exec (.syswr d n) s = .next ((s.sysWrite x n.toNat (s.reg x d)).after x 2)) ∧
      (a = .write → n.toNat = 0x060 → ∀ t done, s.putMcarry (s.reg x d) = (t, done) →
        exec (.syswr d n) s = .next (if done then t.after x 2 else t.waits)) ∧
      (a = .write → n.toNat = 0x052 →
        let tile : BitVec 6 := (s.reg x d).extractLsb' 0 6
        let slot : BitVec 7 := ((s.reg x d).extractLsb' 7 6).setWidth 7
        ((s.reg x d).getLsbD 6 = false → ∀ t, exec (.vPark tile slot) s = .next t → exec (.syswr d n) s = .next (t.after x 2)) ∧
        ((s.reg x d).getLsbD 6 = true → s.unparkNow tile (slot.setWidth 6) ≠ none →
          ∀ t, exec (.vUnpark tile slot) s = .next t → exec (.syswr d n) s = .next (t.after x 2)) ∧
        ((s.reg x d).getLsbD 6 = true → s.unparkNow tile (slot.setWidth 6) = none → exec (.syswr d n) s = .next s.waits))) ∧
   (∀ (s : State) (x : StrandId) (d : BitVec 6) (n : BitVec 10), s.issues x → regOk x d = true → s.atS x = false →
      (0x010 ≤ n.toNat ∧ n.toNat ≤ 0x015) ∨ (0x020 ≤ n.toNat ∧ n.toNat ≤ 0x027) →
      exec (.sysrd d n) s = .next (s.raises x 0x0F 0 0) ∧ exec (.syswr d n) s = .next (s.raises x 0x0F 0 0))) ∧
  (∀ (s : State) (x : StrandId) (v : BitVec 64),
     (s.sysWrite x 0x000 v).sysRead x 0x000 = v &&& 0x1F3F ∧
     (s.sysWrite x 0x030 v).sysRead x 0x030 = v &&& 0x7 ∧
     (s.sysWrite x 0x010 v).sysRead x 0x010 = v ∧
     (s.sysWrite x 0x011 v).sysRead x 0x011 = (v &&& 0x1FFF00000001 ||| if s.sys.pend && !v.getLsbD 1 then 2 else 0) ∧
     (s.sysWrite x 0x012 v).sysRead x 0x012 = v &&& 0xFFFF ∧
     (s.sysWrite x 0x014 v).sysRead x 0x014 = v &&& 0xFFFFFFFF ∧
     (s.sysWrite x 0x015 v).sysRead x 0x015 = v &&& 0xF ∧
     (s.sysWrite x 0x016 v).sysRead x 0x016 = v &&& 0x1 ∧
     let back (n : Nat) : BitVec 64 := (s.sysWrite x n v).sysRead x n
     (back 0x003).getLsbD 35 = (v.getLsbD 35 || decide (1 < s.sys.qlvl.toNat)) ∧
     (∀ b, b < 64 → b ≠ 35 → (back 0x003).getLsbD b = (s.sysRead x 0x003).getLsbD b) ∧
     back 0x006 = (if s.sys.budgetDone then 0 else v) ∧
     (v.getLsbD 0 = false → back 0x013 = 0) ∧
     (v.getLsbD 0 = true → s.sys.yreq = false → s.sys.ydl ≠ 0 → back 0x013 = 3 ||| if s.sys.fdone then 4 else 0) ∧
     (v.getLsbD 0 = true → s.sys.yreq = true → s.sysWrite x 0x013 v = s) ∧
     (v.getLsbD 6 = false → (back 0x018).extractLsb' 8 8 = v.extractLsb' 8 8) ∧
     (s.sys.fq ≠ [] → back 0x021 = v) ∧
     back 0x040 = v &&& 0xFFFFFFFF ∧
     (s.core.side = [] → back 0x041 = v &&& 0xFFFFFFFFFF000 ∧ back 0x042 = v &&& 0xFFFFFF) ∧
     (s.core.side ≠ [] → s.sysWrite x 0x041 v = s ∧ s.sysWrite x 0x042 v = s) ∧
     back 0x044 = BitVec.ofNat 64 (min 512 (v.toNat % 1024)) ∧
     back 0x050 = v &&& 0xF ∧ back 0x051 = v ∧ (back 0x053).getLsbD 24 = (s.core.vec.parkErr && !v.getLsbD 24) ∧
     (s.core.mat.zsnaps = [] → back 0x060 = v &&& 0xFFFF) ∧
     (back 0x063).getLsbD 48 = (s.core.mat.failed && !v.getLsbD 48) ∧ (back 0x063).extractLsb' 0 48 = (s.sysRead x 0x063).extractLsb' 0 48 ∧
     back 0x080 = v &&& 0xFF ∧ back 0x081 &&& 0x1FF = v &&& 0x1FF ∧
     (s.core.slag = [] → back 0x090 = v &&& 0x1FFFFFFF) ∧ (s.core.slag ≠ [] → s.sysWrite x 0x090 v = s) ∧
     back 0x092 = v &&& 0x1 ∧
     let used := (s.inbox s.sys.pinsel.toNat).used
     (used = 0 → back 0x0A2 = v &&& 0x7FFFFFFFFFFFFFFF) ∧ (used ≠ 0 → s.sysWrite x 0x0A2 v = s) ∧
     back 0x0A5 = BitVec.ofNat 64 (used.toNat - min used.toNat (v.extractLsb' 20 20 : BitVec 20).toNat))

/-! ## Scalar loads and stores (R171 to R179) -/

/-- R174, R173, R175: where the address passes its checks, a load writes the bytes at base + displacement × size, little-endian,
sign- or zero-extended, and the acquire forms acquire at their scope, which is the model's reading of what they order (log 29); on V and M it
is WRONG_STRAND. R171, R172: where a check fails, the first one decides the precise cause, with the address and the access fields. R76:
LD.d.c loads eight bytes at its base register. R177: PREF has no effect; on V and M it and LD.d.c are WRONG_STRAND. -/
def Obligations.LoadResults : Prop :=
  ∀ (s t : State) (x : StrandId) (d a : BitVec 6) (e : BitVec 10) (sc : BitVec 3) (f : BitVec 7) (bs : List (BitVec 8)),
    s.issues x → regOk x d = true → regOk x a = true →
    let ea (disp : Int) (size : Nat) : BitVec 64 := s.reg x a + BitVec.ofInt 64 (disp * size)
    let loads (i : Instr) (disp : Int) (size : Nat) (signed : Bool) (u : State) : Prop :=
      (x = .V ∨ x = .M → exec i s = .next (s.raises x 0x03 0 0)) ∧
      (x = .K ∨ x = .A → addressFaults s x i (ea disp size) 0 size size ∧ pageFaults s x i (ea disp size) 0 size size ∧
        poisonFaults s x i (ea disp size) size) ∧
      (x = .K ∨ x = .A → finds s x (ea disp size) size bs t → exec i s = .next (
        (u.putReg x d (if signed then (BitVec.ofNat (8 * size) (leNat bs)).signExtend 64 else BitVec.ofNat 64 (leNat bs))).after x 2))
    loads (.ldB d a e) e.toInt 1 true t ∧ loads (.ldH d a e) e.toInt 2 true t ∧ loads (.ldW d a e) e.toInt 4 true t ∧
    loads (.ldD d a e) e.toInt 8 false t ∧ loads (.ldBN d a e) e.toInt 1 false t ∧ loads (.ldHN d a e) e.toInt 2 false t ∧
    loads (.ldWN d a e) e.toInt 4 false t ∧
    loads (.ldWAcq d a sc f) f.toInt 4 false (t.acquire x sc.toNat) ∧ loads (.ldDAcq d a sc f) f.toInt 8 false (t.acquire x sc.toNat) ∧
    (x = .K ∨ x = .A → exec (.pref a e) s = .next (s.after x 2)) ∧ (x = .V ∨ x = .M → exec (.pref a e) s = .next (s.raises x 0x03 0 0)) ∧
    ∀ c b : BitVec 5,
      let base := s.reg x (b.setWidth 6)
      (x = .V ∨ x = .M → exec (.ldDC c b) s = .next (s.raises x 0x03 0 0)) ∧
      (x = .K ∨ x = .A → addressFaults s x (.ldDC c b) base 0 8 8 ∧ pageFaults s x (.ldDC c b) base 0 8 8 ∧ poisonFaults s x (.ldDC c b) base 8) ∧
      (x = .K ∨ x = .A → finds s x base 8 bs t →
        exec (.ldDC c b) s = .next ((t.putReg x (c.setWidth 6) (BitVec.ofNat 64 (leNat bs))).after x 1))

/-- R176, R171: LDT of scratchpad retires at its issue with its value still to land, T(L) cycles later; L = 0 is ILLEGAL_ENCODING, and an
address that fails a check raises its cause. When the cycle has come, LDT_LANDING writes the value. That the value is that of the bytes at
the issue is the model's reading (logs 13 and 36). -/
def Obligations.TimedLoadResults : Prop :=
  ∀ (s : State) (x : StrandId) (d a : BitVec 6) (l : BitVec 3) (e : BitVec 7),
    (s.issues x → regOk x d = true → regOk x a = true → x = .K ∨ x = .A →
      (l = 0 → exec (.ldt d a l e) s = .next (s.raises x 0x01 0 0)) ∧
      (l ≠ 0 → addressFaults s x (.ldt d a l e) (s.reg x a + BitVec.ofInt 64 (e.toInt * 8)) 0 8 8 ∧
        pageFaults s x (.ldt d a l e) (s.reg x a + BitVec.ofInt 64 (e.toInt * 8)) 0 8 8) ∧
      (∀ p o, l ≠ 0 → s.checkAddr x (s.reg x a + BitVec.ofInt 64 (e.toInt * 8)) .read 8 8 = .ok (.scratch p o) →
        exec (.ldt d a l e) s = .next ((s.onStrand x fun t => { t with timed := t.timed ++
          [⟨d, BitVec.ofNat 64 (leNat (s.scratchRead p (scratchOff o) 8)), s.sys.cycle.toNat + classCycles l.toNat, t.coord, s.atS x⟩] }).after x 2))) ∧
    (∀ w : TimedLoad, (s.strand x).timed = [w] → w.at_ ≤ s.sys.cycle.toNat →
      exec (.ldtLanding x) s = .next ((s.onStrand x fun t => { t with timed := [] }).putReg x w.reg w.value))

/-- The frame of the loads that are no acquires, LD.d.c and LDT among them (R174, R176, R132): when one retires, every register but its
destination, of LDT every register, everything of the strand but its position, the sticky flag DZ, what its item waited for and the value
that an LDT has to land, every byte of memory, the engines, and the side log, but for a note of who has read an entry, are as before. A byte
of a block that a second key reads is another one (R373, log 10). -/
def Obligations.LoadFrame : Prop :=
  ∀ (s t : State) (x : StrandId) (d a : BitVec 6) (e : BitVec 10) (l : BitVec 3) (f : BitVec 7) (c b : BitVec 5) (i : Instr)
    (dest : List (BitVec 6)), s.issues x →
    (i ∈ [Instr.ldB d a e, .ldH d a e, .ldW d a e, .ldD d a e, .ldBN d a e, .ldHN d a e, .ldWN d a e] ∧ dest = [d]) ∨
      (i = .ldDC c b ∧ dest = [c.setWidth 6]) ∨ (i = .ldt d a l f ∧ dest = []) → exec i s = .next t → t.last = .retired →
    s.regsSame t x dest ∧
    (∃ bank fl, (fl = (s.strand x).flags ∨ fl = (s.strand x).flags ||| 0x20) ∧ ∃ timed, (i ≠ .ldt d a l f → timed = (s.strand x).timed) ∧
      (s.strand x).timed <+: timed ∧ t.strand x = { (s.strand x).settled with
        s := bank, flags := fl, timed := timed, pc := (s.strand x).pc + BitVec.ofNat 16 (if i = .ldDC c b then 1 else 2) }) ∧
    (∀ y, y ≠ x → t.strand y = s.strand y) ∧ (x ≠ .A → t.core.areg = s.core.areg) ∧ t.core.sys = s.core.sys ∧ t.core.streams = s.core.streams ∧
    t.core.tags = s.core.tags ∧ t.core.vec = s.core.vec ∧ t.core.mat = s.core.mat ∧ t.core.rowq = s.core.rowq ∧
    t.core.chainq = s.core.chainq ∧ t.core.slag = s.core.slag ∧ t.core.qu = s.core.qu ∧
    t.core.side.map (·.found 0x1F 0xF) = s.core.side.map (·.found 0x1F 0xF) ∧ (∀ p o, t.scratchByte p o = s.scratchByte p o) ∧
    ∀ v pa, v < 4 → pa < 2 ^ 72 → keyKept s t pa → t.globalByte v pa = s.globalByte v pa

/-- R179, R178, R171, R172, R120: where the address passes its checks, a store writes the low bytes of its register: to scratchpad at once, to
global memory through the side log, but at S at once behind the stores that are about to leave the log. A release waits until the strand's engine work has made its accesses and, on scratchpad and at S,
until what it covers is performed. Where a check at issue fails, the first one decides the precise cause.
R155, R179 and the frame of a store to scratchpad below the known horizon: the stored bytes read back, the low byte first, every
other byte of every scratchpad and of global memory is as before, and so is every register. -/
def Obligations.StoreResults : Prop :=
  (∀ (s : State) (x : StrandId) (d a : BitVec 6) (e : BitVec 10) (sc : BitVec 3) (f : BitVec 7) (c b : BitVec 5),
     s.issues x → regOk x d = true → regOk x a = true → x = .K ∨ x = .A →
     let k := (s.strand x).coord
     let stores (i : Instr) (len : Nat) (r : BitVec 6) (ea : BitVec 64) (size : Nat) (kind : SideKind) (scope : BitVec 3) : Prop :=
       let bs := toBytes size (s.reg x r)
       addressFaults s x i ea 1 size size ∧ pageFaults s x i ea 1 size size ∧
       (∀ p o t, s.checkAddr x ea .write size size = .ok (.scratch p o) → s.scratchStore x k (s.kept x k) p o bs = .done t →
         exec i s = .next (t.after x len)) ∧
       (∀ va t u, s.checkAddr x ea .write size size = .ok (.global va) → s.checkWrite pathCore (s.atS x) .write va size = .ok t →
         (t.atS x = true → t.nextOut x = none) →
         t.sideStore x clsLS k (t.kept x k) (t.atS x) (t.stepping x) kind scope va bs = .done u → exec i s = .next (u.after x len))
     let ea (disp : Int) (size : Nat) : BitVec 64 := s.reg x a + BitVec.ofInt 64 (disp * size)
     let released (ea : BitVec 64) : Bool := s.engineQuiet x && (!(ea.getLsbD 63 || s.atS x) || s.releaseDone x sc.toNat)
     stores (.stB d a e) 2 d (ea e.toInt 1) 1 .store 0 ∧ stores (.stH d a e) 2 d (ea e.toInt 2) 2 .store 0 ∧
     stores (.stW d a e) 2 d (ea e.toInt 4) 4 .store 0 ∧ stores (.stD d a e) 2 d (ea e.toInt 8) 8 .store 0 ∧
     stores (.stDC c b) 1 (c.setWidth 6) (s.reg x (b.setWidth 6)) 8 .store 0 ∧
     (released (ea f.toInt 4) = true → stores (.stWRel d a sc f) 2 d (ea f.toInt 4) 4 .release sc) ∧
     (released (ea f.toInt 8) = true → stores (.stDRel d a sc f) 2 d (ea f.toInt 8) 8 .release sc) ∧
     (released (ea f.toInt 4) = false → exec (.stWRel d a sc f) s = .next s.waits) ∧
     (released (ea f.toInt 8) = false → exec (.stDRel d a sc f) s = .next s.waits)) ∧
  (∀ (s : State) (x : StrandId) (d a : BitVec 6) (e : BitVec 10) (p : Nat) (o : BitVec 32), s.issues x → regOk x d = true →
     regOk x a = true → x = .K ∨ x = .A → Memory.wf s.pk.mu.scratch = true → s.kept x (s.strand x).coord = false →
     let stores (i : Instr) (size : Nat) : Prop :=
       s.checkAddr x (s.reg x a + BitVec.ofInt 64 (e.toInt * size)) .write size size = .ok (.scratch p o) →
       scratchOff o + size ≤ 0x3E0000 →
       ∃ t, exec i s = .next t ∧ t.last = .retired ∧
         (∀ n, n < size → t.scratchByte p (scratchOff o + n) = (s.reg x d).extractLsb' (8 * n) 8) ∧
         (∀ q m, m < 2 ^ 22 → (q ≠ p ∨ m < scratchOff o ∨ scratchOff o + size ≤ m) → t.scratchByte q m = s.scratchByte q m) ∧
         (∀ v pa, t.globalByte v pa = s.globalByte v pa) ∧ s.regsSame t x [] ∧ s.statusSame t x ∧ t.core.side = s.core.side
     stores (.stB d a e) 1 ∧ stores (.stH d a e) 2 ∧ stores (.stW d a e) 4 ∧ stores (.stD d a e) 8)

/-- R168, R343 and the frame of a store to global memory: with room in the side log a naturally aligned store of up to eight bytes adds
one entry, HELD at or above the known horizon and PEND below it, that names its block, the bytes it covers and their values; no byte
of memory changes while its overflow area is not needed. R174: a load finds the byte of the newest entry that covers it.
R120: a store at S whose page can be written adds no entry: its block is written at once. -/
def Obligations.GlobalStoreEntersSideLog : Prop :=
  ∀ (s : State) (x : StrandId) (k : Coord) (keep stepped : Bool) (kind : SideKind) (sc : BitVec 3) (va size : Nat) (v : BitVec 64),
    size ∈ [1, 2, 4, 8] → va % size = 0 → va < 2 ^ 56 →
    (∀ e t, storeEntries x clsLS k keep true stepped kind sc va (toBytes size v) = [e] →
      s.leaveCheck e (entryStart e) (e.addr.toNat + 64 - entryStart e) = .ok t →
      s.sideStore x clsLS k keep true stepped kind sc va (toBytes size v) = .done (t.writeEntry e) ∧
      (t.writeEntry e).core.side = s.core.side) ∧
    (s.core.side.length < 2048 → s.sideUse.1 < 2048 →
    ∃ t e, s.sideStore x clsLS k keep false stepped kind sc va (toBytes size v) = .done t ∧ t.core.side = s.core.side ++ [e] ∧
      e.state = (if keep then .held else .pend) ∧ e.strand = x ∧ e.kind = kind ∧ e.scope = sc ∧ e.addr.toNat = va / 64 * 64 ∧
      e.coord = k ∧ (∀ n, n < 64 → e.mask.getLsbD n = decide (va % 64 ≤ n ∧ n < va % 64 + size)) ∧
      (∀ n, n < size → e.data.extractLsb' (8 * (va % 64 + n)) 8 = v.extractLsb' (8 * n) 8) ∧
      t.pk.mu.mem = s.pk.mu.mem ∧ t.pk.mu.scratch = s.pk.mu.scratch ∧
      (kind ≠ .atomic → ∀ n, n < size → forwarded t.core.side (va + n) = some (v.extractLsb' (8 * n) 8)))

/-! ## Atomics (R180 to R183) -/

/-- R181, R180, R182 item 2: an integer atomic on scratchpad below the known horizon writes the new value and gives the old one, a word
sign-extended for a signed minimum or maximum and zero-extended otherwise, in one item.
R181, R95 to R97, R183: the float atomics on scratchpad below the known horizon. AMO.FADD adds once rounded and sets its flags; in
deterministic mode it is AMO.BADD, which adds to the bins and gives their rounded value before the add; AMO.BFIN normalises the
bins and gives their value. R171, R172, R182: where a check of the address fails, the first one decides the precise cause, on scratchpad and
on global memory. -/
def Obligations.ScratchAtomicResults : Prop :=
  (∀ (s : State) (d a b : BitVec 6) (n z : BitVec 1) (p : Nat) (o : BitVec 32), s.issues .A → (s.strand .A).amo = none →
     s.kept .A (s.strand .A).coord = false →
     let size := if z = 1 then 8 else 4
     s.checkAddr .A (s.reg .A a) .atomic size size = .ok (.scratch p o) → scratchOff o + size ≤ 0x3E0000 →
     let bs := s.scratchRead p (scratchOff o) size
     let gives (i : Instr) (fn : Nat) (unsigned : Bool) : Prop :=
       let new : List (BitVec 8) :=
         if z = 1 then toBytes 8 (amoValue fn unsigned (BitVec.ofNat 64 (leNat bs)) (s.reg .A b) (s.reg .A d))
         else toBytes 4 (amoValue fn unsigned (BitVec.ofNat 32 (leNat bs)) ((s.reg .A b).setWidth 32) ((s.reg .A d).setWidth 32))
       let old : BitVec 64 :=
         if z = 0 ∧ (fn = 4 ∨ fn = 5) ∧ unsigned = false then (BitVec.ofNat 32 (leNat bs)).signExtend 64 else BitVec.ofNat 64 (leNat bs)
       exec i s = .next (((s.scratchPut p (scratchOff o) new).putReg .A d old).after .A 2)
     gives (.amoAdd d a b z) 0 false ∧ gives (.amoMin d a b n z) 4 (n == 1) ∧ gives (.amoMax d a b n z) 5 (n == 1) ∧
     gives (.amoAnd d a b z) 6 false ∧ gives (.amoOr d a b z) 7 false ∧ gives (.amoXor d a b z) 8 false ∧
     gives (.amoSwap d a b z) 9 false ∧ gives (.amoCas d a b z) 10 false) ∧
  (∀ (s : State) (d a b : BitVec 6) (n z : BitVec 1), s.issues .A → (s.strand .A).amo = none →
     let faults (i : Instr) (size align : Nat) : Prop :=
       addressFaults s .A i (s.reg .A a) 2 size align ∧ pageFaults s .A i (s.reg .A a) 2 size align
     let size := if z = 1 then 8 else 4
     (∀ i ∈ [Instr.amoAdd d a b z, .amoMin d a b n z, .amoMax d a b n z, .amoAnd d a b z, .amoOr d a b z, .amoXor d a b z, .amoSwap d a b z,
       .amoCas d a b z], faults i size size) ∧
     faults (.amoBadd d a b) 96 32 ∧ faults (.amoBfin d a) 96 32 ∧
     (if s.sys.det then faults (.amoFadd d a b) 96 32 else faults (.amoFadd d a b) 4 4)) ∧
  (∀ (s : State) (d a b : BitVec 6) (p : Nat) (o : BitVec 32), s.issues .A → (s.strand .A).amo = none →
     s.kept .A (s.strand .A).coord = false →
     let bins := binsOf (s.scratchRead p (scratchOff o) 96)
     let badd : State := ((s.scratchPut p (scratchOff o) (binBytes (binAdd bins ((s.reg .A b).setWidth 32)))).putReg .A d
       ((binRound bins).1.setWidth 64)).after .A 2
     let m : BitVec 32 := BitVec.ofNat 32 (leNat (s.scratchRead p (scratchOff o) 4))
     let sum := rne32 ((f32Val m).add (f32Val ((s.reg .A b).setWidth 32)))
     (scratchOff o + 96 ≤ 0x3E0000 → s.checkAddr .A (s.reg .A a) .atomic 96 32 = .ok (.scratch p o) →
       exec (.amoBadd d a b) s = .next badd ∧ (s.sys.det = true → exec (.amoFadd d a b) s = .next badd) ∧
       exec (.amoBfin d a) s = .next ((((s.scratchPut p (scratchOff o) (binBytes (binNormalise bins))).addFlags .A
         (binRound (binNormalise bins)).2).putReg .A d ((binRound (binNormalise bins)).1.setWidth 64)).after .A 2)) ∧
     (scratchOff o + 4 ≤ 0x3E0000 → s.sys.det = false → s.checkAddr .A (s.reg .A a) .atomic 4 4 = .ok (.scratch p o) →
       exec (.amoFadd d a b) s = .next ((((s.scratchPut p (scratchOff o) (toBytes 4 sum.1)).addFlags .A sum.2).putReg .A d
         (m.setWidth 64)).after .A 2)))

/-- R182 items 3, 4 and 8: an atomic on global memory, of any form, enters the side log, HELD at or above the known horizon, and its item
waits; in deterministic mode AMO.FADD enters it as AMO.BADD (R183). It retires when ATOMIC_RESULT_RETURN brings the result, with its flags. -/
def Obligations.GlobalAtomicWaits : Prop :=
  ∀ (s : State) (d a b : BitVec 6) (n z : BitVec 1) (va : Nat) (u : State),
    (s.issues .A → (s.strand .A).amo = none →
      let enters (i : Instr) (fn size align : Nat) : Prop :=
        s.checkAddr .A (s.reg .A a) .atomic size align = .ok (.global va) → s.checkWrite pathCore false .atomic va size = .ok u →
        u.sideRoom 1 = true → u.sideUse.1 < 2048 →
        ∃ t e w, exec i s = .next t ∧ t.last = .waited ∧ t.core.side = u.core.side ++ [e] ∧ e.kind = .atomic ∧ e.afn.toNat = fn ∧
          e.lane = none ∧ e.addr.toNat = va / 64 * 64 ∧ e.state = (if u.kept .A (s.strand .A).coord then .held else .pend) ∧
          (t.strand .A).amo = some w ∧ w.entry = e.id ∧ w.reg = d ∧ w.done = none ∧ w.bad = none ∧ (t.strand .A).pc = (s.strand .A).pc
      let size := if z = 1 then 8 else 4
      enters (.amoAdd d a b z) 0 size size ∧ enters (.amoMin d a b n z) 4 size size ∧ enters (.amoMax d a b n z) 5 size size ∧
      enters (.amoAnd d a b z) 6 size size ∧ enters (.amoOr d a b z) 7 size size ∧ enters (.amoXor d a b z) 8 size size ∧
      enters (.amoSwap d a b z) 9 size size ∧ enters (.amoCas d a b z) 10 size size ∧
      enters (.amoBadd d a b) 2 96 32 ∧ enters (.amoBfin d a) 3 96 32 ∧
      (s.sys.det = true → enters (.amoFadd d a b) 2 96 32) ∧ (s.sys.det = false → enters (.amoFadd d a b) 1 4 4)) ∧
    (∀ (w : AmoWait) (v : BitVec 64), (s.strand .A).amo = some w → w.bad = none → w.done = some v → w.len = 2 →
      s.mayIssue .A = true → (s.strand .A).lockstep = false → s.dry = false → s.stepping .A = false → (s.strand .A).eaf = [] →
      exec (.atomicResultReturn .A) s = .next
        ((((s.onStrand .A fun t => { t with amo := none }).addFlags .A w.flags).putReg .A w.reg v).after .A 2))

/-- R168, R33: SIDE_LOG_PERFORM performs the first entry of a strand that is not HELD: a store whose page translates again writes its
bytes and is freed. A HELD entry never leaves. R37, R179: a store to a page of this package that the core may write, neither discarded nor
sealed, is performed: its bytes, and no others, read as stored at the core's die, and the other dies have yet to apply them. R182 items 5
and 6, R181, R37: a scalar atomic there is performed at the home of its bytes, which first applies what the core's die has applied: the
bytes there become what the operation makes of them, no other byte there changes, and the result and the flags go to the item that waits.
The block stands under the key of the page, or under none yet (R373, log 10). -/
def Obligations.SideLogPerforms : Prop :=
  ∀ (s : State) (x : StrandId),
    ((∀ e ∈ s.core.side, e.strand = x → e.state = .held) → exec (.sideLogPerform x) s = .next s) ∧
    (∀ (e : SideEntry) (t : State), s.nextOut x = some e → s.releaseReady e = true → e.kind ≠ .atomic →
      s.leaveCheck e (entryStart e) (e.addr.toNat + 64 - entryStart e) = .ok t →
      ∃ u, exec (.sideLogPerform x) s = .next u ∧ u.core.side = t.core.side.filter (·.id != e.id)) ∧
    (∀ (e : SideEntry) (c : TlbEntry) (w : AmoWait) (h : Nat), s.nextOut x = some e → e.kind = .atomic → e.posted = false →
      (∀ f ∈ s.core.side, f.id = e.id → f.ovf = none) → e.lane = none → (s.strand x).amo = some w → w.entry = e.id →
      let va := entryStart e
      let n := amoSize e.afn.toNat e.amod
      (∀ i, i < n → s.cached e.path (va + i) = some c) →
      let l := c.leaf.word
      let pa (i : Nat) : Nat := leafFrame l * 2 ^ 16 + (va + i - c.base)
      c.leaf.size ≤ 2 ^ 30 → c.host = none → leafAper l = 1 ∨ leafAper l = 2 → leafR l = true → leafW l = true → leafSup l = false →
      leafDisc l = false → leafSeal l = false → Memory.wf s.pk.mu.mem = true →
      (∀ i, i < n → homeDie (pa i) = h ∧ s.anyPoison [.here (pa i)] = false ∧ s.underOne c (pa i)) →
      let t := s.deliverFrom s.die h
      let o := atomicOut e.afn.toNat e.amod ((List.range n).map fun i => t.globalByte h (pa i)) ((e.data >>> (8 * (va % 64))).setWidth 64)
        e.compare
      ∃ u w', exec (.sideLogPerform x) s = .next u ∧ u.core.side = s.core.side.filter (·.id != e.id) ∧
        (u.strand x).amo = some w' ∧ w'.done = some o.2.1 ∧ w'.flags = o.2.2 ∧ w'.reg = w.reg ∧
        (∀ i, i < n → some (u.globalByte h (pa i)) = o.1[i]?) ∧
        ∀ q, q < 2 ^ 72 → (∀ i, i < n → q ≠ pa i) → u.globalByte h q = t.globalByte h q) ∧
    (∀ (e : SideEntry) (c : TlbEntry), s.nextOut x = some e → e.kind = .store → e.posted = false →
      (∀ f ∈ s.core.side, f.id = e.id → f.ovf = none) → e.mask ≠ 0 →
      e.addr.toNat % 64 = 0 →
      (∀ i, i < 64 → s.cached e.path (e.addr.toNat + i) = some c) →
      let w := c.leaf.word
      let pa (i : Nat) : Nat := leafFrame w * 2 ^ 16 + (e.addr.toNat + i - c.base)
      c.leaf.size ≤ 2 ^ 30 → c.host = none → leafAper w = 1 ∨ leafAper w = 2 → leafW w = true → leafSup w = false → leafDisc w = false →
      leafSeal w = false → Memory.wf s.pk.mu.mem = true → (∀ i, i < 64 → s.underOne c (pa i)) →
      ∃ u, exec (.sideLogPerform x) s = .next u ∧ u.core.side = s.core.side.filter (·.id != e.id) ∧
        (∀ i, i < 64 → u.globalByte s.die (pa i) =
          if e.mask.getLsbD i then e.data.extractLsb' (8 * i) 8 else s.globalByte s.die (pa i)) ∧
        (∀ d q, d < 4 → q < 2 ^ 72 → (d ≠ s.die ∨ ∀ i, i < 64 → q ≠ pa i) → u.globalByte d q = s.globalByte d q) ∧
        ∀ p o, u.scratchByte p o = s.scratchByte p o)

/-! ## Rings (R162 to R165, R190 to R194, R147) -/

/-- R163, R147, R190, R191, R76: ring waits on A, V and M. On an undefined handle, or with a count outside 1 to NS + 1, they raise
RING_PROTOCOL; on one whose HOME is not placed or has no such ring, the cause of that. RING.WAITF retires as an acquire when each of the next slots past HEAD is full with its expected parity, and
RING.WAITE when each of those past TAIL is empty; otherwise the strand waits and its position stands. On K they are
WRONG_STRAND.
R165: a ring wait that has lasted LIMIT cycles raises RING_STALL once, which does not stop the strand; so does the wait of a stream of A
for an empty slot, with ENG 1. R163: a ring wait whose slots
have come retires by RING_WAIT_SATISFIED. -/
def Obligations.RingWaitResults : Prop :=
  (∀ (s : State) (x : StrandId) (h : BitVec 4) (n : BitVec 10) (m : BitVec 6), s.issues x →
     let runs (i j : Instr) (len k : Nat) : Prop :=
       (x = .K → exec i s = .next (s.raises x 0x03 0 0) ∧ exec j s = .next (s.raises x 0x03 0 0)) ∧
       (x ≠ .K → ((kGet Ring.zero s.pk.rings (s.pk.pcore.toNat * 16 + h.toNat)).valid = false →
           exec i s = .next (s.raises x 0x1D (h.setWidth 64) 0) ∧ exec j s = .next (s.raises x 0x1D (h.setWidth 64) 0)) ∧
         ∀ c d, s.ringOf h = .error (c, d) → exec i s = .next (s.raises x c d 0) ∧ exec j s = .next (s.raises x c d 0)) ∧
       (x ≠ .K → ∀ r, s.ringOf h = .ok r →
         (k = 0 ∨ r.ring.ns.toNat + 1 < k → exec i s = .next (s.raises x 0x1D (h.setWidth 64) 0) ∧
           exec j s = .next (s.raises x 0x1D (h.setWidth 64) 0)) ∧
         (1 ≤ k → k ≤ r.ring.ns.toNat + 1 →
           ((∀ q, q < k → (s.slotState r (r.index r.ring.head.toNat q)).full = true ∧
               (s.slotState r (r.index r.ring.head.toNat q)).ph = r.parity r.ring.head.toNat r.ring.cp q) →
             exec i s = .next (((s.consumes x r).acquire x (s.ringScope r)).after x len)) ∧
           ((∃ q, q < k ∧ (s.slotState r (r.index r.ring.head.toNat q)).full = false) →
             (∀ q, q < k → (s.slotState r (r.index r.ring.head.toNat q)).full = true →
               (s.slotState r (r.index r.ring.head.toNat q)).ph = r.parity r.ring.head.toNat r.ring.cp q) →
             exec i s = .next (s.ringWait x r.handle true).waits) ∧
           ((∀ q, q < k → (s.slotState r (r.index r.ring.tail.toNat q)).full = false) →
             exec j s = .next ((s.acquire x (s.ringScope r)).after x len)) ∧
           ((∃ q, q < k ∧ (s.slotState r (r.index r.ring.tail.toNat q)).full = true) →
             exec j s = .next (s.ringWait x h false).waits)))
     runs (.ringWaitf h n) (.ringWaite h n) 2 n.toNat ∧ runs (.ringWaitfC h m) (.ringWaiteC h m) 1 m.toNat) ∧
  (∀ (s : State) (x : StrandId) (w : RingWait), (s.strand x).wait = some w →
     (w.raised = false → s.sys.rstall ≠ 0 → w.since + s.sys.rstall.toNat ≤ s.sys.cycle.toNat →
       bestSlot s.pk.swage (·.hooks ((s.onStrand x fun t => { t with wait := some { w with raised := true } }).record x 0x1E .asynchronous
         (w.handle.setWidth 64 ||| flagBit 64 w.full 8) 0 0 (s.strand x).coord .nothing 0)) = none →
       s.sys.fq.length < 16 →
       ∃ t r, exec (.ringStall x) s = .next t ∧ t.sys.fq = s.sys.fq ++ [r] ∧ r.cause = 0x1E ∧ r.strand = x ∧
         r.detail = w.handle.setWidth 64 ||| flagBit 64 w.full 8 ∧ (t.strand x).run = (s.strand x).run ∧
         (t.strand x).pc = (s.strand x).pc ∧ (t.strand x).wait = some { w with raised := true }) ∧
     (∀ h n, s.mayIssue x = true → (s.strand x).lockstep = false → s.cur = x → s.dry = false → s.stepping x = false →
       (s.strand x).eaf = [] → s.decodeSlot x (s.itemOf x) = none → waitItem (s.itemOf x) = some (h, n, true) → ∀ r, s.ringOf h = .ok r → r.countOk n = true →
       s.fullWait r 0 n = .ready →
       exec (.ringWaitSatisfied x) s = .next (((s.consumes x r).acquire x (s.ringScope r)).after x (s.itemLen x)))) ∧
  (∀ (s : State) (q : BitVec 4) (since : Nat), s.strandStalls .A = false → s.streamStalls = some q → (at16 s.core.streams q).stall = some (since, false) →
     bestSlot s.pk.swage (·.hooks (s.record .A 0x1E .asynchronous ((descRing (at16 s.core.streams q).desc).setWidth 64) 0 1
       (Coord.ofKey ((at16 s.core.streams q).keyAt (at16 s.core.streams q).head)) .nothing 0)) = none →
     s.sys.fq.length < 16 →
     ∃ t r, exec (.ringStall .A) s = .next t ∧ t.sys.fq = s.sys.fq ++ [r] ∧ r.cause = 0x1E ∧ r.eng = 1 ∧
       r.detail = (descRing (at16 s.core.streams q).desc).setWidth 64 ∧ (t.strand .A).run = (s.strand .A).run ∧
       (t.strand .A).pc = (s.strand .A).pc ∧ (at16 t.core.streams q).stall = some (since, true))

/-- R163, R193, R190, R76: RING.ADV.C of full slots whose reads are done empties them and moves HEAD past them, its parity changing at
the wrap; RING.ADV.P of empty slots, which the stream that fills them with ADV = 0 has written if there is one, marks them full with TAIL's
parity and that stream's coordinate or the strand's, and moves TAIL. A count of 0 or above NS + 1, an undefined handle, an ADV.C of a slot that
is not full, an ADV.P of one that is, and an ADV.P of a ring that a stream fills with ADV = 1 are RING_PROTOCOL. On K they are WRONG_STRAND. Of
a ring that its HOME has redefined since, the slots are open ones (R191), and the new HEAD and TAIL are not stated. That a stream in FAULT or CUT
still fills its ring, and a DONE one no more, is the model's choice (log 39), and what an advance waits for its reading of R40 (log 29). -/
def Obligations.RingAdvanceResults : Prop :=
  ∀ (s : State) (x : StrandId) (h : BitVec 4) (n : BitVec 10) (m : BitVec 6), s.issues x →
    let raises (i : Instr) (c : BitVec 6) (d : BitVec 64) : Prop := exec i s = .next (s.raises x c d 0)
    let bad (i : Instr) : Prop := raises i 0x1D (h.setWidth 64)
    let advances (i j : Instr) (len k : Nat) (r : RingAt) : Prop :=
      let entry (t : State) : Ring := kGet Ring.zero t.pk.rings r.key
      ((∀ q, q < k → (s.slotState r (r.index r.ring.head.toNat q)).full = true) → (x = .M → s.core.mat.queue = []) →
        ∃ t, exec i s = .next t ∧ t.last = .retired ∧ (t.strand x).pc = (s.strand x).pc + BitVec.ofNat 16 len ∧
          (entry s = r.ring → (entry t).head.toNat = (r.ring.head.toNat + k) % r.slots ∧
            (entry t).cp = (r.ring.cp ^^ decide ((r.ring.head.toNat + k) / r.slots % 2 = 1)) ∧ (entry t).tail = r.ring.tail) ∧
          (∀ q, q < k → (t.slotState r (r.index r.ring.head.toNat q)).full = false) ∧ s.regsSame t x [] ∧
          ∀ v pa, t.globalByte v pa = s.globalByte v pa) ∧
      ((∀ q, q < k → (s.slotState r (r.index r.ring.tail.toNat q)).full = false ∧
          (s.streamFor h ≠ none → (s.slotState r (r.index r.ring.tail.toNat q)).written = true)) →
        (∀ w, s.streamFor h = some w → descAdv w.desc = false) →
        ∃ t, exec j s = .next t ∧ t.last = .retired ∧ (t.strand x).pc = (s.strand x).pc + BitVec.ofNat 16 len ∧
          (entry s = r.ring → (entry t).tail.toNat = (r.ring.tail.toNat + k) % r.slots ∧
            (entry t).pp = (r.ring.pp ^^ decide ((r.ring.tail.toNat + k) / r.slots % 2 = 1)) ∧ (entry t).head = r.ring.head) ∧
          (∀ q, q < k → t.slotState r (r.index r.ring.tail.toNat q) =
            ⟨true, r.parity r.ring.tail.toNat r.ring.pp q, false,
              if (s.slotState r (r.index r.ring.tail.toNat q)).written then (s.slotState r (r.index r.ring.tail.toNat q)).coord
              else (s.strand x).coord⟩) ∧ s.regsSame t x [] ∧
          ∀ v pa, t.globalByte v pa = s.globalByte v pa)
    let runs (i j : Instr) (len k : Nat) : Prop :=
      (x = .K → raises i 0x03 0 ∧ raises j 0x03 0) ∧
      (x ≠ .K → ((kGet Ring.zero s.pk.rings (s.pk.pcore.toNat * 16 + h.toNat)).valid = false → bad i ∧ bad j) ∧
        (∀ c d, s.ringOf h = .error (c, d) → raises i c d ∧ raises j c d) ∧
        ∀ r, s.ringOf h = .ok r →
          (k = 0 ∨ r.slots < k → bad i ∧ bad j) ∧
          (1 ≤ k → k ≤ r.slots →
            ((∃ q, q < k ∧ (s.slotState r (r.index r.ring.head.toNat q)).full = false) → bad i) ∧
            ((∃ q, q < k ∧ (s.slotState r (r.index r.ring.tail.toNat q)).full = true) ∨
              (∃ w, s.streamFor h = some w ∧ descAdv w.desc = true) → bad j) ∧
            (Memory.wf s.pk.mu.scratch = true → s.advanceDone x h (s.ringScope r) = true → advances i j len k r)))
    runs (.ringAdvC h n) (.ringAdvP h n) 2 n.toNat ∧ runs (.ringAdvCC h m) (.ringAdvPC h m) 1 m.toNat

/-- R194, R191, R190: RING.PUSH writes a register into the slot past TAIL, RING.POP reads one from the full slot past HEAD as an
acquire; a word that does not fit the slot is RING_PROTOCOL, and one that reaches HOME's B is SCRATCH_BOUNDS (R155), with the
address of its first byte at or past B. RING.DEF at or below the known horizon writes a checked entry and clears
the slot states of a ring at home, and waits above it.
R194, R76: RING.PUSH of a tile on V writes its 4,096 bytes at the start of the slot past TAIL, RING.POP reads the full slot past HEAD into
every lane of a tile, as an acquire, whatever the mask; a slot smaller than that is RING_PROTOCOL. -/
def Obligations.RingMoveResults : Prop :=
  (∀ (s : State) (h : BitVec 4) (w : BitVec 10) (o : BitVec 2) (d : BitVec 6), s.issues .A →
     (∀ r, s.ringOf h = .ok r →
       (r.slotSize < 8 * w.toNat + 8 → exec (.ringPushA h w o d) s = .next (s.raises .A 0x1D (h.setWidth 64) 0) ∧
         exec (.ringPopA h w o d) s = .next (s.raises .A 0x1D (h.setWidth 64) 0)) ∧
       (8 * w.toNat + 8 ≤ r.slotSize →
         let fits (i : Nat) : Bool := s.scratchOk false r.pcore (r.slotOff i + 8 * w.toNat) 8
         let addr (i : Nat) : BitVec 64 := BitVec.ofNat 64 (2 ^ 63) |||
           (r.slotAddr i (8 * w.toNat + s.pastBound false r.pcore (r.slotOff i + 8 * w.toNat))).setWidth 64
         (fits (r.index r.ring.tail.toNat o.toNat) = false → exec (.ringPushA h w o d) s =
           .next (s.raises .A 0x1A 0x10D (addr (r.index r.ring.tail.toNat o.toNat)))) ∧
         (fits (r.index r.ring.head.toNat o.toNat) = false → s.fullWait r o.toNat 1 = .ready → exec (.ringPopA h w o d) s =
           .next (s.raises .A 0x1A 0x10C (addr (r.index r.ring.head.toNat o.toNat)))) ∧
         (∀ t, fits (r.index r.ring.tail.toNat o.toNat) = true → s.scratchStore .A (s.strand .A).coord (s.kept .A (s.strand .A).coord) r.pcore
             (r.slotAddr (r.index r.ring.tail.toNat o.toNat) (8 * w.toNat)) (toBytes 8 (s.reg .A d)) = .done t →
           exec (.ringPushA h w o d) s = .next ((t.produces .A r).after .A 2)) ∧
         (fits (r.index r.ring.head.toNat o.toNat) = true → s.fullWait r o.toNat 1 = .ready →
           exec (.ringPopA h w o d) s = .next ((((s.consumes .A r).acquire .A (s.ringScope r)).putReg .A d
             (BitVec.ofNat 64 (leNat (((s.consumes .A r).acquire .A (s.ringScope r)).scratchRead r.pcore
               (r.slotOff (r.index r.ring.head.toNat o.toNat) + 8 * w.toNat) 8)))).after .A 2)))) ∧
     (s.core.qu.hk < (s.strand .A).coord.key → exec (.ringDef h d) s = .next s.waits) ∧
     (∀ e p, (s.strand .A).coord.key ≤ s.core.qu.hk → s.checkDef h (s.reg .A d) = .ok (e, p) →
       ∃ t, exec (.ringDef h d) s = .next t ∧ t.last = .retired ∧
         kGet Ring.zero t.pk.rings (s.pk.pcore.toNat * 16 + h.toNat) = e ∧
         (e.remote = false → ∀ q, q < 8192 → t.scratchByte s.pk.pcore.toNat (0x3E0000 + h.toNat * 8192 + q) = 0) ∧
         ∀ v pa, t.globalByte v pa = s.globalByte v pa)) ∧
  (∀ (s : State) (h : BitVec 4) (o : BitVec 2) (v : BitVec 6) (r : RingAt), s.issues .V → s.lanesOut v = false → s.ringOf h = .ok r →
     (r.slotSize < 4096 → exec (.ringPushV h o v) s = .next (s.raises .V 0x1D (h.setWidth 64) 0) ∧
       exec (.ringPopV h o v) s = .next (s.raises .V 0x1D (h.setWidth 64) 0)) ∧
     (4096 ≤ r.slotSize →
       let fits (i : Nat) : Bool := s.scratchOk false r.pcore (r.slotOff i) 4096
       (∀ t, fits (r.index r.ring.tail.toNat o.toNat) = true → s.scratchStore .V (s.strand .V).coord (s.kept .V (s.strand .V).coord) r.pcore
           (r.slotAddr (r.index r.ring.tail.toNat o.toNat) 0) ((s.tile v).flatMap fun x => toBytes 4 x) = .done t →
         exec (.ringPushV h o v) s = .next ((t.produces .V r).after .V 2)) ∧
       (fits (r.index r.ring.head.toNat o.toNat) = true → s.fullWait r o.toNat 1 = .ready → ∀ u w,
         u = (s.consumes .V r).acquire .V (s.ringScope r) → u.snapTile v = some w →
         exec (.ringPopV h o v) s = .next ((w.putTile v ((List.range 1024).map fun l => BitVec.ofNat 32 (leNat
           (u.scratchRead r.pcore (r.slotOff (r.index r.ring.head.toNat o.toNat) + 4 * l) 4)))).after .V 2))))

/-! ## Streams and the tag table (R158 to R161, R166, R184 to R187, R195, R196) -/

/-- R184, R185: SDEF of eight registers writes the descriptor of a stream that is not running and leaves it IDLE; a running one is
STREAM_DESC 0x0B; a first register that is no multiple of eight is ILLEGAL_ENCODING. SCRLD and SCRST move 64 bytes between scratchpad
and a descriptor or eight registers.
R160, R186, R187: SGO of a descriptor that passes its checks starts the walk at the strand's coordinate with nothing filled, one that
fails a check is STREAM_DESC with the check's code, and one of a running stream 0x0B. SSTOP at or below the known horizon puts the
stream to IDLE and waits above it; SSTAT reads the state, the address of the head or its index; that the index reads 0 in IDLE and DONE is
the model's choice (log 39). R161, R163, R159, R162: a slot fill of a running stream reads the units of the slot, from its head on where it
has been restarted there, writes them with their scales to the ring's next free slot, which is then full and TAIL past it for ADV = 1 and
written for ADV = 0, with the coordinate of the slot's first unit, and moves the walk on, to DONE after its last unit. -/
def Obligations.StreamResults : Prop :=
  (∀ (s : State) (a d : BitVec 6) (e : BitVec 10) (q : BitVec 4), s.issues .A →
     let t := at16 s.core.streams q
     let ea : BitVec 64 := s.reg .A a + BitVec.ofInt 64 (e.toInt * 64)
     (d.toNat % 8 ≠ 0 → exec (.sdef d q) s = .next (s.raises .A 0x01 0 0)) ∧
     (d.toNat % 8 = 0 → t.active = true → exec (.sdef d q) s = .next (s.raises .A 0x1C 0x0B 0)) ∧
     (d.toNat % 8 = 0 → t.active = false → s.preRoom = true →
       ∃ u, exec (.sdef d q) s = .next u ∧ u.last = .retired ∧ (at16 u.core.streams q).state = .idle ∧
         (∀ i, i < 8 → (at16 u.core.streams q).desc.extractLsb' (64 * i) 64 = s.reg .A (d + BitVec.ofNat 6 i)) ∧
         (∀ p, p ≠ q → at16 u.core.streams p = at16 s.core.streams p) ∧ s.regsSame u .A [] ∧
         ∀ v pa, u.globalByte v pa = s.globalByte v pa) ∧
     (∀ p o, s.checkAddr .A ea .read 64 64 = .ok (.scratch p o) → ea.getLsbD 63 = true →
       (t.active = false → s.preRoom = true →
         ∃ u, exec (.scrldStream a e q) s = .next u ∧ u.last = .retired ∧ (at16 u.core.streams q).state = .idle ∧
           (at16 u.core.streams q).desc = BitVec.ofNat 512 (leNat (s.scratchRead p (scratchOff o) 64))) ∧
       (d.toNat % 8 = 0 → ∃ u, exec (.scrldOctet a e d) s = .next u ∧ u.last = .retired ∧
         (∀ i, i < 8 → d + BitVec.ofNat 6 i ≠ 0 → u.reg .A (d + BitVec.ofNat 6 i) =
           (BitVec.ofNat 512 (leNat (s.scratchRead p (scratchOff o) 64))).extractLsb' (64 * i) 64) ∧
         (∀ r : BitVec 6, r.toNat / 8 ≠ d.toNat / 8 → u.reg .A r = s.reg .A r) ∧ s.statusSame u .A ∧ s.restSame u .A)) ∧
     (∀ p o u, s.checkAddr .A ea .write 64 64 = .ok (.scratch p o) → ea.getLsbD 63 = true →
       (s.scratchStore .A (s.strand .A).coord (s.kept .A (s.strand .A).coord) p o (toBytes 64 t.desc) = .done u →
         exec (.scrstStream a e q) s = .next (u.after .A 2)) ∧
       (d.toNat % 8 = 0 →
         s.scratchStore .A (s.strand .A).coord (s.kept .A (s.strand .A).coord) p o (toBytes 64 (s.octet d)) = .done u →
         exec (.scrstOctet a e d) s = .next (u.after .A 2)))) ∧
  (∀ (s : State) (q : BitVec 4) (d : BitVec 6) (w : BitVec 2),
     let t := at16 s.core.streams q
     (s.issues .A → t.active = true → exec (.sgo q) s = .next (s.raises .A 0x1C 0x0B 0)) ∧
     (∀ c, s.issues .A → t.active = false → s.streamFault q = some c →
       exec (.sgo q) s = .next (s.raises .A 0x1C (BitVec.ofNat 64 c) 0)) ∧
     (∀ r, s.issues .A → t.active = false → s.streamFault q = none → s.scratchFault t.desc = none → descLat t.desc = 0 →
       s.ringOf (descRing t.desc) = .ok r →
       ∃ u, exec (.sgo q) s = .next u ∧ u.last = .retired ∧ (at16 u.core.streams q).state = .run ∧
         (at16 u.core.streams q).base = (s.strand .A).coord ∧ (at16 u.core.streams q).head = 0 ∧
         (at16 u.core.streams q).filled = 0 ∧ (at16 u.core.streams q).desc = t.desc ∧
         (∀ p, p ≠ q → at16 u.core.streams p = at16 s.core.streams p) ∧ s.regsSame u .A []) ∧
     (s.issues .A → s.core.qu.hk < (s.strand .A).coord.key → exec (.sstop q) s = .next s.waits) ∧
     (s.issues .A → (s.strand .A).coord.key ≤ s.core.qu.hk →
       ∃ u, exec (.sstop q) s = .next u ∧ u.last = .retired ∧ at16 u.core.streams q = { t with state := .idle } ∧
         ∀ p, p ≠ q → at16 u.core.streams p = at16 s.core.streams p) ∧
     (s.issues .A → w ≠ 3 → exec (.sstat d w q) s = .next ((s.putReg .A d (t.stat w)).after .A 2)) ∧
     (∀ r i got u, t.state = .run → s.streamHeld (t.keyAt (t.filled * slotUnits t.desc)) = false → s.ringOf (descRing t.desc) = .ok r →
       s.freeSlotFor r t.desc = some i → s.scratchOk false r.pcore (r.slotOff i) (slotBytes t.desc) = true → let parts := slotParts t.desc (t.filled * slotUnits t.desc)
       s.readParts (parts.drop t.got.length) t.got.reverse = .ok got u →
       ∃ v, exec (.streamSlotFill q) s = .next v ∧ (at16 v.core.streams q).filled = t.filled + 1 ∧
         (at16 v.core.streams q).head = (t.filled + 1) * slotUnits t.desc ∧
         (at16 v.core.streams q).state =
           (if unitCount t.desc ≤ (t.filled + 1) * slotUnits t.desc then .done else .run) ∧ (at16 v.core.streams q).desc = t.desc ∧
         (at16 v.core.streams q).got = [] ∧
         (Memory.wf u.pk.mu.scratch = true → (slotFrom parts got).length = slotBytes t.desc →
           let coord := Coord.ofKey (t.keyAt (t.filled * slotUnits t.desc))
           v.scratchRead r.pcore (r.slotOff i) (slotBytes t.desc) = slotFrom parts got ∧
           v.slotState r i = (if descAdv t.desc then ⟨true, r.ring.pp, false, coord⟩
             else { u.slotState r i with written := true, coord := coord }) ∧
           (kGet Ring.zero u.pk.rings r.key = r.ring → let e := kGet Ring.zero v.pk.rings r.key
             if descAdv t.desc then e.tail.toNat = r.index i 1 ∧ e.pp = r.parity i r.ring.pp 1 ∧ e.head = r.ring.head
             else e.wtail.toNat = r.index i 1 ∧ e.tail = r.ring.tail ∧ e.head = r.ring.head))))

/-- R166, R195, R196: TLOOK gives the entry number, slot, RDY and length of the valid entry that holds a key, or a one in bit 63; TSET
writes an entry that is not ready, TREADY sets RDY once the strand's release is done, TREADY.clr clears it and TDROP makes the entry
invalid. A number above 4095 is OPERAND_RANGE 0x12 and an invalid entry of TREADY is TAG_TABLE. -/
def Obligations.TagTableResults : Prop :=
  ∀ (s : State) (d a b : BitVec 6), s.issues .A →
    let n := (s.reg .A a).toNat
    let e := cellGet s.core.tags n
    let sets (i : Instr) (v : BitVec 128) : Prop :=
      ∃ t, exec i s = .next t ∧ t.last = .retired ∧ t.core.tags = cellSet s.core.tags n v ∧ s.regsSame t .A []
    let p := s.reg .A d
    let entry : BitVec 128 := BitVec.ofNat 128 ((s.reg .A b).toNat + (p.toNat % 2 ^ 14) * 2 ^ 64 + 2 ^ 78 + (p.toNat / 2 ^ 16 % 2 ^ 16) * 2 ^ 80)
    (4095 < n → exec (.tset d a b) s = .next (s.raises .A 0x0E 0x12 0) ∧ exec (.tready a) s = .next (s.raises .A 0x0E 0x12 0) ∧
      exec (.treadyClr a) s = .next (s.raises .A 0x0E 0x12 0) ∧ exec (.tdrop a) s = .next (s.raises .A 0x0E 0x12 0)) ∧
    (n ≤ 4095 → s.preRoom = true →
      (p.toNat / 2 ^ 14 % 4 = 0 → p.toNat < 2 ^ 32 → p.toNat / 2 ^ 16 ≠ 0 →
        (∀ kv ∈ s.core.tags, kv.1 ≠ n → tagV kv.2 = true → tagKey kv.2 ≠ s.reg .A b) →
        (p.toNat % 2 ^ 14 + p.toNat / 2 ^ 16) * 256 ≤ s.ownB → sets (.tset d a b) entry) ∧
      (tagV e = true → s.releaseDone .A 1 = true → sets (.tready a) (e ||| BitVec.ofNat 128 (2 ^ 79))) ∧
      (tagV e = true → sets (.treadyClr a) (e &&& ~~~(BitVec.ofNat 128 (2 ^ 79)))) ∧
      (tagV e = true → sets (.tdrop a) (e &&& ~~~(BitVec.ofNat 128 (2 ^ 78 + 2 ^ 79)))) ∧
      (tagV e = false → exec (.tready a) s = .next (s.raises .A 0x1B 0 0) ∧ exec (.treadyClr a) s = .next (s.raises .A 0x1B 0 0) ∧
        exec (.tdrop a) s = .next (s.after .A 2))) ∧
    (tagFind s.core.tags (s.reg .A a) = none → exec (.tlook d a) s = .next ((s.putReg .A d 0x8000000000000000).after .A 2)) ∧
    (∀ k f, tagFind s.core.tags (s.reg .A a) = some (k, f) →
      exec (.tlook d a) s = .next (((if tagRdy f then s.acquire .A 1 else s).putReg .A d
        (BitVec.ofNat 64 k ||| ((tagSlot f).setWidth 64 <<< 12) ||| (if tagRdy f then BitVec.ofNat 64 (2 ^ 26) else 0) |||
          ((tagLen f).setWidth 64 <<< 28))).after .A 2))

/-! ## Numbers (R79, R80) -/

/-- R79, R80: rounding to FP32. A nonzero exact value becomes the finite FP32 value nearest to it, the even code on a tie, with NX
exactly where it is inexact; from 2^128 − 2^103 in magnitude on it becomes the infinity of its sign, with OF and NX.
R93: with unit scales the block value of an element is the exact sum over the kept rows of the products of the aligned values, a
half-step code standing for its integer and one half. R271: a block that no load has written since NEW contributes +0, whatever the formats;
that one of R93's special blocks stays special there is the model's choice (log 34). -/
def Obligations.ExactArithmetic : Prop :=
  (∀ (neg : Bool) (m : Nat) (e k : Int), m ≠ 0 → k ≤ e → k ≤ -149 →
     let r := toF32 (.num neg m e)
     let v := scaledBy k neg m e
     (((2 ^ 25 - 1) * 2 ^ (103 - k).toNat : Int) ≤ v.natAbs →
       r.1 = (if neg then 0xFF800000 else 0x7F800000) ∧ r.2 = 0x14) ∧
     ((v.natAbs : Int) < (2 ^ 25 - 1) * 2 ^ (103 - k).toNat →
       ∃ n f, f32Val r.1 = .num neg n f ∧ (r.2.getLsbD 4 = true ↔ scaledBy k neg n f ≠ v) ∧ r.2 &&& 0x07 = 0 ∧
         ∀ (y : BitVec 32) (b : Bool) (p : Nat) (g : Int), f32Val y = .num b p g →
           (v - scaledBy k neg n f).natAbs ≤ (v - scaledBy k b p g).natAbs ∧
           ((v - scaledBy k neg n f).natAbs = (v - scaledBy k b p g).natAbs → scaledBy k b p g ≠ scaledBy k neg n f →
             r.1.getLsbD 0 = false))) ∧
  (∀ (fa fb : Fmt) (a b : List Int) (sa sb k : Int), a.length = b.length → k ≤ sa + sb - 16 →
     let half (f : Fmt) : Int := if f = .h4 ∨ f = .h8 then 1 else 0
     (∀ (fa fb : Fmt) (n : Nat) (sumA p : Int) (c : ColumnRecord), (bf16Val c.scale).notFinite = false → c.special = false →
       blockValue fa fb false n sumA p sa 0x3F80 false c = .num false 0 0) ∧
     ∃ n m e, blockValue fa fb true a.length (a.foldl (· + ·) 0) ((List.zipWith (· * ·) a b).foldl (· + ·) 0) sa 0x3F80 false
         ⟨sb, 0x3F80, b.foldl (· + ·) 0, false⟩ = .num n m e ∧
       scaledBy (min k e) n m e = ((List.zipWith (fun x y => (2 * x + half fa) * (2 * y + half fb)) a b).foldl (· + ·) 0) * 2 ^ (sa + sb - 2 - min k e).toNat)

/-! ## Tiles and lanes (R197 to R208, R214 to R222) -/

/-- R216, R215, R202: the integer operations of major 0x0E on tiles and slots, lane by lane: the wrapping forms, the shifts by y[4:0],
the saturating forms, which set OF where they clamp, the comparisons into a mask, and VMOV. -/
def Obligations.VectorIntegerResults : Prop :=
  ∀ (s m u : State) (d a b : BitVec 7) (ta tb : Tile), s.issues .V → tileFound s a 1 ta m → tileFound m b 1 tb u →
    let gives (i : Instr) (f : BitVec 32 → BitVec 32 → BitVec 32) : Prop := vecWrites s u d i fun l => (f (lane ta l) (lane tb l), 0)
    let sat (i : Instr) (lo hi : Int) (f : BitVec 32 → BitVec 32 → Int) : Prop := vecWrites s u d i fun l =>
      let v := f (lane ta l) (lane tb l)
      (BitVec.ofInt 32 (if v < lo then lo else if hi < v then hi else v), if v < lo ∨ hi < v then 4 else 0)
    let bit (i : Instr) (f : BitVec 32 → BitVec 32 → Bool) : Prop := maskWrites s u d i fun l => (f (lane ta l) (lane tb l), 0)
    gives (.vadd d a b) (fun x y => x + y) ∧ gives (.vsub d a b) (fun x y => x - y) ∧ gives (.vmul d a b) (fun x y => x * y) ∧
    gives (.vminI d a b) (fun x y => if x.toInt ≤ y.toInt then x else y) ∧
    gives (.vminN d a b) (fun x y => if x.toNat ≤ y.toNat then x else y) ∧
    gives (.vmaxI d a b) (fun x y => if x.toInt ≤ y.toInt then y else x) ∧
    gives (.vmaxN d a b) (fun x y => if x.toNat ≤ y.toNat then y else x) ∧
    gives (.vand d a b) (fun x y => x &&& y) ∧ gives (.vor d a b) (fun x y => x ||| y) ∧
    gives (.vxor d a b) (fun x y => x ^^^ y) ∧ gives (.vandn d a b) (fun x y => x &&& ~~~y) ∧
    gives (.vshl d a b) (fun x y => x <<< (y.toNat % 32)) ∧ gives (.vshr d a b) (fun x y => x >>> (y.toNat % 32)) ∧
    gives (.vsra d a b) (fun x y => x.sshiftRight (y.toNat % 32)) ∧
    sat (.vaddsI d a b) (-2 ^ 31) (2 ^ 31 - 1) (fun x y => x.toInt + y.toInt) ∧
    sat (.vaddsN d a b) 0 (2 ^ 32 - 1) (fun x y => (x.toNat : Int) + y.toNat) ∧
    sat (.vsubsI d a b) (-2 ^ 31) (2 ^ 31 - 1) (fun x y => x.toInt - y.toInt) ∧
    sat (.vsubsN d a b) 0 (2 ^ 32 - 1) (fun x y => (x.toNat : Int) - y.toNat) ∧
    bit (.vceq d a b) (fun x y => decide (x = y)) ∧ bit (.vcltI d a b) (fun x y => decide (x.toInt < y.toInt)) ∧
    bit (.vcltN d a b) (fun x y => decide (x.toNat < y.toNat)) ∧ vecWrites s m d (.vmov d a) (fun l => (lane ta l, 0))

/-- R216, R217, R214: the mask operations write all 1,024 bits whatever v.mask holds, MK.set the lowest sA of them; VBCS writes the low
word of a scalar register to every active lane, VIDX the lane's index; VINS writes one lane where it is active, VEXT reads one, an
inactive lane as zero, and a lane above 1,023 is OPERAND_RANGE 0x20. A scalar field of 32 to 63 is WRONG_STRAND, a mask field above 7
ILLEGAL_ENCODING. -/
def Obligations.MaskAndLaneResults : Prop :=
  ∀ (s : State) (d a b : BitVec 7), s.issues .V →
    let A := s.reg .V (scalarNo a)
    let n := (s.reg .V (scalarNo b)).toNat
    let masks (i : Instr) (v : BitVec 1024) : Prop :=
      exec i s = .next (if d.toNat < 8 ∧ a.toNat < 8 ∧ b.toNat < 8 then (s.putMask (maskNo d) v).after .V 2
        else s.raises .V 0x01 0 0)
    masks (.mkAnd d a b) (s.mask (maskNo a) &&& s.mask (maskNo b)) ∧ masks (.mkOr d a b) (s.mask (maskNo a) ||| s.mask (maskNo b)) ∧
    masks (.mkXor d a b) (s.mask (maskNo a) ^^^ s.mask (maskNo b)) ∧
    masks (.mkAndn d a b) (s.mask (maskNo a) &&& ~~~(s.mask (maskNo b))) ∧
    (d.toNat < 8 → a.toNat < 32 → ∃ v : BitVec 1024, (∀ i, i < 1024 → v.getLsbD i = decide (i < A.toNat)) ∧
      exec (.mkSet d a) s = .next ((s.putMask (maskNo d) v).after .V 2)) ∧
    (a.toNat < 32 → vecWrites s s d (.vbcs d a) (fun _ => (A.setWidth 32, 0))) ∧
    (32 ≤ a.toNat → a.toNat < 64 → exec (.vbcs d a) s = .next (s.raises .V 0x03 0 0)) ∧
    vecWrites s s d (.vidx d) (fun l => (BitVec.ofNat 32 l, 0)) ∧
    (d.toNat < 64 → a.toNat < 32 → b.toNat < 32 →
      (1023 < n → exec (.vins d a b) s = .next (s.raises .V 0x0E 0x20 0)) ∧
      (n ≤ 1023 → s.lanesOut (tileNo d) = false →
        (s.active.getLsbD n = false → exec (.vins d a b) s = .next (s.after .V 2)) ∧
        (s.active.getLsbD n = true → ∀ w, s.snapTile (tileNo d) = some w →
          exec (.vins d a b) s = .next ((w.putTile (tileNo d) (laneIds.map fun l =>
            if l = n then A.setWidth 32 else lane (s.tile (tileNo d)) l)).after .V 2)))) ∧
    (d.toNat < 32 → b.toNat < 32 →
      (1023 < n → exec (.vext d a b) s = .next (s.raises .V 0x0E 0x20 0)) ∧
      ∀ ta u, n ≤ 1023 → tileFound s a 1 ta u → exec (.vext d a b) s = .next ((u.putReg .V (scalarNo d)
        (if u.active.getLsbD n then (lane ta n).setWidth 64 else 0)).after .V 2))

/-- R219, R220, R79, R80: the float operations of major 0x0F, lane by lane: one rounding of the exact sum, difference or product, VFMA
and VFNMA with one rounding in all, the minima and maxima with −0 below +0, the default NaN and NV for a signalling operand, and the
comparisons into a mask, of which VFCLT and VFCLE set NV for any NaN. -/
def Obligations.VectorFloatResults : Prop :=
  ∀ (s m u : State) (d a b : BitVec 7) (ta tb : Tile), s.issues .V → tileFound s a 1 ta m →
    let rnd (p : Val × Flags5) : Flagged := ((toF32 p.1).1, p.2 ||| (toF32 p.1).2)
    let nan (x y : BitVec 32) : Bool := (f32Val x).isNan || (f32Val y).isNan
    let nv (x y : BitVec 32) : Flags5 := if (f32Val x).isSignalling || (f32Val y).isSignalling then 1 else 0
    let less (x y : BitVec 32) : Bool := (f32Val x).lt (f32Val y)
    let eqv (x y : BitVec 32) : Bool := !nan x y && !less x y && !less y x
    let below (x y : BitVec 32) : Bool := less x y || (eqv x y && x.getLsbD 31 && !y.getLsbD 31)
    let fma (neg : Bool) (c x y : BitVec 32) : Flagged :=
      let p := (f32Val x).mul (f32Val y)
      let q := (f32Val c).add (if neg then p.1.negate else p.1)
      rnd (q.1, p.2 ||| q.2)
    (tileFound m b 1 tb u →
      let gives (i : Instr) (f : BitVec 32 → BitVec 32 → Flagged) : Prop := vecWrites s u d i fun l => f (lane ta l) (lane tb l)
      let bit (i : Instr) (f : BitVec 32 → BitVec 32 → Bool × Flags5) : Prop := maskWrites s u d i fun l => f (lane ta l) (lane tb l)
      gives (.vfadd d a b) (fun x y => rnd ((f32Val x).add (f32Val y))) ∧
      gives (.vfsub d a b) (fun x y => rnd ((f32Val x).add (f32Val y).negate)) ∧
      gives (.vfmul d a b) (fun x y => rnd ((f32Val x).mul (f32Val y))) ∧
      vecWrites s u d (.vfma d a b) (fun l => fma false (lane (u.tile (tileNo d)) l) (lane ta l) (lane tb l)) ∧
      vecWrites s u d (.vfnma d a b) (fun l => fma true (lane (u.tile (tileNo d)) l) (lane ta l) (lane tb l)) ∧
      gives (.vfmin d a b) (fun x y => (if nan x y then 0x7FC00000 else if below y x then y else x, nv x y)) ∧
      gives (.vfmax d a b) (fun x y => (if nan x y then 0x7FC00000 else if below x y then y else x, nv x y)) ∧
      bit (.vfceq d a b) (fun x y => (eqv x y, nv x y)) ∧ bit (.vfclt d a b) (fun x y => (less x y, if nan x y then 1 else 0)) ∧
      bit (.vfcle d a b) (fun x y => (less x y || eqv x y, if nan x y then 1 else 0)) ∧
      bit (.vfcun d a b) (fun x y => (nan x y, nv x y))) ∧
    vecWrites s m d (.vfabs d a) (fun l => (lane ta l &&& 0x7FFFFFFF, 0)) ∧
    vecWrites s m d (.vfneg d a) (fun l => (lane ta l ^^^ 0x80000000, 0)) ∧
    (b.toNat < 32 →
      let y : BitVec 32 := (s.reg .V (scalarNo b)).setWidth 32
      vecWrites s m d (.vfmuls d a b) (fun l => rnd ((f32Val (lane ta l)).mul (f32Val y))) ∧
      vecWrites s m d (.vfadds d a b) (fun l => rnd ((f32Val (lane ta l)).add (f32Val y))))

/-- R223, R224: CVT converts element by element, the elements of part p of the denser tile; destination elements outside the part keep
their values, a source element in another lane that is inactive reads as zero, and the flags of a lane are those of its conversions. A
type code that no lane holds and a part outside the layouts are ILLEGAL_ENCODING. -/
def Obligations.ConversionResults : Prop :=
  ∀ (s u : State) (d a : BitVec 7) (f t : BitVec 4) (p : BitVec 3) (ta : Tile) (src dst : Fmt) (ks kd : Nat), s.issues .V →
    (f.toNat = 8 ∨ 12 ≤ f.toNat ∨ t.toNat = 8 ∨ 12 ≤ t.toNat → exec (.cvt d a f p t) s = .next (s.raises .V 0x01 0 0)) ∧
    (fmtOf f.toNat = some src → fmtOf t.toNat = some dst → perLane f.toNat = some ks → perLane t.toNat = some kd →
      f.toNat ≠ 12 → t.toNat ≠ 12 →
      (max ks kd / min ks kd ≤ p.toNat → exec (.cvt d a f p t) s = .next (s.raises .V 0x01 0 0)) ∧
      (p.toNat < max ks kd / min ks kd → tileFound s a ks ta u →
        let seen (l e : Nat) : Nat :=
          if e / ks = l ∨ u.active.getLsbD (e / ks) = true then subElem ks (e % ks) (lane ta (e / ks)) else 0
        let from_ (l j : Nat) : Option Nat :=
          let n := l * kd + j
          if ks ≤ kd then (if p.toNat * 1024 * ks ≤ n ∧ n < (p.toNat + 1) * 1024 * ks then some (seen l (n - p.toNat * 1024 * ks)) else none)
          else some (seen l (p.toNat * 1024 * kd + n))
        ∃ new : Nat → Flagged, vecWrites s u d (.cvt d a f p t) new ∧ ∀ l j, l < 1024 → j < kd →
          (from_ l j = none → subElem kd j (new l).1 = subElem kd j (lane (u.tile (tileNo d)) l)) ∧
          (∀ c, from_ l j = some c → subElem kd j (new l).1 = (convertElem src dst c).1 % 2 ^ (32 / kd)) ∧
          ∀ b, b < 5 → ((new l).2.getLsbD b = true ↔ ∃ i c, i < kd ∧ from_ l i = some c ∧ (convertElem src dst c).2.getLsbD b = true)))

/-- R221, R222, R202: rotations and broadcasts along an axis, and the reductions of a row of 64 or a column of 16 in the fixed tree;
inactive source lanes read as zero. An index outside the axis is OPERAND_RANGE 0x21. -/
def Obligations.AxisResults : Prop :=
  ∀ (s u : State) (d a b : BitVec 7) (ta : Tile), s.issues .V → tileFound s a 1 ta u →
    let g (r c : Int) : BitVec 32 :=
      let l := (r * 64 + c).toNat
      if u.active.getLsbD l then lane ta l else 0
    let row (l : Nat) : Int := (l / 64 : Nat)
    let col (l : Nat) : Int := (l % 64 : Nat)
    let k : Int := (s.reg .V (scalarNo b)).toNat
    let red (i j : Instr) (op : BitVec 32 → BitVec 32 → Flagged) : Prop :=
      vecWrites s u d i (fun l => treeOf op (fun c => g (row l) c) 6 0) ∧
      vecWrites s u d j (fun l => treeOf op (fun r => g r (col l)) 4 0)
    let int (f : BitVec 32 → BitVec 32 → BitVec 32) (x y : BitVec 32) : Flagged := (f x y, 0)
    (b.toNat < 32 →
      vecWrites s u d (.rotr d a b) (fun l => (g (row l) ((col l - k) % 64), 0)) ∧
      vecWrites s u d (.rotc d a b) (fun l => (g ((row l - k) % 16) (col l), 0)) ∧
      (k ≤ 63 → vecWrites s u d (.bcr d a b) (fun l => (g (row l) k, 0))) ∧
      (k ≤ 15 → vecWrites s u d (.bcc d a b) (fun l => (g k (col l), 0))) ∧
      (63 < k → d.toNat < 64 → exec (.bcr d a b) s = .next (s.raises .V 0x0E 0x21 0)) ∧
      (15 < k → d.toNat < 64 → exec (.bcc d a b) s = .next (s.raises .V 0x0E 0x21 0))) ∧
    red (.redrFadd d a) (.redcFadd d a) f32Add ∧ red (.redrFmax d a) (.redcFmax d a) f32Max ∧
    red (.redrFmin d a) (.redcFmin d a) f32Min ∧ red (.redrAdd d a) (.redcAdd d a) (int fun x y => x + y) ∧
    red (.redrMaxI d a) (.redcMaxI d a) (int fun x y => if x.toInt ≤ y.toInt then y else x) ∧
    red (.redrMinI d a) (.redcMinI d a) (int fun x y => if x.toInt ≤ y.toInt then x else y) ∧
    red (.redrMaxN d a) (.redcMaxN d a) (int fun x y => if x.toNat ≤ y.toNat then y else x) ∧
    red (.redrMinN d a) (.redcMinN d a) (int fun x y => if x.toNat ≤ y.toNat then x else y)

/-- R226 to R228: the special functions, lane by lane. RCPN and RSQN are the Newton steps of R227, each expression rounded once, and pass
a zero or an infinity through; RCPA, RSQA, EXP2 and LOG2 give the special values of their tables.
R218: DOT4.S adds four exact products of signed bytes to the accumulator and clamps once, with OF where it clamps; a slot that is no
stream of .i8 is VECTOR_SHAPE. R229: RAND writes Philox4x32-10 of 256 consecutive counters, four lanes each, the counter and key read from
the first lanes of a tile pair and from a scalar register. -/
def Obligations.SpecialDotAndRandResults : Prop :=
  ((∀ (s m u : State) (d a b : BitVec 7) (ta tb : Tile), s.issues .V → tileFound s a 1 ta m →
     let rnd (p : Val × Flags5) : Flagged := ((toF32 p.1).1, p.2 ||| (toF32 p.1).2)
     let nv (x y : BitVec 32) : Flags5 := if (f32Val x).isSignalling || (f32Val y).isSignalling then 1 else 0
     -- rne32 of v + (sign) x * y
     let ma (v : Val) (neg : Bool) (x y : BitVec 32) : Flagged :=
       let p := (f32Val x).mul (f32Val y)
       let q := v.add (if neg then p.1.negate else p.1)
       rnd (q.1, p.2 ||| q.2)
     let one : Val := .num false 1 0
     let passes (y : BitVec 32) : Prop := (f32Val y).isZero = true ∨ y = 0x7F800000 ∨ y = 0xFF800000
     let newton (x y : BitVec 32) (step : Flagged) (r : Flagged) : Prop :=
       (passes y → r = (y, 0)) ∧
       (¬passes y → ((f32Val x).isNan || (f32Val y).isNan) = true → r = (0x7FC00000, nv x y)) ∧
       (¬passes y → ((f32Val x).isNan || (f32Val y).isNan) = false → r = step)
     vecWrites s m d (.rcpa d a) (fun l => f32Rcpa (lane ta l)) ∧ vecWrites s m d (.rsqa d a) (fun l => f32Rsqa (lane ta l)) ∧
     vecWrites s m d (.exp2 d a) (fun l => f32Exp2 (lane ta l)) ∧ vecWrites s m d (.log2 d a) (fun l => f32Log2 (lane ta l)) ∧
     (tileFound m b 1 tb u →
       (∃ r : BitVec 32 → BitVec 32 → Flagged, vecWrites s u d (.rcpn d a b) (fun l => r (lane ta l) (lane tb l)) ∧
         ∀ x y,
           let e := ma one true x y
           let z := ma (f32Val y) false y e.1
           newton x y (z.1, e.2 ||| z.2) (r x y)) ∧
       ∃ r : BitVec 32 → BitVec 32 → Flagged, vecWrites s u d (.rsqn d a b) (fun l => r (lane ta l) (lane tb l)) ∧
         ∀ x y,
           let t := rnd ((f32Val x).mul (f32Val y))
           let e := ma one true t.1 y
           let h := rnd ((f32Val y).mul (f32Val 0x3F000000))
           let z := ma (f32Val y) false h.1 e.1
           newton x y (z.1, t.2 ||| e.2 ||| h.2 ||| z.2) (r x y))) ∧
   (f32Rcpa 0 = (0x7F800000, 2) ∧ f32Rcpa 0x80000000 = (0xFF800000, 2) ∧ f32Rcpa 0x7F800000 = (0, 0) ∧
     f32Rcpa 0xFF800000 = (0x80000000, 0) ∧ f32Rcpa 0x40400000 = (0x3EAAB000, 0x10) ∧
     f32Rsqa 0 = (0x7F800000, 2) ∧ f32Rsqa 0x80000000 = (0xFF800000, 2) ∧ f32Rsqa 0x7F800000 = (0, 0) ∧
     f32Rsqa 0xFF800000 = (0x7FC00000, 1) ∧ f32Rsqa 0xBF800000 = (0x7FC00000, 1) ∧
     f32Exp2 0 = (0x3F800000, 0) ∧ f32Exp2 0x7F800000 = (0x7F800000, 0) ∧ f32Exp2 0xFF800000 = (0, 0) ∧
     f32Exp2 0x3F800000 = (0x40000000, 0) ∧ f32Exp2 0x43000000 = (0x7F800000, 0x14) ∧
     f32Log2 0 = (0xFF800000, 2) ∧ f32Log2 0x80000000 = (0xFF800000, 2) ∧ f32Log2 0x7F800000 = (0x7F800000, 0) ∧
     f32Log2 0xFF800000 = (0x7FC00000, 1) ∧ f32Log2 0xBF800000 = (0x7FC00000, 1) ∧ f32Log2 0x3F800000 = (0, 0) ∧
     ∀ x, (f32Val x).isNan = true →
       let r : Flagged := (0x7FC00000, if (f32Val x).isSignalling then 1 else 0)
       f32Rcpa x = r ∧ f32Rsqa x = r ∧ f32Exp2 x = r ∧ f32Log2 x = r)) ∧
  (∀ (s m u : State) (d a b : BitVec 7) (ta tb : Tile), s.issues .V →
     (a.getLsbD 6 = true → d.getLsbD 6 = false → descFmt (at16 s.core.streams (selStream a)).desc ≠ 5 →
       exec (.dot4S d a b) s = .next (s.raises .V 0x2A ((selStream a).setWidth 64) 0)) ∧
     ((a.getLsbD 6 = true → descFmt (at16 s.core.streams (selStream a)).desc = 5) →
       (b.getLsbD 6 = true → descFmt (at16 s.core.streams (selStream b)).desc = 5) → tileFound s a 4 ta m → tileFound m b 4 tb u →
       vecWrites s u d (.dot4S d a b) fun l =>
         let acc : Int := (lane (u.tile (tileNo d)) l).toInt + ((List.range 4).map fun j =>
           ((lane ta l).extractLsb' (8 * j) 8).toInt * ((lane tb l).extractLsb' (8 * j) 8).toInt).sum
         (BitVec.ofInt 32 (max (-2 ^ 31) (min (2 ^ 31 - 1) acc)), if acc < -2 ^ 31 ∨ 2 ^ 31 - 1 < acc then 4 else 0)) ∧
     (a.toNat < 64 → a.toNat % 2 = 0 → b.toNat < 32 → s.lanesOut (tileNo a) = false → s.lanesOut (tileNo a + 1) = false →
       let g (t : BitVec 6) (l : Nat) : Nat := if s.active.getLsbD l then (lane (s.tile t) l).toNat else 0
       let ctr : Nat := g (tileNo a) 0 + 2 ^ 32 * g (tileNo a) 1 + 2 ^ 64 * g (tileNo a + 1) 0 + 2 ^ 96 * g (tileNo a + 1) 1
       vecWrites s s d (.rand d a b) fun l =>
         ((philox (BitVec.ofNat 128 (ctr + l / 4)) (s.reg .V (scalarNo b))).getD (l % 4) 0, 0)))

/-! ## The frame of the vector items, pushes and pops of tiles, parking (R194, R202, R204, R206) -/

/-- R215, R202, R206, R203: the frame of the items that write a tile, on tile registers. When one retires, the destination reads back as
written, every other tile of either plane, the masks, v.mask, v.carry, the scalar registers, k.cc, the coordinate, the other strands,
the other engines and every byte of memory are as before, and no flag is cleared. -/
def Obligations.VectorFrame : Prop :=
  (∀ (i : Instr) (d : BitVec 7) (src : List (BitVec 7)) (s t : State), vecDest i = some (d, src) →
    (∀ f ∈ src, f.getLsbD 6 = false) → s.issues .V → exec i s = .next t → t.last = .retired →
    (∀ b, b < 128 → b ≠ s.bankOf (tileNo d) → t.core.vec.bank b = s.core.vec.bank b) ∧
    t.core.vec.masks = s.core.vec.masks ∧ t.core.vec.vmask = s.core.vec.vmask ∧ t.core.vec.vcarry = s.core.vec.vcarry ∧
    s.regsSame t .V [] ∧ t.core.v.cc = s.core.v.cc ∧ t.core.v.coord = s.core.v.coord ∧ t.core.v.calls = s.core.v.calls ∧
    s.core.v.flags &&& t.core.v.flags = s.core.v.flags ∧ t.core.k = s.core.k ∧ t.core.a = s.core.a ∧ t.core.m = s.core.m ∧
    t.core.streams = s.core.streams ∧ t.core.mat = s.core.mat ∧ t.core.side = s.core.side ∧ t.core.sys = s.core.sys ∧ t.pk = s.pk) ∧
  ∀ (s : State) (n : BitVec 6) (v : Tile), v.length = 1024 → (s.putTile n v).tile n = v

/-- R204, R203: with the V strand stopped, V_PARK of an empty park slot copies a tile into the FREE bank it takes and leaves the tile, and
V_UNPARK of a parked slot copies the bank into the tile and frees it. Where the V strand runs, the slot is taken, no bank is FREE or
the slot is empty, the command is refused: ERR := 1 and nothing else. That a command which succeeds leaves ERR as it was is the model's
choice (log 39). -/
def Obligations.ParkingResults : Prop :=
  ∀ (s : State) (tile : BitVec 6) (slot : BitVec 7) (b : Nat),
    let v := s.core.vec
    let p : BitVec 6 := slot.setWidth 6
    let refused : State := s.onVec fun v => { v with parkErr := true }
    (s.vStopped = false ∨ (∃ c, (c, IdleBank.parked p) ∈ v.idle) ∨ v.freeBank = none → exec (.vPark tile slot) s = .next refused) ∧
    (s.vStopped = false ∨ (∀ c, (c, IdleBank.parked p) ∉ v.idle) → exec (.vUnpark tile slot) s = .next refused) ∧
    (s.vStopped = true → (∀ c, (c, IdleBank.parked p) ∉ v.idle) → v.freeBank = some b →
      ∃ t, exec (.vPark tile slot) s = .next t ∧ (b, IdleBank.parked p) ∈ t.core.vec.idle ∧ t.core.vec.bank b = s.tile tile ∧
        (∀ c, c < 256 → c ≠ b → t.core.vec.bank c = v.bank c) ∧ t.core.vec.parkErr = v.parkErr ∧ t.pk = s.pk ∧ t.core.v = s.core.v) ∧
    (s.vStopped = true → v.parkedIn p = some b → 128 ≤ b → ∀ w, s.snapTile tile = some w →
      ∃ t, exec (.vUnpark tile slot) s = .next t ∧ t.tile tile = v.bank b ∧ kHas t.core.vec.idle b = false ∧
        (∀ c, c < 128 → c ≠ s.bankOf tile → t.core.vec.bank c = v.bank c) ∧ t.core.vec.parkErr = v.parkErr ∧ t.pk = s.pk)

/-! ## Vector memory (R230 to R233) -/

/-- R231, R232, R202, R206: VLD and VGATH read four bytes for each active lane, at sA + r × st + 4c or at sA plus four times the lane's index,
and leave the inactive lanes; VST and VSCAT write the low word of each active lane, the higher lane winning where two name one byte, to
scratchpad at once below the known horizon and to global memory through the side log, and nothing else changes: of the core V's position alone,
and on global memory the side log with the numbers of its entries. A base or a stride that
is no multiple of 4 is DATA_ALIGN; that its record carries the base as ADDR and the lowest active lane is the model's choice
(log 39). -/
def Obligations.VectorLoadStoreResults : Prop :=
  ∀ (s u : State) (d a b : BitVec 7) (tb : Tile), s.issues .V → d.toNat < 64 → a.toNat < 32 →
    let A := s.reg .V (scalarNo a)
    let B := s.reg .V (scalarNo b)
    let st : BitVec 64 := if B = 0 then 256 else B
    let row (l : Nat) : BitVec 64 := A + BitVec.ofNat 64 (l / 64) * st + BitVec.ofNat 64 (4 * (l % 64))
    let idx (l : Nat) : BitVec 64 := A + (lane tb l).signExtend 64 * 4
    let loads (m : State) (i : Instr) (cls : Nat) (ea : Nat → BitVec 64) : Prop :=
      ∀ v w, lanesFind m cls ea v → m.lanesOut (tileNo d) = false → m.snapTile (tileNo d) = some w →
        exec i s = .next ((w.putTile (tileNo d) (laneIds.map fun l =>
          if m.active.getLsbD l then v l else lane (m.tile (tileNo d)) l)).after .V 2)
    let stores (m : State) (i : Instr) (ea : Nat → BitVec 64) : Prop :=
      m.lanesOut (tileNo d) = false →
      let last (p off : Nat → Nat) (l n : Nat) : Prop :=
        ∀ k, l < k → k < 1024 → m.active.getLsbD k = true → ¬(p k = p l ∧ off k ≤ off l + n ∧ off l + n < off k + 4)
      let word (l n : Nat) : BitVec 8 := (lane (m.tile (tileNo d)) l).extractLsb' (8 * n) 8
      (∀ p off, lanesScratch m .write 4 ea p off → m.kept .V m.core.v.coord = false → Memory.wf m.pk.mu.scratch = true →
        ∃ t, exec i s = .next t ∧ t.last = .retired ∧ m.regsSame t .V [] ∧
          t.core = { m.core with v := { m.core.v.settled with pc := m.core.v.pc + 2 } } ∧
          t.pk = { m.pk with mu := { m.pk.mu with scratch := t.pk.mu.scratch } } ∧
          (∀ l n, l < 1024 → n < 4 → m.active.getLsbD l = true → last p off l n → t.scratchByte (p l) (off l + n) = word l n) ∧
          (∀ q o, o < 2 ^ 22 → (∀ l, l < 1024 → m.active.getLsbD l = true → ¬(q = p l ∧ off l ≤ o ∧ o < off l + 4)) →
            t.scratchByte q o = m.scratchByte q o) ∧
          ∀ v pa, t.globalByte v pa = m.globalByte v pa) ∧
      ∀ g : Nat → Nat, (∀ l, l < 1024 → m.active.getLsbD l = true → m.checkAddr .V (ea l) .write 4 1 = .ok (.global (g l)) ∧
          m.checkWrite pathCore false .write (g l) 4 = .ok m) → m.core.side.length + 1024 ≤ 2048 →
        ∃ t, exec i s = .next t ∧ t.last = .retired ∧ m.regsSame t .V [] ∧ t.pk = m.pk ∧
          t.core = { m.core with
            v := { m.core.v.settled with pc := m.core.v.pc + 2, seq := t.core.v.seq }
            side := t.core.side
            nextEntry := t.core.nextEntry } ∧
          (∀ l n, l < 1024 → n < 4 → m.active.getLsbD l = true → last (fun _ => 0) g l n →
            forwarded t.core.side (g l + n) = some (word l n)) ∧
          ∀ va, (∀ l, l < 1024 → m.active.getLsbD l = true → ¬(g l ≤ va ∧ va < g l + 4)) →
            forwarded t.core.side va = forwarded m.core.side va
    let low : Nat := (laneIds.find? fun l => s.active.getLsbD l).getD 0
    let bad (i : Instr) (kind : Nat) : Prop :=
      exec i s = .next (s.raises .V 0x14 (BitVec.ofNat 64 ((kind + 8 + if A.getLsbD 63 then 256 else 0) + 65536 * low)) A)
    (b.toNat < 32 →
      (A.toNat % 4 ≠ 0 ∨ st.toNat % 4 ≠ 0 → bad (.vld d a b) 0 ∧ bad (.vst d a b) 1) ∧
      (A.toNat % 4 = 0 → st.toNat % 4 = 0 → loads s (.vld d a b) clsLS row ∧ stores s (.vst d a b) row)) ∧
    (A.toNat % 4 ≠ 0 → bad (.vgath d a b) 0 ∧ bad (.vscat d a b) 1) ∧
    (A.toNat % 4 = 0 → tileFound s b 1 tb u → loads u (.vgath d a b) clsGS idx ∧ stores u (.vscat d a b) idx)

/-- R233, R181, R182: a vector atomic on scratchpad below the known horizon gives each active lane the old value and writes the new one, a
lane that names a location first seeing what was there; in deterministic mode VAMO.fadd adds to accumulators. Lanes on global memory
enter the side log and the item waits; it retires when no lane is out: that the item waits, and not the first later reader of vD alone, is the
model's reading (log 35). -/
def Obligations.VectorAtomicResults : Prop :=
  ∀ (s u : State) (d a b : BitVec 7) (tb : Tile), s.issues .V → d.toNat < 64 → a.toNat < 32 →
    let n := tileNo d
    let A := s.reg .V (scalarNo a)
    let ea (l : Nat) : BitVec 64 := A + (lane tb l).signExtend 64 * 4
    let act (l : Nat) : Prop := l < 1024 ∧ u.active.getLsbD l = true
    let first (size : Nat) (p off : Nat → Nat) (l : Nat) : Prop :=
      ∀ k, k < l → act k → ¬(p k = p l ∧ off k < off l + size ∧ off l < off k + size)
    let alone (size : Nat) (p off : Nat → Nat) (l : Nat) : Prop :=
      ∀ k, k ≠ l → act k → ¬(p k = p l ∧ off k < off l + size ∧ off l < off k + size)
    let gives (i : Instr) (size : Nat) (old : List (BitVec 8) → BitVec 32) (new : List (BitVec 8) → BitVec 32 → List (BitVec 8)) : Prop :=
      (∀ p off w, (s.strand .V).amo = none → A.toNat % 4 = 0 → tileFound s b 1 tb u → u.lanesOut n = false → u.snapTile n = some w →
        lanesScratch u .atomic size ea p off → u.kept .V u.core.v.coord = false → Memory.wf u.pk.mu.scratch = true →
        ∃ t, exec i s = .next t ∧ t.last = .retired ∧ u.regsSame t .V [] ∧
          (∀ l, act l → first size p off l → lane (t.tile n) l = old (u.scratchRead (p l) (off l) size)) ∧
          (∀ l, l < 1024 → ¬act l → lane (t.tile n) l = lane (u.tile n) l) ∧
          (∀ l, act l → alone size p off l →
            t.scratchRead (p l) (off l) size = new (u.scratchRead (p l) (off l) size) (lane (u.tile n) l)) ∧
          (∀ q o, o < 2 ^ 22 → (∀ l, act l → ¬(q = p l ∧ off l ≤ o ∧ o < off l + size)) → t.scratchByte q o = u.scratchByte q o) ∧
          ∀ v pa, t.globalByte v pa = u.globalByte v pa) ∧
      (∀ w, (s.strand .V).amo = some w → (∀ e ∈ s.core.side, e.lane = none ∨ e.state = .faulted) →
        exec i s = .next ((s.onStrand .V fun t => { t with amo := none }).after .V 2)) ∧
      ((s.strand .V).amo = none → A.toNat % 4 = 0 → tileFound s b 1 tb u → u.lanesOut n = false → (∃ w, u.snapTile n = some w) → (∃ l, act l) →
        (∀ l, act l → ∃ va, u.checkAddr .V (ea l) .atomic size (if size = 96 then 32 else 1) = .ok (.global va) ∧
          u.checkWrite pathCore (u.atS .V) .atomic va size = .ok u) → u.core.side.length + 1024 ≤ 2048 →
        ∃ t, exec i s = .next t ∧ t.last = .waited ∧ t.core.v.amo ≠ none ∧ t.core.v.pc = s.core.v.pc ∧
          ∀ l, act l → ∃ e ∈ t.core.side, e.kind = .atomic ∧ e.lane = some (n, BitVec.ofNat 10 l))
    let word (bs : List (BitVec 8)) : BitVec 32 := BitVec.ofNat 32 (leNat bs)
    let int (i : Instr) (fn : Nat) (unsigned : Bool) : Prop :=
      gives i 4 word (fun bs x => toBytes 4 (amoValue fn unsigned (word bs) x 0))
    int (.vamoAdd d a b) 0 false ∧ int (.vamoMinI d a b) 4 false ∧ int (.vamoMinN d a b) 4 true ∧ int (.vamoMaxI d a b) 5 false ∧
    int (.vamoMaxN d a b) 5 true ∧ int (.vamoAnd d a b) 6 false ∧ int (.vamoOr d a b) 7 false ∧ int (.vamoXor d a b) 8 false ∧
    int (.vamoSwap d a b) 9 false ∧
    (u.sys.det = false → s.sys.det = false →
      gives (.vamoFadd d a b) 4 word (fun bs x => toBytes 4 (rne32 ((f32Val (word bs)).add (f32Val x))).1)) ∧
    (u.sys.det = true → s.sys.det = true →
      gives (.vamoFadd d a b) 96 (fun bs => (binRound (binsOf bs)).1) (fun bs x => binBytes (binAdd (binsOf bs) x)))

/-! ## The row and chain engines (R130, R209 to R211, R234 to R239) -/

/-- R130, R209, R234, R235, R237: the row forms queue a command of K with the row word and the AUX offset and wait at sixteen; CHAIN queues the
pass whose 320-byte descriptor it reads, and waits at four; a form on a strand that is not its own is WRONG_STRAND. At the head of the
queue a pass that passes the checks starts, and one that fails is dropped with CHAIN_DESC; a pass on FP32 streams of scratchpad below
the known horizon writes each element, the ops applied in order to the inputs of its index, and leaves the queue. -/
def Obligations.ChainEngineResults : Prop :=
  (∀ (s : State) (x : StrandId) (a : BitVec 6) (e : BitVec 17), s.issues x →
    let queues (i : Instr) (phase : Nat) : Prop :=
      (x ≠ .K → exec i s = .next (s.raises x 0x03 0 0)) ∧
      (x = .K → a.toNat < 32 → (16 ≤ s.core.rowq.length → exec i s = .next s.waits) ∧
        (s.core.rowq.length < 16 → exec i s = .next ((s.onCore fun c => { c with
          rowq := c.rowq ++ [⟨phase, s.reg .K a, e, c.k.coord, s.atS .K, s.atS .K, false, 0, false, false⟩] }).after .K 2)))
    queues (.rowMax a e) 0 ∧ queues (.rowExp a e) 1 ∧ queues (.rowScl a e) 2 ∧
    (x ≠ .V → exec (.chain a) s = .next (s.raises x 0x03 0 0)) ∧
    (x = .V → a.toNat < 32 → (4 ≤ s.core.chainq.length → exec (.chain a) s = .next s.waits) ∧
      (s.core.chainq.length < 4 → s.chainPlace (s.reg .V a) = true → exec (.chain a) s = .next ((s.onCore fun c => { c with
        chainq := c.chainq ++ [⟨BitVec.ofNat 2560 (leNat (s.scratchRead s.pk.pcore.toNat ((s.reg .V a).toNat % 2 ^ 22) 320)),
          s.reg .V a, c.v.coord, false, false, 0, false, false⟩] }).after .V 2)))) ∧
  (∀ (s : State) (p : ChainPass) (rest : List ChainPass), s.core.chainq = p :: rest → p.started = false → s.cutHolds p.coord = false →
    (s.chainFault p = none →
      exec .chainPassStart s = .next (s.onCore fun c => { c with chainq := { p with started := true } :: rest })) ∧
    ∀ c, s.chainFault p = some c → exec .chainPassStart s = .next
      ((s.onCore fun k => { k with chainq := rest }).raiseEngine .V p.stepped 0x2B (BitVec.ofNat 64 c) 0 5 p.coord .nothing)) ∧
  ∀ (s : State) (p : ChainPass) (rest : List ChainPass) (bs : Nat → Nat → List (BitVec 8)) (pc off : Nat → Nat),
    let d := p.desc
    let out := chainStream d 3
    s.core.chainq = p :: rest → p.started = true → p.held = false → p.next = 0 → s.cutHolds p.coord = false →
    p.coord.key < s.core.qu.hk → Memory.wf s.pk.mu.scratch = true → s.chainFault p = none →
    (∀ i, i < chainNin d ∨ i = 3 → descFmt (chainStream d i) = 0 ∧ descSpace (chainStream d i) = true) →
    (∀ i u, i < chainNin d → u < unitCount out → s.engineRead .V false clsRW true (unitAddr (chainStream d i) u) 4 = .ok (bs i u) s) →
    (∀ u, u < unitCount out → s.overlapped d (s.inputElems d) u 0 = false ∧ s.scratchOk false (pc u) (off u) 4 = true ∧ off u = (unitAddr out u).toNat % 2 ^ 22 ∧
      s.scratchCore ((unitAddr out u).setWidth 32) = .ok (pc u) ∧
      ∀ v, v < unitCount out → v ≠ u → ¬(pc v = pc u ∧ off v < off u + 4 ∧ off u < off v + 4) ∧
        ∀ i, i < chainNin d → ¬((unitAddr (chainStream d i) v).toNat % 2 ^ 22 < off u + 4 ∧ off u < (unitAddr (chainStream d i) v).toNat % 2 ^ 22 + 4)) →
    ∃ t, exec .chainPassComplete s = .next t ∧ t.core.chainq = rest ∧ t.core.side = s.core.side ∧ t.core.vec = s.core.vec ∧
      (∀ u, u < unitCount out → t.scratchRead (pc u) (off u) 4 =
        toBytes 4 (toF32 (f32Val (tempAfter d (fun i => BitVec.ofNat 32 (leNat (bs i u))) (chainOps d) 0))).1) ∧
      (∀ q o, o < 2 ^ 22 → (∀ u, u < unitCount out → ¬(q = pc u ∧ off u ≤ o ∧ o < off u + 4)) → t.scratchByte q o = s.scratchByte q o) ∧
      ∀ v pa, t.globalByte v pa = s.globalByte v pa

/-- R211, R238, R239, R210: the first row command that has not started, its phase slot free, is checked: it starts, or is dropped with ROW_ENGINE.
A phase ends its next row: ROW.MAX writes the maximum of the row to the AUX record, ROW.EXP replaces each element by EXP2((x − max) · log2 e)
and writes their binned sum, ROW.SCL divides each element by the sum; the command moves to its next row or leaves. -/
def Obligations.RowEngineResults : Prop :=
  (∀ (s : State) (r : RowCommand) (i : Nat), s.core.rowq[i]? = some r → r.started = false →
    (∀ j q, j < i → s.core.rowq[j]? = some q → q.started = true) → (∀ q ∈ s.core.rowq, q.started = true → q.phase ≠ r.phase) →
    s.cutHolds r.coord = false →
    (s.rowFault r = none → exec .rowCommandStart s = .next (s.onCore fun k => { k with rowq := k.rowq.set i { r with started := true } })) ∧
    ∀ c, s.rowFault r = some c → exec .rowCommandStart s = .next
      ((s.onCore fun k => { k with rowq := k.rowq.eraseIdx i }).raiseEngine .K r.stepped 0x2C (BitVec.ofNat 64 c) 0 4 r.coord .nothing)) ∧
  ∀ (s : State) (r : RowCommand) (rest : List RowCommand), s.core.rowq = r :: rest → r.started = true → r.held = false → r.phase < 3 →
    s.cutHolds r.coord = false → r.coord.key < s.core.qu.hk → Memory.wf s.pk.mu.scratch = true →
    let p := s.pk.pcore.toNat
    let n := rowLen r.word
    let off := rowAt r.word r.row
    let aux := auxAt r r.row
    off + 4 * n ≤ 0x3E0000 → aux + 8 ≤ 0x3E0000 → (aux + 8 ≤ off ∨ off + 4 * n ≤ aux) →
    let word (t : State) (o : Nat) : BitVec 32 := BitVec.ofNat 32 (leNat (t.scratchRead p o 4))
    let x (j : Nat) : BitVec 32 := word s (off + 4 * j)
    let e (j : Nat) : BitVec 32 := (f32Exp2 (f32Mul (f32Sub (x j) (word s aux)).1 0x3FB8AA3B).1).1
    let ids := List.range n
    ∃ t, exec (.rowPhaseEnd r.phase) s = .next t ∧
      t.core.rowq = (if rowCount r.word ≤ r.row + 1 then rest else { r with row := r.row + 1 } :: rest) ∧
      (r.phase = 0 → word t aux = ids.foldl (fun m j => (f32Max m (x j)).1) (f32Max (x 0) (x 0)).1 ∧
        ∀ q o, o < 2 ^ 22 → ¬(q = p ∧ aux ≤ o ∧ o < aux + 4) → t.scratchByte q o = s.scratchByte q o) ∧
      (r.phase = 1 → (∀ j, j < n → word t (off + 4 * j) = e j) ∧
        word t (aux + 4) = (binRound (binNormalise (ids.foldl (fun b j => binAdd b (e j)) (List.replicate 12 0)))).1 ∧
        ∀ q o, o < 2 ^ 22 → ¬(q = p ∧ (off ≤ o ∧ o < off + 4 * n ∨ aux + 4 ≤ o ∧ o < aux + 8)) → t.scratchByte q o = s.scratchByte q o) ∧
      (r.phase = 2 → (∀ j, j < n → word t (off + 4 * j) = (f32Div (x j) (word s (aux + 4))).1) ∧
        ∀ q o, o < 2 ^ 22 → ¬(q = p ∧ off ≤ o ∧ o < off + 4 * n) → t.scratchByte q o = s.scratchByte q o) ∧
      ∀ v pa, t.globalByte v pa = s.globalByte v pa

/-! ## The matrix engine (R90 to R94, R243 to R285) -/

/-- R266 to R268, R274 to R277, R269, R271: MMA, MMAC and MLOADB whose shape words and formats pass the checks of their rules enter the queue
once their slots are full and it has room, with the slot addresses fixed, and wait until then; MMAC waits for its other participants, and
takes the greatest coordinate; participants that differ are MATRIX_SHAPE 0x08, none is queued, and each issues its own again. With no B resident an MMA is MACRO_STATE 0x01, and a malformed shape word MATRIX_SHAPE 0x01. That room means fewer
than four operations that have not begun, and that only the owner checks ZFREE, are the model's readings (log 34). -/
def Obligations.MatrixMultiplyResults : Prop :=
  ∀ (s : State) (fz fq fs : BitVec 7) (r : RingAt), s.issues .M → fq.getLsbD 6 = true → fs.toNat < 32 → fz.toNat < 8 →
    let z : BitVec 3 := fz.setWidth 3
    let st := at16 s.core.streams (selStream fq)
    let d := st.desc
    let w := s.reg .M (scalarNo fs)
    let b := s.core.mat.bstat
    let elems := descE d
    let slots (n : Nat) : List Nat :=
      (List.range n).map fun i => r.slotOff (r.index r.ring.head.toNat (selOffset fq + i))
    let head := s.slotHeader st (selOffset fq)
    let bytes := dataBytes d + if descScv d then 2 * (elems / 64) else 0
    let ready (n : Nat) : Prop := s.fullWait r (selOffset fq) n = .ready ∧ s.core.mat.queued < 4 ∧
      ∀ off ∈ slots n, s.scratchOk false r.pcore off bytes = true
    let fmtOk : Prop := descFmt d ∈ [1, 2, 3, 4]
    let n := slotsOf (mmaRows w) (mmaKbn w) elems
    let fits : Prop := mmaKbn w ≠ 0 ∧ fmtOk ∧ b.res = true ∧ mmaKb0 w + mmaKbn w ≤ b.kblk.toNat ∧ mmaCols w ≤ b.nm1.toNat + 1 ∧
      mmaRow0 w + mmaRows w ≤ 256 ∧ elems % (mmaKbn w * 64) = 0 ∧ s.ringOf (descRing d) = .ok r ∧ n ≤ r.slots ∧
      (descSpv d = true → b.spv = true ∧ headSeed head = b.seed ∧ headDens head = b.dens ∧ headBlk0 head = b.blk0) ∧
      drawUnits b (descFmt d) w ≤ s.core.mat.ceil.toNat
    let owner : Prop := mmaLbase w = s.sys.lcore.toNat
    let team : Prop := mmaPm1 w ≠ 0 ∧ w.extractLsb' 53 11 = 0 ∧ mmaLbase w ≤ s.sys.lcore.toNat ∧ s.sys.lcore.toNat ≤ mmaLbase w + mmaPm1 w ∧
      s.oneDomain w = true ∧ s.oneQuad w = true ∧ (owner → s.core.mat.zfree.getLsbD z.toNat = false)
    (w.extractLsb' 53 11 ≠ 0 ∨ mmaKbn w = 0 → exec (.mma fz fq fs) s = .next (s.raises .M 0x26 0x01 0) ∧
      exec (.mmac fz fq fs) s = .next (s.raises .M 0x26 0x01 0)) ∧
    (w.extractLsb' 43 21 = 0 → mmaKbn w ≠ 0 → fmtOk → b.res = false → exec (.mma fz fq fs) s = .next (s.raises .M 0x27 0x01 0)) ∧
    (fits → w.extractLsb' 43 21 = 0 → s.core.mat.zfree.getLsbD z.toNat = false →
      (ready n → ∃ t, exec (.mma fz fq fs) s = .next t ∧ enters s t fun o =>
        o.kind = .mma ∧ o.z = z ∧ o.shape = w ∧ o.resident = b ∧ o.span.home = r.home ∧ o.span.slots = slots n ∧ o.span.elems = elems) ∧
      (s.core.mat.queued < 4 → s.fullWait r (selOffset fq) n = .waits → exec (.mma fz fq fs) s = .next (s.ringWait .M r.handle true).waits) ∧
      (4 ≤ s.core.mat.queued → exec (.mma fz fq fs) s = .next s.waits)) ∧
    (fits → mmaPm1 w ≠ 0 → w.extractLsb' 53 11 = 0 → s.sys.lcore.toNat < mmaLbase w ∨ mmaLbase w + mmaPm1 w < s.sys.lcore.toNat →
      exec (.mmac fz fq fs) s = .next (s.raises .M 0x26 0x08 0)) ∧
    (fits → team → ∀ ps, s.peersOf w = some ps → (∃ p ∈ ps, agrees z w p = false) →
      exec (.mmac fz fq fs) s = .next ((s.raises .M 0x26 0x08 0).onMat fun m =>
        { m with peers := m.peers.filter fun p => mmaLbase p.shape != mmaLbase w })) ∧
    (fits → team →
      (s.peersOf w = none → exec (.mmac fz fq fs) s = .next s.waits) ∧
      ∀ ps, s.peersOf w = some ps → (∀ p ∈ ps, agrees z w p = true) → ready n →
        ∃ t o, exec (.mmac fz fq fs) s = .next t ∧ t.last = .retired ∧ t.core.mat.queue = s.core.mat.queue ++ [o] ∧ o.kind = .mmac ∧
          o.peers = ps ∧ o.z = z ∧ o.shape = w ∧ o.span.home = r.home ∧ o.span.slots = slots n ∧ s.core.m.coord.key ≤ o.coord.key ∧
          ∀ p ∈ ps, p.coord.key ≤ o.coord.key) ∧
    let c := b.loaded w (descFmt d) (descSpv d) head
    let len := loadNb w * c.kept
    let k := ((loadNm1 w).toNat * len + len + elems - 1) / elems
    (w.extractLsb' 27 37 = 0 → loadNb w ≠ 0 → fmtOk → (descSpv d = true → headBad head = false ∧ descScv d = false) →
      (loadNew w = false → b.res = true ∧ BitVec.ofNat 4 (descFmt d) = b.fmt ∧ descSpv d = b.spv ∧ loadNm1 w = b.nm1 ∧
        (descSpv d = true → headSeed head = b.seed ∧ headDens head = b.dens ∧ headBlk0 head = b.blk0)) →
      elems % len = 0 → s.ringOf (descRing d) = .ok r → k ≤ r.slots → loadKb0 w + loadNb w ≤ c.capacity → ready k →
      ∃ t, exec (.mloadb fq fs) s = .next t ∧ t.core.mat.bstat = c ∧ c.res = true ∧ c.nm1 = loadNm1 w ∧
        enters s t fun o => o.kind = .mloadb ∧ o.shape = w ∧ o.resident = c ∧ o.span.home = r.home ∧ o.span.slots = slots k)

/-- R250, R257, R261, R272, R279 to R284: MZERO, MDRAIN, MSPILL and MFILL whose operands pass their checks enter the queue, wait while four
operations wait, and raise MACRO_STATE 0x04 where they would write an accumulator that is lent; MCSUM enters it and waits for its count;
MSEED gives the mask of the kept rows of a block; MSTAT the progress of the engine; MCHK waits for the operations issued before it and
gives the checks since the last one; DRAW and DRAW.W request what no pending request covers, R422: which stays under the CEIL of its own
time, and DRAW.W waits for it: CEIL is compared as the item issues, and not again while it waits. That room means fewer than four operations
that have not begun, that MCHK takes the difference of saturated counts, and that MFILL checks MACRO_STATE before its address, are the
model's readings (log 34). -/
def Obligations.MatrixItemResults : Prop :=
  ∀ (s : State) (fz fd fa fb : BitVec 7), s.issues .M → fz.toNat < 8 → fd.toNat < 32 → fa.toNat < 32 → fb.toNat < 32 →
    let z : BitVec 3 := fz.setWidth 3
    let A := s.reg .M (scalarNo fa)
    let B := s.reg .M (scalarNo fb)
    let m := s.core.mat
    let lent : Prop := m.zfree.getLsbD z.toNat = true
    let unit := unitBytes (drainFmt B)
    let drainOk : Prop := B.extractLsb' 37 3 = 0 ∧ drainRow0 B + drainRows B ≤ 256 ∧ drainCol0 B + drainCols B ≤ 256 ∧ drainFmt B ≤ 4 ∧
      (drainFmt B = 4 → drainCols B % 2 = 0) ∧ (drainClr B = true → ¬lent) ∧ A.toNat % unit = 0 ∧ drainStride B % unit = 0
    let gives (i : Instr) (kind : MatrixKind) (shape addr : BitVec 64) : Prop :=
      (m.queued < 4 → ∃ t, exec i s = .next t ∧ enters s t fun o => o.kind = kind ∧ o.z = z ∧ o.shape = shape ∧ o.addr = addr) ∧
      (4 ≤ m.queued → exec i s = .next s.waits)
    -- rows of scratchpad or of writable global memory, which translate at once
    let rowsOk (size len stride rows : Nat) : Prop := ∀ i, i < rows →
      let a := A + BitVec.ofNat 64 (i * stride)
      (∃ p w, s.checkAddr .M a .write size 1 = .ok (.scratch p w) ∧ s.scratchOk false p (scratchOff w) len = true) ∨
      ∃ va, s.checkAddr .M a .write size 1 = .ok (.global va) ∧ va + len ≤ 2 ^ 56 ∧ s.checkWrite pathCore false .write va len = .ok s
    (lent → exec (.mzero fz) s = .next (s.raises .M 0x27 0x04 0) ∧ exec (.mfill fz fa) s = .next (s.raises .M 0x27 0x04 0)) ∧
    (¬lent → gives (.mzero fz) .mzero 0 0) ∧
    (drainOk → rowsOk unit (drainBytes B) (drainStride B) (drainRows B) → gives (.mdrain fz fa fb) .mdrain B A) ∧
    (A.toNat % 64 = 0 → rowsOk 64 1024 1024 256 → gives (.mspill fz fa) .mspill 0 A) ∧
    (¬lent → A.toNat % 64 = 0 →
      (∃ p w, s.checkAddr .M A .read 64 64 = .ok (.scratch p w) ∧ s.scratchOk false p (scratchOff w) 262144 = true) ∨
        (∃ va, s.checkAddr .M A .read 64 64 = .ok (.global va) ∧ va + 262144 ≤ 2 ^ 56) → gives (.mfill fz fa) .mfill 0 A) ∧
    (s.core.m.amo = none → B.extractLsb' 18 46 = 0 → loadNb B ≠ 0 → m.bstat.res = true → loadKb0 B + loadNb B ≤ m.bstat.kblk.toNat →
      m.queued < 4 → ∃ t o w, exec (.mcsum fd fb) s = .next t ∧ t.last = .waited ∧ t.core.mat.queue = m.queue ++ [o] ∧ o.kind = .mcsum ∧
        o.shape = B ∧ t.core.m.amo = some w ∧ w.entry = o.waiter ∧ w.reg = scalarNo fd ∧ t.core.m.pc = s.core.m.pc) ∧
    (∀ w v, s.core.m.amo = some w → w.bad = none → w.done = some v → exec (.mcsum fd fb) s = .next
      ((((s.onStrand .M fun t => { t with amo := none }).addFlags .M w.flags).putReg .M w.reg v).after .M 2)) ∧
    (A.extractLsb' 34 30 = 0 → B.extractLsb' 32 32 = 0 → A.extractLsb' 32 2 ≠ 0 →
      ∃ v : BitVec 64, exec (.mseed fd fa fb) s = .next ((s.putReg .M (scalarNo fd) v).after .M 2) ∧
        (∀ i, i < 64 → (v.getLsbD i = true ↔ i ∈ keptRows (A.setWidth 32) (A.extractLsb' 32 2) (B.setWidth 32))) ∧
        ((List.range 64).countP fun i => v.getLsbD i) = 64 / 2 ^ (A.extractLsb' 32 2).toNat) ∧
    (∃ v : BitVec 64, exec (.mstat fd) s = .next ((s.putReg .M (scalarNo fd) v).after .M 2) ∧
      (v.getLsbD 0 = true ↔ ∃ o ∈ m.queue, o.follow = none) ∧
      (v.getLsbD 1 = true ↔ ∃ o ∈ m.queue, o.follow = none ∧ (o.kind = .mdrain ∨ o.kind = .mspill)) ∧
      v.extractLsb' 2 9 = m.knext ∧ (v.getLsbD 11 = true ↔ ∃ o ∈ m.queue, o.begun = true ∧ o.stopped = false) ∧
      v.extractLsb' 12 3 = BitVec.ofNat 3 m.queued ∧ (v.getLsbD 15 = true ↔ m.pendUnits ≠ 0)) ∧
    ((∃ o ∈ m.queue, o.follow = none ∧ o.held = false) → exec (.mchk fd) s = .next s.waits) ∧
    ((∀ o ∈ m.queue, o.follow ≠ none ∨ o.held = true) →
      let f := m.chk.fails - m.chkBase.fails
      exec (.mchk fd) s = .next (((s.onMat fun m => { m with chkBase := m.chk }).putReg .M (scalarNo fd) (BitVec.ofNat 64
        ((m.chk.blocks - m.chkBase.blocks).toNat + f.toNat * 2 ^ 32 + if f = 0 then 0 else 2 ^ 63))).after .M 2)) ∧
    let gets (i : Instr) (wait : Bool) : Prop :=
      (A = 0 ∨ 2 ^ 16 ≤ A.toNat → exec i s = .next (s.raises .M 0x0E 0x31 0)) ∧
      let me := some (s.core.m.pc, s.core.m.remain, A.setWidth 16)
      let ends (u : State) : State := (u.onMat fun m => { m with drawing := none }).after .M 2
      (A ≠ 0 → A.toNat < 2 ^ 16 → m.ceil.toNat < A.toNat → m.drawing ≠ me → exec i s = .next (s.raises .M 0x29 A 0)) ∧
      (A ≠ 0 → A.toNat < 2 ^ 16 → A.toNat ≤ m.ceil.toNat ∨ m.drawing = me →
        (A.toNat ≤ m.held.toNat → exec i s = .next (ends s)) ∧
        (m.held.toNat < A.toNat →
          let u := s.asks (A.toNat - m.held.toNat) s.core.m.coord
          exec i s = .next (if wait then (u.onMat fun m => { m with drawing := me }).waits else ends u)))
    gets (.draw fa) false ∧ gets (.drawW fa) true

/-- R248, R252, R253, R254, R255, R260, R261, R271, R272, R279 to R281: how the engine performs what is queued. The operation at the head begins once
its draw units are held, and asks for them otherwise. MLOADB stores a block's aligned columns with their sums; a block of an MMA that passes its
checks is committed to every element, one rounding each, and KNEXT counts it; one that fails stops with MATRIX_CHECK and commits nothing.
MZERO clears, MDRAIN and MSPILL write, MFILL reads an accumulator, and MCSUM counts the rows whose sums disagree. That these five are each
performed whole, at one move, is the model's choice (logs 34 and 2). -/
def Obligations.MatrixEngineSteps : Prop :=
  ∀ (s : State) (o : MatrixOp) (rest : List MatrixOp), s.core.mat.queue = o :: rest → o.held = false → s.cutHolds o.coord = false → o.follow = none →
    o.atS = false → s.saveHolds o = false → cellsWf s.core.mat.acc = true → Memory.wf s.pk.mu.scratch = true →
    (∀ i ∈ s.core.m.images, i.coord.key ≤ o.coord.key → i.zc.getLsbD o.z.toNat = false) →
    let m := s.core.mat
    let z := o.z.toNat
    let w := o.shape
    let othersSame (t : State) (p : Nat → Nat → Prop) : Prop :=
      ∀ y i j, y < 8 → i < 256 → j < 256 → (y = z → ¬p i j) → accAt t.core.mat y i j = accAt m y i j
    (o.begun = false → o.kind = .mma ∨ o.kind = .mmac → let u := drawUnits o.resident o.span.fmt.toNat w
      (m.held.toNat < u → exec .matrixOpBegin s = .next (s.asks (u - m.held.toNat) o.coord)) ∧
      (u ≤ m.held.toNat → ∃ t, exec .matrixOpBegin s = .next t ∧ t.core.mat.queue = { o with begun := true } :: rest ∧
        t.core.mat.held.toNat = m.held.toNat - u ∧ othersSame t fun _ _ => False)) ∧
    (o.kind = .mzero → ∃ t, exec .matrixOpBegin s = .next t ∧ t.core.mat.queue = rest ∧
      (∀ i j, i < 256 → j < 256 → accAt t.core.mat z i j = 0) ∧ othersSame t fun _ _ => True) ∧
    (o.kind = .mfill → o.next = 0 → ∀ bs : Nat → List (BitVec 8), (∀ b, b < 4096 → (o.addr + BitVec.ofNat 64 (64 * b)).getLsbD 63 = true ∧
        s.engineRead .M o.sup clsMX true (o.addr + BitVec.ofNat 64 (64 * b)) 64 = .ok (bs b) s ∧ (bs b).length = 64) →
      ∃ t, exec .matrixOpBegin s = .next t ∧ t.core.mat.queue = rest ∧ (othersSame t fun _ _ => True) ∧
        ∀ i j, i < 256 → j < 256 → accAt t.core.mat z i j =
          BitVec.ofNat 32 (leNat (((bs ((i * 256 + j) / 16)).drop (4 * (j % 16))).take 4))) ∧
    (o.kind = .mspill ∨ o.kind = .mdrain → o.next = 0 → o.coord.key < s.core.qu.hk →
      let spill : Bool := decide (o.kind = .mspill)
      let fmt := if spill then 0 else drainFmt w
      let rows := if spill then 256 else drainRows w
      let cols := if spill then 256 else drainCols w
      let r0 := if spill then 0 else drainRow0 w
      let c0 := if spill then 0 else drainCol0 w
      let stride := if spill then 1024 else drainStride w
      let wd := if fmt = 0 then 32 else if fmt = 1 then 16 else if fmt = 4 then 4 else 8
      let code (i j : Nat) : Nat :=
        let x := accAt m z (r0 + i) (c0 + j)
        if spill then x.toNat else (drainElem fmt x).1
      fmt ≤ 4 → r0 + rows ≤ 256 → c0 + cols ≤ 256 → cols * wd % 8 = 0 → ∀ p off : Nat → Nat,
      (∀ i, i < rows → let a := o.addr + BitVec.ofNat 64 (i * stride)
        a.getLsbD 63 = true ∧ s.scratchCore (a.setWidth 32) = .ok (p i) ∧ a.toNat % 2 ^ 22 = off i ∧ off i + cols * wd / 8 ≤ 0x3E0000 ∧
        ∀ k, k < rows → k ≠ i → ¬(p k = p i ∧ off k < off i + cols * wd / 8 ∧ off i < off k + cols * wd / 8)) →
      ∃ t, exec .matrixOpBegin s = .next t ∧ t.core.mat.queue = rest ∧
        (∀ i, i < rows → leNat (t.scratchRead (p i) (off i) (cols * wd / 8)) =
          ((List.range cols).map fun j => code i j * 2 ^ (wd * j)).sum % 2 ^ (wd * cols)) ∧
        (if spill = false ∧ drainClr w = true then
          (∀ i j, i < rows → j < cols → accAt t.core.mat z (r0 + i) (c0 + j) = 0) ∧
            othersSame t fun i j => r0 ≤ i ∧ i < r0 + rows ∧ c0 ≤ j ∧ j < c0 + cols
        else othersSame t fun _ _ => False) ∧
        ∀ q b, b < 2 ^ 22 → (∀ i, i < rows → ¬(q = p i ∧ off i ≤ b ∧ b < off i + cols * wd / 8)) → t.scratchByte q b = s.scratchByte q b) ∧
    (o.kind = .mcsum → ∀ a, s.core.m.amo = some a → a.entry = o.waiter →
      let n := m.badRows o.resident (loadKb0 w) (loadNb w)
      ∃ t, exec .matrixOpBegin s = .next t ∧ t.core.mat.queue = rest ∧ t.core.mat.chk.fails.toNat = min 0xFFFF (m.chk.fails.toNat + n) ∧
        t.core.mat.failed = (m.failed || decide (n ≠ 0)) ∧ ∃ b, t.core.m.amo = some b ∧ b.done = some (BitVec.ofNat 64 n)) ∧
    (o.kind = .mloadb → o.begun = true → o.next < loadNb w → ∀ p, s.scratchCore o.span.home = .ok p →
      let r := o.resident
      let b := loadKb0 w + o.next
      let len := loadNb w * r.kept
      let col (j : Nat) : Aligned := align (matrixFmt r.fmt.toNat) (keepB r.fmt.toNat) (s.spanElems p o.span (j * len + o.next * r.kept) r.kept)
      let bits := 8 * cellsPer r.fmt.toNat
      ∃ t, exec .mloadbBlockLoaded s = .next t ∧
        t.core.mat.queue = (if loadNb w ≤ o.next + 1 then rest else { o with next := o.next + 1 } :: rest) ∧
        (∀ k j, k < r.kept → j < 256 → ((t.core.mat.rowOfB r b k).ib.getD j 0) =
          (if j ≤ r.nm1.toNat then (BitVec.ofInt bits ((col j).ints.getD k 0)).toInt else 0)) ∧
        (∀ j, j ≤ r.nm1.toNat → (t.core.mat.column b j).shift = (col j).shift ∧
          (t.core.mat.column b j).sum = (col j).ints.foldl (· + ·) 0) ∧
        (b < 256 → t.core.mat.written.getLsbD b = true) ∧ othersSame t fun _ _ => False) ∧
    (o.kind = .mma → o.begun = true → o.next < mmaKbn w → o.peers = [] →
      (∀ vs, s.formBlock o o.next = .ok vs s → mmaRow0 w + mmaRows w ≤ 256 → vs.length = mmaRows w → (∀ v ∈ vs, v.length = mmaCols w) →
        ∃ t, exec .matrixWaveCommit s = .next t ∧ t.core.mat.knext.toNat = o.next + 1 ∧
          t.core.mat.queue = (if mmaKbn w ≤ o.next + 1 then rest else { o with next := o.next + 1 } :: rest) ∧
          t.core.mat.chk.blocks = m.chk.blocks + BitVec.ofNat 32 (mmaRows w) ∧
          (∀ i j, i < mmaRows w → j < mmaCols w →
            let old : BitVec 32 := if o.next = 0 ∧ mmaZinit w = true then 0 else accAt m z (mmaRow0 w + i) j
            let v := (vs.getD i []).getD j (.num false 0 0)
            accAt t.core.mat z (mmaRow0 w + i) j = (toF32 ((f32Val old).add v).1).1) ∧
          othersSame t fun i j => mmaRow0 w ≤ i ∧ i < mmaRow0 w + mmaRows w ∧ j < mmaCols w) ∧
      ∀ i b, s.formBlock o o.next = .check i b s → (∀ r, bestSlot s.pk.swage (·.hooks r) = none) → ∃ t, exec .matrixWaveCommit s = .next t ∧ t.core.mat.acc = m.acc ∧
        t.core.mat.knext = m.knext ∧ t.core.mat.queue = { o with held := true } :: rest ∧
        t.core.mat.chk.fails.toNat = min 0xFFFF (m.chk.fails.toNat + 1) ∧ t.core.mat.failed = true)

/-! ## Copy chains (R291 to R315) -/

/-- R293 to R299, R291: CPGO of an entry address in the core's own scratchpad allocates the lowest free record at the strand's coordinate, HELD at
T and QUEUED at S, and writes its ticket; it waits for a record, and any other address is OPERAND_RANGE 0x41. CPSTAT gives the status word of
a ticket, and so does CPWAIT once the chain is DONE, KILLED or GONE; a ticket with a reserved bit is 0x42, and waiting for a chain that the
waiting strand itself holds back is 0x40. CPKILL ends a chain of the strand, and waits while a unit is on its way to or from another
package; it is 0x43 for another's. On V and M all are WRONG_STRAND. -/
def Obligations.CopyItemResults : Prop :=
  ∀ (s : State) (x : StrandId) (a d : BitVec 6), s.issues x → regOk x a = true → regOk x d = true →
    let A := s.reg x a
    let gone : Prop := (s.chain (A.setWidth 6)).gen ≠ A.extractLsb' 8 8 ∨ (s.chain (A.setWidth 6)).state = .free
    let c := s.chain (A.setWidth 6)
    let where_ : Nat := c.engine.toNat * 2 ^ 8 + c.p / 64 * 2 ^ 16
    let status (n : Nat) : Prop :=
      (gone ∧ n = 6) ∨ ¬gone ∧ ((c.state = .held ∧ n = 0) ∨ (c.state = .queued ∧ n = 1) ∨ (c.state = .run ∧ n = 2 + where_) ∨
        (c.state = .fault ∧ n = 3 + where_) ∨ (c.state = .done ∧ n = 4 + where_) ∨ (c.state = .killed ∧ n = 5 + where_))
    let legal : Prop := A.extractLsb' 16 48 = 0 ∧ A.getLsbD 7 = false
    let freed : State := if ¬gone ∧ c.state = .killed then s.putChain (A.setWidth 6) { c with state := .free } else s
    let bad (i : Instr) (code : BitVec 64) : Prop := exec i s = .next (s.raises x 0x0E code 0)
    (x = .V ∨ x = .M → exec (.cpgo a d) s = .next (s.raises x 0x03 0 0) ∧ exec (.cpwait a d) s = .next (s.raises x 0x03 0 0) ∧
      exec (.cpstat a d) s = .next (s.raises x 0x03 0 0) ∧ exec (.cpkill a) s = .next (s.raises x 0x03 0 0)) ∧
    (x = .K ∨ x = .A →
      (∀ va, s.checkAddr x A .read 64 64 = .ok (.global va) → bad (.cpgo a d) 0x41) ∧
      (∀ p w, s.checkAddr x A .read 64 64 = .ok (.scratch p w) →
        (w.getLsbD 30 = false ∧ w.extractLsb' 22 8 ≠ s.sys.lcore → bad (.cpgo a d) 0x41) ∧
        (w.getLsbD 30 = true ∨ w.extractLsb' 22 8 = s.sys.lcore → s.startReady x 4 = true →
          (s.freeChain = none ∨ 32 ≤ s.portCount → exec (.cpgo a d) s = .next s.waits) ∧
          ∀ tag, s.freeChain = some tag → s.portCount < 32 →
            ∃ t, exec (.cpgo a d) s = .next t ∧ t.last = .retired ∧ (t.chain tag).state = (if s.atS x then .queued else .held) ∧
              (t.chain tag).str = x ∧ (t.chain tag).gen = (s.chain tag).gen + 1 ∧ (t.chain tag).p = scratchOff w ∧
              (t.chain tag).coord = (s.strand x).coord ∧ (∀ o, o ≠ tag → t.chain o = s.chain o) ∧ s.regsSame t x [d] ∧
              t.pk.engineQueue = s.pk.engineQueue ++ (if s.atS x then [tag] else []) ∧
              (d ≠ 0 → t.reg x d = BitVec.ofNat 64
                (tag.toNat + (if x = .A then 64 else 0) + ((s.chain tag).gen + 1).toNat * 256)))) ∧
      (¬legal → bad (.cpwait a d) 0x42 ∧ bad (.cpstat a d) 0x42 ∧ bad (.cpkill a) 0x42) ∧
      (legal →
        (∃ n, status n ∧ exec (.cpstat a d) s = .next ((freed.putReg x d (BitVec.ofNat 64 n)).after x 2)) ∧
        (gone ∨ c.state = .done ∨ c.state = .killed →
          ∃ n, status n ∧ exec (.cpwait a d) s = .next ((freed.putReg x d (BitVec.ofNat 64 n)).after x 2)) ∧
        (¬gone → c.state = .queued ∨ c.state = .run ∨ c.state = .fault → exec (.cpwait a d) s = .next s.waits) ∧
        (¬gone → c.state = .held → exec (.cpwait a d) s = .next (
          if c.atS = false ∧ (s.strand x).coord.key ≤ c.coord.key then s.raises x 0x0E 0x40 0 else s.waits)) ∧
        (gone ∨ c.state = .done ∨ c.state = .killed → s.atS x = true → exec (.cpkill a) s = .next (s.after x 2)) ∧
        (¬gone → c.state = .held ∨ c.state = .queued ∨ c.state = .run ∨ c.state = .fault →
          (s.atS x = false → c.str ≠ x → bad (.cpkill a) 0x43) ∧
          (s.atS x = true ∨ (c.str = x ∧ A.extractLsb' 6 2 = if x = .A then 1 else 0) →
            (c.remote = true ∧ entryKind (s.entryOf c) ≠ 10 → ∃ t, exec (.cpkill a) s = .next t ∧ t.last = .waited ∧
              (t.chain (A.setWidth 6)).killing = true ∧ (t.chain (A.setWidth 6)).state = c.state) ∧
            (c.remote = false ∨ entryKind (s.entryOf c) = 10 →
              ∃ t, exec (.cpkill a) s = .next t ∧ t.last = .retired ∧ (t.chain (A.setWidth 6)).state = .killed ∧
                (A.setWidth 6) ∉ t.pk.engineQueue ∧ s.regsSame t x [] ∧ ∀ o, o ≠ A.setWidth 6 → t.chain o = s.chain o)))))

/-- R295, R296, R301 to R303, R306 to R312, R304, R315: how chains move. A HELD chain whose coordinate lies below the known horizon and whose earlier stores
are performed is queued, in order, and what it was released is found by class CP; a free engine takes the head of the queue. COPY moves a
unit: bytes that no earlier entry has touched go over as they are, and so do those that do not lie in the source itself; RREDUCE combines an element; ROUTE appends
a token to its list or the overflow list and writes the counts after the last; BARRIER arrives, SIGNAL writes or adds, LOOP counts and
branches, COND tests, branches and waits, gives its engine up after 1,024 cycles and ends at its limit; END completes; a follow-on MMA
joins the queue of its core, and one of another core, once that core has read its buffer, gives its counter back. That bytes which several
entries touch are open one by one, and the order of what a chain does, are the model's readings (log 33). -/
def Obligations.ChainSteps : Prop :=
  ∀ (s : State) (tag : BitVec 6),
    let c := s.chain tag
    let e := s.entryOf c
    let w (i : Nat) : BitVec 64 := e.extractLsb' (64 * i) 64
    let started (scope : BitVec 3) : Chain :=
      { c with held := some e, begun := true, scope := if c.scope < scope then scope else c.scope }
    (c.state = .held → c.post = none → (∀ o ∈ s.pk.chains.toList, o.state = .held → o.str = c.str → c.num ≤ o.num) →
      c.coord.key < s.core.qu.hk → (∀ q ∈ s.core.side, (q.strand ≠ c.str ∨ c.after ≤ q.seq) ∧
        (q.readers.getLsbD (strandNum c.str) = true → q.state = .held ∨ c.upto ≤ q.id)) → s.scopeQuiet 4 = true →
      exec (.chainRelease tag) s = .next (((s.settlePaths allClasses (1#5 <<< clsCP)).putChain tag { c with state := .queued }).onPk fun k =>
        { k with engineQueue := k.engineQueue ++ [tag] })) ∧
    (∀ n rest, s.pk.engineQueue = tag :: rest → s.engineTaken n = false → ∃ t, exec (.engineTakeChain n) s = .next t ∧
      (t.chain tag).state = .run ∧ (t.chain tag).engine = n ∧ t.pk.engineQueue = rest ∧ ∀ o, o ≠ tag → t.chain o = s.chain o) ∧
    (standsAt s tag 1 → s.followKey e = none →
      ((started 0).moveUnit e = none → ∃ t, exec (.chainCopy tag) s = .next t ∧ goesOn s t tag (c.p + 64)) ∧
      ∀ u a b k bs v bs' x t, (started 0).moveUnit e = some (u, a, b, k) → s.pk.mu.poison = [] →
        (s.putChain tag (started 0)).entryRead tag a k = .ok bs v → v.overlapped_ (started 0) e b bs = (bs', x) →
        x.entryWrite tag b bs' = .done t → exec (.chainCopy tag) s = .next (t.putChain tag { t.chain tag with units := u + 1 })) ∧
    (c.past = [] → ∀ a bs v, s.chainRead c a bs.length = .ok bs v → v.chain tag = c →
      s.entryRead tag a bs.length = .ok bs (v.putChain tag { c with now := c.now ++ touches v true a bs })) ∧
    (c.past = [] → ∀ a bs t, s.chainWrite c false a bs = .done t →
      let c' : Chain := { c with now := c.now ++ touches s false a bs }
      s.entryWrite tag a bs = (s.putChain tag c').chainWrite c false a bs) ∧
    (∀ b bs, (∀ q ∈ s.chainParts b bs.length, s.inSource c e q.1 q.2.2 = false) → s.overlapped_ c e b bs = (bs, s)) ∧
    (∀ b bs i, b.getLsbD 63 = true → i < bs.length → s.inSource c e (s.spaceCell true b + i) 1 = false →
      (s.overlapped_ c e b bs).1.getD i 0 = bs.getD i 0) ∧
    (standsAt s tag 4 → (w 3).getLsbD 18 = false →
      let c' := started ((w 3).extractLsb' 26 3)
      let op := reduceOp c' e
      let a := w 1 + c.offset true
      let b := w 2 + c.offset false
      ∀ p off bs, b.getLsbD 63 = true → c.units = 0 → c.past = [] → bs.length = sourceSize op →
        (s.putChain tag c').chainRead c' a (sourceSize op) = .ok bs (s.putChain tag c') → Memory.wf s.pk.mu.scratch = true →
        s.chainScratch c' b (reduceSize op) = .ok (p, off) → off + reduceSize op ≤ 0x3E0000 →
        let new := reduceElem op (BitVec.ofNat 32 (leNat bs)) (s.scratchRead p off (reduceSize op))
        let c2 : Chain := { c' with now := c'.now ++ touches s true a bs ++ touches s false b new }
        exec (.chainRreduce tag) s = .next (((s.putChain tag c2).scratchPut p off new).putChain tag { c2 with units := 1 })) ∧
    (standsAt s tag 5 → c.units = 0 → routeApp e = false →
      let c' : Chain := { started 0 with counts := List.replicate (routeE e + 1) 0, words := [] }
      let a := w 1 + c.offset true
      ∀ bs, c.past = [] → bs.length = 2 → (s.putChain tag c').chainRead c' a 2 = .ok bs (s.putChain tag c') →
        let c2 : Chain := { c' with now := c'.now ++ touches s true a bs }
        (leNat bs = 0xFFFF → exec (.chainRoute tag) s = .next (s.putChain tag { c2 with units := 1 })) ∧
        (∀ t, leNat bs ≠ 0xFFFF → leNat bs < routeE e → (s.putChain tag c2).entryWrite tag (routeList c e (leNat bs) 0)
            (toBytes 4 (BitVec.ofNat 32 ((w 6).extractLsb' 0 32).toNat)) = .done t → (t.chain tag).counts = c2.counts → (t.chain tag).state = .run →
          ∃ u, exec (.chainRoute tag) s = .next u ∧ (u.chain tag).units = 1 ∧ (u.chain tag).state = .run ∧
            (u.chain tag).counts = c'.counts.set (leNat bs) 1 ∧ u.pk.mu = t.pk.mu)) ∧
    (standsAt s tag 6 →
      let l : BitVec 3 := (w 1).setWidth 3
      (l ≠ 0 → l ≤ s.sys.qlvl → (s.strand c.str).member.getLsbD l.toNat = true → s.scopeQuiet (domainScope l) = true →
        ∃ t, exec (.chainBarrier tag) s = .next t ∧ t.pk.barriers = s.pk.barriers ++ [⟨c.str, l, (s.strand c.str).dsync == some l, tag⟩] ∧
          (if (w 1).getLsbD 3 then (t.chain tag).begun = true ∧ (t.chain tag).p = c.p else goesOn s t tag (c.p + 64)))) ∧
    (standsAt s tag 7 → (w 3).getLsbD 18 = false → s.scopeQuiet ((w 3).extractLsb' 26 3).toNat = true →
      let n := if (w 3).getLsbD 29 then 8 else 4
      let a := w 1 + c.offset false
      ∀ p off, a.getLsbD 63 = true → s.chainScratch c a n = .ok (p, off) → off + n ≤ 0x3E0000 →
        let old : BitVec 64 := BitVec.ofNat 64 (leNat (s.scratchRead p off n))
        ∃ t, exec (.chainSignal tag) s = .next t ∧ goesOn s t tag (c.p + 64) ∧
          t.pk.mu = (s.scratchPut p off (toBytes n (if (w 3).getLsbD 30 then old + w 2 else w 2))).pk.mu) ∧
    (standsAt s tag 8 →
      let lv := ((w 1).extractLsb' 0 2).toNat
      let cur : Nat := if lv = 0 then c.ctr[0] else if lv = 1 then c.ctr[1] else c.ctr[2]
      ∃ t, exec (.chainLoop tag) s = .next t ∧
        (if cur + 1 < entryN e then goesOn s t tag (((w 1).extractLsb' 16 16).toNat * 64) else goesOn s t tag (c.p + 64)) ∧
        (if lv = 0 then (t.chain tag).ctr[0] else if lv = 1 then (t.chain tag).ctr[1] else (t.chain tag).ctr[2]) =
          (if cur + 1 < entryN e then cur + 1 else 0)) ∧
    (∀ n a bs, (standsAt s tag 9 ∨ c.state = .run ∧ tag ∉ s.pk.engineQueue ∧ c.remote = false ∧ c.followDue = false ∧ c.killing = false ∧ c.begun = true ∧
        c.condSince ≠ none ∧ entryKind e = 9) → c.past = [] →
      n = (if (w 3).getLsbD 2 then 8 else 4) → a = w 1 + c.offset true → s.chainRead c a n = .ok bs s →
      (∀ d : Chain, d = { c with held := some e } → (s.putChain tag d).chainRead d a n = .ok bs (s.putChain tag d)) →
      let holds := condTest e (BitVec.ofNat 64 (leNat bs))
      (c.condSince = none → ∃ t, exec (.chainCond tag) s = .next t ∧
        ((w 3).getLsbD 6 = false → goesOn s t tag (if holds then ((w 3).extractLsb' 16 16).toNat * 64 else c.p + 64)) ∧
        ((w 3).getLsbD 6 = true → holds = true → goesOn s t tag (c.p + 64)) ∧
        ((w 3).getLsbD 6 = true → holds = false → (t.chain tag).condSince = some s.sys.cycle.toNat ∧ (t.chain tag).p = c.p)) ∧
      (c.condSince ≠ none → holds = true → ∃ t, exec (.condWaitSatisfied tag) s = .next t ∧ goesOn s t tag (c.p + 64))) ∧
    (c.state = .run → ∀ t0, c.condSince = some t0 →
      (tag ∉ s.pk.engineQueue → c.condEngine + 1024 ≤ s.sys.cycle.toNat →
        exec (.condEngineYield tag) s = .next (s.onPk fun k => { k with engineQueue := k.engineQueue ++ [tag] })) ∧
      ((w 4).extractLsb' 0 32 ≠ 0 → t0 + ((w 4).extractLsb' 0 32).toNat * 1024 < s.sys.cycle.toNat → c.begun = true → entryKind e = 9 →
        (∀ r, bestSlot s.pk.swage (·.hooks r) = none) →
        ∃ t, exec (.condWaitLimit tag) s = .next t ∧ (t.chain tag).state = .fault ∧ tag ∉ t.pk.engineQueue)) ∧
    (standsAt s tag 0 → s.scopeQuiet (max 4 c.scope.toNat) = true →
      exec (.chainEnd tag) s = .next (s.putChain tag { c with held := some e, state := .done })) ∧
    (c.state = .run → c.followDue = true → c.killing = false → (s.remapOf ((w 3).extractLsb' 1 8).toNat).pcore = s.pk.pcore → s.core.mat.queued < 4 →
      let q : BitVec 4 := (w 3).extractLsb' 12 4
      let d := (at16 s.core.streams q).desc
      firstFail (s.mmaChecks ((w 3).extractLsb' 9 3) q (w 4) false true (descFmt d)) = none →
      entryN e = 0 ∨ followBytes (w 4) (descFmt d) (descScv d) ≤ entryN e * moveRows e →
      firstFail (s.mmaLate (w 4) (descFmt d) (descSpv d) (at16 s.core.streams q).sparse) = none →
      ∃ t o, exec (.followOnMmaJoin (.own tag none)) s = .next t ∧
        t.core.mat.queue = (s.core.mat.queue.map fun q => { q with stopAt := none }) ++ [o] ∧ o.kind = .mma ∧
        o.z = (w 3).extractLsb' 9 3 ∧ o.shape = w 4 ∧ o.buffer = w 2 + c.offset false ∧ o.coord = c.coord ∧ goesOn s t tag (c.p + 64)) ∧
    (∀ (f : Nat × Nat × Bool × BitVec 6) (core : BitVec 8), s.pk.farMmas.find? (fun f => f.2.2.2 == tag && f.1 / 16 == core.toNat) = some f →
      exec (.followOnMmaJoin (.farRead tag core)) s = .next ((s.onPk fun k => { k with farMmas := k.farMmas.erase f }).addCounter f.1 (-1)))

/-! ## Parcels, posts and packets (R314 to R332, R367, R409 to R416) -/

/-- R316, R320, R322 to R324, R327, R329, R331: each of the nine parcel instructions completes on K and A. POPEN of free mapped pages
takes the lowest free record and gives its handle; PLD, PST and PSTREF act at base plus offset on a page that is cached and permits the
access, PSTREF storing a reference or a null; PMKREF makes a reference of an address inside the extent; PSEAL seals; PFREE frees the
record; PRECV of an empty inbox gives 0, PRECV and PRECV.W bind a landed parcel at a free range. An undo record needs room where the
strand is at or above the known horizon. And where they do not complete: each escape, a stale handle and a state that does not allow the
instruction raise their causes, and PRECV.W of an empty inbox waits. A foreign reference escapes once its page has passed its checks. -/
def Obligations.ParcelResults : Prop :=
  ∀ (s : State) (x : StrandId) (d a b : BitVec 6) (m : BitVec 3) (m2 : BitVec 2), s.issues x → regOk x d = true → regOk x a = true →
    regOk x b = true → x = .K ∨ x = .A →
    let h := s.reg x a
    let r := s.reg x b
    let pid := (h.extractLsb' 48 16).toNat
    let tagOf : BitVec 32 := h.extractLsb' 48 16 ++ h.extractLsb' 0 16
    let off := (r.extractLsb' 0 32).toNat
    let record (t : State) (n : Nat) (p : Parcel) : Prop := kGet Parcel.zero t.pk.parcels (s.parcelKey n) = p
    let completes (i : Instr) (what : State → Prop) : Prop := ∃ t, exec i s = .next t ∧ t.last = .retired ∧ what t
    -- the page of an address, cached for the core, permits an access
    let plain (need : Need) (ea : BitVec 64) : Prop := ∃ c, s.cached pathCore ea.toNat = some c ∧
      (∀ level, permits c.leaf.word level (s.atS x) need = none) ∧ s.parcelRefuses c.leaf.word need = none
    let mayStore (ea : BitVec 64) : Prop := plain .write ea ∧ s.core.side.length < 2048 ∧ (s.atS x = true → s.nextOut x = none)
    ((∀ p, ¬handleFinds s h p) →
      let stale (i : Instr) : Prop := exec i s = .next (s.raises x 0x21 0x01 0)
      stale (.pld d a b m) ∧ stale (.pst d a b m2) ∧ stale (.pstref d a b) ∧ stale (.pmkref d a b) ∧ stale (.pseal a) ∧ stale (.pfree a)) ∧
    (∀ p, handleFinds s h p →
      let ea := BitVec.ofNat 64 (p.base + off)
      let named : Prop := r.extractLsb' 32 32 = 0 ∨ r.extractLsb' 32 32 = tagOf
      let inside (n : Nat) : Prop := named ∧ off % n = 0 ∧ off + n ≤ p.extent
      let size := match m.toNat with | 0 | 4 => 1 | 1 | 5 => 2 | 2 | 6 => 4 | _ => 8
      let ref : Prop := s.reg x d = 0xFFFFFFFF ∨ (s.reg x d).extractLsb' 32 32 = tagOf
      (inside size → plain .read ea → s.pk.mu.poison = [] → completes (.pld d a b m) fun t => s.regsSame t x [d]) ∧
      (inside (2 ^ m2.toNat) → mayStore ea → completes (.pst d a b m2) fun t => s.regsSame t x []) ∧
      (inside 4 → ref → mayStore ea → completes (.pstref d a b) fun t => s.regsSame t x []) ∧
      (p.state ≠ .inTransit → p.base ≤ r.toNat → r.toNat < p.base + p.extent →
        exec (.pmkref d a b) s = .next ((s.putReg x d (tagOf ++ BitVec.ofNat 32 (r.toNat - p.base))).after x 2)) ∧
      (p.state = .opened ∨ p.state = .bound → s.undoRoom x 1 = true → completes (.pseal a) fun t =>
        record t pid { p with state := .sealed } ∧ t.pk.mu.mem = s.pk.mu.mem ∧ s.regsSame t x []) ∧
      (p.state ≠ .inTransit →
        s.undoRoom x (1 + ((s.leavesOf p.base p.pages).filter fun l => leafPV l.2 && leafPid l.2 == pid).length) = true →
        completes (.pfree a) fun t => record t pid { p with state := .freed } ∧ s.regsSame t x []) ∧
      (∀ bs t, inside size → finds s x ea size bs t → exec (.pld d a b m) s = .next ((t.putReg x d (
        if m.toNat < 3 then (BitVec.ofNat (8 * size) (leNat bs)).signExtend 64 else BitVec.ofNat 64 (leNat bs))).after x 2)) ∧
      (∀ va t u, s.checkAddr x ea .write (2 ^ m2.toNat) (2 ^ m2.toNat) = .ok (.global va) → inside (2 ^ m2.toNat) →
        s.checkWrite pathCore (s.atS x) .write va (2 ^ m2.toNat) = .ok t → (t.atS x = true → t.nextOut x = none) →
        t.sideStore x clsLS (s.strand x).coord (t.kept x (s.strand x).coord) (t.atS x) (t.stepping x) .store 0 va (toBytes (2 ^ m2.toNat) (s.reg x d)) = .done u →
        exec (.pst d a b m2) s = .next (u.after x 2)) ∧
      (∀ va t u, inside 4 → ref → s.checkAddr x ea .write 4 4 = .ok (.global va) →
        s.checkWrite pathCore (s.atS x) .write va 4 = .ok t → (t.atS x = true → t.nextOut x = none) →
        t.sideStore x clsLS (s.strand x).coord (t.kept x (s.strand x).coord) (t.atS x) (t.stepping x) .store 0 va (toBytes 4 (s.reg x d)) = .done u →
        exec (.pstref d a b) s = .next (u.after x 2)) ∧
      (¬named → exec (.pld d a b m) s = .next (s.raises x 0x1F 0x04 ea) ∧ exec (.pst d a b m2) s = .next (s.raises x 0x1F 0x04 ea)) ∧
      (named → off % size = 0 → p.extent < off + size → exec (.pld d a b m) s = .next (s.raises x 0x1F 0x01 ea)) ∧
      (inside 4 → ¬ref →
        (∀ u, s.checkWrite pathCore (s.atS x) .write ea.toNat 4 = .ok u → exec (.pstref d a b) s = .next (s.raises x 0x1F 0x03 ea)) ∧
        ∀ f bits va u, s.checkWrite pathCore (s.atS x) .write ea.toNat 4 = .fail f bits va u →
          exec (.pstref d a b) s = .next (s.raises x f (faultDetail f bits .write 4) (BitVec.ofNat 64 va))) ∧
      (p.state = .inTransit → exec (.pmkref d a b) s = .next (s.raises x 0x20 0x01 0) ∧ exec (.pfree a) s = .next (s.raises x 0x21 0x02 0)) ∧
      (p.state ≠ .inTransit → r.toNat < p.base ∨ p.base + p.extent ≤ r.toNat →
        exec (.pmkref d a b) s = .next (s.raises x 0x1F 0x02 r)) ∧
      (p.state ≠ .opened → p.state ≠ .bound → exec (.pseal a) s = .next (s.raises x 0x21 0x02 0))) ∧
    let va := h.toNat
    let n := r.toNat / 65536
    ((va % 65536 ≠ 0 ∨ 2 ^ 48 ≤ va ∨ r = 0 ∨ r.toNat % 65536 ≠ 0 ∨ 2 ^ 32 < r.toNat → exec (.popen d a b) s = .next (s.raises x 0x0E 0x50 0)) ∧
      (∀ q, va % 65536 = 0 → va < 2 ^ 48 → r ≠ 0 → r.toNat % 65536 = 0 → r.toNat ≤ 2 ^ 32 →
        (∀ i, i < n → s.openFault x (va + 65536 * i) = none) → (∀ l ∈ s.leavesOf va n, leafPV l.2 = false) → s.freePid = some q →
        s.undoRoom x (1 + (s.leavesOf va n).length) = true →
        let p : Parcel := ⟨.opened, nextGen (s.parcel q).gen, BitVec.ofNat 32 (va / 65536), BitVec.ofNat 16 (n - 1)⟩
        completes (.popen d a b) fun t => record t q p ∧ s.regsSame t x [d] ∧
          (d ≠ 0 → t.reg x d = BitVec.ofNat 16 q ++ p.bpn ++ p.gen))) ∧
    (h.toNat < 256 → r.toNat % 65536 = 0 → r.toNat < 2 ^ 48 →
      let i := s.inbox h.toNat
      (i.enabled = false → exec (.precv d a b) s = .next (s.raises x 0x21 0x06 0) ∧ exec (.precvW d a b) s = .next (s.raises x 0x21 0x06 0)) ∧
      (i.enabled = true → i.landed = [] → exec (.precv d a b) s = .next ((s.putReg x d 0).after x 2) ∧ exec (.precvW d a b) s = .next s.waits) ∧
      ∀ l rest q, i.enabled = true → i.landed = l :: rest →
        (∀ k, k ≤ l.xm1.toNat → s.mapped (r.toNat + 65536 * k) = false ∧ (s.freeLeaf (r.toNat + 65536 * k)).isSome = true) → s.freePid = some q →
        s.undoRoom x (3 + l.xm1.toNat) = true →
        let p : Parcel := ⟨.bound, nextGen (s.parcel q).gen, BitVec.ofNat 32 (r.toNat / 65536), l.xm1⟩
        let binds (t : State) : Prop := record t q p ∧ s.regsSame t x [d] ∧
          (d ≠ 0 → t.reg x d = BitVec.ofNat 16 q ++ p.bpn ++ p.gen) ∧ (t.inbox h.toNat).landed = rest
        completes (.precv d a b) binds ∧ completes (.precvW d a b) binds)

/-- R325, R326, R314, R367, R409, R415, R416: POST of a sealed parcel puts it in transit and starts its chain; a POST entry whose package and inbox can be
reached sends its pages, RREAD and RWRITE send their unit, and each waits for its answer; a bind notice frees the source; frames go
back to the landing area; a packet of an older key generation is discarded, one that is not authentic is refused; an answer of success lets
the chain go on, and a packet that has waited its time is COPY_REMOTE. That a parcel goes in one packet, that an answer is matched by its
sequence number, and that a generation is older by up to 128 steps, are the model's choices (log 32). -/
def Obligations.PostAndFabricSteps : Prop :=
  ∀ (s : State) (tag : BitVec 6),
    let c := s.chain tag
    let e := s.entryOf c
    let w (i : Nat) : BitVec 64 := e.extractLsb' (64 * i) 64
    let asks (t : State) (body : PacketBody) : Prop :=
      (t.chain tag).remote = true ∧ (t.chain tag).p = c.p ∧ t.pk.unanswered = s.pk.unanswered ++ [⟨tag, (w 3).extractLsb' 19 7, s.pk.sendSeq, s.sys.cycle.toNat⟩] ∧
        ((w 3).setWidth 18 ≠ s.pk.pkg → ∃ q, t.pk.outbound = s.pk.outbound ++ [q] ∧ q.body = body ∧ q.seq = s.pk.sendSeq ∧
          q.dst = (w 3).setWidth 18 ∧ q.kid = (w 3).extractLsb' 19 7)
    (∀ (x : StrandId) (d a b : BitVec 6) (p : Parcel), s.issues x → x = .K ∨ x = .A → regOk x d = true → regOk x a = true → regOk x b = true →
      let v := s.reg x b
      (v.extractLsb' 37 27 ≠ 0 ∨ v.getLsbD 18 = false ∨ v.extractLsb' 26 3 ≠ 0 → exec (.post d a b) s = .next (s.raises x 0x0E 0x52 0)) ∧
      (v.extractLsb' 37 27 = 0 → v.getLsbD 18 = true → v.extractLsb' 26 3 = 0 → handleFinds s (s.reg x a) p →
        (p.state ≠ .sealed → exec (.post d a b) s = .next (s.raises x 0x21 0x02 0)) ∧
        (p.state = .sealed → s.startReady x 7 = true → s.undoRoom x 1 = true → s.freeChain = some tag → s.portCount < 32 →
          ∃ t, exec (.post d a b) s = .next t ∧ t.last = .retired ∧ (t.chain tag).post = some (s.reg x a, v) ∧ (t.chain tag).str = x ∧
            (t.chain tag).state = (if s.atS x then .queued else .held) ∧ s.regsSame t x [d] ∧
            kGet Parcel.zero t.pk.parcels (s.parcelKey ((s.reg x a).extractLsb' 48 16).toNat) = { p with state := .inTransit }))) ∧
    (standsAt s tag 10 → c.resend = none → s.pk.switching = none → (s.putChain tag { c with held := some e }).postRefused { c with held := some e } (w 1) = none → ∀ bs v u,
      let p := s.parcel ((w 1).extractLsb' 48 16).toNat
      let c1 : Chain := { c with held := some e }
      let t := ((s.putChain tag c1).onPk fun k => { k with parcels := kSet k.parcels (s.parcelKey (handlePid (w 1))) { p with state := .inTransit } })
      v = (t.unmapParcel (w 1)).putChain tag { c1.begin_ 0 with posting := true } → v.postUnreachable (w 3) = none →
      v.parcelBytes c.str (pageAddrs p.base p.pages) = .ok bs u →
      u.pk.unanswered = s.pk.unanswered → u.pk.outbound = s.pk.outbound → u.pk.sendSeq = s.pk.sendSeq → u.chain tag = { c1.begin_ 0 with posting := true } →
      u.pk.pkg = s.pk.pkg → u.sys.cycle = s.sys.cycle →
      ∃ t, exec (.chainPost tag) s = .next t ∧ asks t (.post ((w 4).setWidth 8) p.xm1 ((w 1).extractLsb' 48 16) bs)) ∧
    (∀ u a b k, ((c.begin_ ((w 3).extractLsb' 26 3)).moveUnit e) = some (u, a, b, k) → s.remoteFault (w 3) = none → (w 3).getLsbD 18 = true →
      s.pk.switching = none → c.resend = none →
      (standsAt s tag 2 → ∃ t, exec (.chainRread tag) s = .next t ∧ asks t (.read a k)) ∧
      (standsAt s tag 3 → c.past = [] → ∀ p off, a.getLsbD 63 = true →
        s.chainScratch c a k = .ok (p, off) → ∃ t, exec (.chainRwrite tag) s = .next t ∧ asks t (.write b (s.scratchRead p off k)))) ∧
    (∀ pid : BitVec 16, s.posting (s.parcelKey pid.toNat) = false → (kGet Parcel.zero s.pk.parcels (s.parcelKey pid.toNat)).state = .inTransit →
      ∃ t, exec (.bindNotice pid) s = .next t ∧ (kGet Parcel.zero t.pk.parcels (s.parcelKey pid.toNat)).state = .freed ∧
        ∀ q ∈ t.pk.transit, q.1 ≠ s.parcelKey pid.toNat) ∧
    (∀ n : BitVec 32,
      let i := s.inbox s.sys.pinsel.toNat
      let k := min (n.toNat % 2 ^ 20) i.used.toNat
      ∃ t, exec (.plringReturn n) s = .next t ∧ (t.inbox s.sys.pinsel.toNat).inUse = i.inUse.drop k ∧ (t.inbox s.sys.pinsel.toNat).landed = i.landed ∧ t.pk.mu = s.pk.mu) ∧
    (∀ p rest, s.pk.inbound = p :: rest → s.pk.taking = false → (∀ q a bs, p.body ≠ .reply q a bs) →
      (∀ k, s.pk.kids.find? (·.kid == p.kid) = some k → olderGen p.gen k.gen = true →
        exec .fabricPacketReceive s = .next (s.onPk fun k => { k with inbound := rest, taking := false })) ∧
      ∀ k, s.pk.kids.find? (·.kid == p.kid) = some k → olderGen p.gen k.gen = false → s.authentic p = false →
        ∃ t, exec .fabricPacketReceive s = .next t ∧ t.pk.mu = s.pk.mu ∧ t.core = s.core ∧ (p.src ≠ s.pk.pkg → t.pk.inbound = rest ∧
          ∃ q, t.pk.outbound = s.pk.outbound ++ [q] ∧ q.dst = p.src ∧ q.body = .reply p.seq .auth [])) ∧
    (∀ p rest q a bs k, s.pk.inbound = p :: rest → s.pk.taking = false → p.body = .reply q a bs → s.pk.kids.find? (·.kid == p.kid) = some k → olderGen p.gen k.gen = true →
      exec .fabricPacketReceive s = .next (s.onPk fun k => { k with
        inbound := rest, taking := false, reservations := k.reservations.filter (· ≠ (p.kid.toNat, q)) })) ∧
    (∀ p rest q u, s.pk.inbound = p :: rest → s.pk.taking = false → p.body = .reply q .done [] → (∀ k, s.pk.kids.find? (·.kid == p.kid) = some k → olderGen p.gen k.gen = false) →
      s.authentic p = true → s.replayed p = false → s.pk.unanswered.find? (·.seq == q) = some u → u.tag = tag →
      c.state = .run → c.remote = true → c.killing = false → entryKind e ≠ 10 → entryKind e ≠ 2 →
      ∃ t, exec .fabricPacketReceive s = .next t ∧ t.pk.inbound = rest ∧ (∀ v ∈ t.pk.unanswered, v.seq ≠ q) ∧ (t.chain tag).remote = false ∧
        (t.chain tag).units = c.units + 1) ∧
    (∀ u, s.pk.unanswered.find? (·.tag == tag) = some u → u.since + max 1 s.pk.ftmo.toNat * 1024 ≤ s.sys.cycle.toNat → c.state = .run → c.remote = true → c.killing = false →
      entryKind e ≠ 10 → (∀ r, bestSlot s.pk.swage (·.hooks r) = none) →
      ∃ t, exec (.fabricTimeout tag) s = .next t ∧ (t.chain tag).state = .fault ∧ ∀ v ∈ t.pk.unanswered, v.seq ≠ u.seq)

/-! ## The quench unit (R336 to R356) -/

/-- R344, R345, R348 to R352: on K, QREQ and QARM read D registers and raise OPERAND_RANGE 0x60 or 0x61 or QUENCH_SCOPE 0x01, else QREQ sends
its request and QARM arms, firing at once where something stands at or above its coordinate; QARM.CLR disarms; QSTAT gives a word of the cut
or the status word, QHORIZ a word of the horizon (a horizon above every coordinate has none, and reads open: log 7) or zero at and beyond D;
QWAIT waits while a cut is pending or a request has still to be accepted, or the record of a
cut waits for room in the fault queue, all of which QSTAT reads as PENDING too (R358), and QRESUME ends a
standing cut, both only at S, where a strand whose record is still queued stays stopped (R129); SETTLE asks, waits and retires. On the other strands all are
WRONG_STRAND. -/
def Obligations.QuenchItemResults : Prop :=
  ∀ (s : State) (x : StrandId) (a d : BitVec 6) (l w : BitVec 3), s.issues x →
    let q := s.core.qu
    let D := s.sys.nest.toNat
    let bad (i : Instr) (c : BitVec 6) (code : BitVec 64) : Prop := exec i s = .next (s.raises .K c code 0)
    let bit (b : Bool) : Nat := if b then 1 else 0
    -- the QUENCH_STOP record of a cut waits for room
    let roomWaits : Prop := ∃ r ∈ s.sys.fqWait, r.raised = 0x23
    (x ≠ .K → ∀ i, i = Instr.qreq a l ∨ i = .qarm a l ∨ i = .qarmClr ∨ i = .qstat d w ∨ i = .qhoriz d w ∨ i = .qwait ∨ i = .qresume ∨
      i = .settle → exec i s = .next (s.raises x 0x03 0 0)) ∧
    (x = .K → 32 ≤ a → bad (.qreq a l) 0x03 0 ∧ bad (.qarm a l) 0x03 0) ∧
    (x = .K → 32 ≤ d → bad (.qstat d w) 0x03 0 ∧ bad (.qhoriz d w) 0x03 0) ∧
    (x = .K → a < 32 → d < 32 →
      (∀ i, i = Instr.qreq a l ∨ i = .qarm a l →
        (31 < a.toNat + D - 1 → bad i 0x0E 0x60) ∧
        (a.toNat + D - 1 ≤ 31 → (∃ j, j < D ∧ 2 ^ 32 ≤ (s.reg .K (a + BitVec.ofNat 6 j)).toNat) → bad i 0x0E 0x61) ∧
        (a.toNat + D - 1 ≤ 31 → (∀ j, j < D → (s.reg .K (a + BitVec.ofNat 6 j)).toNat < 2 ^ 32) → l ≠ s.sys.qlvl → bad i 0x24 0x01)) ∧
      (∀ c : Coord, a.toNat + D - 1 ≤ 31 → (∀ j, j < D → (s.reg .K (a + BitVec.ofNat 6 j)).toNat < 2 ^ 32) → l = s.sys.qlvl →
        (∀ j, j < 6 → c.get j = if j < D then (s.reg .K (a + BitVec.ofNat 6 j)).setWidth 32 else 0) →
        exec (.qreq a l) s = .next ((s.onQu fun q => { q with requests := q.requests ++ [⟨c, l, s.sys.lcore, true, false, false⟩] }).after .K 2) ∧
        (reached s c.key → exec (.qarm a l) s = .next ((s.onQu fun q => { q with
          armed := none, requests := q.requests ++ [⟨c, l, s.sys.lcore, true, true, false⟩] }).after .K 2)) ∧
        (¬reached s c.key → exec (.qarm a l) s = .next ((s.onQu fun q => { q with armed := some (c, l) }).after .K 2))) ∧
      exec .qarmClr s = .next ((s.onQu fun q => { q with armed := none }).after .K 2) ∧
      (w ≤ 5 → exec (.qstat d w) s = .next ((s.putReg .K d ((q.cut.get w.toNat).setWidth 64)).after .K 2)) ∧
      (w = 6 → ∀ st, ((q.requests ≠ [] ∨ roomWaits) ∧ st = 1) ∨ (q.requests = [] ∧ ¬roomWaits ∧ ((q.st = .none ∧ st = 0) ∨ (q.st = .pending ∧ st = 1) ∨
          (q.st = .cut ∧ st = 2))) →
        exec (.qstat d w) s = .next ((s.putReg .K d (BitVec.ofNat 64 (st + bit q.passed * 4 + bit q.armed.isSome * 8 + bit q.fired * 16 +
          q.ended.toNat * 32 + q.level.toNat * 512 + bit q.merged * 4096))).after .K 2)) ∧
      (w = 7 → bad (.qstat d w) 0x01 0) ∧
      (6 ≤ w → bad (.qhoriz d w) 0x01 0) ∧
      (w < 6 →
        let h := max q.hk s.effectiveH
        (D ≤ w.toNat → exec (.qhoriz d w) s = .next ((s.putReg .K d 0).after .K 2)) ∧
        (w.toNat < D → h < 2 ^ 192 → exec (.qhoriz d w) s =
          .next ((s.putReg .K d (BitVec.ofNat 64 (h / 2 ^ (32 * (5 - w.toNat)) % 2 ^ 32))).after .K 2)) ∧
        (w.toNat < D → 2 ^ 192 ≤ h → ∃ v : BitVec 32, exec (.qhoriz d w) s =
          .next (({ s with freeCtr := s.freeCtr + 1 }.putReg .K d (v.setWidth 64)).after .K 2))) ∧
      (s.sys.levelS = false → bad .qwait 0x24 0x03 ∧ bad .qresume 0x24 0x03) ∧
      (s.sys.levelS = true →
        (q.requests ≠ [] ∨ roomWaits ∨ q.st = .pending → exec .qwait s = .next s.waits) ∧
        (q.requests = [] → ¬roomWaits → q.st ≠ .pending → exec .qwait s = .next (s.after .K 2)) ∧
        (q.st ≠ .cut ∨ q.requests ≠ [] ∨ roomWaits → exec .qresume s = .next (s.after .K 2)) ∧
        (q.st = .cut → q.requests = [] → ¬roomWaits → ∀ queued : Bool, (queued = true ↔ ∃ r ∈ s.sys.fq, r.raised = 0x23) →
          ∃ t : State, exec .qresume s = .next (t.after .K 2) ∧ t.core.qu = { q with st := .none, taken := [], resumeDue := queued } ∧
            (∀ y, t.strand y = { s.strand y with
              run := if queued = false ∧ (s.strand y).run = .cut then
                  (if y ≠ .K ∧ ∃ r ∈ s.sys.fq ++ s.sys.fqWait, r.strand = y ∧ r.stops = true then .faulted else .running)
                else (s.strand y).run }) ∧
            (∀ n : BitVec 4, at16 t.core.streams n = { at16 s.core.streams n with
              state := if queued = false ∧ (at16 s.core.streams n).state = .cut then .run else (at16 s.core.streams n).state }) ∧
            t.sys = s.sys ∧ t.pk = s.pk)) ∧
      (q.settle = false → exec .settle s = .next (s.onQu fun q => { q with settle := true, peersSettled := s.alone }).waits) ∧
      (q.settle = true → q.settled = false → exec .settle s = .next s.waits) ∧
      (q.settle = true → q.settled = true → (∃ c ∈ s.pk.chains.toList, c.state = .held ∧ c.coord.key < q.hk) ∨
          (2 ≤ s.sys.qlvl.toNat ∧ q.peersSettled = false) → exec .settle s = .next s.waits) ∧
      (q.settle = true → q.settled = true → (∀ c ∈ s.pk.chains.toList, c.state = .held → q.hk ≤ c.coord.key) →
        s.sys.qlvl.toNat ≤ 1 ∨ q.peersSettled = true → exec .settle s = .next ((s.onQu fun q => { q with settle := false, settled := false }).after .K 2)))

/-- R336, R337, R340, R346, R347, R350, R352: the quench unit's own steps. An armed breakpoint fires once something has reached it. The
coordinator fixes the cut at the greater of the least request and the effective horizon, strands at or above it stop and one below it that
had yielded runs on; MERGED says that two cores have asked; no cut arises above every coordinate, such a request completing as PASSED, which
is the model's choice (log 28), and a request at a cut queues a further QUENCH_STOP. A drained core reports;
a member silent beyond the timeout is MACHINE_CHECK 0x23. The commit puts the strands at or above the cut back to their images, discards
what is HELD there, raises the horizon to the cut and queues QUENCH_STOP; a K at TASKEND below it counts as ended (log 28), and a task whose
end was under way comes to it afresh (R122). A SETTLE is applied after every request, accepted or not. PIN, the floor of a SETTLE and the known horizon move as stated. -/
def Obligations.QuenchSteps : Prop :=
  ∀ (s : State),
    let q := s.core.qu
    let cut := q.cut.key
    let own : Nat := max (max s.core.k.coord.key s.core.a.coord.key) (max s.core.v.coord.key s.core.m.coord.key)
    let drained : Prop :=
      (∀ x, (s.strand x).atEnd = true ∨ ((s.strand x).run = .cut ∧ cut ≤ (s.strand x).coord.key)) ∧ (∀ k ∈ s.opKeys, cut ≤ k) ∧
        (∀ e ∈ s.core.side, e.atS = true ∨ cut ≤ e.coord.key) ∧
        (∀ c ∈ s.pk.chains.toList, c.state ≠ .queued ∧ c.state ≠ .run ∧ c.state ≠ .fault ∧ (c.state = .held → cut ≤ c.coord.key)) ∧
        s.pk.farMmas = [] ∧ (∀ o ∈ s.core.mat.queue, o.atS = true → o.follow = none) ∧ s.pk.mu.inflight = []
    (q.armed = none → exec .qarmFire s = .next s) ∧
    (∀ c l, q.armed = some (c, l) → ¬reached s c.key → exec .qarmFire s = .next s) ∧
    (∀ c l, q.armed = some (c, l) → reached s c.key → exec .qarmFire s =
      .next (s.onQu fun q => { q with armed := none, requests := q.requests ++ [⟨c, l, s.sys.lcore, true, true, false⟩] })) ∧
    (q.requests = [] → exec .quenchAccept s = .next s) ∧
    (∀ m, q.st ≠ .cut → q.requests ≠ [] →
      let asked := (if q.st = .pending then q.taken else []) ++ q.requests
      let C := max m s.effectiveH
      (∃ r ∈ asked, r.coord.key = m) → (∀ r ∈ asked, m ≤ r.coord.key) →
        ∃ t, exec .quenchAccept s = .next t ∧ t.core.qu.requests = [] ∧ t.core.qu.taken = asked ∧ t.sys = s.sys ∧ t.pk = s.pk ∧
          (t.core.qu.passed = true ↔ ∃ r ∈ asked, r.own = true ∧ r.coord.key ≠ C) ∧
          (t.core.qu.fired = true ↔ ∃ r ∈ asked, r.fired = true) ∧
          (t.core.qu.merged = true ↔ ∃ r ∈ asked, ∃ p ∈ asked, r.core ≠ p.core) ∧
          (2 ^ 192 ≤ C → t.core.qu.st = q.st ∧ ∀ x, t.strand x = s.strand x) ∧
          (C < 2 ^ 192 → t.core.qu.st = .pending ∧ t.core.qu.cut.key = C ∧ t.core.qu.reported = false ∧ t.core.qu.ended = 0 ∧
            ∀ x, t.strand x = { s.strand x with run :=
              if (s.strand x).run = .noTask then .noTask else if C ≤ (s.strand x).coord.key then .cut
              else if (s.strand x).run = .yielded then .running else (s.strand x).run })) ∧
    (q.st = .cut → q.requests ≠ [] → ∃ t, exec .quenchAccept s = .next t ∧ t.core.qu.st = .cut ∧ t.core.qu.cut = q.cut ∧
      t.core.qu.requests = [] ∧ (t.core.qu.passed = true ↔ ∃ r ∈ q.requests, r.own = true ∧ r.coord.key ≠ cut) ∧ stopIsQueued t ∧
      ∀ x, t.strand x = s.strand x) ∧
    (q.st = .pending → drained → exec .quenchDrainReport s = .next (s.onQu fun q => { q with reported := true })) ∧
    (q.st ≠ .pending ∨ ¬drained → exec .quenchDrainReport s = .next s) ∧
    (q.st = .pending → 5 ≤ s.sys.qlvl → q.peersReported = false → q.since + max 1 s.pk.ftmo.toNat * 1024 ≤ s.sys.cycle.toNat →
      ∃ t r, exec .quenchMemberTimeout s = .next t ∧ t.sys.hDue = s.sys.hDue ++ [r] ∧ r.cause = 0x3F ∧ r.detail = 0x23 ∧
        t.sys.stoppedByH = true ∧ t.core.qu.st = .pending ∧ ∀ x, t.strand x = s.strand x) ∧
    (q.st ≠ .pending ∨ q.reported = false ∨ (2 ≤ s.sys.qlvl ∧ q.peersReported = false) → exec .quenchCommit s = .next s) ∧
    (q.st = .pending → q.reported = true → s.sys.qlvl ≤ 1 ∨ q.peersReported = true →
      ∃ t, exec .quenchCommit s = .next t ∧ t.core.qu.st = .cut ∧ t.core.qu.reported = false ∧ t.core.qu.cut = q.cut ∧ stopIsQueued t ∧
        t.core.qu.hk = max q.hk cut ∧ releasedBelow t ∧ t.pk.ending = (if s.pk.ending < 4 then 0 else s.pk.ending) ∧
        (∀ x, t.core.qu.ended.getLsbD (strandNum x) = true ↔ (s.strand x).atEnd = true ∧ (s.strand x).coord.key < cut) ∧
        (∀ e ∈ t.core.side, e.atS = false → e.coord.key < cut) ∧
        (∀ r ∈ t.sys.fq ++ t.sys.fqWait, r.cause ≠ 0x23 → r.coord.key < cut) ∧
        (∀ x, (s.strand x).run = .noTask ∨ (s.strand x).coord.key < cut →
          (t.strand x).run = (s.strand x).run ∧ (t.strand x).coord = (s.strand x).coord ∧ (t.strand x).flags = (s.strand x).flags ∧
            (t.strand x).pc = (s.strand x).pc ∧ (t.strand x).calls = (s.strand x).calls) ∧
        (∀ x i, (s.strand x).run ≠ .noTask → cut ≤ (s.strand x).coord.key → (s.strand x).images.find? (fun i => decide (cut ≤ i.coord.key)) = some i →
          (t.strand x).run = .cut ∧ (t.strand x).coord = i.coord ∧ (t.strand x).calls = i.calls ∧ (t.strand x).phase = i.phase ∧
            (x = .K → s.sys.levelS = true → t.sys.epcPc = i.pc ∧ t.sys.epcHdr = i.hdr ∧ t.sys.epcRemain = i.remain ∧
              t.sys.estatFl = i.flags ∧ t.sys.kHeld = some (i.s, i.cc) ∧ t.sys.levelS = true) ∧
            (x ≠ .K ∨ s.sys.levelS = false → (t.strand x).s = i.s ∧ (t.strand x).flags = i.flags ∧ (t.strand x).cc = i.cc ∧
              (t.strand x).pc = i.pc ∧ (t.strand x).hdr = i.hdr ∧ (t.strand x).remain = i.remain) ∧
            (x = .A → t.core.areg = i.a) ∧
            (x = .V → t.core.vec.masks = i.masks ∧ t.core.vec.vmask = i.vmask ∧ t.core.vec.vcarry = i.vcarry) ∧
            (x = .M → t.core.mat.zc = i.zc ∧ t.core.mat.chkBase = i.chk))) ∧
    (∀ pin, exec (.qctlPinWrite pin) s = .next (s.onQu fun q => { q with pin := pin, pinAt := if pin then s.effectiveH else q.pinAt })) ∧
    ((q.settle = false ∨ q.settled = true) ∧ q.peerSettle = false ∨ q.st = .pending ∨ q.requests ≠ [] → exec .settleApply s = .next s) ∧
    ((q.settle = true ∧ q.settled = false) ∨ q.peerSettle = true → q.st ≠ .pending → q.requests = [] →
      let top := if s.sys.qlvl ≤ 1 then own else max own q.peersMax
      let unit := 2 ^ (32 * (6 - s.sys.nest.toNat))
      ∃ t, exec .settleApply s = .next t ∧ t.core.qu.floor = max q.floor (min (2 ^ 192) ((top / unit + 1) * unit)) ∧
        t.core.qu.floor ≤ t.core.qu.hk ∧ q.hk ≤ t.core.qu.hk ∧ t.core.qu.settled = q.settle ∧ releasedBelow t ∧
        t.pk.ending = (if s.pk.ending = 1 ∧ s.taskStopped = true then 2 else s.pk.ending) ∧
        ∀ x, (t.strand x).coord = (s.strand x).coord ∧ (t.strand x).run = (s.strand x).run) ∧
    (∃ t, exec .horizonUpdate s = .next t ∧ t.core.qu.hk = max s.effectiveH q.hk ∧ releasedBelow t ∧
      ∀ x, (t.strand x).coord = (s.strand x).coord ∧ (t.strand x).run = (s.strand x).run ∧ (t.strand x).s = (s.strand x).s)

/-! ## The memory unit (R366, R370 to R379) -/

/-- R378: on A, V and M every instruction of major 0x1B is WRONG_STRAND, and on K at T it is PRIVILEGED. R370, R371, R374, R375, R379: at S, TLBINV
and PGDISC refuse a bad range with OPERAND_RANGE 0x70; TLBINV waits for K's stores (PEND or SEAL-WAIT; none that a FAULTED one of K holds back: log 30, DEDUCED) and starts a shoot-down of the running context, and TLBSYNC waits for
all; PGDISC sets DISC in every leaf of local memory or is PAGE_ABSENT and changes nothing; PGSEAL checks its descriptor, its pages and its
records, sets SEAL in every leaf and gives the record's number; PGSEAL.CLR clears SEAL of the undrained pages and frees the record; TMREAD and
TMSET move the touchmark and the recorded value by an even pair. That a global descriptor and a range that is misaligned or overflows are 0x71,
beside R379's list, and that PGDISC, PGSEAL and PGSEAL.CLR shoot down at once, are the model's readings (log 30). -/
def Obligations.MemoryUnitItemResults : Prop :=
  ∀ (s : State) (x : StrandId) (a b d : BitVec 6), s.issues x → s.memoriesWf → (∀ e ∈ s.core.side, e.ovf = none) →
    (∀ i, privilegedItem i = true → (x ≠ .K → exec i s = .next (s.raises x 0x03 0 0)) ∧
      (x = .K → s.sys.levelS = false → exec i s = .next (s.raises .K 0x06 0 0))) ∧
    (x = .K → s.sys.levelS = true → a < 32 → b < 32 → d < 32 →
      let A := (s.reg .K a).toNat
      let B := (s.reg .K b).toNat
      let bad (i : Instr) (c : BitVec 6) (code : BitVec 64) : Prop := exec i s = .next (s.raises .K c code 0)
      let range : Prop := A % 65536 = 0 ∧ A < 2 ^ 56 ∧ B ≠ 0 ∧ B < 2 ^ 32 ∧ A + B * 65536 ≤ 2 ^ 56
      let quiet : Prop := (∀ e ∈ s.core.side, e.strand = .K → e.state = .pend ∨ e.state = .sealWait →
        ∃ f ∈ s.core.side, f.strand = .K ∧ f.state = .faulted ∧ f.seq ≤ e.seq) ∧ ∀ w ∈ s.pk.mu.inflight, w.waiting.contains s.die = true
      let shot (first bytes : Nat) : State := (s.onMu fun m => { m with shoots := m.shoots ++ [⟨s.sys.ctx, first, bytes, List.range 18⟩] }).after .K 2
      let inPages (v first n : Nat) : Prop := ∃ k, k < n ∧ v = first + 65536 * k
      (¬range → bad (.tlbinv a b) 0x0E 0x70 ∧ bad (.pgdisc a b) 0x0E 0x70) ∧
      (range → quiet → exec (.tlbinv a b) s = .next (shot A (B * 65536))) ∧
      (range → ¬quiet → exec (.tlbinv a b) s = .next s.waits) ∧
      (quiet → exec .tlbinvAll s = .next (shot 0 (2 ^ 56))) ∧
      (¬quiet → exec .tlbinvAll s = .next s.waits) ∧
      exec .tlbsync s = .next (if s.pk.mu.shoots = [] then s.after .K 2 else s.waits) ∧
      (range → (∃ v, inPages v A B ∧ ∀ pa e l, s.walk v = .ok (pa, e, l) → leafAper e ≠ 1 ∧ leafAper e ≠ 2) → bad (.pgdisc a b) 0x10 0) ∧
      (range → (∀ v, inPages v A B → ∃ pa e l, s.walk v = .ok (pa, e, l) ∧ (leafAper e = 1 ∨ leafAper e = 2)) →
        ∃ t : State, exec (.pgdisc a b) s = .next (t.after .K 2) ∧ t.core = s.core ∧ t.pk.mu.scratch = s.pk.mu.scratch ∧
          (∀ v pa e l, inPages v A B → s.walk v = .ok (pa, e, l) → t.walk v = .ok (pa, e ||| 0x200000, l)) ∧
          ∀ y ∈ t.pk.mu.tlb, y.ctx = s.sys.ctx → ¬(y.base < A + B * 65536 ∧ A < y.base + y.leaf.size)) ∧
      (∀ f, s.checkAddr .K (s.reg .K a) .read 64 64 = .error f → exec (.pgseal d a) s = .next (s.raises .K f.cause f.detail f.addr)) ∧
      (∀ va, s.checkAddr .K (s.reg .K a) .read 64 64 = .ok (.global va) → bad (.pgseal d a) 0x0E 0x71) ∧
      (∀ p w, s.checkAddr .K (s.reg .K a) .read 64 64 = .ok (.scratch p w) →
        let D : BitVec 512 := ofBytes 512 (s.scratchRead p (scratchOff w) 64)
        let page := (D.extractLsb' 0 56).toNat
        let n := (D.extractLsb' 64 32).toNat
        let sound : Prop := D.extractLsb' 56 8 = 0 ∧ D.extractLsb' 189 323 = 0 ∧ n ≠ 0 ∧ page % 65536 = 0 ∧ page + n * 65536 ≤ 2 ^ 56
        let usable : Prop := ∀ v, inPages v page n → maySeal s v
        let taken (i : Nat) : Prop := ∃ r ∈ s.pk.mu.seals, r.1 = s.sys.ctx.toNat * 64 + i
        (¬sound → bad (.pgseal d a) 0x0E 0x71) ∧
        (∀ k, sound → k < n → (∀ j, j < k → maySeal s (page + 65536 * j)) →
          (∀ f, s.walk (page + 65536 * k) = .error f → bad (.pgseal d a) f.cause 0) ∧
          (∀ pa e l, s.walk (page + 65536 * k) = .ok (pa, e, l) → (leafAper e = 0 → bad (.pgseal d a) 0x10 0) ∧
            (leafAper e ≠ 0 → leafAper e ≠ 1 → leafAper e ≠ 2 → bad (.pgseal d a) 0x15 0) ∧
            (leafAper e = 1 ∨ leafAper e = 2 → leafPV e = true → bad (.pgseal d a) 0x21 0x04))) ∧
        (sound → usable → (∀ i, i < 64 → taken i) → bad (.pgseal d a) 0x0E 0x72) ∧
        (sound → usable → (∃ v, inPages v page n ∧ ((∃ pa e l, s.walk v = .ok (pa, e, l) ∧ leafSeal e = true) ∨
          ∃ d ∈ s.pk.mu.drainSent, d.1 = v / 65536 ∧ d.2.2 = false)) → bad (.pgseal d a) 0x0E 0x72) ∧
        (∀ i, sound → usable → (∀ v pa e l, inPages v page n → s.walk v = .ok (pa, e, l) → leafSeal e = false) →
          (∀ v, inPages v page n → ∀ d ∈ s.pk.mu.drainSent, d.1 = v / 65536 → d.2.2 = true) → i < 64 → ¬taken i →
          (∀ j, j < i → taken j) →
          ∃ t : State, exec (.pgseal d a) s = .next ((t.putReg .K d (BitVec.ofNat 64 i)).after .K 2) ∧ t.core = s.core ∧
            t.pk.mu.seals = kSet s.pk.mu.seals (s.sys.ctx.toNat * 64 + i) ⟨page, n, D.extractLsb' 96 64, D.extractLsb' 160 29, pageAddrs page n⟩ ∧
            ∀ v pa e l, inPages v page n → s.walk v = .ok (pa, e, l) → t.walk v = .ok (pa, e ||| 0x400000, l))) ∧
      (63 < A ∨ s.pk.mu.seals.find? (·.1 == s.sys.ctx.toNat * 64 + A) = none → bad (.pgsealClr a) 0x0E 0x73) ∧
      (∀ key r, A ≤ 63 → s.pk.mu.seals.find? (·.1 == s.sys.ctx.toNat * 64 + A) = some (key, r) →
        ∃ t : State, exec (.pgsealClr a) s = .next (t.after .K 2) ∧ t.pk.mu.seals = kDel s.pk.mu.seals key ∧
          (∀ v pa e l, v ∈ r.undrained → s.walk v = .ok (pa, e, l) → t.walk v = .ok (pa, e &&& ~~~0x400000, l)) ∧
          ∀ e ∈ t.core.side, e.state = .sealWait → t.isSealed (entryStart e) = true) ∧
      (d.getLsbD 0 = true → bad (.tmread d) 0x01 0 ∧ bad (.tmreadRec d) 0x01 0) ∧
      (d.getLsbD 0 = false →
        (let T := s.pk.mu.touchmark
         exec (.tmread d) s = .next (((s.putReg .K d (T.extractLsb' 0 64)).putReg .K (d + 1) (T.extractLsb' 64 64)).after .K 2)) ∧
        let R := if s.sys.tmrec then s.pk.mu.tmval else 0
        exec (.tmreadRec d) s = .next (((s.putReg .K d (R.extractLsb' 0 64)).putReg .K (d + 1) (R.extractLsb' 64 64)).after .K 2)) ∧
      (a.getLsbD 0 = true → bad (.tmset a) 0x01 0) ∧
      (a.getLsbD 0 = false → exec (.tmset a) s = .next
        (((s.onMu fun m => { m with tmval := s.reg .K (a + 1) ++ s.reg .K a }).onSys fun y => { y with tmrec := true }).after .K 2)) ∧
      exec .tmsetClr s = .next ((s.onSys fun y => { y with tmrec := false }).after .K 2))

/-- R34, R366, R370, R372, R376, R311, R249, R251, R261: the memory unit's own steps. A cache acknowledges with nothing of the ranges left in it; an answer
of the host is cached with the permits that the leaf and the host both give, or its request fails (that the statuses are 1 and 4 is presumed: log 31) and so does one unanswered for 2^20 cycles; an
invalidation removes what it names; a corrected error is ECC_CORRECTED of engine 7, or 3 for an accumulator (presumed: log 31), and stops nothing, an uncorrectable one poisons its block, one
of an accumulator is ECC_UNCORRECTED of M; a die applies a stamped write when its clock allows; a drained page leaves its record and is sealed no
more; SEALDRAIN passes over a page that is not sealed and copies one that is; m.carry, a grant (of a request that CEIL admits or admitted when it was made: log 34; the next pending one then takes its
place) and a ceiling take effect. -/
def Obligations.MemoryUnitSteps : Prop :=
  ∀ (s : State), s.memoriesWf → (∀ e ∈ s.core.side, e.ovf = none) → (∀ r, bestSlot s.pk.swage (·.hooks r) = none) →
    (∀ path, ∃ t, exec (.shootdownAck path) s = .next t ∧ t.core = s.core ∧ t.pk.mu.mem = s.pk.mu.mem ∧
      (∀ r ∈ t.pk.mu.shoots, path ∉ r.paths ∧ r.paths ≠ []) ∧
      ∀ e, e ∈ t.pk.mu.tlb ↔ e ∈ s.pk.mu.tlb ∧ (e.path = path → ∀ r ∈ s.pk.mu.shoots, path ∈ r.paths → r.ctx = e.ctx →
        ¬(e.base < r.first + r.bytes ∧ r.first < e.base + e.leaf.size))) ∧
    (∀ k q frame canRead canWrite, s.pk.mu.ats[k]? = some q → q.status = none →
      let fails (n : BitVec 8) : State := s.onMu fun m => { m with ats := m.ats.set k { q with status := some n } }
      exec (.atsCompletion k .absent frame canRead canWrite) s = .next (fails 1) ∧
      exec (.atsCompletion k .denied frame canRead canWrite) s = .next (fails 4) ∧
      exec (.atsCompletion k .ok frame false false) s = .next (fails 0) ∧
      (canRead = true ∨ canWrite = true → exec (.atsCompletion k .ok frame canRead canWrite) s = .next (s.onMu fun m => { m with
        ats := m.ats.eraseIdx k, tlb := m.tlb ++ [⟨q.path, q.ctx, q.base, q.leaf.cut canRead canWrite, some frame,
          s.keyOf (leafKey q.leaf.word)⟩] })) ∧
      exec (.atsTimeout k) s = .next (if q.since + 2 ^ 20 ≤ s.sys.cycle.toNat then fails 0xFF else s)) ∧
    (∀ first count, ∃ t, exec (.atsInvalidation first count) s = .next t ∧ t.core = s.core ∧ ∀ e, e ∈ t.pk.mu.tlb ↔
      e ∈ s.pk.mu.tlb ∧ ¬(leafAper e.leaf.word = 5 ∧ leafFrame e.leaf.word < first + count ∧ first < leafFrame e.leaf.word + e.leaf.size / 65536)) ∧
    (∀ pa : BitVec 52,
      let b := pa.toNat / 64 * 64
      (inHbm pa.toNat || inLpddr pa.toNat) = true →
        (s.sys.fq.length < 16 → ∃ t r, exec (.eccCorrected (.memory pa)) s = .next t ∧ t.sys.fq = s.sys.fq ++ [r] ∧ r.cause = 0x34 ∧ r.eng = 7 ∧
          r.cls = .asynchronous ∧ t.pk = s.pk ∧ ∀ x, (t.strand x).run = (s.strand x).run ∧ (t.strand x).pc = (s.strand x).pc ∧
            (t.strand x).s = (s.strand x).s) ∧
        ∃ t, exec (.uncorrectableError pa) s = .next t ∧ b ∈ t.pk.mu.poison ∧ (∀ c, c ∈ t.pk.mu.poison ↔ c = b ∨ c ∈ s.pk.mu.poison) ∧
          t.pk.mu.mem = s.pk.mu.mem ∧ t.core = s.core) ∧
    (∀ z elem, s.sys.fq.length < 16 → ∃ t r, exec (.eccCorrected (.accumulator z elem)) s = .next t ∧ t.sys.fq = s.sys.fq ++ [r] ∧
      r.cause = 0x34 ∧ r.strand = .M ∧ r.eng = 3 ∧ t.pk = s.pk ∧ t.core.mat = s.core.mat ∧ ∀ x, (t.strand x).run = (s.strand x).run) ∧
    (∀ z elem, ∃ t r, exec (.eccUncorrected z elem) s = .next t ∧ r ∈ t.sys.fq ++ t.sys.fqWait ∧ r.cause = 0x33 ∧ r.strand = .M ∧ r.eng = 3 ∧
      r.detail = elem.setWidth 64 ∧ (s.core.m.run = .running → t.core.m.run = .faulted) ∧ t.core.mat = s.core.mat) ∧
    (∀ (die : BitVec 2) k w, s.pk.mu.inflight[k]? = some w →
      let now (i : Nat) : Nat := s.pk.mu.clocks.getD (4 * die.toNat + i) 0
      let may : Prop := die.toNat ∈ w.waiting ∧ ∀ i, i < 4 → if i = w.die then now i + 1 = w.clock.getD i 0 else w.clock.getD i 0 ≤ now i
      (¬may → exec (.causalApply die k) s = .next s) ∧
      (may → ∃ t, exec (.causalApply die k) s = .next t ∧ t.core = s.core ∧ t.pk.mu.scratch = s.pk.mu.scratch ∧
        t.pk.mu.mem = w.bytes.foldl (fun m b => cellSet m (dieBase die.toNat + b.1) b.2) s.pk.mu.mem ∧
        t.pk.mu.clocks = s.pk.mu.clocks.set (4 * die.toNat + w.die) (w.clock.getD w.die 0) ∧
        ∀ v ∈ t.pk.mu.inflight, v.die = w.die → v.clock = w.clock → die.toNat ∉ v.waiting)) ∧
    (∀ k vpn r v, s.pk.mu.drains[k]? = some vpn →
      (s.sealOf (vpn * 65536) = none → exec (.demandDrainComplete k) s = .next s) ∧
      (s.sealOf (vpn * 65536) = some (r, [vpn * 65536]) → rwRem (r.rw.setWidth 64) = false →
        s.copyPage none (vpn * 65536) (r.shard + BitVec.ofNat 64 (vpn * 65536 - r.page)) (r.rw.setWidth 64) (fun _ _ u => .wait u) = .done v →
        v.memoriesWf → ∃ t, exec (.demandDrainComplete k) s = .next t ∧
          (∀ q ∈ t.pk.mu.seals, q.1 / 64 = v.sys.ctx.toNat → vpn * 65536 ∉ q.2.undrained) ∧
          (∀ pa e l, v.walk (vpn * 65536) = .ok (pa, e, l) → (∀ q ∈ v.core.side, q.ovf = none) →
            t.walk (vpn * 65536) = .ok (pa, e &&& ~~~0x400000, l)))) ∧
    (∀ tag, standsAt s tag 11 →
      let c := s.chain tag
      let e := s.entryOf c
      let w (i : Nat) : BitVec 64 := e.extractLsb' (64 * i) 64
      let va := w 1 + c.offset true
      let dst := w 2 + c.offset false
      let begun : Chain := { c with held := some e, begun := true, scope := if c.scope < (w 3).extractLsb' 26 3 then (w 3).extractLsb' 26 3 else c.scope }
      (w 3).getLsbD 18 = false → c.units = 0 → ∀ pa l lv, s.walk va.toNat = .ok (pa, l, lv) →
          (leafSeal l = false → ∀ v, (s.putChain tag begun).passPage tag va.toNat dst (w 3) = .done v →
            exec (.chainSealdrain tag) s = .next (v.putChain tag { v.chain tag with units := 1 })) ∧
          (leafSeal l = false → (s.copyAt va.toNat dst (w 3)).isSome = true →
            exec (.chainSealdrain tag) s = .next (s.putChain tag { begun with units := 1 })) ∧
          (leafSeal l = true → ∀ v, (s.putChain tag begun).copyPage (some tag) va.toNat dst (w 3) (fun _ _ u => .wait u) = .done v →
            ∃ t, exec (.chainSealdrain tag) s = .next t ∧ t.chain tag = { v.chain tag with units := 1 } ∧
              ∀ q ∈ t.pk.mu.seals, q.1 / 64 = v.sys.ctx.toNat → va.toNat ∉ q.2.undrained)) ∧
    (∀ v : BitVec 64, s.core.mat.zsnaps = [] →
      let zf : BitVec 8 := v.extractLsb' 8 8
      (∃ t, exec (.mcarryWrite v) s = .next t ∧ t.core.mat.zc = v.extractLsb' 0 8 ∧ t.core.mat.zfree = zf ∧ t.core.mat.bstat = s.core.mat.bstat ∧
        t.core.mat.queue = s.core.mat.queue ∧ t.pk = s.pk ∧ ∀ x, t.strand x = s.strand x) ∧
      ((∀ z, z < 8 → zf.getLsbD z = true → s.core.mat.zfree.getLsbD z = true) →
        exec (.mcarryWrite v) s = .next (s.onMat fun m => { m with zc := v.extractLsb' 0 8, zfree := zf }))) ∧
    exec .drawGrant s = .next (s.onMat fun m =>
      if m.pendUnits ≤ m.pendCeil ∨ m.pendUnits ≤ m.ceil then
        (match m.pendMore with
         | [] => { m with held := m.held + m.pendUnits, pendUnits := 0 }
         | (u, c, ceil) :: rest =>
           { m with held := m.held + m.pendUnits, pendUnits := u, pendCoord := c, pendCeil := ceil, pendMore := rest })
      else m) ∧
    (∀ c, exec (.ceilChange c) s = .next (s.onMat fun m => { m with ceil := c, held := if m.held ≤ c then m.held else c }))

/-! ## Swage, planes and slices (R12, R395 to R405) -/

/-- R405, R395: at S, PLANESW sets or clears SHELD, or empties the shadow plane and returns its entry, and gives k.plane; SWGSTAT gives the slots in use, the
counters and PEND, a word of a record, a hit count, or the slot that last acted for a strand, and refuses an operand of more bits with
OPERAND_RANGE 0x74. -/
def Obligations.PlaneAndSwageItemResults : Prop :=
  ∀ (s : State) (a d : BitVec 6) (ready : Bool), s.issues .K → s.sys.levelS = true → (ready = true ↔ successorReady s) →
    let bad (i : Instr) : Prop := exec i s = .next (s.raises .K 0x03 0 0)
    let A := (s.reg .K a).toNat
    let gives (i : Instr) (v : BitVec 64) : Prop := exec i s = .next ((s.putReg .K d v).after .K 2)
    let tooBig (i : Instr) : Prop := exec i s = .next (s.raises .K 0x0E 0x74 0)
    let slot : SwageSlot := at16 s.pk.swage (BitVec.ofNat 4 A)
    (32 ≤ d → bad (.planeswRel d) ∧ bad (.planeswDrop d) ∧ bad (.planeswHold d) ∧ bad (.swgstat d) ∧ bad (.swgstatRec d a) ∧
      bad (.swgstatHit d a) ∧ bad (.swgstatLast d a)) ∧
    (32 ≤ a → bad (.swgstatRec d a) ∧ bad (.swgstatHit d a) ∧ bad (.swgstatLast d a)) ∧
    (d < 32 →
      exec (.planeswRel d) s = .next (((s.onSys fun y => { y with sheld := false }).putReg .K d (planeWord s ready false)).after .K 2) ∧
      exec (.planeswHold d) s = .next (((s.onSys fun y => { y with sheld := true }).putReg .K d (planeWord s ready true)).after .K 2) ∧
      (s.shadow.entry = none → exec (.planeswDrop d) s =
        .next (((s.onSys fun y => { y with sheld := false }).putReg .K d (planeWord s ready false)).after .K 2)) ∧
      (∀ n, s.shadow.entry = some n → ∃ t : State, exec (.planeswDrop d) s = .next ((t.putReg .K d (planeWord s false false)).after .K 2) ∧
        t.core = { s.core with sys := { s.core.sys with sheld := false } } ∧ t.shadow = Plane.empty ∧ t.plane = s.plane ∧
        kGet SlotEntry.zero t.pk.slots n.toNat = { kGet SlotEntry.zero s.pk.slots n.toNat with state := .returned, det := 0 }) ∧
      (∃ v : BitVec 64, gives (.swgstat d) v ∧ (∀ n, n < 16 → v.getLsbD n = (at16 s.pk.swage (BitVec.ofNat 4 n)).record.getLsbD 0) ∧
        v.extractLsb' 16 8 = s.pk.vendorArb ∧ v.extractLsb' 24 8 = s.pk.operatorArb ∧ (v.getLsbD 32 = true ↔ s.pk.patches ≠ []) ∧
        v.extractLsb' 33 31 = 0)) ∧
    (d < 32 → a < 32 →
      (64 ≤ A → tooBig (.swgstatRec d a)) ∧ (16 ≤ A → tooBig (.swgstatHit d a)) ∧ (4 ≤ A → tooBig (.swgstatLast d a)) ∧
      (A < 64 → gives (.swgstatRec d a) (slot.record.extractLsb' (64 * (A / 16)) 64)) ∧
      (A < 16 → gives (.swgstatHit d a) (slot.hits.setWidth 64)) ∧
      (∀ y, strandNum y = A → gives (.swgstatLast d a) (BitVec.ofNat 64 ((s.strand y).last.slot.toNat +
        (if (s.strand y).last.valid then 16 else 0) + (s.strand y).last.act.toNat * 32))))

/-- R397 to R404, R12, R13, R108, R402, R403: the dispatcher takes the POSTED entry of least SEQ, rejects it with the code of R399 or begins to load it; a
load completes; an entry that is done with is freed; the swap token flips the planes when the core is idle and the successor is ready, and every
strand stands at its entry with the record's coordinate base and its window; a change of context scrubs the core first, once no engine works
any more, and a request that is not yet accepted holds the swap, too: both are the model's readings (log 24); a saved slice that is to have the
core comes before a successor (R403). A saved context
leaves an image, whose header names it and holds its digest, and an idle core without its state, but for what the next task of the same context
finds where such a task is bound to the core (R401, log 22); a record that names a saved context restores
it with the objects of the image's table, or is rejected, the core unchanged, where the image may not be (log 22). A remap entry changes at once
(a 65th table has no room: log 25); a slice at the end of its quantum is asked to yield within 4,096 cycles, and
the next one resumes at the positions of its image. -/
def Obligations.PlaneScheduleSteps : Prop :=
  ∀ (s : State),
    let slotOf (t : State) (n : Nat) : SlotEntry := kGet SlotEntry.zero t.pk.slots n
    ((∀ p ∈ s.pk.slots, ¬mayTake s p.2) → exec .dispatchTakeEntry s = .next s) ∧
    (∀ n e, (n, e) ∈ s.pk.slots → mayTake s e → (∀ p ∈ s.pk.slots, p ≠ (n, e) → mayTake s p.2 → e.seq < p.2.seq) →
      let b := readBind (s.bindBytes e)
      (s.bindFault (s.bindBytes e) = 0 → ∃ t, exec .dispatchTakeEntry s = .next t ∧ (slotOf t n).state = .loading ∧ t.shadow.bind = b ∧
        t.shadow.entry = some (BitVec.ofNat 8 n) ∧ t.shadow.loaded = false ∧ t.plane = s.plane ∧ t.core = s.core ∧ t.pk.mu = s.pk.mu) ∧
      (∀ c, c ≠ 0 → s.bindFault (s.bindBytes e) = c → ∃ t, exec .dispatchTakeEntry s = .next t ∧ (slotOf t n).state = .rejected ∧
        (slotOf t n).det = c ∧ t.pk.mu = s.pk.mu ∧ (∀ x, (t.strand x).run = (s.strand x).run) ∧
        ((s.bindPlace b).valid = false ∨ s.pk.ending = 4 → ∃ r, t.sys.hDue = s.sys.hDue ++ [r] ∧ r.cause = 0x3A ∧
          r.detail = BitVec.ofNat 64 (c.toNat + n % 256 * 256)))) ∧
    (∀ n o, s.shadow.entry = some n → s.objectOf s.shadow.bind.obj = some o →
      (s.shadow.loaded = true → exec .planeLoadComplete s = .next s) ∧
      (s.shadow.loaded = false → ∃ t, exec .planeLoadComplete s = .next t ∧ (slotOf t n.toNat).state = .loaded ∧
        t.shadow = { s.shadow with object := s.resolve o, named := s.namedBy o, loaded := true } ∧ t.plane = s.plane ∧ t.core = s.core)) ∧
    (∀ n, n < 256 →
      ((slotOf s n).state = .done ∨ (slotOf s n).state = .rejected ∨ (slotOf s n).state = .returned →
        ∃ t, exec (.slotEntryFree n false) s = .next t ∧ slotOf t n = { slotOf s n with state := .free, det := 0 } ∧ t.core = s.core) ∧
      ((slotOf s n).state = .free → ∃ t, exec (.slotEntryFree n true) s = .next t ∧
        slotOf t n = { slotOf s n with state := .posted, det := 0 } ∧ t.core = s.core)) ∧
    (s.pk.ending ≠ 4 ∨ s.shadow.loaded = false ∨ s.sys.sheld = true ∨ s.core.qu.st = .pending ∨ s.core.qu.requests ≠ [] ∨ s.sys.stoppedByH = true ∨
        s.sliceWaits = true → exec .swapTokenFlip s = .next s) ∧
    (s.pk.ending = 4 → s.sys.sheld = false → s.core.qu.st ≠ .pending → s.core.qu.requests = [] → s.sys.stoppedByH = false → s.sliceWaits = false →
      successorReady s → s.imageFor s.shadow.bind = none →
      let change : Prop := s.pk.lastCtx ≠ some s.shadow.bind.ctx
      let b := s.shadow.bind
      let o := s.shadow.object
      (change → s.engineWork = true → exec .swapTokenFlip s = .next s) ∧
      ((change → s.engineWork = false) → ∃ t, exec .swapTokenFlip s = .next t ∧ t.sys.planeAct = !s.sys.planeAct ∧ t.plane = s.shadow ∧
        t.shadow = Plane.empty ∧ t.pk.ending = 0 ∧ t.pk.lastCtx = some b.ctx ∧ t.sys.ctx = b.ctx ∧ t.sys.lcore = b.lcore ∧
        t.sys.nest = b.nest ∧ t.sys.qlvl = b.qlvl ∧ t.sys.budget = b.budget ∧ t.sys.tvec = o.tvec ∧ t.sys.levelS = false ∧ t.sys.fq = [] ∧
        t.core.qu.hk = 0 ∧ t.core.slag = [] ∧ t.pk.mu.touchmark = 0 ∧ t.core.areg = o.window.a ∧ t.core.vec.vmask = o.window.vmask ∧
        (∀ n, s.shadow.entry = some n → (slotOf t n.toNat).state = .running) ∧
        (s.pk.patches = [] → t.pk.swage = s.pk.swage) ∧ t.pk.patches = [] ∧
        (∀ x, (t.strand x).run = .running ∧ (t.strand x).pc = o.entry.toList.getD (strandNum x) 0 ∧ (t.strand x).hdr = (t.strand x).pc ∧
          (t.strand x).calls = [] ∧ (t.strand x).coord = b.cbase.cutAfter (b.nest.toNat - 1) ∧ (t.strand x).phase = 0 ∧
          (t.strand x).flags = o.window.flags.toList.getD (strandNum x) 0 &&& 0x1F3F ∧
          (t.strand x).s = (match x with | .K => o.window.sK | .A => o.window.sA | .V => o.window.sV | .M => o.window.sM) ∧
          ∃ i, (t.strand x).images = [i] ∧ i.entry = true ∧ i.coord = (t.strand x).coord) ∧
        (change → t.core.tags = [] ∧ t.core.mat.acc = [] ∧ t.core.mat.cells = [] ∧ t.core.mat.bstat = Resident.none))) ∧
    (∀ i, s.pk.ending = 4 → s.sys.sheld = false → s.core.qu.st ≠ .pending → s.core.qu.requests = [] → s.sys.stoppedByH = false → s.sliceWaits = false →
      s.shadow.loaded = true → s.imageFor s.shadow.bind = some i →
      (s.engineWork = true → s.mayRestore i = true → exec .swapTokenFlip s = .next s) ∧
      (∀ o named, s.engineWork = false → s.mayRestore i = true → s.imageObjectsOf i = some (o :: named) →
        ∃ t, exec .swapTokenFlip s = .next t ∧ isRestored s t i o ∧ t.plane.named = named ∧ t.pk.patches = [] ∧ ∀ n, s.shadow.entry = some n → (slotOf t n.toNat).state = .running) ∧
      (s.mayRestore i = false → ∃ t, exec .swapTokenFlip s = .next t ∧ t.core = s.core ∧ t.pk.mu = s.pk.mu ∧ t.pk.ending = 4 ∧ t.shadow = Plane.empty ∧
        (i.ctx, i.lcore) ∈ t.pk.refused ∧ t.pk.images = s.pk.images ∧
        ∀ n, s.shadow.entry = some n → (slotOf t n.toNat).state = .rejected ∧ (slotOf t n.toNat).det = 0x04)) ∧
    (s.sys.fdone = false ∨ s.pk.ending = 4 → exec .contextImageWrite s = .next s) ∧
    (s.sys.fdone = true → s.pk.ending ≠ 4 → ∃ t, exec .contextImageWrite s = .next t ∧ t.pk.ending = 4 ∧ (∀ x, (t.strand x).run = .noTask) ∧
      t.core.areg = Bank.zero ∧ t.core.mat.queue = [] ∧ t.plane = Plane.empty ∧ t.pk.mu.touchmark = 0 ∧
      t.core.qu.hk = 0 ∧ t.sys.nest = System.reset.nest ∧ t.sys.epcPc = 0 ∧ t.sys.estatFl = 0 ∧ t.sys.budget = 0 ∧ t.sys.mroot = 0 ∧
      (s.sys.budgetDone = false → s.pk.mu.inflight = [] →
        (s.contextStays = false → t.core.tags = [] ∧ t.core.mat.acc = []) ∧
        (s.contextStays = true → t.core.tags = s.core.tags ∧ t.core.mat.acc = s.core.mat.acc)) ∧
      (∀ n, s.plane.entry = some n → (slotOf t n.toNat).state = .done) ∧
      ∃ i ∈ t.pk.images, i.ctx = s.sys.ctx ∧ i.lcore = s.sys.lcore ∧
        (∀ x, s.atS x = false → i.core.strand x = { s.strand x with images := [], hook := none }) ∧
        (s.sys.levelS = true → i.core.k.pc = s.sys.epcPc ∧ i.core.k.hdr = s.sys.epcHdr ∧ i.core.k.remain = s.sys.epcRemain ∧
          i.core.k.flags = s.sys.estatFl &&& 0x1F3F) ∧
        i.header.extractLsb' 0 32 = 0x43524B49 ∧ i.header.extractLsb' 32 16 = 1 ∧ i.header.extractLsb' 64 32 = s.sys.ctx ∧
        i.header.extractLsb' 192 8 = s.sys.lcore ∧ i.header.extractLsb' 448 64 = { i with header := 0 }.digest ∧
        i.core.areg = s.core.areg ∧ i.core.sys = s.core.sys.saved ∧ i.core.tags = s.core.tags ∧ i.core.streams = s.core.streams ∧
        i.core.mat.acc = s.core.mat.acc ∧ i.obj = s.plane.bind.obj ∧ i.touchmark = s.pk.mu.touchmark) ∧
    (∀ ctx lcore pcore slice nsm1 quant valid, s.sys.hearth = [] →
      (s.remapRoom ctx = false → exec (.hearthRemapRewrite ctx lcore pcore slice nsm1 quant valid) s = .next s) ∧
      (s.remapRoom ctx = true → exec (.hearthRemapRewrite ctx lcore pcore slice nsm1 quant valid) s = .next (s.onPk fun k => { k with
        remap := kSet k.remap (ctx.toNat * 256 + lcore.toNat) ⟨valid, pcore, slice.setWidth 3, nsm1.setWidth 3, quant⟩ }))) ∧
    (let e := s.remapOf s.sys.lcore.toNat
     (e.valid = false ∨ e.nsm1 = 0 ∨ s.sys.stoppedByH = true → exec .sliceQuantumExpiry s = .next s) ∧
     (e.valid = true → e.nsm1 ≠ 0 → s.sys.stoppedByH = false →
       (s.pk.ending ≠ 4 → s.pk.sliceDue = false → s.sys.yreq = false → e.quant.toNat * 256 ≤ s.pk.sliceRun →
         exec .sliceQuantumExpiry s = .next ((s.onPk fun k => { k with sliceDue := true }).onSys fun y => { y with
           yreq := true, yact := true, deadline := some 4096 })) ∧
       (s.pk.ending ≠ 4 → s.pk.sliceDue = true → s.sys.fdone = false → s.sys.yact = true → exec .sliceQuantumExpiry s = .next s) ∧
       (∀ i, s.pk.ending = 4 → s.nextSlice = some i → s.engineWork = false → s.core.qu.st ≠ .pending → s.core.qu.requests = [] →
         (∀ o named, s.imageObjectsOf i = some (o :: named) → s.mayRestore i = true →
           ∃ t, exec .sliceQuantumExpiry s = .next t ∧ isRestored s t i o ∧ t.pk.patches = []) ∧
         (s.mayRestore i = false → ∃ t, exec .sliceQuantumExpiry s = .next t ∧ t.core = s.core ∧ t.pk.images = s.pk.images ∧
           (i.ctx, i.lcore) ∈ t.pk.refused))))

/-! ## Hearth, the host and the links (R391 to R393, R406 to R423) -/

/-- R419, R420, R391 to R393, R408, R411, R416, R418, R421: the mailboxes serve one command at a time. A failed boot answers the physical
function alone, with 0xE0 and its step, an opcode that is not defined gets 0xF1, and a function that may not ask, or names what is not its own, 0xF0. A patch
image is refused with its code and changes nothing, or raises its signer's fuse counter and waits for the next swap; a context is created
or destroyed, a virtual function's in the partition it is bound to, on that partition's cores, with no key id that Hearth has not given it, and
with a context goes what the package holds for it; a bind record is read from host memory, written to device memory and posted in the lowest FREE
entry; a report holds the nonce that host memory gives, the log and the counters; a configuration takes
effect, but for a partition that would share a channel with a strict one, or a core or a frame with any (log 26), or a core lent to its own partition. The code of a success is presumed 0, and codes that the manual does not give are open (log 7). 0xF0 for another function's context, the key ids of a
virtual function's context, and where a payload that the manual does not lay out comes from, are presumed (log 26). -/
def Obligations.MailboxResults : Prop :=
  ∀ (s : State) (c : MailCommand) (rest : List MailCommand), s.pk.mail = c :: rest →
    let answer (code : BitVec 8) : State := s.onPk fun k => { k with
      mail := rest
      mailboxes := kSet k.mailboxes (mailboxOf c.vf) { s.mailbox c.vf with
        seq := c.seq, result := code, step := if k.bootFailed then BitVec.ofNat 8 k.bootStep else 0 } }
    (∀ i, i = Instr.mbLoadPatchImage ∨ i = .mbContext ∨ i = .mbPostBindRecord ∨ i = .mbAttestation ∨ i = .mbConfigure →
      (s.pk.bootFailed = true → (c.vf = none → exec i s = .next (answer 0xE0)) ∧ ((∀ m ∈ s.pk.mail, m.vf ≠ none) → exec i s = .next s)) ∧
      (s.pk.bootFailed = false → s.pk.bootStep < 5 → exec i s = .next s) ∧
      (s.pk.bootFailed = false → 5 ≤ s.pk.bootStep → c.opcode = 0 ∨ 5 < c.opcode → exec i s = .next (answer 0xF1))) ∧
    (s.pk.bootFailed = false → 5 ≤ s.pk.bootStep →
      (c.opcode = 1 → (c.vf ≠ none → exec .mbLoadPatchImage s = .next (answer 0xF0)) ∧
        let i := PatchImage.read (s.mailBytes c)
        c.vf = none →
          (s.patchFault i ≠ 0 → exec .mbLoadPatchImage s = .next (answer (s.patchFault i))) ∧
          (i.magic ≠ 0x45474157534E4146 → s.patchFault i = 0x01) ∧
          (s.patchFault i = 0 → ∃ t, exec .mbLoadPatchImage s = .next t ∧ answered t c rest 0 ∧ t.core = s.core ∧ t.pk.mu = s.pk.mu ∧
            t.pk.swage = s.pk.swage ∧ t.pk.accepted = s.pk.accepted ++ [i] ∧
            (i.signer = 0 → t.pk.fuseVendor.toNat = max s.pk.fuseVendor.toNat (i.arb.setWidth 8 : BitVec 8).toNat ∧
              t.pk.fuseOperator = s.pk.fuseOperator) ∧
            (i.signer = 1 → t.pk.fuseOperator.toNat = max s.pk.fuseOperator.toNat (i.arb.setWidth 8 : BitVec 8).toNat ∧
              t.pk.fuseVendor = s.pk.fuseVendor) ∧
            (i.flags.getLsbD 0 = true ∨ (i.coresel.getLsbD s.pk.pcore.toNat = true ∧ i.partmask.getLsbD s.pk.ownPartition.toNat = true) →
              ∃ p ∈ t.pk.patches, p.operator = (i.signer == 1) ∧ p.arb = i.arb.setWidth 8))) ∧
      (c.opcode = 2 →
        (∀ i domains remap, c.payload = .create i domains remap →
          ((∃ o ∈ s.pk.contexts, o.id = i.id ∧ o.vf ≠ c.vf) → exec .mbContext s = .next (answer 0xF0)) ∧
          let fits : Prop := s.remapRoom i.id = true ∧ ∀ v, c.vf = some v → s.boundTo v = some i.partition ∧
            ∀ r ∈ remap, r.2.valid = true → (s.coresOf i.partition).getLsbD r.2.pcore.toNat = true
          ((∀ o ∈ s.pk.contexts, o.id = i.id → o.vf = c.vf) → ¬fits →
            ∃ t, exec .mbContext s = .next t ∧ t.pk.mail = rest ∧ t.pk.contexts = s.pk.contexts ∧ t.pk.remap = s.pk.remap) ∧
          ((∀ o ∈ s.pk.contexts, o.id = i.id → o.vf = c.vf) → fits → ∃ t kids, exec .mbContext s = .next t ∧ answered t c rest 0 ∧
            (c.vf = none → kids = i.kids) ∧
            (∀ n, n < 128 → c.vf ≠ none → kids.getLsbD n = true →
              i.kids.getLsbD n = true ∧ ∃ o ∈ s.pk.contexts, o.id = i.id ∧ o.vf = c.vf ∧ o.kids.getLsbD n = true) ∧
            (∀ o, o ∈ t.pk.contexts ↔ (o ∈ s.pk.contexts ∧ o.id ≠ i.id) ∨ o = { i with vf := c.vf, kids := kids }) ∧
            (∀ l e, remap = [(l, e)] → kGet RemapEntry.zero t.pk.remap (i.id.toNat * 256 + l.toNat) = e) ∧ t.pk.mu = s.pk.mu)) ∧
        (∀ ctx, c.payload = .destroy ctx →
          ((∀ o ∈ s.pk.contexts, o.id = ctx → o.vf ≠ c.vf) → exec .mbContext s = .next (answer 0xF0)) ∧
          ((∃ o ∈ s.pk.contexts, o.id = ctx ∧ o.vf = c.vf) → ∃ t, exec .mbContext s = .next t ∧ answered t c rest 0 ∧
            (∀ o, o ∈ t.pk.contexts ↔ o ∈ s.pk.contexts ∧ o.id ≠ ctx) ∧ (∀ d ∈ t.pk.domains, d.ctx ≠ ctx) ∧
            (∀ e ∈ t.pk.mu.tlb, e.ctx ≠ ctx) ∧ (∀ j ∈ t.pk.images, j.ctx ≠ ctx) ∧ (∀ p ∈ t.pk.parcels, p.1 / 65536 ≠ ctx.toNat) ∧
            (∀ r ∈ t.pk.mu.seals, r.1 / 64 ≠ ctx.toNat) ∧ (∀ x ∈ t.pk.inboxes, x.1 / 256 ≠ ctx.toNat) ∧ t.pk.lastCtx ≠ some ctx ∧
            ∀ r ∈ t.pk.remap, r.1 / 256 ≠ ctx.toNat))) ∧
      (c.opcode = 3 → ∀ pa seq, c.payload = .bind pa seq →
        let e : SlotEntry := ⟨.posted, 0, seq, pa.extractLsb' 10 42⟩
        let bs := s.mailPayload c 1024
        let written := s.writeHome clsCP (List.zip ((List.range 1024).map fun i => Loc.here (pa.toNat / 1024 * 1024 + i)) bs)
        let mine : Prop := ∃ o ∈ s.pk.contexts, o.id = (readBind bs).ctx ∧ o.vf = c.vf
        (¬mine → exec .mbPostBindRecord s = .next (answer 0xF0)) ∧
        (∀ n, mine → n < 256 → (kGet SlotEntry.zero s.pk.slots n).state = .free →
          (∀ m, m < n → (kGet SlotEntry.zero s.pk.slots m).state ≠ .free) →
          exec .mbPostBindRecord s = .next ((written.onPk fun k => { k with slots := kSet k.slots n e }).onPk fun k => { k with
            mail := rest, mailboxes := kSet k.mailboxes (mailboxOf c.vf) { s.mailbox c.vf with seq := c.seq, result := 0, step := 0 } }))) ∧
      (c.opcode = 4 → ∃ t r, exec .mbAttestation s = .next t ∧ answered t c rest 0 ∧ t.core = s.core ∧
        t.pk.report = some r ∧ r.nonce = BitVec.ofNat 256 (leNat (s.mailPayload c 32)) ∧ r.pkg = s.pk.pkg ∧ r.log = s.pk.log ∧ r.vendorArb = s.pk.fuseVendor ∧
        r.operatorArb = s.pk.fuseOperator ∧ r.firmwareArb = s.pk.fuseFirmware ∧ (c.vf = none → r.partitions = s.pk.partitions) ∧
        (∀ v, c.vf = some v → ∀ p ∈ r.partitions, s.boundTo v = some p.id)) ∧
      (c.opcode = 5 →
        (c.vf ≠ none → exec .mbConfigure s = .next (answer 0xF0)) ∧
        (c.vf = none → ∀ i, c.payload = .configure i →
          let busy (p : Partition) : Prop := s.pk.ending ≠ 4 ∧
            (p.id = s.pk.ownPartition ∨ (p.guaranteed ||| p.margin).getLsbD s.pk.pcore.toNat = true)
          let apart (p : Partition) : Prop := s.areaClash p = false ∧ p.guaranteed &&& p.margin = 0 ∧
            (∀ q ∈ s.pk.partitions, q.id = p.id → ∀ l ∈ q.lent, p.margin.getLsbD l.1.toNat = true) ∧
            ∀ q ∈ s.pk.partitions, q.id ≠ p.id → (p.strict = true ∨ q.strict = true → p.channels &&& q.channels = 0) ∧
              (p.guaranteed ||| p.margin) &&& (q.guaranteed ||| q.margin) = 0 ∧
              ∀ a ∈ p.frames, ∀ b ∈ q.frames, ¬(a.1 < b.1 + b.2 ∧ b.1 < a.1 + a.2)
          (∀ p, i = .partition p → busy p → exec .mbConfigure s = .next s) ∧
          (∀ p, i = .partition p → ¬busy p → ¬apart p →
            ∃ t, exec .mbConfigure s = .next t ∧ t.pk.mail = rest ∧ t.pk.partitions = s.pk.partitions) ∧
          (∀ p, i = .partition p → ¬busy p → apart p → ∃ t, exec .mbConfigure s = .next t ∧
            answered t c rest 0 ∧ (∀ q, q ∈ t.pk.partitions ↔ (q ∈ s.pk.partitions ∧ q.id ≠ p.id) ∨
              q = { p with lent := ((s.pk.partitions.find? (·.id == p.id)).map (·.lent)).getD [] }) ∧ t.pk.mu.tlb = []) ∧
          (∀ v p, i = .bindVf v p → (∀ o ∈ s.pk.contexts, o.vf = some v → o.partition = p) → ∃ t, exec .mbConfigure s = .next t ∧
            answered t c rest 0 ∧ t.pk.vfs = kSet s.pk.vfs v.toNat p ∧ t.pk.partitions = s.pk.partitions) ∧
          (∀ n k, i = .keySlot n k → ∃ t, exec .mbConfigure s = .next t ∧ answered t c rest 0 ∧
            ∀ m, m < 128 → t.pk.mu.keys.getLsbD m = (if m = n.toNat then k.isSome else s.pk.mu.keys.getLsbD m) ∧
              t.keyOf m = if m = n.toNat then k else s.keyOf m) ∧
          (∀ d, i = .domain d → ∃ t, exec .mbConfigure s = .next t ∧ t.pk.mail = rest ∧ t.pk.domains = s.pk.domains) ∧
          (∀ k, i = .fabricKey k → ∃ t, exec .mbConfigure s = .next t ∧ answered t c rest 0 ∧
            ∀ j, j ∈ t.pk.kids ↔ (j ∈ s.pk.kids ∧ j.kid ≠ k.kid) ∨ j = k) ∧
          (∀ n, i = .timeout n → ∃ t, exec .mbConfigure s = .next t ∧ answered t c rest 0 ∧ t.pk.ftmo = n ∧ t.core = s.core) ∧
          (∀ core b, i = .lend core b → s.lendable core = true → (∀ p ∈ s.pk.partitions, p.margin.getLsbD core.toNat = true → p.id ≠ b) →
            core ≠ s.pk.pcore → ∃ t, exec .mbConfigure s = .next t ∧
            answered t c rest 0 ∧ t.core = s.core ∧
            ∀ p ∈ t.pk.partitions, p.margin.getLsbD core.toNat = true → (core, b) ∈ p.lent))))

/-- R407, R408, R409, R413, R418, R420, R423: a reset puts the core and the package to their reset values and boots to step 5, or stops at the step
that fails: whose flash cannot be read, or one of whose images fails its check, a fused counter never falling. What a reset keeps, and that a step without an
image passes, are the model's readings (log 27). A change of circuits waits for entries with REM = 1 in progress; then the group is the new one, one of level 6 keeps what is left of it, and a domain of level 5 or 7 exists only while the group holds its packages; a group that leaves this bay out or names bay 1,023 is not taken (log 27). A lent core is revoked: REVOKED and a rollback first; then the scrub, after which its scratchpad and registers read zero; work
that does not come to its cut in 32,768 cycles is abandoned. The teardown of a function bumps the generations of its keys and revokes its core,
or has that wait where another revocation is under way; which core it acts on, and what the end of a revocation waits for, are readings (log 25). A flit takes its
tenant's own share, then the pool; one that leaves frees a slot, and a replay empties the replay buffer (log 27). DOORBELL submits a command unless its function is BUSY (R419). At 95 °C CEIL is zero, and at 105 °C Hearth receives MACHINE_CHECK. -/
def Obligations.HostSteps : Prop :=
  ∀ (s : State), (∀ r, bestSlot s.pk.swage (·.hooks r) = none) →
    (∀ fail ceil,
      let k := s.pk
      let fresh : State := { State.reset with pk := { Package.reset with
        pcore := k.pcore, fuseVendor := k.fuseVendor, fuseOperator := k.fuseOperator, operatorKey := k.operatorKey, stepping := k.stepping } }
      let images (n : Nat) : List Firmware := k.firmware.filter (·.step == n)
      let passes (n : Nat) : Prop := n ≠ fail ∧ (n = 4 → (fresh.bootFlash k.flash).2 = true) ∧
        ∀ f ∈ images n, Config.falconVerifies 2 (shake256 f.bytes) f.signature = true ∧ k.fuseFirmware.toNat ≤ f.arb.toNat
      ∃ t, exec (.packageReset fail ceil) s = .next t ∧ t.pk.pcore = k.pcore ∧ t.pk.pkg = k.pkg ∧ t.pk.flash = k.flash ∧
      t.pk.firmware = k.firmware ∧ t.pk.group = k.group ∧ t.pk.sendSeq = k.sendSeq ∧ t.pk.fuseFirmware = k.fuseFirmware ∧
      k.fuseVendor.toNat ≤ t.pk.fuseVendor.toNat ∧ k.fuseOperator.toNat ≤ t.pk.fuseOperator.toNat ∧
      (k.flash = [] → t.pk.fuseVendor = k.fuseVendor ∧ t.pk.fuseOperator = k.fuseOperator) ∧
      (∀ x, t.strand x = Strand.reset) ∧ t.sys = System.reset ∧
      t.core.areg = Bank.zero ∧ t.core.side = [] ∧ t.pk.mu.mem = [] ∧ t.pk.mu.scratch = [] ∧ t.pk.slots = [] ∧
      ((∀ n, 1 ≤ n → n ≤ 5 → passes n) → t.pk.bootStep = 5 ∧ t.pk.bootFailed = false ∧ t.core.mat.ceil = ceil ∧ t.pk.mu.keys = 0 ∧
        t.pk.log = [1, 2, 3, 4, 5].map fun n => shake256 (if n = 4 then k.flash.flatten else (images n).flatMap (·.bytes))) ∧
      ∀ n, 1 ≤ n → n ≤ 5 → (∀ m, 1 ≤ m → m < n → passes m) → ¬passes n →
        t.pk.bootStep = n ∧ t.pk.bootFailed = true ∧ t.pk.log.length = n - 1) ∧
    (s.pk.revoke = none → s.loan = none → exec .revokeLentCore s = .next s) ∧
    (s.pk.revoke = none → s.loan ≠ none → ∃ t, exec .revokeLentCore s = .next t ∧ t.pk.revoke = some (s.sys.cycle.toNat, none) ∧
      t.shadow.entry = none ∧ (s.pk.ending ≠ 4 → t.sys.forced = some .rollback ∧ (∃ r ∈ t.sys.fq ++ t.sys.fqWait, r.cause = 0x3C) ∧
        ∃ q ∈ t.core.qu.requests, q.rollback = true ∧ q.level = s.sys.qlvl ∧ q.coord = Coord.ofKey s.regionG)) ∧
    (∀ since vf, s.pk.revoke = some (since, vf) →
      let back : Prop := s.pk.ending = 4 ∨ (s.sys.forced = some .rollback ∧ s.core.qu.st ≠ .pending ∧ ∀ r ∈ s.core.qu.requests, r.rollback = false)
      (¬back → exec .revokeLentCore s = .next s) ∧
      (back → (∀ e ∈ s.core.side, e.state = .faulted) → s.pk.teardowns = [] → ∃ t, exec .revokeLentCore s = .next t ∧ t.pk.revoke = none ∧ t.pk.ending = 4 ∧
        (∀ x, t.strand x = Strand.reset) ∧ t.core.areg = Bank.zero ∧ t.core.tags = [] ∧ t.core.vec = VectorState.reset ∧ t.core.mat.acc = [] ∧
        t.core.side = [] ∧ t.sys.fq = [] ∧ (∀ o, o < 2 ^ 22 → t.scratchByte s.pk.pcore.toNat o = 0) ∧
        (∀ p ∈ t.pk.partitions, ∀ l ∈ p.lent, l.1 ≠ s.pk.pcore) ∧
        (∀ p l, s.loan = some (p, l) → t.pk.ownPartition = p)) ∧
      (back ∨ s.sys.cycle.toNat < since + 32768 → exec .revokeCutTimeout s = .next s) ∧
      (¬back → since + 32768 ≤ s.sys.cycle.toNat → ∃ t, exec .revokeCutTimeout s = .next t ∧ (∀ x, (t.strand x).run = .noTask) ∧
        t.core.mat.queue = [] ∧ t.core.rowq = [] ∧ t.core.chainq = [] ∧ (∀ e ∈ t.core.side, e.state = .pend ∨ e.state = .sealWait) ∧
        ∀ n, (t.chain n).state ≠ .held ∧ (t.chain n).state ≠ .queued ∧ (t.chain n).state ≠ .run)) ∧
    (∀ vf, vf < 64 →
      let held (k : KeyId) : Bool := s.pk.contexts.any fun c => c.vf == some (BitVec.ofNat 6 vf) && c.kids.getLsbD k.kid.toNat
      ∃ t, exec (.vfTeardown vf) s = .next t ∧
        (s.pk.revoke = none → s.coreServes (s.pk.contexts.filter (·.vf == some (BitVec.ofNat 6 vf))) = true →
          t.pk.revoke = some (s.sys.cycle.toNat, some (BitVec.ofNat 6 vf))) ∧
        (s.pk.revoke ≠ none → s.coreServes (s.pk.contexts.filter (·.vf == some (BitVec.ofNat 6 vf))) = true →
          BitVec.ofNat 6 vf ∈ t.pk.teardowns) ∧ t.pk.kids = s.pk.kids.map (fun k => if held k then { k with gen := k.gen + 1 } else k) ∧
        ∀ u ∈ s.pk.unanswered, (∃ c ∈ s.pk.contexts, c.vf = some (BitVec.ofNat 6 vf) ∧ c.kids.getLsbD u.kid.toNat = true) →
          (u.kid.toNat, u.seq) ∈ t.pk.reservations) ∧
    (∀ kid, exec (.allowanceReclaim kid) s = .next (s.onPk fun k => { k with
      allowances := k.allowances.filter fun a => a.1 != kid, reservations := k.reservations.filter fun r => r.1 != kid })) ∧
    (∀ bays, bayOf s.pk.pkg.toNat ∉ bays ∨ (∃ b ∈ bays, 1023 ≤ b) → exec (.circuitReconfigure bays) s = .next s) ∧
    (∀ bays, bayOf s.pk.pkg.toNat ∈ bays → (∀ b ∈ bays, b < 1023) → s.remoteQuiet = true →
      ∃ t, exec (.circuitReconfigure bays) s = .next t ∧
        t.pk = { s.pk with group := bays, switching := none, domains := s.pk.domains.map (·.rebuilt bays) } ∧
        (s.pk.ending ≠ 4 → ∀ x l, l < 8 → ((t.strand x).member.getLsbD l = true ↔ l < 2 ∨ ∃ d ∈ s.pk.domains, d.ctx = s.sys.ctx ∧
          d.level.toNat = l ∧ d.members.getLsbD s.sys.lcore.toNat = true ∧ (l < 5 ∨ l = 6 ∨ ∀ p ∈ d.packages, bayOf p ∈ bays)))) ∧
    (∀ bays, bayOf s.pk.pkg.toNat ∈ bays → (∀ b ∈ bays, b < 1023) → s.remoteQuiet = false →
      exec (.circuitReconfigure bays) s = .next (s.onPk fun k => { k with switching := some bays })) ∧
    (∀ vf v w, (s.mailBusy vf = true → s.input (.mailbox vf 0 v w) = s) ∧
      (s.mailBusy vf = false → (s.input (.mailbox vf 0 v w)).pk.mail = s.pk.mail ++ [⟨vf, v.setWidth 16, (s.mailbox vf).cmd.setWidth 8,
        (s.mailbox vf).cmd.extractLsb' 8 56, (s.mailbox vf).addr, (s.mailbox vf).len, w⟩])) ∧
    (∀ port tenant p pre t post, s.pk.ports[port]? = some p → p.tenants = pre ++ t :: post → t.id = tenant →
      (∀ u ∈ pre ++ post, u.id ≠ tenant) →
      let put (t' : Tenant) (replay : Nat) : State → State := fun s => s.onPk fun k => { k with
        ports := k.ports.set port { p with tenants := pre ++ t' :: post, replay := replay } }
      let used := p.tenants.foldl (fun n u => n + u.shared) 0
      let shares := p.tenants.foldl (fun n u => n + u.share) 0
      (t.own < t.share → exec (.linkFlitReceive port tenant) s = .next (put { t with own := t.own + 1 } p.replay s)) ∧
      (t.share ≤ t.own → used < 4096 - shares →
        exec (.linkFlitReceive port tenant) s = .next (put { t with shared := t.shared + 1 } p.replay s)) ∧
      (t.share ≤ t.own → 4096 - shares ≤ used → exec (.linkFlitReceive port tenant) s = .next s) ∧
      (t.own + t.shared ≠ 0 → ∃ t', t'.own + t'.shared + 1 = t.own + t.shared ∧ t'.own ≤ t.own ∧ t'.shared ≤ t.shared ∧ t'.id = t.id ∧
        t'.share = t.share ∧ exec (.flitForward port tenant) s = .next (put t' (min 1024 (p.replay + 1)) { s with freeCtr := s.freeCtr + 1 })) ∧
      exec (.linkReplay port) s = .next (s.onPk fun k => { k with ports := k.ports.set port { p with replay := 0 } })) ∧
    (∀ die : BitVec 2, exec (.thermal95c die) s = .next (if die.toNat = s.die then s.onMat fun m => { m with ceil := 0 } else s)) ∧
    (∃ t r, exec .thermal105c s = .next t ∧ t.pk.hot = true ∧ t.sys.hDue = s.sys.hDue ++ [r] ∧ r.cause = 0x3F ∧ t.sys.stoppedByH = true ∧
      ∀ x, t.strand x = s.strand x)

/-! ## Exceptions and their delivery (R73, R74, R77, R99 to R102, R118, R119, R131) -/

/-- R99 to R102, R104, R118, R131: a precise cause that no hook claims. On A, V and M the strand stops at its item, or after it for the causes that resume
there, and its record is queued; K at T enters S, and where the plane has no handler Hearth receives MACHINE_CHECK 0x0B; K at S, and the
causes of H, reach Hearth and stop the core, a HYPERCALL of K at S standing at its next item (R144). A cause at S interrupts K at a boundary; Hearth takes its records; POP removes the head record,
with RESUME its strand, but K, runs on at the record's position unless its cause resumes nothing, and comes to a DSYNC elsewhere afresh, and without it a FAULTED store is dropped; Hearth resumes or abandons, and what it would resume of a cause that resumes nothing rolls back, or is
abandoned at S (log 25, DESIGN CHOICE). -/
def Obligations.ExceptionResults : Prop :=
  ∀ (s : State), (∀ r, bestSlot s.pk.swage (·.hooks r) = none) →
    (∀ (x : StrandId) (c : BitVec 6) (d a : BitVec 64), c ≠ 0x19 → c ≠ 0x1E → c ≠ 0x34 → c ≠ 0x3A →
      let t := s.raises x c d a
      let skip := if c = 0x09 ∨ c = 0x0A ∨ c = 0x3E then s.itemLen x else 0
      let pc := (s.strand x).pc + BitVec.ofNat 16 skip
      let r : FaultRecord := ⟨c, c, .precise, x, itemCompact (s.itemOf x), (s.strand x).lockstep, false, 0, 0, itemBits (s.itemOf x), pc,
        (s.strand x).hdr, (s.strand x).remain, (s.strand x).coord, a, d, s.sys.cycle, .strand⟩
      (c ≠ 0x3B → c ≠ 0x3E → c ≠ 0x3F →
        (x ≠ .K → s.sys.fq.length < 16 → t.sys.fq = s.sys.fq ++ [r] ∧ (t.strand x).pc = pc ∧
          ((s.strand x).run = .running → (t.strand x).run = .faulted ∧ (t.strand x).wait = none ∧ (t.strand x).dsync = none) ∧ (∀ y, y ≠ x → t.strand y = s.strand y) ∧
          (s.sys.levelS = false → t.sys.sDue = true) ∧ (s.sys.levelS = true → t.sys.pend = true)) ∧
        (x = .K → s.sys.levelS = false → (∀ q ∈ s.sys.fq, q.own = false) → t.sys.fq = s.sys.fq ++ [r] ∧
          (handlerStands s → entersS s t pc) ∧
          (¬handlerStands s → t.sys.levelS = false ∧ t.sys.stoppedByH = true ∧ ∃ q, t.sys.hDue = s.sys.hDue ++ [q] ∧ q.cause = 0x3F ∧
            q.detail = 0x0B))) ∧
      (x = .K → s.sys.levelS = true → c ≠ 0x3E → t.sys.stoppedByH = true ∧ t.sys.levelS = true ∧ t.sys.fq = s.sys.fq ∧
        ∃ q, t.sys.hDue = s.sys.hDue ++ [q] ∧ q.cause = 0x3F ∧ q.detail = c.setWidth 64 ∧ q.lvl = true) ∧
      (x = .K → s.sys.levelS = true → c = 0x3E → t.sys.stoppedByH = true ∧ t.sys.levelS = true ∧ t.sys.fq = s.sys.fq ∧ t.core.k.pc = pc ∧
        ∃ q, t.sys.hDue = s.sys.hDue ++ [q] ∧ q.cause = 0x3E ∧ q.detail = d ∧ q.addr = a ∧ q.pc = pc) ∧
      (c = 0x3B ∨ c = 0x3E → x ≠ .K ∨ s.sys.levelS = false → t.sys.stoppedByH = true ∧ t.sys.fq = s.sys.fq ∧
        ∃ q, t.sys.hDue = s.sys.hDue ++ [q] ∧ q.cause = c ∧ q.detail = d ∧ q.addr = a ∧ q.strand = x ∧ q.pc = pc)) ∧
    (s.sys.sDue = false ∨ s.sys.levelS = true ∨ s.sys.stoppedByH = true → exec .enterS s = .next s) ∧
    (s.sys.sDue = true → s.sys.levelS = false → s.sys.stoppedByH = false → s.core.k.amo = none → s.core.k.lockstep = false → s.core.k.synced ≠ some s.core.k.pc →
      ∃ t, exec .enterS s = .next t ∧ t.sys.fq = s.sys.fq ∧ t.sys.sDue = false ∧ t.pk = s.pk ∧ (∀ y, y ≠ .K → t.strand y = s.strand y) ∧
        (handlerStands s → entersS s t s.core.k.pc) ∧
        (¬handlerStands s → t.sys.levelS = false ∧ ∃ q, t.sys.hDue = s.sys.hDue ++ [q] ∧ q.cause = 0x3F ∧ q.detail = 0x0B)) ∧
    (s.core.k.synced = some s.core.k.pc → s.core.k.lockstep = false → s.sys.rerun = false → s.mayIssue .K = true → exec .enterS s = .next s) ∧
    exec .hearthDelivery s = .next (s.onSys fun y => { y with hearth := y.hearth ++ y.hDue, hDue := [] }) ∧
    (s.sys.fq = [] → exec .fqPop s = .next s ∧ exec .fqPopResume s = .next s) ∧
    (∀ r rest, s.sys.fq = r :: rest → s.sys.fqWait = [] → s.core.qu.resumeDue = false →
      let popped : State := s.onSys fun y => { y with fq := rest }
      ((∀ id, r.resume ≠ .sideEntry id) → exec .fqPop s = .next popped) ∧
      (∀ id, r.resume = .sideEntry id → (∃ e ∈ s.core.side, e.id = id ∧ e.state = .faulted) →
        ∃ t, exec .fqPop s = .next t ∧ t.sys.fq = rest ∧ ∀ e ∈ t.core.side, e.id ≠ id) ∧
      (r.raised ∈ [(0x23 : BitVec 6), 0x32, 0x33, 0x3C, 0x3F] ∨ (r.strand = .K ∧ r.resume = .strand) → exec .fqPopResume s = .next popped) ∧
      (∀ id, r.resume = .sideEntry id → r.raised ∉ [(0x23 : BitVec 6), 0x32, 0x33, 0x3C, 0x3F] → ∃ t, exec .fqPopResume s = .next t ∧ t.sys.fq = rest ∧
        t.core.side.length = s.core.side.length ∧ ∀ e ∈ t.core.side, e.id = id → e.state ≠ .faulted) ∧
      (r.resume = .strand → r.raised ∉ [(0x23 : BitVec 6), 0x32, 0x33, 0x3C, 0x3F] → r.strand ≠ .K → r.stops = true → (s.strand r.strand).run = .faulted →
        (∀ q ∈ rest, q.strand = r.strand → q.stops = false) →
        exec .fqPopResume s = .next (popped.onStrand r.strand fun t => { t with
          run := .running, pc := r.pc, hdr := r.hdr, remain := r.remain
          synced := if t.synced = some r.pc ∧ t.pc = r.pc ∧ t.hdr = r.hdr ∧ t.remain = r.remain then t.synced else none }))) ∧
    (∀ (x : StrandId) (w : BitVec 32) (compact : Bool), s.issues x →
      let i : Item := if compact then .compact (w.setWidth 16) else .wide w
      let legal := if compact then compactStrands (w.setWidth 16) else majorStrands w
      (s.decodeSlot x i ≠ none → exec (.reservedSpaceItem w compact) s = .next s ∧ exec (.illegalEncodingItem w compact) s = .next s) ∧
      (s.decodeSlot x i = none → exec (.reservedSpaceItem w compact) s = .next (s.raises x 0x02 0 0) ∧
        exec (.illegalEncodingItem w compact) s = .next (s.raises x
          (if x ∉ legal then 0x03 else if compact = false ∧ w.extractLsb' 26 5 = 0x1B ∧ s.sys.levelS = false then 0x06 else 0x01) 0 0))) ∧
    (∀ resume, s.sys.hearth = [] ∨ s.pk.hot = true → exec (.hearthResumeOrAbandon resume) s = .next s) ∧
    (s.sys.hearth ≠ [] → s.pk.hot = false → ∃ t, exec (.hearthResumeOrAbandon false) s = .next t ∧ t.sys.hearth = [] ∧
      t.sys.stoppedByH = false ∧ ∀ x, (t.strand x).run = .noTask) ∧
    (∀ r, s.sys.hearth = [r] → s.sys.hDue = [] → s.pk.hot = false → r.resume = .strand → r.stops = true → resumesNever r.raised = false → s.sys.fq ++ s.sys.fqWait = [] →
      ∃ t, exec (.hearthResumeOrAbandon true) s = .next t ∧ t.sys.hearth = [] ∧ t.sys.stoppedByH = false ∧
        ((s.strand r.strand).run = .faulted → (t.strand r.strand).run = .running ∧ (t.strand r.strand).pc = r.pc) ∧
        ((s.strand r.strand).run ≠ .faulted → t.strand r.strand = s.strand r.strand)) ∧
    ((∃ r ∈ s.sys.hearth, r.raised ∈ [(0x32 : BitVec 6), 0x33, 0x3C, 0x3F]) → s.pk.hot = false →
      (s.sys.levelS = true → ∃ t, exec (.hearthResumeOrAbandon true) s = .next t ∧ t.sys.hearth = [] ∧ ∀ x, (t.strand x).run = .noTask) ∧
      (s.sys.levelS = false → s.pk.ending ≠ 4 → ∃ t, exec (.hearthResumeOrAbandon true) s = .next t ∧ t.sys.hearth = [] ∧
        t.sys.forced = some .rollback ∧ t.sys.sheld = true ∧ ∃ q ∈ t.core.qu.requests, q.rollback = true ∧ q.own = true))

/-! ## Pre-emption, the end of a task, blocks and lockstep (R11, R62 to R66, R106, R107, R122, R126 to R128, R354) -/

/-- R106, R107, R126 to R128: a yield request begins with its deadline, a deadline of zero applying the forced mode at once; clearing it lets strands go on;
YIELD_REQUEST is delivered when all four have stopped, YIELD_DEADLINE and BUDGET with the forced mode when a count has run out; a forced mode is
done when its cut is, or when its save has settled; pauses end. R106 item 4: neither request nor deadline applies before QRESUME. R122, R354: the end of a task passes through the horizon, the touchmark and
the trailer to the freeing of its entry; a first mismatch runs the task again from its entry images, a second ends it there.
The model's own choices here: that an end at level 1 raises the horizon to the top and with it performs what is held (log 21); and that a cleared
request also cancels the forced mode, and that BUDGET leaves SHELD 0 (log 20, beside R404). -/
def Obligations.PreemptionAndTaskEnd : Prop :=
  ∀ (s : State), (∀ r, bestSlot s.pk.swage (·.hooks r) = none) →
    let y := s.sys
    let due : Prop := y.yact = true ∧ y.deadline = some 0 ∧ s.core.qu.st = .none
    let stage (n : Nat) : State := s.onPk fun k => { k with ending := n }
    let ended (x : StrandId) : Prop := (s.strand x).run = .halted ∨ (s.strand x).run = .pastEnd
    let allEnded : Prop := y.levelS = false ∧ y.sDue = false ∧ y.stoppedByH = false ∧ (ended .K ∨ s.core.k.run = .taskEnd) ∧ ended .A ∧ ended .V ∧ ended .M
    (y.yreq = true → exec .yreqSet s = .next s) ∧
    (y.yreq = false → y.ydl ≠ 0 ∨ s.core.qu.st ≠ .none → exec .yreqSet s = .next (s.onSys fun y => { y with
      yreq := true, yact := true, deadline := some y.ydl.toNat })) ∧
    (y.yreq = false → y.ydl = 0 → s.core.qu.st = .none → ∃ t, exec .yreqSet s = .next t ∧ t.sys.yreq = true ∧ t.sys.yact = false ∧
      systemCause t 0x37 ∧ forcedApplied s t) ∧
    (∃ t, exec .yreqClear s = .next t ∧ t.sys = { y with yreq := false, yact := false, deadline := none, fdone := false, forced := none } ∧
      t.pk = s.pk ∧ ∀ x, t.strand x = { s.strand x with run :=
        if (s.strand x).run = .yielded ∨ ((s.strand x).run = .saved ∧ y.forced = some .save) then .running else (s.strand x).run }) ∧
    (y.yact = true → y.deadline ≠ some 0 → y.levelS = false → s.core.qu.st = .none → s.pk.ending < 4 →
      (∀ x, (s.strand x).run = .yielded ∨ (s.strand x).run = .taskEnd ∨ ended x) →
      ∃ t, exec .yieldRequest s = .next t ∧ systemCause t 0x36 ∧ t.sys.yact = false ∧ t.sys.deadline = none ∧
        ∀ x, (t.strand x).run = (s.strand x).run ∧ (t.strand x).pc = (s.strand x).pc) ∧
    (y.yact = false ∨ y.levelS = true ∨ s.core.qu.st ≠ .none ∨ (∃ x, (s.strand x).run = .running) → exec .yieldRequest s = .next s) ∧
    (¬due → exec .yieldDeadline s = .next s) ∧
    (due → ∃ t, exec .yieldDeadline s = .next t ∧ t.sys.yact = false ∧ t.sys.deadline = none ∧ systemCause t 0x37 ∧ forcedApplied s t) ∧
    (y.budgetDue = false ∨ y.levelS = true ∨ s.core.qu.st = .pending → exec .budget s = .next s) ∧
    (y.budgetDue = true → y.levelS = false → s.core.qu.st ≠ .pending → ∃ t, exec .budget s = .next t ∧ t.sys.budgetDue = false ∧
      systemCause t 0x38 ∧ forcedApplied s t ∧ t.sys.sheld = false) ∧
    (y.fdone = true ∨ y.forced = none → exec .forcedModeDone s = .next s) ∧
    (y.fdone = false → y.forced = some .rollback → s.core.qu.st ≠ .pending → (∀ r ∈ s.core.qu.requests, r.rollback = false) →
      exec .forcedModeDone s = .next (s.onSys fun y => { y with fdone := true })) ∧
    (y.fdone = false → y.forced = some .save → (∀ x, (s.strand x).run ≠ .running ∧ (s.strand x).timed = []) → s.enginesSaved = true →
      s.core.side = [] → s.pk.mu.inflight = [] →
      ∃ t, exec .forcedModeDone s = .next t ∧ t.sys.fdone = true ∧ t.core.slag = [] ∧ t.core.mat.held = 0 ∧ t.core.side = [] ∧
        s.core.qu.hk ≤ t.core.qu.hk ∧ ∀ x, ∀ i ∈ (t.strand x).images, i.entry = true ∧ y.tmrec = true) ∧
    (∃ t, exec .pauseExpiry s = .next t ∧ t.sys = y ∧ t.pk = s.pk ∧ ∀ x, t.strand x = { s.strand x with pause :=
      if (s.strand x).pause ≤ y.cycle.toNat then 0 else (s.strand x).pause }) ∧
    (¬allEnded → exec .taskEnd s = .next s) ∧
    (allEnded →
      (s.pk.ending = 0 → y.qlvl ≤ 1 → ∃ t, exec .taskEnd s = .next t ∧ t.pk.ending = 1 ∧ 2 ^ 192 ≤ t.core.qu.hk ∧
        (∀ e ∈ t.core.side, e.state ≠ .held) ∧ t.core.slag = []) ∧
      (s.pk.ending = 0 → 1 < y.qlvl → exec .taskEnd s = .next (stage 1)) ∧
      (s.pk.ending = 1 → y.qlvl ≤ 1 ∨ ((∀ e ∈ s.core.side, e.state = .held → e.atS = true) ∧ (∀ k ∈ s.opKeys, k < s.core.qu.hk) ∧
          (∀ x, (s.strand x).coord.key < s.core.qu.hk) ∧ (∀ c ∈ s.pk.chains.toList, c.state = .held → c.coord.key < s.core.qu.hk) ∧
          ∀ t ∈ s.core.streams.toList, t.state ≠ .idle → t.lastKey < s.core.qu.hk) →
        exec .taskEnd s = .next (stage 2)) ∧
      (s.pk.ending = 1 → 1 < y.qlvl → (∃ k ∈ s.opKeys, s.core.qu.hk ≤ k) ∨ (∃ x, s.core.qu.hk ≤ (s.strand x).coord.key) → exec .taskEnd s = .next s) ∧
      (s.pk.ending = 2 → y.tmrec = false → exec .taskEnd s = .next (stage 3)) ∧
      (s.pk.ending = 2 → y.tmrec = true → s.core.side ≠ [] → exec .taskEnd s = .next s) ∧
      (s.pk.ending = 2 → y.tmrec = true → s.core.side = [] → s.pk.mu.touchmark = s.pk.mu.tmval → exec .taskEnd s = .next (stage 3)) ∧
      (s.pk.ending = 2 → y.tmrec = true → s.core.side = [] → s.pk.mu.touchmark ≠ s.pk.mu.tmval →
        (y.rerun = true → ∃ t r, exec .taskEnd s = .next t ∧ systemCause t 0x32 ∧ t.pk.ending = 5 ∧ r ∈ t.sys.fq ++ t.sys.fqWait ∧ r.cause = 0x32 ∧ r.detail = 1) ∧
        (y.rerun = false → ∃ t, exec .taskEnd s = .next t ∧ systemCause t 0x32 ∧ t.pk.ending = 0 ∧ t.sys.rerun = true ∧ t.pk.mu.touchmark = 0 ∧
          ∀ x i, (s.strand x).images.find? (·.entry) = some i → (t.strand x).run = .running ∧ (t.strand x).pc = i.pc ∧
            (t.strand x).s = i.s ∧ (t.strand x).coord = i.coord ∧ (t.strand x).flags = i.flags)) ∧
      (s.pk.ending = 3 → s.trailerDone = true → ∃ t, exec .taskEnd s = .next t ∧ t.pk.ending = 4 ∧ t.core.mat.held = 0 ∧ t.sys.sheld = false ∧
        ∀ n, s.plane.entry = some n → (kGet SlotEntry.zero t.pk.slots n.toNat).state = .done) ∧
      (s.pk.ending = 3 → s.trailerDone = false → exec .taskEnd s = .next s))

/-- R62, R64 to R66, R16, R119: a strand at a header enters its block, or passes over it for a count of zero; what is no header, nor the end
of the blocks, is PC_ALIGN, a
malformed header its cause, a register count of more than 32 bits OPERAND_RANGE 0x06, and an S header waits for the other strands. At the end of a
repetition it goes on to the next header, or runs the block again with the coordinate advanced as CD says. At the end of its code it stops,
and K at S is PRIVILEGED. R11: four strands at S headers of one count go on together, and a count of zero passes them all.
The model's own choices here are log 18's: PC_ALIGN's DETAIL is the position; the end of the blocks is told from every other position that is no
header (it alone is past the code); and a K at S joins no meeting. -/
def Obligations.BlockResults : Prop :=
  ∀ (s : State) (x : StrandId), s.cur = x →
    let p := s.strand x
    let code := s.code x
    let h := wordAt code p.hdr.toNat
    let traps (c : BitVec 6) (d : BitVec 64) : State := { s.raisePrecise x c d 0 0 0 with last := .trapped c d 0 }
    let yields (hs : BitVec 32) : Prop := hs.getLsbD 30 = true ∧ s.sys.yreq = true ∧ s.sys.yact = true ∧ s.atS x = false ∧ s.core.qu.st ≠ .pending
    let runs (r : Run) : Prop := (p.run = .running ∧ yields h ∧ r = .yielded) ∨ (¬(p.run = .running ∧ yields h) ∧ r = p.run)
    let others (t : State) : Prop := (∀ y, y ≠ x → t.strand y = s.strand y) ∧ t.sys = s.sys ∧ t.pk = s.pk
    let passed : State := { (s.onStrand x fun t => { t with
      pc := BitVec.ofNat 16 (nextHeader code p.hdr.toNat), hdr := BitVec.ofNat 16 (nextHeader code p.hdr.toNat), remain := 0 }) with last := .jumped }
    (s.mayIssue x = false ∨ p.lockstep = true → exec .blockEntry s = .next s) ∧
    (s.mayIssue x = true → p.lockstep = false → p.pc = p.hdr → s.pastCode x = false →
      (isHeader code p.hdr.toNat = false → exec .blockEntry s = .next (traps 0x0B (p.hdr.setWidth 64))) ∧
      (isHeader code p.hdr.toNat = true →
        (∀ c, headerFault code p.hdr.toNat = some c → exec .blockEntry s = .next (traps c 0)) ∧
        (headerFault code p.hdr.toNat = none →
          (h.getLsbD 31 = true → s.atS x = false →
            exec .blockEntry s = .next { (s.onStrand x fun t => { t with run := .meeting }) with last := .waited }) ∧
          (h.getLsbD 31 = false →
            (s.execCount x h = none → exec .blockEntry s = .next (traps 0x0E 0x06)) ∧
            (s.execCount x h = some 0 → exec .blockEntry s = .next passed) ∧
            (∀ n, s.execCount x h = some n → n ≠ 0 → ∃ t r, exec .blockEntry s = .next t ∧ others t ∧ runs r ∧
              t.strand x = { p with pc := p.hdr + 2, remain := n, run := r }))))) ∧
    (s.mayIssue x = true → p.lockstep = false → p.pc ≠ p.hdr → p.pc.toNat = bodyEnd code p.hdr.toNat →
      isHeader code p.hdr.toNat = true →
      let cd := (h.extractLsb' 4 3).toNat
      (p.remain ≤ 1 → exec .blockEntry s = .next passed) ∧
      (1 < p.remain → cd = 0 → ∃ t r, exec .blockEntry s = .next t ∧ others t ∧ runs r ∧
        t.strand x = { p with pc := p.hdr + 2, remain := p.remain - 1, run := r }) ∧
      (1 < p.remain → cd ≠ 0 →
        (s.atS x = true → exec .blockEntry s = .next (traps 0x22 0)) ∧
        (s.atS x = false → s.sys.nest.toNat < cd → exec .blockEntry s = .next (traps 0x0E 0x03)) ∧
        (s.atS x = false → cd ≤ s.sys.nest.toNat → p.coord.get (cd - 1) = 0xFFFFFFFF →
          exec .blockEntry s = .next (traps 0x22 (BitVec.ofNat 64 (cd - 1)))) ∧
        (s.atS x = false → cd ≤ s.sys.nest.toNat → p.coord.get (cd - 1) ≠ 0xFFFFFFFF →
          let c := p.coord.advance (cd - 1)
          (s.mayChange x c = false → exec .blockEntry s = .next { s with last := .waited }) ∧
          (s.mayChange x c = true → ∃ t, exec .blockEntry s = .next t ∧ (t.strand x).coord = c ∧ (t.strand x).pc = p.hdr + 2 ∧
            (t.strand x).remain = p.remain - 1 ∧ (t.strand x).s = p.s ∧ (t.strand x).flags = p.flags ∧
            (s.core.qu.st = .pending → s.core.qu.cut.key ≤ c.key → (t.strand x).run = .cut) ∧
            (s.core.qu.hk ≤ c.key → ∃ i, (t.strand x).images = p.images ++ [i] ∧ i.coord = c ∧ i.s = p.s ∧ i.pc = p.hdr + 2))))) ∧
    (s.mayIssue x = true → p.lockstep = false → p.pc = p.hdr → isHeader code p.hdr.toNat = false → blocksEnd code p.hdr.toNat = false →
      exec .blockEntry s = .next (traps 0x0B (p.hdr.setWidth 64)) ∧ exec .fetchEndOfCode s = .next s) ∧
    (s.mayIssue x = true → (p.pc = p.hdr ∧ (isHeader code p.hdr.toNat = true ∨ blocksEnd code p.hdr.toNat = true)) ∨ s.atItem x = true →
      s.fetchLimit x ≤ p.pc.toNat →
      exec .fetchEndOfCode s = .next (if s.atS x then traps 0x06 0 else { (s.onStrand x fun t => { t with run := .pastEnd }) with last := .jumped })) ∧
    (s.mayIssue x = true → s.pastCode x = false → exec .fetchEndOfCode s = .next s) ∧
    ((∃ y, (s.strand y).run ≠ .meeting ∨ s.atS y = true) → (∀ y, s.leftMeeting y = false) → exec .lockstepMeet s = .next s) ∧
    (∀ n : BitVec 32, s.sys.levelS = false → (∀ y, (s.strand y).run = .meeting ∧ s.execCount y (wordAt (s.code y) (s.strand y).hdr.toNat) = some n) →
      ∃ t, exec .lockstepMeet s = .next t ∧ t.sys = s.sys ∧ t.pk = s.pk ∧
        (n = 0 → ∀ y, t.strand y = { s.strand y with run := .running, pc := BitVec.ofNat 16 (nextHeader (s.code y) (s.strand y).hdr.toNat),
                                                     hdr := BitVec.ofNat 16 (nextHeader (s.code y) (s.strand y).hdr.toNat), remain := 0 }) ∧
        (n ≠ 0 → ∀ y, (t.strand y).lockstep = true ∧ (t.strand y).pc = (s.strand y).hdr + 2 ∧ (t.strand y).remain = n ∧
          ((t.strand y).run = .running ∨ (t.strand y).run = .yielded))) ∧
    (∀ y, (s.strand y).run = .meeting → s.atS y = false → (∃ z, (s.strand z).run = .halted) →
      ∃ t, exec .lockstepMeet s = .next t ∧ (t.strand y).run ≠ .meeting)

/-! ## Reset, decoding, the step and the invariant -/

/-- R3, R14, R101, R115, R162, R294, R383, R397, R401, R420: right after reset no strand has a task, K is at T, MEMBER bits 0 and 1 read 1, the fault
queue, the logs and the queues are empty, every ring is undefined, every chain and slot-table entry is free, each Swage slot holds its number and
memory lists nothing. That registers with no stated reset value hold zero is the model's choice (log 3), and so is what unlisted memory
reads as (log 4). The invariant of the model holds. -/
def Obligations.ResetState : Prop :=
  let s := State.reset
  (∀ x, (s.strand x).run = .noTask ∧ (s.strand x).member = 3 ∧ (s.strand x).flags = 0 ∧ (s.strand x).coord = Coord.zero ∧
    (s.strand x).calls = [] ∧ (s.strand x).images = [] ∧ ∀ r, s.reg x r = 0) ∧
  s.sys.levelS = false ∧ s.sys.fq = [] ∧ s.sys.lost = 0 ∧ s.sys.yreq = false ∧ s.sys.pend = false ∧ s.core.side = [] ∧ s.core.slag = [] ∧
  s.core.mat.queue = [] ∧ s.core.rowq = [] ∧ s.core.chainq = [] ∧ s.core.tags = [] ∧ s.core.qu.st = .none ∧ s.core.qu.requests = [] ∧
  (∀ n : BitVec 4, (at16 s.core.streams n).state = .idle) ∧ (∀ h, (kGet Ring.zero s.pk.rings h).valid = false) ∧
  (∀ t, (s.chain t).state = .free) ∧ (∀ n, kGet SlotEntry.zero s.pk.slots n = SlotEntry.zero) ∧
  (∀ n : BitVec 4, (at16 s.pk.swage n).field 252 4 = n.toNat ∧ (at16 s.pk.swage n).record.getLsbD 0 = false) ∧
  s.pk.mu.mem = [] ∧ s.pk.mu.scratch = [] ∧ (∀ d pa, s.globalByte d pa = 0) ∧ (∀ p o, s.scratchByte p o = 0) ∧ s.pk.bootStep = 0 ∧ s.Inv

/-- R69 to R76 and the encoding tables of the families: for every instruction that has a word, and every value of its operands that the encoding
admits, decoding the word that `encode` gives returns the instruction, on every strand that reads the word so. No bit of an encoding is
dropped. -/
def Obligations.EncodeThenDecode : Prop :=
  ∀ (i : Instr) (c : StrandId) (w : Item), i.wf = true → i.readBy c = true → encode i = some w → decode c w = .ok i

/-- R137, R138, R218, R253, R344, R378, R379, R395, R405, R73, R74: words that the manual writes out, or that its layouts give bit by bit, are the instructions
they stand for; the majors the manual reserves are refused by name. -/
def Obligations.DecodeWords : Prop :=
  decode .V (.wide 0xB818105A) = .ok (.dot4S 3 1 2) ∧ decode .K (.wide 0xE8400008) = .ok (.qreq 4 1) ∧
  decode .K (.wide 0xE8500031) = .ok (.qstat 5 6) ∧ decode .K (.wide 0xE8000002) = .ok .qwait ∧ decode .K (.wide 0xE8000003) = .ok .qresume ∧
  decode .K (.wide 0xE8000044) = .ok .qarmClr ∧ decode .K (.wide 0xE860000D) = .ok (.qhoriz 6 1) ∧ decode .K (.wide 0xE8000006) = .ok .settle ∧
  decode .K (.wide 0xEC008300) = .ok (.tlbinv 2 3) ∧ decode .K (.wide 0xEC000001) = .ok .tlbinvAll ∧
  decode .K (.wide 0xEC000008) = .ok .tlbsync ∧ decode .K (.wide 0xEC008310) = .ok (.pgdisc 2 3) ∧
  decode .K (.wide 0xEC414018) = .ok (.pgseal 4 5) ∧ decode .K (.wide 0xEC600020) = .ok (.tmread 6) ∧
  decode .K (.wide 0xEC000029) = .ok .tmsetClr ∧ decode .K (.wide 0xEC500030) = .ok (.planeswRel 5) ∧
  decode .K (.wide 0xEC500032) = .ok (.planeswHold 5) ∧ decode .K (.wide 0xEC50803A) = .ok (.swgstatHit 5 2) ∧
  decode .K (.wide 0xEC500038) = .ok (.swgstat 5) ∧ decode .K (.wide (0b1#1 ++ 0#5 ++ 7#6 ++ 8#6 ++ 9#6 ++ 0#8)) = .ok (.add 7 8 9) ∧
  decode .K (.compact (0b0#1 ++ 2#5 ++ 7#5 ++ 8#5)) = .ok (.addC 7 8) ∧
  (∀ d : BitVec 26, decode .K (.wide (0b1#1 ++ 0x1E#5 ++ d)) = .error .reservedSpace) ∧
  decode .K (.wide 0xE8000007) = .error .illegalEncoding

/-- R69, R77, R385: a step runs the decoded instruction. When nothing is due (log 2) and it is the turn of a strand that stands at an item of its
block, the step is `exec` of the instruction that the item decodes to, in the state with the cycles passed and the strand issuing; an item
that the decoder refuses raises the cause of its refusal, and one that a Swage slot claims takes that slot's action. A planned step of an
agent is `exec` of it, and an input from outside is taken in. Where something falls due before the cycles of a planned move have passed, the step lets pass those up to then
(R128, R176), and the move stays planned with the rest. The order of the moves is the model's (log 2). -/
def Obligations.StepRunsInstruction : Prop :=
  ∀ (s : State) (x : StrandId), s.due = none →
    let runs (u : State) : Prop := atOwnItem u x →
      let it := itemAt (u.code x) (u.strand x).pc.toNat
      (u.decodeSlot x it = none →
        (∀ i, decode x it = .ok i → step s = exec i u) ∧
        (decode x it = .error .reservedSpace → step s = exec (.reservedSpaceItem (itemBits it) (itemCompact it)) u) ∧
        (decode x it = .error .illegalEncoding → step s = exec (.illegalEncodingItem (itemBits it) (itemCompact it)) u)) ∧
      (∀ n, u.decodeSlot x it = some n → step s = .next (u.patched n))
    (∀ n rest, s.agenda = ⟨n, .issue x⟩ :: rest → comes { s with agenda := rest } n → runs (turnOf { s with agenda := rest } x n)) ∧
    (s.agenda = [] → s.turn = strandNum x → comes { s with turn := s.turn + 1 } 1 → runs (turnOf { s with turn := s.turn + 1 } x 1)) ∧
    (∀ n i rest, s.agenda = ⟨n, .event i⟩ :: rest → comes { s with agenda := rest } n → step s = exec i ({ s with agenda := rest }.tick n)) ∧
    (∀ n i rest, s.agenda = ⟨n, .input i⟩ :: rest → comes { s with agenda := rest } n →
      step s = .next (({ s with agenda := rest }.tick n).input i)) ∧
    (∀ n a rest, s.agenda = ⟨n, a⟩ :: rest →
      let u : State := { s with agenda := rest }
      let k := u.passes n
      ¬comes u n → step s = .next { u.tick k with agenda := ⟨n - k, a⟩ :: rest })

/-- From every state that meets the invariant of the model, a step that answers a next state keeps it: memories, and those that context images hold, have
the canonical form (log 4), and no fault queue holds more than 16 records beside the one that R101 reserves for K's own faults. -/
def Obligations.StepKeepsInvariant : Prop :=
  ∀ s t : State, s.Inv → step s = .next t → t.Inv
end

