-- ==== Sys2Proof/Laws/Cells.lean ====
section
/-!
SUPPORT. Sparse tables: a cell that has been written reads back, no other cell changes, and every operation keeps the
canonical form.
-/
namespace Sys2Proof.Machine

variable {w : Nat}

/-! ## Reading after writing -/

theorem cellGet_below {c : Cells w} {lo n : Nat} (h : cellsWfFrom lo c = true) (hn : n < lo) : cellGet c n = 0 := by
  induction c generalizing lo with
  | nil => rfl
  | cons kv rest ih =>
    obtain ⟨k, v⟩ := kv
    simp only [cellsWfFrom, Bool.and_eq_true, decide_eq_true_eq] at h
    have : n ≠ k := by omega
    simp only [cellGet, this, if_false]
    exact ih h.2 (by omega)

/-- A cell written in a table of canonical form reads as the value written. -/
theorem cellGet_cellSet {c : Cells w} {lo : Nat} (h : cellsWfFrom lo c = true) (n : Nat) (v : BitVec w) :
    cellGet (cellSet c n v) n = v := by
  induction c generalizing lo with
  | nil => unfold cellSet; split <;> simp_all [cellGet]
  | cons kv rest ih =>
    obtain ⟨k, x⟩ := kv
    simp only [cellsWfFrom, Bool.and_eq_true, decide_eq_true_eq] at h
    unfold cellSet
    split
    · split
      · rename_i hn hv
        subst hv
        simp only [cellGet, show n ≠ k by omega, if_false]
        exact cellGet_below h.2 (by omega)
      · simp [cellGet]
    · split
      · split
        · rename_i hk hv
          subst hv
          exact cellGet_below h.2 (by omega)
        · simp [cellGet]
      · rename_i hk
        simp only [cellGet, hk, if_false]
        exact ih h.2

/-- No other cell changes. -/
theorem cellGet_cellSet_other {c : Cells w} {n m : Nat} (v : BitVec w) (hm : m ≠ n) :
    cellGet (cellSet c n v) m = cellGet c m := by
  induction c with
  | nil => unfold cellSet; split <;> simp_all [cellGet]
  | cons kv rest ih =>
    obtain ⟨k, x⟩ := kv
    unfold cellSet
    split
    · split <;> simp [cellGet, hm]
    · split
      · rename_i hk
        subst hk
        split <;> simp [cellGet, hm]
      · simp only [cellGet, ih]

/-! ## The canonical form -/

theorem cellsWfFrom_mono {c : Cells w} {lo lo' : Nat} (h : cellsWfFrom lo c = true) (hl : lo' ≤ lo) :
    cellsWfFrom lo' c = true := by
  cases c with
  | nil => rfl
  | cons kv rest =>
    simp only [cellsWfFrom, Bool.and_eq_true, decide_eq_true_eq] at h ⊢
    exact ⟨⟨by omega, h.1.2⟩, h.2⟩

theorem cellSet_wfFrom {c : Cells w} {lo n : Nat} (h : cellsWfFrom lo c = true) (hn : lo ≤ n) (v : BitVec w) :
    cellsWfFrom lo (cellSet c n v) = true := by
  induction c generalizing lo with
  | nil => unfold cellSet; split <;> simp_all [cellsWfFrom]
  | cons kv rest ih =>
    obtain ⟨k, x⟩ := kv
    have h0 := h
    simp only [cellsWfFrom, Bool.and_eq_true, decide_eq_true_eq] at h
    unfold cellSet
    split
    · rename_i hk
      split
      · exact h0
      · rename_i hv
        simp only [cellsWfFrom, Bool.and_eq_true, decide_eq_true_eq, bne_iff_ne]
        exact ⟨⟨hn, hv⟩, ⟨by omega, by simpa using h.1.2⟩, h.2⟩
    · split
      · rename_i hk
        subst hk
        split
        · exact cellsWfFrom_mono h.2 (by omega)
        · rename_i hv
          simp only [cellsWfFrom, Bool.and_eq_true, decide_eq_true_eq, bne_iff_ne]
          exact ⟨⟨hn, hv⟩, h.2⟩
      · rename_i h1 h2
        simp only [cellsWfFrom, Bool.and_eq_true, decide_eq_true_eq]
        exact ⟨h.1, ih h.2 (by omega)⟩

/-- Writing one cell keeps the canonical form. -/
theorem cellSet_wf {c : Cells w} (h : cellsWf c = true) (n : Nat) (v : BitVec w) : cellsWf (cellSet c n v) = true :=
  cellSet_wfFrom h (Nat.zero_le _) v

/-- Writing a run of cells keeps the canonical form. -/
theorem cellPut_wf {c : Cells w} (h : cellsWf c = true) (n : Nat) (vs : List (BitVec w)) :
    cellsWf (cellPut c n vs) = true := by
  induction vs generalizing c n with
  | nil => exact h
  | cons v vs ih => exact ih (cellSet_wf h n v) (n + 1)

theorem filter_wfFrom {c : Cells w} {lo : Nat} (p : Nat × BitVec w → Bool) (h : cellsWfFrom lo c = true) :
    cellsWfFrom lo (c.filter p) = true := by
  induction c generalizing lo with
  | nil => rfl
  | cons kv rest ih =>
    obtain ⟨k, x⟩ := kv
    simp only [cellsWfFrom, Bool.and_eq_true, decide_eq_true_eq] at h
    simp only [List.filter]
    split
    · simp only [cellsWfFrom, Bool.and_eq_true, decide_eq_true_eq]
      exact ⟨h.1, ih h.2⟩
    · exact cellsWfFrom_mono (ih h.2) (by omega)

/-- Clearing a run of cells keeps the canonical form. -/
theorem cellClear_wf {c : Cells w} (h : cellsWf c = true) (n len : Nat) : cellsWf (cellClear c n len) = true :=
  filter_wfFrom _ h

theorem slice_wfFrom {c : Cells w} {lo : Nat} (n len : Nat) (h : cellsWfFrom lo c = true) :
    cellsWfFrom (lo - n) (cellSlice c n len) = true := by
  induction c generalizing lo with
  | nil => rfl
  | cons kv rest ih =>
    obtain ⟨k, x⟩ := kv
    simp only [cellsWfFrom, Bool.and_eq_true, decide_eq_true_eq] at h
    have hr := ih h.2
    simp only [cellSlice, List.filterMap_cons]
    split
    · exact cellsWfFrom_mono hr (by omega)
    · rename_i e
      split at e
      · rename_i hk
        cases e
        simp only [cellsWfFrom, Bool.and_eq_true, decide_eq_true_eq]
        exact ⟨⟨by omega, h.1.2⟩, cellsWfFrom_mono hr (by omega)⟩
      · cases e

/-- A slice of a table in canonical form has it. -/
theorem cellSlice_wf {c : Cells w} (h : cellsWf c = true) (n len : Nat) : cellsWf (cellSlice c n len) = true :=
  cellsWfFrom_mono (slice_wfFrom n len h) (Nat.zero_le _)

theorem append_wfFrom {c d : Cells w} {lo mid : Nat} (hc : cellsWfFrom lo c = true) (hd : cellsWfFrom mid d = true)
    (hm : lo ≤ mid) (hb : ∀ kv ∈ c, kv.1 < mid) : cellsWfFrom lo (c ++ d) = true := by
  induction c generalizing lo with
  | nil => exact cellsWfFrom_mono hd hm
  | cons kv rest ih =>
    obtain ⟨k, x⟩ := kv
    simp only [List.cons_append, cellsWfFrom, Bool.and_eq_true, decide_eq_true_eq] at hc ⊢
    have := hb (k, x) List.mem_cons_self
    exact ⟨hc.1, ih hc.2 (by simpa using this) fun kv h => hb kv (List.mem_cons_of_mem _ h)⟩

theorem shift_wfFrom {c : Cells w} {lo : Nat} (n : Nat) (h : cellsWfFrom lo c = true) :
    cellsWfFrom (n + lo) (c.map fun kv => (n + kv.1, kv.2)) = true := by
  induction c generalizing lo with
  | nil => rfl
  | cons kv rest ih =>
    obtain ⟨k, x⟩ := kv
    simp only [List.map_cons, cellsWfFrom, Bool.and_eq_true, decide_eq_true_eq] at h ⊢
    exact ⟨⟨by omega, h.1.2⟩, ih h.2⟩

theorem above_wfFrom {c : Cells w} {lo : Nat} (m : Nat) (h : cellsWfFrom lo c = true) :
    cellsWfFrom m (c.filter fun kv => decide (m ≤ kv.1)) = true := by
  induction c generalizing lo with
  | nil => rfl
  | cons kv rest ih =>
    obtain ⟨k, x⟩ := kv
    simp only [cellsWfFrom, Bool.and_eq_true, decide_eq_true_eq] at h
    by_cases hk : m ≤ k
    · simp only [List.filter_cons, hk, decide_true, if_true, cellsWfFrom, Bool.and_eq_true]
      exact ⟨⟨trivial, h.1.2⟩, filter_wfFrom _ h.2⟩
    · simp only [List.filter_cons, hk, decide_false, Bool.false_eq_true, if_false]
      exact ih h.2

/-- Replacing a run of cells by a table in canonical form keeps it. -/
theorem cellPaste_wf {c d : Cells w} (hc : cellsWf c = true) (hd : cellsWf d = true) (n len : Nat) :
    cellsWf (cellPaste c n len d) = true := by
  unfold cellPaste
  rw [List.append_assoc]
  refine append_wfFrom (mid := n) (filter_wfFrom _ hc) ?_ (Nat.zero_le _) ?_
  · refine append_wfFrom (mid := n + len) ?_ (above_wfFrom _ hc) (by omega) ?_
    · simpa using shift_wfFrom n (filter_wfFrom (fun kv => decide (kv.1 < len)) hd)
    · intro kv h
      simp only [List.mem_map, List.mem_filter, decide_eq_true_eq] at h
      obtain ⟨a, ⟨_, h⟩, rfl⟩ := h
      simpa using h
  · intro kv h
    simpa using (List.mem_filter.mp h).2

theorem cellsOf_wfFrom (n : Nat) (vs : List (BitVec w)) : cellsWfFrom n (cellsOf n vs) = true := by
  induction vs generalizing n with
  | nil => rfl
  | cons v vs ih =>
    simp only [cellsOf]
    split
    · exact cellsWfFrom_mono (ih (n + 1)) (by omega)
    · rename_i hv
      simp only [cellsWfFrom, Bool.and_eq_true, decide_eq_true_eq, bne_iff_ne]
      exact ⟨⟨Nat.le_refl _, hv⟩, ih (n + 1)⟩

/-- The table of a list of values has the canonical form. -/
theorem cellsOf_wf (n : Nat) (vs : List (BitVec w)) : cellsWf (cellsOf n vs) = true :=
  cellsWfFrom_mono (cellsOf_wfFrom n vs) (Nat.zero_le _)

/-! ## Tables by key -/

theorem kGet_kSet {α : Type} (d : α) (l : List (Nat × α)) (n : Nat) (v : α) : kGet d (kSet l n v) n = v := by
  induction l with
  | nil => simp [kSet, kGet]
  | cons kv rest ih =>
    obtain ⟨k, x⟩ := kv
    unfold kSet
    split
    · simp [kGet]
    · split
      · simp [kGet]
      · rename_i hk
        simp only [kGet, hk, if_false, ih]

theorem kGet_kSet_other {α : Type} (d : α) (l : List (Nat × α)) {n m : Nat} (v : α) (h : m ≠ n) :
    kGet d (kSet l n v) m = kGet d l m := by
  induction l with
  | nil => simp [kSet, kGet, h]
  | cons kv rest ih =>
    obtain ⟨k, x⟩ := kv
    unfold kSet
    split
    · simp [kGet, h]
    · split
      · rename_i hk
        subst hk
        simp [kGet, h]
      · simp only [kGet, ih]

end Sys2Proof.Machine
end

