-- ==== Sys2Proof/Laws/State.lean ====
section
/-!
SUPPORT. What each named update of the state changes and what it leaves, one lemma per field, so that no proof unfolds a
record update; and the laws of registers.
-/
namespace Sys2Proof.Machine

@[simp] theorem State.onSys_areg (s : State) (f : System → System) : (s.onSys f).core.areg = s.core.areg := rfl

@[simp] theorem State.onSys_streams (s : State) (f : System → System) : (s.onSys f).core.streams = s.core.streams := rfl

@[simp] theorem State.onSys_tags (s : State) (f : System → System) : (s.onSys f).core.tags = s.core.tags := rfl

@[simp] theorem State.onSys_vec (s : State) (f : System → System) : (s.onSys f).core.vec = s.core.vec := rfl

@[simp] theorem State.onSys_mat (s : State) (f : System → System) : (s.onSys f).core.mat = s.core.mat := rfl

@[simp] theorem State.onSys_rowq (s : State) (f : System → System) : (s.onSys f).core.rowq = s.core.rowq := rfl

@[simp] theorem State.onSys_chainq (s : State) (f : System → System) : (s.onSys f).core.chainq = s.core.chainq := rfl

@[simp] theorem State.onSys_side (s : State) (f : System → System) : (s.onSys f).core.side = s.core.side := rfl

@[simp] theorem State.onSys_nextEntry (s : State) (f : System → System) : (s.onSys f).core.nextEntry = s.core.nextEntry := rfl

@[simp] theorem State.onSys_slag (s : State) (f : System → System) : (s.onSys f).core.slag = s.core.slag := rfl

@[simp] theorem State.onSys_slagNext (s : State) (f : System → System) : (s.onSys f).core.slagNext = s.core.slagNext := rfl

@[simp] theorem State.onSys_qu (s : State) (f : System → System) : (s.onSys f).core.qu = s.core.qu := rfl

@[simp] theorem State.onSys_sys (s : State) (f : System → System) : (s.onSys f).core.sys = f s.core.sys := rfl

@[simp] theorem State.onSys_strand (s : State) (f : System → System) (x : StrandId) : (s.onSys f).strand x = s.strand x := by cases x <;> rfl

@[simp] theorem State.onSys_pk (s : State) (f : System → System) : (s.onSys f).pk = s.pk := rfl

@[simp] theorem State.onSys_agenda (s : State) (f : System → System) : (s.onSys f).agenda = s.agenda := rfl

@[simp] theorem State.onSys_turn (s : State) (f : System → System) : (s.onSys f).turn = s.turn := rfl

@[simp] theorem State.onSys_cur (s : State) (f : System → System) : (s.onSys f).cur = s.cur := rfl

@[simp] theorem State.onSys_freeCtr (s : State) (f : System → System) : (s.onSys f).freeCtr = s.freeCtr := rfl

@[simp] theorem State.onSys_dry (s : State) (f : System → System) : (s.onSys f).dry = s.dry := rfl

@[simp] theorem State.onSys_last (s : State) (f : System → System) : (s.onSys f).last = s.last := rfl

@[simp] theorem State.onQu_areg (s : State) (f : QuenchUnit → QuenchUnit) : (s.onQu f).core.areg = s.core.areg := rfl

@[simp] theorem State.onQu_streams (s : State) (f : QuenchUnit → QuenchUnit) : (s.onQu f).core.streams = s.core.streams := rfl

@[simp] theorem State.onQu_tags (s : State) (f : QuenchUnit → QuenchUnit) : (s.onQu f).core.tags = s.core.tags := rfl

@[simp] theorem State.onQu_vec (s : State) (f : QuenchUnit → QuenchUnit) : (s.onQu f).core.vec = s.core.vec := rfl

@[simp] theorem State.onQu_mat (s : State) (f : QuenchUnit → QuenchUnit) : (s.onQu f).core.mat = s.core.mat := rfl

@[simp] theorem State.onQu_rowq (s : State) (f : QuenchUnit → QuenchUnit) : (s.onQu f).core.rowq = s.core.rowq := rfl

@[simp] theorem State.onQu_chainq (s : State) (f : QuenchUnit → QuenchUnit) : (s.onQu f).core.chainq = s.core.chainq := rfl

@[simp] theorem State.onQu_side (s : State) (f : QuenchUnit → QuenchUnit) : (s.onQu f).core.side = s.core.side := rfl

@[simp] theorem State.onQu_nextEntry (s : State) (f : QuenchUnit → QuenchUnit) : (s.onQu f).core.nextEntry = s.core.nextEntry := rfl

@[simp] theorem State.onQu_slag (s : State) (f : QuenchUnit → QuenchUnit) : (s.onQu f).core.slag = s.core.slag := rfl

@[simp] theorem State.onQu_slagNext (s : State) (f : QuenchUnit → QuenchUnit) : (s.onQu f).core.slagNext = s.core.slagNext := rfl

@[simp] theorem State.onQu_qu (s : State) (f : QuenchUnit → QuenchUnit) : (s.onQu f).core.qu = f s.core.qu := rfl

@[simp] theorem State.onQu_sys (s : State) (f : QuenchUnit → QuenchUnit) : (s.onQu f).core.sys = s.core.sys := rfl

@[simp] theorem State.onQu_strand (s : State) (f : QuenchUnit → QuenchUnit) (x : StrandId) : (s.onQu f).strand x = s.strand x := by cases x <;> rfl

@[simp] theorem State.onQu_pk (s : State) (f : QuenchUnit → QuenchUnit) : (s.onQu f).pk = s.pk := rfl

@[simp] theorem State.onQu_agenda (s : State) (f : QuenchUnit → QuenchUnit) : (s.onQu f).agenda = s.agenda := rfl

@[simp] theorem State.onQu_turn (s : State) (f : QuenchUnit → QuenchUnit) : (s.onQu f).turn = s.turn := rfl

@[simp] theorem State.onQu_cur (s : State) (f : QuenchUnit → QuenchUnit) : (s.onQu f).cur = s.cur := rfl

@[simp] theorem State.onQu_freeCtr (s : State) (f : QuenchUnit → QuenchUnit) : (s.onQu f).freeCtr = s.freeCtr := rfl

@[simp] theorem State.onQu_dry (s : State) (f : QuenchUnit → QuenchUnit) : (s.onQu f).dry = s.dry := rfl

@[simp] theorem State.onQu_last (s : State) (f : QuenchUnit → QuenchUnit) : (s.onQu f).last = s.last := rfl

@[simp] theorem State.onVec_areg (s : State) (f : VectorState → VectorState) : (s.onVec f).core.areg = s.core.areg := rfl

@[simp] theorem State.onVec_streams (s : State) (f : VectorState → VectorState) : (s.onVec f).core.streams = s.core.streams := rfl

@[simp] theorem State.onVec_tags (s : State) (f : VectorState → VectorState) : (s.onVec f).core.tags = s.core.tags := rfl

@[simp] theorem State.onVec_vec (s : State) (f : VectorState → VectorState) : (s.onVec f).core.vec = f s.core.vec := rfl

@[simp] theorem State.onVec_mat (s : State) (f : VectorState → VectorState) : (s.onVec f).core.mat = s.core.mat := rfl

@[simp] theorem State.onVec_rowq (s : State) (f : VectorState → VectorState) : (s.onVec f).core.rowq = s.core.rowq := rfl

@[simp] theorem State.onVec_chainq (s : State) (f : VectorState → VectorState) : (s.onVec f).core.chainq = s.core.chainq := rfl

@[simp] theorem State.onVec_side (s : State) (f : VectorState → VectorState) : (s.onVec f).core.side = s.core.side := rfl

@[simp] theorem State.onVec_nextEntry (s : State) (f : VectorState → VectorState) : (s.onVec f).core.nextEntry = s.core.nextEntry := rfl

@[simp] theorem State.onVec_slag (s : State) (f : VectorState → VectorState) : (s.onVec f).core.slag = s.core.slag := rfl

@[simp] theorem State.onVec_slagNext (s : State) (f : VectorState → VectorState) : (s.onVec f).core.slagNext = s.core.slagNext := rfl

@[simp] theorem State.onVec_qu (s : State) (f : VectorState → VectorState) : (s.onVec f).core.qu = s.core.qu := rfl

@[simp] theorem State.onVec_sys (s : State) (f : VectorState → VectorState) : (s.onVec f).core.sys = s.core.sys := rfl

@[simp] theorem State.onVec_strand (s : State) (f : VectorState → VectorState) (x : StrandId) : (s.onVec f).strand x = s.strand x := by cases x <;> rfl

@[simp] theorem State.onVec_pk (s : State) (f : VectorState → VectorState) : (s.onVec f).pk = s.pk := rfl

@[simp] theorem State.onVec_agenda (s : State) (f : VectorState → VectorState) : (s.onVec f).agenda = s.agenda := rfl

@[simp] theorem State.onVec_turn (s : State) (f : VectorState → VectorState) : (s.onVec f).turn = s.turn := rfl

@[simp] theorem State.onVec_cur (s : State) (f : VectorState → VectorState) : (s.onVec f).cur = s.cur := rfl

@[simp] theorem State.onVec_freeCtr (s : State) (f : VectorState → VectorState) : (s.onVec f).freeCtr = s.freeCtr := rfl

@[simp] theorem State.onVec_dry (s : State) (f : VectorState → VectorState) : (s.onVec f).dry = s.dry := rfl

@[simp] theorem State.onVec_last (s : State) (f : VectorState → VectorState) : (s.onVec f).last = s.last := rfl

@[simp] theorem State.onMat_areg (s : State) (f : MatrixState → MatrixState) : (s.onMat f).core.areg = s.core.areg := rfl

@[simp] theorem State.onMat_streams (s : State) (f : MatrixState → MatrixState) : (s.onMat f).core.streams = s.core.streams := rfl

@[simp] theorem State.onMat_tags (s : State) (f : MatrixState → MatrixState) : (s.onMat f).core.tags = s.core.tags := rfl

@[simp] theorem State.onMat_vec (s : State) (f : MatrixState → MatrixState) : (s.onMat f).core.vec = s.core.vec := rfl

@[simp] theorem State.onMat_mat (s : State) (f : MatrixState → MatrixState) : (s.onMat f).core.mat = f s.core.mat := rfl

@[simp] theorem State.onMat_rowq (s : State) (f : MatrixState → MatrixState) : (s.onMat f).core.rowq = s.core.rowq := rfl

@[simp] theorem State.onMat_chainq (s : State) (f : MatrixState → MatrixState) : (s.onMat f).core.chainq = s.core.chainq := rfl

@[simp] theorem State.onMat_side (s : State) (f : MatrixState → MatrixState) : (s.onMat f).core.side = s.core.side := rfl

@[simp] theorem State.onMat_nextEntry (s : State) (f : MatrixState → MatrixState) : (s.onMat f).core.nextEntry = s.core.nextEntry := rfl

@[simp] theorem State.onMat_slag (s : State) (f : MatrixState → MatrixState) : (s.onMat f).core.slag = s.core.slag := rfl

@[simp] theorem State.onMat_slagNext (s : State) (f : MatrixState → MatrixState) : (s.onMat f).core.slagNext = s.core.slagNext := rfl

@[simp] theorem State.onMat_qu (s : State) (f : MatrixState → MatrixState) : (s.onMat f).core.qu = s.core.qu := rfl

@[simp] theorem State.onMat_sys (s : State) (f : MatrixState → MatrixState) : (s.onMat f).core.sys = s.core.sys := rfl

@[simp] theorem State.onMat_strand (s : State) (f : MatrixState → MatrixState) (x : StrandId) : (s.onMat f).strand x = s.strand x := by cases x <;> rfl

@[simp] theorem State.onMat_pk (s : State) (f : MatrixState → MatrixState) : (s.onMat f).pk = s.pk := rfl

@[simp] theorem State.onMat_agenda (s : State) (f : MatrixState → MatrixState) : (s.onMat f).agenda = s.agenda := rfl

@[simp] theorem State.onMat_turn (s : State) (f : MatrixState → MatrixState) : (s.onMat f).turn = s.turn := rfl

@[simp] theorem State.onMat_cur (s : State) (f : MatrixState → MatrixState) : (s.onMat f).cur = s.cur := rfl

@[simp] theorem State.onMat_freeCtr (s : State) (f : MatrixState → MatrixState) : (s.onMat f).freeCtr = s.freeCtr := rfl

@[simp] theorem State.onMat_dry (s : State) (f : MatrixState → MatrixState) : (s.onMat f).dry = s.dry := rfl

@[simp] theorem State.onMat_last (s : State) (f : MatrixState → MatrixState) : (s.onMat f).last = s.last := rfl

@[simp] theorem State.sys_def (s : State) : s.sys = s.core.sys := rfl

@[simp] theorem State.onPk_pk (s : State) (f : Package → Package) : (s.onPk f).pk = f s.pk := rfl

@[simp] theorem State.onPk_core (s : State) (f : Package → Package) : (s.onPk f).core = s.core := rfl

@[simp] theorem State.onPk_strand (s : State) (f : Package → Package) (x : StrandId) : (s.onPk f).strand x = s.strand x := rfl

@[simp] theorem State.onPk_agenda (s : State) (f : Package → Package) : (s.onPk f).agenda = s.agenda := rfl

@[simp] theorem State.onPk_turn (s : State) (f : Package → Package) : (s.onPk f).turn = s.turn := rfl

@[simp] theorem State.onPk_cur (s : State) (f : Package → Package) : (s.onPk f).cur = s.cur := rfl

@[simp] theorem State.onPk_freeCtr (s : State) (f : Package → Package) : (s.onPk f).freeCtr = s.freeCtr := rfl

@[simp] theorem State.onPk_dry (s : State) (f : Package → Package) : (s.onPk f).dry = s.dry := rfl

@[simp] theorem State.onPk_last (s : State) (f : Package → Package) : (s.onPk f).last = s.last := rfl

@[simp] theorem State.onMu_mu (s : State) (f : MemoryState → MemoryState) : (s.onMu f).pk.mu = f s.pk.mu := rfl

@[simp] theorem State.onMu_core (s : State) (f : MemoryState → MemoryState) : (s.onMu f).core = s.core := rfl

@[simp] theorem State.onMu_strand (s : State) (f : MemoryState → MemoryState) (x : StrandId) : (s.onMu f).strand x = s.strand x := rfl

@[simp] theorem State.onMu_agenda (s : State) (f : MemoryState → MemoryState) : (s.onMu f).agenda = s.agenda := rfl

@[simp] theorem State.onMu_turn (s : State) (f : MemoryState → MemoryState) : (s.onMu f).turn = s.turn := rfl

@[simp] theorem State.onMu_cur (s : State) (f : MemoryState → MemoryState) : (s.onMu f).cur = s.cur := rfl

@[simp] theorem State.onMu_freeCtr (s : State) (f : MemoryState → MemoryState) : (s.onMu f).freeCtr = s.freeCtr := rfl

@[simp] theorem State.onMu_dry (s : State) (f : MemoryState → MemoryState) : (s.onMu f).dry = s.dry := rfl

@[simp] theorem State.onMu_last (s : State) (f : MemoryState → MemoryState) : (s.onMu f).last = s.last := rfl

@[simp] theorem State.onCore_core (s : State) (f : Core → Core) : (s.onCore f).core = f s.core := rfl

@[simp] theorem State.onCore_pk (s : State) (f : Core → Core) : (s.onCore f).pk = s.pk := rfl

@[simp] theorem State.onCore_agenda (s : State) (f : Core → Core) : (s.onCore f).agenda = s.agenda := rfl

@[simp] theorem State.onCore_turn (s : State) (f : Core → Core) : (s.onCore f).turn = s.turn := rfl

@[simp] theorem State.onCore_cur (s : State) (f : Core → Core) : (s.onCore f).cur = s.cur := rfl

@[simp] theorem State.onCore_freeCtr (s : State) (f : Core → Core) : (s.onCore f).freeCtr = s.freeCtr := rfl

@[simp] theorem State.onCore_dry (s : State) (f : Core → Core) : (s.onCore f).dry = s.dry := rfl

@[simp] theorem State.onCore_last (s : State) (f : Core → Core) : (s.onCore f).last = s.last := rfl

@[simp] theorem State.putStrand_areg (s : State) (x : StrandId) (t : Strand) : (s.putStrand x t).core.areg = s.core.areg := by cases x <;> rfl

@[simp] theorem State.onStrand_areg (s : State) (x : StrandId) (f : Strand → Strand) : (s.onStrand x f).core.areg = s.core.areg := by cases x <;> rfl

@[simp] theorem State.putStrand_streams (s : State) (x : StrandId) (t : Strand) : (s.putStrand x t).core.streams = s.core.streams := by cases x <;> rfl

@[simp] theorem State.onStrand_streams (s : State) (x : StrandId) (f : Strand → Strand) : (s.onStrand x f).core.streams = s.core.streams := by cases x <;> rfl

@[simp] theorem State.putStrand_tags (s : State) (x : StrandId) (t : Strand) : (s.putStrand x t).core.tags = s.core.tags := by cases x <;> rfl

@[simp] theorem State.onStrand_tags (s : State) (x : StrandId) (f : Strand → Strand) : (s.onStrand x f).core.tags = s.core.tags := by cases x <;> rfl

@[simp] theorem State.putStrand_vec (s : State) (x : StrandId) (t : Strand) : (s.putStrand x t).core.vec = s.core.vec := by cases x <;> rfl

@[simp] theorem State.onStrand_vec (s : State) (x : StrandId) (f : Strand → Strand) : (s.onStrand x f).core.vec = s.core.vec := by cases x <;> rfl

@[simp] theorem State.putStrand_mat (s : State) (x : StrandId) (t : Strand) : (s.putStrand x t).core.mat = s.core.mat := by cases x <;> rfl

@[simp] theorem State.onStrand_mat (s : State) (x : StrandId) (f : Strand → Strand) : (s.onStrand x f).core.mat = s.core.mat := by cases x <;> rfl

@[simp] theorem State.putStrand_rowq (s : State) (x : StrandId) (t : Strand) : (s.putStrand x t).core.rowq = s.core.rowq := by cases x <;> rfl

@[simp] theorem State.onStrand_rowq (s : State) (x : StrandId) (f : Strand → Strand) : (s.onStrand x f).core.rowq = s.core.rowq := by cases x <;> rfl

@[simp] theorem State.putStrand_chainq (s : State) (x : StrandId) (t : Strand) : (s.putStrand x t).core.chainq = s.core.chainq := by cases x <;> rfl

@[simp] theorem State.onStrand_chainq (s : State) (x : StrandId) (f : Strand → Strand) : (s.onStrand x f).core.chainq = s.core.chainq := by cases x <;> rfl

@[simp] theorem State.putStrand_side (s : State) (x : StrandId) (t : Strand) : (s.putStrand x t).core.side = s.core.side := by cases x <;> rfl

@[simp] theorem State.onStrand_side (s : State) (x : StrandId) (f : Strand → Strand) : (s.onStrand x f).core.side = s.core.side := by cases x <;> rfl

@[simp] theorem State.putStrand_nextEntry (s : State) (x : StrandId) (t : Strand) : (s.putStrand x t).core.nextEntry = s.core.nextEntry := by cases x <;> rfl

@[simp] theorem State.onStrand_nextEntry (s : State) (x : StrandId) (f : Strand → Strand) : (s.onStrand x f).core.nextEntry = s.core.nextEntry := by cases x <;> rfl

@[simp] theorem State.putStrand_slag (s : State) (x : StrandId) (t : Strand) : (s.putStrand x t).core.slag = s.core.slag := by cases x <;> rfl

@[simp] theorem State.onStrand_slag (s : State) (x : StrandId) (f : Strand → Strand) : (s.onStrand x f).core.slag = s.core.slag := by cases x <;> rfl

@[simp] theorem State.putStrand_slagNext (s : State) (x : StrandId) (t : Strand) : (s.putStrand x t).core.slagNext = s.core.slagNext := by cases x <;> rfl

@[simp] theorem State.onStrand_slagNext (s : State) (x : StrandId) (f : Strand → Strand) : (s.onStrand x f).core.slagNext = s.core.slagNext := by cases x <;> rfl

@[simp] theorem State.putStrand_qu (s : State) (x : StrandId) (t : Strand) : (s.putStrand x t).core.qu = s.core.qu := by cases x <;> rfl

@[simp] theorem State.onStrand_qu (s : State) (x : StrandId) (f : Strand → Strand) : (s.onStrand x f).core.qu = s.core.qu := by cases x <;> rfl

@[simp] theorem State.putStrand_sys (s : State) (x : StrandId) (t : Strand) : (s.putStrand x t).core.sys = s.core.sys := by cases x <;> rfl

@[simp] theorem State.onStrand_sys (s : State) (x : StrandId) (f : Strand → Strand) : (s.onStrand x f).core.sys = s.core.sys := by cases x <;> rfl

@[simp] theorem State.putStrand_pk (s : State) (x : StrandId) (t : Strand) : (s.putStrand x t).pk = s.pk := rfl

@[simp] theorem State.onStrand_pk (s : State) (x : StrandId) (f : Strand → Strand) : (s.onStrand x f).pk = s.pk := rfl

@[simp] theorem State.putStrand_agenda (s : State) (x : StrandId) (t : Strand) : (s.putStrand x t).agenda = s.agenda := rfl

@[simp] theorem State.onStrand_agenda (s : State) (x : StrandId) (f : Strand → Strand) : (s.onStrand x f).agenda = s.agenda := rfl

@[simp] theorem State.putStrand_turn (s : State) (x : StrandId) (t : Strand) : (s.putStrand x t).turn = s.turn := rfl

@[simp] theorem State.onStrand_turn (s : State) (x : StrandId) (f : Strand → Strand) : (s.onStrand x f).turn = s.turn := rfl

@[simp] theorem State.putStrand_cur (s : State) (x : StrandId) (t : Strand) : (s.putStrand x t).cur = s.cur := rfl

@[simp] theorem State.onStrand_cur (s : State) (x : StrandId) (f : Strand → Strand) : (s.onStrand x f).cur = s.cur := rfl

@[simp] theorem State.putStrand_freeCtr (s : State) (x : StrandId) (t : Strand) : (s.putStrand x t).freeCtr = s.freeCtr := rfl

@[simp] theorem State.onStrand_freeCtr (s : State) (x : StrandId) (f : Strand → Strand) : (s.onStrand x f).freeCtr = s.freeCtr := rfl

@[simp] theorem State.putStrand_dry (s : State) (x : StrandId) (t : Strand) : (s.putStrand x t).dry = s.dry := rfl

@[simp] theorem State.onStrand_dry (s : State) (x : StrandId) (f : Strand → Strand) : (s.onStrand x f).dry = s.dry := rfl

@[simp] theorem State.putStrand_last (s : State) (x : StrandId) (t : Strand) : (s.putStrand x t).last = s.last := rfl

@[simp] theorem State.onStrand_last (s : State) (x : StrandId) (f : Strand → Strand) : (s.onStrand x f).last = s.last := rfl

@[simp] theorem State.putStrand_strand (s : State) (x : StrandId) (t : Strand) : (s.putStrand x t).strand x = t := by cases x <;> rfl

@[simp] theorem State.onStrand_strand (s : State) (x : StrandId) (f : Strand → Strand) : (s.onStrand x f).strand x = f (s.strand x) := by cases x <;> rfl

theorem State.putStrand_other (s : State) {x y : StrandId} (t : Strand) (h : y ≠ x) : (s.putStrand x t).strand y = s.strand y := by
  cases x <;> cases y <;> first | rfl | exact absurd rfl h

theorem State.onStrand_other (s : State) {x y : StrandId} (f : Strand → Strand) (h : y ≠ x) :
    (s.onStrand x f).strand y = s.strand y := s.putStrand_other _ h

theorem State.onStrand_onStrand (s : State) (x : StrandId) (f g : Strand → Strand) :
    (s.onStrand x f).onStrand x g = s.onStrand x fun t => g (f t) := by cases x <;> rfl

theorem State.onStrand_id (s : State) (x : StrandId) : s.onStrand x id = s := by cases x <;> rfl

/-! ## Registers (R9, R132) -/

theorem Bank.get_put (b : Bank) (n : BitVec 5) (v : BitVec 64) : (b.put n v).get n = v := by
  simp [Bank.get, Bank.put]

theorem Bank.get_put_other (b : Bank) {n m : BitVec 5} (v : BitVec 64) (h : m ≠ n) : (b.put n v).get m = b.get m := by
  have hn : ¬ (n.toFin : Nat) = m.toFin := fun e => h (BitVec.eq_of_toFin_eq (Fin.ext e.symm))
  simp only [Bank.get, Bank.put]
  exact Vector.getElem_set_ne _ _ hn

/-- s0 reads zero. -/
@[simp] theorem State.reg_zero (s : State) (x : StrandId) : s.reg x 0 = 0 := rfl

/-- A write to s0 changes nothing. -/
@[simp] theorem State.putReg_zero (s : State) (x : StrandId) (v : BitVec 64) : s.putReg x 0 v = s := rfl

/-- A register written holds the value. -/
theorem State.reg_putReg (s : State) (x : StrandId) (f : BitVec 6) (v : BitVec 64) (h : f ≠ 0) :
    (s.putReg x f v).reg x f = v := by
  unfold State.reg State.putReg
  by_cases ha : f.getLsbD 5 = true
  · simp only [if_pos ha, Bank.get_put]
  · simp only [if_neg ha, if_neg h, State.onStrand_strand, Bank.get_put]

theorem setWidth_five_ne {f g : BitVec 6} (h : g ≠ f) (hb : g.getLsbD 5 = f.getLsbD 5) :
    g.setWidth 5 ≠ f.setWidth 5 := by
  revert f g; decide

/-- No other register of any strand changes, but that a0 to a31 are the same registers for every strand's field. -/
theorem State.reg_putReg_other (s : State) {x y : StrandId} {f g : BitVec 6} (v : BitVec 64)
    (h : g ≠ f ∨ (y ≠ x ∧ f.getLsbD 5 = false)) : (s.putReg x f v).reg y g = s.reg y g := by
  unfold State.reg State.putReg
  by_cases ha : f.getLsbD 5 = true
  · have hne : g ≠ f := h.elim id fun e => absurd e.2 (by simp only [ha]; decide)
    by_cases hg : g.getLsbD 5 = true
    · simp only [if_pos ha, if_pos hg, Bank.get_put_other _ _ (setWidth_five_ne hne (hg.trans ha.symm))]
    · simp only [if_pos ha, if_neg hg]; cases y <;> rfl
  · simp only [if_neg ha]
    by_cases hf0 : f = 0
    · simp only [if_pos hf0]
    · simp only [if_neg hf0]
      by_cases hg : g.getLsbD 5 = true
      · simp only [if_pos hg, State.onStrand_areg]
      · simp only [if_neg hg]
        by_cases hxy : y = x
        · subst hxy
          have hne : g ≠ f := h.elim id fun e => absurd rfl e.1
          have hb : g.getLsbD 5 = f.getLsbD 5 := by rw [Bool.not_eq_true] at ha hg; rw [ha, hg]
          simp only [State.onStrand_strand, Bank.get_put_other _ _ (setWidth_five_ne hne hb)]
        · simp only [State.onStrand_other _ _ hxy]

@[simp] theorem State.putReg_pk (s : State) (x : StrandId) (f : BitVec 6) (v : BitVec 64) : (s.putReg x f v).pk = s.pk := by
  unfold State.putReg; split <;> [rfl; split <;> simp]

@[simp] theorem State.putReg_streams (s : State) (x : StrandId) (f : BitVec 6) (v : BitVec 64) :
    (s.putReg x f v).core.streams = s.core.streams := by
  unfold State.putReg; split <;> [rfl; split <;> simp]

@[simp] theorem State.putReg_tags (s : State) (x : StrandId) (f : BitVec 6) (v : BitVec 64) :
    (s.putReg x f v).core.tags = s.core.tags := by
  unfold State.putReg; split <;> [rfl; split <;> simp]

@[simp] theorem State.putReg_vec (s : State) (x : StrandId) (f : BitVec 6) (v : BitVec 64) :
    (s.putReg x f v).core.vec = s.core.vec := by
  unfold State.putReg; split <;> [rfl; split <;> simp]

@[simp] theorem State.putReg_mat (s : State) (x : StrandId) (f : BitVec 6) (v : BitVec 64) :
    (s.putReg x f v).core.mat = s.core.mat := by
  unfold State.putReg; split <;> [rfl; split <;> simp]

@[simp] theorem State.putReg_rowq (s : State) (x : StrandId) (f : BitVec 6) (v : BitVec 64) :
    (s.putReg x f v).core.rowq = s.core.rowq := by
  unfold State.putReg; split <;> [rfl; split <;> simp]

@[simp] theorem State.putReg_chainq (s : State) (x : StrandId) (f : BitVec 6) (v : BitVec 64) :
    (s.putReg x f v).core.chainq = s.core.chainq := by
  unfold State.putReg; split <;> [rfl; split <;> simp]

@[simp] theorem State.putReg_side (s : State) (x : StrandId) (f : BitVec 6) (v : BitVec 64) :
    (s.putReg x f v).core.side = s.core.side := by
  unfold State.putReg; split <;> [rfl; split <;> simp]

@[simp] theorem State.putReg_nextEntry (s : State) (x : StrandId) (f : BitVec 6) (v : BitVec 64) :
    (s.putReg x f v).core.nextEntry = s.core.nextEntry := by
  unfold State.putReg; split <;> [rfl; split <;> simp]

@[simp] theorem State.putReg_slag (s : State) (x : StrandId) (f : BitVec 6) (v : BitVec 64) :
    (s.putReg x f v).core.slag = s.core.slag := by
  unfold State.putReg; split <;> [rfl; split <;> simp]

@[simp] theorem State.putReg_slagNext (s : State) (x : StrandId) (f : BitVec 6) (v : BitVec 64) :
    (s.putReg x f v).core.slagNext = s.core.slagNext := by
  unfold State.putReg; split <;> [rfl; split <;> simp]

@[simp] theorem State.putReg_qu (s : State) (x : StrandId) (f : BitVec 6) (v : BitVec 64) :
    (s.putReg x f v).core.qu = s.core.qu := by
  unfold State.putReg; split <;> [rfl; split <;> simp]

@[simp] theorem State.putReg_sys (s : State) (x : StrandId) (f : BitVec 6) (v : BitVec 64) :
    (s.putReg x f v).core.sys = s.core.sys := by
  unfold State.putReg; split <;> [rfl; split <;> simp]

@[simp] theorem State.putReg_agenda (s : State) (x : StrandId) (f : BitVec 6) (v : BitVec 64) :
    (s.putReg x f v).agenda = s.agenda := by
  unfold State.putReg; split <;> [rfl; split <;> simp]

@[simp] theorem State.putReg_turn (s : State) (x : StrandId) (f : BitVec 6) (v : BitVec 64) :
    (s.putReg x f v).turn = s.turn := by
  unfold State.putReg; split <;> [rfl; split <;> simp]

@[simp] theorem State.putReg_cur (s : State) (x : StrandId) (f : BitVec 6) (v : BitVec 64) :
    (s.putReg x f v).cur = s.cur := by
  unfold State.putReg; split <;> [rfl; split <;> simp]

@[simp] theorem State.putReg_freeCtr (s : State) (x : StrandId) (f : BitVec 6) (v : BitVec 64) :
    (s.putReg x f v).freeCtr = s.freeCtr := by
  unfold State.putReg; split <;> [rfl; split <;> simp]

@[simp] theorem State.putReg_dry (s : State) (x : StrandId) (f : BitVec 6) (v : BitVec 64) :
    (s.putReg x f v).dry = s.dry := by
  unfold State.putReg; split <;> [rfl; split <;> simp]

@[simp] theorem State.putReg_last (s : State) (x : StrandId) (f : BitVec 6) (v : BitVec 64) :
    (s.putReg x f v).last = s.last := by
  unfold State.putReg; split <;> [rfl; split <;> simp]

@[simp] theorem State.putReg_pc_of (s : State) (x y : StrandId) (f : BitVec 6) (v : BitVec 64) :
    ((s.putReg x f v).strand y).pc = (s.strand y).pc := by
  unfold State.putReg; split <;> [(cases y <;> rfl); (split <;> [rfl; (cases x <;> cases y <;> rfl)])]

@[simp] theorem State.putReg_hdr_of (s : State) (x y : StrandId) (f : BitVec 6) (v : BitVec 64) :
    ((s.putReg x f v).strand y).hdr = (s.strand y).hdr := by
  unfold State.putReg; split <;> [(cases y <;> rfl); (split <;> [rfl; (cases x <;> cases y <;> rfl)])]

@[simp] theorem State.putReg_remain_of (s : State) (x y : StrandId) (f : BitVec 6) (v : BitVec 64) :
    ((s.putReg x f v).strand y).remain = (s.strand y).remain := by
  unfold State.putReg; split <;> [(cases y <;> rfl); (split <;> [rfl; (cases x <;> cases y <;> rfl)])]

@[simp] theorem State.putReg_flags_of (s : State) (x y : StrandId) (f : BitVec 6) (v : BitVec 64) :
    ((s.putReg x f v).strand y).flags = (s.strand y).flags := by
  unfold State.putReg; split <;> [(cases y <;> rfl); (split <;> [rfl; (cases x <;> cases y <;> rfl)])]

@[simp] theorem State.putReg_cc_of (s : State) (x y : StrandId) (f : BitVec 6) (v : BitVec 64) :
    ((s.putReg x f v).strand y).cc = (s.strand y).cc := by
  unfold State.putReg; split <;> [(cases y <;> rfl); (split <;> [rfl; (cases x <;> cases y <;> rfl)])]

@[simp] theorem State.putReg_coord_of (s : State) (x y : StrandId) (f : BitVec 6) (v : BitVec 64) :
    ((s.putReg x f v).strand y).coord = (s.strand y).coord := by
  unfold State.putReg; split <;> [(cases y <;> rfl); (split <;> [rfl; (cases x <;> cases y <;> rfl)])]

@[simp] theorem State.putReg_run_of (s : State) (x y : StrandId) (f : BitVec 6) (v : BitVec 64) :
    ((s.putReg x f v).strand y).run = (s.strand y).run := by
  unfold State.putReg; split <;> [(cases y <;> rfl); (split <;> [rfl; (cases x <;> cases y <;> rfl)])]

@[simp] theorem State.putReg_calls_of (s : State) (x y : StrandId) (f : BitVec 6) (v : BitVec 64) :
    ((s.putReg x f v).strand y).calls = (s.strand y).calls := by
  unfold State.putReg; split <;> [(cases y <;> rfl); (split <;> [rfl; (cases x <;> cases y <;> rfl)])]

@[simp] theorem State.putReg_lockstep_of (s : State) (x y : StrandId) (f : BitVec 6) (v : BitVec 64) :
    ((s.putReg x f v).strand y).lockstep = (s.strand y).lockstep := by
  unfold State.putReg; split <;> [(cases y <;> rfl); (split <;> [rfl; (cases x <;> cases y <;> rfl)])]

@[simp] theorem State.putReg_member_of (s : State) (x y : StrandId) (f : BitVec 6) (v : BitVec 64) :
    ((s.putReg x f v).strand y).member = (s.strand y).member := by
  unfold State.putReg; split <;> [(cases y <;> rfl); (split <;> [rfl; (cases x <;> cases y <;> rfl)])]

@[simp] theorem State.putReg_phase_of (s : State) (x y : StrandId) (f : BitVec 6) (v : BitVec 64) :
    ((s.putReg x f v).strand y).phase = (s.strand y).phase := by
  unfold State.putReg; split <;> [(cases y <;> rfl); (split <;> [rfl; (cases x <;> cases y <;> rfl)])]

@[simp] theorem State.putReg_amo_of (s : State) (x y : StrandId) (f : BitVec 6) (v : BitVec 64) :
    ((s.putReg x f v).strand y).amo = (s.strand y).amo := by
  unfold State.putReg; split <;> [(cases y <;> rfl); (split <;> [rfl; (cases x <;> cases y <;> rfl)])]

@[simp] theorem State.putReg_eaf_of (s : State) (x y : StrandId) (f : BitVec 6) (v : BitVec 64) :
    ((s.putReg x f v).strand y).eaf = (s.strand y).eaf := by
  unfold State.putReg; split <;> [(cases y <;> rfl); (split <;> [rfl; (cases x <;> cases y <;> rfl)])]

@[simp] theorem State.putReg_wait_of (s : State) (x y : StrandId) (f : BitVec 6) (v : BitVec 64) :
    ((s.putReg x f v).strand y).wait = (s.strand y).wait := by
  unfold State.putReg; split <;> [(cases y <;> rfl); (split <;> [rfl; (cases x <;> cases y <;> rfl)])]

@[simp] theorem State.putReg_images_of (s : State) (x y : StrandId) (f : BitVec 6) (v : BitVec 64) :
    ((s.putReg x f v).strand y).images = (s.strand y).images := by
  unfold State.putReg; split <;> [(cases y <;> rfl); (split <;> [rfl; (cases x <;> cases y <;> rfl)])]

@[simp] theorem State.putReg_timed_of (s : State) (x y : StrandId) (f : BitVec 6) (v : BitVec 64) :
    ((s.putReg x f v).strand y).timed = (s.strand y).timed := by
  unfold State.putReg; split <;> [(cases y <;> rfl); (split <;> [rfl; (cases x <;> cases y <;> rfl)])]

@[simp] theorem State.putReg_hook_of (s : State) (x y : StrandId) (f : BitVec 6) (v : BitVec 64) :
    ((s.putReg x f v).strand y).hook = (s.strand y).hook := by
  unfold State.putReg; split <;> [(cases y <;> rfl); (split <;> [rfl; (cases x <;> cases y <;> rfl)])]

@[simp] theorem State.putReg_dsync_of (s : State) (x y : StrandId) (f : BitVec 6) (v : BitVec 64) :
    ((s.putReg x f v).strand y).dsync = (s.strand y).dsync := by
  unfold State.putReg; split <;> [(cases y <;> rfl); (split <;> [rfl; (cases x <;> cases y <;> rfl)])]

@[simp] theorem State.putReg_synced_of (s : State) (x y : StrandId) (f : BitVec 6) (v : BitVec 64) :
    ((s.putReg x f v).strand y).synced = (s.strand y).synced := by
  unfold State.putReg; split <;> [(cases y <;> rfl); (split <;> [rfl; (cases x <;> cases y <;> rfl)])]

@[simp] theorem State.putReg_pause_of (s : State) (x y : StrandId) (f : BitVec 6) (v : BitVec 64) :
    ((s.putReg x f v).strand y).pause = (s.strand y).pause := by
  unfold State.putReg; split <;> [(cases y <;> rfl); (split <;> [rfl; (cases x <;> cases y <;> rfl)])]

@[simp] theorem State.putReg_seq_of (s : State) (x y : StrandId) (f : BitVec 6) (v : BitVec 64) :
    ((s.putReg x f v).strand y).seq = (s.strand y).seq := by
  unfold State.putReg; split <;> [(cases y <;> rfl); (split <;> [rfl; (cases x <;> cases y <;> rfl)])]

end Sys2Proof.Machine
end

