-- ==== Sys2Proof/Laws/Items.lean ====
section
/-!
SUPPORT. How an item ends: what `runItem` gives for each end of a body.
-/
namespace Sys2Proof.Machine

/-- An item whose body retires: the checks of R77 pass, and the state is the one after the item. -/
theorem runItem_retire {s t : State} {x : StrandId} {len : Nat} {legal : List StrandId} {priv cls ok : Bool}
    (hi : s.issues x) (hl : legal.contains x = true) (hp : priv = false ∨ s.sys.levelS = true) (hc : cls = true) (ho : ok = true)
    (hd : t.dry = false) (he : (t.strand x).eaf = []) : runItem s len legal priv cls ok (.retire t) = t.after x len := by
  obtain ⟨rfl, h2, h3, h4⟩ := hi
  have hpp : (priv && !s.sys.levelS) = false := by rcases hp with h | h <;> simp [h]
  subst hc ho
  simp only [runItem, hl, hpp, Bool.not_true, Bool.false_eq_true, if_false, State.finish, State.pastItem, hd]
  simp only [State.afterRetire, State.onStrand_dry, hd, Bool.false_eq_true, if_false, State.stepBoundary, h3]
  rw [State.onStrand_onStrand]
  simp only [State.onStrand_strand, he, List.isEmpty_nil, Bool.true_or, if_true, State.after, Strand.settled]

/-- An item whose body retires and has set the position itself. -/
theorem runItem_jump {s t : State} {x : StrandId} {len : Nat} {legal : List StrandId} {priv cls ok : Bool}
    (hi : s.issues x) (hl : legal.contains x = true) (hp : priv = false ∨ s.sys.levelS = true) (hc : cls = true) (ho : ok = true)
    (hd : t.dry = false) (he : (t.strand x).eaf = []) : runItem s len legal priv cls ok (.jump t) = t.arrives x := by
  obtain ⟨rfl, h2, h3, h4⟩ := hi
  have hpp : (priv && !s.sys.levelS) = false := by rcases hp with h | h <;> simp [h]
  subst hc ho
  simp only [runItem, hl, hpp, Bool.not_true, Bool.false_eq_true, if_false, State.finish]
  simp only [State.afterRetire, hd, Bool.false_eq_true, if_false, State.stepBoundary, h3]
  simp only [State.onStrand_strand, he, List.isEmpty_nil, Bool.true_or, if_true, State.arrives]
  rfl

/-- An item whose body waits. -/
theorem runItem_wait {s t : State} {len : Nat} {legal : List StrandId} {priv cls ok : Bool}
    (hl : legal.contains s.cur = true) (hp : priv = false ∨ s.sys.levelS = true) (hc : cls = true) (ho : ok = true) :
    runItem s len legal priv cls ok (.wait t) = t.waits := by
  have hpp : (priv && !s.sys.levelS) = false := by rcases hp with h | h <;> simp [h]
  subst hc ho
  simp only [runItem, hl, hpp, Bool.not_true, Bool.false_eq_true, if_false, State.finish, State.waits]

/-- An item whose body raises a cause. -/
theorem runItem_trap {s : State} {x : StrandId} {len : Nat} {legal : List StrandId} {priv cls ok : Bool} {c : BitVec 6}
    {d a : BitVec 64} (hi : s.issues x) (hl : legal.contains x = true) (hp : priv = false ∨ s.sys.levelS = true) (hc : cls = true)
    (ho : ok = true) : runItem s len legal priv cls ok (.trap c d a) = s.raises x c d a := by
  obtain ⟨rfl, h2, h3, h4⟩ := hi
  have hpp : (priv && !s.sys.levelS) = false := by rcases hp with h | h <;> simp [h]
  subst hc ho
  simp only [runItem, hl, hpp, Bool.not_true, Bool.false_eq_true, if_false, State.finish, h2, State.raises]

/-- An item on a strand its major is not legal in (R77 step 4). -/
theorem runItem_wrongStrand {s : State} {x : StrandId} {len : Nat} {legal : List StrandId} {priv cls ok : Bool} {r : Res}
    (hi : s.issues x) (hl : legal.contains x = false) : runItem s len legal priv cls ok r = s.raises x cWrongStrand 0 0 := by
  obtain ⟨rfl, h2, h3, h4⟩ := hi
  simp only [runItem, hl, Bool.not_false, if_true, Res.fail, State.finish, h2, Bool.false_eq_true, if_false, State.raises]

/-- A privileged item at T (R77 step 5). -/
theorem runItem_privileged {s : State} {x : StrandId} {len : Nat} {legal : List StrandId} {cls ok : Bool} {r : Res}
    (hi : s.issues x) (hl : legal.contains x = true) (hs : s.sys.levelS = false) :
    runItem s len legal true cls ok r = s.raises x cPrivileged 0 0 := by
  obtain ⟨rfl, h2, h3, h4⟩ := hi
  simp only [runItem, hl, hs, Bool.not_true, Bool.not_false, Bool.and_self, Bool.false_eq_true, if_false, if_true, Res.fail,
    State.finish, h2, State.raises]

/-- A field that names a class the strand has not (R77 step 7). -/
theorem runItem_class {s : State} {x : StrandId} {len : Nat} {legal : List StrandId} {priv ok : Bool} {r : Res}
    (hi : s.issues x) (hl : legal.contains x = true) (hp : priv = false ∨ s.sys.levelS = true) :
    runItem s len legal priv false ok r = s.raises x cWrongStrand 0 0 := by
  obtain ⟨rfl, h2, h3, h4⟩ := hi
  have hpp : (priv && !s.sys.levelS) = false := by rcases hp with h | h <;> simp [h]
  simp only [runItem, hl, hpp, Bool.not_true, Bool.not_false, Bool.false_eq_true, if_false, if_true, Res.fail, State.finish, h2,
    State.raises]

/-- A field out of its range (R77 step 8). -/
theorem runItem_range {s : State} {x : StrandId} {len : Nat} {legal : List StrandId} {priv : Bool} {r : Res}
    (hi : s.issues x) (hl : legal.contains x = true) (hp : priv = false ∨ s.sys.levelS = true) :
    runItem s len legal priv true false r = s.raises x cIllegalEncoding 0 0 := by
  obtain ⟨rfl, h2, h3, h4⟩ := hi
  have hpp : (priv && !s.sys.levelS) = false := by rcases hp with h | h <;> simp [h]
  simp only [runItem, hl, hpp, Bool.not_true, Bool.not_false, Bool.false_eq_true, if_false, if_true, Res.fail, State.finish, h2,
    State.raises]

end Sys2Proof.Machine
end

