-- ==== Sys2Proof/Laws/Keys.lean ====
section
/-!
SUPPORT. What an access under a key changes (R373), what stays of an access that waits (R366, R376), where a strand goes on (R47), and what
the requests for draw units leave (R284).
-/
namespace Sys2Proof.Machine

/-- An access without a key changes nothing. -/
@[simp] theorem State.underKey_none (s : State) (ls : List Loc) : s.underKey none ls = s := rfl

/-- A block that stands under the key already stays as it is. -/
theorem State.blockUnder_same {s : State} {key : BitVec 512} {block n : Nat}
    (h : s.pk.mu.under.find? (·.1 == block) = some (n, key)) : s.blockUnder key block = s := by
  simp [State.blockUnder, h]

/-- Two updates of the memory state that agree on the state that stands are one update. -/
theorem State.onMu_congr {s : State} {f g : MemoryState → MemoryState} (h : f s.pk.mu = g s.pk.mu) : s.onMu f = s.onMu g := by
  simp only [State.onMu, h]

/-- A block that comes under a key changes the memories of the package and the note of its key, and nothing else. -/
theorem State.blockUnder_frame (s : State) (key : BitVec 512) (block : Nat) :
    ∃ mem under, s.blockUnder key block = s.onMu fun m => { m with mem := mem, under := under } := by
  rcases h : s.pk.mu.under.find? (·.1 == block) with _ | ⟨n, old⟩ <;> simp only [State.blockUnder, h]
  · exact ⟨s.pk.mu.mem, kSet s.pk.mu.under block key, rfl⟩
  · split
    · exact ⟨s.pk.mu.mem, s.pk.mu.under, rfl⟩
    · exact ⟨(List.range 4).foldl (crossBlock old key block) s.pk.mu.mem, kSet s.pk.mu.under block key, State.onMu_congr rfl⟩

/-- The same of an access to any places. -/
theorem State.underKey_frame (s : State) (key : Option (BitVec 512)) (ls : List Loc) :
    ∃ mem under, s.underKey key ls = s.onMu fun m => { m with mem := mem, under := under } := by
  cases key with
  | none => exact ⟨s.pk.mu.mem, s.pk.mu.under, rfl⟩
  | some k =>
    simp only [State.underKey]
    generalize (ls.filterMap fun l => match l with | .here pa => some (pa / 64) | _ => none).eraseDups = bs
    induction bs generalizing s with
    | nil => exact ⟨s.pk.mu.mem, s.pk.mu.under, rfl⟩
    | cons b bs ih =>
      obtain ⟨mem, under, h⟩ := s.blockUnder_frame k b
      obtain ⟨mem', under', h'⟩ := ih (s.blockUnder k b)
      exact ⟨mem', under', by rw [List.foldl_cons, h', h]; rfl⟩

@[simp] theorem State.underKey_core (s : State) (key : Option (BitVec 512)) (ls : List Loc) : (s.underKey key ls).core = s.core := by
  obtain ⟨_, _, h⟩ := s.underKey_frame key ls
  rw [h]; rfl

@[simp] theorem State.underKey_scratch (s : State) (key : Option (BitVec 512)) (ls : List Loc) :
    (s.underKey key ls).pk.mu.scratch = s.pk.mu.scratch := by
  obtain ⟨_, _, h⟩ := s.underKey_frame key ls
  rw [h]; rfl

@[simp] theorem State.underKey_tlb (s : State) (key : Option (BitVec 512)) (ls : List Loc) :
    (s.underKey key ls).pk.mu.tlb = s.pk.mu.tlb := by
  obtain ⟨_, _, h⟩ := s.underKey_frame key ls
  rw [h]; rfl

/-- A block that comes under a key keeps the memory in its canonical form. -/
theorem State.blockUnder_wf {s : State} (h : Memory.wf s.pk.mu.mem = true) (key : BitVec 512) (block : Nat) :
    Memory.wf (s.blockUnder key block).pk.mu.mem = true := by
  have cross (old : BitVec 512) (mem : Memory) (d : Nat) (hm : Memory.wf mem = true) :
      Memory.wf (crossBlock old key block mem d) = true := cellPut_wf hm _ _
  rcases hf : s.pk.mu.under.find? (·.1 == block) with _ | ⟨n, old⟩ <;> simp only [State.blockUnder, hf]
  · exact h
  · split
    · exact h
    · specialize cross old
      generalize crossBlock old key block = f at cross ⊢
      exact cross _ _ (cross _ _ (cross _ _ (cross _ _ h)))

@[simp] theorem State.withAsks_core (s t : State) : (s.withAsks t).core = s.core := rfl
@[simp] theorem State.withAsks_mem (s t : State) : (s.withAsks t).pk.mu.mem = s.pk.mu.mem := rfl
@[simp] theorem State.withAsks_drains (s t : State) : (s.withAsks t).pk.mu.drains = t.pk.mu.drains := rfl
@[simp] theorem State.withAsks_ats (s t : State) : (s.withAsks t).pk.mu.ats = t.pk.mu.ats := rfl

@[simp] theorem Strand.goesOn_run (t : Strand) (pc hdr : BitVec 16) (n : BitVec 32) : (t.goesOn pc hdr n).run = .running := rfl
@[simp] theorem Strand.goesOn_pc (t : Strand) (pc hdr : BitVec 16) (n : BitVec 32) : (t.goesOn pc hdr n).pc = pc := rfl
@[simp] theorem Strand.goesOn_hdr (t : Strand) (pc hdr : BitVec 16) (n : BitVec 32) : (t.goesOn pc hdr n).hdr = hdr := rfl
@[simp] theorem Strand.goesOn_remain (t : Strand) (pc hdr : BitVec 16) (n : BitVec 32) : (t.goesOn pc hdr n).remain = n := rfl
@[simp] theorem Strand.goesOn_s (t : Strand) (pc hdr : BitVec 16) (n : BitVec 32) : (t.goesOn pc hdr n).s = t.s := rfl
@[simp] theorem Strand.goesOn_coord (t : Strand) (pc hdr : BitVec 16) (n : BitVec 32) : (t.goesOn pc hdr n).coord = t.coord := rfl

@[simp] theorem MatrixState.noUnits_held (m : MatrixState) : m.noUnits.held = 0 := rfl
@[simp] theorem MatrixState.noUnits_acc (m : MatrixState) : m.noUnits.acc = m.acc := rfl
@[simp] theorem MatrixState.noUnits_queue (m : MatrixState) : m.noUnits.queue = m.queue := rfl

/-- A request for units that pending requests cover asks for nothing. -/
theorem State.requestUnits_covered {s : State} {n : Nat} (h : n ≤ s.core.mat.pending) (c : Coord) : s.requestUnits n c = s := by
  simp [State.requestUnits, h]

end Sys2Proof.Machine
end

