-- ==== Sys2Proof/Laws/PerInstr.lean ====
section
/-!
SUPPORT. Decoding the word of an instruction gives the instruction back, one lemma per constructor; and the small lemmas
about the parts of a word that they rest on.
-/
namespace Sys2Proof.Laws

/-! ## The parts of a word -/

theorem hiPart {p q : Nat} (x : BitVec p) (y : BitVec q) (lo n : Nat) (h : q ≤ lo) :
    (x ++ y).extractLsb' lo n = x.extractLsb' (lo - q) n := BitVec.extractLsb'_append_eq_of_le h

theorem loPart {p q : Nat} (x : BitVec p) (y : BitVec q) (lo n : Nat) (h : lo + n ≤ q) :
    (x ++ y).extractLsb' lo n = y.extractLsb' lo n := BitVec.extractLsb'_append_eq_of_add_le h

theorem lowTwo {a b c : Nat} (x : BitVec a) (p : BitVec b) (q : BitVec c) :
    (x ++ p ++ q).extractLsb' 0 (b + c) = p ++ q := by
  apply BitVec.eq_of_getLsbD_eq
  intro i hi
  simp only [BitVec.getLsbD_extractLsb', BitVec.getLsbD_append, Nat.zero_add, hi, decide_true, Bool.true_and]
  by_cases h : i < c
  · simp [h]
  · have : i - c < b := by omega
    simp [h, this]

theorem lowThree {a b c d : Nat} (x : BitVec a) (p : BitVec b) (q : BitVec c) (r : BitVec d) :
    (x ++ p ++ q ++ r).extractLsb' 0 (b + c + d) = p ++ q ++ r := by
  apply BitVec.eq_of_getLsbD_eq
  intro i hi
  simp only [BitVec.getLsbD_extractLsb', BitVec.getLsbD_append, Nat.zero_add, hi, decide_true, Bool.true_and]
  by_cases h : i < d
  · simp [h]
  · by_cases h2 : i - d < c
    · simp [h, h2]
    · have : i - d - c < b := by omega
      simp [h, h2, this]

/-- Bits `lo` to `lo + n - 1` are zero, so a mask of them gives zero. -/
theorem maskRun {v : Nat} (w : BitVec v) (lo n : Nat) (h : w.extractLsb' lo n = 0) :
    w &&& BitVec.ofNat v ((2 ^ n - 1) <<< lo) = 0 := by
  apply BitVec.eq_of_getLsbD_eq
  intro i hi
  have hb := congrArg (fun x => x.getLsbD (i - lo)) h
  simp only [BitVec.getLsbD_extractLsb', BitVec.getLsbD_and, BitVec.getLsbD_ofNat, Nat.testBit_shiftLeft,
    Nat.testBit_two_pow_sub_one] at *
  by_cases h1 : lo ≤ i
  · by_cases h2 : i - lo < n
    · have e : lo + (i - lo) = i := by omega
      simp_all
    · simp [h2]
  · simp; intros; omega

/-- A mask of two runs. -/
theorem maskTwo {v : Nat} {w m a b : BitVec v} (ha : w &&& a = 0) (hb : w &&& b = 0) (h : m = a ||| b) : w &&& m = 0 := by
  simp [h, BitVec.and_or_distrib_left, ha, hb]

/-- A word by another name. -/
theorem word {n : Nat} {v : BitVec n} {P : BitVec n → Prop} (h : ∀ w, v = w → P w) : P v := h v rfl

theorem oneBit : ∀ z : BitVec 1, z = 0 ∨ z = 1 := by decide

/-! ## Words by their parts -/

theorem wideShape1 (p0 : BitVec 6) (p1 : BitVec 6) (p2 : BitVec 6) (p3 : BitVec 6) (p4 : BitVec 8) (w : BitVec 32) (h : p0 ++ p1 ++ p2 ++ p3 ++ p4 = w) :
    w.extractLsb' 0 3 = p4.extractLsb' 0 3 ∧
      w.extractLsb' 0 8 = p4 ∧
      w.extractLsb' 8 6 = p3 ∧
      w.extractLsb' 14 6 = p2 ∧
      w.extractLsb' 20 6 = p1 ∧
      w.extractLsb' 26 5 = p0.extractLsb' 0 5 := by
  subst h
  exact ⟨loPart _ _ 0 3 (by decide), (loPart _ _ 0 8 (by decide)).trans (BitVec.extractLsb'_eq_self), (hiPart _ _ 8 6 (by decide)).trans ((loPart _ _ 0 6 (by decide)).trans (BitVec.extractLsb'_eq_self)), (hiPart _ _ 14 6 (by decide)).trans ((hiPart _ _ 6 6 (by decide)).trans ((loPart _ _ 0 6 (by decide)).trans (BitVec.extractLsb'_eq_self))), (hiPart _ _ 20 6 (by decide)).trans ((hiPart _ _ 12 6 (by decide)).trans ((hiPart _ _ 6 6 (by decide)).trans ((loPart _ _ 0 6 (by decide)).trans (BitVec.extractLsb'_eq_self)))), (hiPart _ _ 26 5 (by decide)).trans ((hiPart _ _ 18 5 (by decide)).trans ((hiPart _ _ 12 5 (by decide)).trans (hiPart _ _ 6 5 (by decide))))⟩

theorem wideShape2 (p0 : BitVec 6) (p1 : BitVec 6) (p2 : BitVec 6) (p3 : BitVec 14) (w : BitVec 32) (h : p0 ++ p1 ++ p2 ++ p3 = w) :
    w.extractLsb' 0 3 = p3.extractLsb' 0 3 ∧
      w.extractLsb' 0 8 = p3.extractLsb' 0 8 ∧
      w.extractLsb' 8 6 = p3.extractLsb' 8 6 ∧
      w.extractLsb' 14 6 = p2 ∧
      w.extractLsb' 20 6 = p1 ∧
      w.extractLsb' 26 5 = p0.extractLsb' 0 5 := by
  subst h
  exact ⟨loPart _ _ 0 3 (by decide), loPart _ _ 0 8 (by decide), loPart _ _ 8 6 (by decide), (hiPart _ _ 14 6 (by decide)).trans ((loPart _ _ 0 6 (by decide)).trans (BitVec.extractLsb'_eq_self)), (hiPart _ _ 20 6 (by decide)).trans ((hiPart _ _ 6 6 (by decide)).trans ((loPart _ _ 0 6 (by decide)).trans (BitVec.extractLsb'_eq_self))), (hiPart _ _ 26 5 (by decide)).trans ((hiPart _ _ 12 5 (by decide)).trans (hiPart _ _ 6 5 (by decide)))⟩

theorem wideShape3 (p0 : BitVec 6) (p1 : BitVec 6) (p2 : BitVec 6) (p3 : BitVec 6) (p4 : BitVec 5) (p5 : BitVec 3) (w : BitVec 32) (h : p0 ++ p1 ++ p2 ++ p3 ++ p4 ++ p5 = w) :
    w.extractLsb' 0 3 = p5 ∧
      w.extractLsb' 8 6 = p3 ∧
      w.extractLsb' 14 6 = p2 ∧
      w.extractLsb' 20 6 = p1 ∧
      w.extractLsb' 26 5 = p0.extractLsb' 0 5 := by
  subst h
  exact ⟨(loPart _ _ 0 3 (by decide)).trans (BitVec.extractLsb'_eq_self), (hiPart _ _ 8 6 (by decide)).trans ((hiPart _ _ 5 6 (by decide)).trans ((loPart _ _ 0 6 (by decide)).trans (BitVec.extractLsb'_eq_self))), (hiPart _ _ 14 6 (by decide)).trans ((hiPart _ _ 11 6 (by decide)).trans ((hiPart _ _ 6 6 (by decide)).trans ((loPart _ _ 0 6 (by decide)).trans (BitVec.extractLsb'_eq_self)))), (hiPart _ _ 20 6 (by decide)).trans ((hiPart _ _ 17 6 (by decide)).trans ((hiPart _ _ 12 6 (by decide)).trans ((hiPart _ _ 6 6 (by decide)).trans ((loPart _ _ 0 6 (by decide)).trans (BitVec.extractLsb'_eq_self))))), (hiPart _ _ 26 5 (by decide)).trans ((hiPart _ _ 23 5 (by decide)).trans ((hiPart _ _ 18 5 (by decide)).trans ((hiPart _ _ 12 5 (by decide)).trans (hiPart _ _ 6 5 (by decide)))))⟩

theorem wideShape4 (p0 : BitVec 6) (p1 : BitVec 6) (p2 : BitVec 6) (p3 : BitVec 4) (p4 : BitVec 10) (w : BitVec 32) (h : p0 ++ p1 ++ p2 ++ p3 ++ p4 = w) :
    w.extractLsb' 0 6 = p4.extractLsb' 0 6 ∧
      w.extractLsb' 0 10 = p4 ∧
      w.extractLsb' 10 4 = p3 ∧
      w.extractLsb' 14 6 = p2 ∧
      w.extractLsb' 20 6 = p1 ∧
      w.extractLsb' 26 5 = p0.extractLsb' 0 5 := by
  subst h
  exact ⟨loPart _ _ 0 6 (by decide), (loPart _ _ 0 10 (by decide)).trans (BitVec.extractLsb'_eq_self), (hiPart _ _ 10 4 (by decide)).trans ((loPart _ _ 0 4 (by decide)).trans (BitVec.extractLsb'_eq_self)), (hiPart _ _ 14 6 (by decide)).trans ((hiPart _ _ 4 6 (by decide)).trans ((loPart _ _ 0 6 (by decide)).trans (BitVec.extractLsb'_eq_self))), (hiPart _ _ 20 6 (by decide)).trans ((hiPart _ _ 10 6 (by decide)).trans ((hiPart _ _ 6 6 (by decide)).trans ((loPart _ _ 0 6 (by decide)).trans (BitVec.extractLsb'_eq_self)))), (hiPart _ _ 26 5 (by decide)).trans ((hiPart _ _ 16 5 (by decide)).trans ((hiPart _ _ 12 5 (by decide)).trans (hiPart _ _ 6 5 (by decide))))⟩

theorem wideShape5 (p0 : BitVec 6) (p1 : BitVec 6) (p2 : BitVec 6) (p3 : BitVec 8) (p4 : BitVec 6) (w : BitVec 32) (h : p0 ++ p1 ++ p2 ++ p3 ++ p4 = w) :
    w.extractLsb' 0 6 = p4 ∧
      w.extractLsb' 6 4 = p3.extractLsb' 0 4 ∧
      w.extractLsb' 10 4 = p3.extractLsb' 4 4 ∧
      w.extractLsb' 14 6 = p2 ∧
      w.extractLsb' 20 6 = p1 ∧
      w.extractLsb' 26 5 = p0.extractLsb' 0 5 := by
  subst h
  exact ⟨(loPart _ _ 0 6 (by decide)).trans (BitVec.extractLsb'_eq_self), (hiPart _ _ 6 4 (by decide)).trans (loPart _ _ 0 4 (by decide)), (hiPart _ _ 10 4 (by decide)).trans (loPart _ _ 4 4 (by decide)), (hiPart _ _ 14 6 (by decide)).trans ((hiPart _ _ 8 6 (by decide)).trans ((loPart _ _ 0 6 (by decide)).trans (BitVec.extractLsb'_eq_self))), (hiPart _ _ 20 6 (by decide)).trans ((hiPart _ _ 14 6 (by decide)).trans ((hiPart _ _ 6 6 (by decide)).trans ((loPart _ _ 0 6 (by decide)).trans (BitVec.extractLsb'_eq_self)))), (hiPart _ _ 26 5 (by decide)).trans ((hiPart _ _ 20 5 (by decide)).trans ((hiPart _ _ 12 5 (by decide)).trans (hiPart _ _ 6 5 (by decide))))⟩

theorem wideShape6 (p0 : BitVec 6) (p1 : BitVec 6) (p2 : BitVec 20) (w : BitVec 32) (h : p0 ++ p1 ++ p2 = w) :
    w.extractLsb' 0 20 = p2 ∧
      w.extractLsb' 20 6 = p1 ∧
      w.extractLsb' 26 5 = p0.extractLsb' 0 5 := by
  subst h
  exact ⟨(loPart _ _ 0 20 (by decide)).trans (BitVec.extractLsb'_eq_self), (hiPart _ _ 20 6 (by decide)).trans ((loPart _ _ 0 6 (by decide)).trans (BitVec.extractLsb'_eq_self)), (hiPart _ _ 26 5 (by decide)).trans (hiPart _ _ 6 5 (by decide))⟩

theorem wideShape7 (p0 : BitVec 6) (p1 : BitVec 4) (p2 : BitVec 22) (w : BitVec 32) (h : p0 ++ p1 ++ p2 = w) :
    w.extractLsb' 0 22 = p2 ∧
      w.extractLsb' 22 4 = p1 ∧
      w.extractLsb' 26 5 = p0.extractLsb' 0 5 := by
  subst h
  exact ⟨(loPart _ _ 0 22 (by decide)).trans (BitVec.extractLsb'_eq_self), (hiPart _ _ 22 4 (by decide)).trans ((loPart _ _ 0 4 (by decide)).trans (BitVec.extractLsb'_eq_self)), (hiPart _ _ 26 5 (by decide)).trans (hiPart _ _ 4 5 (by decide))⟩

theorem wideShape8 (p0 : BitVec 10) (p1 : BitVec 22) (w : BitVec 32) (h : p0 ++ p1 = w) :
    w.extractLsb' 0 22 = p1 ∧
      w.extractLsb' 16 5 = p1.extractLsb' 16 5 ∧
      w.extractLsb' 22 4 = p0.extractLsb' 0 4 ∧
      w.extractLsb' 26 5 = p0.extractLsb' 4 5 := by
  subst h
  exact ⟨(loPart _ _ 0 22 (by decide)).trans (BitVec.extractLsb'_eq_self), loPart _ _ 16 5 (by decide), hiPart _ _ 22 4 (by decide), hiPart _ _ 26 5 (by decide)⟩

theorem wideShape9 (p0 : BitVec 11) (p1 : BitVec 5) (p2 : BitVec 16) (w : BitVec 32) (h : p0 ++ p1 ++ p2 = w) :
    w.extractLsb' 0 16 = p2 ∧
      w.extractLsb' 16 5 = p1 ∧
      w.extractLsb' 21 1 = p0.extractLsb' 0 1 ∧
      w.extractLsb' 22 4 = p0.extractLsb' 1 4 ∧
      w.extractLsb' 26 5 = p0.extractLsb' 5 5 := by
  subst h
  exact ⟨(loPart _ _ 0 16 (by decide)).trans (BitVec.extractLsb'_eq_self), (hiPart _ _ 16 5 (by decide)).trans ((loPart _ _ 0 5 (by decide)).trans (BitVec.extractLsb'_eq_self)), (hiPart _ _ 21 1 (by decide)).trans (hiPart _ _ 5 1 (by decide)), (hiPart _ _ 22 4 (by decide)).trans (hiPart _ _ 6 4 (by decide)), (hiPart _ _ 26 5 (by decide)).trans (hiPart _ _ 10 5 (by decide))⟩

theorem wideShape10 (p0 : BitVec 12) (p1 : BitVec 12) (p2 : BitVec 8) (w : BitVec 32) (h : p0 ++ p1 ++ p2 = w) :
    w.extractLsb' 0 8 = p2 ∧
      w.extractLsb' 8 10 = p1.extractLsb' 0 10 ∧
      w.extractLsb' 8 12 = p1 ∧
      w.extractLsb' 20 6 = p0.extractLsb' 0 6 ∧
      w.extractLsb' 26 5 = p0.extractLsb' 6 5 := by
  subst h
  exact ⟨(loPart _ _ 0 8 (by decide)).trans (BitVec.extractLsb'_eq_self), (hiPart _ _ 8 10 (by decide)).trans (loPart _ _ 0 10 (by decide)), (hiPart _ _ 8 12 (by decide)).trans ((loPart _ _ 0 12 (by decide)).trans (BitVec.extractLsb'_eq_self)), (hiPart _ _ 20 6 (by decide)).trans (hiPart _ _ 12 6 (by decide)), (hiPart _ _ 26 5 (by decide)).trans (hiPart _ _ 18 5 (by decide))⟩

theorem wideShape11 (p0 : BitVec 6) (p1 : BitVec 6) (p2 : BitVec 2) (p3 : BitVec 10) (p4 : BitVec 8) (w : BitVec 32) (h : p0 ++ p1 ++ p2 ++ p3 ++ p4 = w) :
    w.extractLsb' 0 8 = p4 ∧
      w.extractLsb' 8 10 = p3 ∧
      w.extractLsb' 18 2 = p2 ∧
      w.extractLsb' 20 6 = p1 ∧
      w.extractLsb' 26 5 = p0.extractLsb' 0 5 := by
  subst h
  exact ⟨(loPart _ _ 0 8 (by decide)).trans (BitVec.extractLsb'_eq_self), (hiPart _ _ 8 10 (by decide)).trans ((loPart _ _ 0 10 (by decide)).trans (BitVec.extractLsb'_eq_self)), (hiPart _ _ 18 2 (by decide)).trans ((hiPart _ _ 10 2 (by decide)).trans ((loPart _ _ 0 2 (by decide)).trans (BitVec.extractLsb'_eq_self))), (hiPart _ _ 20 6 (by decide)).trans ((hiPart _ _ 12 6 (by decide)).trans ((hiPart _ _ 2 6 (by decide)).trans ((loPart _ _ 0 6 (by decide)).trans (BitVec.extractLsb'_eq_self)))), (hiPart _ _ 26 5 (by decide)).trans ((hiPart _ _ 18 5 (by decide)).trans ((hiPart _ _ 8 5 (by decide)).trans (hiPart _ _ 6 5 (by decide))))⟩

theorem wideShape12 (p0 : BitVec 13) (p1 : BitVec 16) (p2 : BitVec 3) (w : BitVec 32) (h : p0 ++ p1 ++ p2 = w) :
    w.extractLsb' 0 3 = p2 ∧
      w.extractLsb' 3 2 = p1.extractLsb' 0 2 ∧
      w.extractLsb' 3 3 = p1.extractLsb' 0 3 ∧
      w.extractLsb' 3 5 = p1.extractLsb' 0 5 ∧
      w.extractLsb' 3 16 = p1 ∧
      w.extractLsb' 5 3 = p1.extractLsb' 2 3 ∧
      w.extractLsb' 8 5 = p1.extractLsb' 5 5 ∧
      w.extractLsb' 19 7 = p0.extractLsb' 0 7 ∧
      w.extractLsb' 22 4 = p0.extractLsb' 3 4 ∧
      w.extractLsb' 26 5 = p0.extractLsb' 7 5 := by
  subst h
  exact ⟨(loPart _ _ 0 3 (by decide)).trans (BitVec.extractLsb'_eq_self), (hiPart _ _ 3 2 (by decide)).trans (loPart _ _ 0 2 (by decide)), (hiPart _ _ 3 3 (by decide)).trans (loPart _ _ 0 3 (by decide)), (hiPart _ _ 3 5 (by decide)).trans (loPart _ _ 0 5 (by decide)), (hiPart _ _ 3 16 (by decide)).trans ((loPart _ _ 0 16 (by decide)).trans (BitVec.extractLsb'_eq_self)), (hiPart _ _ 5 3 (by decide)).trans (loPart _ _ 2 3 (by decide)), (hiPart _ _ 8 5 (by decide)).trans (loPart _ _ 5 5 (by decide)), (hiPart _ _ 19 7 (by decide)).trans (hiPart _ _ 16 7 (by decide)), (hiPart _ _ 22 4 (by decide)).trans (hiPart _ _ 19 4 (by decide)), (hiPart _ _ 26 5 (by decide)).trans (hiPart _ _ 23 5 (by decide))⟩

theorem wideShape13 (p0 : BitVec 26) (p1 : BitVec 3) (p2 : BitVec 3) (w : BitVec 32) (h : p0 ++ p1 ++ p2 = w) :
    w.extractLsb' 0 3 = p2 ∧
      w.extractLsb' 3 2 = p1.extractLsb' 0 2 ∧
      w.extractLsb' 3 3 = p1 ∧
      w.extractLsb' 6 20 = p0.extractLsb' 0 20 ∧
      w.extractLsb' 8 5 = p0.extractLsb' 2 5 ∧
      w.extractLsb' 12 10 = p0.extractLsb' 6 10 ∧
      w.extractLsb' 22 4 = p0.extractLsb' 16 4 ∧
      w.extractLsb' 26 5 = p0.extractLsb' 20 5 := by
  subst h
  exact ⟨(loPart _ _ 0 3 (by decide)).trans (BitVec.extractLsb'_eq_self), (hiPart _ _ 3 2 (by decide)).trans (loPart _ _ 0 2 (by decide)), (hiPart _ _ 3 3 (by decide)).trans ((loPart _ _ 0 3 (by decide)).trans (BitVec.extractLsb'_eq_self)), (hiPart _ _ 6 20 (by decide)).trans (hiPart _ _ 3 20 (by decide)), (hiPart _ _ 8 5 (by decide)).trans (hiPart _ _ 5 5 (by decide)), (hiPart _ _ 12 10 (by decide)).trans (hiPart _ _ 9 10 (by decide)), (hiPart _ _ 22 4 (by decide)).trans (hiPart _ _ 19 4 (by decide)), (hiPart _ _ 26 5 (by decide)).trans (hiPart _ _ 23 5 (by decide))⟩

theorem wideShape14 (p0 : BitVec 24) (p1 : BitVec 3) (p2 : BitVec 5) (w : BitVec 32) (h : p0 ++ p1 ++ p2 = w) :
    w.extractLsb' 0 3 = p2.extractLsb' 0 3 ∧
      w.extractLsb' 3 2 = p2.extractLsb' 3 2 ∧
      w.extractLsb' 5 3 = p1 ∧
      w.extractLsb' 8 5 = p0.extractLsb' 0 5 ∧
      w.extractLsb' 8 18 = p0.extractLsb' 0 18 ∧
      w.extractLsb' 12 10 = p0.extractLsb' 4 10 ∧
      w.extractLsb' 22 4 = p0.extractLsb' 14 4 ∧
      w.extractLsb' 26 5 = p0.extractLsb' 18 5 := by
  subst h
  exact ⟨loPart _ _ 0 3 (by decide), loPart _ _ 3 2 (by decide), (hiPart _ _ 5 3 (by decide)).trans ((loPart _ _ 0 3 (by decide)).trans (BitVec.extractLsb'_eq_self)), (hiPart _ _ 8 5 (by decide)).trans (hiPart _ _ 3 5 (by decide)), (hiPart _ _ 8 18 (by decide)).trans (hiPart _ _ 3 18 (by decide)), (hiPart _ _ 12 10 (by decide)).trans (hiPart _ _ 7 10 (by decide)), (hiPart _ _ 22 4 (by decide)).trans (hiPart _ _ 17 4 (by decide)), (hiPart _ _ 26 5 (by decide)).trans (hiPart _ _ 21 5 (by decide))⟩

theorem wideShape15 (p0 : BitVec 19) (p1 : BitVec 5) (p2 : BitVec 5) (p3 : BitVec 3) (w : BitVec 32) (h : p0 ++ p1 ++ p2 ++ p3 = w) :
    w.extractLsb' 0 3 = p3 ∧
      w.extractLsb' 3 2 = p2.extractLsb' 0 2 ∧
      w.extractLsb' 3 3 = p2.extractLsb' 0 3 ∧
      w.extractLsb' 3 5 = p2 ∧
      w.extractLsb' 5 3 = p2.extractLsb' 2 3 ∧
      w.extractLsb' 8 5 = p1 ∧
      w.extractLsb' 13 13 = p0.extractLsb' 0 13 ∧
      w.extractLsb' 22 4 = p0.extractLsb' 9 4 ∧
      w.extractLsb' 26 5 = p0.extractLsb' 13 5 := by
  subst h
  exact ⟨(loPart _ _ 0 3 (by decide)).trans (BitVec.extractLsb'_eq_self), (hiPart _ _ 3 2 (by decide)).trans (loPart _ _ 0 2 (by decide)), (hiPart _ _ 3 3 (by decide)).trans (loPart _ _ 0 3 (by decide)), (hiPart _ _ 3 5 (by decide)).trans ((loPart _ _ 0 5 (by decide)).trans (BitVec.extractLsb'_eq_self)), (hiPart _ _ 5 3 (by decide)).trans (loPart _ _ 2 3 (by decide)), (hiPart _ _ 8 5 (by decide)).trans ((hiPart _ _ 5 5 (by decide)).trans ((loPart _ _ 0 5 (by decide)).trans (BitVec.extractLsb'_eq_self))), (hiPart _ _ 13 13 (by decide)).trans ((hiPart _ _ 10 13 (by decide)).trans (hiPart _ _ 5 13 (by decide))), (hiPart _ _ 22 4 (by decide)).trans ((hiPart _ _ 19 4 (by decide)).trans (hiPart _ _ 14 4 (by decide))), (hiPart _ _ 26 5 (by decide)).trans ((hiPart _ _ 23 5 (by decide)).trans (hiPart _ _ 18 5 (by decide)))⟩

theorem wideShape16 (p0 : BitVec 6) (p1 : BitVec 4) (p2 : BitVec 10) (p3 : BitVec 12) (w : BitVec 32) (h : p0 ++ p1 ++ p2 ++ p3 = w) :
    w.extractLsb' 0 3 = p3.extractLsb' 0 3 ∧
      w.extractLsb' 3 2 = p3.extractLsb' 3 2 ∧
      w.extractLsb' 3 3 = p3.extractLsb' 3 3 ∧
      w.extractLsb' 3 5 = p3.extractLsb' 3 5 ∧
      w.extractLsb' 3 9 = p3.extractLsb' 3 9 ∧
      w.extractLsb' 5 3 = p3.extractLsb' 5 3 ∧
      w.extractLsb' 12 10 = p2 ∧
      w.extractLsb' 22 4 = p1 ∧
      w.extractLsb' 26 5 = p0.extractLsb' 0 5 := by
  subst h
  exact ⟨loPart _ _ 0 3 (by decide), loPart _ _ 3 2 (by decide), loPart _ _ 3 3 (by decide), loPart _ _ 3 5 (by decide), loPart _ _ 3 9 (by decide), loPart _ _ 5 3 (by decide), (hiPart _ _ 12 10 (by decide)).trans ((loPart _ _ 0 10 (by decide)).trans (BitVec.extractLsb'_eq_self)), (hiPart _ _ 22 4 (by decide)).trans ((hiPart _ _ 10 4 (by decide)).trans ((loPart _ _ 0 4 (by decide)).trans (BitVec.extractLsb'_eq_self))), (hiPart _ _ 26 5 (by decide)).trans ((hiPart _ _ 14 5 (by decide)).trans (hiPart _ _ 4 5 (by decide)))⟩

theorem wideShape17 (p0 : BitVec 26) (p1 : BitVec 3) (p2 : BitVec 3) (w : BitVec 32) (h : p0 ++ p1 ++ p2 = w) :
    w.extractLsb' 0 3 = p2 ∧
      w.extractLsb' 3 3 = p1 ∧
      w.extractLsb' 6 20 = p0.extractLsb' 0 20 ∧
      w.extractLsb' 20 6 = p0.extractLsb' 14 6 ∧
      w.extractLsb' 26 5 = p0.extractLsb' 20 5 := by
  subst h
  exact ⟨(loPart _ _ 0 3 (by decide)).trans (BitVec.extractLsb'_eq_self), (hiPart _ _ 3 3 (by decide)).trans ((loPart _ _ 0 3 (by decide)).trans (BitVec.extractLsb'_eq_self)), (hiPart _ _ 6 20 (by decide)).trans (hiPart _ _ 3 20 (by decide)), (hiPart _ _ 20 6 (by decide)).trans (hiPart _ _ 17 6 (by decide)), (hiPart _ _ 26 5 (by decide)).trans (hiPart _ _ 23 5 (by decide))⟩

theorem wideShape18 (p0 : BitVec 6) (p1 : BitVec 6) (p2 : BitVec 14) (p3 : BitVec 3) (p4 : BitVec 3) (w : BitVec 32) (h : p0 ++ p1 ++ p2 ++ p3 ++ p4 = w) :
    w.extractLsb' 0 3 = p4 ∧
      w.extractLsb' 3 3 = p3 ∧
      w.extractLsb' 6 14 = p2 ∧
      w.extractLsb' 20 6 = p1 ∧
      w.extractLsb' 26 5 = p0.extractLsb' 0 5 := by
  subst h
  exact ⟨(loPart _ _ 0 3 (by decide)).trans (BitVec.extractLsb'_eq_self), (hiPart _ _ 3 3 (by decide)).trans ((loPart _ _ 0 3 (by decide)).trans (BitVec.extractLsb'_eq_self)), (hiPart _ _ 6 14 (by decide)).trans ((hiPart _ _ 3 14 (by decide)).trans ((loPart _ _ 0 14 (by decide)).trans (BitVec.extractLsb'_eq_self))), (hiPart _ _ 20 6 (by decide)).trans ((hiPart _ _ 17 6 (by decide)).trans ((hiPart _ _ 14 6 (by decide)).trans ((loPart _ _ 0 6 (by decide)).trans (BitVec.extractLsb'_eq_self)))), (hiPart _ _ 26 5 (by decide)).trans ((hiPart _ _ 23 5 (by decide)).trans ((hiPart _ _ 20 5 (by decide)).trans (hiPart _ _ 6 5 (by decide))))⟩

theorem wideShape19 (p0 : BitVec 6) (p1 : BitVec 6) (p2 : BitVec 6) (p3 : BitVec 4) (p4 : BitVec 10) (w : BitVec 32) (h : p0 ++ p1 ++ p2 ++ p3 ++ p4 = w) :
    w.extractLsb' 0 7 = p4.extractLsb' 0 7 ∧
      w.extractLsb' 0 10 = p4 ∧
      w.extractLsb' 7 3 = p4.extractLsb' 7 3 ∧
      w.extractLsb' 10 4 = p3 ∧
      w.extractLsb' 14 6 = p2 ∧
      w.extractLsb' 20 6 = p1 ∧
      w.extractLsb' 26 5 = p0.extractLsb' 0 5 := by
  subst h
  exact ⟨loPart _ _ 0 7 (by decide), (loPart _ _ 0 10 (by decide)).trans (BitVec.extractLsb'_eq_self), loPart _ _ 7 3 (by decide), (hiPart _ _ 10 4 (by decide)).trans ((loPart _ _ 0 4 (by decide)).trans (BitVec.extractLsb'_eq_self)), (hiPart _ _ 14 6 (by decide)).trans ((hiPart _ _ 4 6 (by decide)).trans ((loPart _ _ 0 6 (by decide)).trans (BitVec.extractLsb'_eq_self))), (hiPart _ _ 20 6 (by decide)).trans ((hiPart _ _ 10 6 (by decide)).trans ((hiPart _ _ 6 6 (by decide)).trans ((loPart _ _ 0 6 (by decide)).trans (BitVec.extractLsb'_eq_self)))), (hiPart _ _ 26 5 (by decide)).trans ((hiPart _ _ 16 5 (by decide)).trans ((hiPart _ _ 12 5 (by decide)).trans (hiPart _ _ 6 5 (by decide))))⟩

theorem wideShape20 (p0 : BitVec 6) (p1 : BitVec 6) (p2 : BitVec 6) (p3 : BitVec 4) (p4 : BitVec 3) (p5 : BitVec 7) (w : BitVec 32) (h : p0 ++ p1 ++ p2 ++ p3 ++ p4 ++ p5 = w) :
    w.extractLsb' 0 7 = p5 ∧
      w.extractLsb' 7 3 = p4 ∧
      w.extractLsb' 10 4 = p3 ∧
      w.extractLsb' 14 6 = p2 ∧
      w.extractLsb' 20 6 = p1 ∧
      w.extractLsb' 26 5 = p0.extractLsb' 0 5 := by
  subst h
  exact ⟨(loPart _ _ 0 7 (by decide)).trans (BitVec.extractLsb'_eq_self), (hiPart _ _ 7 3 (by decide)).trans ((loPart _ _ 0 3 (by decide)).trans (BitVec.extractLsb'_eq_self)), (hiPart _ _ 10 4 (by decide)).trans ((hiPart _ _ 3 4 (by decide)).trans ((loPart _ _ 0 4 (by decide)).trans (BitVec.extractLsb'_eq_self))), (hiPart _ _ 14 6 (by decide)).trans ((hiPart _ _ 7 6 (by decide)).trans ((hiPart _ _ 4 6 (by decide)).trans ((loPart _ _ 0 6 (by decide)).trans (BitVec.extractLsb'_eq_self)))), (hiPart _ _ 20 6 (by decide)).trans ((hiPart _ _ 13 6 (by decide)).trans ((hiPart _ _ 10 6 (by decide)).trans ((hiPart _ _ 6 6 (by decide)).trans ((loPart _ _ 0 6 (by decide)).trans (BitVec.extractLsb'_eq_self))))), (hiPart _ _ 26 5 (by decide)).trans ((hiPart _ _ 19 5 (by decide)).trans ((hiPart _ _ 16 5 (by decide)).trans ((hiPart _ _ 12 5 (by decide)).trans (hiPart _ _ 6 5 (by decide)))))⟩

theorem wideShape21 (p0 : BitVec 12) (p1 : BitVec 6) (p2 : BitVec 4) (p3 : BitVec 10) (w : BitVec 32) (h : p0 ++ p1 ++ p2 ++ p3 = w) :
    w.extractLsb' 0 7 = p3.extractLsb' 0 7 ∧
      w.extractLsb' 0 10 = p3 ∧
      w.extractLsb' 7 3 = p3.extractLsb' 7 3 ∧
      w.extractLsb' 10 4 = p2 ∧
      w.extractLsb' 14 6 = p1 ∧
      w.extractLsb' 20 6 = p0.extractLsb' 0 6 ∧
      w.extractLsb' 26 5 = p0.extractLsb' 6 5 := by
  subst h
  exact ⟨loPart _ _ 0 7 (by decide), (loPart _ _ 0 10 (by decide)).trans (BitVec.extractLsb'_eq_self), loPart _ _ 7 3 (by decide), (hiPart _ _ 10 4 (by decide)).trans ((loPart _ _ 0 4 (by decide)).trans (BitVec.extractLsb'_eq_self)), (hiPart _ _ 14 6 (by decide)).trans ((hiPart _ _ 4 6 (by decide)).trans ((loPart _ _ 0 6 (by decide)).trans (BitVec.extractLsb'_eq_self))), (hiPart _ _ 20 6 (by decide)).trans ((hiPart _ _ 10 6 (by decide)).trans (hiPart _ _ 6 6 (by decide))), (hiPart _ _ 26 5 (by decide)).trans ((hiPart _ _ 16 5 (by decide)).trans (hiPart _ _ 12 5 (by decide)))⟩

theorem wideShape22 (p0 : BitVec 6) (p1 : BitVec 6) (p2 : BitVec 6) (p3 : BitVec 6) (p4 : BitVec 7) (p5 : BitVec 1) (w : BitVec 32) (h : p0 ++ p1 ++ p2 ++ p3 ++ p4 ++ p5 = w) :
    w.extractLsb' 0 1 = p5 ∧
      w.extractLsb' 1 1 = p4.extractLsb' 0 1 ∧
      w.extractLsb' 8 6 = p3 ∧
      w.extractLsb' 14 6 = p2 ∧
      w.extractLsb' 20 6 = p1 ∧
      w.extractLsb' 26 5 = p0.extractLsb' 0 5 := by
  subst h
  exact ⟨(loPart _ _ 0 1 (by decide)).trans (BitVec.extractLsb'_eq_self), (hiPart _ _ 1 1 (by decide)).trans (loPart _ _ 0 1 (by decide)), (hiPart _ _ 8 6 (by decide)).trans ((hiPart _ _ 7 6 (by decide)).trans ((loPart _ _ 0 6 (by decide)).trans (BitVec.extractLsb'_eq_self))), (hiPart _ _ 14 6 (by decide)).trans ((hiPart _ _ 13 6 (by decide)).trans ((hiPart _ _ 6 6 (by decide)).trans ((loPart _ _ 0 6 (by decide)).trans (BitVec.extractLsb'_eq_self)))), (hiPart _ _ 20 6 (by decide)).trans ((hiPart _ _ 19 6 (by decide)).trans ((hiPart _ _ 12 6 (by decide)).trans ((hiPart _ _ 6 6 (by decide)).trans ((loPart _ _ 0 6 (by decide)).trans (BitVec.extractLsb'_eq_self))))), (hiPart _ _ 26 5 (by decide)).trans ((hiPart _ _ 25 5 (by decide)).trans ((hiPart _ _ 18 5 (by decide)).trans ((hiPart _ _ 12 5 (by decide)).trans (hiPart _ _ 6 5 (by decide)))))⟩

theorem wideShape23 (p0 : BitVec 6) (p1 : BitVec 6) (p2 : BitVec 6) (p3 : BitVec 6) (p4 : BitVec 8) (w : BitVec 32) (h : p0 ++ p1 ++ p2 ++ p3 ++ p4 = w) :
    w.extractLsb' 0 1 = p4.extractLsb' 0 1 ∧
      w.extractLsb' 0 8 = p4 ∧
      w.extractLsb' 1 1 = p4.extractLsb' 1 1 ∧
      w.extractLsb' 8 6 = p3 ∧
      w.extractLsb' 14 6 = p2 ∧
      w.extractLsb' 20 6 = p1 ∧
      w.extractLsb' 26 5 = p0.extractLsb' 0 5 := by
  subst h
  exact ⟨loPart _ _ 0 1 (by decide), (loPart _ _ 0 8 (by decide)).trans (BitVec.extractLsb'_eq_self), loPart _ _ 1 1 (by decide), (hiPart _ _ 8 6 (by decide)).trans ((loPart _ _ 0 6 (by decide)).trans (BitVec.extractLsb'_eq_self)), (hiPart _ _ 14 6 (by decide)).trans ((hiPart _ _ 6 6 (by decide)).trans ((loPart _ _ 0 6 (by decide)).trans (BitVec.extractLsb'_eq_self))), (hiPart _ _ 20 6 (by decide)).trans ((hiPart _ _ 12 6 (by decide)).trans ((hiPart _ _ 6 6 (by decide)).trans ((loPart _ _ 0 6 (by decide)).trans (BitVec.extractLsb'_eq_self)))), (hiPart _ _ 26 5 (by decide)).trans ((hiPart _ _ 18 5 (by decide)).trans ((hiPart _ _ 12 5 (by decide)).trans (hiPart _ _ 6 5 (by decide))))⟩

theorem wideShape24 (p0 : BitVec 6) (p1 : BitVec 6) (p2 : BitVec 6) (p3 : BitVec 14) (w : BitVec 32) (h : p0 ++ p1 ++ p2 ++ p3 = w) :
    w.extractLsb' 0 1 = p3.extractLsb' 0 1 ∧
      w.extractLsb' 0 8 = p3.extractLsb' 0 8 ∧
      w.extractLsb' 1 1 = p3.extractLsb' 1 1 ∧
      w.extractLsb' 8 6 = p3.extractLsb' 8 6 ∧
      w.extractLsb' 14 6 = p2 ∧
      w.extractLsb' 20 6 = p1 ∧
      w.extractLsb' 26 5 = p0.extractLsb' 0 5 := by
  subst h
  exact ⟨loPart _ _ 0 1 (by decide), loPart _ _ 0 8 (by decide), loPart _ _ 1 1 (by decide), loPart _ _ 8 6 (by decide), (hiPart _ _ 14 6 (by decide)).trans ((loPart _ _ 0 6 (by decide)).trans (BitVec.extractLsb'_eq_self)), (hiPart _ _ 20 6 (by decide)).trans ((hiPart _ _ 6 6 (by decide)).trans ((loPart _ _ 0 6 (by decide)).trans (BitVec.extractLsb'_eq_self))), (hiPart _ _ 26 5 (by decide)).trans ((hiPart _ _ 12 5 (by decide)).trans (hiPart _ _ 6 5 (by decide)))⟩

theorem wideShape25 (p0 : BitVec 6) (p1 : BitVec 6) (p2 : BitVec 6) (p3 : BitVec 6) (p4 : BitVec 6) (p5 : BitVec 1) (p6 : BitVec 1) (w : BitVec 32) (h : p0 ++ p1 ++ p2 ++ p3 ++ p4 ++ p5 ++ p6 = w) :
    w.extractLsb' 0 1 = p6 ∧
      w.extractLsb' 1 1 = p5 ∧
      w.extractLsb' 8 6 = p3 ∧
      w.extractLsb' 14 6 = p2 ∧
      w.extractLsb' 20 6 = p1 ∧
      w.extractLsb' 26 5 = p0.extractLsb' 0 5 := by
  subst h
  exact ⟨(loPart _ _ 0 1 (by decide)).trans (BitVec.extractLsb'_eq_self), (hiPart _ _ 1 1 (by decide)).trans ((loPart _ _ 0 1 (by decide)).trans (BitVec.extractLsb'_eq_self)), (hiPart _ _ 8 6 (by decide)).trans ((hiPart _ _ 7 6 (by decide)).trans ((hiPart _ _ 6 6 (by decide)).trans ((loPart _ _ 0 6 (by decide)).trans (BitVec.extractLsb'_eq_self)))), (hiPart _ _ 14 6 (by decide)).trans ((hiPart _ _ 13 6 (by decide)).trans ((hiPart _ _ 12 6 (by decide)).trans ((hiPart _ _ 6 6 (by decide)).trans ((loPart _ _ 0 6 (by decide)).trans (BitVec.extractLsb'_eq_self))))), (hiPart _ _ 20 6 (by decide)).trans ((hiPart _ _ 19 6 (by decide)).trans ((hiPart _ _ 18 6 (by decide)).trans ((hiPart _ _ 12 6 (by decide)).trans ((hiPart _ _ 6 6 (by decide)).trans ((loPart _ _ 0 6 (by decide)).trans (BitVec.extractLsb'_eq_self)))))), (hiPart _ _ 26 5 (by decide)).trans ((hiPart _ _ 25 5 (by decide)).trans ((hiPart _ _ 24 5 (by decide)).trans ((hiPart _ _ 18 5 (by decide)).trans ((hiPart _ _ 12 5 (by decide)).trans (hiPart _ _ 6 5 (by decide))))))⟩

theorem wideShape26 (p0 : BitVec 6) (p1 : BitVec 6) (p2 : BitVec 13) (p3 : BitVec 4) (p4 : BitVec 3) (w : BitVec 32) (h : p0 ++ p1 ++ p2 ++ p3 ++ p4 = w) :
    w.extractLsb' 0 3 = p4 ∧
      w.extractLsb' 3 4 = p3 ∧
      w.extractLsb' 7 2 = p2.extractLsb' 0 2 ∧
      w.extractLsb' 7 13 = p2 ∧
      w.extractLsb' 9 1 = p2.extractLsb' 2 1 ∧
      w.extractLsb' 10 10 = p2.extractLsb' 3 10 ∧
      w.extractLsb' 20 6 = p1 ∧
      w.extractLsb' 26 5 = p0.extractLsb' 0 5 := by
  subst h
  exact ⟨(loPart _ _ 0 3 (by decide)).trans (BitVec.extractLsb'_eq_self), (hiPart _ _ 3 4 (by decide)).trans ((loPart _ _ 0 4 (by decide)).trans (BitVec.extractLsb'_eq_self)), (hiPart _ _ 7 2 (by decide)).trans ((hiPart _ _ 4 2 (by decide)).trans (loPart _ _ 0 2 (by decide))), (hiPart _ _ 7 13 (by decide)).trans ((hiPart _ _ 4 13 (by decide)).trans ((loPart _ _ 0 13 (by decide)).trans (BitVec.extractLsb'_eq_self))), (hiPart _ _ 9 1 (by decide)).trans ((hiPart _ _ 6 1 (by decide)).trans (loPart _ _ 2 1 (by decide))), (hiPart _ _ 10 10 (by decide)).trans ((hiPart _ _ 7 10 (by decide)).trans (loPart _ _ 3 10 (by decide))), (hiPart _ _ 20 6 (by decide)).trans ((hiPart _ _ 17 6 (by decide)).trans ((hiPart _ _ 13 6 (by decide)).trans ((loPart _ _ 0 6 (by decide)).trans (BitVec.extractLsb'_eq_self)))), (hiPart _ _ 26 5 (by decide)).trans ((hiPart _ _ 23 5 (by decide)).trans ((hiPart _ _ 19 5 (by decide)).trans (hiPart _ _ 6 5 (by decide))))⟩

theorem wideShape27 (p0 : BitVec 25) (p1 : BitVec 4) (p2 : BitVec 3) (w : BitVec 32) (h : p0 ++ p1 ++ p2 = w) :
    w.extractLsb' 0 3 = p2 ∧
      w.extractLsb' 3 4 = p1 ∧
      w.extractLsb' 7 2 = p0.extractLsb' 0 2 ∧
      w.extractLsb' 7 19 = p0.extractLsb' 0 19 ∧
      w.extractLsb' 9 1 = p0.extractLsb' 2 1 ∧
      w.extractLsb' 10 10 = p0.extractLsb' 3 10 ∧
      w.extractLsb' 20 6 = p0.extractLsb' 13 6 ∧
      w.extractLsb' 26 5 = p0.extractLsb' 19 5 := by
  subst h
  exact ⟨(loPart _ _ 0 3 (by decide)).trans (BitVec.extractLsb'_eq_self), (hiPart _ _ 3 4 (by decide)).trans ((loPart _ _ 0 4 (by decide)).trans (BitVec.extractLsb'_eq_self)), (hiPart _ _ 7 2 (by decide)).trans (hiPart _ _ 4 2 (by decide)), (hiPart _ _ 7 19 (by decide)).trans (hiPart _ _ 4 19 (by decide)), (hiPart _ _ 9 1 (by decide)).trans (hiPart _ _ 6 1 (by decide)), (hiPart _ _ 10 10 (by decide)).trans (hiPart _ _ 7 10 (by decide)), (hiPart _ _ 20 6 (by decide)).trans (hiPart _ _ 17 6 (by decide)), (hiPart _ _ 26 5 (by decide)).trans (hiPart _ _ 23 5 (by decide))⟩

theorem wideShape28 (p0 : BitVec 6) (p1 : BitVec 6) (p2 : BitVec 11) (p3 : BitVec 2) (p4 : BitVec 4) (p5 : BitVec 3) (w : BitVec 32) (h : p0 ++ p1 ++ p2 ++ p3 ++ p4 ++ p5 = w) :
    w.extractLsb' 0 3 = p5 ∧
      w.extractLsb' 3 4 = p4 ∧
      w.extractLsb' 7 2 = p3 ∧
      w.extractLsb' 9 1 = p2.extractLsb' 0 1 ∧
      w.extractLsb' 9 11 = p2 ∧
      w.extractLsb' 10 10 = p2.extractLsb' 1 10 ∧
      w.extractLsb' 20 6 = p1 ∧
      w.extractLsb' 26 5 = p0.extractLsb' 0 5 := by
  subst h
  exact ⟨(loPart _ _ 0 3 (by decide)).trans (BitVec.extractLsb'_eq_self), (hiPart _ _ 3 4 (by decide)).trans ((loPart _ _ 0 4 (by decide)).trans (BitVec.extractLsb'_eq_self)), (hiPart _ _ 7 2 (by decide)).trans ((hiPart _ _ 4 2 (by decide)).trans ((loPart _ _ 0 2 (by decide)).trans (BitVec.extractLsb'_eq_self))), (hiPart _ _ 9 1 (by decide)).trans ((hiPart _ _ 6 1 (by decide)).trans ((hiPart _ _ 2 1 (by decide)).trans (loPart _ _ 0 1 (by decide)))), (hiPart _ _ 9 11 (by decide)).trans ((hiPart _ _ 6 11 (by decide)).trans ((hiPart _ _ 2 11 (by decide)).trans ((loPart _ _ 0 11 (by decide)).trans (BitVec.extractLsb'_eq_self)))), (hiPart _ _ 10 10 (by decide)).trans ((hiPart _ _ 7 10 (by decide)).trans ((hiPart _ _ 3 10 (by decide)).trans (loPart _ _ 1 10 (by decide)))), (hiPart _ _ 20 6 (by decide)).trans ((hiPart _ _ 17 6 (by decide)).trans ((hiPart _ _ 13 6 (by decide)).trans ((hiPart _ _ 11 6 (by decide)).trans ((loPart _ _ 0 6 (by decide)).trans (BitVec.extractLsb'_eq_self))))), (hiPart _ _ 26 5 (by decide)).trans ((hiPart _ _ 23 5 (by decide)).trans ((hiPart _ _ 19 5 (by decide)).trans ((hiPart _ _ 17 5 (by decide)).trans (hiPart _ _ 6 5 (by decide)))))⟩

theorem wideShape29 (p0 : BitVec 6) (p1 : BitVec 6) (p2 : BitVec 10) (p3 : BitVec 3) (p4 : BitVec 4) (p5 : BitVec 3) (w : BitVec 32) (h : p0 ++ p1 ++ p2 ++ p3 ++ p4 ++ p5 = w) :
    w.extractLsb' 0 3 = p5 ∧
      w.extractLsb' 3 4 = p4 ∧
      w.extractLsb' 7 2 = p3.extractLsb' 0 2 ∧
      w.extractLsb' 9 1 = p3.extractLsb' 2 1 ∧
      w.extractLsb' 10 10 = p2 ∧
      w.extractLsb' 20 6 = p1 ∧
      w.extractLsb' 26 5 = p0.extractLsb' 0 5 := by
  subst h
  exact ⟨(loPart _ _ 0 3 (by decide)).trans (BitVec.extractLsb'_eq_self), (hiPart _ _ 3 4 (by decide)).trans ((loPart _ _ 0 4 (by decide)).trans (BitVec.extractLsb'_eq_self)), (hiPart _ _ 7 2 (by decide)).trans ((hiPart _ _ 4 2 (by decide)).trans (loPart _ _ 0 2 (by decide))), (hiPart _ _ 9 1 (by decide)).trans ((hiPart _ _ 6 1 (by decide)).trans (loPart _ _ 2 1 (by decide))), (hiPart _ _ 10 10 (by decide)).trans ((hiPart _ _ 7 10 (by decide)).trans ((hiPart _ _ 3 10 (by decide)).trans ((loPart _ _ 0 10 (by decide)).trans (BitVec.extractLsb'_eq_self)))), (hiPart _ _ 20 6 (by decide)).trans ((hiPart _ _ 17 6 (by decide)).trans ((hiPart _ _ 13 6 (by decide)).trans ((hiPart _ _ 10 6 (by decide)).trans ((loPart _ _ 0 6 (by decide)).trans (BitVec.extractLsb'_eq_self))))), (hiPart _ _ 26 5 (by decide)).trans ((hiPart _ _ 23 5 (by decide)).trans ((hiPart _ _ 19 5 (by decide)).trans ((hiPart _ _ 16 5 (by decide)).trans (hiPart _ _ 6 5 (by decide)))))⟩

theorem wideShape30 (p0 : BitVec 6) (p1 : BitVec 6) (p2 : BitVec 10) (p3 : BitVec 1) (p4 : BitVec 6) (p5 : BitVec 3) (w : BitVec 32) (h : p0 ++ p1 ++ p2 ++ p3 ++ p4 ++ p5 = w) :
    w.extractLsb' 0 3 = p5 ∧
      w.extractLsb' 3 4 = p4.extractLsb' 0 4 ∧
      w.extractLsb' 3 6 = p4 ∧
      w.extractLsb' 7 2 = p4.extractLsb' 4 2 ∧
      w.extractLsb' 9 1 = p3 ∧
      w.extractLsb' 10 10 = p2 ∧
      w.extractLsb' 20 6 = p1 ∧
      w.extractLsb' 26 5 = p0.extractLsb' 0 5 := by
  subst h
  exact ⟨(loPart _ _ 0 3 (by decide)).trans (BitVec.extractLsb'_eq_self), (hiPart _ _ 3 4 (by decide)).trans (loPart _ _ 0 4 (by decide)), (hiPart _ _ 3 6 (by decide)).trans ((loPart _ _ 0 6 (by decide)).trans (BitVec.extractLsb'_eq_self)), (hiPart _ _ 7 2 (by decide)).trans (loPart _ _ 4 2 (by decide)), (hiPart _ _ 9 1 (by decide)).trans ((hiPart _ _ 6 1 (by decide)).trans ((loPart _ _ 0 1 (by decide)).trans (BitVec.extractLsb'_eq_self))), (hiPart _ _ 10 10 (by decide)).trans ((hiPart _ _ 7 10 (by decide)).trans ((hiPart _ _ 1 10 (by decide)).trans ((loPart _ _ 0 10 (by decide)).trans (BitVec.extractLsb'_eq_self)))), (hiPart _ _ 20 6 (by decide)).trans ((hiPart _ _ 17 6 (by decide)).trans ((hiPart _ _ 11 6 (by decide)).trans ((hiPart _ _ 10 6 (by decide)).trans ((loPart _ _ 0 6 (by decide)).trans (BitVec.extractLsb'_eq_self))))), (hiPart _ _ 26 5 (by decide)).trans ((hiPart _ _ 23 5 (by decide)).trans ((hiPart _ _ 17 5 (by decide)).trans ((hiPart _ _ 16 5 (by decide)).trans (hiPart _ _ 6 5 (by decide)))))⟩

theorem wideShape31 (p0 : BitVec 6) (p1 : BitVec 4) (p2 : BitVec 10) (p3 : BitVec 12) (w : BitVec 32) (h : p0 ++ p1 ++ p2 ++ p3 = w) :
    w.extractLsb' 0 3 = p3.extractLsb' 0 3 ∧
      w.extractLsb' 3 6 = p3.extractLsb' 3 6 ∧
      w.extractLsb' 3 9 = p3.extractLsb' 3 9 ∧
      w.extractLsb' 9 2 = p3.extractLsb' 9 2 ∧
      w.extractLsb' 12 10 = p2 ∧
      w.extractLsb' 22 4 = p1 ∧
      w.extractLsb' 26 5 = p0.extractLsb' 0 5 := by
  subst h
  exact ⟨loPart _ _ 0 3 (by decide), loPart _ _ 3 6 (by decide), loPart _ _ 3 9 (by decide), loPart _ _ 9 2 (by decide), (hiPart _ _ 12 10 (by decide)).trans ((loPart _ _ 0 10 (by decide)).trans (BitVec.extractLsb'_eq_self)), (hiPart _ _ 22 4 (by decide)).trans ((hiPart _ _ 10 4 (by decide)).trans ((loPart _ _ 0 4 (by decide)).trans (BitVec.extractLsb'_eq_self))), (hiPart _ _ 26 5 (by decide)).trans ((hiPart _ _ 14 5 (by decide)).trans (hiPart _ _ 4 5 (by decide)))⟩

theorem wideShape32 (p0 : BitVec 6) (p1 : BitVec 4) (p2 : BitVec 10) (p3 : BitVec 1) (p4 : BitVec 2) (p5 : BitVec 6) (p6 : BitVec 3) (w : BitVec 32) (h : p0 ++ p1 ++ p2 ++ p3 ++ p4 ++ p5 ++ p6 = w) :
    w.extractLsb' 0 3 = p6 ∧
      w.extractLsb' 3 6 = p5 ∧
      w.extractLsb' 9 2 = p4 ∧
      w.extractLsb' 11 1 = p3 ∧
      w.extractLsb' 12 10 = p2 ∧
      w.extractLsb' 22 4 = p1 ∧
      w.extractLsb' 26 5 = p0.extractLsb' 0 5 := by
  subst h
  exact ⟨(loPart _ _ 0 3 (by decide)).trans (BitVec.extractLsb'_eq_self), (hiPart _ _ 3 6 (by decide)).trans ((loPart _ _ 0 6 (by decide)).trans (BitVec.extractLsb'_eq_self)), (hiPart _ _ 9 2 (by decide)).trans ((hiPart _ _ 6 2 (by decide)).trans ((loPart _ _ 0 2 (by decide)).trans (BitVec.extractLsb'_eq_self))), (hiPart _ _ 11 1 (by decide)).trans ((hiPart _ _ 8 1 (by decide)).trans ((hiPart _ _ 2 1 (by decide)).trans ((loPart _ _ 0 1 (by decide)).trans (BitVec.extractLsb'_eq_self)))), (hiPart _ _ 12 10 (by decide)).trans ((hiPart _ _ 9 10 (by decide)).trans ((hiPart _ _ 3 10 (by decide)).trans ((hiPart _ _ 1 10 (by decide)).trans ((loPart _ _ 0 10 (by decide)).trans (BitVec.extractLsb'_eq_self))))), (hiPart _ _ 22 4 (by decide)).trans ((hiPart _ _ 19 4 (by decide)).trans ((hiPart _ _ 13 4 (by decide)).trans ((hiPart _ _ 11 4 (by decide)).trans ((hiPart _ _ 10 4 (by decide)).trans ((loPart _ _ 0 4 (by decide)).trans (BitVec.extractLsb'_eq_self)))))), (hiPart _ _ 26 5 (by decide)).trans ((hiPart _ _ 23 5 (by decide)).trans ((hiPart _ _ 17 5 (by decide)).trans ((hiPart _ _ 15 5 (by decide)).trans ((hiPart _ _ 14 5 (by decide)).trans (hiPart _ _ 4 5 (by decide))))))⟩

theorem wideShape33 (p0 : BitVec 6) (p1 : BitVec 4) (p2 : BitVec 11) (p3 : BitVec 2) (p4 : BitVec 6) (p5 : BitVec 3) (w : BitVec 32) (h : p0 ++ p1 ++ p2 ++ p3 ++ p4 ++ p5 = w) :
    w.extractLsb' 0 3 = p5 ∧
      w.extractLsb' 3 6 = p4 ∧
      w.extractLsb' 9 2 = p3 ∧
      w.extractLsb' 11 11 = p2 ∧
      w.extractLsb' 12 10 = p2.extractLsb' 1 10 ∧
      w.extractLsb' 22 4 = p1 ∧
      w.extractLsb' 26 5 = p0.extractLsb' 0 5 := by
  subst h
  exact ⟨(loPart _ _ 0 3 (by decide)).trans (BitVec.extractLsb'_eq_self), (hiPart _ _ 3 6 (by decide)).trans ((loPart _ _ 0 6 (by decide)).trans (BitVec.extractLsb'_eq_self)), (hiPart _ _ 9 2 (by decide)).trans ((hiPart _ _ 6 2 (by decide)).trans ((loPart _ _ 0 2 (by decide)).trans (BitVec.extractLsb'_eq_self))), (hiPart _ _ 11 11 (by decide)).trans ((hiPart _ _ 8 11 (by decide)).trans ((hiPart _ _ 2 11 (by decide)).trans ((loPart _ _ 0 11 (by decide)).trans (BitVec.extractLsb'_eq_self)))), (hiPart _ _ 12 10 (by decide)).trans ((hiPart _ _ 9 10 (by decide)).trans ((hiPart _ _ 3 10 (by decide)).trans (loPart _ _ 1 10 (by decide)))), (hiPart _ _ 22 4 (by decide)).trans ((hiPart _ _ 19 4 (by decide)).trans ((hiPart _ _ 13 4 (by decide)).trans ((hiPart _ _ 11 4 (by decide)).trans ((loPart _ _ 0 4 (by decide)).trans (BitVec.extractLsb'_eq_self))))), (hiPart _ _ 26 5 (by decide)).trans ((hiPart _ _ 23 5 (by decide)).trans ((hiPart _ _ 17 5 (by decide)).trans ((hiPart _ _ 15 5 (by decide)).trans (hiPart _ _ 4 5 (by decide)))))⟩

theorem wideShape34 (p0 : BitVec 6) (p1 : BitVec 4) (p2 : BitVec 13) (p3 : BitVec 6) (p4 : BitVec 3) (w : BitVec 32) (h : p0 ++ p1 ++ p2 ++ p3 ++ p4 = w) :
    w.extractLsb' 0 3 = p4 ∧
      w.extractLsb' 3 6 = p3 ∧
      w.extractLsb' 9 2 = p2.extractLsb' 0 2 ∧
      w.extractLsb' 9 13 = p2 ∧
      w.extractLsb' 12 10 = p2.extractLsb' 3 10 ∧
      w.extractLsb' 22 4 = p1 ∧
      w.extractLsb' 26 5 = p0.extractLsb' 0 5 := by
  subst h
  exact ⟨(loPart _ _ 0 3 (by decide)).trans (BitVec.extractLsb'_eq_self), (hiPart _ _ 3 6 (by decide)).trans ((loPart _ _ 0 6 (by decide)).trans (BitVec.extractLsb'_eq_self)), (hiPart _ _ 9 2 (by decide)).trans ((hiPart _ _ 6 2 (by decide)).trans (loPart _ _ 0 2 (by decide))), (hiPart _ _ 9 13 (by decide)).trans ((hiPart _ _ 6 13 (by decide)).trans ((loPart _ _ 0 13 (by decide)).trans (BitVec.extractLsb'_eq_self))), (hiPart _ _ 12 10 (by decide)).trans ((hiPart _ _ 9 10 (by decide)).trans (loPart _ _ 3 10 (by decide))), (hiPart _ _ 22 4 (by decide)).trans ((hiPart _ _ 19 4 (by decide)).trans ((hiPart _ _ 13 4 (by decide)).trans ((loPart _ _ 0 4 (by decide)).trans (BitVec.extractLsb'_eq_self)))), (hiPart _ _ 26 5 (by decide)).trans ((hiPart _ _ 23 5 (by decide)).trans ((hiPart _ _ 17 5 (by decide)).trans (hiPart _ _ 4 5 (by decide))))⟩

theorem wideShape35 (p0 : BitVec 6) (p1 : BitVec 6) (p2 : BitVec 6) (p3 : BitVec 14) (w : BitVec 32) (h : p0 ++ p1 ++ p2 ++ p3 = w) :
    w.extractLsb' 0 8 = p3.extractLsb' 0 8 ∧
      w.extractLsb' 8 6 = p3.extractLsb' 8 6 ∧
      w.extractLsb' 14 6 = p2 ∧
      w.extractLsb' 20 6 = p1 ∧
      w.extractLsb' 26 5 = p0.extractLsb' 0 5 := by
  subst h
  exact ⟨loPart _ _ 0 8 (by decide), loPart _ _ 8 6 (by decide), (hiPart _ _ 14 6 (by decide)).trans ((loPart _ _ 0 6 (by decide)).trans (BitVec.extractLsb'_eq_self)), (hiPart _ _ 20 6 (by decide)).trans ((hiPart _ _ 6 6 (by decide)).trans ((loPart _ _ 0 6 (by decide)).trans (BitVec.extractLsb'_eq_self))), (hiPart _ _ 26 5 (by decide)).trans ((hiPart _ _ 12 5 (by decide)).trans (hiPart _ _ 6 5 (by decide)))⟩

theorem wideShape36 (p0 : BitVec 6) (p1 : BitVec 6) (p2 : BitVec 6) (p3 : BitVec 6) (p4 : BitVec 8) (w : BitVec 32) (h : p0 ++ p1 ++ p2 ++ p3 ++ p4 = w) :
    w.extractLsb' 0 8 = p4 ∧
      w.extractLsb' 8 6 = p3 ∧
      w.extractLsb' 14 6 = p2 ∧
      w.extractLsb' 20 6 = p1 ∧
      w.extractLsb' 26 5 = p0.extractLsb' 0 5 := by
  subst h
  exact ⟨(loPart _ _ 0 8 (by decide)).trans (BitVec.extractLsb'_eq_self), (hiPart _ _ 8 6 (by decide)).trans ((loPart _ _ 0 6 (by decide)).trans (BitVec.extractLsb'_eq_self)), (hiPart _ _ 14 6 (by decide)).trans ((hiPart _ _ 6 6 (by decide)).trans ((loPart _ _ 0 6 (by decide)).trans (BitVec.extractLsb'_eq_self))), (hiPart _ _ 20 6 (by decide)).trans ((hiPart _ _ 12 6 (by decide)).trans ((hiPart _ _ 6 6 (by decide)).trans ((loPart _ _ 0 6 (by decide)).trans (BitVec.extractLsb'_eq_self)))), (hiPart _ _ 26 5 (by decide)).trans ((hiPart _ _ 18 5 (by decide)).trans ((hiPart _ _ 12 5 (by decide)).trans (hiPart _ _ 6 5 (by decide))))⟩

theorem wideShape37 (p0 : BitVec 12) (p1 : BitVec 6) (p2 : BitVec 14) (w : BitVec 32) (h : p0 ++ p1 ++ p2 = w) :
    w.extractLsb' 0 8 = p2.extractLsb' 0 8 ∧
      w.extractLsb' 8 6 = p2.extractLsb' 8 6 ∧
      w.extractLsb' 14 6 = p1 ∧
      w.extractLsb' 20 6 = p0.extractLsb' 0 6 ∧
      w.extractLsb' 26 5 = p0.extractLsb' 6 5 := by
  subst h
  exact ⟨loPart _ _ 0 8 (by decide), loPart _ _ 8 6 (by decide), (hiPart _ _ 14 6 (by decide)).trans ((loPart _ _ 0 6 (by decide)).trans (BitVec.extractLsb'_eq_self)), (hiPart _ _ 20 6 (by decide)).trans (hiPart _ _ 6 6 (by decide)), (hiPart _ _ 26 5 (by decide)).trans (hiPart _ _ 12 5 (by decide))⟩

theorem wideShape38 (p0 : BitVec 6) (p1 : BitVec 7) (p2 : BitVec 7) (p3 : BitVec 7) (p4 : BitVec 5) (w : BitVec 32) (h : p0 ++ p1 ++ p2 ++ p3 ++ p4 = w) :
    w.extractLsb' 0 5 = p4 ∧
      w.extractLsb' 5 7 = p3 ∧
      w.extractLsb' 12 7 = p2 ∧
      w.extractLsb' 19 7 = p1 ∧
      w.extractLsb' 26 5 = p0.extractLsb' 0 5 := by
  subst h
  exact ⟨(loPart _ _ 0 5 (by decide)).trans (BitVec.extractLsb'_eq_self), (hiPart _ _ 5 7 (by decide)).trans ((loPart _ _ 0 7 (by decide)).trans (BitVec.extractLsb'_eq_self)), (hiPart _ _ 12 7 (by decide)).trans ((hiPart _ _ 7 7 (by decide)).trans ((loPart _ _ 0 7 (by decide)).trans (BitVec.extractLsb'_eq_self))), (hiPart _ _ 19 7 (by decide)).trans ((hiPart _ _ 14 7 (by decide)).trans ((hiPart _ _ 7 7 (by decide)).trans ((loPart _ _ 0 7 (by decide)).trans (BitVec.extractLsb'_eq_self)))), (hiPart _ _ 26 5 (by decide)).trans ((hiPart _ _ 21 5 (by decide)).trans ((hiPart _ _ 14 5 (by decide)).trans (hiPart _ _ 7 5 (by decide))))⟩

theorem wideShape39 (p0 : BitVec 6) (p1 : BitVec 7) (p2 : BitVec 7) (p3 : BitVec 12) (w : BitVec 32) (h : p0 ++ p1 ++ p2 ++ p3 = w) :
    w.extractLsb' 0 5 = p3.extractLsb' 0 5 ∧
      w.extractLsb' 5 7 = p3.extractLsb' 5 7 ∧
      w.extractLsb' 12 7 = p2 ∧
      w.extractLsb' 19 7 = p1 ∧
      w.extractLsb' 26 5 = p0.extractLsb' 0 5 := by
  subst h
  exact ⟨loPart _ _ 0 5 (by decide), loPart _ _ 5 7 (by decide), (hiPart _ _ 12 7 (by decide)).trans ((loPart _ _ 0 7 (by decide)).trans (BitVec.extractLsb'_eq_self)), (hiPart _ _ 19 7 (by decide)).trans ((hiPart _ _ 7 7 (by decide)).trans ((loPart _ _ 0 7 (by decide)).trans (BitVec.extractLsb'_eq_self))), (hiPart _ _ 26 5 (by decide)).trans ((hiPart _ _ 14 5 (by decide)).trans (hiPart _ _ 7 5 (by decide)))⟩

theorem wideShape40 (p0 : BitVec 6) (p1 : BitVec 7) (p2 : BitVec 19) (w : BitVec 32) (h : p0 ++ p1 ++ p2 = w) :
    w.extractLsb' 0 5 = p2.extractLsb' 0 5 ∧
      w.extractLsb' 5 7 = p2.extractLsb' 5 7 ∧
      w.extractLsb' 5 14 = p2.extractLsb' 5 14 ∧
      w.extractLsb' 12 7 = p2.extractLsb' 12 7 ∧
      w.extractLsb' 19 7 = p1 ∧
      w.extractLsb' 26 5 = p0.extractLsb' 0 5 := by
  subst h
  exact ⟨loPart _ _ 0 5 (by decide), loPart _ _ 5 7 (by decide), loPart _ _ 5 14 (by decide), loPart _ _ 12 7 (by decide), (hiPart _ _ 19 7 (by decide)).trans ((loPart _ _ 0 7 (by decide)).trans (BitVec.extractLsb'_eq_self)), (hiPart _ _ 26 5 (by decide)).trans (hiPart _ _ 7 5 (by decide))⟩

theorem wideShape41 (p0 : BitVec 6) (p1 : BitVec 7) (p2 : BitVec 7) (p3 : BitVec 4) (p4 : BitVec 3) (p5 : BitVec 1) (p6 : BitVec 4) (w : BitVec 32) (h : p0 ++ p1 ++ p2 ++ p3 ++ p4 ++ p5 ++ p6 = w) :
    w.extractLsb' 0 4 = p6 ∧
      w.extractLsb' 4 1 = p5 ∧
      w.extractLsb' 5 3 = p4 ∧
      w.extractLsb' 8 4 = p3 ∧
      w.extractLsb' 12 7 = p2 ∧
      w.extractLsb' 19 7 = p1 ∧
      w.extractLsb' 26 5 = p0.extractLsb' 0 5 := by
  subst h
  exact ⟨(loPart _ _ 0 4 (by decide)).trans (BitVec.extractLsb'_eq_self), (hiPart _ _ 4 1 (by decide)).trans ((loPart _ _ 0 1 (by decide)).trans (BitVec.extractLsb'_eq_self)), (hiPart _ _ 5 3 (by decide)).trans ((hiPart _ _ 1 3 (by decide)).trans ((loPart _ _ 0 3 (by decide)).trans (BitVec.extractLsb'_eq_self))), (hiPart _ _ 8 4 (by decide)).trans ((hiPart _ _ 4 4 (by decide)).trans ((hiPart _ _ 3 4 (by decide)).trans ((loPart _ _ 0 4 (by decide)).trans (BitVec.extractLsb'_eq_self)))), (hiPart _ _ 12 7 (by decide)).trans ((hiPart _ _ 8 7 (by decide)).trans ((hiPart _ _ 7 7 (by decide)).trans ((hiPart _ _ 4 7 (by decide)).trans ((loPart _ _ 0 7 (by decide)).trans (BitVec.extractLsb'_eq_self))))), (hiPart _ _ 19 7 (by decide)).trans ((hiPart _ _ 15 7 (by decide)).trans ((hiPart _ _ 14 7 (by decide)).trans ((hiPart _ _ 11 7 (by decide)).trans ((hiPart _ _ 7 7 (by decide)).trans ((loPart _ _ 0 7 (by decide)).trans (BitVec.extractLsb'_eq_self)))))), (hiPart _ _ 26 5 (by decide)).trans ((hiPart _ _ 22 5 (by decide)).trans ((hiPart _ _ 21 5 (by decide)).trans ((hiPart _ _ 18 5 (by decide)).trans ((hiPart _ _ 14 5 (by decide)).trans (hiPart _ _ 7 5 (by decide))))))⟩

theorem wideShape42 (p0 : BitVec 6) (p1 : BitVec 6) (p2 : BitVec 17) (p3 : BitVec 3) (w : BitVec 32) (h : p0 ++ p1 ++ p2 ++ p3 = w) :
    w.extractLsb' 0 3 = p3 ∧
      w.extractLsb' 3 17 = p2 ∧
      w.extractLsb' 20 6 = p1 ∧
      w.extractLsb' 26 5 = p0.extractLsb' 0 5 := by
  subst h
  exact ⟨(loPart _ _ 0 3 (by decide)).trans (BitVec.extractLsb'_eq_self), (hiPart _ _ 3 17 (by decide)).trans ((loPart _ _ 0 17 (by decide)).trans (BitVec.extractLsb'_eq_self)), (hiPart _ _ 20 6 (by decide)).trans ((hiPart _ _ 17 6 (by decide)).trans ((loPart _ _ 0 6 (by decide)).trans (BitVec.extractLsb'_eq_self))), (hiPart _ _ 26 5 (by decide)).trans ((hiPart _ _ 23 5 (by decide)).trans (hiPart _ _ 6 5 (by decide)))⟩

theorem wideShape43 (p0 : BitVec 6) (p1 : BitVec 6) (p2 : BitVec 20) (w : BitVec 32) (h : p0 ++ p1 ++ p2 = w) :
    w.extractLsb' 0 3 = p2.extractLsb' 0 3 ∧
      w.extractLsb' 3 17 = p2.extractLsb' 3 17 ∧
      w.extractLsb' 20 6 = p1 ∧
      w.extractLsb' 26 5 = p0.extractLsb' 0 5 := by
  subst h
  exact ⟨loPart _ _ 0 3 (by decide), loPart _ _ 3 17 (by decide), (hiPart _ _ 20 6 (by decide)).trans ((loPart _ _ 0 6 (by decide)).trans (BitVec.extractLsb'_eq_self)), (hiPart _ _ 26 5 (by decide)).trans (hiPart _ _ 6 5 (by decide))⟩

theorem wideShape44 (p0 : BitVec 13) (p1 : BitVec 7) (p2 : BitVec 7) (p3 : BitVec 5) (w : BitVec 32) (h : p0 ++ p1 ++ p2 ++ p3 = w) :
    w.extractLsb' 0 5 = p3 ∧
      w.extractLsb' 5 7 = p2 ∧
      w.extractLsb' 12 7 = p1 ∧
      w.extractLsb' 19 7 = p0.extractLsb' 0 7 ∧
      w.extractLsb' 26 5 = p0.extractLsb' 7 5 := by
  subst h
  exact ⟨(loPart _ _ 0 5 (by decide)).trans (BitVec.extractLsb'_eq_self), (hiPart _ _ 5 7 (by decide)).trans ((loPart _ _ 0 7 (by decide)).trans (BitVec.extractLsb'_eq_self)), (hiPart _ _ 12 7 (by decide)).trans ((hiPart _ _ 7 7 (by decide)).trans ((loPart _ _ 0 7 (by decide)).trans (BitVec.extractLsb'_eq_self))), (hiPart _ _ 19 7 (by decide)).trans ((hiPart _ _ 14 7 (by decide)).trans (hiPart _ _ 7 7 (by decide))), (hiPart _ _ 26 5 (by decide)).trans ((hiPart _ _ 21 5 (by decide)).trans (hiPart _ _ 14 5 (by decide)))⟩

theorem wideShape45 (p0 : BitVec 13) (p1 : BitVec 7) (p2 : BitVec 12) (w : BitVec 32) (h : p0 ++ p1 ++ p2 = w) :
    w.extractLsb' 0 5 = p2.extractLsb' 0 5 ∧
      w.extractLsb' 5 7 = p2.extractLsb' 5 7 ∧
      w.extractLsb' 12 7 = p1 ∧
      w.extractLsb' 19 7 = p0.extractLsb' 0 7 ∧
      w.extractLsb' 26 5 = p0.extractLsb' 7 5 := by
  subst h
  exact ⟨loPart _ _ 0 5 (by decide), loPart _ _ 5 7 (by decide), (hiPart _ _ 12 7 (by decide)).trans ((loPart _ _ 0 7 (by decide)).trans (BitVec.extractLsb'_eq_self)), (hiPart _ _ 19 7 (by decide)).trans (hiPart _ _ 7 7 (by decide)), (hiPart _ _ 26 5 (by decide)).trans (hiPart _ _ 14 5 (by decide))⟩

theorem wideShape46 (p0 : BitVec 6) (p1 : BitVec 6) (p2 : BitVec 11) (p3 : BitVec 6) (p4 : BitVec 3) (w : BitVec 32) (h : p0 ++ p1 ++ p2 ++ p3 ++ p4 = w) :
    w.extractLsb' 0 3 = p4 ∧
      w.extractLsb' 3 6 = p3 ∧
      w.extractLsb' 9 11 = p2 ∧
      w.extractLsb' 20 6 = p1 ∧
      w.extractLsb' 26 5 = p0.extractLsb' 0 5 := by
  subst h
  exact ⟨(loPart _ _ 0 3 (by decide)).trans (BitVec.extractLsb'_eq_self), (hiPart _ _ 3 6 (by decide)).trans ((loPart _ _ 0 6 (by decide)).trans (BitVec.extractLsb'_eq_self)), (hiPart _ _ 9 11 (by decide)).trans ((hiPart _ _ 6 11 (by decide)).trans ((loPart _ _ 0 11 (by decide)).trans (BitVec.extractLsb'_eq_self))), (hiPart _ _ 20 6 (by decide)).trans ((hiPart _ _ 17 6 (by decide)).trans ((hiPart _ _ 11 6 (by decide)).trans ((loPart _ _ 0 6 (by decide)).trans (BitVec.extractLsb'_eq_self)))), (hiPart _ _ 26 5 (by decide)).trans ((hiPart _ _ 23 5 (by decide)).trans ((hiPart _ _ 17 5 (by decide)).trans (hiPart _ _ 6 5 (by decide))))⟩

theorem wideShape47 (p0 : BitVec 6) (p1 : BitVec 6) (p2 : BitVec 20) (w : BitVec 32) (h : p0 ++ p1 ++ p2 = w) :
    w.extractLsb' 0 3 = p2.extractLsb' 0 3 ∧
      w.extractLsb' 3 6 = p2.extractLsb' 3 6 ∧
      w.extractLsb' 3 17 = p2.extractLsb' 3 17 ∧
      w.extractLsb' 20 6 = p1 ∧
      w.extractLsb' 26 5 = p0.extractLsb' 0 5 := by
  subst h
  exact ⟨loPart _ _ 0 3 (by decide), loPart _ _ 3 6 (by decide), loPart _ _ 3 17 (by decide), (hiPart _ _ 20 6 (by decide)).trans ((loPart _ _ 0 6 (by decide)).trans (BitVec.extractLsb'_eq_self)), (hiPart _ _ 26 5 (by decide)).trans (hiPart _ _ 6 5 (by decide))⟩

theorem wideShape48 (p0 : BitVec 6) (p1 : BitVec 6) (p2 : BitVec 6) (p3 : BitVec 6) (p4 : BitVec 8) (w : BitVec 32) (h : p0 ++ p1 ++ p2 ++ p3 ++ p4 = w) :
    w.extractLsb' 0 2 = p4.extractLsb' 0 2 ∧
      w.extractLsb' 0 3 = p4.extractLsb' 0 3 ∧
      w.extractLsb' 0 8 = p4 ∧
      w.extractLsb' 8 6 = p3 ∧
      w.extractLsb' 14 6 = p2 ∧
      w.extractLsb' 20 6 = p1 ∧
      w.extractLsb' 26 5 = p0.extractLsb' 0 5 := by
  subst h
  exact ⟨loPart _ _ 0 2 (by decide), loPart _ _ 0 3 (by decide), (loPart _ _ 0 8 (by decide)).trans (BitVec.extractLsb'_eq_self), (hiPart _ _ 8 6 (by decide)).trans ((loPart _ _ 0 6 (by decide)).trans (BitVec.extractLsb'_eq_self)), (hiPart _ _ 14 6 (by decide)).trans ((hiPart _ _ 6 6 (by decide)).trans ((loPart _ _ 0 6 (by decide)).trans (BitVec.extractLsb'_eq_self))), (hiPart _ _ 20 6 (by decide)).trans ((hiPart _ _ 12 6 (by decide)).trans ((hiPart _ _ 6 6 (by decide)).trans ((loPart _ _ 0 6 (by decide)).trans (BitVec.extractLsb'_eq_self)))), (hiPart _ _ 26 5 (by decide)).trans ((hiPart _ _ 18 5 (by decide)).trans ((hiPart _ _ 12 5 (by decide)).trans (hiPart _ _ 6 5 (by decide))))⟩

theorem wideShape49 (p0 : BitVec 6) (p1 : BitVec 6) (p2 : BitVec 6) (p3 : BitVec 6) (p4 : BitVec 5) (p5 : BitVec 3) (w : BitVec 32) (h : p0 ++ p1 ++ p2 ++ p3 ++ p4 ++ p5 = w) :
    w.extractLsb' 0 2 = p5.extractLsb' 0 2 ∧
      w.extractLsb' 0 3 = p5 ∧
      w.extractLsb' 8 6 = p3 ∧
      w.extractLsb' 14 6 = p2 ∧
      w.extractLsb' 20 6 = p1 ∧
      w.extractLsb' 26 5 = p0.extractLsb' 0 5 := by
  subst h
  exact ⟨loPart _ _ 0 2 (by decide), (loPart _ _ 0 3 (by decide)).trans (BitVec.extractLsb'_eq_self), (hiPart _ _ 8 6 (by decide)).trans ((hiPart _ _ 5 6 (by decide)).trans ((loPart _ _ 0 6 (by decide)).trans (BitVec.extractLsb'_eq_self))), (hiPart _ _ 14 6 (by decide)).trans ((hiPart _ _ 11 6 (by decide)).trans ((hiPart _ _ 6 6 (by decide)).trans ((loPart _ _ 0 6 (by decide)).trans (BitVec.extractLsb'_eq_self)))), (hiPart _ _ 20 6 (by decide)).trans ((hiPart _ _ 17 6 (by decide)).trans ((hiPart _ _ 12 6 (by decide)).trans ((hiPart _ _ 6 6 (by decide)).trans ((loPart _ _ 0 6 (by decide)).trans (BitVec.extractLsb'_eq_self))))), (hiPart _ _ 26 5 (by decide)).trans ((hiPart _ _ 23 5 (by decide)).trans ((hiPart _ _ 18 5 (by decide)).trans ((hiPart _ _ 12 5 (by decide)).trans (hiPart _ _ 6 5 (by decide)))))⟩

theorem wideShape50 (p0 : BitVec 6) (p1 : BitVec 6) (p2 : BitVec 6) (p3 : BitVec 6) (p4 : BitVec 6) (p5 : BitVec 2) (w : BitVec 32) (h : p0 ++ p1 ++ p2 ++ p3 ++ p4 ++ p5 = w) :
    w.extractLsb' 0 2 = p5 ∧
      w.extractLsb' 8 6 = p3 ∧
      w.extractLsb' 14 6 = p2 ∧
      w.extractLsb' 20 6 = p1 ∧
      w.extractLsb' 26 5 = p0.extractLsb' 0 5 := by
  subst h
  exact ⟨(loPart _ _ 0 2 (by decide)).trans (BitVec.extractLsb'_eq_self), (hiPart _ _ 8 6 (by decide)).trans ((hiPart _ _ 6 6 (by decide)).trans ((loPart _ _ 0 6 (by decide)).trans (BitVec.extractLsb'_eq_self))), (hiPart _ _ 14 6 (by decide)).trans ((hiPart _ _ 12 6 (by decide)).trans ((hiPart _ _ 6 6 (by decide)).trans ((loPart _ _ 0 6 (by decide)).trans (BitVec.extractLsb'_eq_self)))), (hiPart _ _ 20 6 (by decide)).trans ((hiPart _ _ 18 6 (by decide)).trans ((hiPart _ _ 12 6 (by decide)).trans ((hiPart _ _ 6 6 (by decide)).trans ((loPart _ _ 0 6 (by decide)).trans (BitVec.extractLsb'_eq_self))))), (hiPart _ _ 26 5 (by decide)).trans ((hiPart _ _ 24 5 (by decide)).trans ((hiPart _ _ 18 5 (by decide)).trans ((hiPart _ _ 12 5 (by decide)).trans (hiPart _ _ 6 5 (by decide)))))⟩

theorem wideShape51 (p0 : BitVec 12) (p1 : BitVec 6) (p2 : BitVec 14) (w : BitVec 32) (h : p0 ++ p1 ++ p2 = w) :
    w.extractLsb' 0 2 = p2.extractLsb' 0 2 ∧
      w.extractLsb' 0 3 = p2.extractLsb' 0 3 ∧
      w.extractLsb' 0 8 = p2.extractLsb' 0 8 ∧
      w.extractLsb' 8 6 = p2.extractLsb' 8 6 ∧
      w.extractLsb' 14 6 = p1 ∧
      w.extractLsb' 20 6 = p0.extractLsb' 0 6 ∧
      w.extractLsb' 26 5 = p0.extractLsb' 6 5 := by
  subst h
  exact ⟨loPart _ _ 0 2 (by decide), loPart _ _ 0 3 (by decide), loPart _ _ 0 8 (by decide), loPart _ _ 8 6 (by decide), (hiPart _ _ 14 6 (by decide)).trans ((loPart _ _ 0 6 (by decide)).trans (BitVec.extractLsb'_eq_self)), (hiPart _ _ 20 6 (by decide)).trans (hiPart _ _ 6 6 (by decide)), (hiPart _ _ 26 5 (by decide)).trans (hiPart _ _ 12 5 (by decide))⟩

theorem wideShape52 (p0 : BitVec 6) (p1 : BitVec 6) (p2 : BitVec 14) (p3 : BitVec 3) (p4 : BitVec 3) (w : BitVec 32) (h : p0 ++ p1 ++ p2 ++ p3 ++ p4 = w) :
    w.extractLsb' 0 3 = p4 ∧
      w.extractLsb' 3 3 = p3 ∧
      w.extractLsb' 6 1 = p2.extractLsb' 0 1 ∧
      w.extractLsb' 6 14 = p2 ∧
      w.extractLsb' 20 6 = p1 ∧
      w.extractLsb' 26 5 = p0.extractLsb' 0 5 := by
  subst h
  exact ⟨(loPart _ _ 0 3 (by decide)).trans (BitVec.extractLsb'_eq_self), (hiPart _ _ 3 3 (by decide)).trans ((loPart _ _ 0 3 (by decide)).trans (BitVec.extractLsb'_eq_self)), (hiPart _ _ 6 1 (by decide)).trans ((hiPart _ _ 3 1 (by decide)).trans (loPart _ _ 0 1 (by decide))), (hiPart _ _ 6 14 (by decide)).trans ((hiPart _ _ 3 14 (by decide)).trans ((loPart _ _ 0 14 (by decide)).trans (BitVec.extractLsb'_eq_self))), (hiPart _ _ 20 6 (by decide)).trans ((hiPart _ _ 17 6 (by decide)).trans ((hiPart _ _ 14 6 (by decide)).trans ((loPart _ _ 0 6 (by decide)).trans (BitVec.extractLsb'_eq_self)))), (hiPart _ _ 26 5 (by decide)).trans ((hiPart _ _ 23 5 (by decide)).trans ((hiPart _ _ 20 5 (by decide)).trans (hiPart _ _ 6 5 (by decide))))⟩

theorem wideShape53 (p0 : BitVec 6) (p1 : BitVec 6) (p2 : BitVec 14) (p3 : BitVec 3) (p4 : BitVec 3) (w : BitVec 32) (h : p0 ++ p1 ++ p2 ++ p3 ++ p4 = w) :
    w.extractLsb' 0 3 = p4 ∧
      w.extractLsb' 3 3 = p3 ∧
      w.extractLsb' 6 1 = p2.extractLsb' 0 1 ∧
      w.extractLsb' 7 13 = p2.extractLsb' 1 13 ∧
      w.extractLsb' 20 6 = p1 ∧
      w.extractLsb' 26 5 = p0.extractLsb' 0 5 := by
  subst h
  exact ⟨(loPart _ _ 0 3 (by decide)).trans (BitVec.extractLsb'_eq_self), (hiPart _ _ 3 3 (by decide)).trans ((loPart _ _ 0 3 (by decide)).trans (BitVec.extractLsb'_eq_self)), (hiPart _ _ 6 1 (by decide)).trans ((hiPart _ _ 3 1 (by decide)).trans (loPart _ _ 0 1 (by decide))), (hiPart _ _ 7 13 (by decide)).trans ((hiPart _ _ 4 13 (by decide)).trans (loPart _ _ 1 13 (by decide))), (hiPart _ _ 20 6 (by decide)).trans ((hiPart _ _ 17 6 (by decide)).trans ((hiPart _ _ 14 6 (by decide)).trans ((loPart _ _ 0 6 (by decide)).trans (BitVec.extractLsb'_eq_self)))), (hiPart _ _ 26 5 (by decide)).trans ((hiPart _ _ 23 5 (by decide)).trans ((hiPart _ _ 20 5 (by decide)).trans (hiPart _ _ 6 5 (by decide))))⟩

theorem wideShape54 (p0 : BitVec 12) (p1 : BitVec 6) (p2 : BitVec 6) (p3 : BitVec 8) (w : BitVec 32) (h : p0 ++ p1 ++ p2 ++ p3 = w) :
    w.extractLsb' 0 8 = p3 ∧
      w.extractLsb' 8 6 = p2 ∧
      w.extractLsb' 14 6 = p1 ∧
      w.extractLsb' 20 6 = p0.extractLsb' 0 6 ∧
      w.extractLsb' 26 5 = p0.extractLsb' 6 5 := by
  subst h
  exact ⟨(loPart _ _ 0 8 (by decide)).trans (BitVec.extractLsb'_eq_self), (hiPart _ _ 8 6 (by decide)).trans ((loPart _ _ 0 6 (by decide)).trans (BitVec.extractLsb'_eq_self)), (hiPart _ _ 14 6 (by decide)).trans ((hiPart _ _ 6 6 (by decide)).trans ((loPart _ _ 0 6 (by decide)).trans (BitVec.extractLsb'_eq_self))), (hiPart _ _ 20 6 (by decide)).trans ((hiPart _ _ 12 6 (by decide)).trans (hiPart _ _ 6 6 (by decide))), (hiPart _ _ 26 5 (by decide)).trans ((hiPart _ _ 18 5 (by decide)).trans (hiPart _ _ 12 5 (by decide)))⟩

theorem wideShape55 (p0 : BitVec 6) (p1 : BitVec 6) (p2 : BitVec 20) (w : BitVec 32) (h : p0 ++ p1 ++ p2 = w) :
    w.extractLsb' 0 8 = p2.extractLsb' 0 8 ∧
      w.extractLsb' 8 6 = p2.extractLsb' 8 6 ∧
      w.extractLsb' 8 12 = p2.extractLsb' 8 12 ∧
      w.extractLsb' 14 6 = p2.extractLsb' 14 6 ∧
      w.extractLsb' 20 6 = p1 ∧
      w.extractLsb' 26 5 = p0.extractLsb' 0 5 := by
  subst h
  exact ⟨loPart _ _ 0 8 (by decide), loPart _ _ 8 6 (by decide), loPart _ _ 8 12 (by decide), loPart _ _ 14 6 (by decide), (hiPart _ _ 20 6 (by decide)).trans ((loPart _ _ 0 6 (by decide)).trans (BitVec.extractLsb'_eq_self)), (hiPart _ _ 26 5 (by decide)).trans (hiPart _ _ 6 5 (by decide))⟩

theorem compactShape56 (p0 : BitVec 6) (p1 : BitVec 5) (p2 : BitVec 5) (w : BitVec 16) (h : p0 ++ p1 ++ p2 = w) :
    w.extractLsb' 0 3 = p2.extractLsb' 0 3 ∧
      w.extractLsb' 0 5 = p2 ∧
      w.extractLsb' 5 5 = p1 ∧
      w.extractLsb' 6 4 = p1.extractLsb' 1 4 ∧
      w.extractLsb' 10 5 = p0.extractLsb' 0 5 := by
  subst h
  exact ⟨loPart _ _ 0 3 (by decide), (loPart _ _ 0 5 (by decide)).trans (BitVec.extractLsb'_eq_self), (hiPart _ _ 5 5 (by decide)).trans ((loPart _ _ 0 5 (by decide)).trans (BitVec.extractLsb'_eq_self)), (hiPart _ _ 6 4 (by decide)).trans (loPart _ _ 1 4 (by decide)), (hiPart _ _ 10 5 (by decide)).trans (hiPart _ _ 5 5 (by decide))⟩

theorem compactShape57 (p0 : BitVec 6) (p1 : BitVec 4) (p2 : BitVec 6) (w : BitVec 16) (h : p0 ++ p1 ++ p2 = w) :
    w.extractLsb' 0 3 = p2.extractLsb' 0 3 ∧
      w.extractLsb' 0 5 = p2.extractLsb' 0 5 ∧
      w.extractLsb' 0 6 = p2 ∧
      w.extractLsb' 6 4 = p1 ∧
      w.extractLsb' 10 5 = p0.extractLsb' 0 5 := by
  subst h
  exact ⟨loPart _ _ 0 3 (by decide), loPart _ _ 0 5 (by decide), (loPart _ _ 0 6 (by decide)).trans (BitVec.extractLsb'_eq_self), (hiPart _ _ 6 4 (by decide)).trans ((loPart _ _ 0 4 (by decide)).trans (BitVec.extractLsb'_eq_self)), (hiPart _ _ 10 5 (by decide)).trans (hiPart _ _ 4 5 (by decide))⟩

theorem compactShape58 (p0 : BitVec 13) (p1 : BitVec 3) (w : BitVec 16) (h : p0 ++ p1 = w) :
    w.extractLsb' 0 3 = p1 ∧
      w.extractLsb' 3 7 = p0.extractLsb' 0 7 ∧
      w.extractLsb' 5 5 = p0.extractLsb' 2 5 ∧
      w.extractLsb' 6 4 = p0.extractLsb' 3 4 ∧
      w.extractLsb' 10 5 = p0.extractLsb' 7 5 := by
  subst h
  exact ⟨(loPart _ _ 0 3 (by decide)).trans (BitVec.extractLsb'_eq_self), hiPart _ _ 3 7 (by decide), hiPart _ _ 5 5 (by decide), hiPart _ _ 6 4 (by decide), hiPart _ _ 10 5 (by decide)⟩

theorem compactShape59 (p0 : BitVec 6) (p1 : BitVec 10) (w : BitVec 16) (h : p0 ++ p1 = w) :
    w.extractLsb' 0 3 = p1.extractLsb' 0 3 ∧
      w.extractLsb' 0 5 = p1.extractLsb' 0 5 ∧
      w.extractLsb' 0 6 = p1.extractLsb' 0 6 ∧
      w.extractLsb' 0 10 = p1 ∧
      w.extractLsb' 5 5 = p1.extractLsb' 5 5 ∧
      w.extractLsb' 6 4 = p1.extractLsb' 6 4 ∧
      w.extractLsb' 10 5 = p0.extractLsb' 0 5 := by
  subst h
  exact ⟨loPart _ _ 0 3 (by decide), loPart _ _ 0 5 (by decide), loPart _ _ 0 6 (by decide), (loPart _ _ 0 10 (by decide)).trans (BitVec.extractLsb'_eq_self), loPart _ _ 5 5 (by decide), loPart _ _ 6 4 (by decide), hiPart _ _ 10 5 (by decide)⟩

theorem compactShape60 (p0 : BitVec 6) (p1 : BitVec 5) (p2 : BitVec 2) (p3 : BitVec 3) (w : BitVec 16) (h : p0 ++ p1 ++ p2 ++ p3 = w) :
    w.extractLsb' 0 3 = p3 ∧
      w.extractLsb' 3 2 = p2 ∧
      w.extractLsb' 5 5 = p1 ∧
      w.extractLsb' 6 4 = p1.extractLsb' 1 4 ∧
      w.extractLsb' 10 5 = p0.extractLsb' 0 5 := by
  subst h
  exact ⟨(loPart _ _ 0 3 (by decide)).trans (BitVec.extractLsb'_eq_self), (hiPart _ _ 3 2 (by decide)).trans ((loPart _ _ 0 2 (by decide)).trans (BitVec.extractLsb'_eq_self)), (hiPart _ _ 5 5 (by decide)).trans ((hiPart _ _ 2 5 (by decide)).trans ((loPart _ _ 0 5 (by decide)).trans (BitVec.extractLsb'_eq_self))), (hiPart _ _ 6 4 (by decide)).trans ((hiPart _ _ 3 4 (by decide)).trans (loPart _ _ 1 4 (by decide))), (hiPart _ _ 10 5 (by decide)).trans ((hiPart _ _ 7 5 (by decide)).trans (hiPart _ _ 5 5 (by decide)))⟩

/-! ## The family -/

/-- The word of a well-formed instruction, where it has one, decodes to the instruction on every strand class that reads it so. -/
def RoundTrip.Statement (i : Instr) : Prop :=
  match encode i with
  | some it => ∀ c, i.wf = true → i.readBy c = true → decode c it = .ok i
  | none => True

theorem RoundTrip.add (d : BitVec 6) (a : BitVec 6) (b : BitVec 6) : RoundTrip.Statement (.add d a b) := by
  intro kls wf r
  refine word (P := fun wrd => decode kls (.wide wrd) = .ok (.add d a b)) fun wrd hw => ?_
  obtain ⟨e0, e1, e2, e3, e4, e5⟩ := wideShape1 _ _ _ _ _ wrd hw
  simp [decode, decodeWide, decodeLow, decodeAlu, e1, e2, e3, e4, e5]

theorem RoundTrip.sub (d : BitVec 6) (a : BitVec 6) (b : BitVec 6) : RoundTrip.Statement (.sub d a b) := by
  intro kls wf r
  refine word (P := fun wrd => decode kls (.wide wrd) = .ok (.sub d a b)) fun wrd hw => ?_
  obtain ⟨e0, e1, e2, e3, e4, e5⟩ := wideShape1 _ _ _ _ _ wrd hw
  simp [decode, decodeWide, decodeLow, decodeAlu, e1, e2, e3, e4, e5]

theorem RoundTrip.mul (d : BitVec 6) (a : BitVec 6) (b : BitVec 6) : RoundTrip.Statement (.mul d a b) := by
  intro kls wf r
  refine word (P := fun wrd => decode kls (.wide wrd) = .ok (.mul d a b)) fun wrd hw => ?_
  obtain ⟨e0, e1, e2, e3, e4, e5⟩ := wideShape1 _ _ _ _ _ wrd hw
  simp [decode, decodeWide, decodeLow, decodeAlu, e1, e2, e3, e4, e5]

theorem RoundTrip.mulhI (d : BitVec 6) (a : BitVec 6) (b : BitVec 6) : RoundTrip.Statement (.mulhI d a b) := by
  intro kls wf r
  refine word (P := fun wrd => decode kls (.wide wrd) = .ok (.mulhI d a b)) fun wrd hw => ?_
  obtain ⟨e0, e1, e2, e3, e4, e5⟩ := wideShape1 _ _ _ _ _ wrd hw
  simp [decode, decodeWide, decodeLow, decodeAlu, e1, e2, e3, e4, e5]

theorem RoundTrip.mulhN (d : BitVec 6) (a : BitVec 6) (b : BitVec 6) : RoundTrip.Statement (.mulhN d a b) := by
  intro kls wf r
  refine word (P := fun wrd => decode kls (.wide wrd) = .ok (.mulhN d a b)) fun wrd hw => ?_
  obtain ⟨e0, e1, e2, e3, e4, e5⟩ := wideShape1 _ _ _ _ _ wrd hw
  simp [decode, decodeWide, decodeLow, decodeAlu, e1, e2, e3, e4, e5]

theorem RoundTrip.mulhIn (d : BitVec 6) (a : BitVec 6) (b : BitVec 6) : RoundTrip.Statement (.mulhIn d a b) := by
  intro kls wf r
  refine word (P := fun wrd => decode kls (.wide wrd) = .ok (.mulhIn d a b)) fun wrd hw => ?_
  obtain ⟨e0, e1, e2, e3, e4, e5⟩ := wideShape1 _ _ _ _ _ wrd hw
  simp [decode, decodeWide, decodeLow, decodeAlu, e1, e2, e3, e4, e5]

theorem RoundTrip.divI (d : BitVec 6) (a : BitVec 6) (b : BitVec 6) : RoundTrip.Statement (.divI d a b) := by
  intro kls wf r
  refine word (P := fun wrd => decode kls (.wide wrd) = .ok (.divI d a b)) fun wrd hw => ?_
  obtain ⟨e0, e1, e2, e3, e4, e5⟩ := wideShape1 _ _ _ _ _ wrd hw
  simp [decode, decodeWide, decodeLow, decodeAlu, e1, e2, e3, e4, e5]

theorem RoundTrip.divN (d : BitVec 6) (a : BitVec 6) (b : BitVec 6) : RoundTrip.Statement (.divN d a b) := by
  intro kls wf r
  refine word (P := fun wrd => decode kls (.wide wrd) = .ok (.divN d a b)) fun wrd hw => ?_
  obtain ⟨e0, e1, e2, e3, e4, e5⟩ := wideShape1 _ _ _ _ _ wrd hw
  simp [decode, decodeWide, decodeLow, decodeAlu, e1, e2, e3, e4, e5]

theorem RoundTrip.remI (d : BitVec 6) (a : BitVec 6) (b : BitVec 6) : RoundTrip.Statement (.remI d a b) := by
  intro kls wf r
  refine word (P := fun wrd => decode kls (.wide wrd) = .ok (.remI d a b)) fun wrd hw => ?_
  obtain ⟨e0, e1, e2, e3, e4, e5⟩ := wideShape1 _ _ _ _ _ wrd hw
  simp [decode, decodeWide, decodeLow, decodeAlu, e1, e2, e3, e4, e5]

theorem RoundTrip.remN (d : BitVec 6) (a : BitVec 6) (b : BitVec 6) : RoundTrip.Statement (.remN d a b) := by
  intro kls wf r
  refine word (P := fun wrd => decode kls (.wide wrd) = .ok (.remN d a b)) fun wrd hw => ?_
  obtain ⟨e0, e1, e2, e3, e4, e5⟩ := wideShape1 _ _ _ _ _ wrd hw
  simp [decode, decodeWide, decodeLow, decodeAlu, e1, e2, e3, e4, e5]

theorem RoundTrip.and (d : BitVec 6) (a : BitVec 6) (b : BitVec 6) : RoundTrip.Statement (.and d a b) := by
  intro kls wf r
  refine word (P := fun wrd => decode kls (.wide wrd) = .ok (.and d a b)) fun wrd hw => ?_
  obtain ⟨e0, e1, e2, e3, e4, e5⟩ := wideShape1 _ _ _ _ _ wrd hw
  simp [decode, decodeWide, decodeLow, decodeAlu, e1, e2, e3, e4, e5]

theorem RoundTrip.or (d : BitVec 6) (a : BitVec 6) (b : BitVec 6) : RoundTrip.Statement (.or d a b) := by
  intro kls wf r
  refine word (P := fun wrd => decode kls (.wide wrd) = .ok (.or d a b)) fun wrd hw => ?_
  obtain ⟨e0, e1, e2, e3, e4, e5⟩ := wideShape1 _ _ _ _ _ wrd hw
  simp [decode, decodeWide, decodeLow, decodeAlu, e1, e2, e3, e4, e5]

theorem RoundTrip.xor (d : BitVec 6) (a : BitVec 6) (b : BitVec 6) : RoundTrip.Statement (.xor d a b) := by
  intro kls wf r
  refine word (P := fun wrd => decode kls (.wide wrd) = .ok (.xor d a b)) fun wrd hw => ?_
  obtain ⟨e0, e1, e2, e3, e4, e5⟩ := wideShape1 _ _ _ _ _ wrd hw
  simp [decode, decodeWide, decodeLow, decodeAlu, e1, e2, e3, e4, e5]

theorem RoundTrip.andn (d : BitVec 6) (a : BitVec 6) (b : BitVec 6) : RoundTrip.Statement (.andn d a b) := by
  intro kls wf r
  refine word (P := fun wrd => decode kls (.wide wrd) = .ok (.andn d a b)) fun wrd hw => ?_
  obtain ⟨e0, e1, e2, e3, e4, e5⟩ := wideShape1 _ _ _ _ _ wrd hw
  simp [decode, decodeWide, decodeLow, decodeAlu, e1, e2, e3, e4, e5]

theorem RoundTrip.shl (d : BitVec 6) (a : BitVec 6) (b : BitVec 6) : RoundTrip.Statement (.shl d a b) := by
  intro kls wf r
  refine word (P := fun wrd => decode kls (.wide wrd) = .ok (.shl d a b)) fun wrd hw => ?_
  obtain ⟨e0, e1, e2, e3, e4, e5⟩ := wideShape1 _ _ _ _ _ wrd hw
  simp [decode, decodeWide, decodeLow, decodeAlu, e1, e2, e3, e4, e5]

theorem RoundTrip.shr (d : BitVec 6) (a : BitVec 6) (b : BitVec 6) : RoundTrip.Statement (.shr d a b) := by
  intro kls wf r
  refine word (P := fun wrd => decode kls (.wide wrd) = .ok (.shr d a b)) fun wrd hw => ?_
  obtain ⟨e0, e1, e2, e3, e4, e5⟩ := wideShape1 _ _ _ _ _ wrd hw
  simp [decode, decodeWide, decodeLow, decodeAlu, e1, e2, e3, e4, e5]

theorem RoundTrip.sra (d : BitVec 6) (a : BitVec 6) (b : BitVec 6) : RoundTrip.Statement (.sra d a b) := by
  intro kls wf r
  refine word (P := fun wrd => decode kls (.wide wrd) = .ok (.sra d a b)) fun wrd hw => ?_
  obtain ⟨e0, e1, e2, e3, e4, e5⟩ := wideShape1 _ _ _ _ _ wrd hw
  simp [decode, decodeWide, decodeLow, decodeAlu, e1, e2, e3, e4, e5]

theorem RoundTrip.rot (d : BitVec 6) (a : BitVec 6) (b : BitVec 6) : RoundTrip.Statement (.rot d a b) := by
  intro kls wf r
  refine word (P := fun wrd => decode kls (.wide wrd) = .ok (.rot d a b)) fun wrd hw => ?_
  obtain ⟨e0, e1, e2, e3, e4, e5⟩ := wideShape1 _ _ _ _ _ wrd hw
  simp [decode, decodeWide, decodeLow, decodeAlu, e1, e2, e3, e4, e5]

theorem RoundTrip.clz (d : BitVec 6) (a : BitVec 6) : RoundTrip.Statement (.clz d a) := by
  intro kls wf r
  refine word (P := fun wrd => decode kls (.wide wrd) = .ok (.clz d a)) fun wrd hw => ?_
  obtain ⟨e0, e1, e2, e3, e4, e5⟩ := wideShape2 _ _ _ _ wrd hw
  have hm : wrd &&& 0x00003F00#32 = 0#32 := maskRun wrd 8 6 (e2.trans rfl)
  simp [decode, decodeWide, decodeLow, decodeAlu, reservedZero, e1, e3, e4, e5, hm]

theorem RoundTrip.popc (d : BitVec 6) (a : BitVec 6) : RoundTrip.Statement (.popc d a) := by
  intro kls wf r
  refine word (P := fun wrd => decode kls (.wide wrd) = .ok (.popc d a)) fun wrd hw => ?_
  obtain ⟨e0, e1, e2, e3, e4, e5⟩ := wideShape2 _ _ _ _ wrd hw
  have hm : wrd &&& 0x00003F00#32 = 0#32 := maskRun wrd 8 6 (e2.trans rfl)
  simp [decode, decodeWide, decodeLow, decodeAlu, reservedZero, e1, e3, e4, e5, hm]

theorem RoundTrip.minI (d : BitVec 6) (a : BitVec 6) (b : BitVec 6) : RoundTrip.Statement (.minI d a b) := by
  intro kls wf r
  refine word (P := fun wrd => decode kls (.wide wrd) = .ok (.minI d a b)) fun wrd hw => ?_
  obtain ⟨e0, e1, e2, e3, e4, e5⟩ := wideShape1 _ _ _ _ _ wrd hw
  simp [decode, decodeWide, decodeLow, decodeAlu, e1, e2, e3, e4, e5]

theorem RoundTrip.minN (d : BitVec 6) (a : BitVec 6) (b : BitVec 6) : RoundTrip.Statement (.minN d a b) := by
  intro kls wf r
  refine word (P := fun wrd => decode kls (.wide wrd) = .ok (.minN d a b)) fun wrd hw => ?_
  obtain ⟨e0, e1, e2, e3, e4, e5⟩ := wideShape1 _ _ _ _ _ wrd hw
  simp [decode, decodeWide, decodeLow, decodeAlu, e1, e2, e3, e4, e5]

theorem RoundTrip.maxI (d : BitVec 6) (a : BitVec 6) (b : BitVec 6) : RoundTrip.Statement (.maxI d a b) := by
  intro kls wf r
  refine word (P := fun wrd => decode kls (.wide wrd) = .ok (.maxI d a b)) fun wrd hw => ?_
  obtain ⟨e0, e1, e2, e3, e4, e5⟩ := wideShape1 _ _ _ _ _ wrd hw
  simp [decode, decodeWide, decodeLow, decodeAlu, e1, e2, e3, e4, e5]

theorem RoundTrip.maxN (d : BitVec 6) (a : BitVec 6) (b : BitVec 6) : RoundTrip.Statement (.maxN d a b) := by
  intro kls wf r
  refine word (P := fun wrd => decode kls (.wide wrd) = .ok (.maxN d a b)) fun wrd hw => ?_
  obtain ⟨e0, e1, e2, e3, e4, e5⟩ := wideShape1 _ _ _ _ _ wrd hw
  simp [decode, decodeWide, decodeLow, decodeAlu, e1, e2, e3, e4, e5]

theorem RoundTrip.sel (d : BitVec 6) (a : BitVec 6) (b : BitVec 6) (c : BitVec 3) : RoundTrip.Statement (.sel d a b c) := by
  intro kls wf r
  refine word (P := fun wrd => decode kls (.wide wrd) = .ok (.sel d a b c)) fun wrd hw => ?_
  obtain ⟨e0, e1, e2, e3, e4⟩ := wideShape3 _ _ _ _ _ _ wrd hw
  have es : wrd.extractLsb' 0 8 = 18#5 ++ c := by subst hw; exact lowTwo _ _ _
  have hs : c = 0 ∨ c = 1 ∨ c = 2 ∨ c = 3 ∨ c = 4 ∨ c = 5 ∨ c = 6 ∨ c = 7 := by
    clear hw wf e0 e1 e2 e3 e4 es r
    revert c
    decide
  obtain rfl | rfl | rfl | rfl | rfl | rfl | rfl | rfl := hs
  all_goals simp [decode, decodeWide, decodeLow, decodeAlu, e0, e1, e2, e3, e4, es]

theorem RoundTrip.cmp (d : BitVec 6) (a : BitVec 6) (b : BitVec 6) : RoundTrip.Statement (.cmp d a b) := by
  intro kls wf r
  refine word (P := fun wrd => decode kls (.wide wrd) = .ok (.cmp d a b)) fun wrd hw => ?_
  obtain ⟨e0, e1, e2, e3, e4, e5⟩ := wideShape1 _ _ _ _ _ wrd hw
  simp [decode, decodeWide, decodeLow, decodeAlu, e1, e2, e3, e4, e5]

theorem RoundTrip.mov (d : BitVec 6) (b : BitVec 6) : RoundTrip.Statement (.mov d b) := by
  intro kls wf r
  refine word (P := fun wrd => decode kls (.wide wrd) = .ok (.mov d b)) fun wrd hw => ?_
  obtain ⟨e0, e1, e2, e3, e4, e5⟩ := wideShape1 _ _ _ _ _ wrd hw
  have hm : wrd &&& 0x000FC000#32 = 0#32 := maskRun wrd 14 6 (e3.trans rfl)
  simp [decode, decodeWide, decodeLow, decodeAlu, reservedZero, e1, e2, e4, e5, hm]

theorem RoundTrip.add128 (d : BitVec 6) (a : BitVec 6) (b : BitVec 6) : RoundTrip.Statement (.add128 d a b) := by
  intro kls wf r
  refine word (P := fun wrd => decode kls (.wide wrd) = .ok (.add128 d a b)) fun wrd hw => ?_
  obtain ⟨e0, e1, e2, e3, e4, e5⟩ := wideShape1 _ _ _ _ _ wrd hw
  simp [decode, decodeWide, decodeLow, decodeAlu, e1, e2, e3, e4, e5]

theorem RoundTrip.addImm (d : BitVec 6) (a : BitVec 6) (i : BitVec 10) : RoundTrip.Statement (.addImm d a i) := by
  intro kls wf r
  refine word (P := fun wrd => decode kls (.wide wrd) = .ok (.addImm d a i)) fun wrd hw => ?_
  obtain ⟨e0, e1, e2, e3, e4, e5⟩ := wideShape4 _ _ _ _ _ wrd hw
  simp [decode, decodeWide, decodeLow, decodeAluImm, e1, e2, e3, e4, e5]

theorem RoundTrip.subImm (d : BitVec 6) (a : BitVec 6) (i : BitVec 10) : RoundTrip.Statement (.subImm d a i) := by
  intro kls wf r
  refine word (P := fun wrd => decode kls (.wide wrd) = .ok (.subImm d a i)) fun wrd hw => ?_
  obtain ⟨e0, e1, e2, e3, e4, e5⟩ := wideShape4 _ _ _ _ _ wrd hw
  simp [decode, decodeWide, decodeLow, decodeAluImm, e1, e2, e3, e4, e5]

theorem RoundTrip.mulImm (d : BitVec 6) (a : BitVec 6) (i : BitVec 10) : RoundTrip.Statement (.mulImm d a i) := by
  intro kls wf r
  refine word (P := fun wrd => decode kls (.wide wrd) = .ok (.mulImm d a i)) fun wrd hw => ?_
  obtain ⟨e0, e1, e2, e3, e4, e5⟩ := wideShape4 _ _ _ _ _ wrd hw
  simp [decode, decodeWide, decodeLow, decodeAluImm, e1, e2, e3, e4, e5]

theorem RoundTrip.andImm (d : BitVec 6) (a : BitVec 6) (i : BitVec 10) : RoundTrip.Statement (.andImm d a i) := by
  intro kls wf r
  refine word (P := fun wrd => decode kls (.wide wrd) = .ok (.andImm d a i)) fun wrd hw => ?_
  obtain ⟨e0, e1, e2, e3, e4, e5⟩ := wideShape4 _ _ _ _ _ wrd hw
  simp [decode, decodeWide, decodeLow, decodeAluImm, e1, e2, e3, e4, e5]

theorem RoundTrip.orImm (d : BitVec 6) (a : BitVec 6) (i : BitVec 10) : RoundTrip.Statement (.orImm d a i) := by
  intro kls wf r
  refine word (P := fun wrd => decode kls (.wide wrd) = .ok (.orImm d a i)) fun wrd hw => ?_
  obtain ⟨e0, e1, e2, e3, e4, e5⟩ := wideShape4 _ _ _ _ _ wrd hw
  simp [decode, decodeWide, decodeLow, decodeAluImm, e1, e2, e3, e4, e5]

theorem RoundTrip.xorImm (d : BitVec 6) (a : BitVec 6) (i : BitVec 10) : RoundTrip.Statement (.xorImm d a i) := by
  intro kls wf r
  refine word (P := fun wrd => decode kls (.wide wrd) = .ok (.xorImm d a i)) fun wrd hw => ?_
  obtain ⟨e0, e1, e2, e3, e4, e5⟩ := wideShape4 _ _ _ _ _ wrd hw
  simp [decode, decodeWide, decodeLow, decodeAluImm, e1, e2, e3, e4, e5]

theorem RoundTrip.andnImm (d : BitVec 6) (a : BitVec 6) (i : BitVec 10) : RoundTrip.Statement (.andnImm d a i) := by
  intro kls wf r
  refine word (P := fun wrd => decode kls (.wide wrd) = .ok (.andnImm d a i)) fun wrd hw => ?_
  obtain ⟨e0, e1, e2, e3, e4, e5⟩ := wideShape4 _ _ _ _ _ wrd hw
  simp [decode, decodeWide, decodeLow, decodeAluImm, e1, e2, e3, e4, e5]

theorem RoundTrip.shlImm (d : BitVec 6) (a : BitVec 6) (i : BitVec 6) : RoundTrip.Statement (.shlImm d a i) := by
  intro kls wf r
  refine word (P := fun wrd => decode kls (.wide wrd) = .ok (.shlImm d a i)) fun wrd hw => ?_
  obtain ⟨e0, e1, e2, e3, e4, e5⟩ := wideShape5 _ _ _ _ _ wrd hw
  have hm : wrd &&& 0x000003C0#32 = 0#32 := maskRun wrd 6 4 (e1.trans rfl)
  simp [decode, decodeWide, decodeLow, decodeAluImm, reservedZero, e0, e2, e3, e4, e5, hm]

theorem RoundTrip.shrImm (d : BitVec 6) (a : BitVec 6) (i : BitVec 6) : RoundTrip.Statement (.shrImm d a i) := by
  intro kls wf r
  refine word (P := fun wrd => decode kls (.wide wrd) = .ok (.shrImm d a i)) fun wrd hw => ?_
  obtain ⟨e0, e1, e2, e3, e4, e5⟩ := wideShape5 _ _ _ _ _ wrd hw
  have hm : wrd &&& 0x000003C0#32 = 0#32 := maskRun wrd 6 4 (e1.trans rfl)
  simp [decode, decodeWide, decodeLow, decodeAluImm, reservedZero, e0, e2, e3, e4, e5, hm]

theorem RoundTrip.sraImm (d : BitVec 6) (a : BitVec 6) (i : BitVec 6) : RoundTrip.Statement (.sraImm d a i) := by
  intro kls wf r
  refine word (P := fun wrd => decode kls (.wide wrd) = .ok (.sraImm d a i)) fun wrd hw => ?_
  obtain ⟨e0, e1, e2, e3, e4, e5⟩ := wideShape5 _ _ _ _ _ wrd hw
  have hm : wrd &&& 0x000003C0#32 = 0#32 := maskRun wrd 6 4 (e1.trans rfl)
  simp [decode, decodeWide, decodeLow, decodeAluImm, reservedZero, e0, e2, e3, e4, e5, hm]

theorem RoundTrip.rotImm (d : BitVec 6) (a : BitVec 6) (i : BitVec 6) : RoundTrip.Statement (.rotImm d a i) := by
  intro kls wf r
  refine word (P := fun wrd => decode kls (.wide wrd) = .ok (.rotImm d a i)) fun wrd hw => ?_
  obtain ⟨e0, e1, e2, e3, e4, e5⟩ := wideShape5 _ _ _ _ _ wrd hw
  have hm : wrd &&& 0x000003C0#32 = 0#32 := maskRun wrd 6 4 (e1.trans rfl)
  simp [decode, decodeWide, decodeLow, decodeAluImm, reservedZero, e0, e2, e3, e4, e5, hm]

theorem RoundTrip.minImm (d : BitVec 6) (a : BitVec 6) (i : BitVec 10) : RoundTrip.Statement (.minImm d a i) := by
  intro kls wf r
  refine word (P := fun wrd => decode kls (.wide wrd) = .ok (.minImm d a i)) fun wrd hw => ?_
  obtain ⟨e0, e1, e2, e3, e4, e5⟩ := wideShape4 _ _ _ _ _ wrd hw
  simp [decode, decodeWide, decodeLow, decodeAluImm, e1, e2, e3, e4, e5]

theorem RoundTrip.maxImm (d : BitVec 6) (a : BitVec 6) (i : BitVec 10) : RoundTrip.Statement (.maxImm d a i) := by
  intro kls wf r
  refine word (P := fun wrd => decode kls (.wide wrd) = .ok (.maxImm d a i)) fun wrd hw => ?_
  obtain ⟨e0, e1, e2, e3, e4, e5⟩ := wideShape4 _ _ _ _ _ wrd hw
  simp [decode, decodeWide, decodeLow, decodeAluImm, e1, e2, e3, e4, e5]

theorem RoundTrip.cmpImm (d : BitVec 6) (a : BitVec 6) (i : BitVec 10) : RoundTrip.Statement (.cmpImm d a i) := by
  intro kls wf r
  refine word (P := fun wrd => decode kls (.wide wrd) = .ok (.cmpImm d a i)) fun wrd hw => ?_
  obtain ⟨e0, e1, e2, e3, e4, e5⟩ := wideShape4 _ _ _ _ _ wrd hw
  simp [decode, decodeWide, decodeLow, decodeAluImm, e1, e2, e3, e4, e5]

theorem RoundTrip.limm (d : BitVec 6) (i : BitVec 20) : RoundTrip.Statement (.limm d i) := by
  intro kls wf r
  refine word (P := fun wrd => decode kls (.wide wrd) = .ok (.limm d i)) fun wrd hw => ?_
  obtain ⟨e0, e1, e2⟩ := wideShape6 _ _ _ wrd hw
  simp [decode, decodeWide, decodeLow, decodeLimm, e0, e1, e2]

theorem RoundTrip.br (c : BitVec 4) (d : BitVec 22) : RoundTrip.Statement (.br c d) := by
  intro kls wf r
  refine word (P := fun wrd => decode kls (.wide wrd) = .ok (.br c d)) fun wrd hw => ?_
  obtain ⟨e0, e1, e2⟩ := wideShape7 _ _ _ wrd hw
  simp [decode, decodeWide, decodeLow, decodeBranch, e0, e1, e2]

theorem RoundTrip.jmp (d : BitVec 22) : RoundTrip.Statement (.jmp d) := by
  intro kls wf r
  refine word (P := fun wrd => decode kls (.wide wrd) = .ok (.jmp d)) fun wrd hw => ?_
  obtain ⟨e0, e1, e2, e3⟩ := wideShape8 _ _ wrd hw
  simp [decode, decodeWide, decodeLow, decodeJump, e0, e2, e3]

theorem RoundTrip.call (d : BitVec 22) : RoundTrip.Statement (.call d) := by
  intro kls wf r
  refine word (P := fun wrd => decode kls (.wide wrd) = .ok (.call d)) fun wrd hw => ?_
  obtain ⟨e0, e1, e2, e3⟩ := wideShape8 _ _ wrd hw
  simp [decode, decodeWide, decodeLow, decodeJump, e0, e2, e3]

theorem RoundTrip.ret : RoundTrip.Statement .ret := by
  intro c _ _
  rfl

theorem RoundTrip.jmpReg (b : BitVec 5) : RoundTrip.Statement (.jmpReg b) := by
  intro kls wf r
  refine word (P := fun wrd => decode kls (.wide wrd) = .ok (.jmpReg b)) fun wrd hw => ?_
  obtain ⟨e0, e1, e2, e3, e4⟩ := wideShape9 _ _ _ wrd hw
  have hm : wrd &&& 0x0020FFFF#32 = 0#32 := maskTwo (maskRun wrd 0 16 (e0.trans rfl)) (maskRun wrd 21 1 (e2.trans rfl)) rfl
  simp [decode, decodeWide, decodeLow, decodeJump, reservedZero, e1, e3, e4, hm]

theorem RoundTrip.callReg (b : BitVec 5) : RoundTrip.Statement (.callReg b) := by
  intro kls wf r
  refine word (P := fun wrd => decode kls (.wide wrd) = .ok (.callReg b)) fun wrd hw => ?_
  obtain ⟨e0, e1, e2, e3, e4⟩ := wideShape9 _ _ _ wrd hw
  have hm : wrd &&& 0x0020FFFF#32 = 0#32 := maskTwo (maskRun wrd 0 16 (e0.trans rfl)) (maskRun wrd 21 1 (e2.trans rfl)) rfl
  simp [decode, decodeWide, decodeLow, decodeJump, reservedZero, e1, e3, e4, hm]

theorem RoundTrip.nop : RoundTrip.Statement .nop := by
  intro c _ _
  rfl

theorem RoundTrip.halt : RoundTrip.Statement .halt := by
  intro c _ _
  rfl

theorem RoundTrip.bkpt (e : BitVec 12) : RoundTrip.Statement (.bkpt e) := by
  intro kls wf r
  refine word (P := fun wrd => decode kls (.wide wrd) = .ok (.bkpt e)) fun wrd hw => ?_
  obtain ⟨e0, e1, e2, e3, e4⟩ := wideShape10 _ _ _ wrd hw
  have hm : wrd &&& 0x03F00000#32 = 0#32 := maskRun wrd 20 6 (e3.trans rfl)
  simp [decode, decodeWide, decodeLow, decodeSystem, reservedZero, e0, e2, e4, hm]

theorem RoundTrip.taskend : RoundTrip.Statement .taskend := by
  intro c _ _
  rfl

theorem RoundTrip.trap (e : BitVec 12) : RoundTrip.Statement (.trap e) := by
  intro kls wf r
  refine word (P := fun wrd => decode kls (.wide wrd) = .ok (.trap e)) fun wrd hw => ?_
  obtain ⟨e0, e1, e2, e3, e4⟩ := wideShape10 _ _ _ wrd hw
  have hm : wrd &&& 0x03F00000#32 = 0#32 := maskRun wrd 20 6 (e3.trans rfl)
  simp [decode, decodeWide, decodeLow, decodeSystem, reservedZero, e0, e2, e4, hm]

theorem RoundTrip.eret : RoundTrip.Statement .eret := by
  intro c _ _
  rfl

theorem RoundTrip.sysrd (d : BitVec 6) (n : BitVec 10) : RoundTrip.Statement (.sysrd d n) := by
  intro kls wf r
  refine word (P := fun wrd => decode kls (.wide wrd) = .ok (.sysrd d n)) fun wrd hw => ?_
  obtain ⟨e0, e1, e2, e3, e4⟩ := wideShape11 _ _ _ _ _ wrd hw
  have hm : wrd &&& 0x000C0000#32 = 0#32 := maskRun wrd 18 2 (e2.trans rfl)
  simp [decode, decodeWide, decodeLow, decodeSystem, reservedZero, e0, e1, e3, e4, hm]

theorem RoundTrip.syswr (d : BitVec 6) (n : BitVec 10) : RoundTrip.Statement (.syswr d n) := by
  intro kls wf r
  refine word (P := fun wrd => decode kls (.wide wrd) = .ok (.syswr d n)) fun wrd hw => ?_
  obtain ⟨e0, e1, e2, e3, e4⟩ := wideShape11 _ _ _ _ _ wrd hw
  have hm : wrd &&& 0x000C0000#32 = 0#32 := maskRun wrd 18 2 (e2.trans rfl)
  simp [decode, decodeWide, decodeLow, decodeSystem, reservedZero, e0, e1, e3, e4, hm]

theorem RoundTrip.pause (n : BitVec 16) : RoundTrip.Statement (.pause n) := by
  intro kls wf r
  refine word (P := fun wrd => decode kls (.wide wrd) = .ok (.pause n)) fun wrd hw => ?_
  obtain ⟨e0, e1, e2, e3, e4, e5, e6, e7, e8, e9⟩ := wideShape12 _ _ _ wrd hw
  have hm : wrd &&& 0x03F80000#32 = 0#32 := maskRun wrd 19 7 (e7.trans rfl)
  simp [decode, decodeWide, decodeLow, decodeSync, reservedZero, e0, e4, e9, hm]

theorem RoundTrip.yield : RoundTrip.Statement .yield := by
  intro c _ _
  rfl

theorem RoundTrip.dsync (l : BitVec 3) : RoundTrip.Statement (.dsync l) := by
  intro kls wf r
  refine word (P := fun wrd => decode kls (.wide wrd) = .ok (.dsync l)) fun wrd hw => ?_
  obtain ⟨e0, e1, e2, e3, e4, e5, e6, e7⟩ := wideShape13 _ _ _ wrd hw
  have hm : wrd &&& 0x03FFFFC0#32 = 0#32 := maskRun wrd 6 20 (e3.trans rfl)
  simp [decode, decodeWide, decodeLow, decodeSync, reservedZero, e0, e2, e7, hm]

theorem RoundTrip.fenceAcq (s : BitVec 3) : RoundTrip.Statement (.fenceAcq s) := by
  intro kls wf r
  refine word (P := fun wrd => decode kls (.wide wrd) = .ok (.fenceAcq s)) fun wrd hw => ?_
  obtain ⟨e0, e1, e2, e3, e4, e5, e6, e7⟩ := wideShape14 _ _ _ wrd hw
  have hm : wrd &&& 0x03FFFF00#32 = 0#32 := maskRun wrd 8 18 (e4.trans rfl)
  simp [decode, decodeWide, decodeLow, decodeSync, reservedZero, e0, e1, e2, e7, hm]

theorem RoundTrip.fenceRel (s : BitVec 3) : RoundTrip.Statement (.fenceRel s) := by
  intro kls wf r
  refine word (P := fun wrd => decode kls (.wide wrd) = .ok (.fenceRel s)) fun wrd hw => ?_
  obtain ⟨e0, e1, e2, e3, e4, e5, e6, e7⟩ := wideShape14 _ _ _ wrd hw
  have hm : wrd &&& 0x03FFFF00#32 = 0#32 := maskRun wrd 8 18 (e4.trans rfl)
  simp [decode, decodeWide, decodeLow, decodeSync, reservedZero, e0, e1, e2, e7, hm]

theorem RoundTrip.fenceAr (s : BitVec 3) : RoundTrip.Statement (.fenceAr s) := by
  intro kls wf r
  refine word (P := fun wrd => decode kls (.wide wrd) = .ok (.fenceAr s)) fun wrd hw => ?_
  obtain ⟨e0, e1, e2, e3, e4, e5, e6, e7⟩ := wideShape14 _ _ _ wrd hw
  have hm : wrd &&& 0x03FFFF00#32 = 0#32 := maskRun wrd 8 18 (e4.trans rfl)
  simp [decode, decodeWide, decodeLow, decodeSync, reservedZero, e0, e1, e2, e7, hm]

theorem RoundTrip.fenceP (y : BitVec 5) (w : BitVec 5) : RoundTrip.Statement (.fenceP y w) := by
  intro kls wf r
  refine word (P := fun wrd => decode kls (.wide wrd) = .ok (.fenceP y w)) fun wrd hw => ?_
  obtain ⟨e0, e1, e2, e3, e4, e5, e6, e7, e8⟩ := wideShape15 _ _ _ _ wrd hw
  have hm : wrd &&& 0x03FFE000#32 = 0#32 := maskRun wrd 13 13 (e6.trans rfl)
  simp [decode, decodeWide, decodeLow, decodeSync, reservedZero, e0, e3, e5, e8, hm]

theorem RoundTrip.ringWaitf (h : BitVec 4) (n : BitVec 10) : RoundTrip.Statement (.ringWaitf h n) := by
  intro kls wf r
  refine word (P := fun wrd => decode kls (.wide wrd) = .ok (.ringWaitf h n)) fun wrd hw => ?_
  obtain ⟨e0, e1, e2, e3, e4, e5, e6, e7, e8⟩ := wideShape16 _ _ _ _ wrd hw
  have hm : wrd &&& 0x00000FF8#32 = 0#32 := maskRun wrd 3 9 (e4.trans rfl)
  simp [decode, decodeWide, decodeLow, decodeSync, reservedZero, e0, e6, e7, e8, hm]

theorem RoundTrip.ringWaite (h : BitVec 4) (n : BitVec 10) : RoundTrip.Statement (.ringWaite h n) := by
  intro kls wf r
  refine word (P := fun wrd => decode kls (.wide wrd) = .ok (.ringWaite h n)) fun wrd hw => ?_
  obtain ⟨e0, e1, e2, e3, e4, e5, e6, e7, e8⟩ := wideShape16 _ _ _ _ wrd hw
  have hm : wrd &&& 0x00000FF8#32 = 0#32 := maskRun wrd 3 9 (e4.trans rfl)
  simp [decode, decodeWide, decodeLow, decodeSync, reservedZero, e0, e6, e7, e8, hm]

theorem RoundTrip.cadv (j : BitVec 3) : RoundTrip.Statement (.cadv j) := by
  intro kls wf r
  refine word (P := fun wrd => decode kls (.wide wrd) = .ok (.cadv j)) fun wrd hw => ?_
  obtain ⟨e0, e1, e2, e3, e4⟩ := wideShape17 _ _ _ wrd hw
  have hm : wrd &&& 0x03FFFFC0#32 = 0#32 := maskRun wrd 6 20 (e2.trans rfl)
  simp [decode, decodeWide, decodeLow, decodeCoord, reservedZero, e0, e1, e4, hm]

theorem RoundTrip.cset (a : BitVec 6) (j : BitVec 3) : RoundTrip.Statement (.cset a j) := by
  intro kls wf r
  refine word (P := fun wrd => decode kls (.wide wrd) = .ok (.cset a j)) fun wrd hw => ?_
  obtain ⟨e0, e1, e2, e3, e4⟩ := wideShape18 _ _ _ _ _ wrd hw
  have hm : wrd &&& 0x000FFFC0#32 = 0#32 := maskRun wrd 6 14 (e2.trans rfl)
  simp [decode, decodeWide, decodeLow, decodeCoord, reservedZero, e0, e1, e3, e4, hm]

theorem RoundTrip.cget (d : BitVec 6) (j : BitVec 3) : RoundTrip.Statement (.cget d j) := by
  intro kls wf r
  refine word (P := fun wrd => decode kls (.wide wrd) = .ok (.cget d j)) fun wrd hw => ?_
  obtain ⟨e0, e1, e2, e3, e4⟩ := wideShape18 _ _ _ _ _ wrd hw
  have hm : wrd &&& 0x000FFFC0#32 = 0#32 := maskRun wrd 6 14 (e2.trans rfl)
  simp [decode, decodeWide, decodeLow, decodeCoord, reservedZero, e0, e1, e3, e4, hm]

theorem RoundTrip.ldB (d : BitVec 6) (a : BitVec 6) (i : BitVec 10) : RoundTrip.Statement (.ldB d a i) := by
  intro kls wf r
  refine word (P := fun wrd => decode kls (.wide wrd) = .ok (.ldB d a i)) fun wrd hw => ?_
  obtain ⟨e0, e1, e2, e3, e4, e5, e6⟩ := wideShape19 _ _ _ _ _ wrd hw
  simp [decode, decodeWide, decodeLow, decodeLoad, e1, e3, e4, e5, e6]

theorem RoundTrip.ldH (d : BitVec 6) (a : BitVec 6) (i : BitVec 10) : RoundTrip.Statement (.ldH d a i) := by
  intro kls wf r
  refine word (P := fun wrd => decode kls (.wide wrd) = .ok (.ldH d a i)) fun wrd hw => ?_
  obtain ⟨e0, e1, e2, e3, e4, e5, e6⟩ := wideShape19 _ _ _ _ _ wrd hw
  simp [decode, decodeWide, decodeLow, decodeLoad, e1, e3, e4, e5, e6]

theorem RoundTrip.ldW (d : BitVec 6) (a : BitVec 6) (i : BitVec 10) : RoundTrip.Statement (.ldW d a i) := by
  intro kls wf r
  refine word (P := fun wrd => decode kls (.wide wrd) = .ok (.ldW d a i)) fun wrd hw => ?_
  obtain ⟨e0, e1, e2, e3, e4, e5, e6⟩ := wideShape19 _ _ _ _ _ wrd hw
  simp [decode, decodeWide, decodeLow, decodeLoad, e1, e3, e4, e5, e6]

theorem RoundTrip.ldD (d : BitVec 6) (a : BitVec 6) (i : BitVec 10) : RoundTrip.Statement (.ldD d a i) := by
  intro kls wf r
  refine word (P := fun wrd => decode kls (.wide wrd) = .ok (.ldD d a i)) fun wrd hw => ?_
  obtain ⟨e0, e1, e2, e3, e4, e5, e6⟩ := wideShape19 _ _ _ _ _ wrd hw
  simp [decode, decodeWide, decodeLow, decodeLoad, e1, e3, e4, e5, e6]

theorem RoundTrip.ldBN (d : BitVec 6) (a : BitVec 6) (i : BitVec 10) : RoundTrip.Statement (.ldBN d a i) := by
  intro kls wf r
  refine word (P := fun wrd => decode kls (.wide wrd) = .ok (.ldBN d a i)) fun wrd hw => ?_
  obtain ⟨e0, e1, e2, e3, e4, e5, e6⟩ := wideShape19 _ _ _ _ _ wrd hw
  simp [decode, decodeWide, decodeLow, decodeLoad, e1, e3, e4, e5, e6]

theorem RoundTrip.ldHN (d : BitVec 6) (a : BitVec 6) (i : BitVec 10) : RoundTrip.Statement (.ldHN d a i) := by
  intro kls wf r
  refine word (P := fun wrd => decode kls (.wide wrd) = .ok (.ldHN d a i)) fun wrd hw => ?_
  obtain ⟨e0, e1, e2, e3, e4, e5, e6⟩ := wideShape19 _ _ _ _ _ wrd hw
  simp [decode, decodeWide, decodeLow, decodeLoad, e1, e3, e4, e5, e6]

theorem RoundTrip.ldWN (d : BitVec 6) (a : BitVec 6) (i : BitVec 10) : RoundTrip.Statement (.ldWN d a i) := by
  intro kls wf r
  refine word (P := fun wrd => decode kls (.wide wrd) = .ok (.ldWN d a i)) fun wrd hw => ?_
  obtain ⟨e0, e1, e2, e3, e4, e5, e6⟩ := wideShape19 _ _ _ _ _ wrd hw
  simp [decode, decodeWide, decodeLow, decodeLoad, e1, e3, e4, e5, e6]

theorem RoundTrip.ldWAcq (d : BitVec 6) (a : BitVec 6) (s : BitVec 3) (i : BitVec 7) : RoundTrip.Statement (.ldWAcq d a s i) := by
  intro kls wf r
  refine word (P := fun wrd => decode kls (.wide wrd) = .ok (.ldWAcq d a s i)) fun wrd hw => ?_
  obtain ⟨e0, e1, e2, e3, e4, e5⟩ := wideShape20 _ _ _ _ _ _ wrd hw
  simp [decode, decodeWide, decodeLow, decodeLoad, e0, e1, e2, e3, e4, e5]

theorem RoundTrip.ldDAcq (d : BitVec 6) (a : BitVec 6) (s : BitVec 3) (i : BitVec 7) : RoundTrip.Statement (.ldDAcq d a s i) := by
  intro kls wf r
  refine word (P := fun wrd => decode kls (.wide wrd) = .ok (.ldDAcq d a s i)) fun wrd hw => ?_
  obtain ⟨e0, e1, e2, e3, e4, e5⟩ := wideShape20 _ _ _ _ _ _ wrd hw
  simp [decode, decodeWide, decodeLow, decodeLoad, e0, e1, e2, e3, e4, e5]

theorem RoundTrip.ldt (d : BitVec 6) (a : BitVec 6) (l : BitVec 3) (i : BitVec 7) : RoundTrip.Statement (.ldt d a l i) := by
  intro kls wf r
  refine word (P := fun wrd => decode kls (.wide wrd) = .ok (.ldt d a l i)) fun wrd hw => ?_
  obtain ⟨e0, e1, e2, e3, e4, e5⟩ := wideShape20 _ _ _ _ _ _ wrd hw
  simp [decode, decodeWide, decodeLow, decodeLoad, e0, e1, e2, e3, e4, e5]

theorem RoundTrip.pref (a : BitVec 6) (i : BitVec 10) : RoundTrip.Statement (.pref a i) := by
  intro kls wf r
  refine word (P := fun wrd => decode kls (.wide wrd) = .ok (.pref a i)) fun wrd hw => ?_
  obtain ⟨e0, e1, e2, e3, e4, e5, e6⟩ := wideShape21 _ _ _ _ wrd hw
  have hm : wrd &&& 0x03F00000#32 = 0#32 := maskRun wrd 20 6 (e5.trans rfl)
  simp [decode, decodeWide, decodeLow, decodeLoad, reservedZero, e1, e3, e4, e6, hm]

theorem RoundTrip.stB (d : BitVec 6) (a : BitVec 6) (i : BitVec 10) : RoundTrip.Statement (.stB d a i) := by
  intro kls wf r
  refine word (P := fun wrd => decode kls (.wide wrd) = .ok (.stB d a i)) fun wrd hw => ?_
  obtain ⟨e0, e1, e2, e3, e4, e5, e6⟩ := wideShape19 _ _ _ _ _ wrd hw
  simp [decode, decodeWide, decodeLow, decodeStore, e1, e3, e4, e5, e6]

theorem RoundTrip.stH (d : BitVec 6) (a : BitVec 6) (i : BitVec 10) : RoundTrip.Statement (.stH d a i) := by
  intro kls wf r
  refine word (P := fun wrd => decode kls (.wide wrd) = .ok (.stH d a i)) fun wrd hw => ?_
  obtain ⟨e0, e1, e2, e3, e4, e5, e6⟩ := wideShape19 _ _ _ _ _ wrd hw
  simp [decode, decodeWide, decodeLow, decodeStore, e1, e3, e4, e5, e6]

theorem RoundTrip.stW (d : BitVec 6) (a : BitVec 6) (i : BitVec 10) : RoundTrip.Statement (.stW d a i) := by
  intro kls wf r
  refine word (P := fun wrd => decode kls (.wide wrd) = .ok (.stW d a i)) fun wrd hw => ?_
  obtain ⟨e0, e1, e2, e3, e4, e5, e6⟩ := wideShape19 _ _ _ _ _ wrd hw
  simp [decode, decodeWide, decodeLow, decodeStore, e1, e3, e4, e5, e6]

theorem RoundTrip.stD (d : BitVec 6) (a : BitVec 6) (i : BitVec 10) : RoundTrip.Statement (.stD d a i) := by
  intro kls wf r
  refine word (P := fun wrd => decode kls (.wide wrd) = .ok (.stD d a i)) fun wrd hw => ?_
  obtain ⟨e0, e1, e2, e3, e4, e5, e6⟩ := wideShape19 _ _ _ _ _ wrd hw
  simp [decode, decodeWide, decodeLow, decodeStore, e1, e3, e4, e5, e6]

theorem RoundTrip.stWRel (d : BitVec 6) (a : BitVec 6) (s : BitVec 3) (i : BitVec 7) : RoundTrip.Statement (.stWRel d a s i) := by
  intro kls wf r
  refine word (P := fun wrd => decode kls (.wide wrd) = .ok (.stWRel d a s i)) fun wrd hw => ?_
  obtain ⟨e0, e1, e2, e3, e4, e5⟩ := wideShape20 _ _ _ _ _ _ wrd hw
  simp [decode, decodeWide, decodeLow, decodeStore, e0, e1, e2, e3, e4, e5]

theorem RoundTrip.stDRel (d : BitVec 6) (a : BitVec 6) (s : BitVec 3) (i : BitVec 7) : RoundTrip.Statement (.stDRel d a s i) := by
  intro kls wf r
  refine word (P := fun wrd => decode kls (.wide wrd) = .ok (.stDRel d a s i)) fun wrd hw => ?_
  obtain ⟨e0, e1, e2, e3, e4, e5⟩ := wideShape20 _ _ _ _ _ _ wrd hw
  simp [decode, decodeWide, decodeLow, decodeStore, e0, e1, e2, e3, e4, e5]

theorem RoundTrip.amoAdd (d : BitVec 6) (a : BitVec 6) (b : BitVec 6) (z : BitVec 1) : RoundTrip.Statement (.amoAdd d a b z) := by
  intro kls wf r
  refine word (P := fun wrd => decode kls (.wide wrd) = .ok (.amoAdd d a b z)) fun wrd hw => ?_
  obtain ⟨e0, e1, e2, e3, e4, e5⟩ := wideShape22 _ _ _ _ _ _ wrd hw
  have es : wrd.extractLsb' 0 8 = 0#7 ++ z := by subst hw; exact lowTwo _ _ _
  obtain rfl | rfl := oneBit z
  all_goals simp [decode, decodeWide, decodeLow, decodeAtomic, e0, e2, e3, e4, e5, es]

theorem RoundTrip.amoFadd (d : BitVec 6) (a : BitVec 6) (b : BitVec 6) : RoundTrip.Statement (.amoFadd d a b) := by
  intro kls wf r
  refine word (P := fun wrd => decode kls (.wide wrd) = .ok (.amoFadd d a b)) fun wrd hw => ?_
  obtain ⟨e0, e1, e2, e3, e4, e5, e6⟩ := wideShape23 _ _ _ _ _ wrd hw
  simp [decode, decodeWide, decodeLow, decodeAtomic, e1, e3, e4, e5, e6]

theorem RoundTrip.amoBadd (d : BitVec 6) (a : BitVec 6) (b : BitVec 6) : RoundTrip.Statement (.amoBadd d a b) := by
  intro kls wf r
  refine word (P := fun wrd => decode kls (.wide wrd) = .ok (.amoBadd d a b)) fun wrd hw => ?_
  obtain ⟨e0, e1, e2, e3, e4, e5, e6⟩ := wideShape23 _ _ _ _ _ wrd hw
  simp [decode, decodeWide, decodeLow, decodeAtomic, e1, e3, e4, e5, e6]

theorem RoundTrip.amoBfin (d : BitVec 6) (a : BitVec 6) : RoundTrip.Statement (.amoBfin d a) := by
  intro kls wf r
  refine word (P := fun wrd => decode kls (.wide wrd) = .ok (.amoBfin d a)) fun wrd hw => ?_
  obtain ⟨e0, e1, e2, e3, e4, e5, e6⟩ := wideShape24 _ _ _ _ wrd hw
  have hm : wrd &&& 0x00003F00#32 = 0#32 := maskRun wrd 8 6 (e3.trans rfl)
  simp [decode, decodeWide, decodeLow, decodeAtomic, reservedZero, e1, e4, e5, e6, hm]

theorem RoundTrip.amoMin (d : BitVec 6) (a : BitVec 6) (b : BitVec 6) (n : BitVec 1) (z : BitVec 1) : RoundTrip.Statement (.amoMin d a b n z) := by
  intro kls wf r
  refine word (P := fun wrd => decode kls (.wide wrd) = .ok (.amoMin d a b n z)) fun wrd hw => ?_
  obtain ⟨e0, e1, e2, e3, e4, e5⟩ := wideShape25 _ _ _ _ _ _ _ wrd hw
  have es : wrd.extractLsb' 0 8 = 8#6 ++ n ++ z := by subst hw; exact lowThree _ _ _ _
  obtain rfl | rfl := oneBit n
  all_goals obtain rfl | rfl := oneBit z
  all_goals simp [decode, decodeWide, decodeLow, decodeAtomic, e0, e1, e2, e3, e4, e5, es]

theorem RoundTrip.amoMax (d : BitVec 6) (a : BitVec 6) (b : BitVec 6) (n : BitVec 1) (z : BitVec 1) : RoundTrip.Statement (.amoMax d a b n z) := by
  intro kls wf r
  refine word (P := fun wrd => decode kls (.wide wrd) = .ok (.amoMax d a b n z)) fun wrd hw => ?_
  obtain ⟨e0, e1, e2, e3, e4, e5⟩ := wideShape25 _ _ _ _ _ _ _ wrd hw
  have es : wrd.extractLsb' 0 8 = 10#6 ++ n ++ z := by subst hw; exact lowThree _ _ _ _
  obtain rfl | rfl := oneBit n
  all_goals obtain rfl | rfl := oneBit z
  all_goals simp [decode, decodeWide, decodeLow, decodeAtomic, e0, e1, e2, e3, e4, e5, es]

theorem RoundTrip.amoAnd (d : BitVec 6) (a : BitVec 6) (b : BitVec 6) (z : BitVec 1) : RoundTrip.Statement (.amoAnd d a b z) := by
  intro kls wf r
  refine word (P := fun wrd => decode kls (.wide wrd) = .ok (.amoAnd d a b z)) fun wrd hw => ?_
  obtain ⟨e0, e1, e2, e3, e4, e5⟩ := wideShape22 _ _ _ _ _ _ wrd hw
  have es : wrd.extractLsb' 0 8 = 24#7 ++ z := by subst hw; exact lowTwo _ _ _
  obtain rfl | rfl := oneBit z
  all_goals simp [decode, decodeWide, decodeLow, decodeAtomic, e0, e2, e3, e4, e5, es]

theorem RoundTrip.amoOr (d : BitVec 6) (a : BitVec 6) (b : BitVec 6) (z : BitVec 1) : RoundTrip.Statement (.amoOr d a b z) := by
  intro kls wf r
  refine word (P := fun wrd => decode kls (.wide wrd) = .ok (.amoOr d a b z)) fun wrd hw => ?_
  obtain ⟨e0, e1, e2, e3, e4, e5⟩ := wideShape22 _ _ _ _ _ _ wrd hw
  have es : wrd.extractLsb' 0 8 = 28#7 ++ z := by subst hw; exact lowTwo _ _ _
  obtain rfl | rfl := oneBit z
  all_goals simp [decode, decodeWide, decodeLow, decodeAtomic, e0, e2, e3, e4, e5, es]

theorem RoundTrip.amoXor (d : BitVec 6) (a : BitVec 6) (b : BitVec 6) (z : BitVec 1) : RoundTrip.Statement (.amoXor d a b z) := by
  intro kls wf r
  refine word (P := fun wrd => decode kls (.wide wrd) = .ok (.amoXor d a b z)) fun wrd hw => ?_
  obtain ⟨e0, e1, e2, e3, e4, e5⟩ := wideShape22 _ _ _ _ _ _ wrd hw
  have es : wrd.extractLsb' 0 8 = 32#7 ++ z := by subst hw; exact lowTwo _ _ _
  obtain rfl | rfl := oneBit z
  all_goals simp [decode, decodeWide, decodeLow, decodeAtomic, e0, e2, e3, e4, e5, es]

theorem RoundTrip.amoSwap (d : BitVec 6) (a : BitVec 6) (b : BitVec 6) (z : BitVec 1) : RoundTrip.Statement (.amoSwap d a b z) := by
  intro kls wf r
  refine word (P := fun wrd => decode kls (.wide wrd) = .ok (.amoSwap d a b z)) fun wrd hw => ?_
  obtain ⟨e0, e1, e2, e3, e4, e5⟩ := wideShape22 _ _ _ _ _ _ wrd hw
  have es : wrd.extractLsb' 0 8 = 36#7 ++ z := by subst hw; exact lowTwo _ _ _
  obtain rfl | rfl := oneBit z
  all_goals simp [decode, decodeWide, decodeLow, decodeAtomic, e0, e2, e3, e4, e5, es]

theorem RoundTrip.amoCas (d : BitVec 6) (a : BitVec 6) (b : BitVec 6) (z : BitVec 1) : RoundTrip.Statement (.amoCas d a b z) := by
  intro kls wf r
  refine word (P := fun wrd => decode kls (.wide wrd) = .ok (.amoCas d a b z)) fun wrd hw => ?_
  obtain ⟨e0, e1, e2, e3, e4, e5⟩ := wideShape22 _ _ _ _ _ _ wrd hw
  have es : wrd.extractLsb' 0 8 = 40#7 ++ z := by subst hw; exact lowTwo _ _ _
  obtain rfl | rfl := oneBit z
  all_goals simp [decode, decodeWide, decodeLow, decodeAtomic, e0, e2, e3, e4, e5, es]

theorem RoundTrip.sdef (a : BitVec 6) (n : BitVec 4) : RoundTrip.Statement (.sdef a n) := by
  intro kls wf r
  refine word (P := fun wrd => decode kls (.wide wrd) = .ok (.sdef a n)) fun wrd hw => ?_
  obtain ⟨e0, e1, e2, e3, e4, e5, e6, e7⟩ := wideShape26 _ _ _ _ _ wrd hw
  have hm : wrd &&& 0x000FFF80#32 = 0#32 := maskRun wrd 7 13 (e3.trans rfl)
  simp [decode, decodeWide, decodeLow, decodeStream, reservedZero, e0, e1, e6, e7, hm]

theorem RoundTrip.sgo (n : BitVec 4) : RoundTrip.Statement (.sgo n) := by
  intro kls wf r
  refine word (P := fun wrd => decode kls (.wide wrd) = .ok (.sgo n)) fun wrd hw => ?_
  obtain ⟨e0, e1, e2, e3, e4, e5, e6, e7⟩ := wideShape27 _ _ _ wrd hw
  have hm : wrd &&& 0x03FFFF80#32 = 0#32 := maskRun wrd 7 19 (e3.trans rfl)
  simp [decode, decodeWide, decodeLow, decodeStream, reservedZero, e0, e1, e7, hm]

theorem RoundTrip.sstop (n : BitVec 4) : RoundTrip.Statement (.sstop n) := by
  intro kls wf r
  refine word (P := fun wrd => decode kls (.wide wrd) = .ok (.sstop n)) fun wrd hw => ?_
  obtain ⟨e0, e1, e2, e3, e4, e5, e6, e7⟩ := wideShape27 _ _ _ wrd hw
  have hm : wrd &&& 0x03FFFF80#32 = 0#32 := maskRun wrd 7 19 (e3.trans rfl)
  simp [decode, decodeWide, decodeLow, decodeStream, reservedZero, e0, e1, e7, hm]

theorem RoundTrip.sstat (d : BitVec 6) (w : BitVec 2) (n : BitVec 4) : RoundTrip.Statement (.sstat d w n) := by
  intro kls wf r
  refine word (P := fun wrd => decode kls (.wide wrd) = .ok (.sstat d w n)) fun wrd hw => ?_
  obtain ⟨e0, e1, e2, e3, e4, e5, e6, e7⟩ := wideShape28 _ _ _ _ _ _ wrd hw
  have hm : wrd &&& 0x000FFE00#32 = 0#32 := maskRun wrd 9 11 (e4.trans rfl)
  simp [decode, decodeWide, decodeLow, decodeStream, reservedZero, e0, e1, e2, e6, e7, hm]

theorem RoundTrip.scrldStream (a : BitVec 6) (e : BitVec 10) (n : BitVec 4) : RoundTrip.Statement (.scrldStream a e n) := by
  intro kls wf r
  refine word (P := fun wrd => decode kls (.wide wrd) = .ok (.scrldStream a e n)) fun wrd hw => ?_
  obtain ⟨e0, e1, e2, e3, e4, e5, e6⟩ := wideShape29 _ _ _ _ _ _ wrd hw
  have hm : wrd &&& 0x00000180#32 = 0#32 := maskRun wrd 7 2 (e2.trans rfl)
  simp [decode, decodeWide, decodeLow, decodeStream, reservedZero, e0, e1, e3, e4, e5, e6, hm]

theorem RoundTrip.scrldOctet (a : BitVec 6) (e : BitVec 10) (d : BitVec 6) : RoundTrip.Statement (.scrldOctet a e d) := by
  intro kls wf r
  refine word (P := fun wrd => decode kls (.wide wrd) = .ok (.scrldOctet a e d)) fun wrd hw => ?_
  obtain ⟨e0, e1, e2, e3, e4, e5, e6, e7⟩ := wideShape30 _ _ _ _ _ _ wrd hw
  simp [decode, decodeWide, decodeLow, decodeStream, e0, e2, e4, e5, e6, e7]

theorem RoundTrip.scrstStream (a : BitVec 6) (e : BitVec 10) (n : BitVec 4) : RoundTrip.Statement (.scrstStream a e n) := by
  intro kls wf r
  refine word (P := fun wrd => decode kls (.wide wrd) = .ok (.scrstStream a e n)) fun wrd hw => ?_
  obtain ⟨e0, e1, e2, e3, e4, e5, e6⟩ := wideShape29 _ _ _ _ _ _ wrd hw
  have hm : wrd &&& 0x00000180#32 = 0#32 := maskRun wrd 7 2 (e2.trans rfl)
  simp [decode, decodeWide, decodeLow, decodeStream, reservedZero, e0, e1, e3, e4, e5, e6, hm]

theorem RoundTrip.scrstOctet (a : BitVec 6) (e : BitVec 10) (d : BitVec 6) : RoundTrip.Statement (.scrstOctet a e d) := by
  intro kls wf r
  refine word (P := fun wrd => decode kls (.wide wrd) = .ok (.scrstOctet a e d)) fun wrd hw => ?_
  obtain ⟨e0, e1, e2, e3, e4, e5, e6, e7⟩ := wideShape30 _ _ _ _ _ _ wrd hw
  simp [decode, decodeWide, decodeLow, decodeStream, e0, e2, e4, e5, e6, e7]

theorem RoundTrip.ringAdvC (h : BitVec 4) (n : BitVec 10) : RoundTrip.Statement (.ringAdvC h n) := by
  intro kls wf r
  refine word (P := fun wrd => decode kls (.wide wrd) = .ok (.ringAdvC h n)) fun wrd hw => ?_
  obtain ⟨e0, e1, e2, e3, e4, e5, e6⟩ := wideShape31 _ _ _ _ wrd hw
  have hm : wrd &&& 0x00000FF8#32 = 0#32 := maskRun wrd 3 9 (e2.trans rfl)
  simp [decode, decodeWide, decodeLow, decodeRing, reservedZero, e0, e4, e5, e6, hm]

theorem RoundTrip.ringAdvP (h : BitVec 4) (n : BitVec 10) : RoundTrip.Statement (.ringAdvP h n) := by
  intro kls wf r
  refine word (P := fun wrd => decode kls (.wide wrd) = .ok (.ringAdvP h n)) fun wrd hw => ?_
  obtain ⟨e0, e1, e2, e3, e4, e5, e6⟩ := wideShape31 _ _ _ _ wrd hw
  have hm : wrd &&& 0x00000FF8#32 = 0#32 := maskRun wrd 3 9 (e2.trans rfl)
  simp [decode, decodeWide, decodeLow, decodeRing, reservedZero, e0, e4, e5, e6, hm]

theorem RoundTrip.ringPushA (h : BitVec 4) (w : BitVec 10) (o : BitVec 2) (d : BitVec 6) : RoundTrip.Statement (.ringPushA h w o d) := by
  intro kls wf r
  refine word (P := fun wrd => decode kls (.wide wrd) = .ok (.ringPushA h w o d)) fun wrd hw => ?_
  obtain ⟨e0, e1, e2, e3, e4, e5, e6⟩ := wideShape32 _ _ _ _ _ _ _ wrd hw
  have hm : wrd &&& 0x00000800#32 = 0#32 := maskRun wrd 11 1 (e3.trans rfl)
  simp only [Instr.readBy, bne_iff_ne, ne_eq] at r
  simp [decode, decodeWide, decodeLow, decodeRing, reservedZero, e0, e1, e2, e4, e5, e6, hm, r]

theorem RoundTrip.ringPushV (h : BitVec 4) (o : BitVec 2) (v : BitVec 6) : RoundTrip.Statement (.ringPushV h o v) := by
  intro kls wf r
  refine word (P := fun wrd => decode kls (.wide wrd) = .ok (.ringPushV h o v)) fun wrd hw => ?_
  obtain ⟨e0, e1, e2, e3, e4, e5, e6⟩ := wideShape33 _ _ _ _ _ _ wrd hw
  have hm : wrd &&& 0x003FF800#32 = 0#32 := maskRun wrd 11 11 (e3.trans rfl)
  simp only [Instr.readBy, beq_iff_eq] at r
  simp [decode, decodeWide, decodeLow, decodeRing, reservedZero, e0, e1, e2, e5, e6, hm, r]

theorem RoundTrip.ringPopA (h : BitVec 4) (w : BitVec 10) (o : BitVec 2) (d : BitVec 6) : RoundTrip.Statement (.ringPopA h w o d) := by
  intro kls wf r
  refine word (P := fun wrd => decode kls (.wide wrd) = .ok (.ringPopA h w o d)) fun wrd hw => ?_
  obtain ⟨e0, e1, e2, e3, e4, e5, e6⟩ := wideShape32 _ _ _ _ _ _ _ wrd hw
  have hm : wrd &&& 0x00000800#32 = 0#32 := maskRun wrd 11 1 (e3.trans rfl)
  simp only [Instr.readBy, bne_iff_ne, ne_eq] at r
  simp [decode, decodeWide, decodeLow, decodeRing, reservedZero, e0, e1, e2, e4, e5, e6, hm, r]

theorem RoundTrip.ringPopV (h : BitVec 4) (o : BitVec 2) (v : BitVec 6) : RoundTrip.Statement (.ringPopV h o v) := by
  intro kls wf r
  refine word (P := fun wrd => decode kls (.wide wrd) = .ok (.ringPopV h o v)) fun wrd hw => ?_
  obtain ⟨e0, e1, e2, e3, e4, e5, e6⟩ := wideShape33 _ _ _ _ _ _ wrd hw
  have hm : wrd &&& 0x003FF800#32 = 0#32 := maskRun wrd 11 11 (e3.trans rfl)
  simp only [Instr.readBy, beq_iff_eq] at r
  simp [decode, decodeWide, decodeLow, decodeRing, reservedZero, e0, e1, e2, e5, e6, hm, r]

theorem RoundTrip.ringDef (h : BitVec 4) (a : BitVec 6) : RoundTrip.Statement (.ringDef h a) := by
  intro kls wf r
  refine word (P := fun wrd => decode kls (.wide wrd) = .ok (.ringDef h a)) fun wrd hw => ?_
  obtain ⟨e0, e1, e2, e3, e4, e5, e6⟩ := wideShape34 _ _ _ _ _ wrd hw
  have hm : wrd &&& 0x003FFE00#32 = 0#32 := maskRun wrd 9 13 (e3.trans rfl)
  simp [decode, decodeWide, decodeLow, decodeRing, reservedZero, e0, e1, e5, e6, hm]

theorem RoundTrip.tlook (d : BitVec 6) (a : BitVec 6) : RoundTrip.Statement (.tlook d a) := by
  intro kls wf r
  refine word (P := fun wrd => decode kls (.wide wrd) = .ok (.tlook d a)) fun wrd hw => ?_
  obtain ⟨e0, e1, e2, e3, e4⟩ := wideShape35 _ _ _ _ wrd hw
  have hm : wrd &&& 0x00003F00#32 = 0#32 := maskRun wrd 8 6 (e1.trans rfl)
  simp [decode, decodeWide, decodeLow, decodeTag, reservedZero, e0, e2, e3, e4, hm]

theorem RoundTrip.tset (d : BitVec 6) (a : BitVec 6) (b : BitVec 6) : RoundTrip.Statement (.tset d a b) := by
  intro kls wf r
  refine word (P := fun wrd => decode kls (.wide wrd) = .ok (.tset d a b)) fun wrd hw => ?_
  obtain ⟨e0, e1, e2, e3, e4⟩ := wideShape36 _ _ _ _ _ wrd hw
  simp [decode, decodeWide, decodeLow, decodeTag, e0, e1, e2, e3, e4]

theorem RoundTrip.tready (a : BitVec 6) : RoundTrip.Statement (.tready a) := by
  intro kls wf r
  refine word (P := fun wrd => decode kls (.wide wrd) = .ok (.tready a)) fun wrd hw => ?_
  obtain ⟨e0, e1, e2, e3, e4⟩ := wideShape37 _ _ _ wrd hw
  have hm : wrd &&& 0x03F03F00#32 = 0#32 := maskTwo (maskRun wrd 8 6 (e1.trans rfl)) (maskRun wrd 20 6 (e3.trans rfl)) rfl
  simp [decode, decodeWide, decodeLow, decodeTag, reservedZero, e0, e2, e4, hm]

theorem RoundTrip.treadyClr (a : BitVec 6) : RoundTrip.Statement (.treadyClr a) := by
  intro kls wf r
  refine word (P := fun wrd => decode kls (.wide wrd) = .ok (.treadyClr a)) fun wrd hw => ?_
  obtain ⟨e0, e1, e2, e3, e4⟩ := wideShape37 _ _ _ wrd hw
  have hm : wrd &&& 0x03F03F00#32 = 0#32 := maskTwo (maskRun wrd 8 6 (e1.trans rfl)) (maskRun wrd 20 6 (e3.trans rfl)) rfl
  simp [decode, decodeWide, decodeLow, decodeTag, reservedZero, e0, e2, e4, hm]

theorem RoundTrip.tdrop (a : BitVec 6) : RoundTrip.Statement (.tdrop a) := by
  intro kls wf r
  refine word (P := fun wrd => decode kls (.wide wrd) = .ok (.tdrop a)) fun wrd hw => ?_
  obtain ⟨e0, e1, e2, e3, e4⟩ := wideShape37 _ _ _ wrd hw
  have hm : wrd &&& 0x03F03F00#32 = 0#32 := maskTwo (maskRun wrd 8 6 (e1.trans rfl)) (maskRun wrd 20 6 (e3.trans rfl)) rfl
  simp [decode, decodeWide, decodeLow, decodeTag, reservedZero, e0, e2, e4, hm]

theorem RoundTrip.vadd (d : BitVec 7) (a : BitVec 7) (b : BitVec 7) : RoundTrip.Statement (.vadd d a b) := by
  intro kls wf r
  refine word (P := fun wrd => decode kls (.wide wrd) = .ok (.vadd d a b)) fun wrd hw => ?_
  obtain ⟨e0, e1, e2, e3, e4⟩ := wideShape38 _ _ _ _ _ wrd hw
  simp [decode, decodeWide, decodeLow, decodeVecInt, e0, e1, e2, e3, e4]

theorem RoundTrip.vsub (d : BitVec 7) (a : BitVec 7) (b : BitVec 7) : RoundTrip.Statement (.vsub d a b) := by
  intro kls wf r
  refine word (P := fun wrd => decode kls (.wide wrd) = .ok (.vsub d a b)) fun wrd hw => ?_
  obtain ⟨e0, e1, e2, e3, e4⟩ := wideShape38 _ _ _ _ _ wrd hw
  simp [decode, decodeWide, decodeLow, decodeVecInt, e0, e1, e2, e3, e4]

theorem RoundTrip.vmul (d : BitVec 7) (a : BitVec 7) (b : BitVec 7) : RoundTrip.Statement (.vmul d a b) := by
  intro kls wf r
  refine word (P := fun wrd => decode kls (.wide wrd) = .ok (.vmul d a b)) fun wrd hw => ?_
  obtain ⟨e0, e1, e2, e3, e4⟩ := wideShape38 _ _ _ _ _ wrd hw
  simp [decode, decodeWide, decodeLow, decodeVecInt, e0, e1, e2, e3, e4]

theorem RoundTrip.vminI (d : BitVec 7) (a : BitVec 7) (b : BitVec 7) : RoundTrip.Statement (.vminI d a b) := by
  intro kls wf r
  refine word (P := fun wrd => decode kls (.wide wrd) = .ok (.vminI d a b)) fun wrd hw => ?_
  obtain ⟨e0, e1, e2, e3, e4⟩ := wideShape38 _ _ _ _ _ wrd hw
  simp [decode, decodeWide, decodeLow, decodeVecInt, e0, e1, e2, e3, e4]

theorem RoundTrip.vminN (d : BitVec 7) (a : BitVec 7) (b : BitVec 7) : RoundTrip.Statement (.vminN d a b) := by
  intro kls wf r
  refine word (P := fun wrd => decode kls (.wide wrd) = .ok (.vminN d a b)) fun wrd hw => ?_
  obtain ⟨e0, e1, e2, e3, e4⟩ := wideShape38 _ _ _ _ _ wrd hw
  simp [decode, decodeWide, decodeLow, decodeVecInt, e0, e1, e2, e3, e4]

theorem RoundTrip.vmaxI (d : BitVec 7) (a : BitVec 7) (b : BitVec 7) : RoundTrip.Statement (.vmaxI d a b) := by
  intro kls wf r
  refine word (P := fun wrd => decode kls (.wide wrd) = .ok (.vmaxI d a b)) fun wrd hw => ?_
  obtain ⟨e0, e1, e2, e3, e4⟩ := wideShape38 _ _ _ _ _ wrd hw
  simp [decode, decodeWide, decodeLow, decodeVecInt, e0, e1, e2, e3, e4]

theorem RoundTrip.vmaxN (d : BitVec 7) (a : BitVec 7) (b : BitVec 7) : RoundTrip.Statement (.vmaxN d a b) := by
  intro kls wf r
  refine word (P := fun wrd => decode kls (.wide wrd) = .ok (.vmaxN d a b)) fun wrd hw => ?_
  obtain ⟨e0, e1, e2, e3, e4⟩ := wideShape38 _ _ _ _ _ wrd hw
  simp [decode, decodeWide, decodeLow, decodeVecInt, e0, e1, e2, e3, e4]

theorem RoundTrip.vaddsI (d : BitVec 7) (a : BitVec 7) (b : BitVec 7) : RoundTrip.Statement (.vaddsI d a b) := by
  intro kls wf r
  refine word (P := fun wrd => decode kls (.wide wrd) = .ok (.vaddsI d a b)) fun wrd hw => ?_
  obtain ⟨e0, e1, e2, e3, e4⟩ := wideShape38 _ _ _ _ _ wrd hw
  simp [decode, decodeWide, decodeLow, decodeVecInt, e0, e1, e2, e3, e4]

theorem RoundTrip.vaddsN (d : BitVec 7) (a : BitVec 7) (b : BitVec 7) : RoundTrip.Statement (.vaddsN d a b) := by
  intro kls wf r
  refine word (P := fun wrd => decode kls (.wide wrd) = .ok (.vaddsN d a b)) fun wrd hw => ?_
  obtain ⟨e0, e1, e2, e3, e4⟩ := wideShape38 _ _ _ _ _ wrd hw
  simp [decode, decodeWide, decodeLow, decodeVecInt, e0, e1, e2, e3, e4]

theorem RoundTrip.vsubsI (d : BitVec 7) (a : BitVec 7) (b : BitVec 7) : RoundTrip.Statement (.vsubsI d a b) := by
  intro kls wf r
  refine word (P := fun wrd => decode kls (.wide wrd) = .ok (.vsubsI d a b)) fun wrd hw => ?_
  obtain ⟨e0, e1, e2, e3, e4⟩ := wideShape38 _ _ _ _ _ wrd hw
  simp [decode, decodeWide, decodeLow, decodeVecInt, e0, e1, e2, e3, e4]

theorem RoundTrip.vsubsN (d : BitVec 7) (a : BitVec 7) (b : BitVec 7) : RoundTrip.Statement (.vsubsN d a b) := by
  intro kls wf r
  refine word (P := fun wrd => decode kls (.wide wrd) = .ok (.vsubsN d a b)) fun wrd hw => ?_
  obtain ⟨e0, e1, e2, e3, e4⟩ := wideShape38 _ _ _ _ _ wrd hw
  simp [decode, decodeWide, decodeLow, decodeVecInt, e0, e1, e2, e3, e4]

theorem RoundTrip.vand (d : BitVec 7) (a : BitVec 7) (b : BitVec 7) : RoundTrip.Statement (.vand d a b) := by
  intro kls wf r
  refine word (P := fun wrd => decode kls (.wide wrd) = .ok (.vand d a b)) fun wrd hw => ?_
  obtain ⟨e0, e1, e2, e3, e4⟩ := wideShape38 _ _ _ _ _ wrd hw
  simp [decode, decodeWide, decodeLow, decodeVecInt, e0, e1, e2, e3, e4]

theorem RoundTrip.vor (d : BitVec 7) (a : BitVec 7) (b : BitVec 7) : RoundTrip.Statement (.vor d a b) := by
  intro kls wf r
  refine word (P := fun wrd => decode kls (.wide wrd) = .ok (.vor d a b)) fun wrd hw => ?_
  obtain ⟨e0, e1, e2, e3, e4⟩ := wideShape38 _ _ _ _ _ wrd hw
  simp [decode, decodeWide, decodeLow, decodeVecInt, e0, e1, e2, e3, e4]

theorem RoundTrip.vxor (d : BitVec 7) (a : BitVec 7) (b : BitVec 7) : RoundTrip.Statement (.vxor d a b) := by
  intro kls wf r
  refine word (P := fun wrd => decode kls (.wide wrd) = .ok (.vxor d a b)) fun wrd hw => ?_
  obtain ⟨e0, e1, e2, e3, e4⟩ := wideShape38 _ _ _ _ _ wrd hw
  simp [decode, decodeWide, decodeLow, decodeVecInt, e0, e1, e2, e3, e4]

theorem RoundTrip.vandn (d : BitVec 7) (a : BitVec 7) (b : BitVec 7) : RoundTrip.Statement (.vandn d a b) := by
  intro kls wf r
  refine word (P := fun wrd => decode kls (.wide wrd) = .ok (.vandn d a b)) fun wrd hw => ?_
  obtain ⟨e0, e1, e2, e3, e4⟩ := wideShape38 _ _ _ _ _ wrd hw
  simp [decode, decodeWide, decodeLow, decodeVecInt, e0, e1, e2, e3, e4]

theorem RoundTrip.vshl (d : BitVec 7) (a : BitVec 7) (b : BitVec 7) : RoundTrip.Statement (.vshl d a b) := by
  intro kls wf r
  refine word (P := fun wrd => decode kls (.wide wrd) = .ok (.vshl d a b)) fun wrd hw => ?_
  obtain ⟨e0, e1, e2, e3, e4⟩ := wideShape38 _ _ _ _ _ wrd hw
  simp [decode, decodeWide, decodeLow, decodeVecInt, e0, e1, e2, e3, e4]

theorem RoundTrip.vshr (d : BitVec 7) (a : BitVec 7) (b : BitVec 7) : RoundTrip.Statement (.vshr d a b) := by
  intro kls wf r
  refine word (P := fun wrd => decode kls (.wide wrd) = .ok (.vshr d a b)) fun wrd hw => ?_
  obtain ⟨e0, e1, e2, e3, e4⟩ := wideShape38 _ _ _ _ _ wrd hw
  simp [decode, decodeWide, decodeLow, decodeVecInt, e0, e1, e2, e3, e4]

theorem RoundTrip.vsra (d : BitVec 7) (a : BitVec 7) (b : BitVec 7) : RoundTrip.Statement (.vsra d a b) := by
  intro kls wf r
  refine word (P := fun wrd => decode kls (.wide wrd) = .ok (.vsra d a b)) fun wrd hw => ?_
  obtain ⟨e0, e1, e2, e3, e4⟩ := wideShape38 _ _ _ _ _ wrd hw
  simp [decode, decodeWide, decodeLow, decodeVecInt, e0, e1, e2, e3, e4]

theorem RoundTrip.vceq (d : BitVec 7) (a : BitVec 7) (b : BitVec 7) : RoundTrip.Statement (.vceq d a b) := by
  intro kls wf r
  refine word (P := fun wrd => decode kls (.wide wrd) = .ok (.vceq d a b)) fun wrd hw => ?_
  obtain ⟨e0, e1, e2, e3, e4⟩ := wideShape38 _ _ _ _ _ wrd hw
  simp [decode, decodeWide, decodeLow, decodeVecInt, e0, e1, e2, e3, e4]

theorem RoundTrip.vcltI (d : BitVec 7) (a : BitVec 7) (b : BitVec 7) : RoundTrip.Statement (.vcltI d a b) := by
  intro kls wf r
  refine word (P := fun wrd => decode kls (.wide wrd) = .ok (.vcltI d a b)) fun wrd hw => ?_
  obtain ⟨e0, e1, e2, e3, e4⟩ := wideShape38 _ _ _ _ _ wrd hw
  simp [decode, decodeWide, decodeLow, decodeVecInt, e0, e1, e2, e3, e4]

theorem RoundTrip.vcltN (d : BitVec 7) (a : BitVec 7) (b : BitVec 7) : RoundTrip.Statement (.vcltN d a b) := by
  intro kls wf r
  refine word (P := fun wrd => decode kls (.wide wrd) = .ok (.vcltN d a b)) fun wrd hw => ?_
  obtain ⟨e0, e1, e2, e3, e4⟩ := wideShape38 _ _ _ _ _ wrd hw
  simp [decode, decodeWide, decodeLow, decodeVecInt, e0, e1, e2, e3, e4]

theorem RoundTrip.vmov (d : BitVec 7) (a : BitVec 7) : RoundTrip.Statement (.vmov d a) := by
  intro kls wf r
  refine word (P := fun wrd => decode kls (.wide wrd) = .ok (.vmov d a)) fun wrd hw => ?_
  obtain ⟨e0, e1, e2, e3, e4⟩ := wideShape39 _ _ _ _ wrd hw
  have hm : wrd &&& 0x00000FE0#32 = 0#32 := maskRun wrd 5 7 (e1.trans rfl)
  simp [decode, decodeWide, decodeLow, decodeVecInt, reservedZero, e0, e2, e3, e4, hm]

theorem RoundTrip.vbcs (d : BitVec 7) (a : BitVec 7) : RoundTrip.Statement (.vbcs d a) := by
  intro kls wf r
  refine word (P := fun wrd => decode kls (.wide wrd) = .ok (.vbcs d a)) fun wrd hw => ?_
  obtain ⟨e0, e1, e2, e3, e4⟩ := wideShape39 _ _ _ _ wrd hw
  have hm : wrd &&& 0x00000FE0#32 = 0#32 := maskRun wrd 5 7 (e1.trans rfl)
  simp [decode, decodeWide, decodeLow, decodeVecInt, reservedZero, e0, e2, e3, e4, hm]

theorem RoundTrip.vins (d : BitVec 7) (a : BitVec 7) (b : BitVec 7) : RoundTrip.Statement (.vins d a b) := by
  intro kls wf r
  refine word (P := fun wrd => decode kls (.wide wrd) = .ok (.vins d a b)) fun wrd hw => ?_
  obtain ⟨e0, e1, e2, e3, e4⟩ := wideShape38 _ _ _ _ _ wrd hw
  simp [decode, decodeWide, decodeLow, decodeVecInt, e0, e1, e2, e3, e4]

theorem RoundTrip.vext (d : BitVec 7) (a : BitVec 7) (b : BitVec 7) : RoundTrip.Statement (.vext d a b) := by
  intro kls wf r
  refine word (P := fun wrd => decode kls (.wide wrd) = .ok (.vext d a b)) fun wrd hw => ?_
  obtain ⟨e0, e1, e2, e3, e4⟩ := wideShape38 _ _ _ _ _ wrd hw
  simp [decode, decodeWide, decodeLow, decodeVecInt, e0, e1, e2, e3, e4]

theorem RoundTrip.vidx (d : BitVec 7) : RoundTrip.Statement (.vidx d) := by
  intro kls wf r
  refine word (P := fun wrd => decode kls (.wide wrd) = .ok (.vidx d)) fun wrd hw => ?_
  obtain ⟨e0, e1, e2, e3, e4, e5⟩ := wideShape40 _ _ _ wrd hw
  have hm : wrd &&& 0x0007FFE0#32 = 0#32 := maskRun wrd 5 14 (e2.trans rfl)
  simp [decode, decodeWide, decodeLow, decodeVecInt, reservedZero, e0, e4, e5, hm]

theorem RoundTrip.dot4S (d : BitVec 7) (a : BitVec 7) (b : BitVec 7) : RoundTrip.Statement (.dot4S d a b) := by
  intro kls wf r
  refine word (P := fun wrd => decode kls (.wide wrd) = .ok (.dot4S d a b)) fun wrd hw => ?_
  obtain ⟨e0, e1, e2, e3, e4⟩ := wideShape38 _ _ _ _ _ wrd hw
  simp [decode, decodeWide, decodeLow, decodeVecInt, e0, e1, e2, e3, e4]

theorem RoundTrip.mkAnd (d : BitVec 7) (a : BitVec 7) (b : BitVec 7) : RoundTrip.Statement (.mkAnd d a b) := by
  intro kls wf r
  refine word (P := fun wrd => decode kls (.wide wrd) = .ok (.mkAnd d a b)) fun wrd hw => ?_
  obtain ⟨e0, e1, e2, e3, e4⟩ := wideShape38 _ _ _ _ _ wrd hw
  simp [decode, decodeWide, decodeLow, decodeVecInt, e0, e1, e2, e3, e4]

theorem RoundTrip.mkOr (d : BitVec 7) (a : BitVec 7) (b : BitVec 7) : RoundTrip.Statement (.mkOr d a b) := by
  intro kls wf r
  refine word (P := fun wrd => decode kls (.wide wrd) = .ok (.mkOr d a b)) fun wrd hw => ?_
  obtain ⟨e0, e1, e2, e3, e4⟩ := wideShape38 _ _ _ _ _ wrd hw
  simp [decode, decodeWide, decodeLow, decodeVecInt, e0, e1, e2, e3, e4]

theorem RoundTrip.mkXor (d : BitVec 7) (a : BitVec 7) (b : BitVec 7) : RoundTrip.Statement (.mkXor d a b) := by
  intro kls wf r
  refine word (P := fun wrd => decode kls (.wide wrd) = .ok (.mkXor d a b)) fun wrd hw => ?_
  obtain ⟨e0, e1, e2, e3, e4⟩ := wideShape38 _ _ _ _ _ wrd hw
  simp [decode, decodeWide, decodeLow, decodeVecInt, e0, e1, e2, e3, e4]

theorem RoundTrip.mkAndn (d : BitVec 7) (a : BitVec 7) (b : BitVec 7) : RoundTrip.Statement (.mkAndn d a b) := by
  intro kls wf r
  refine word (P := fun wrd => decode kls (.wide wrd) = .ok (.mkAndn d a b)) fun wrd hw => ?_
  obtain ⟨e0, e1, e2, e3, e4⟩ := wideShape38 _ _ _ _ _ wrd hw
  simp [decode, decodeWide, decodeLow, decodeVecInt, e0, e1, e2, e3, e4]

theorem RoundTrip.mkSet (d : BitVec 7) (a : BitVec 7) : RoundTrip.Statement (.mkSet d a) := by
  intro kls wf r
  refine word (P := fun wrd => decode kls (.wide wrd) = .ok (.mkSet d a)) fun wrd hw => ?_
  obtain ⟨e0, e1, e2, e3, e4⟩ := wideShape39 _ _ _ _ wrd hw
  have hm : wrd &&& 0x00000FE0#32 = 0#32 := maskRun wrd 5 7 (e1.trans rfl)
  simp [decode, decodeWide, decodeLow, decodeVecInt, reservedZero, e0, e2, e3, e4, hm]

theorem RoundTrip.vfadd (d : BitVec 7) (a : BitVec 7) (b : BitVec 7) : RoundTrip.Statement (.vfadd d a b) := by
  intro kls wf r
  refine word (P := fun wrd => decode kls (.wide wrd) = .ok (.vfadd d a b)) fun wrd hw => ?_
  obtain ⟨e0, e1, e2, e3, e4⟩ := wideShape38 _ _ _ _ _ wrd hw
  simp [decode, decodeWide, decodeLow, decodeVecFloat, e0, e1, e2, e3, e4]

theorem RoundTrip.vfsub (d : BitVec 7) (a : BitVec 7) (b : BitVec 7) : RoundTrip.Statement (.vfsub d a b) := by
  intro kls wf r
  refine word (P := fun wrd => decode kls (.wide wrd) = .ok (.vfsub d a b)) fun wrd hw => ?_
  obtain ⟨e0, e1, e2, e3, e4⟩ := wideShape38 _ _ _ _ _ wrd hw
  simp [decode, decodeWide, decodeLow, decodeVecFloat, e0, e1, e2, e3, e4]

theorem RoundTrip.vfmul (d : BitVec 7) (a : BitVec 7) (b : BitVec 7) : RoundTrip.Statement (.vfmul d a b) := by
  intro kls wf r
  refine word (P := fun wrd => decode kls (.wide wrd) = .ok (.vfmul d a b)) fun wrd hw => ?_
  obtain ⟨e0, e1, e2, e3, e4⟩ := wideShape38 _ _ _ _ _ wrd hw
  simp [decode, decodeWide, decodeLow, decodeVecFloat, e0, e1, e2, e3, e4]

theorem RoundTrip.vfma (d : BitVec 7) (a : BitVec 7) (b : BitVec 7) : RoundTrip.Statement (.vfma d a b) := by
  intro kls wf r
  refine word (P := fun wrd => decode kls (.wide wrd) = .ok (.vfma d a b)) fun wrd hw => ?_
  obtain ⟨e0, e1, e2, e3, e4⟩ := wideShape38 _ _ _ _ _ wrd hw
  simp [decode, decodeWide, decodeLow, decodeVecFloat, e0, e1, e2, e3, e4]

theorem RoundTrip.vfnma (d : BitVec 7) (a : BitVec 7) (b : BitVec 7) : RoundTrip.Statement (.vfnma d a b) := by
  intro kls wf r
  refine word (P := fun wrd => decode kls (.wide wrd) = .ok (.vfnma d a b)) fun wrd hw => ?_
  obtain ⟨e0, e1, e2, e3, e4⟩ := wideShape38 _ _ _ _ _ wrd hw
  simp [decode, decodeWide, decodeLow, decodeVecFloat, e0, e1, e2, e3, e4]

theorem RoundTrip.vfmin (d : BitVec 7) (a : BitVec 7) (b : BitVec 7) : RoundTrip.Statement (.vfmin d a b) := by
  intro kls wf r
  refine word (P := fun wrd => decode kls (.wide wrd) = .ok (.vfmin d a b)) fun wrd hw => ?_
  obtain ⟨e0, e1, e2, e3, e4⟩ := wideShape38 _ _ _ _ _ wrd hw
  simp [decode, decodeWide, decodeLow, decodeVecFloat, e0, e1, e2, e3, e4]

theorem RoundTrip.vfmax (d : BitVec 7) (a : BitVec 7) (b : BitVec 7) : RoundTrip.Statement (.vfmax d a b) := by
  intro kls wf r
  refine word (P := fun wrd => decode kls (.wide wrd) = .ok (.vfmax d a b)) fun wrd hw => ?_
  obtain ⟨e0, e1, e2, e3, e4⟩ := wideShape38 _ _ _ _ _ wrd hw
  simp [decode, decodeWide, decodeLow, decodeVecFloat, e0, e1, e2, e3, e4]

theorem RoundTrip.vfabs (d : BitVec 7) (a : BitVec 7) : RoundTrip.Statement (.vfabs d a) := by
  intro kls wf r
  refine word (P := fun wrd => decode kls (.wide wrd) = .ok (.vfabs d a)) fun wrd hw => ?_
  obtain ⟨e0, e1, e2, e3, e4⟩ := wideShape39 _ _ _ _ wrd hw
  have hm : wrd &&& 0x00000FE0#32 = 0#32 := maskRun wrd 5 7 (e1.trans rfl)
  simp [decode, decodeWide, decodeLow, decodeVecFloat, reservedZero, e0, e2, e3, e4, hm]

theorem RoundTrip.vfneg (d : BitVec 7) (a : BitVec 7) : RoundTrip.Statement (.vfneg d a) := by
  intro kls wf r
  refine word (P := fun wrd => decode kls (.wide wrd) = .ok (.vfneg d a)) fun wrd hw => ?_
  obtain ⟨e0, e1, e2, e3, e4⟩ := wideShape39 _ _ _ _ wrd hw
  have hm : wrd &&& 0x00000FE0#32 = 0#32 := maskRun wrd 5 7 (e1.trans rfl)
  simp [decode, decodeWide, decodeLow, decodeVecFloat, reservedZero, e0, e2, e3, e4, hm]

theorem RoundTrip.vfceq (d : BitVec 7) (a : BitVec 7) (b : BitVec 7) : RoundTrip.Statement (.vfceq d a b) := by
  intro kls wf r
  refine word (P := fun wrd => decode kls (.wide wrd) = .ok (.vfceq d a b)) fun wrd hw => ?_
  obtain ⟨e0, e1, e2, e3, e4⟩ := wideShape38 _ _ _ _ _ wrd hw
  simp [decode, decodeWide, decodeLow, decodeVecFloat, e0, e1, e2, e3, e4]

theorem RoundTrip.vfclt (d : BitVec 7) (a : BitVec 7) (b : BitVec 7) : RoundTrip.Statement (.vfclt d a b) := by
  intro kls wf r
  refine word (P := fun wrd => decode kls (.wide wrd) = .ok (.vfclt d a b)) fun wrd hw => ?_
  obtain ⟨e0, e1, e2, e3, e4⟩ := wideShape38 _ _ _ _ _ wrd hw
  simp [decode, decodeWide, decodeLow, decodeVecFloat, e0, e1, e2, e3, e4]

theorem RoundTrip.vfcle (d : BitVec 7) (a : BitVec 7) (b : BitVec 7) : RoundTrip.Statement (.vfcle d a b) := by
  intro kls wf r
  refine word (P := fun wrd => decode kls (.wide wrd) = .ok (.vfcle d a b)) fun wrd hw => ?_
  obtain ⟨e0, e1, e2, e3, e4⟩ := wideShape38 _ _ _ _ _ wrd hw
  simp [decode, decodeWide, decodeLow, decodeVecFloat, e0, e1, e2, e3, e4]

theorem RoundTrip.vfcun (d : BitVec 7) (a : BitVec 7) (b : BitVec 7) : RoundTrip.Statement (.vfcun d a b) := by
  intro kls wf r
  refine word (P := fun wrd => decode kls (.wide wrd) = .ok (.vfcun d a b)) fun wrd hw => ?_
  obtain ⟨e0, e1, e2, e3, e4⟩ := wideShape38 _ _ _ _ _ wrd hw
  simp [decode, decodeWide, decodeLow, decodeVecFloat, e0, e1, e2, e3, e4]

theorem RoundTrip.vfmuls (d : BitVec 7) (a : BitVec 7) (b : BitVec 7) : RoundTrip.Statement (.vfmuls d a b) := by
  intro kls wf r
  refine word (P := fun wrd => decode kls (.wide wrd) = .ok (.vfmuls d a b)) fun wrd hw => ?_
  obtain ⟨e0, e1, e2, e3, e4⟩ := wideShape38 _ _ _ _ _ wrd hw
  simp [decode, decodeWide, decodeLow, decodeVecFloat, e0, e1, e2, e3, e4]

theorem RoundTrip.vfadds (d : BitVec 7) (a : BitVec 7) (b : BitVec 7) : RoundTrip.Statement (.vfadds d a b) := by
  intro kls wf r
  refine word (P := fun wrd => decode kls (.wide wrd) = .ok (.vfadds d a b)) fun wrd hw => ?_
  obtain ⟨e0, e1, e2, e3, e4⟩ := wideShape38 _ _ _ _ _ wrd hw
  simp [decode, decodeWide, decodeLow, decodeVecFloat, e0, e1, e2, e3, e4]

theorem RoundTrip.rotr (d : BitVec 7) (a : BitVec 7) (b : BitVec 7) : RoundTrip.Statement (.rotr d a b) := by
  intro kls wf r
  refine word (P := fun wrd => decode kls (.wide wrd) = .ok (.rotr d a b)) fun wrd hw => ?_
  obtain ⟨e0, e1, e2, e3, e4⟩ := wideShape38 _ _ _ _ _ wrd hw
  simp [decode, decodeWide, decodeLow, decodeVecAxis, e0, e1, e2, e3, e4]

theorem RoundTrip.rotc (d : BitVec 7) (a : BitVec 7) (b : BitVec 7) : RoundTrip.Statement (.rotc d a b) := by
  intro kls wf r
  refine word (P := fun wrd => decode kls (.wide wrd) = .ok (.rotc d a b)) fun wrd hw => ?_
  obtain ⟨e0, e1, e2, e3, e4⟩ := wideShape38 _ _ _ _ _ wrd hw
  simp [decode, decodeWide, decodeLow, decodeVecAxis, e0, e1, e2, e3, e4]

theorem RoundTrip.bcr (d : BitVec 7) (a : BitVec 7) (b : BitVec 7) : RoundTrip.Statement (.bcr d a b) := by
  intro kls wf r
  refine word (P := fun wrd => decode kls (.wide wrd) = .ok (.bcr d a b)) fun wrd hw => ?_
  obtain ⟨e0, e1, e2, e3, e4⟩ := wideShape38 _ _ _ _ _ wrd hw
  simp [decode, decodeWide, decodeLow, decodeVecAxis, e0, e1, e2, e3, e4]

theorem RoundTrip.bcc (d : BitVec 7) (a : BitVec 7) (b : BitVec 7) : RoundTrip.Statement (.bcc d a b) := by
  intro kls wf r
  refine word (P := fun wrd => decode kls (.wide wrd) = .ok (.bcc d a b)) fun wrd hw => ?_
  obtain ⟨e0, e1, e2, e3, e4⟩ := wideShape38 _ _ _ _ _ wrd hw
  simp [decode, decodeWide, decodeLow, decodeVecAxis, e0, e1, e2, e3, e4]

theorem RoundTrip.redrFadd (d : BitVec 7) (a : BitVec 7) : RoundTrip.Statement (.redrFadd d a) := by
  intro kls wf r
  refine word (P := fun wrd => decode kls (.wide wrd) = .ok (.redrFadd d a)) fun wrd hw => ?_
  obtain ⟨e0, e1, e2, e3, e4⟩ := wideShape39 _ _ _ _ wrd hw
  have hm : wrd &&& 0x00000FE0#32 = 0#32 := maskRun wrd 5 7 (e1.trans rfl)
  simp [decode, decodeWide, decodeLow, decodeVecAxis, reservedZero, e0, e2, e3, e4, hm]

theorem RoundTrip.redrFmax (d : BitVec 7) (a : BitVec 7) : RoundTrip.Statement (.redrFmax d a) := by
  intro kls wf r
  refine word (P := fun wrd => decode kls (.wide wrd) = .ok (.redrFmax d a)) fun wrd hw => ?_
  obtain ⟨e0, e1, e2, e3, e4⟩ := wideShape39 _ _ _ _ wrd hw
  have hm : wrd &&& 0x00000FE0#32 = 0#32 := maskRun wrd 5 7 (e1.trans rfl)
  simp [decode, decodeWide, decodeLow, decodeVecAxis, reservedZero, e0, e2, e3, e4, hm]

theorem RoundTrip.redrFmin (d : BitVec 7) (a : BitVec 7) : RoundTrip.Statement (.redrFmin d a) := by
  intro kls wf r
  refine word (P := fun wrd => decode kls (.wide wrd) = .ok (.redrFmin d a)) fun wrd hw => ?_
  obtain ⟨e0, e1, e2, e3, e4⟩ := wideShape39 _ _ _ _ wrd hw
  have hm : wrd &&& 0x00000FE0#32 = 0#32 := maskRun wrd 5 7 (e1.trans rfl)
  simp [decode, decodeWide, decodeLow, decodeVecAxis, reservedZero, e0, e2, e3, e4, hm]

theorem RoundTrip.redrAdd (d : BitVec 7) (a : BitVec 7) : RoundTrip.Statement (.redrAdd d a) := by
  intro kls wf r
  refine word (P := fun wrd => decode kls (.wide wrd) = .ok (.redrAdd d a)) fun wrd hw => ?_
  obtain ⟨e0, e1, e2, e3, e4⟩ := wideShape39 _ _ _ _ wrd hw
  have hm : wrd &&& 0x00000FE0#32 = 0#32 := maskRun wrd 5 7 (e1.trans rfl)
  simp [decode, decodeWide, decodeLow, decodeVecAxis, reservedZero, e0, e2, e3, e4, hm]

theorem RoundTrip.redrMaxI (d : BitVec 7) (a : BitVec 7) : RoundTrip.Statement (.redrMaxI d a) := by
  intro kls wf r
  refine word (P := fun wrd => decode kls (.wide wrd) = .ok (.redrMaxI d a)) fun wrd hw => ?_
  obtain ⟨e0, e1, e2, e3, e4⟩ := wideShape39 _ _ _ _ wrd hw
  have hm : wrd &&& 0x00000FE0#32 = 0#32 := maskRun wrd 5 7 (e1.trans rfl)
  simp [decode, decodeWide, decodeLow, decodeVecAxis, reservedZero, e0, e2, e3, e4, hm]

theorem RoundTrip.redrMinI (d : BitVec 7) (a : BitVec 7) : RoundTrip.Statement (.redrMinI d a) := by
  intro kls wf r
  refine word (P := fun wrd => decode kls (.wide wrd) = .ok (.redrMinI d a)) fun wrd hw => ?_
  obtain ⟨e0, e1, e2, e3, e4⟩ := wideShape39 _ _ _ _ wrd hw
  have hm : wrd &&& 0x00000FE0#32 = 0#32 := maskRun wrd 5 7 (e1.trans rfl)
  simp [decode, decodeWide, decodeLow, decodeVecAxis, reservedZero, e0, e2, e3, e4, hm]

theorem RoundTrip.redrMaxN (d : BitVec 7) (a : BitVec 7) : RoundTrip.Statement (.redrMaxN d a) := by
  intro kls wf r
  refine word (P := fun wrd => decode kls (.wide wrd) = .ok (.redrMaxN d a)) fun wrd hw => ?_
  obtain ⟨e0, e1, e2, e3, e4⟩ := wideShape39 _ _ _ _ wrd hw
  have hm : wrd &&& 0x00000FE0#32 = 0#32 := maskRun wrd 5 7 (e1.trans rfl)
  simp [decode, decodeWide, decodeLow, decodeVecAxis, reservedZero, e0, e2, e3, e4, hm]

theorem RoundTrip.redrMinN (d : BitVec 7) (a : BitVec 7) : RoundTrip.Statement (.redrMinN d a) := by
  intro kls wf r
  refine word (P := fun wrd => decode kls (.wide wrd) = .ok (.redrMinN d a)) fun wrd hw => ?_
  obtain ⟨e0, e1, e2, e3, e4⟩ := wideShape39 _ _ _ _ wrd hw
  have hm : wrd &&& 0x00000FE0#32 = 0#32 := maskRun wrd 5 7 (e1.trans rfl)
  simp [decode, decodeWide, decodeLow, decodeVecAxis, reservedZero, e0, e2, e3, e4, hm]

theorem RoundTrip.redcFadd (d : BitVec 7) (a : BitVec 7) : RoundTrip.Statement (.redcFadd d a) := by
  intro kls wf r
  refine word (P := fun wrd => decode kls (.wide wrd) = .ok (.redcFadd d a)) fun wrd hw => ?_
  obtain ⟨e0, e1, e2, e3, e4⟩ := wideShape39 _ _ _ _ wrd hw
  have hm : wrd &&& 0x00000FE0#32 = 0#32 := maskRun wrd 5 7 (e1.trans rfl)
  simp [decode, decodeWide, decodeLow, decodeVecAxis, reservedZero, e0, e2, e3, e4, hm]

theorem RoundTrip.redcFmax (d : BitVec 7) (a : BitVec 7) : RoundTrip.Statement (.redcFmax d a) := by
  intro kls wf r
  refine word (P := fun wrd => decode kls (.wide wrd) = .ok (.redcFmax d a)) fun wrd hw => ?_
  obtain ⟨e0, e1, e2, e3, e4⟩ := wideShape39 _ _ _ _ wrd hw
  have hm : wrd &&& 0x00000FE0#32 = 0#32 := maskRun wrd 5 7 (e1.trans rfl)
  simp [decode, decodeWide, decodeLow, decodeVecAxis, reservedZero, e0, e2, e3, e4, hm]

theorem RoundTrip.redcFmin (d : BitVec 7) (a : BitVec 7) : RoundTrip.Statement (.redcFmin d a) := by
  intro kls wf r
  refine word (P := fun wrd => decode kls (.wide wrd) = .ok (.redcFmin d a)) fun wrd hw => ?_
  obtain ⟨e0, e1, e2, e3, e4⟩ := wideShape39 _ _ _ _ wrd hw
  have hm : wrd &&& 0x00000FE0#32 = 0#32 := maskRun wrd 5 7 (e1.trans rfl)
  simp [decode, decodeWide, decodeLow, decodeVecAxis, reservedZero, e0, e2, e3, e4, hm]

theorem RoundTrip.redcAdd (d : BitVec 7) (a : BitVec 7) : RoundTrip.Statement (.redcAdd d a) := by
  intro kls wf r
  refine word (P := fun wrd => decode kls (.wide wrd) = .ok (.redcAdd d a)) fun wrd hw => ?_
  obtain ⟨e0, e1, e2, e3, e4⟩ := wideShape39 _ _ _ _ wrd hw
  have hm : wrd &&& 0x00000FE0#32 = 0#32 := maskRun wrd 5 7 (e1.trans rfl)
  simp [decode, decodeWide, decodeLow, decodeVecAxis, reservedZero, e0, e2, e3, e4, hm]

theorem RoundTrip.redcMaxI (d : BitVec 7) (a : BitVec 7) : RoundTrip.Statement (.redcMaxI d a) := by
  intro kls wf r
  refine word (P := fun wrd => decode kls (.wide wrd) = .ok (.redcMaxI d a)) fun wrd hw => ?_
  obtain ⟨e0, e1, e2, e3, e4⟩ := wideShape39 _ _ _ _ wrd hw
  have hm : wrd &&& 0x00000FE0#32 = 0#32 := maskRun wrd 5 7 (e1.trans rfl)
  simp [decode, decodeWide, decodeLow, decodeVecAxis, reservedZero, e0, e2, e3, e4, hm]

theorem RoundTrip.redcMinI (d : BitVec 7) (a : BitVec 7) : RoundTrip.Statement (.redcMinI d a) := by
  intro kls wf r
  refine word (P := fun wrd => decode kls (.wide wrd) = .ok (.redcMinI d a)) fun wrd hw => ?_
  obtain ⟨e0, e1, e2, e3, e4⟩ := wideShape39 _ _ _ _ wrd hw
  have hm : wrd &&& 0x00000FE0#32 = 0#32 := maskRun wrd 5 7 (e1.trans rfl)
  simp [decode, decodeWide, decodeLow, decodeVecAxis, reservedZero, e0, e2, e3, e4, hm]

theorem RoundTrip.redcMaxN (d : BitVec 7) (a : BitVec 7) : RoundTrip.Statement (.redcMaxN d a) := by
  intro kls wf r
  refine word (P := fun wrd => decode kls (.wide wrd) = .ok (.redcMaxN d a)) fun wrd hw => ?_
  obtain ⟨e0, e1, e2, e3, e4⟩ := wideShape39 _ _ _ _ wrd hw
  have hm : wrd &&& 0x00000FE0#32 = 0#32 := maskRun wrd 5 7 (e1.trans rfl)
  simp [decode, decodeWide, decodeLow, decodeVecAxis, reservedZero, e0, e2, e3, e4, hm]

theorem RoundTrip.redcMinN (d : BitVec 7) (a : BitVec 7) : RoundTrip.Statement (.redcMinN d a) := by
  intro kls wf r
  refine word (P := fun wrd => decode kls (.wide wrd) = .ok (.redcMinN d a)) fun wrd hw => ?_
  obtain ⟨e0, e1, e2, e3, e4⟩ := wideShape39 _ _ _ _ wrd hw
  have hm : wrd &&& 0x00000FE0#32 = 0#32 := maskRun wrd 5 7 (e1.trans rfl)
  simp [decode, decodeWide, decodeLow, decodeVecAxis, reservedZero, e0, e2, e3, e4, hm]

theorem RoundTrip.cvt (d : BitVec 7) (a : BitVec 7) (f : BitVec 4) (p : BitVec 3) (t : BitVec 4) : RoundTrip.Statement (.cvt d a f p t) := by
  intro kls wf r
  refine word (P := fun wrd => decode kls (.wide wrd) = .ok (.cvt d a f p t)) fun wrd hw => ?_
  obtain ⟨e0, e1, e2, e3, e4, e5, e6⟩ := wideShape41 _ _ _ _ _ _ _ wrd hw
  have hm : wrd &&& 0x00000010#32 = 0#32 := maskRun wrd 4 1 (e1.trans rfl)
  simp [decode, decodeWide, decodeLow, decodeConvert, reservedZero, e0, e2, e3, e4, e5, e6, hm]

theorem RoundTrip.rcpa (d : BitVec 7) (a : BitVec 7) : RoundTrip.Statement (.rcpa d a) := by
  intro kls wf r
  refine word (P := fun wrd => decode kls (.wide wrd) = .ok (.rcpa d a)) fun wrd hw => ?_
  obtain ⟨e0, e1, e2, e3, e4⟩ := wideShape39 _ _ _ _ wrd hw
  have hm : wrd &&& 0x00000FE0#32 = 0#32 := maskRun wrd 5 7 (e1.trans rfl)
  simp [decode, decodeWide, decodeLow, decodeSpecial, reservedZero, e0, e2, e3, e4, hm]

theorem RoundTrip.rsqa (d : BitVec 7) (a : BitVec 7) : RoundTrip.Statement (.rsqa d a) := by
  intro kls wf r
  refine word (P := fun wrd => decode kls (.wide wrd) = .ok (.rsqa d a)) fun wrd hw => ?_
  obtain ⟨e0, e1, e2, e3, e4⟩ := wideShape39 _ _ _ _ wrd hw
  have hm : wrd &&& 0x00000FE0#32 = 0#32 := maskRun wrd 5 7 (e1.trans rfl)
  simp [decode, decodeWide, decodeLow, decodeSpecial, reservedZero, e0, e2, e3, e4, hm]

theorem RoundTrip.rcpn (d : BitVec 7) (a : BitVec 7) (b : BitVec 7) : RoundTrip.Statement (.rcpn d a b) := by
  intro kls wf r
  refine word (P := fun wrd => decode kls (.wide wrd) = .ok (.rcpn d a b)) fun wrd hw => ?_
  obtain ⟨e0, e1, e2, e3, e4⟩ := wideShape38 _ _ _ _ _ wrd hw
  simp [decode, decodeWide, decodeLow, decodeSpecial, e0, e1, e2, e3, e4]

theorem RoundTrip.rsqn (d : BitVec 7) (a : BitVec 7) (b : BitVec 7) : RoundTrip.Statement (.rsqn d a b) := by
  intro kls wf r
  refine word (P := fun wrd => decode kls (.wide wrd) = .ok (.rsqn d a b)) fun wrd hw => ?_
  obtain ⟨e0, e1, e2, e3, e4⟩ := wideShape38 _ _ _ _ _ wrd hw
  simp [decode, decodeWide, decodeLow, decodeSpecial, e0, e1, e2, e3, e4]

theorem RoundTrip.exp2 (d : BitVec 7) (a : BitVec 7) : RoundTrip.Statement (.exp2 d a) := by
  intro kls wf r
  refine word (P := fun wrd => decode kls (.wide wrd) = .ok (.exp2 d a)) fun wrd hw => ?_
  obtain ⟨e0, e1, e2, e3, e4⟩ := wideShape39 _ _ _ _ wrd hw
  have hm : wrd &&& 0x00000FE0#32 = 0#32 := maskRun wrd 5 7 (e1.trans rfl)
  simp [decode, decodeWide, decodeLow, decodeSpecial, reservedZero, e0, e2, e3, e4, hm]

theorem RoundTrip.log2 (d : BitVec 7) (a : BitVec 7) : RoundTrip.Statement (.log2 d a) := by
  intro kls wf r
  refine word (P := fun wrd => decode kls (.wide wrd) = .ok (.log2 d a)) fun wrd hw => ?_
  obtain ⟨e0, e1, e2, e3, e4⟩ := wideShape39 _ _ _ _ wrd hw
  have hm : wrd &&& 0x00000FE0#32 = 0#32 := maskRun wrd 5 7 (e1.trans rfl)
  simp [decode, decodeWide, decodeLow, decodeSpecial, reservedZero, e0, e2, e3, e4, hm]

theorem RoundTrip.rand (d : BitVec 7) (a : BitVec 7) (b : BitVec 7) : RoundTrip.Statement (.rand d a b) := by
  intro kls wf r
  refine word (P := fun wrd => decode kls (.wide wrd) = .ok (.rand d a b)) fun wrd hw => ?_
  obtain ⟨e0, e1, e2, e3, e4⟩ := wideShape38 _ _ _ _ _ wrd hw
  simp [decode, decodeWide, decodeLow, decodeSpecial, e0, e1, e2, e3, e4]

theorem RoundTrip.vld (d : BitVec 7) (a : BitVec 7) (b : BitVec 7) : RoundTrip.Statement (.vld d a b) := by
  intro kls wf r
  refine word (P := fun wrd => decode kls (.wide wrd) = .ok (.vld d a b)) fun wrd hw => ?_
  obtain ⟨e0, e1, e2, e3, e4⟩ := wideShape38 _ _ _ _ _ wrd hw
  simp [decode, decodeWide, decodeLow, decodeVecMem, e0, e1, e2, e3, e4]

theorem RoundTrip.vst (d : BitVec 7) (a : BitVec 7) (b : BitVec 7) : RoundTrip.Statement (.vst d a b) := by
  intro kls wf r
  refine word (P := fun wrd => decode kls (.wide wrd) = .ok (.vst d a b)) fun wrd hw => ?_
  obtain ⟨e0, e1, e2, e3, e4⟩ := wideShape38 _ _ _ _ _ wrd hw
  simp [decode, decodeWide, decodeLow, decodeVecMem, e0, e1, e2, e3, e4]

theorem RoundTrip.vgath (d : BitVec 7) (a : BitVec 7) (b : BitVec 7) : RoundTrip.Statement (.vgath d a b) := by
  intro kls wf r
  refine word (P := fun wrd => decode kls (.wide wrd) = .ok (.vgath d a b)) fun wrd hw => ?_
  obtain ⟨e0, e1, e2, e3, e4⟩ := wideShape38 _ _ _ _ _ wrd hw
  simp [decode, decodeWide, decodeLow, decodeVecMem, e0, e1, e2, e3, e4]

theorem RoundTrip.vscat (d : BitVec 7) (a : BitVec 7) (b : BitVec 7) : RoundTrip.Statement (.vscat d a b) := by
  intro kls wf r
  refine word (P := fun wrd => decode kls (.wide wrd) = .ok (.vscat d a b)) fun wrd hw => ?_
  obtain ⟨e0, e1, e2, e3, e4⟩ := wideShape38 _ _ _ _ _ wrd hw
  simp [decode, decodeWide, decodeLow, decodeVecMem, e0, e1, e2, e3, e4]

theorem RoundTrip.vamoAdd (d : BitVec 7) (a : BitVec 7) (b : BitVec 7) : RoundTrip.Statement (.vamoAdd d a b) := by
  intro kls wf r
  refine word (P := fun wrd => decode kls (.wide wrd) = .ok (.vamoAdd d a b)) fun wrd hw => ?_
  obtain ⟨e0, e1, e2, e3, e4⟩ := wideShape38 _ _ _ _ _ wrd hw
  simp [decode, decodeWide, decodeLow, decodeVecMem, e0, e1, e2, e3, e4]

theorem RoundTrip.vamoFadd (d : BitVec 7) (a : BitVec 7) (b : BitVec 7) : RoundTrip.Statement (.vamoFadd d a b) := by
  intro kls wf r
  refine word (P := fun wrd => decode kls (.wide wrd) = .ok (.vamoFadd d a b)) fun wrd hw => ?_
  obtain ⟨e0, e1, e2, e3, e4⟩ := wideShape38 _ _ _ _ _ wrd hw
  simp [decode, decodeWide, decodeLow, decodeVecMem, e0, e1, e2, e3, e4]

theorem RoundTrip.vamoMinI (d : BitVec 7) (a : BitVec 7) (b : BitVec 7) : RoundTrip.Statement (.vamoMinI d a b) := by
  intro kls wf r
  refine word (P := fun wrd => decode kls (.wide wrd) = .ok (.vamoMinI d a b)) fun wrd hw => ?_
  obtain ⟨e0, e1, e2, e3, e4⟩ := wideShape38 _ _ _ _ _ wrd hw
  simp [decode, decodeWide, decodeLow, decodeVecMem, e0, e1, e2, e3, e4]

theorem RoundTrip.vamoMinN (d : BitVec 7) (a : BitVec 7) (b : BitVec 7) : RoundTrip.Statement (.vamoMinN d a b) := by
  intro kls wf r
  refine word (P := fun wrd => decode kls (.wide wrd) = .ok (.vamoMinN d a b)) fun wrd hw => ?_
  obtain ⟨e0, e1, e2, e3, e4⟩ := wideShape38 _ _ _ _ _ wrd hw
  simp [decode, decodeWide, decodeLow, decodeVecMem, e0, e1, e2, e3, e4]

theorem RoundTrip.vamoMaxI (d : BitVec 7) (a : BitVec 7) (b : BitVec 7) : RoundTrip.Statement (.vamoMaxI d a b) := by
  intro kls wf r
  refine word (P := fun wrd => decode kls (.wide wrd) = .ok (.vamoMaxI d a b)) fun wrd hw => ?_
  obtain ⟨e0, e1, e2, e3, e4⟩ := wideShape38 _ _ _ _ _ wrd hw
  simp [decode, decodeWide, decodeLow, decodeVecMem, e0, e1, e2, e3, e4]

theorem RoundTrip.vamoMaxN (d : BitVec 7) (a : BitVec 7) (b : BitVec 7) : RoundTrip.Statement (.vamoMaxN d a b) := by
  intro kls wf r
  refine word (P := fun wrd => decode kls (.wide wrd) = .ok (.vamoMaxN d a b)) fun wrd hw => ?_
  obtain ⟨e0, e1, e2, e3, e4⟩ := wideShape38 _ _ _ _ _ wrd hw
  simp [decode, decodeWide, decodeLow, decodeVecMem, e0, e1, e2, e3, e4]

theorem RoundTrip.vamoAnd (d : BitVec 7) (a : BitVec 7) (b : BitVec 7) : RoundTrip.Statement (.vamoAnd d a b) := by
  intro kls wf r
  refine word (P := fun wrd => decode kls (.wide wrd) = .ok (.vamoAnd d a b)) fun wrd hw => ?_
  obtain ⟨e0, e1, e2, e3, e4⟩ := wideShape38 _ _ _ _ _ wrd hw
  simp [decode, decodeWide, decodeLow, decodeVecMem, e0, e1, e2, e3, e4]

theorem RoundTrip.vamoOr (d : BitVec 7) (a : BitVec 7) (b : BitVec 7) : RoundTrip.Statement (.vamoOr d a b) := by
  intro kls wf r
  refine word (P := fun wrd => decode kls (.wide wrd) = .ok (.vamoOr d a b)) fun wrd hw => ?_
  obtain ⟨e0, e1, e2, e3, e4⟩ := wideShape38 _ _ _ _ _ wrd hw
  simp [decode, decodeWide, decodeLow, decodeVecMem, e0, e1, e2, e3, e4]

theorem RoundTrip.vamoXor (d : BitVec 7) (a : BitVec 7) (b : BitVec 7) : RoundTrip.Statement (.vamoXor d a b) := by
  intro kls wf r
  refine word (P := fun wrd => decode kls (.wide wrd) = .ok (.vamoXor d a b)) fun wrd hw => ?_
  obtain ⟨e0, e1, e2, e3, e4⟩ := wideShape38 _ _ _ _ _ wrd hw
  simp [decode, decodeWide, decodeLow, decodeVecMem, e0, e1, e2, e3, e4]

theorem RoundTrip.vamoSwap (d : BitVec 7) (a : BitVec 7) (b : BitVec 7) : RoundTrip.Statement (.vamoSwap d a b) := by
  intro kls wf r
  refine word (P := fun wrd => decode kls (.wide wrd) = .ok (.vamoSwap d a b)) fun wrd hw => ?_
  obtain ⟨e0, e1, e2, e3, e4⟩ := wideShape38 _ _ _ _ _ wrd hw
  simp [decode, decodeWide, decodeLow, decodeVecMem, e0, e1, e2, e3, e4]

theorem RoundTrip.rowMax (a : BitVec 6) (e : BitVec 17) : RoundTrip.Statement (.rowMax a e) := by
  intro kls wf r
  refine word (P := fun wrd => decode kls (.wide wrd) = .ok (.rowMax a e)) fun wrd hw => ?_
  obtain ⟨e0, e1, e2, e3⟩ := wideShape42 _ _ _ _ wrd hw
  simp [decode, decodeWide, decodeLow, decodeEngine, e0, e1, e2, e3]

theorem RoundTrip.rowExp (a : BitVec 6) (e : BitVec 17) : RoundTrip.Statement (.rowExp a e) := by
  intro kls wf r
  refine word (P := fun wrd => decode kls (.wide wrd) = .ok (.rowExp a e)) fun wrd hw => ?_
  obtain ⟨e0, e1, e2, e3⟩ := wideShape42 _ _ _ _ wrd hw
  simp [decode, decodeWide, decodeLow, decodeEngine, e0, e1, e2, e3]

theorem RoundTrip.rowScl (a : BitVec 6) (e : BitVec 17) : RoundTrip.Statement (.rowScl a e) := by
  intro kls wf r
  refine word (P := fun wrd => decode kls (.wide wrd) = .ok (.rowScl a e)) fun wrd hw => ?_
  obtain ⟨e0, e1, e2, e3⟩ := wideShape42 _ _ _ _ wrd hw
  simp [decode, decodeWide, decodeLow, decodeEngine, e0, e1, e2, e3]

theorem RoundTrip.chain (a : BitVec 6) : RoundTrip.Statement (.chain a) := by
  intro kls wf r
  refine word (P := fun wrd => decode kls (.wide wrd) = .ok (.chain a)) fun wrd hw => ?_
  obtain ⟨e0, e1, e2, e3⟩ := wideShape43 _ _ _ wrd hw
  have hm : wrd &&& 0x000FFFF8#32 = 0#32 := maskRun wrd 3 17 (e1.trans rfl)
  simp [decode, decodeWide, decodeLow, decodeEngine, reservedZero, e0, e2, e3, hm]

theorem RoundTrip.mma (z : BitVec 7) (q : BitVec 7) (s : BitVec 7) : RoundTrip.Statement (.mma z q s) := by
  intro kls wf r
  refine word (P := fun wrd => decode kls (.wide wrd) = .ok (.mma z q s)) fun wrd hw => ?_
  obtain ⟨e0, e1, e2, e3, e4⟩ := wideShape38 _ _ _ _ _ wrd hw
  simp [decode, decodeWide, decodeLow, decodeMma, e0, e1, e2, e3, e4]

theorem RoundTrip.mmac (z : BitVec 7) (q : BitVec 7) (s : BitVec 7) : RoundTrip.Statement (.mmac z q s) := by
  intro kls wf r
  refine word (P := fun wrd => decode kls (.wide wrd) = .ok (.mmac z q s)) fun wrd hw => ?_
  obtain ⟨e0, e1, e2, e3, e4⟩ := wideShape38 _ _ _ _ _ wrd hw
  simp [decode, decodeWide, decodeLow, decodeMma, e0, e1, e2, e3, e4]

theorem RoundTrip.mloadb (q : BitVec 7) (s : BitVec 7) : RoundTrip.Statement (.mloadb q s) := by
  intro kls wf r
  refine word (P := fun wrd => decode kls (.wide wrd) = .ok (.mloadb q s)) fun wrd hw => ?_
  obtain ⟨e0, e1, e2, e3, e4⟩ := wideShape44 _ _ _ _ wrd hw
  have hm : wrd &&& 0x03F80000#32 = 0#32 := maskRun wrd 19 7 (e3.trans rfl)
  simp [decode, decodeWide, decodeLow, decodeMacro, reservedZero, e0, e1, e2, e4, hm]

theorem RoundTrip.mcsum (d : BitVec 7) (s : BitVec 7) : RoundTrip.Statement (.mcsum d s) := by
  intro kls wf r
  refine word (P := fun wrd => decode kls (.wide wrd) = .ok (.mcsum d s)) fun wrd hw => ?_
  obtain ⟨e0, e1, e2, e3, e4⟩ := wideShape38 _ _ _ _ _ wrd hw
  have hm : wrd &&& 0x0007F000#32 = 0#32 := maskRun wrd 12 7 (e2.trans rfl)
  simp [decode, decodeWide, decodeLow, decodeMacro, reservedZero, e0, e1, e3, e4, hm]

theorem RoundTrip.mseed (d : BitVec 7) (a : BitVec 7) (b : BitVec 7) : RoundTrip.Statement (.mseed d a b) := by
  intro kls wf r
  refine word (P := fun wrd => decode kls (.wide wrd) = .ok (.mseed d a b)) fun wrd hw => ?_
  obtain ⟨e0, e1, e2, e3, e4⟩ := wideShape38 _ _ _ _ _ wrd hw
  simp [decode, decodeWide, decodeLow, decodeMacro, e0, e1, e2, e3, e4]

theorem RoundTrip.mzero (z : BitVec 7) : RoundTrip.Statement (.mzero z) := by
  intro kls wf r
  refine word (P := fun wrd => decode kls (.wide wrd) = .ok (.mzero z)) fun wrd hw => ?_
  obtain ⟨e0, e1, e2, e3, e4, e5⟩ := wideShape40 _ _ _ wrd hw
  have hm : wrd &&& 0x0007FFE0#32 = 0#32 := maskRun wrd 5 14 (e2.trans rfl)
  simp [decode, decodeWide, decodeLow, decodeAccum, reservedZero, e0, e4, e5, hm]

theorem RoundTrip.mdrain (z : BitVec 7) (a : BitVec 7) (b : BitVec 7) : RoundTrip.Statement (.mdrain z a b) := by
  intro kls wf r
  refine word (P := fun wrd => decode kls (.wide wrd) = .ok (.mdrain z a b)) fun wrd hw => ?_
  obtain ⟨e0, e1, e2, e3, e4⟩ := wideShape38 _ _ _ _ _ wrd hw
  simp [decode, decodeWide, decodeLow, decodeAccum, e0, e1, e2, e3, e4]

theorem RoundTrip.mspill (z : BitVec 7) (a : BitVec 7) : RoundTrip.Statement (.mspill z a) := by
  intro kls wf r
  refine word (P := fun wrd => decode kls (.wide wrd) = .ok (.mspill z a)) fun wrd hw => ?_
  obtain ⟨e0, e1, e2, e3, e4⟩ := wideShape39 _ _ _ _ wrd hw
  have hm : wrd &&& 0x00000FE0#32 = 0#32 := maskRun wrd 5 7 (e1.trans rfl)
  simp [decode, decodeWide, decodeLow, decodeAccum, reservedZero, e0, e2, e3, e4, hm]

theorem RoundTrip.mfill (z : BitVec 7) (a : BitVec 7) : RoundTrip.Statement (.mfill z a) := by
  intro kls wf r
  refine word (P := fun wrd => decode kls (.wide wrd) = .ok (.mfill z a)) fun wrd hw => ?_
  obtain ⟨e0, e1, e2, e3, e4⟩ := wideShape39 _ _ _ _ wrd hw
  have hm : wrd &&& 0x00000FE0#32 = 0#32 := maskRun wrd 5 7 (e1.trans rfl)
  simp [decode, decodeWide, decodeLow, decodeAccum, reservedZero, e0, e2, e3, e4, hm]

theorem RoundTrip.mstat (d : BitVec 7) : RoundTrip.Statement (.mstat d) := by
  intro kls wf r
  refine word (P := fun wrd => decode kls (.wide wrd) = .ok (.mstat d)) fun wrd hw => ?_
  obtain ⟨e0, e1, e2, e3, e4, e5⟩ := wideShape40 _ _ _ wrd hw
  have hm : wrd &&& 0x0007FFE0#32 = 0#32 := maskRun wrd 5 14 (e2.trans rfl)
  simp [decode, decodeWide, decodeLow, decodeAccum, reservedZero, e0, e4, e5, hm]

theorem RoundTrip.mchk (d : BitVec 7) : RoundTrip.Statement (.mchk d) := by
  intro kls wf r
  refine word (P := fun wrd => decode kls (.wide wrd) = .ok (.mchk d)) fun wrd hw => ?_
  obtain ⟨e0, e1, e2, e3, e4, e5⟩ := wideShape40 _ _ _ wrd hw
  have hm : wrd &&& 0x0007FFE0#32 = 0#32 := maskRun wrd 5 14 (e2.trans rfl)
  simp [decode, decodeWide, decodeLow, decodeAccum, reservedZero, e0, e4, e5, hm]

theorem RoundTrip.draw (a : BitVec 7) : RoundTrip.Statement (.draw a) := by
  intro kls wf r
  refine word (P := fun wrd => decode kls (.wide wrd) = .ok (.draw a)) fun wrd hw => ?_
  obtain ⟨e0, e1, e2, e3, e4⟩ := wideShape45 _ _ _ wrd hw
  have hm : wrd &&& 0x03F80FE0#32 = 0#32 := maskTwo (maskRun wrd 5 7 (e1.trans rfl)) (maskRun wrd 19 7 (e3.trans rfl)) rfl
  simp [decode, decodeWide, decodeLow, decodeAccum, reservedZero, e0, e2, e4, hm]

theorem RoundTrip.drawW (a : BitVec 7) : RoundTrip.Statement (.drawW a) := by
  intro kls wf r
  refine word (P := fun wrd => decode kls (.wide wrd) = .ok (.drawW a)) fun wrd hw => ?_
  obtain ⟨e0, e1, e2, e3, e4⟩ := wideShape45 _ _ _ wrd hw
  have hm : wrd &&& 0x03F80FE0#32 = 0#32 := maskTwo (maskRun wrd 5 7 (e1.trans rfl)) (maskRun wrd 19 7 (e3.trans rfl)) rfl
  simp [decode, decodeWide, decodeLow, decodeAccum, reservedZero, e0, e2, e4, hm]

theorem RoundTrip.cpgo (a : BitVec 6) (d : BitVec 6) : RoundTrip.Statement (.cpgo a d) := by
  intro kls wf r
  refine word (P := fun wrd => decode kls (.wide wrd) = .ok (.cpgo a d)) fun wrd hw => ?_
  obtain ⟨e0, e1, e2, e3, e4⟩ := wideShape46 _ _ _ _ _ wrd hw
  have hm : wrd &&& 0x000FFE00#32 = 0#32 := maskRun wrd 9 11 (e2.trans rfl)
  simp [decode, decodeWide, decodeLow, decodeCopy, reservedZero, e0, e1, e3, e4, hm]

theorem RoundTrip.cpwait (t : BitVec 6) (d : BitVec 6) : RoundTrip.Statement (.cpwait t d) := by
  intro kls wf r
  refine word (P := fun wrd => decode kls (.wide wrd) = .ok (.cpwait t d)) fun wrd hw => ?_
  obtain ⟨e0, e1, e2, e3, e4⟩ := wideShape46 _ _ _ _ _ wrd hw
  have hm : wrd &&& 0x000FFE00#32 = 0#32 := maskRun wrd 9 11 (e2.trans rfl)
  simp [decode, decodeWide, decodeLow, decodeCopy, reservedZero, e0, e1, e3, e4, hm]

theorem RoundTrip.cpstat (t : BitVec 6) (d : BitVec 6) : RoundTrip.Statement (.cpstat t d) := by
  intro kls wf r
  refine word (P := fun wrd => decode kls (.wide wrd) = .ok (.cpstat t d)) fun wrd hw => ?_
  obtain ⟨e0, e1, e2, e3, e4⟩ := wideShape46 _ _ _ _ _ wrd hw
  have hm : wrd &&& 0x000FFE00#32 = 0#32 := maskRun wrd 9 11 (e2.trans rfl)
  simp [decode, decodeWide, decodeLow, decodeCopy, reservedZero, e0, e1, e3, e4, hm]

theorem RoundTrip.cpkill (t : BitVec 6) : RoundTrip.Statement (.cpkill t) := by
  intro kls wf r
  refine word (P := fun wrd => decode kls (.wide wrd) = .ok (.cpkill t)) fun wrd hw => ?_
  obtain ⟨e0, e1, e2, e3, e4⟩ := wideShape47 _ _ _ wrd hw
  have hm : wrd &&& 0x000FFFF8#32 = 0#32 := maskRun wrd 3 17 (e2.trans rfl)
  simp [decode, decodeWide, decodeLow, decodeCopy, reservedZero, e0, e3, e4, hm]

theorem RoundTrip.popen (d : BitVec 6) (a : BitVec 6) (b : BitVec 6) : RoundTrip.Statement (.popen d a b) := by
  intro kls wf r
  refine word (P := fun wrd => decode kls (.wide wrd) = .ok (.popen d a b)) fun wrd hw => ?_
  obtain ⟨e0, e1, e2, e3, e4, e5, e6⟩ := wideShape48 _ _ _ _ _ wrd hw
  simp [decode, decodeWide, decodeLow, decodeParcel, e2, e3, e4, e5, e6]

theorem RoundTrip.pld (d : BitVec 6) (a : BitVec 6) (b : BitVec 6) (m : BitVec 3) : RoundTrip.Statement (.pld d a b m) := by
  intro kls wf r
  refine word (P := fun wrd => decode kls (.wide wrd) = .ok (.pld d a b m)) fun wrd hw => ?_
  obtain ⟨e0, e1, e2, e3, e4, e5⟩ := wideShape49 _ _ _ _ _ _ wrd hw
  have es : wrd.extractLsb' 0 8 = 1#5 ++ m := by subst hw; exact lowTwo _ _ _
  have hs : m = 0 ∨ m = 1 ∨ m = 2 ∨ m = 3 ∨ m = 4 ∨ m = 5 ∨ m = 6 ∨ m = 7 := by
    clear hw wf e0 e1 e2 e3 e4 e5 es r
    revert m
    decide
  obtain rfl | rfl | rfl | rfl | rfl | rfl | rfl | rfl := hs
  all_goals simp [Instr.wf] at wf
  all_goals simp [decode, decodeWide, decodeLow, decodeParcel, e1, e2, e3, e4, e5, es]

theorem RoundTrip.pst (d : BitVec 6) (a : BitVec 6) (b : BitVec 6) (m : BitVec 2) : RoundTrip.Statement (.pst d a b m) := by
  intro kls wf r
  refine word (P := fun wrd => decode kls (.wide wrd) = .ok (.pst d a b m)) fun wrd hw => ?_
  obtain ⟨e0, e1, e2, e3, e4⟩ := wideShape50 _ _ _ _ _ _ wrd hw
  have es : wrd.extractLsb' 0 8 = 4#6 ++ m := by subst hw; exact lowTwo _ _ _
  have hs : m = 0 ∨ m = 1 ∨ m = 2 ∨ m = 3 := by
    clear hw wf e0 e1 e2 e3 e4 es r
    revert m
    decide
  obtain rfl | rfl | rfl | rfl := hs
  all_goals simp [decode, decodeWide, decodeLow, decodeParcel, e0, e1, e2, e3, e4, es]

theorem RoundTrip.pstref (d : BitVec 6) (a : BitVec 6) (b : BitVec 6) : RoundTrip.Statement (.pstref d a b) := by
  intro kls wf r
  refine word (P := fun wrd => decode kls (.wide wrd) = .ok (.pstref d a b)) fun wrd hw => ?_
  obtain ⟨e0, e1, e2, e3, e4, e5, e6⟩ := wideShape48 _ _ _ _ _ wrd hw
  simp [decode, decodeWide, decodeLow, decodeParcel, e2, e3, e4, e5, e6]

theorem RoundTrip.pmkref (d : BitVec 6) (a : BitVec 6) (b : BitVec 6) : RoundTrip.Statement (.pmkref d a b) := by
  intro kls wf r
  refine word (P := fun wrd => decode kls (.wide wrd) = .ok (.pmkref d a b)) fun wrd hw => ?_
  obtain ⟨e0, e1, e2, e3, e4, e5, e6⟩ := wideShape48 _ _ _ _ _ wrd hw
  simp [decode, decodeWide, decodeLow, decodeParcel, e2, e3, e4, e5, e6]

theorem RoundTrip.pseal (a : BitVec 6) : RoundTrip.Statement (.pseal a) := by
  intro kls wf r
  refine word (P := fun wrd => decode kls (.wide wrd) = .ok (.pseal a)) fun wrd hw => ?_
  obtain ⟨e0, e1, e2, e3, e4, e5, e6⟩ := wideShape51 _ _ _ wrd hw
  have hm : wrd &&& 0x03F03F00#32 = 0#32 := maskTwo (maskRun wrd 8 6 (e3.trans rfl)) (maskRun wrd 20 6 (e5.trans rfl)) rfl
  simp [decode, decodeWide, decodeLow, decodeParcel, reservedZero, e2, e4, e6, hm]

theorem RoundTrip.post (d : BitVec 6) (a : BitVec 6) (b : BitVec 6) : RoundTrip.Statement (.post d a b) := by
  intro kls wf r
  refine word (P := fun wrd => decode kls (.wide wrd) = .ok (.post d a b)) fun wrd hw => ?_
  obtain ⟨e0, e1, e2, e3, e4, e5, e6⟩ := wideShape48 _ _ _ _ _ wrd hw
  simp [decode, decodeWide, decodeLow, decodeParcel, e2, e3, e4, e5, e6]

theorem RoundTrip.precv (d : BitVec 6) (a : BitVec 6) (b : BitVec 6) : RoundTrip.Statement (.precv d a b) := by
  intro kls wf r
  refine word (P := fun wrd => decode kls (.wide wrd) = .ok (.precv d a b)) fun wrd hw => ?_
  obtain ⟨e0, e1, e2, e3, e4, e5, e6⟩ := wideShape48 _ _ _ _ _ wrd hw
  simp [decode, decodeWide, decodeLow, decodeParcel, e2, e3, e4, e5, e6]

theorem RoundTrip.precvW (d : BitVec 6) (a : BitVec 6) (b : BitVec 6) : RoundTrip.Statement (.precvW d a b) := by
  intro kls wf r
  refine word (P := fun wrd => decode kls (.wide wrd) = .ok (.precvW d a b)) fun wrd hw => ?_
  obtain ⟨e0, e1, e2, e3, e4, e5, e6⟩ := wideShape48 _ _ _ _ _ wrd hw
  simp [decode, decodeWide, decodeLow, decodeParcel, e2, e3, e4, e5, e6]

theorem RoundTrip.pfree (a : BitVec 6) : RoundTrip.Statement (.pfree a) := by
  intro kls wf r
  refine word (P := fun wrd => decode kls (.wide wrd) = .ok (.pfree a)) fun wrd hw => ?_
  obtain ⟨e0, e1, e2, e3, e4, e5, e6⟩ := wideShape51 _ _ _ wrd hw
  have hm : wrd &&& 0x03F03F00#32 = 0#32 := maskTwo (maskRun wrd 8 6 (e3.trans rfl)) (maskRun wrd 20 6 (e5.trans rfl)) rfl
  simp [decode, decodeWide, decodeLow, decodeParcel, reservedZero, e2, e4, e6, hm]

theorem RoundTrip.qreq (a : BitVec 6) (l : BitVec 3) : RoundTrip.Statement (.qreq a l) := by
  intro kls wf r
  refine word (P := fun wrd => decode kls (.wide wrd) = .ok (.qreq a l)) fun wrd hw => ?_
  obtain ⟨e0, e1, e2, e3, e4, e5⟩ := wideShape52 _ _ _ _ _ wrd hw
  have hm : wrd &&& 0x000FFFC0#32 = 0#32 := maskRun wrd 6 14 (e3.trans rfl)
  simp [decode, decodeWide, decodeLow, decodeQuench, reservedZero, e0, e1, e4, e5, hm]

theorem RoundTrip.qstat (d : BitVec 6) (w : BitVec 3) : RoundTrip.Statement (.qstat d w) := by
  intro kls wf r
  refine word (P := fun wrd => decode kls (.wide wrd) = .ok (.qstat d w)) fun wrd hw => ?_
  obtain ⟨e0, e1, e2, e3, e4, e5⟩ := wideShape52 _ _ _ _ _ wrd hw
  have hm : wrd &&& 0x000FFFC0#32 = 0#32 := maskRun wrd 6 14 (e3.trans rfl)
  simp [decode, decodeWide, decodeLow, decodeQuench, reservedZero, e0, e1, e4, e5, hm]

theorem RoundTrip.qwait : RoundTrip.Statement .qwait := by
  intro c _ _
  rfl

theorem RoundTrip.qresume : RoundTrip.Statement .qresume := by
  intro c _ _
  rfl

theorem RoundTrip.qarm (a : BitVec 6) (l : BitVec 3) : RoundTrip.Statement (.qarm a l) := by
  intro kls wf r
  refine word (P := fun wrd => decode kls (.wide wrd) = .ok (.qarm a l)) fun wrd hw => ?_
  obtain ⟨e0, e1, e2, e3, e4, e5⟩ := wideShape53 _ _ _ _ _ wrd hw
  have hm : wrd &&& 0x000FFF80#32 = 0#32 := maskRun wrd 7 13 (e3.trans rfl)
  simp [decode, decodeWide, decodeLow, decodeQuench, reservedZero, e0, e1, e2, e4, e5, hm]

theorem RoundTrip.qarmClr : RoundTrip.Statement .qarmClr := by
  intro c _ _
  rfl

theorem RoundTrip.qhoriz (d : BitVec 6) (j : BitVec 3) : RoundTrip.Statement (.qhoriz d j) := by
  intro kls wf r
  refine word (P := fun wrd => decode kls (.wide wrd) = .ok (.qhoriz d j)) fun wrd hw => ?_
  obtain ⟨e0, e1, e2, e3, e4, e5⟩ := wideShape52 _ _ _ _ _ wrd hw
  have hm : wrd &&& 0x000FFFC0#32 = 0#32 := maskRun wrd 6 14 (e3.trans rfl)
  simp [decode, decodeWide, decodeLow, decodeQuench, reservedZero, e0, e1, e4, e5, hm]

theorem RoundTrip.settle : RoundTrip.Statement .settle := by
  intro c _ _
  rfl

theorem RoundTrip.tlbinv (a : BitVec 6) (b : BitVec 6) : RoundTrip.Statement (.tlbinv a b) := by
  intro kls wf r
  refine word (P := fun wrd => decode kls (.wide wrd) = .ok (.tlbinv a b)) fun wrd hw => ?_
  obtain ⟨e0, e1, e2, e3, e4⟩ := wideShape54 _ _ _ _ wrd hw
  have hm : wrd &&& 0x03F00000#32 = 0#32 := maskRun wrd 20 6 (e3.trans rfl)
  simp [decode, decodeWide, decodePrivileged, reservedZero, e0, e1, e2, e4, hm]

theorem RoundTrip.tlbinvAll : RoundTrip.Statement .tlbinvAll := by
  intro c _ _
  rfl

theorem RoundTrip.tlbsync : RoundTrip.Statement .tlbsync := by
  intro c _ _
  rfl

theorem RoundTrip.pgdisc (a : BitVec 6) (b : BitVec 6) : RoundTrip.Statement (.pgdisc a b) := by
  intro kls wf r
  refine word (P := fun wrd => decode kls (.wide wrd) = .ok (.pgdisc a b)) fun wrd hw => ?_
  obtain ⟨e0, e1, e2, e3, e4⟩ := wideShape54 _ _ _ _ wrd hw
  have hm : wrd &&& 0x03F00000#32 = 0#32 := maskRun wrd 20 6 (e3.trans rfl)
  simp [decode, decodeWide, decodePrivileged, reservedZero, e0, e1, e2, e4, hm]

theorem RoundTrip.pgseal (d : BitVec 6) (a : BitVec 6) : RoundTrip.Statement (.pgseal d a) := by
  intro kls wf r
  refine word (P := fun wrd => decode kls (.wide wrd) = .ok (.pgseal d a)) fun wrd hw => ?_
  obtain ⟨e0, e1, e2, e3, e4⟩ := wideShape35 _ _ _ _ wrd hw
  have hm : wrd &&& 0x00003F00#32 = 0#32 := maskRun wrd 8 6 (e1.trans rfl)
  simp [decode, decodeWide, decodePrivileged, reservedZero, e0, e2, e3, e4, hm]

theorem RoundTrip.pgsealClr (a : BitVec 6) : RoundTrip.Statement (.pgsealClr a) := by
  intro kls wf r
  refine word (P := fun wrd => decode kls (.wide wrd) = .ok (.pgsealClr a)) fun wrd hw => ?_
  obtain ⟨e0, e1, e2, e3, e4⟩ := wideShape37 _ _ _ wrd hw
  have hm : wrd &&& 0x03F03F00#32 = 0#32 := maskTwo (maskRun wrd 8 6 (e1.trans rfl)) (maskRun wrd 20 6 (e3.trans rfl)) rfl
  simp [decode, decodeWide, decodePrivileged, reservedZero, e0, e2, e4, hm]

theorem RoundTrip.tmread (d : BitVec 6) : RoundTrip.Statement (.tmread d) := by
  intro kls wf r
  refine word (P := fun wrd => decode kls (.wide wrd) = .ok (.tmread d)) fun wrd hw => ?_
  obtain ⟨e0, e1, e2, e3, e4, e5⟩ := wideShape55 _ _ _ wrd hw
  have hm : wrd &&& 0x000FFF00#32 = 0#32 := maskRun wrd 8 12 (e2.trans rfl)
  simp [decode, decodeWide, decodePrivileged, reservedZero, e0, e4, e5, hm]

theorem RoundTrip.tmreadRec (d : BitVec 6) : RoundTrip.Statement (.tmreadRec d) := by
  intro kls wf r
  refine word (P := fun wrd => decode kls (.wide wrd) = .ok (.tmreadRec d)) fun wrd hw => ?_
  obtain ⟨e0, e1, e2, e3, e4, e5⟩ := wideShape55 _ _ _ wrd hw
  have hm : wrd &&& 0x000FFF00#32 = 0#32 := maskRun wrd 8 12 (e2.trans rfl)
  simp [decode, decodeWide, decodePrivileged, reservedZero, e0, e4, e5, hm]

theorem RoundTrip.tmset (a : BitVec 6) : RoundTrip.Statement (.tmset a) := by
  intro kls wf r
  refine word (P := fun wrd => decode kls (.wide wrd) = .ok (.tmset a)) fun wrd hw => ?_
  obtain ⟨e0, e1, e2, e3, e4⟩ := wideShape37 _ _ _ wrd hw
  have hm : wrd &&& 0x03F03F00#32 = 0#32 := maskTwo (maskRun wrd 8 6 (e1.trans rfl)) (maskRun wrd 20 6 (e3.trans rfl)) rfl
  simp [decode, decodeWide, decodePrivileged, reservedZero, e0, e2, e4, hm]

theorem RoundTrip.tmsetClr : RoundTrip.Statement .tmsetClr := by
  intro c _ _
  rfl

theorem RoundTrip.planeswRel (d : BitVec 6) : RoundTrip.Statement (.planeswRel d) := by
  intro kls wf r
  refine word (P := fun wrd => decode kls (.wide wrd) = .ok (.planeswRel d)) fun wrd hw => ?_
  obtain ⟨e0, e1, e2, e3, e4, e5⟩ := wideShape55 _ _ _ wrd hw
  have hm : wrd &&& 0x000FFF00#32 = 0#32 := maskRun wrd 8 12 (e2.trans rfl)
  simp [decode, decodeWide, decodePrivileged, reservedZero, e0, e4, e5, hm]

theorem RoundTrip.planeswDrop (d : BitVec 6) : RoundTrip.Statement (.planeswDrop d) := by
  intro kls wf r
  refine word (P := fun wrd => decode kls (.wide wrd) = .ok (.planeswDrop d)) fun wrd hw => ?_
  obtain ⟨e0, e1, e2, e3, e4, e5⟩ := wideShape55 _ _ _ wrd hw
  have hm : wrd &&& 0x000FFF00#32 = 0#32 := maskRun wrd 8 12 (e2.trans rfl)
  simp [decode, decodeWide, decodePrivileged, reservedZero, e0, e4, e5, hm]

theorem RoundTrip.planeswHold (d : BitVec 6) : RoundTrip.Statement (.planeswHold d) := by
  intro kls wf r
  refine word (P := fun wrd => decode kls (.wide wrd) = .ok (.planeswHold d)) fun wrd hw => ?_
  obtain ⟨e0, e1, e2, e3, e4, e5⟩ := wideShape55 _ _ _ wrd hw
  have hm : wrd &&& 0x000FFF00#32 = 0#32 := maskRun wrd 8 12 (e2.trans rfl)
  simp [decode, decodeWide, decodePrivileged, reservedZero, e0, e4, e5, hm]

theorem RoundTrip.swgstat (d : BitVec 6) : RoundTrip.Statement (.swgstat d) := by
  intro kls wf r
  refine word (P := fun wrd => decode kls (.wide wrd) = .ok (.swgstat d)) fun wrd hw => ?_
  obtain ⟨e0, e1, e2, e3, e4, e5⟩ := wideShape55 _ _ _ wrd hw
  have hm : wrd &&& 0x000FFF00#32 = 0#32 := maskRun wrd 8 12 (e2.trans rfl)
  simp [decode, decodeWide, decodePrivileged, reservedZero, e0, e4, e5, hm]

theorem RoundTrip.swgstatRec (d : BitVec 6) (a : BitVec 6) : RoundTrip.Statement (.swgstatRec d a) := by
  intro kls wf r
  refine word (P := fun wrd => decode kls (.wide wrd) = .ok (.swgstatRec d a)) fun wrd hw => ?_
  obtain ⟨e0, e1, e2, e3, e4⟩ := wideShape35 _ _ _ _ wrd hw
  have hm : wrd &&& 0x00003F00#32 = 0#32 := maskRun wrd 8 6 (e1.trans rfl)
  simp [decode, decodeWide, decodePrivileged, reservedZero, e0, e2, e3, e4, hm]

theorem RoundTrip.swgstatHit (d : BitVec 6) (a : BitVec 6) : RoundTrip.Statement (.swgstatHit d a) := by
  intro kls wf r
  refine word (P := fun wrd => decode kls (.wide wrd) = .ok (.swgstatHit d a)) fun wrd hw => ?_
  obtain ⟨e0, e1, e2, e3, e4⟩ := wideShape35 _ _ _ _ wrd hw
  have hm : wrd &&& 0x00003F00#32 = 0#32 := maskRun wrd 8 6 (e1.trans rfl)
  simp [decode, decodeWide, decodePrivileged, reservedZero, e0, e2, e3, e4, hm]

theorem RoundTrip.swgstatLast (d : BitVec 6) (a : BitVec 6) : RoundTrip.Statement (.swgstatLast d a) := by
  intro kls wf r
  refine word (P := fun wrd => decode kls (.wide wrd) = .ok (.swgstatLast d a)) fun wrd hw => ?_
  obtain ⟨e0, e1, e2, e3, e4⟩ := wideShape35 _ _ _ _ wrd hw
  have hm : wrd &&& 0x00003F00#32 = 0#32 := maskRun wrd 8 6 (e1.trans rfl)
  simp [decode, decodeWide, decodePrivileged, reservedZero, e0, e2, e3, e4, hm]

theorem RoundTrip.nopC : RoundTrip.Statement .nopC := by
  intro c _ _
  rfl

theorem RoundTrip.haltC : RoundTrip.Statement .haltC := by
  intro c _ _
  rfl

theorem RoundTrip.yieldC : RoundTrip.Statement .yieldC := by
  intro c _ _
  rfl

theorem RoundTrip.retC : RoundTrip.Statement .retC := by
  intro c _ _
  rfl

theorem RoundTrip.bkptC : RoundTrip.Statement .bkptC := by
  intro c _ _
  rfl

theorem RoundTrip.taskendC : RoundTrip.Statement .taskendC := by
  intro c _ _
  rfl

theorem RoundTrip.movC (d : BitVec 5) (b : BitVec 5) : RoundTrip.Statement (.movC d b) := by
  intro kls wf r
  refine word (P := fun wrd => decode kls (.compact wrd) = .ok (.movC d b)) fun wrd hw => ?_
  obtain ⟨e0, e1, e2, e3, e4⟩ := compactShape56 _ _ _ wrd hw
  simp [decode, decodeCompact, e1, e2, e4]

theorem RoundTrip.addC (d : BitVec 5) (b : BitVec 5) : RoundTrip.Statement (.addC d b) := by
  intro kls wf r
  refine word (P := fun wrd => decode kls (.compact wrd) = .ok (.addC d b)) fun wrd hw => ?_
  obtain ⟨e0, e1, e2, e3, e4⟩ := compactShape56 _ _ _ wrd hw
  simp [decode, decodeCompact, e1, e2, e4]

theorem RoundTrip.subC (d : BitVec 5) (b : BitVec 5) : RoundTrip.Statement (.subC d b) := by
  intro kls wf r
  refine word (P := fun wrd => decode kls (.compact wrd) = .ok (.subC d b)) fun wrd hw => ?_
  obtain ⟨e0, e1, e2, e3, e4⟩ := compactShape56 _ _ _ wrd hw
  simp [decode, decodeCompact, e1, e2, e4]

theorem RoundTrip.andC (d : BitVec 5) (b : BitVec 5) : RoundTrip.Statement (.andC d b) := by
  intro kls wf r
  refine word (P := fun wrd => decode kls (.compact wrd) = .ok (.andC d b)) fun wrd hw => ?_
  obtain ⟨e0, e1, e2, e3, e4⟩ := compactShape56 _ _ _ wrd hw
  simp [decode, decodeCompact, e1, e2, e4]

theorem RoundTrip.orC (d : BitVec 5) (b : BitVec 5) : RoundTrip.Statement (.orC d b) := by
  intro kls wf r
  refine word (P := fun wrd => decode kls (.compact wrd) = .ok (.orC d b)) fun wrd hw => ?_
  obtain ⟨e0, e1, e2, e3, e4⟩ := compactShape56 _ _ _ wrd hw
  simp [decode, decodeCompact, e1, e2, e4]

theorem RoundTrip.xorC (d : BitVec 5) (b : BitVec 5) : RoundTrip.Statement (.xorC d b) := by
  intro kls wf r
  refine word (P := fun wrd => decode kls (.compact wrd) = .ok (.xorC d b)) fun wrd hw => ?_
  obtain ⟨e0, e1, e2, e3, e4⟩ := compactShape56 _ _ _ wrd hw
  simp [decode, decodeCompact, e1, e2, e4]

theorem RoundTrip.mulC (d : BitVec 5) (b : BitVec 5) : RoundTrip.Statement (.mulC d b) := by
  intro kls wf r
  refine word (P := fun wrd => decode kls (.compact wrd) = .ok (.mulC d b)) fun wrd hw => ?_
  obtain ⟨e0, e1, e2, e3, e4⟩ := compactShape56 _ _ _ wrd hw
  simp [decode, decodeCompact, e1, e2, e4]

theorem RoundTrip.addCImm (d : BitVec 5) (i : BitVec 5) : RoundTrip.Statement (.addCImm d i) := by
  intro kls wf r
  refine word (P := fun wrd => decode kls (.compact wrd) = .ok (.addCImm d i)) fun wrd hw => ?_
  obtain ⟨e0, e1, e2, e3, e4⟩ := compactShape56 _ _ _ wrd hw
  simp [decode, decodeCompact, e1, e2, e4]

theorem RoundTrip.limmC (d : BitVec 5) (i : BitVec 5) : RoundTrip.Statement (.limmC d i) := by
  intro kls wf r
  refine word (P := fun wrd => decode kls (.compact wrd) = .ok (.limmC d i)) fun wrd hw => ?_
  obtain ⟨e0, e1, e2, e3, e4⟩ := compactShape56 _ _ _ wrd hw
  simp [decode, decodeCompact, e1, e2, e4]

theorem RoundTrip.shlC (d : BitVec 5) (i : BitVec 5) : RoundTrip.Statement (.shlC d i) := by
  intro kls wf r
  refine word (P := fun wrd => decode kls (.compact wrd) = .ok (.shlC d i)) fun wrd hw => ?_
  obtain ⟨e0, e1, e2, e3, e4⟩ := compactShape56 _ _ _ wrd hw
  simp [decode, decodeCompact, e1, e2, e4]

theorem RoundTrip.shrC (d : BitVec 5) (i : BitVec 5) : RoundTrip.Statement (.shrC d i) := by
  intro kls wf r
  refine word (P := fun wrd => decode kls (.compact wrd) = .ok (.shrC d i)) fun wrd hw => ?_
  obtain ⟨e0, e1, e2, e3, e4⟩ := compactShape56 _ _ _ wrd hw
  simp [decode, decodeCompact, e1, e2, e4]

theorem RoundTrip.sraC (d : BitVec 5) (i : BitVec 5) : RoundTrip.Statement (.sraC d i) := by
  intro kls wf r
  refine word (P := fun wrd => decode kls (.compact wrd) = .ok (.sraC d i)) fun wrd hw => ?_
  obtain ⟨e0, e1, e2, e3, e4⟩ := compactShape56 _ _ _ wrd hw
  simp [decode, decodeCompact, e1, e2, e4]

theorem RoundTrip.brC (c : BitVec 4) (d : BitVec 6) : RoundTrip.Statement (.brC c d) := by
  intro kls wf r
  refine word (P := fun wrd => decode kls (.compact wrd) = .ok (.brC c d)) fun wrd hw => ?_
  obtain ⟨e0, e1, e2, e3, e4⟩ := compactShape57 _ _ _ wrd hw
  simp [decode, decodeCompact, e2, e3, e4]

theorem RoundTrip.cadvC (j : BitVec 3) : RoundTrip.Statement (.cadvC j) := by
  intro kls wf r
  refine word (P := fun wrd => decode kls (.compact wrd) = .ok (.cadvC j)) fun wrd hw => ?_
  obtain ⟨e0, e1, e2, e3, e4⟩ := compactShape58 _ _ wrd hw
  have hm : wrd &&& 0x03F8#16 = 0#16 := maskRun wrd 3 7 (e1.trans rfl)
  simp [decode, decodeCompact, e0, e4, hm]

theorem RoundTrip.pauseC (n : BitVec 10) : RoundTrip.Statement (.pauseC n) := by
  intro kls wf r
  refine word (P := fun wrd => decode kls (.compact wrd) = .ok (.pauseC n)) fun wrd hw => ?_
  obtain ⟨e0, e1, e2, e3, e4, e5, e6⟩ := compactShape59 _ _ wrd hw
  simp [decode, decodeCompact, e3, e6]

theorem RoundTrip.ringWaitfC (h : BitVec 4) (n : BitVec 6) : RoundTrip.Statement (.ringWaitfC h n) := by
  intro kls wf r
  refine word (P := fun wrd => decode kls (.compact wrd) = .ok (.ringWaitfC h n)) fun wrd hw => ?_
  obtain ⟨e0, e1, e2, e3, e4⟩ := compactShape57 _ _ _ wrd hw
  simp [decode, decodeCompact, e2, e3, e4]

theorem RoundTrip.ringWaiteC (h : BitVec 4) (n : BitVec 6) : RoundTrip.Statement (.ringWaiteC h n) := by
  intro kls wf r
  refine word (P := fun wrd => decode kls (.compact wrd) = .ok (.ringWaiteC h n)) fun wrd hw => ?_
  obtain ⟨e0, e1, e2, e3, e4⟩ := compactShape57 _ _ _ wrd hw
  simp [decode, decodeCompact, e2, e3, e4]

theorem RoundTrip.ringAdvCC (h : BitVec 4) (n : BitVec 6) : RoundTrip.Statement (.ringAdvCC h n) := by
  intro kls wf r
  refine word (P := fun wrd => decode kls (.compact wrd) = .ok (.ringAdvCC h n)) fun wrd hw => ?_
  obtain ⟨e0, e1, e2, e3, e4⟩ := compactShape57 _ _ _ wrd hw
  simp [decode, decodeCompact, e2, e3, e4]

theorem RoundTrip.ringAdvPC (h : BitVec 4) (n : BitVec 6) : RoundTrip.Statement (.ringAdvPC h n) := by
  intro kls wf r
  refine word (P := fun wrd => decode kls (.compact wrd) = .ok (.ringAdvPC h n)) fun wrd hw => ?_
  obtain ⟨e0, e1, e2, e3, e4⟩ := compactShape57 _ _ _ wrd hw
  simp [decode, decodeCompact, e2, e3, e4]

theorem RoundTrip.ldDC (d : BitVec 5) (b : BitVec 5) : RoundTrip.Statement (.ldDC d b) := by
  intro kls wf r
  refine word (P := fun wrd => decode kls (.compact wrd) = .ok (.ldDC d b)) fun wrd hw => ?_
  obtain ⟨e0, e1, e2, e3, e4⟩ := compactShape56 _ _ _ wrd hw
  simp [decode, decodeCompact, e1, e2, e4]

theorem RoundTrip.stDC (d : BitVec 5) (b : BitVec 5) : RoundTrip.Statement (.stDC d b) := by
  intro kls wf r
  refine word (P := fun wrd => decode kls (.compact wrd) = .ok (.stDC d b)) fun wrd hw => ?_
  obtain ⟨e0, e1, e2, e3, e4⟩ := compactShape56 _ _ _ wrd hw
  simp [decode, decodeCompact, e1, e2, e4]

theorem RoundTrip.cgetC (d : BitVec 5) (j : BitVec 3) : RoundTrip.Statement (.cgetC d j) := by
  intro kls wf r
  refine word (P := fun wrd => decode kls (.compact wrd) = .ok (.cgetC d j)) fun wrd hw => ?_
  obtain ⟨e0, e1, e2, e3, e4⟩ := compactShape60 _ _ _ _ wrd hw
  have hm : wrd &&& 0x0018#16 = 0#16 := maskRun wrd 3 2 (e1.trans rfl)
  simp [decode, decodeCompact, e0, e2, e4, hm]

theorem RoundTrip.packageReset (fail : Nat) (ceil : BitVec 16) : RoundTrip.Statement (.packageReset fail ceil) := trivial

theorem RoundTrip.dispatchTakeEntry : RoundTrip.Statement (.dispatchTakeEntry) := trivial

theorem RoundTrip.planeLoadComplete : RoundTrip.Statement (.planeLoadComplete) := trivial

theorem RoundTrip.swapTokenFlip : RoundTrip.Statement (.swapTokenFlip) := trivial

theorem RoundTrip.taskEnd : RoundTrip.Statement (.taskEnd) := trivial

theorem RoundTrip.blockEntry : RoundTrip.Statement (.blockEntry) := trivial

theorem RoundTrip.lockstepMeet : RoundTrip.Statement (.lockstepMeet) := trivial

theorem RoundTrip.fetchEndOfCode : RoundTrip.Statement (.fetchEndOfCode) := trivial

theorem RoundTrip.enterS : RoundTrip.Statement (.enterS) := trivial

theorem RoundTrip.hearthDelivery : RoundTrip.Statement (.hearthDelivery) := trivial

theorem RoundTrip.fqPop : RoundTrip.Statement (.fqPop) := trivial

theorem RoundTrip.fqPopResume : RoundTrip.Statement (.fqPopResume) := trivial

theorem RoundTrip.yreqSet : RoundTrip.Statement (.yreqSet) := trivial

theorem RoundTrip.yreqClear : RoundTrip.Statement (.yreqClear) := trivial

theorem RoundTrip.yieldRequest : RoundTrip.Statement (.yieldRequest) := trivial

theorem RoundTrip.yieldDeadline : RoundTrip.Statement (.yieldDeadline) := trivial

theorem RoundTrip.budget : RoundTrip.Statement (.budget) := trivial

theorem RoundTrip.forcedModeDone : RoundTrip.Statement (.forcedModeDone) := trivial

theorem RoundTrip.pauseExpiry : RoundTrip.Statement (.pauseExpiry) := trivial

theorem RoundTrip.ringStall (x : StrandId) : RoundTrip.Statement (.ringStall x) := trivial

theorem RoundTrip.ringWaitSatisfied (x : StrandId) : RoundTrip.Statement (.ringWaitSatisfied x) := trivial

theorem RoundTrip.dsyncComplete (level : BitVec 3) : RoundTrip.Statement (.dsyncComplete level) := trivial

theorem RoundTrip.atomicResultReturn (x : StrandId) : RoundTrip.Statement (.atomicResultReturn x) := trivial

theorem RoundTrip.ldtLanding (x : StrandId) : RoundTrip.Statement (.ldtLanding x) := trivial

theorem RoundTrip.horizonUpdate : RoundTrip.Statement (.horizonUpdate) := trivial

theorem RoundTrip.sideLogPerform (x : StrandId) : RoundTrip.Statement (.sideLogPerform x) := trivial

theorem RoundTrip.causalApply (die : BitVec 2) (k : Nat) : RoundTrip.Statement (.causalApply die k) := trivial

theorem RoundTrip.streamSlotFill (q : BitVec 4) : RoundTrip.Statement (.streamSlotFill q) := trivial

theorem RoundTrip.chainPassStart : RoundTrip.Statement (.chainPassStart) := trivial

theorem RoundTrip.chainPassComplete : RoundTrip.Statement (.chainPassComplete) := trivial

theorem RoundTrip.rowCommandStart : RoundTrip.Statement (.rowCommandStart) := trivial

theorem RoundTrip.rowPhaseEnd (phase : Nat) : RoundTrip.Statement (.rowPhaseEnd phase) := trivial

theorem RoundTrip.matrixOpBegin : RoundTrip.Statement (.matrixOpBegin) := trivial

theorem RoundTrip.drawGrant : RoundTrip.Statement (.drawGrant) := trivial

theorem RoundTrip.ceilChange (ceil : BitVec 16) : RoundTrip.Statement (.ceilChange ceil) := trivial

theorem RoundTrip.matrixWaveCommit : RoundTrip.Statement (.matrixWaveCommit) := trivial

theorem RoundTrip.mloadbBlockLoaded : RoundTrip.Statement (.mloadbBlockLoaded) := trivial

theorem RoundTrip.followOnMmaJoin (step : FollowStep) : RoundTrip.Statement (.followOnMmaJoin step) := trivial

theorem RoundTrip.chainRelease (tag : BitVec 6) : RoundTrip.Statement (.chainRelease tag) := trivial

theorem RoundTrip.engineTakeChain (engine : BitVec 4) : RoundTrip.Statement (.engineTakeChain engine) := trivial

theorem RoundTrip.chainCopy (tag : BitVec 6) : RoundTrip.Statement (.chainCopy tag) := trivial

theorem RoundTrip.chainRread (tag : BitVec 6) : RoundTrip.Statement (.chainRread tag) := trivial

theorem RoundTrip.chainRwrite (tag : BitVec 6) : RoundTrip.Statement (.chainRwrite tag) := trivial

theorem RoundTrip.chainRreduce (tag : BitVec 6) : RoundTrip.Statement (.chainRreduce tag) := trivial

theorem RoundTrip.chainRoute (tag : BitVec 6) : RoundTrip.Statement (.chainRoute tag) := trivial

theorem RoundTrip.chainBarrier (tag : BitVec 6) : RoundTrip.Statement (.chainBarrier tag) := trivial

theorem RoundTrip.chainSignal (tag : BitVec 6) : RoundTrip.Statement (.chainSignal tag) := trivial

theorem RoundTrip.chainLoop (tag : BitVec 6) : RoundTrip.Statement (.chainLoop tag) := trivial

theorem RoundTrip.chainCond (tag : BitVec 6) : RoundTrip.Statement (.chainCond tag) := trivial

theorem RoundTrip.condEngineYield (tag : BitVec 6) : RoundTrip.Statement (.condEngineYield tag) := trivial

theorem RoundTrip.condWaitLimit (tag : BitVec 6) : RoundTrip.Statement (.condWaitLimit tag) := trivial

theorem RoundTrip.chainPost (tag : BitVec 6) : RoundTrip.Statement (.chainPost tag) := trivial

theorem RoundTrip.chainSealdrain (tag : BitVec 6) : RoundTrip.Statement (.chainSealdrain tag) := trivial

theorem RoundTrip.chainEnd (tag : BitVec 6) : RoundTrip.Statement (.chainEnd tag) := trivial

theorem RoundTrip.fabricPacketReceive : RoundTrip.Statement (.fabricPacketReceive) := trivial

theorem RoundTrip.fabricTimeout (tag : BitVec 6) : RoundTrip.Statement (.fabricTimeout tag) := trivial

theorem RoundTrip.bindNotice (pid : BitVec 16) : RoundTrip.Statement (.bindNotice pid) := trivial

theorem RoundTrip.quenchAccept : RoundTrip.Statement (.quenchAccept) := trivial

theorem RoundTrip.quenchDrainReport : RoundTrip.Statement (.quenchDrainReport) := trivial

theorem RoundTrip.quenchCommit : RoundTrip.Statement (.quenchCommit) := trivial

theorem RoundTrip.quenchMemberTimeout : RoundTrip.Statement (.quenchMemberTimeout) := trivial

theorem RoundTrip.qarmFire : RoundTrip.Statement (.qarmFire) := trivial

theorem RoundTrip.settleApply : RoundTrip.Statement (.settleApply) := trivial

theorem RoundTrip.atsCompletion (k : Nat) (status : AtsStatus) (frame : BitVec 52) (canRead : Bool) (canWrite : Bool) : RoundTrip.Statement (.atsCompletion k status frame canRead canWrite) := trivial

theorem RoundTrip.atsTimeout (k : Nat) : RoundTrip.Statement (.atsTimeout k) := trivial

theorem RoundTrip.atsInvalidation (first : Nat) (count : Nat) : RoundTrip.Statement (.atsInvalidation first count) := trivial

theorem RoundTrip.shootdownAck (path : Nat) : RoundTrip.Statement (.shootdownAck path) := trivial

theorem RoundTrip.demandDrainComplete (k : Nat) : RoundTrip.Statement (.demandDrainComplete k) := trivial

theorem RoundTrip.eccCorrected (site : EccSite) : RoundTrip.Statement (.eccCorrected site) := trivial

theorem RoundTrip.uncorrectableError (pa : BitVec 52) : RoundTrip.Statement (.uncorrectableError pa) := trivial

theorem RoundTrip.eccUncorrected (z : BitVec 3) (elem : BitVec 16) : RoundTrip.Statement (.eccUncorrected z elem) := trivial

theorem RoundTrip.vPark (tile : BitVec 6) (pslot : BitVec 7) : RoundTrip.Statement (.vPark tile pslot) := trivial

theorem RoundTrip.vUnpark (tile : BitVec 6) (pslot : BitVec 7) : RoundTrip.Statement (.vUnpark tile pslot) := trivial

theorem RoundTrip.mcarryWrite (v : BitVec 64) : RoundTrip.Statement (.mcarryWrite v) := trivial

theorem RoundTrip.qctlPinWrite (pin : Bool) : RoundTrip.Statement (.qctlPinWrite pin) := trivial

theorem RoundTrip.plringReturn (n : BitVec 32) : RoundTrip.Statement (.plringReturn n) := trivial

theorem RoundTrip.sysregWrite (n : BitVec 10) (v : BitVec 64) : RoundTrip.Statement (.sysregWrite n v) := trivial

theorem RoundTrip.mbLoadPatchImage : RoundTrip.Statement (.mbLoadPatchImage) := trivial

theorem RoundTrip.mbContext : RoundTrip.Statement (.mbContext) := trivial

theorem RoundTrip.mbPostBindRecord : RoundTrip.Statement (.mbPostBindRecord) := trivial

theorem RoundTrip.mbAttestation : RoundTrip.Statement (.mbAttestation) := trivial

theorem RoundTrip.mbConfigure : RoundTrip.Statement (.mbConfigure) := trivial

theorem RoundTrip.revokeLentCore : RoundTrip.Statement (.revokeLentCore) := trivial

theorem RoundTrip.revokeCutTimeout : RoundTrip.Statement (.revokeCutTimeout) := trivial

theorem RoundTrip.vfTeardown (vf : Nat) : RoundTrip.Statement (.vfTeardown vf) := trivial

theorem RoundTrip.allowanceReclaim (kid : Nat) : RoundTrip.Statement (.allowanceReclaim kid) := trivial

theorem RoundTrip.circuitReconfigure (members : List Nat) : RoundTrip.Statement (.circuitReconfigure members) := trivial

theorem RoundTrip.sliceQuantumExpiry : RoundTrip.Statement (.sliceQuantumExpiry) := trivial

theorem RoundTrip.linkFlitReceive (port : Nat) (tenant : Nat) : RoundTrip.Statement (.linkFlitReceive port tenant) := trivial

theorem RoundTrip.thermal95c (die : BitVec 2) : RoundTrip.Statement (.thermal95c die) := trivial

theorem RoundTrip.thermal105c : RoundTrip.Statement (.thermal105c) := trivial

theorem RoundTrip.reservedSpaceItem (w : BitVec 32) (compact : Bool) : RoundTrip.Statement (.reservedSpaceItem w compact) := trivial

theorem RoundTrip.illegalEncodingItem (w : BitVec 32) (compact : Bool) : RoundTrip.Statement (.illegalEncodingItem w compact) := trivial

theorem RoundTrip.condWaitSatisfied (tag : BitVec 6) : RoundTrip.Statement (.condWaitSatisfied tag) := trivial

theorem RoundTrip.hearthResumeOrAbandon (resume : Bool) : RoundTrip.Statement (.hearthResumeOrAbandon resume) := trivial

theorem RoundTrip.hearthRemapRewrite (ctx : BitVec 32) (lcore : BitVec 8) (pcore : BitVec 8) (slice : BitVec 4) (nsm1 : BitVec 4) (quant : BitVec 16) (valid : Bool) : RoundTrip.Statement (.hearthRemapRewrite ctx lcore pcore slice nsm1 quant valid) := trivial

theorem RoundTrip.slotEntryFree (entry : Nat) (post : Bool) : RoundTrip.Statement (.slotEntryFree entry post) := trivial

theorem RoundTrip.flitForward (port : Nat) (tenant : Nat) : RoundTrip.Statement (.flitForward port tenant) := trivial

theorem RoundTrip.linkReplay (port : Nat) : RoundTrip.Statement (.linkReplay port) := trivial

theorem RoundTrip.contextImageWrite : RoundTrip.Statement (.contextImageWrite) := trivial

end Sys2Proof.Laws
end

