-- ==== Sys2Proof/Tests/Slice0.lean ====
section
/-!
SUPPORT. Tests: ill-formed terms, words written out bit by bit, single items and events on small states, and for each
statement a state and operands that meet its hypotheses.
-/
set_option maxRecDepth 100000
set_option exponentiation.threshold 4096

namespace Sys2Proof.Tests
open Sys2Proof.Machine

/-! ## Ill-formed terms, one for each check (R77 step 8) -/

/-- Every one of the instructions is ill-formed. -/
def allIll (is : List Instr) : Bool := is.all fun i => !i.wf

-- an odd register of a pair (R137, R379) and an octet that does not start at a multiple of eight (R184)
theorem test_ill_pairs : allIll [.add128 1 2 4, .add128 2 1 4, .add128 2 4 1, .tmread 5, .tmreadRec 7, .tmset 9, .rand 3 5 1,
    .sdef 4 0, .scrldOctet 1 0 12, .scrstOctet 1 0 63] = true := by decide
-- a condition, a latency class, a status word, a length code and a horizon word out of range (R139, R176, R187, R321, R344, R352)
theorem test_ill_codes : allIll [.br 11 0, .br 15 4, .brC 11 0, .ldt 1 2 0 0, .sstat 1 3 0, .pld 1 2 3 7, .qstat 1 7, .qhoriz 1 6,
    .qhoriz 1 7] = true := by decide
-- a stream slot as a destination, a scalar field of 64, a mask field of 8 and an accumulator field of 8 (R214, R266)
theorem test_ill_roles : allIll [.vadd 64 1 2, .vmov 127 1, .vbcs 3 64, .vins 3 64 1, .vins 3 1 64, .vext 64 1 1, .vceq 8 1 2, .mkAnd 1 8 2,
    .mkOr 1 2 8, .mkSet 8 1, .vfmuls 3 1 64, .rotr 64 1 1, .redrFadd 64 1, .redcMinN 64 1, .rcpa 64 1, .vld 64 1 1, .vst 3 64 1,
    .vgath 3 64 1, .vamoAdd 64 1 1, .mma 8 64 1, .mmac 1 64 64, .mloadb 64 64, .mcsum 64 1, .mseed 1 64 1, .mzero 8, .mdrain 8 1 1,
    .mspill 1 64, .mfill 9 1, .mstat 64, .mchk 64, .draw 64, .drawW 64] = true := by decide
-- type codes that no lane holds, and a part outside the layouts (R223)
theorem test_ill_cvt : allIll [.cvt 1 2 8 0 0, .cvt 1 2 0 0 12, .cvt 1 2 0 1 0, .cvt 1 2 1 2 0, .cvt 1 2 0 4 2, .cvt 64 2 0 0 1] = true := by decide
-- the last values in range
theorem test_well_formed : ([.add128 62 2 4, .br 10 0, .ldt 1 2 7 0, .sstat 1 2 0, .pld 1 2 3 6, .qstat 1 6, .qhoriz 1 5, .vadd 63 127 127,
    .mkAnd 7 7 7, .vbcs 63 63, .mma 7 127 63, .cvt 1 2 0 1 1, .cvt 63 127 4 7 0, .sdef 56 15] : List Instr).all (·.wf) = true := by decide

/-! ## Words, bit by bit from the layouts (R70, R73, R76) -/

/-- The decoder reads the word as the instruction, on a strand. -/
def reads (x : StrandId) (w : BitVec 32) (i : Instr) : Prop := decode x (.wide w) = .ok i
/-- The same of a compact word. -/
def readsC (x : StrandId) (h : BitVec 16) (i : Instr) : Prop := decode x (.compact h) = .ok i

-- format A: bit 31, major[30:26], d[25:20], a[19:14], b[13:8], fn[7:0]
theorem test_word_add : reads .K 0b1_00000_000111_001000_001001_00000_000#32 (.add 7 8 9) := rfl
theorem test_word_rem_unsigned : reads .K 0b1_00000_000001_000010_000011_00101_001#32 (.remN 1 2 3) := rfl
theorem test_word_vadd_slot : reads .V 0b1_01110_0000011_1000001_0000010_00000#32 (.vadd 3 65 2) := rfl
theorem test_word_dot4 : reads .V 0xB818105A#32 (.dot4S 3 1 2) := rfl
theorem test_word_qreq : reads .K 0xE8400008#32 (.qreq 4 1) := rfl
theorem test_word_tlbinv : reads .K 0xEC008300#32 (.tlbinv 2 3) := rfl
theorem test_word_swgstat_hit : reads .K 0xEC50803A#32 (.swgstatHit 5 2) := rfl
-- compact: bit 15 clear, op[14:10], d[9:5], b[4:0]
theorem test_word_compact_add : readsC .K 0b0_00010_00111_01000#16 (.addC 7 8) := rfl
theorem test_word_compact_nop : readsC .A 0#16 .nopC := rfl
-- one word for two forms, told apart by the strand (R190)
theorem test_word_ring_push : reads .A 0xB0000002#32 (.ringPushA 0 0 0 0) ∧ reads .V 0xB0000002#32 (.ringPushV 0 0 0) := ⟨rfl, rfl⟩

-- a word of each other major, its fields in the places the tables of the families give them
theorem test_words_scalar : reads .K 0b1_00001_000011_000101_0000_0000000111#32 (.addImm 3 5 7) ∧ reads .K 0b1_00010_000011_00000000000000000101#32 (.limm 3 5) ∧
    reads .K 0b1_00011_0011_0000000000000000000101#32 (.br 3 5) ∧ reads .K 0b1_00100_0000_0000000000000000000011#32 (.jmp 3) ∧
    reads .K 0b1_00101_000000_000000000011_00010_000#32 (.bkpt 3) ∧ reads .K 0b1_00110_0000000_0000000000000011_000#32 (.pause 3) ∧
    reads .K 0b1_00111_00000000000000000000_011_000#32 (.cadv 3) := ⟨rfl, rfl, rfl, rfl, rfl, rfl, rfl⟩
theorem test_words_address : reads .A 0b1_01000_000011_000101_0000_0000000111#32 (.ldB 3 5 7) ∧ reads .A 0b1_01001_000011_000101_0000_0000000111#32 (.stB 3 5 7) ∧
    reads .A 0b1_01010_000011_000101_000111_0000000_1#32 (.amoAdd 3 5 7 1) ∧ reads .A 0b1_01011_001000_0000000000000_0101_000#32 (.sdef 8 5) ∧
    reads .A 0b1_01100_0011_0000000101_000000000_000#32 (.ringAdvC 3 5) ∧ reads .A 0b1_01101_000011_000101_00000000000_000#32 (.tlook 3 5) :=
  ⟨rfl, rfl, rfl, rfl, rfl, rfl⟩
theorem test_words_vector : reads .V 0b1_01111_0000011_0000101_0000111_00000#32 (.vfadd 3 5 7) ∧ reads .V 0b1_10000_0000011_0000101_0000111_00000#32 (.rotr 3 5 7) ∧
    reads .V 0b1_10001_0000011_0000101_0111_001_0_1011#32 (.cvt 3 5 7 1 11) ∧ reads .V 0b1_10010_0000011_0000101_0000000_00000#32 (.rcpa 3 5) ∧
    reads .V 0b1_10011_0000011_0000101_0000111_00000#32 (.vld 3 5 7) ∧ reads .K 0b1_10100_000011_00000000000000101_000#32 (.rowMax 3 5) :=
  ⟨rfl, rfl, rfl, rfl, rfl, rfl⟩
theorem test_words_matrix : reads .M 0b1_10101_0000011_1000101_0000111_00000#32 (.mma 3 69 7) ∧ reads .M 0b1_10110_0000000_1000011_0000101_00000#32 (.mloadb 67 5) ∧
    reads .M 0b1_10111_0000011_0000000_0000000_00000#32 (.mzero 3) := ⟨rfl, rfl, rfl⟩
theorem test_words_units : reads .K 0b1_11000_000011_00000000000_000101_000#32 (.cpgo 3 5) ∧ reads .K 0b1_11001_000011_000101_000111_00000_000#32 (.popen 3 5 7) ∧
    reads .K 0b1_11010_000011_00000000000000_101_000#32 (.qreq 3 5) := ⟨rfl, rfl, rfl⟩
-- a reserved bit that is one, a reserved major and a reserved compact opcode (R73, R74, R76)
theorem test_words_refused : decode .K (.wide 0x80720902) = .error .illegalEncoding ∧ decode .K (.wide 0xF8000000) = .error .reservedSpace ∧
    decode .K (.compact 0x7800) = .error .reservedSpace := ⟨rfl, rfl, rfl⟩

/-! ## Small states -/

/-- Strand `x` issues below the known horizon, in a nest of three dimensions at quench level 1, all else as at reset. -/
def base (x : StrandId) : State :=
  (({ State.reset with cur := x }.onSys fun y => { y with nest := 3, qlvl := 1 }).onQu fun q => { q with hk := 1 }).onStrand x
    fun t => { t with run := .running }

/-- The first byte of the own scratchpad (R156, R171). -/
def own : BitVec 64 := 0x8000000040000000

/-- K at S. -/
def atS : State := (base .K).onSys fun y => { y with levelS := true }

theorem issues_base (x : StrandId) : (base x).issues x := by cases x <;> exact ⟨rfl, rfl, rfl, rfl⟩
theorem issues_atS : atS.issues .K := ⟨rfl, rfl, rfl, rfl⟩
theorem issues_putReg {s : State} {x : StrandId} (h : s.issues x) (r : BitVec 6) (v : BitVec 64) : (s.putReg x r v).issues x := by
  obtain ⟨h1, h2, h3, h4⟩ := h
  unfold State.issues State.putReg
  split
  · exact ⟨h1, h2, h3, h4⟩
  · split
    · exact ⟨h1, h2, h3, h4⟩
    · refine ⟨h1, h2, ?_, ?_⟩
      · cases x <;> exact h3
      · cases x <;> exact h4

/-- The state after an item, for the tests of single items. -/
def nextOf (i : Instr) (s : State) : State := match exec i s with | .next t => t | _ => s

/-! ## Single items: results worked out by hand from the rules -/

-- R136: the sum wraps
theorem test_add_wraps : (nextOf (.add 3 1 2) (((base .K).putReg .K 1 0xFFFFFFFFFFFFFFFF).putReg .K 2 2)).reg .K 3 = 1 := by decide
-- R132: s0 reads zero
theorem test_s0 : (nextOf (.addImm 0 0 5) (base .K)).reg .K 0 = 0 := by decide
-- R136: the high half of (-1) * (-1) is 0 signed, 2^64 - 2 unsigned
theorem test_mulh : (nextOf (.mulhI 3 1 1) ((base .K).putReg .K 1 0xFFFFFFFFFFFFFFFF)).reg .K 3 = 0 ∧
    (nextOf (.mulhN 3 1 1) ((base .K).putReg .K 1 0xFFFFFFFFFFFFFFFF)).reg .K 3 = 0xFFFFFFFFFFFFFFFE := by decide
-- R137: -7 / 2 = -3, remainder -1
theorem test_div : (nextOf (.divI 3 1 2) (((base .K).putReg .K 1 (BitVec.ofInt 64 (-7))).putReg .K 2 2)).reg .K 3 = BitVec.ofInt 64 (-3) ∧
    (nextOf (.remI 3 1 2) (((base .K).putReg .K 1 (BitVec.ofInt 64 (-7))).putReg .K 2 2)).reg .K 3 = BitVec.ofInt 64 (-1) := by decide
-- R137: a zero divisor is DIVIDE_ZERO
theorem test_div_zero : (nextOf (.divN 3 1 2) (base .K)).last = .trapped 0x0C 0 0 := by decide
-- R137: ADD128 carries from the low half into the high one
theorem test_add128 : (nextOf (.add128 6 2 4) (((base .K).putReg .K 2 0xFFFFFFFFFFFFFFFF).putReg .K 4 1)).reg .K 7 = 1 := by decide
-- R137, R139: 1 against -1 is neither EQ nor LT but LTU
theorem test_cmp : ((nextOf (.cmp 3 1 2) (((base .K).putReg .K 1 1).putReg .K 2 0xFFFFFFFFFFFFFFFF)).strand .K).cc = 4 := by decide
-- R136: a count of 65 shifts by one, ROT rotates right
theorem test_shift : (nextOf (.shl 3 1 2) (((base .K).putReg .K 1 3).putReg .K 2 65)).reg .K 3 = 6 ∧
    (nextOf (.rotImm 3 1 1) ((base .K).putReg .K 1 3)).reg .K 3 = 0x8000000000000001 := by decide
-- R136: CLZ of 1 is 63 and of 0 is 64
theorem test_clz : (nextOf (.clz 3 1) ((base .K).putReg .K 1 1)).reg .K 3 = 63 ∧ (nextOf (.clz 3 1) (base .K)).reg .K 3 = 64 := by decide
-- R153, R16: an advance zeroes the inner dimensions
theorem test_cadv : ((nextOf (.cadv 1) ((base .K).onStrand .K fun t => { t with coord := ⟨4, 5, 6, 0, 0, 0⟩ })).strand .K).coord =
    ⟨4, 6, 0, 0, 0, 0⟩ := by decide
-- R144: TRAP at T is SOFT_TRAP with its code, at S HYPERCALL
theorem test_trap : (nextOf (.trap 9) (base .A)).last = .trapped 0x0A 9 0 ∧ (nextOf (.trap 9) atS).last = .trapped 0x3E 9 0 := by decide
-- R115, R146: k.nest holds D; a system register that is not defined is SYSREG_ACCESS
theorem test_sysrd : (nextOf (.sysrd 3 0x001) (base .K)).reg .K 3 = 3 ∧ (nextOf (.sysrd 3 0x3FF) (base .K)).last = .trapped 0x0F 0 0 := by decide
-- R1, R179, R174: a word stored to scratchpad is read back byte by byte, the low byte first
theorem test_store_load : (nextOf (.ldB 3 1 1) (nextOf (.stW 2 1 0) (((base .A).putReg .A 1 own).putReg .A 2 0x8081))).reg .A 3 =
    0xFFFFFFFFFFFFFF80 := by decide
-- R180: AMO.ADD gives the old word
theorem test_amo : (nextOf (.amoAdd 3 1 2 0) (nextOf (.stW 2 1 0) (((base .A).putReg .A 1 own).putReg .A 2 7))).reg .A 3 = 7 := by decide
-- R166, R196: an entry that is not there reads as a one in bit 63
theorem test_tlook : (nextOf (.tlook 3 1) (base .A)).reg .A 3 = 0x8000000000000000 := by decide
-- R79: one and two, and a sum that rounds to even; R84: the greatest T8 value
theorem test_f32 : (f32Add 0x3F800000 0x40000000).1 = 0x40400000 ∧ (f32Add 0x4B800000 0x3F800000).1 = 0x4B800000 ∧
    (f32Mul 0x3FC00000 0x40000000).1 = 0x40400000 ∧ f32Div 0x3F800000 0 = (0x7F800000, 2) := by decide
-- R227: the approximation of 1/3 has twelve significant bits
theorem test_rcpa : f32Rcpa 0x40400000 = (0x3EAAB000, 0x10) := by decide
-- R344: QSTAT 6 of an idle unit is zero; QARM.CLR disarms
theorem test_qstat : (nextOf (.qstat 3 6) (base .K)).reg .K 3 = 0 ∧ (nextOf .qarmClr (base .K)).core.qu.armed = none := by decide
-- R378: a privileged item at T is PRIVILEGED, on another strand WRONG_STRAND
theorem test_privileged : (nextOf .tlbsync (base .K)).last = .trapped 0x06 0 0 ∧ (nextOf .tlbsync (base .A)).last = .trapped 0x03 0 0 ∧
    (nextOf .tlbsync atS).last = .retired := by decide
-- log 6: the first step runs a placed word, and right after reset a step only passes the turn
theorem test_step_runs_placed_word : (match step (State.reset.withFetchWord 32 0x80000000) with
    | .next t => decide (t.last = .retired ∧ t.core.k.pc = 4) | _ => false) = true := by decide
theorem test_reset_idles : (match step State.reset with
    | .next t => decide (t.core.k.run = .noTask ∧ t.turn = 1) | _ => false) = true := by decide

/-! ## States and operands that meet the hypotheses of the statements

One theorem for each statement, in their order; where its clauses divide on a value, at the values where they meet. -/

/-- K stands at an ADD, the only item of its block, below the known horizon. -/
def inBlock : State := (base .K).placeItem (.wide 0x80000000)
theorem issues_inBlock : inBlock.issues .K := ⟨rfl, rfl, rfl, rfl⟩

theorem witness_AluRegisterResults : (base .K).issues .K ∧ regOk .K 31 = true ∧ regOk .K 0 = true ∧ (base .A).issues .A ∧ regOk .A 63 = true :=
  ⟨issues_base _, by decide, by decide, issues_base _, by decide⟩

/-- Dividend −2^63 in s1 and divisor −1 in s2. -/
def divides : State := ((base .K).putReg .K 1 0x8000000000000000).putReg .K 2 0xFFFFFFFFFFFFFFFF
theorem witness_DivisionCompareAndAdd128Results : divides.issues .K ∧ regOk .K 2 = true ∧ (divides.reg .K 1).toInt = -2 ^ 63 ∧
    (divides.reg .K 2).toInt = -1 ∧ (base .K).issues .K ∧ (base .K).reg .K 2 = 0 :=
  ⟨issues_putReg (issues_putReg (issues_base _) _ _) _ _, by decide, by decide, by decide, issues_base _, by decide⟩

theorem witness_AluImmediateAndCompactResults : (base .M).issues .M ∧ regOk .M 31 = true :=
  ⟨issues_base _, by decide⟩

theorem witness_AluFrame : (aluDest (.add 3 1 2) = some [3] ∧ (base .K).issues .K ∧
      exec (.add 3 1 2) (base .K) = .next (nextOf (.add 3 1 2) (base .K)) ∧ (nextOf (.add 3 1 2) (base .K)).last = .retired) ∧
    (base .V).issues .V ∧ StrandId.V ≠ .A ∧ (32 : BitVec 6).getLsbD 5 = true :=
  ⟨⟨rfl, issues_base _, rfl, by decide⟩, issues_base _, by decide, by decide⟩

/-- As `inBlock`, with K in lockstep. -/
def inBundle : State := inBlock.onStrand .K fun t => { t with lockstep := true }
-- halfword 4 is just past the code, −1 before it, 0 the header, 2 the item
theorem witness_BranchAndJumpResults : inBlock.issues .K ∧ condHolds 0 (inBlock.strand .K).cc = true ∧
    condHolds 1 (inBlock.strand .K).cc = false ∧ mayGo inBlock .K 0 = true ∧ mayGo inBlock .K 2 = true ∧ refuses inBlock .K 4 ∧
    refuses inBlock .K (-1) ∧ refuses inBlock .K 3 ∧ inBundle.issues .K ∧ leavesBlock inBundle .K 4 ∧ leavesBlock inBundle .K 0 ∧
    mayGo inBundle .K 2 = true ∧ refuses inBundle .K 3 :=
  ⟨issues_inBlock, by decide, by decide, by decide, by decide, ⟨fun h => absurd h.1 (by decide), .inr (.inl (by decide))⟩,
    ⟨fun h => absurd h.1 (by decide), .inl (by decide)⟩, ⟨fun h => absurd h.1 (by decide), .inr (.inr (.inr ⟨by decide, by decide⟩))⟩,
    ⟨rfl, rfl, rfl, rfl⟩, ⟨by decide, by decide⟩, ⟨by decide, by decide⟩, by decide,
    fun h => h.2 ⟨by decide, by decide⟩, .inr (.inr (.inr ⟨by decide, by decide⟩))⟩

theorem witness_CallAndReturnResults :
    let e : CallEntry := ⟨2, 0, 1⟩
    let full := inBlock.putCalls .K (List.replicate 16 e)
    let some_ := inBlock.putCalls .K (List.replicate 15 e)
    (full.issues .K ∧ 16 ≤ (full.callStack .K).length) ∧
    (some_.issues .K ∧ (some_.callStack .K).length < 16 ∧ mayGo some_ .K 0 = true) ∧ inBlock.callStack .K = [] ∧
    some_.callStack .K = e :: List.replicate 14 e ∧ isHeader (some_.code .K) e.hdr.toNat = true ∧
    isStart (some_.code .K) e.hdr.toNat e.pc.toNat = true ∧ some_.levelAllows .K e.pc.toNat = true ∧ (some_.strand .K).lockstep = false :=
  ⟨⟨⟨rfl, rfl, rfl, rfl⟩, by decide⟩, ⟨⟨rfl, rfl, rfl, rfl⟩, by decide, by decide⟩, rfl, rfl, by decide, by decide, by decide, rfl⟩

theorem witness_StopAndTrapResults : (base .K).issues .K ∧ (base .K).atS .K = false ∧ atS.issues .K ∧ atS.atS .K = true ∧ (base .A).issues .A :=
  ⟨issues_base _, by decide, issues_atS, by decide, issues_base _⟩

/-- K at S before an ERET back to T: to offset `p` of the block whose header is at 0. -/
def returnsTo (p : BitVec 16) : State := inBlock.onSys fun y => { y with levelS := true, epcPc := p }
theorem witness_EretPauseAndYieldResults : (base .A).issues .A ∧ ((base .K).issues .K ∧ (base .K).sys.levelS = false) ∧
    (let s := returnsTo 2
     s.issues .K ∧ s.sys.levelS = true ∧ s.sys.pend = false ∧ s.sys.kHeld = none ∧ (s.strand .K).run = .running ∧ s.sys.plvl = false ∧
       isHeader (s.code .K) s.sys.epcHdr.toNat = true) ∧
    isStart (inBlock.code .K) 0 2 = true ∧ bodyEnd (inBlock.code .K) 0 = 4 ∧
    (isStart (inBlock.code .K) 0 3 = false ∧ isHeader (inBlock.code .K) 3 = false ∧ blocksEnd (inBlock.code .K) 3 = false) :=
  ⟨issues_base _, ⟨issues_base _, rfl⟩, ⟨⟨rfl, rfl, rfl, rfl⟩, rfl, rfl, rfl, rfl, rfl, by decide⟩, by decide, by decide, by decide,
    by decide, by decide⟩

/-- K at coordinate (2^32 − 1, 0, 0). -/
def farOut : State := (base .K).onStrand .K fun t => { t with coord := ⟨0xFFFFFFFF, 0, 0, 0, 0, 0⟩ }
/-- K above the known horizon with eight open images. -/
def noImageLeft : State := (base .K).onStrand .K fun t => { t with images := List.replicate 8 ((base .K).imageOf .K false) }
theorem witness_CoordinateResults :
    (atS.issues .K ∧ atS.atS .K = true) ∧ ((base .K).issues .K ∧ (base .K).atS .K = false ∧ (base .K).sys.nest.toNat ≤ (3 : BitVec 3).toNat) ∧
    (farOut.issues .K ∧ farOut.atS .K = false ∧ (0 : BitVec 3).toNat < farOut.sys.nest.toNat ∧ (farOut.strand .K).coord.get 0 = 0xFFFFFFFF) ∧
    ((base .K).mayChange .K (Coord.zero.advance 2) = true ∧ Coord.zero.get 2 ≠ 0xFFFFFFFF) ∧
    (noImageLeft.issues .K ∧ noImageLeft.mayChange .K (Coord.zero.advance 2) = false) ∧
    (2 ^ 32 ≤ (((base .K).putReg .K 1 0x100000000).reg .K 1).toNat) ∧
    (Coord.zero.assign 0 5).key < farOut.core.k.coord.key ∧ (Coord.zero.assign 0 0).key = Coord.zero.key :=
  ⟨⟨issues_atS, by decide⟩, ⟨issues_base _, by decide, by decide⟩, ⟨⟨rfl, rfl, rfl, rfl⟩, by decide, by decide, by decide⟩,
    ⟨by decide, by decide⟩, ⟨⟨rfl, rfl, rfl, rfl⟩, by decide⟩, by decide, by decide, by decide⟩

/-- As `base`, with the first GiB of HBM mapped readable and writable at virtual 0 for the core, the memory unit and engine 0. -/
def mapped (x : StrandId) : State := (base x).onMu fun m => { m with
  keys := 1, tlb := [0, 1, 2].map fun p => ⟨p, 0, 0, ⟨0x19B, 2 ^ 30⟩, none, none⟩ }
theorem issues_mapped (x : StrandId) : (mapped x).issues x := by cases x <;> exact ⟨rfl, rfl, rfl, rfl⟩

/-- A store of A stands PEND in the side log. -/
def pendingStore : State := nextOf (.stW 2 1 0) ((mapped .A).putReg .A 1 0x100000)
/-- A row command of K has still to run. -/
def rowBusy : State := (base .K).onCore fun c => { c with rowq := [⟨0, 0, 1, Coord.zero, false, false, false, 0, false, false⟩] }
/-- All four strands wait at DSYNC 1. -/
def allWait : State := strandIds.foldl (fun s x => s.onStrand x fun t => { t with run := .running, dsync := some 1 }) (base .K)
theorem witness_FenceAndDsyncResults :
    ((base .K).issues .K ∧ (base .K).releaseDone .K 7 = true) ∧ (pendingStore.issues .A ∧ pendingStore.releaseDone .A 2 = false) ∧
    ((base .K).writersQuiet .K 31 = true ∧ (base .K).engineQuiet .K = true ∧ rowBusy.issues .K ∧ rowBusy.engineQuiet .K = false) ∧
    ((1 : BitVec 3) ≠ 0 ∧ (∀ x, (allWait.strand x).run = .running ∧ (allWait.strand x).dsync = some 1) ∧ allWait.sys.levelS = false ∧
      allWait.pk.barriers = [] ∧ allWait.othersArrived 1 = true) ∧
    ((base .K).core.k.member.getLsbD 1 = true ∧ (1 : BitVec 3).toNat ≤ (base .K).sys.qlvl.toNat) ∧ (base .K).core.k.member.getLsbD 2 = false :=
  ⟨⟨issues_base _, by decide⟩, ⟨⟨rfl, rfl, rfl, rfl⟩, by decide⟩, ⟨by decide, by decide, ⟨rfl, rfl, rfl, rfl⟩, by decide⟩,
    ⟨by decide, fun x => by cases x <;> exact ⟨rfl, rfl⟩, rfl, rfl, by decide⟩, by decide, by decide⟩

theorem witness_SystemRegisterAccess :
    ((base .K).issues .K ∧ (base .K).atS .K = false ∧ (base .K).access .K 0x010 = .none ∧ (base .K).access .K 0x015 = .none ∧
      (base .K).access .K 0x027 = .none ∧ (base .K).access .K 0x003 = .read ∧ (base .K).access .K 0x030 = .write) ∧
    (atS.issues .K ∧ [0x010, 0x011, 0x012, 0x014, 0x015].all (fun n => atS.access .K n == .write)) :=
  ⟨⟨issues_base _, by decide⟩, issues_atS, by decide⟩

/-- The base register 1 of `x` names the first byte of the own scratchpad. -/
def atOwn (x : StrandId) : State := (mapped x).putReg x 1 own
theorem issues_atOwn (x : StrandId) : (atOwn x).issues x := issues_putReg (issues_mapped x) _ _
/-- The base register 1 of `x` names a mapped byte of global memory. -/
def atGlobal (x : StrandId) : State := (mapped x).putReg x 1 0x100000
theorem issues_atGlobal (x : StrandId) : (atGlobal x).issues x := issues_putReg (issues_mapped x) _ _

theorem witness_LoadResults :
    ((atOwn .K).issues .K ∧ regOk .K 1 = true ∧ finds (atOwn .K) .K own 8 (List.replicate 8 0) (atOwn .K)) ∧
    ((atGlobal .A).issues .A ∧ ∃ t, finds (atGlobal .A) .A 0x100000 8 (List.replicate 8 0) t) ∧ (base .V).issues .V :=
  ⟨⟨issues_atOwn _, by decide, .inl ⟨0, 0x40000000, rfl, rfl, rfl⟩⟩, ⟨issues_atGlobal _, _, .inr ⟨0x100000, rfl, rfl⟩⟩, issues_base _⟩

/-- A timed load of A has come due. -/
def landing : State := (base .A).onStrand .A fun t => { t with timed := [⟨3, 7, 0, Coord.zero, false⟩] }
theorem witness_TimedLoadResults :
    ((atOwn .A).issues .A ∧ (1 : BitVec 3) ≠ 0 ∧
      (atOwn .A).checkAddr .A ((atOwn .A).reg .A 1 + BitVec.ofInt 64 ((0 : BitVec 7).toInt * 8)) .read 8 8 = .ok (.scratch 0 0x40000000)) ∧
    (landing.strand .A).timed = [⟨3, 7, 0, Coord.zero, false⟩] ∧ 0 ≤ landing.sys.cycle.toNat :=
  ⟨⟨issues_atOwn _, by decide, rfl⟩, rfl, by decide⟩

theorem witness_LoadFrame : (atOwn .A).issues .A ∧ exec (.ldD 3 1 0) (atOwn .A) = .next (nextOf (.ldD 3 1 0) (atOwn .A)) ∧
    (nextOf (.ldD 3 1 0) (atOwn .A)).last = .retired := ⟨issues_atOwn _, rfl, by decide⟩

/-- As `atGlobal`, with K at S. -/
def storesAtS : State := (atGlobal .K).onSys fun y => { y with levelS := true }
theorem witness_StoreResults :
    ((atOwn .A).issues .A ∧ (atOwn .A).checkAddr .A own .write 8 8 = .ok (.scratch 0 0x40000000) ∧
      (∃ t, (atOwn .A).scratchStore .A Coord.zero ((atOwn .A).kept .A Coord.zero) 0 0x40000000 (toBytes 8 5#64) = .done t) ∧
      (atOwn .A).engineQuiet .A = true ∧ (atOwn .A).releaseDone .A 0 = true ∧ Memory.wf (atOwn .A).pk.mu.scratch = true ∧
      (atOwn .A).kept .A Coord.zero = false ∧ scratchOff 0x40000000 + 8 ≤ 0x3E0000) ∧
    ((atGlobal .A).issues .A ∧ (atGlobal .A).checkAddr .A 0x100000 .write 8 8 = .ok (.global 0x100000) ∧
      ∃ t u, (atGlobal .A).checkWrite pathCore false .write 0x100000 8 = .ok t ∧
        (t.atS .A = true → t.nextOut .A = none) ∧
        t.sideStore .A clsLS Coord.zero (t.kept .A Coord.zero) (t.atS .A) (t.stepping .A) .store 0 0x100000 (toBytes 8 5#64) = .done u) ∧
    storesAtS.atS .K = true ∧ storesAtS.nextOut .K = none :=
  ⟨⟨issues_atOwn _, rfl, ⟨_, rfl⟩, by decide, by decide, by decide, by decide, by decide⟩, ⟨issues_atGlobal _, rfl, _, _, rfl, fun h => absurd h (by decide), rfl⟩, rfl, rfl⟩

theorem witness_GlobalStoreEntersSideLog : 0x100000 % 8 = 0 ∧ (0x100000 : Nat) < 2 ^ 56 ∧ (base .A).core.side.length < 2048 ∧
    (base .A).sideUse.1 < 2048 ∧ ∃ e t, storeEntries .K clsLS Coord.zero false true false .store 0 0x100000 (toBytes 8 5#64) = [e] ∧
      storesAtS.leaveCheck e (entryStart e) (e.addr.toNat + 64 - entryStart e) = .ok t :=
  ⟨by decide, by decide, by decide, by decide, _, _, rfl, rfl⟩

theorem witness_ScratchAtomicResults : (atOwn .A).issues .A ∧ ((atOwn .A).strand .A).amo = none ∧
    (atOwn .A).kept .A ((atOwn .A).strand .A).coord = false ∧
    (atOwn .A).checkAddr .A ((atOwn .A).reg .A 1) .atomic 8 8 = .ok (.scratch 0 0x40000000) ∧
    (atOwn .A).checkAddr .A ((atOwn .A).reg .A 1) .atomic 96 32 = .ok (.scratch 0 0x40000000) ∧ scratchOff 0x40000000 + 96 ≤ 0x3E0000 ∧
    (atOwn .A).sys.det = false := ⟨issues_atOwn _, rfl, by decide, rfl, rfl, by decide, rfl⟩

/-- The result of an atomic of A has come. -/
def returned : State := (base .A).onStrand .A fun t => { t with amo := some ⟨0, 3, 2, some 7, 0, none⟩ }
theorem witness_GlobalAtomicWaits :
    ((atGlobal .A).issues .A ∧ (atGlobal .A).core.a.amo = none ∧
      (atGlobal .A).checkAddr .A ((atGlobal .A).reg .A 1) .atomic 8 8 = .ok (.global 0x100000) ∧
      ∃ u, (atGlobal .A).checkWrite pathCore false .atomic 0x100000 8 = .ok u ∧ u.sideRoom 1 = true ∧ u.sideUse.1 < 2048) ∧
    (returned.strand .A).amo = some ⟨0, 3, 2, some 7, 0, none⟩ ∧ returned.mayIssue .A = true ∧ returned.core.a.lockstep = false ∧
      returned.dry = false ∧ returned.stepping .A = false ∧ returned.core.a.eaf = [] :=
  ⟨⟨issues_atGlobal _, rfl, rfl, _, rfl, by decide, by decide⟩, rfl, by decide, rfl, rfl, by decide, rfl⟩

/-- The first GiB of HBM as the cores cache it. -/
def hbmGiB : TlbEntry := ⟨pathCore, 0, 0, ⟨0x19B, 2 ^ 30⟩, none, none⟩
/-- A word of A stands PEND in the side log. -/
def storing : State := nextOf (.stW 2 1 0) (((mapped .A).putReg .A 1 0x100000).putReg .A 2 0x8081)
theorem witness_SideLogPerforms : (∀ e ∈ (base .A).core.side, e.strand = .A → e.state = .held) ∧
    ∃ e t, pendingStore.nextOut .A = some e ∧ pendingStore.releaseReady e = true ∧ e.kind ≠ .atomic ∧
      pendingStore.leaveCheck e (entryStart e) (e.addr.toNat + 64 - entryStart e) = .ok t ∧
    -- a plain store to a page of HBM that is cached
    e.kind = .store ∧ e.posted = false ∧ e.ovf = none ∧ e.mask ≠ 0 ∧ e.addr.toNat % 64 = 0 ∧
    (∀ i, i < 64 → pendingStore.cached e.path (e.addr.toNat + i) = some hbmGiB) ∧
    hbmGiB.leaf.size ≤ 2 ^ 30 ∧ hbmGiB.host = none ∧ leafAper hbmGiB.leaf.word = 1 ∧ leafW hbmGiB.leaf.word = true ∧
    leafSup hbmGiB.leaf.word = false ∧ leafDisc hbmGiB.leaf.word = false ∧ leafSeal hbmGiB.leaf.word = false ∧ Memory.wf pendingStore.pk.mu.mem = true :=
  ⟨by decide, _, _, rfl, by decide, by decide, rfl, by decide, by decide, by decide, by decide, by decide, by decide, by decide, by decide,
    by decide, by decide, by decide, by decide, by decide, by decide⟩
-- R179, R1: the store of 0x8081 leaves the log, its low byte first
theorem test_side_log_performs : (nextOf (.sideLogPerform .A) storing).globalByte 0 0x100000 = 0x81 ∧
    (nextOf (.sideLogPerform .A) storing).globalByte 0 0x100001 = 0x80 ∧ (nextOf (.sideLogPerform .A) storing).core.side = [] := by decide

/-- Ring 1 of the own core: two slots of 4,096 bytes, nothing in it. -/
def ring1 : Ring := { Ring.zero with valid := true, ns := 1, su := 15 }
/-- As `mapped`, with ring 1 defined. -/
def ringed (x : StrandId) : State := (mapped x).onPk fun k => { k with rings := [(1, ring1)] }
def ring1At : RingAt := ⟨1, 1, 0, ring1, 0x40000000⟩
/-- Both slots of ring 1 are full in the parity the consumer expects. -/
def ringFull (x : StrandId) : State := ((ringed x).putSlot ring1At 0 ⟨true, ring1At.parity 0 false 0, false, Coord.zero⟩).putSlot ring1At 1
  ⟨true, ring1At.parity 0 false 1, false, Coord.zero⟩
theorem issues_ringed (x : StrandId) : (ringed x).issues x := by cases x <;> exact ⟨rfl, rfl, rfl, rfl⟩
theorem issues_ringFull (x : StrandId) : (ringFull x).issues x := by cases x <;> exact ⟨rfl, rfl, rfl, rfl⟩

/-- A has waited on ring 1 since cycle 0, with a limit of one cycle that has come. -/
def stalled : State := ((ringed .A).onStrand .A fun t => { t with wait := some ⟨1, true, 0, false⟩ }).onSys fun y => { y with rstall := 1, cycle := 1 }
/-- A stands at RING.WAITF of one slot of ring 1, and the slot is full. -/
def cameFull : State :=
  let s := (ringFull .A).onStrand .A fun t => { t with wait := some ⟨1, true, 0, false⟩, pc := 2, hdr := 0, remain := 1 }
  s.putPlane { s.plane with object := s.plane.object.putCode .A (oneItemCode (.compact 0x4041)) }
theorem witness_RingWaitResults :
    ((base .K).issues .K) ∧ ((ringed .A).issues .A ∧ StrandId.A ≠ .K ∧ (ringed .A).ringOf 2 = .error (0x1D, 2) ∧ (kGet Ring.zero (ringed .A).pk.rings ((ringed .A).pk.pcore.toNat * 16 + 2)).valid = false ∧ (ringed .A).ringOf 1 = .ok ring1At ∧
      ring1.ns.toNat + 1 = 2 ∧ (ringed .A).slotState ring1At (ring1At.index 0 0) = ⟨false, false, false, Coord.zero⟩) ∧
    ((ringFull .V).issues .V ∧ (ringFull .V).ringOf 1 = .ok ring1At ∧ ∀ q, q < 2 →
      (ringFull .V).slotState ring1At (ring1At.index 0 q) = ⟨true, ring1At.parity 0 false q, false, Coord.zero⟩) ∧
    ((stalled.strand .A).wait = some ⟨1, true, 0, false⟩ ∧ stalled.sys.rstall ≠ 0 ∧ 0 + stalled.sys.rstall.toNat ≤ stalled.sys.cycle.toNat ∧
      (∀ r, bestSlot stalled.pk.swage (·.hooks r) = none) ∧ stalled.sys.fq.length < 16) ∧
    (cameFull.mayIssue .A = true ∧ cameFull.cur = .A ∧ cameFull.dry = false ∧ cameFull.stepping .A = false ∧ cameFull.core.a.eaf = [] ∧
      waitItem (cameFull.itemOf .A) = some (1, 1, true) ∧ cameFull.ringOf 1 = .ok ring1At ∧ ring1At.countOk 1 = true ∧
      cameFull.fullWait ring1At 0 1 = .ready ∧ cameFull.decodeSlot .A (cameFull.itemOf .A) = none) ∧
    -- stream 2 has waited for an empty slot
    (let s := ((ringed .A).onCore fun c => { c with streams := put16 c.streams 2 { Stream.reset with state := .run, stall := some (0, false) } }).onSys
       fun y => { y with rstall := 1, cycle := 1 }
     s.strandStalls .A = false ∧ s.streamStalls = some 2 ∧ (at16 s.core.streams 2).stall = some (0, false) ∧ s.sys.fq.length < 16) :=
  ⟨issues_base _, ⟨issues_ringed _, by decide, rfl, by decide, rfl, by decide, by decide⟩, ⟨issues_ringFull _, rfl, by decide⟩,
    ⟨rfl, by decide, by decide, fun _ => rfl, by decide⟩, ⟨by decide, rfl, rfl, by decide, rfl, by decide, rfl, by decide, by decide, by decide⟩, by decide⟩

theorem witness_RingAdvanceResults :
    ((ringFull .A).issues .A ∧ (ringFull .A).ringOf 1 = .ok ring1At ∧ Memory.wf (ringFull .A).pk.mu.scratch = true ∧
      (ringFull .A).releaseDone .A ((ringFull .A).ringScope ring1At) = true ∧ ring1At.slots = 2 ∧
      ∀ q, q < 2 → ((ringFull .A).slotState ring1At (ring1At.index 0 q)).full = true) ∧
    ((ringed .A).issues .A ∧ (∀ q, q < 2 → ((ringed .A).slotState ring1At (ring1At.index 0 q)).full = false ∧
      ((ringed .A).slotState ring1At (ring1At.index 0 q)).written = false) ∧ (ringed .A).streamFor 1 = none) :=
  ⟨⟨issues_ringFull _, rfl, by decide, by decide, rfl, by decide⟩, issues_ringed _, by decide, by decide⟩

/-- The word of RING.DEF for two slots of 256 bytes at 0x1000 of the own core. -/
def defWord : BitVec 64 := 0x140001000
/-- As `ringed`, with the slots of ring 1 from B on. -/
def lowB : State := ((ringed .A).onSys fun y => { y with spresNow := 1 }).onPk fun k => { k with rings := [(1, { ring1 with base := 0x3DF000 })] }
theorem witness_RingMoveResults :
    ((ringFull .A).issues .A ∧ (ringFull .A).ringOf 1 = .ok ring1At ∧ 8 * (511 : BitVec 10).toNat + 8 ≤ ring1At.slotSize ∧
      ring1At.slotSize < 8 * (512 : BitVec 10).toNat + 8 ∧
      (ringFull .A).scratchOk false 0 (ring1At.slotOff 0 + 8 * 511) 8 = true ∧ (∃ r, lowB.ringOf 1 = .ok r ∧ lowB.scratchOk false r.pcore (r.slotOff 0) 8 = false) ∧
      (ringFull .A).fullWait ring1At 0 1 = .ready ∧
      ∃ t, (ringFull .A).scratchStore .A Coord.zero ((ringFull .A).kept .A Coord.zero) 0 (ring1At.slotAddr (ring1At.index 0 0) 0) (toBytes 8 5#64) =
        .done t) ∧
    ((base .A).core.a.coord.key ≤ (base .A).core.qu.hk ∧ ∃ e, (base .A).checkDef 3 defWord = .ok e) ∧
    ((ringed .A).onQu fun q => { q with hk := 0 }).core.qu.hk < (⟨0, 0, 0, 0, 0, 1⟩ : Coord).key ∧
    ((ringFull .V).issues .V ∧ (ringFull .V).lanesOut 5 = false ∧ (ringFull .V).ringOf 1 = .ok ring1At ∧ 4096 ≤ ring1At.slotSize ∧ (ringFull .V).scratchOk false 0 (ring1At.slotOff 0) 4096 = true ∧
      (ringFull .V).fullWait ring1At 0 1 = .ready ∧
      (((ringFull .V).consumes .V ring1At).acquire .V ((ringFull .V).ringScope ring1At)).snapTile 5 ≠ none) :=
  ⟨⟨issues_ringFull _, rfl, by decide, by decide, by decide, ⟨_, rfl, by decide⟩, by decide, _, rfl⟩, ⟨by decide, _, rfl⟩, by decide,
    issues_ringFull _, by decide, rfl, by decide, by decide, by decide, by decide⟩

/-- 64 FP32 elements at the start of the own scratchpad into ring 1. -/
def desc1 : BitVec 512 := 0x40000000 + (1 <<< 56) + (4 <<< 64) + (63 <<< 96) + (1 <<< 452)
/-- As `ringed`, with the descriptor in q2. -/
def streamed (x : StrandId) : State := (ringed x).onCore fun c => { c with streams := put16 c.streams 2 { Stream.reset with desc := desc1 } }
/-- The stream runs, nothing filled. -/
def running2 : State := (ringed .A).onCore fun c => { c with streams := put16 c.streams 2 { Stream.reset with desc := desc1, state := .run } }
theorem issues_streamed (x : StrandId) : (streamed x).issues x := by cases x <;> exact ⟨rfl, rfl, rfl, rfl⟩
theorem witness_StreamResults :
    ((streamed .A).issues .A ∧ (8 : BitVec 6).toNat % 8 = 0 ∧ (at16 (streamed .A).core.streams 2).active = false ∧ (streamed .A).preRoom = true ∧
      (streamed .A).streamFault 2 = none ∧ (streamed .A).scratchFault desc1 = none ∧ descLat desc1 = 0 ∧
      (streamed .A).core.a.coord.key ≤ (streamed .A).core.qu.hk) ∧
    ((base .A).streamFault 2 = some 0x04 ∧ (12 : BitVec 6).toNat % 8 ≠ 0) ∧ (running2.issues .A ∧ (at16 running2.core.streams 2).active = true) ∧
    ((atOwn .A).checkAddr .A own .read 64 64 = .ok (.scratch 0 0x40000000) ∧ own.getLsbD 63 = true) ∧
    ((at16 running2.core.streams 2).state = .run ∧ running2.streamHeld ((at16 running2.core.streams 2).keyAt 0) = false ∧
      running2.ringOf (descRing desc1) = .ok ring1At ∧ (∃ i, running2.freeSlotFor ring1At desc1 = some i ∧ running2.scratchOk false 0 (ring1At.slotOff i) (slotBytes desc1) = true) ∧
      ∃ bs u, running2.readParts (slotParts desc1 0) [] = .ok bs u) :=
  ⟨⟨issues_streamed _, by decide, by decide, by decide, by decide, by decide, by decide, by decide⟩, by decide,
    ⟨⟨rfl, rfl, rfl, rfl⟩, by decide⟩, ⟨rfl, by decide⟩, by decide, by decide, rfl, ⟨0, by decide, by decide⟩, _, _, rfl⟩

/-- Entry 5 of the tag table holds the key 9, ready. -/
def tagged : State := (base .A).onCore fun c => { c with tags := [(5, 9 + (1 <<< 78) + (1 <<< 79) + (1 <<< 80))] }
theorem witness_TagTableResults : ((base .A).issues .A ∧ (base .A).preRoom = true ∧ tagFind (base .A).core.tags 9 = none ∧
      tagV (cellGet (base .A).core.tags 4095) = false ∧ 4095 < (4096 : BitVec 64).toNat) ∧
    (tagged.issues .A ∧ tagFind tagged.core.tags 9 = some (5, cellGet tagged.core.tags 5) ∧ tagV (cellGet tagged.core.tags 5) = true ∧
      tagged.releaseDone .A 1 = true) :=
  ⟨⟨issues_base _, by decide⟩, ⟨rfl, rfl, rfl, rfl⟩, by decide⟩

theorem witness_ExactArithmetic : (3 : Nat) ≠ 0 ∧ (-149 : Int) ≤ 0 ∧ (-149 : Int) ≤ -149 ∧ (0 : Int) - 16 ≤ 0 + 0 - 16 ∧
    ([1, 2] : List Int).length = ([3, 4] : List Int).length := by decide

/-! Vector -/

/-- Every lane of V is active. -/
def lanesOn : State := (base .V).onVec fun v => { v with vmask := 8 }
/-- A slot of ring 1 that stream 2 of V's operand names is full. -/
def slotOn : State := (ringFull .V).onCore fun c => { c with streams := put16 c.streams 2 { Stream.reset with desc := desc1 + (15 <<< 477) } }
theorem issues_lanesOn : lanesOn.issues .V := ⟨rfl, rfl, rfl, rfl⟩
theorem no_flags (act : BitVec 1024) : flagsOf act (fun _ => 0) 0 := by
  intro b _; simp
theorem tile_found (s : State) (n : BitVec 7) (k : Nat) (h : n.getLsbD 6 = false) (h2 : s.lanesOut (n.setWidth 6) = false) :
    tileFound s n k (s.tile (n.setWidth 6)) s := .inl ⟨h, h2, rfl, rfl⟩
theorem base_tile (n : BitVec 7) (k : Nat) (h : n.getLsbD 6 = false) : tileFound lanesOn n k (lanesOn.tile (n.setWidth 6)) lanesOn :=
  tile_found _ _ _ h rfl
theorem witness_VectorIntegerResults :
    (lanesOn.issues .V ∧ tileFound lanesOn 1 1 (lanesOn.tile 1) lanesOn ∧ flagsOf lanesOn.active (fun _ => 0) 0 ∧
      lanesOn.lanesOut (tileNo 3) = false ∧ (0 : Flags5) &&& lanesOn.enables .V = 0 ∧ (lanesOn.addFlags .V 0).snapTile (tileNo 3) ≠ none) ∧
    (slotOn.issues .V ∧ ∃ ta u, tileFound slotOn 0b1001000 1 ta u) :=
  ⟨⟨issues_lanesOn, base_tile 1 1 rfl, no_flags _, rfl, by decide, by decide⟩, ⟨rfl, rfl, rfl, rfl⟩, _, _,
    .inr ⟨rfl, by decide, ring1At, rfl, by decide, by decide, rfl, rfl⟩⟩

theorem witness_MaskAndLaneResults : lanesOn.issues .V ∧ (7 : BitVec 7).toNat < 8 ∧ ¬(8 : BitVec 7).toNat < 8 ∧
    1023 < ((lanesOn.putReg .V 1 1024).reg .V (scalarNo 1)).toNat ∧ ((lanesOn.putReg .V 1 1023).reg .V (scalarNo 1)).toNat ≤ 1023 ∧
    lanesOn.lanesOut (tileNo 3) = false ∧ (base .V).active.getLsbD 1023 = false ∧ lanesOn.active.getLsbD 1023 = true ∧
    lanesOn.snapTile (tileNo 3) ≠ none ∧ tileFound lanesOn 1 1 (lanesOn.tile 1) lanesOn :=
  ⟨issues_lanesOn, by decide, by decide, by decide, by decide, rfl, by decide, by decide, by decide, base_tile 1 1 rfl⟩

/-- As `lanesOn`, with the invalid flag enabled. -/
def trapsOn : State := lanesOn.onStrand .V fun t => { t with flags := 0x100 }
theorem witness_VectorFloatResults :
    (lanesOn.issues .V ∧ tileFound lanesOn 1 1 (lanesOn.tile 1) lanesOn ∧ flagsOf lanesOn.active (fun _ => 0) 0 ∧
      lanesOn.lanesOut (tileNo 3) = false ∧ (lanesOn.addFlags .V 0).snapTile (tileNo 3) ≠ none) ∧
    -- an active lane would set the enabled flag NV
    (trapsOn.issues .V ∧ trapsOn.active.getLsbD 0 = true ∧ (f32Add 0x7F800001 0).2 &&& trapsOn.enables .V ≠ 0) :=
  ⟨⟨issues_lanesOn, base_tile 1 1 rfl, no_flags _, rfl, by decide⟩, ⟨rfl, rfl, rfl, rfl⟩, by decide, by decide⟩

theorem witness_ConversionResults : lanesOn.issues .V ∧ tileFound lanesOn 1 1 (lanesOn.tile 1) lanesOn ∧
    fmtOf (0 : BitVec 4).toNat ≠ none ∧ fmtOf (1 : BitVec 4).toNat ≠ none ∧ perLane 0 = some 1 ∧ perLane 1 = some 2 ∧
    (1 : BitVec 3).toNat < max 1 2 / min 1 2 ∧ max 1 2 / min 1 2 ≤ (2 : BitVec 3).toNat ∧ flagsOf lanesOn.active (fun _ => 0) 0 :=
  ⟨issues_lanesOn, base_tile 1 1 rfl, by decide, by decide, by decide, by decide, by decide, by decide, no_flags _⟩

theorem witness_AxisResults : lanesOn.issues .V ∧ tileFound lanesOn 1 1 (lanesOn.tile 1) lanesOn ∧ flagsOf lanesOn.active (fun _ => 0) 0 ∧
    ((lanesOn.putReg .V 1 63).reg .V (scalarNo 1)).toNat ≤ 63 ∧ 63 < ((lanesOn.putReg .V 1 64).reg .V (scalarNo 1)).toNat ∧
    ((lanesOn.putReg .V 1 15).reg .V (scalarNo 1)).toNat ≤ 15 ∧ 15 < ((lanesOn.putReg .V 1 16).reg .V (scalarNo 1)).toNat :=
  ⟨issues_lanesOn, base_tile 1 1 rfl, no_flags _, by decide, by decide, by decide, by decide⟩

/-- Stream 2 is of signed bytes, and its slot of 4,096 elements is full. -/
def bytesOn : State := (ringFull .V).onCore fun c => { c with
  streams := put16 c.streams 2 { Stream.reset with desc := desc1 + (5 <<< 57) + (63 <<< 477) } }
theorem witness_SpecialDotAndRandResults :
    (lanesOn.issues .V ∧ tileFound lanesOn 1 1 (lanesOn.tile 1) lanesOn ∧ tileFound lanesOn 1 4 (lanesOn.tile 1) lanesOn ∧
      lanesOn.lanesOut (tileNo 2) = false ∧ lanesOn.lanesOut (tileNo 2 + 1) = false) ∧
    (slotOn.issues .V ∧ descFmt (at16 slotOn.core.streams (selStream 0b1001000)).desc ≠ 5) ∧
    (bytesOn.issues .V ∧ descFmt (at16 bytesOn.core.streams (selStream 0b1001000)).desc = 5 ∧ ∃ ta u, tileFound bytesOn 0b1001000 4 ta u) :=
  ⟨⟨issues_lanesOn, base_tile 1 1 rfl, base_tile 1 4 rfl, rfl, rfl⟩, ⟨⟨rfl, rfl, rfl, rfl⟩, by decide⟩, ⟨rfl, rfl, rfl, rfl⟩, by decide,
    _, _, .inr ⟨rfl, by decide, ring1At, rfl, by decide, by decide, rfl, rfl⟩⟩

theorem witness_VectorFrame : vecDest (.vidx 3) = some (3, []) ∧ vecDest (.vadd 3 1 2) = some (3, [1, 2]) ∧ (base .V).issues .V ∧
    (∃ t, exec (.vadd 3 1 2) (base .V) = .next t ∧ t.last = .retired) ∧ (List.replicate 1024 (0 : BitVec 32)).length = 1024 :=
  ⟨rfl, rfl, issues_base _, ⟨_, rfl, rfl⟩, by simp⟩

/-- The V strand is at a yield. -/
def vStops : State := (base .V).onStrand .V fun t => { t with run := .yielded }
/-- Park slot 4 holds bank 128. -/
def parked4 : State := vStops.onVec fun v => { v with idle := [(128, .parked 4)] }
theorem witness_ParkingResults : (base .V).vStopped = false ∧ (vStops.vStopped = true ∧ (∀ c, (c, IdleBank.parked 4) ∉ vStops.core.vec.idle) ∧
      vStops.core.vec.freeBank = some 128) ∧
    (parked4.vStopped = true ∧ parked4.core.vec.parkedIn 4 = some 128 ∧ parked4.snapTile 3 ≠ none) :=
  ⟨by decide, ⟨by decide, fun _ => List.not_mem_nil, by decide⟩, by decide⟩

/-- Lane 0 alone is active, and s1 of V names the own scratchpad. -/
def oneLane : State := ((mapped .V).onVec fun v => { v with masks := put8 v.masks 0 1 }).putReg .V 1 own
theorem issues_oneLane : oneLane.issues .V := issues_putReg ⟨rfl, rfl, rfl, rfl⟩ _ _
theorem scratchLane (need : Need) (size : Nat)
    (h : oneLane.checkAddr .V own need size (if size = 96 then 32 else 1) = .ok (.scratch 0 0x40000000)) (h2 : size ≤ 0x3E0000) :
    lanesScratch oneLane need size (fun _ => own) (fun _ => 0) (fun _ => 0) :=
  fun _ _ _ => ⟨0x40000000, h, rfl, by simpa using h2⟩
theorem witness_VectorLoadStoreResults :
    oneLane.issues .V ∧ (63 : BitVec 7).toNat < 64 ∧ (oneLane.reg .V (scalarNo 1)).toNat % 4 = 0 ∧
    lanesFind oneLane clsLS (fun _ => own) (fun _ => 0) ∧ lanesScratch oneLane .write 4 (fun _ => own) (fun _ => 0) (fun _ => 0) ∧
    oneLane.lanesOut (tileNo 3) = false ∧ oneLane.snapTile (tileNo 3) ≠ none ∧ oneLane.kept .V oneLane.core.v.coord = false ∧
    tileFound oneLane 1 1 (oneLane.tile 1) oneLane ∧ ((oneLane.putReg .V 2 2).reg .V (scalarNo 2)).toNat % 4 ≠ 0 :=
  ⟨issues_oneLane, by decide, by decide, fun _ _ _ => .inl ⟨0, 0x40000000, (rfl : oneLane.checkAddr .V own .read 4 1 = .ok (.scratch 0 0x40000000)), rfl⟩, scratchLane _ 4 rfl (by decide), rfl,
    by decide, by decide, tile_found _ _ _ rfl rfl, by decide⟩

/-- As `oneLane`, with s1 naming a mapped byte of global memory. -/
def oneGlobal : State := ((mapped .V).onVec fun v => { v with masks := put8 v.masks 0 1 }).putReg .V 1 0x100000
theorem witness_VectorAtomicResults :
    (oneLane.issues .V ∧ (oneLane.strand .V).amo = none ∧ tileFound oneLane 1 1 (oneLane.tile 1) oneLane ∧
      lanesScratch oneLane .atomic 4 (fun _ => own) (fun _ => 0) (fun _ => 0) ∧
      lanesScratch oneLane .atomic 96 (fun _ => own) (fun _ => 0) (fun _ => 0) ∧ oneLane.sys.det = false) ∧
    (oneGlobal.issues .V ∧ oneGlobal.active.getLsbD 0 = true ∧ oneGlobal.checkAddr .V 0x100000 .atomic 4 1 = .ok (.global 0x100000) ∧
      oneGlobal.checkWrite pathCore false .atomic 0x100000 4 = .ok oneGlobal ∧ oneGlobal.core.side.length + 1024 ≤ 2048) :=
  ⟨⟨issues_oneLane, rfl, tile_found _ _ _ rfl rfl, scratchLane _ 4 rfl (by decide),
      scratchLane _ 96 rfl (by decide), rfl⟩, issues_putReg ⟨rfl, rfl, rfl, rfl⟩ _ _, by decide, rfl, rfl, by decide⟩

/-! Chain and row engines, matrix engine -/

/-- One FP32 element at the start of the own scratchpad. -/
def one : BitVec 512 := 0x40000000 + (1 <<< 56)
/-- A pass that copies the element to offset 0x10000: one input, one op, a move. -/
def pass1 : ChainPass := ⟨one.setWidth 2560 + ((one + 0x10000).setWidth 2560 <<< 1536) + (1 <<< 0x800) + (9 <<< 0x900), own, Coord.zero, false, false, 0, false, false⟩
def passQueued : State := (base .V).onCore fun c => { c with chainq := [pass1] }
def passStarted : State := (base .V).onCore fun c => { c with chainq := [{ pass1 with started := true }] }
theorem witness_ChainEngineResults :
    ((base .K).issues .K ∧ (31 : BitVec 6).toNat < 32 ∧ (base .K).core.rowq.length < 16 ∧ (base .V).issues .V ∧ (base .V).core.chainq.length < 4 ∧
      ((base .V).putReg .V 1 own).chainPlace (((base .V).putReg .V 1 own).reg .V 1) = true) ∧
    (16 ≤ ((base .K).onCore fun c => { c with rowq := List.replicate 16 ⟨0, 0, 0, Coord.zero, false, false, false, 0, false, false⟩ }).core.rowq.length) ∧
    (passQueued.core.chainq = [pass1] ∧ pass1.started = false ∧ passQueued.cutHolds pass1.coord = false ∧ passQueued.chainFault pass1 = none) ∧
    (passQueued.chainFault { pass1 with addr := 0 } = some 0x01) ∧
    (passStarted.core.chainq = [{ pass1 with started := true }] ∧ pass1.coord.key < passStarted.core.qu.hk ∧
      Memory.wf passStarted.pk.mu.scratch = true ∧ passStarted.chainFault { pass1 with started := true } = none ∧ chainNin pass1.desc = 1 ∧
      (∀ i, i < 4 → i < 1 ∨ i = 3 → descFmt (chainStream pass1.desc i) = 0 ∧ descSpace (chainStream pass1.desc i) = true) ∧
      unitCount (chainStream pass1.desc 3) = 1 ∧
      (∃ bs, passStarted.engineRead .V false clsRW true (unitAddr (chainStream pass1.desc 0) 0) 4 = .ok bs passStarted) ∧
      passStarted.overlapped pass1.desc (passStarted.inputElems pass1.desc) 0 0 = false ∧ passStarted.scratchOk false 0 0x10000 4 = true ∧
      0x10000 = (unitAddr (chainStream pass1.desc 3) 0).toNat % 2 ^ 22 ∧
      passStarted.scratchCore ((unitAddr (chainStream pass1.desc 3) 0).setWidth 32) = .ok 0) :=
  ⟨⟨issues_base _, by decide, by decide, issues_base _, by decide, by decide⟩, by decide, ⟨rfl, rfl, by decide, by decide⟩, by decide,
    rfl, by decide, by decide, by decide, by decide, by decide, by decide, ⟨_, rfl⟩, by decide, by decide, by decide, rfl⟩

/-- A row command of one row of one element at 0, its AUX record at 32. -/
def row1 : RowCommand := ⟨0, 0, 1, Coord.zero, false, false, false, 0, false, false⟩
def rowStarted : State := (base .K).onCore fun c => { c with rowq := [{ row1 with started := true }] }
theorem witness_RowEngineResults :
    (let s := (base .K).onCore fun c => { c with rowq := [row1] }
     s.core.rowq[0]? = some row1 ∧ row1.started = false ∧ (∀ q ∈ s.core.rowq, q.started = true → q.phase ≠ row1.phase) ∧
       s.cutHolds row1.coord = false ∧ s.rowFault row1 = none ∧ s.rowFault { row1 with word := 1 } = some 0x01) ∧
    (rowStarted.core.rowq = [{ row1 with started := true }] ∧ row1.coord.key < rowStarted.core.qu.hk ∧ Memory.wf rowStarted.pk.mu.scratch = true ∧
      rowAt row1.word 0 + 4 * rowLen row1.word ≤ auxAt row1 0) := by
  refine ⟨?_, rfl, ?_⟩ <;> decide

/-- Stream 2 is of BF16, its slot of 2,048 elements is full; one block of one column of B is resident. -/
def macro1 : Resident := { Resident.none with res := true, fmt := 1, kblk := 1 }
def matrixOn (w : BitVec 64) : State := (((ringFull .M).onCore fun c => { c with
  streams := put16 c.streams 2 { Stream.reset with desc := desc1 + (1 <<< 57) + (31 <<< 477) } }).onMat fun m => { m with bstat := macro1 }).putReg .M 1 w
theorem issues_matrixOn (w : BitVec 64) : (matrixOn w).issues .M := issues_putReg ⟨rfl, rfl, rfl, rfl⟩ _ _
/-- One row, one column, one block. -/
def mmaShape : BitVec 64 := 1 <<< 25
/-- Two cores of one quad and one level-2 domain, of which core 1 has made its offer. -/
def teamShape : BitVec 64 := mmaShape + (1 <<< 43)
def team : State := (((matrixOn teamShape).onSys fun y => { y with qlvl := 2 }).onPk fun k => { k with
  domains := [⟨0, 2, 3, [0], 0⟩], remap := [(0, ⟨true, 0, 0, 0, 0⟩), (1, ⟨true, 1, 0, 0, 0⟩)] }).onMat fun m => { m with
    peers := [⟨1, teamShape, 0, Coord.zero, 1, [], none⟩] }
theorem witness_MatrixMultiplyResults :
    let s := matrixOn mmaShape
    let d := (at16 s.core.streams 2).desc
    (s.issues .M ∧ (0b1001000 : BitVec 7).getLsbD 6 = true ∧ selStream 0b1001000 = 2 ∧ mmaKbn mmaShape ≠ 0 ∧ descFmt d ∈ [1, 2, 3, 4] ∧
      s.core.mat.bstat.res = true ∧ mmaKb0 mmaShape + mmaKbn mmaShape ≤ s.core.mat.bstat.kblk.toNat ∧
      mmaCols mmaShape ≤ s.core.mat.bstat.nm1.toNat + 1 ∧ mmaRow0 mmaShape + mmaRows mmaShape ≤ 256 ∧ descE d % (mmaKbn mmaShape * 64) = 0 ∧
      s.ringOf (descRing d) = .ok ring1At ∧ slotsOf 1 1 (descE d) ≤ ring1At.slots ∧ descSpv d = false ∧
      drawUnits macro1 1 mmaShape ≤ s.core.mat.ceil.toNat ∧ mmaShape.extractLsb' 43 21 = 0 ∧ s.core.mat.zfree.getLsbD 0 = false ∧
      s.fullWait ring1At 0 1 = .ready ∧ s.core.mat.queued < 4 ∧ s.scratchOk false 0 (ring1At.slotOff 0) (dataBytes d) = true) ∧
    ((matrixOn 0).issues .M ∧ mmaKbn ((matrixOn 0).reg .M 1) = 0) ∧
    (team.issues .M ∧ mmaPm1 teamShape ≠ 0 ∧ teamShape.extractLsb' 53 11 = 0 ∧ mmaLbase teamShape = team.sys.lcore.toNat ∧
      team.oneDomain teamShape = true ∧ team.oneQuad teamShape = true ∧
      ∃ ps, team.peersOf teamShape = some ps ∧ ∀ p ∈ ps, agrees 0 teamShape p = true) ∧
    -- MLOADB of one new block of one column
    (let w : BitVec 64 := (1 <<< 9) + (1 <<< 26)
     w.extractLsb' 27 37 = 0 ∧ loadNb w ≠ 0 ∧ loadNew w = true ∧ descE d % (loadNb w * 64) = 0 ∧
       loadKb0 w + loadNb w ≤ (macro1.loaded w 1 false 0).capacity) :=
  ⟨⟨issues_matrixOn _, by decide, by decide, by decide, by decide, by decide, by decide, by decide, by decide, by decide, rfl, by decide⟩,
    ⟨issues_matrixOn _, by decide⟩,
    ⟨⟨rfl, rfl, rfl, rfl⟩, by decide, by decide, by decide, by decide, by decide, _, rfl, by decide⟩, by decide⟩

theorem witness_MatrixItemResults :
    let s := (matrixOn own).putReg .M 2 (1 <<< 9)
    (s.issues .M ∧ s.core.mat.zfree.getLsbD 7 = false ∧ s.core.mat.queued < 4 ∧ s.core.m.amo = none ∧
      -- one row of one FP32 column, drained to the own scratchpad
      s.checkAddr .M own .write (unitBytes 0) 1 = .ok (.scratch 0 0x40000000) ∧ s.scratchOk false 0 0 (drainBytes 0) = true ∧
      s.checkAddr .M own .read 64 64 = .ok (.scratch 0 0x40000000) ∧ s.scratchOk false 0 0 262144 = true ∧
      -- MCSUM of the one resident block
      loadNb (s.reg .M 2) ≠ 0 ∧ loadKb0 (s.reg .M 2) + loadNb (s.reg .M 2) ≤ s.core.mat.bstat.kblk.toNat) ∧
    (let t := (base .M).onMat fun m => { m with zfree := 1, ceil := 5, held := 3 }
     t.issues .M ∧ t.core.mat.zfree.getLsbD 0 = true ∧ t.core.mat.pendUnits.toNat < 5 - t.core.mat.held.toNat) ∧
    (0x1 : BitVec 2) ≠ 0 ∧ (0x100000000 : BitVec 64).extractLsb' 34 30 = 0 :=
  ⟨⟨issues_putReg (issues_matrixOn _) _ _, by decide, by decide, by decide, rfl, by decide, rfl, by decide, by decide, by decide⟩,
    ⟨⟨rfl, rfl, rfl, rfl⟩, by decide, by decide⟩, by decide, by decide⟩

/-- An operation of a kind stands at the head of the queue. -/
def opOf (kind : MatrixKind) (w : BitVec 64) (begun : Bool) : MatrixOp := ⟨kind, 0, w, own, ⟨1, false, 2048, 0x40000000, [0], 1, [0]⟩, macro1, Resident.none, 7,
  Coord.zero, false, false, begun, 0, false, none, 0, [], false, none⟩
def engineOf (kind : MatrixKind) (w : BitVec 64) (begun : Bool) : State := (matrixOn w).onMat fun m => { m with queue := [opOf kind w begun] }
theorem witness_MatrixEngineSteps :
    (let s := engineOf .mma mmaShape false
     s.core.mat.queue = [opOf .mma mmaShape false] ∧ s.cutHolds Coord.zero = false ∧ s.saveHolds (opOf .mma mmaShape false) = false ∧ cellsWf s.core.mat.acc = true ∧
       Memory.wf s.pk.mu.scratch = true ∧ s.core.m.images = [] ∧ drawUnits macro1 1 mmaShape ≤ s.core.mat.held.toNat) ∧
    (let s := engineOf .mdrain 0 false
     Coord.zero.key < s.core.qu.hk ∧ drainFmt 0 ≤ 4 ∧ drainCols 0 * 32 % 8 = 0 ∧ own.getLsbD 63 = true ∧
       s.scratchCore (own.setWidth 32) = .ok 0 ∧ own.toNat % 2 ^ 22 + 4 ≤ 0x3E0000) ∧
    (let s := engineOf .mma mmaShape true
     ∃ vs, s.formBlock (opOf .mma mmaShape true) 0 = .ok vs s ∧ vs.length = mmaRows mmaShape ∧ ∀ v ∈ vs, v.length = mmaCols mmaShape) ∧
    (let s := (engineOf .mcsum (1 <<< 9) false).onStrand .M fun t => { t with amo := some ⟨7, 3, 2, none, 0, none⟩ }
     ∃ a, s.core.m.amo = some a ∧ a.entry = (opOf .mcsum (1 <<< 9) false).waiter) ∧
    (0 : Nat) < loadNb (1 <<< 9) :=
  ⟨by decide, by decide, ⟨_, rfl, by decide, by decide⟩, ⟨_, rfl, rfl⟩, by decide⟩

/-! Copy chains, parcels, packets -/

/-- As `mapped`, chain 0 of A standing at an entry at the start of the scratchpad, in RUN on engine 0. -/
def chained (e : BitVec 512) : State := ((mapped .A).scratchPut 0 0 (toBytes 64 e)).onPk fun k => { k with
  chains := put64 k.chains 0 { Chain.zero with state := .run, str := .A, gen := 1 } }
theorem witness_CopyItemResults :
    let s := (atOwn .A).putReg .A 2 0x100
    (s.issues .A ∧ regOk .A 63 = true ∧ s.checkAddr .A own .read 64 64 = .ok (.scratch 0 0x40000000) ∧ (0x40000000 : BitVec 32).getLsbD 30 = true ∧
      s.engineQuiet .A = true ∧ s.freeChain = some 0 ∧ s.portCount < 32) ∧
    ((atGlobal .A).issues .A ∧ (atGlobal .A).checkAddr .A 0x100000 .read 64 64 = .ok (.global 0x100000)) ∧ (base .V).issues .V ∧
    -- ticket 0x100 names chain 0 of generation 1: gone in one state, in RUN in another
    ((s.chain 0).gen ≠ (s.reg .A 2).extractLsb' 8 8 ∧ (s.reg .A 2).extractLsb' 16 48 = 0 ∧ (s.reg .A 2).getLsbD 7 = false) ∧
    (((chained 0).chain 0).gen = 1 ∧ ((chained 0).chain 0).state = .run) :=
  ⟨⟨issues_putReg (issues_atOwn _) _ _, by decide, rfl, by decide, by decide, by decide, by decide⟩, ⟨issues_atGlobal _, rfl⟩, issues_base _,
    by decide, by decide⟩

/-- COPY of 64 bytes within the own scratchpad, from 0x1000 to 0x2000. -/
def copyEntry : BitVec 512 := 1 + (64 <<< 32) + ((own + 0x1000).setWidth 512 <<< 64) + ((own + 0x2000).setWidth 512 <<< 128)
/-- LOOP at level 0, twice, to the start of the chain. -/
def loopEntry : BitVec 512 := 8 + (2 <<< 32)
/-- BARRIER of level 1. -/
def barrierEntry : BitVec 512 := 6 + (1 <<< 64)
theorem witness_ChainSteps :
    standsAt (chained 0) 0 0 ∧ (chained 0).scopeQuiet 4 = true ∧
    (standsAt (chained copyEntry) 0 1 ∧ (chained copyEntry).followKey copyEntry = none ∧
      (∃ b k, (({ (chained copyEntry).chain 0 with begun := true } : Chain).moveUnit copyEntry) = some (0, own + 0x1000, b, k)) ∧
      ((chained copyEntry).chain 0).past = [] ∧ (chained copyEntry).pk.mu.poison = []) ∧
    standsAt (chained loopEntry) 0 8 ∧
    (standsAt (chained barrierEntry) 0 6 ∧ (1 : BitVec 3) ≤ (chained barrierEntry).sys.qlvl ∧
      (chained barrierEntry).core.a.member.getLsbD 1 = true ∧ (chained barrierEntry).scopeQuiet (domainScope 1) = true) ∧
    (let s := (chained 0).onPk fun k => { k with chains := put64 k.chains 0 { Chain.zero with state := .held, str := .A, gen := 1 } }
     (s.chain 0).state = .held ∧ (s.chain 0).post = none ∧ (s.chain 0).coord.key < s.core.qu.hk ∧
       (∀ o ∈ s.pk.chains.toList, o.state = .held → o.str = .A → (s.chain 0).num ≤ o.num)) ∧
    (let s := (chained 0).onPk fun k => { k with engineQueue := [0] }
     s.pk.engineQueue = [0] ∧ s.engineTaken 0 = false) ∧
    ((chained 0).onPk fun k => { k with farMmas := [(5, 0, false, 7)] }).pk.farMmas.find? (fun f => f.2.2.2 == 7 && f.1 / 16 == (0 : BitVec 8).toNat) =
      some (5, 0, false, 7) := by
  refine ⟨?_, ?_, ⟨?_, ?_, ⟨_, _, rfl⟩, ?_, ?_⟩, ?_, ⟨?_, ?_, ?_, ?_⟩, ?_, ?_, ?_⟩ <;> first | decide | (unfold standsAt; decide)

/-- Parcel 3 of the context, OPENED at virtual page 0x10, and the handle of it in s1. -/
def parcelled : State := ((mapped .K).onPk fun k => { k with parcels := [(3, ⟨.opened, 5, 0x10, 0⟩)] }).putReg .K 1 0x0003000000100005
/-- Tables at 0x10000, 0x20000, 0x30000 and 0x40000 map the virtual page 0 to the frame 0x10 of HBM, readable and writable. -/
def tables : State := (atS.onSys fun y => { y with mroot := 0x10000 }).onMu fun m => { m with
  keys := 1, mem := [(0x10000, 0x01), (0x10008, 0x02), (0x20000, 0x01), (0x20008, 0x03), (0x30000, 0x01), (0x30008, 0x04),
    (0x40000, 0x93), (0x40001, 0x01), (0x40008, 0x10)] }
/-- The leaf of the next page has no aperture, and a parcel of one page has landed in inbox 0. -/
def receiving : State := ((tables.onMu fun m => { m with mem := m.mem ++ [(0x40010, 0x03)] }).onPk fun k => { k with
  inboxes := [(0, ⟨true, 1, [⟨[0x30], 0, 9, 4, 2⟩], 0x30, 1, 0, [], 0⟩)] }).putReg .K 2 0x10000
theorem witness_ParcelResults :
    (parcelled.issues .K ∧ regOk .K 1 = true ∧ parcelled.kept .K (parcelled.strand .K).coord = false ∧
      handleFinds parcelled (parcelled.reg .K 1) ⟨.opened, 5, 0x10, 0⟩ ∧
      ∃ t, finds parcelled .K (BitVec.ofNat 64 (Parcel.base ⟨.opened, 5, 0x10, 0⟩)) 1 [0] t) ∧
    ((base .K).issues .K ∧ (base .K).freePid ≠ none ∧ ∀ p, ¬handleFinds (base .K) 0 p) :=
  ⟨⟨⟨rfl, rfl, rfl, rfl⟩, by decide, by decide, ⟨by decide, by decide, by decide, by decide⟩, _, .inr ⟨0x100000, rfl, rfl⟩⟩,
    issues_base _, by decide, fun _ h => h.2.1 rfl⟩

/-- A leaf of an address permits reads and writes, cached for the core (the first GiB). -/
theorem plain_parcelled : ∃ c, parcelled.cached pathCore 0x100000 = some c ∧
    (∀ need level, permits c.leaf.word level false need = none) ∧ ∀ need, parcelled.parcelRefuses c.leaf.word need = none :=
  ⟨⟨0, 0, 0, ⟨0x19B, 2 ^ 30⟩, none, none⟩, by decide, fun need _ => by cases need <;> rfl, fun need => by cases need <;> decide⟩
theorem witness_ParcelCompletes :
    -- PLD, PST, PSTREF of a null, PSEAL and PFREE at offset 0, PMKREF of the base address
    (parcelled.issues .K ∧ handleFinds parcelled (parcelled.reg .K 1) ⟨.opened, 5, 0x10, 0⟩ ∧ parcelled.reg .K 2 = 0 ∧
      0 + 8 ≤ Parcel.extent ⟨.opened, 5, 0x10, 0⟩ ∧ parcelled.pk.mu.poison = [] ∧ parcelled.core.side.length < 2048 ∧ parcelled.atS .K = false ∧
      (parcelled.putReg .K 3 0xFFFFFFFF).reg .K 3 = 0xFFFFFFFF ∧ (parcelled.putReg .K 2 0x100000).reg .K 2 = 0x100000 ∧
      Parcel.base ⟨.opened, 5, 0x10, 0⟩ = 0x100000 ∧ parcelled.undoRoom .K 1 = true ∧
      parcelled.undoRoom .K (1 + ((parcelled.leavesOf 0x100000 1).filter fun l => leafPV l.2 && leafPid l.2 == 3).length) = true) ∧
    -- POPEN of the page at 0, and PRECV of inbox 0 at the page at 0x10000, whose leaf has no aperture
    (receiving.issues .K ∧ receiving.reg .K 0 = 0 ∧ receiving.reg .K 2 = 0x10000 ∧ receiving.openFault .K 0 = none ∧
      (receiving.leavesOf 0 1).all (fun l => !leafPV l.2) = true ∧ receiving.freePid = some 0 ∧
      receiving.undoRoom .K (1 + (receiving.leavesOf 0 1).length) = true ∧ (receiving.inbox 0).enabled = true ∧
      (receiving.inbox 0).landed = [⟨[0x30], 0, 9, 4, 2⟩] ∧ receiving.mapped 0x10000 = false ∧ (receiving.freeLeaf 0x10000).isSome = true ∧
      receiving.undoRoom .K 3 = true) := by
  refine ⟨⟨⟨rfl, rfl, rfl, rfl⟩, ⟨by decide, by decide, by decide, by decide⟩, ?_⟩, ⟨rfl, rfl, rfl, rfl⟩, ?_⟩ <;> decide
-- R322: POPEN of the page at 0 gives the handle of parcel 0, of generation 1
theorem test_popen : (nextOf (.popen 3 0 2) receiving).reg .K 3 = 1 ∧ (nextOf (.popen 3 0 2) receiving).last = .retired := by decide

/-- A reference of another parcel, and an offset whose tag is another's, do not name parcel 3. -/
theorem witness_ParcelEscapes :
    (let s := parcelled.putReg .K 3 0x0004000500000000
     s.issues .K ∧ s.reg .K 3 ≠ 0xFFFFFFFF ∧ (s.reg .K 3).extractLsb' 32 32 ≠ (s.reg .K 1).extractLsb' 48 16 ++ (s.reg .K 1).extractLsb' 0 16 ∧
       (match s.checkWrite pathCore false .write 0x100000 4 with | .ok _ => true | _ => false) = true) ∧
    (let s := parcelled.putReg .K 2 0x0004000500000000
     (s.reg .K 2).extractLsb' 32 32 ≠ 0 ∧ (s.reg .K 2).extractLsb' 32 32 ≠ (s.reg .K 1).extractLsb' 48 16 ++ (s.reg .K 1).extractLsb' 0 16) ∧
    Parcel.extent ⟨.opened, 5, 0x10, 0⟩ < 0x10000 + 1 := by
  refine ⟨⟨⟨rfl, rfl, rfl, rfl⟩, ?_⟩, ?_, ?_⟩ <;> decide

theorem witness_PostAndFabricSteps :
    -- POST of a sealed parcel, its word naming this package
    (let s := ((parcelled.onPk fun k => { k with parcels := [(3, ⟨.sealed, 5, 0x10, 0⟩)] }).putReg .K 2 0x40000)
     s.issues .K ∧ (s.reg .K 2).getLsbD 18 = true ∧ (s.reg .K 2).extractLsb' 37 27 = 0 ∧ handleFinds s (s.reg .K 1) ⟨.sealed, 5, 0x10, 0⟩ ∧
       s.startReady .K 7 = true ∧ s.undoRoom .K 1 = true ∧ s.freeChain = some 0 ∧ s.portCount < 32) ∧
    (let s := (base .K).onPk fun k => { k with parcels := [(3, ⟨.inTransit, 5, 0x10, 0⟩)] }
     s.posting (s.parcelKey 3) = false ∧ (kGet Parcel.zero s.pk.parcels (s.parcelKey 3)).state = .inTransit) ∧
    (let p : Packet := ⟨2, 4, 9, 0, 0, 1, 0, .write 0x100000 [7]⟩
     let s := (base .K).onPk fun k => { k with inbound := [p], kids := [⟨2, 5, some 9⟩] }
     s.pk.kids.find? (·.kid == p.kid) = some ⟨2, 5, some 9⟩ ∧ olderGen p.gen 5 = true ∧ olderGen 5 5 = false) ∧
    (let s := (chained 0).onPk fun k => { k with
       chains := put64 k.chains 0 { Chain.zero with state := .run, str := .A, gen := 1, remote := true }, unanswered := [⟨0, 2, 1, 0⟩], ftmo := 0 }
     s.pk.unanswered.find? (·.tag == 0) = some ⟨0, 2, 1, 0⟩ ∧ s.pk.unanswered.find? (·.seq == 1) = some ⟨0, 2, 1, 0⟩ ∧ (s.chain 0).remote = true ∧
       0 + max 1 s.pk.ftmo.toNat * 1024 ≤ (s.tick 1024).sys.cycle.toNat ∧ ∀ r, bestSlot s.pk.swage (·.hooks r) = none) :=
  ⟨⟨⟨rfl, rfl, rfl, rfl⟩, by decide, by decide, ⟨by decide, by decide, by decide, by decide⟩, by decide, by decide, by decide, by decide⟩, by decide,
    by decide, by decide, by decide, by decide, by decide, fun _ => rfl⟩

/-! The quench unit, the memory unit, Swage and planes -/

/-- K at S, a cut of coordinate 0 having been taken. -/
def cutTaken : State := atS.onQu fun q => { q with st := .cut }
/-- Armed at a coordinate that K has reached. -/
def armedLow : State := (base .K).onQu fun q => { q with armed := some (Coord.zero, 1) }
/-- Armed at a coordinate that nothing has reached. -/
def armedHigh : State := (base .K).onQu fun q => { q with armed := some (⟨9, 0, 0, 0, 0, 0⟩, 1) }
theorem reached_low : reached armedLow Coord.zero.key := .inl ⟨.K, by decide, by decide⟩
theorem not_reached_high : ¬reached armedHigh (⟨9, 0, 0, 0, 0, 0⟩ : Coord).key := by
  rintro (⟨x, _, h⟩ | ⟨o, h, _⟩ | ⟨e, h, _⟩ | ⟨h, _⟩)
  · revert h; cases x <;> decide
  · revert h; have : armedHigh.opKeys = [] := by decide
    simp [this]
  · exact absurd h List.not_mem_nil
  · exact absurd h (by decide)
theorem witness_QuenchItemResults :
    (base .A).issues .A ∧ ((base .K).issues .K ∧ (29 : BitVec 6).toNat + (base .K).sys.nest.toNat - 1 ≤ 31 ∧
      31 < (30 : BitVec 6).toNat + (base .K).sys.nest.toNat - 1 ∧ (∀ j, j < 3 → ((base .K).reg .K (29 + BitVec.ofNat 6 j)).toNat < 2 ^ 32) ∧
      (1 : BitVec 3) = (base .K).sys.qlvl ∧ (base .K).sys.levelS = false) ∧
    (2 ^ 32 ≤ (((base .K).putReg .K 31 0x100000000).reg .K (29 + BitVec.ofNat 6 2)).toNat) ∧ reached armedLow Coord.zero.key ∧
    ¬reached armedHigh (⟨9, 0, 0, 0, 0, 0⟩ : Coord).key ∧ max (base .K).core.qu.hk (base .K).effectiveH < 2 ^ 192 ∧
    (cutTaken.issues .K ∧ cutTaken.sys.levelS = true ∧ cutTaken.core.qu.st = .cut ∧ cutTaken.core.qu.requests = [] ∧
      (false = true ↔ ∃ r ∈ cutTaken.sys.fq ++ cutTaken.sys.fqWait, r.raised = 0x23)) ∧
    -- a SETTLE that has been applied, at level 1, and one at level 2 that the other cores have not answered
    (let s := cutTaken.onQu fun q => { q with settle := true, settled := true }
     s.issues .K ∧ s.sys.qlvl.toNat ≤ 1 ∧ (∀ c ∈ s.pk.chains.toList, c.state ≠ .held) ∧
       2 ≤ (s.onSys fun y => { y with qlvl := 2 }).sys.qlvl.toNat ∧ s.core.qu.peersSettled = false) :=
  ⟨issues_base _, ⟨issues_base _, by decide⟩, by decide, reached_low, not_reached_high, by decide, ⟨⟨rfl, rfl, rfl, rfl⟩, rfl, rfl, rfl, by decide⟩, ⟨rfl, rfl, rfl, rfl⟩, by decide⟩

/-- Everything is at its end below a pending cut, at level 1. -/
def pendingCut : State := (base .K).onQu fun q => { q with st := .pending, cut := ⟨9, 0, 0, 0, 0, 0⟩, hk := 2 ^ 191, taken := [⟨⟨9, 0, 0, 0, 0, 0⟩, 1, 0, true, false, false⟩] }
theorem witness_QuenchSteps :
    (armedLow.core.qu.armed = some (Coord.zero, 1) ∧ reached armedLow Coord.zero.key) ∧
    (let r : QuenchRequest := ⟨⟨9, 0, 0, 0, 0, 0⟩, 1, 0, true, false, false⟩
     let s := (base .K).onQu fun q => { q with requests := [r] }
     s.core.qu.st ≠ .cut ∧ s.core.qu.requests ≠ [] ∧ (∃ q ∈ s.core.qu.requests, q.coord.key = r.coord.key) ∧
       (∀ q ∈ s.core.qu.requests, r.coord.key ≤ q.coord.key) ∧ max r.coord.key s.effectiveH < 2 ^ 192) ∧
    (let s := strandIds.foldl (fun s x => s.onStrand x fun t => { t with run := .halted }) pendingCut
     s.core.qu.st = .pending ∧ (∀ x, (s.strand x).atEnd = true) ∧ s.opKeys = [] ∧ s.core.side = [] ∧ s.pk.mu.inflight = [] ∧
       (∀ c ∈ s.pk.chains.toList, c.state = .free) ∧ s.pk.farMmas = [] ∧ s.core.mat.queue = []) ∧
    (let s := pendingCut.onQu fun q => { q with reported := true }
     s.core.qu.st = .pending ∧ s.core.qu.reported = true ∧ s.sys.qlvl ≤ 1 ∧ (s.strand .A).run = .noTask) ∧
    (let s := (pendingCut.onSys fun y => { y with qlvl := 5, cycle := 0x1000000 }).onQu fun q => { q with peersReported := false }
     5 ≤ s.sys.qlvl ∧ s.core.qu.since + max 1 s.pk.ftmo.toNat * 1024 ≤ s.sys.cycle.toNat) ∧
    (let s := (base .K).onQu fun q => { q with settle := true }
     s.core.qu.settle = true ∧ s.core.qu.settled = false ∧ s.core.qu.st ≠ .pending) ∧
    (let s := (base .K).onQu fun q => { q with peerSettle := true }
     s.core.qu.peerSettle = true ∧ s.core.qu.st ≠ .pending) := by
  refine ⟨⟨rfl, reached_low⟩, ?_, ⟨rfl, fun x => by cases x <;> rfl, ?_⟩, ?_, ?_, ?_, ?_⟩ <;> decide

theorem witness_MemoryUnitItemResults :
    ((base .A).issues .A ∧ privilegedItem .tlbsync = true ∧ (base .A).core.side = []) ∧
    ((base .K).issues .K ∧ (base .K).sys.levelS = false) ∧
    (atS.issues .K ∧ atS.sys.levelS = true ∧ atS.memoriesWf ∧ (∀ e ∈ atS.core.side, e.ovf = none) ∧ atS.pk.mu.inflight = []) ∧
    -- one page at 0, and a page that no leaf maps
    (let s := (atS.putReg .K 1 0x10000).putReg .K 2 1
     (s.reg .K 1).toNat % 65536 = 0 ∧ (s.reg .K 2).toNat ≠ 0 ∧ (s.reg .K 1).toNat + (s.reg .K 2).toNat * 65536 ≤ 2 ^ 56 ∧
       (match s.walk 0x10000 with | .ok _ => false | .error _ => true) = true) ∧
    (tables.issues .K ∧ tables.memoriesWf ∧ tables.walk 0 = .ok (0x40000, 0x100000000000000193, 3) ∧ maySeal tables 0) ∧
    (let s := atS.putReg .K 1 own
     s.checkAddr .K (s.reg .K 1) .read 64 64 = .ok (.scratch 0 0x40000000)) ∧
    (let s := atS.onMu fun m => { m with seals := [(5, ⟨0, 1, 0, 0, []⟩)] }
     s.pk.mu.seals.find? (·.1 == s.sys.ctx.toNat * 64 + 5) = some (5, ⟨0, 1, 0, 0, []⟩)) :=
  ⟨⟨issues_base _, rfl, rfl⟩, ⟨issues_base _, rfl⟩, ⟨issues_atS, rfl, by refine ⟨?_, ?_, ?_⟩ <;> decide, by decide, rfl⟩,
    by decide, ⟨⟨rfl, rfl, rfl, rfl⟩, by refine ⟨?_, ?_, ?_⟩ <;> decide, rfl, _, _, _, rfl, by decide, by decide⟩, rfl, by decide⟩

theorem witness_MemoryUnitSteps :
    (State.reset.memoriesWf ∧ (∀ e ∈ State.reset.core.side, e.ovf = none) ∧ (∀ r, bestSlot State.reset.pk.swage (·.hooks r) = none)) ∧
    (let s := State.reset.onMu fun m => { m with ats := [⟨0, 0, 0, 0, ⟨0x1D3, 2 ^ 16⟩, 0, none⟩] }
     s.pk.mu.ats[0]? = some ⟨0, 0, 0, 0, ⟨0x1D3, 2 ^ 16⟩, 0, none⟩) ∧
    ((inHbm (0x40 : BitVec 52).toNat || inLpddr (0x40 : BitVec 52).toNat) = true ∧ State.reset.sys.fq.length < 16) ∧
    (let w : StampedWrite := ⟨1, [0, 1, 0, 0], [0], 0, [(0x40, 7)]⟩
     let s := State.reset.onMu fun m => { m with inflight := [w] }
     s.pk.mu.inflight[0]? = some w ∧ (0 : BitVec 2).toNat ∈ w.waiting ∧
       ∀ i, i < 4 → if i = w.die then s.pk.mu.clocks.getD i 0 + 1 = w.clock.getD i 0 else w.clock.getD i 0 ≤ s.pk.mu.clocks.getD i 0) ∧
    (let s := State.reset.onMu fun m => { m with drains := [1] }
     s.pk.mu.drains[0]? = some 1 ∧ s.sealOf (1 * 65536) = none) ∧
    (let s := chained (11 + (1 <<< 32) + (0x100000 <<< 64) + ((own + 0x2000).setWidth 512 <<< 128) + ((own + 0x3000).setWidth 512 <<< 256))
     standsAt s 0 11 ∧ (s.chain 0).units = 0) ∧ State.reset.core.mat.zsnaps = [] := by
  refine ⟨⟨by refine ⟨?_, ?_, ?_⟩ <;> decide, by decide, fun _ => rfl⟩, rfl, ?_, ?_, ?_, ⟨?_, ?_⟩, rfl⟩ <;> first | decide | (unfold standsAt; decide)

/-- The page at 0 has been copied to the shard at 0x200000, and is sealed no more; a drain of it to another package has still to be answered. -/
def copied : State := tables.onMu fun m => { m with copies := [(0, ⟨0, 0x200000, []⟩)], drainSent := [(0, 6, false)] }
theorem witness_SealdrainPass :
    copied.walk 0 = .ok (0x40000, 0x100000000000000193, 3) ∧ leafSeal 0x100000000000000193 = false ∧ (copied.copyAt 0 0x200000 0).isSome = true ∧
      (match copied.passPage 0 0 0x200000 0 with | .done _ => true | _ => false) = true ∧ copied.draining 0 = true := by
  refine ⟨rfl, ?_, ?_, ?_, ?_⟩ <;> decide

/-- R376: a page that a demand drain has sent to another package is sealed until the answer has come. -/
theorem test_drain_answer :
    (let s := copied.drainReply 6 .done
     s.drainHere true 0 = true ∧ copied.drainHere true 0 = false ∧ (copied.drainReply 6 .absent).pk.mu.drainSent = []) := by
  refine ⟨?_, ?_, ?_⟩ <;> decide

/-- A successor of context 1 that declares no input is loaded. -/
def successor : Plane := { Plane.empty with bind := { BindRecord.zero with ctx := 1 }, entry := some 3, loaded := true }
theorem witness_PlaneAndSwageItemResults :
    (atS.issues .K ∧ atS.sys.levelS = true ∧ ¬successorReady atS) ∧
    (let s := atS.putShadow successor
     s.issues .K ∧ successorReady s ∧ s.shadow.entry = some 3) ∧
    (((atS.putReg .K 1 63).reg .K 1).toNat < 64 ∧ ((atS.putReg .K 1 15).reg .K 1).toNat < 16 ∧ 16 ≤ ((atS.putReg .K 1 16).reg .K 1).toNat ∧
      4 ≤ ((atS.putReg .K 1 4).reg .K 1).toNat ∧ ((atS.putReg .K 1 3).reg .K 1).toNat = strandNum .M) :=
  ⟨⟨issues_atS, rfl, fun h => absurd h.1 (by decide)⟩, ⟨⟨rfl, rfl, rfl, rfl⟩, by unfold successorReady; decide, by decide⟩, by decide⟩

theorem witness_PlaneScheduleSteps :
    (∀ p ∈ State.reset.pk.slots, ¬mayTake State.reset p.2) ∧
    -- an entry whose record names a core that this context's remap table places here
    (let e : SlotEntry := ⟨.posted, 0, 1, 0x40⟩
     let s := State.reset.onPk fun k => { k with slots := [(3, e)] }
     (3, e) ∈ s.pk.slots ∧ mayTake s e ∧ ∀ p ∈ s.pk.slots, p ≠ (3, e) → mayTake s p.2 → e.seq < p.2.seq) ∧
    (let s := (State.reset.putShadow { successor with loaded := false }).onPk fun k => { k with objects := [PlaneObject.empty] }
     s.shadow.entry = some 3 ∧ (s.objectOf s.shadow.bind.obj).isSome ∧ s.shadow.loaded = false) ∧
    (kGet SlotEntry.zero State.reset.pk.slots 255).state = .free ∧
    (let s := State.reset.putShadow successor
     s.pk.ending = 4 ∧ s.sys.sheld = false ∧ s.core.qu.st ≠ .pending ∧ s.core.qu.requests = [] ∧ s.sys.stoppedByH = false ∧ successorReady s ∧
       s.pk.lastCtx ≠ some 1 ∧ s.engineWork = false ∧ s.pk.patches = []) ∧
    (let s := ((base .K).onSys fun y => { y with fdone := true }).onPk fun k => { k with ending := 0 }
     s.sys.fdone = true ∧ s.pk.ending ≠ 4) ∧
    (let s := ((base .K).onPk fun k => { k with ending := 0, remap := [(0, ⟨true, 0, 0, 1, 0⟩)] })
     (s.remapOf s.sys.lcore.toNat).valid = true ∧ (s.remapOf s.sys.lcore.toNat).nsm1 ≠ 0 ∧ s.sys.yreq = false ∧ s.pk.sliceDue = false ∧
       (s.remapOf s.sys.lcore.toNat).quant.toNat * 256 ≤ s.pk.sliceRun) := by
  refine ⟨?_, ⟨?_, ⟨?_, ?_⟩, ?_⟩, ?_, ?_, ⟨?_, ?_, ?_, ?_, ?_, ?_, ?_⟩, ?_, ?_⟩ <;> first | decide | (unfold successorReady; decide) | skip
  · exact fun _ h => absurd h List.not_mem_nil
  · intro p h hn
    rcases List.mem_singleton.mp h with rfl
    exact absurd rfl hn

/-- The saved image that the successor's record names has no header. -/
def badImage : State := (State.reset.putShadow successor).onPk fun k => { k with images := [{ State.reset.imageParts with ctx := 1 }] }
theorem witness_RefusedImage : badImage.pk.ending = 4 ∧ badImage.sys.sheld = false ∧ badImage.core.qu.st ≠ .pending ∧ badImage.core.qu.requests = [] ∧
    badImage.sys.stoppedByH = false ∧ badImage.shadow.loaded = true ∧
    badImage.imageFor badImage.shadow.bind = some { State.reset.imageParts with ctx := 1 } ∧
    badImage.mayRestore { State.reset.imageParts with ctx := 1 } = false := by
  refine ⟨?_, ?_, ?_, ?_, ?_, ?_, rfl, ?_⟩ <;> decide
-- R402: the routers have room for a first table, and none for a 65th
theorem witness_RemapRoom : State.reset.remapRoom 7 = true ∧
    (State.reset.onPk fun k => { k with remap := (List.range 64).map fun i => (256 * i, RemapEntry.zero) }).remapRoom 64 = false := by decide

/-! Hearth, exceptions, pre-emption, blocks, the step -/

/-- A mailbox command of the physical function after boot. -/
def mailed (opcode : BitVec 8) (p : MailPayload) : State := State.reset.onPk fun k => { k with bootStep := 5, mail := [⟨none, 1, opcode, 0, 0, 0, p⟩] }
theorem witness_MailboxResults :
    (let s := mailed 4 .other
     s.pk.mail = [⟨none, 1, 4, 0, 0, 0, .other⟩] ∧ s.pk.bootFailed = false ∧ 5 ≤ s.pk.bootStep) ∧
    (let s := mailed 2 (.destroy 3)
     s.pk.mail = [⟨none, 1, 2, 0, 0, 0, .destroy 3⟩] ∧ ∀ o ∈ s.pk.contexts, o.id = 3 → o.vf ≠ none) ∧
    (let s := mailed 5 (.configure (.timeout 9))
     s.pk.mail = [⟨none, 1, 5, 0, 0, 0, .configure (.timeout 9)⟩] ∧ s.pk.bootFailed = false) ∧
    (State.reset.onPk fun k => { k with mail := [⟨none, 1, 1, 0, 0, 0, .other⟩] }).pk.bootStep < 5 ∧
    -- host memory holds no image
    (let s := mailed 1 .other
     let i := PatchImage.read (s.mailBytes ⟨none, 1, 1, 0, 0, 0, .other⟩)
     s.pk.mail = [⟨none, 1, 1, 0, 0, 0, .other⟩] ∧ i.magic ≠ 0x45474157534E4146 ∧ s.patchFault i = 0x01) := by
  refine ⟨?_, ?_, ?_, ?_, ?_⟩ <;> decide

/-- After boot: function 0 has a context in partition 2 and asks for one in partition 4; partition 1 is strict and has channel 0. -/
def hosted : State := State.reset.onPk fun k => { k with
  bootStep := 5, contexts := [⟨1, 0, 2, some 0⟩], partitions := [⟨1, 0, 2, [], true, 1, [], false⟩], vfs := [(0, 2)]
  mail := [⟨some 0, 1, 2, 0, 0, 0, .create ⟨3, 0, 4, none⟩ [] []⟩] }
theorem witness_MailboxRefusals :
    ((∀ q ∈ hosted.pk.contexts, q.id = 3 → q.vf = some 0) ∧ hosted.boundTo 0 = some 2 ∧ hosted.boundTo 0 ≠ some 4 ∧ hosted.remapRoom 3 = true) ∧
    (let p : Partition := ⟨2, 0, 0, [], false, 3, [], false⟩
     hosted.pk.ending = 4 ∧ ∃ q ∈ hosted.pk.partitions, q.id ≠ p.id ∧ (p.strict = true ∨ q.strict = true) ∧ p.channels &&& q.channels ≠ 0) ∧
    (let p : Partition := ⟨2, 0, 0, [], true, 2, [(8, 2)], false⟩
     hosted.areaClash p = false ∧ ∀ q ∈ hosted.pk.partitions, q.id ≠ p.id ∧ p.channels &&& q.channels = 0 ∧
       (p.guaranteed ||| p.margin) &&& (q.guaranteed ||| q.margin) = 0 ∧ q.frames = []) ∧
    (hosted.lendable 1 = true ∧ ∀ p ∈ hosted.pk.partitions, p.margin.getLsbD 1 = true → p.id ≠ 0) ∧
    (let s := hosted.onPk fun k => { k with bootFailed := true }
     s.pk.bootFailed = true ∧ ∀ m ∈ s.pk.mail, m.vf ≠ none) := by
  refine ⟨?_, ?_, ?_, ?_, ?_⟩ <;> decide

/-- R420: after a failed boot the physical function is answered with 0xE0 and the step, also behind a command of another function. -/
theorem test_failed_boot_answers :
    (match Sys2Proof.Machine.exec .mbContext (hosted.onPk fun k => { k with
        bootFailed := true, bootStep := 4, mail := k.mail ++ [⟨none, 9, 4, 0, 0, 0, .other⟩] }) with
     | .next t => decide (t.mailStatus none = 0x08E00009 ∧ t.mailBusy (some 0) = true)
     | _ => false) = true := by decide

/-- R406: a core lent to partition 4 takes no record of a context of another partition. -/
theorem witness_LentDispatch :
    (let s := State.reset.onPk fun k => { k with partitions := [⟨1, 1, 1, [(0, 4)], false, 0, [], false⟩], contexts := [⟨0, 0, 4, none⟩]
                                                 slots := [(3, ⟨.posted, 0, 1, 0x40⟩)], remap := [(0, ⟨true, 0, 0, 0, 0⟩)] }
     mayTake s ⟨.posted, 0, 1, 0x40⟩) ∧
    (let s := State.reset.onPk fun k => { k with partitions := [⟨1, 1, 1, [(0, 4)], false, 0, [], false⟩], contexts := [⟨0, 0, 5, none⟩]
                                                 slots := [(3, ⟨.posted, 0, 1, 0x40⟩)], remap := [(0, ⟨true, 0, 0, 0, 0⟩)] }
     s.takeable = []) := by
  refine ⟨⟨rfl, .inr ⟨by decide, by decide, fun p b h => ?_⟩⟩, by decide⟩
  have : (1, 4) = (p, b) := by simpa [State.loan, State.onPk, State.reset, Package.reset] using h
  cases this
  exact ⟨⟨0, 0, 4, none⟩, List.mem_singleton.mpr rfl, by decide, rfl⟩

/-- R409: a reply of an older generation is discarded and frees its reservation. -/
theorem test_old_reply :
    (match Sys2Proof.Machine.exec .fabricPacketReceive (State.reset.onPk fun k => { k with
        inbound := [⟨2, 4, 9, 0, 0, 1, 0, .reply 6 .done []⟩], kids := [⟨2, 5, some 9⟩], unanswered := [⟨0, 2, 6, 0⟩], reservations := [(2, 6), (2, 7)] }) with
     | .next t => decide (t.pk.inbound = [] ∧ t.pk.reservations = [(2, 7)] ∧ t.pk.unanswered = [⟨0, 2, 6, 0⟩])
     | _ => false) = true := by decide

/-- The core is lent by partition 1 to partition 0, and its revocation has begun. -/
def lent : State := State.reset.onPk fun k => { k with partitions := [⟨1, 1, 1, [(0, 0)], false, 0, [], false⟩], revoke := some (0, none) }
theorem witness_HostSteps :
    (∀ r, bestSlot State.reset.pk.swage (·.hooks r) = none) ∧ State.reset.pk.flash = [] ∧ State.reset.pk.firmware = [] ∧ (State.reset.pk.revoke = none ∧ State.reset.loan = none) ∧
    (lent.pk.revoke = some (0, none) ∧ lent.pk.ending = 4 ∧ (∀ e ∈ lent.core.side, e.state = .faulted) ∧ ∃ p l, lent.loan = some (p, l)) ∧
    (let s := (lent.onPk fun k => { k with ending := 0 }).onSys fun y => { y with cycle := 32768 }
     s.sys.forced = none ∧ s.pk.ending ≠ 4 ∧ 0 + 32768 ≤ s.sys.cycle.toNat) ∧
    (bayOf State.reset.pk.pkg.toNat ∈ [0, 3] ∧ State.reset.remoteQuiet = true ∧
      (State.reset.onPk fun k => { k with unanswered := [⟨0, 2, 1, 0⟩] }).remoteQuiet = false) ∧
    (State.reset.onPk fun k => { k with contexts := [⟨1, 0, 2, some 7⟩], lastCtx := some 1 }).coreServes [⟨1, 0, 2, some 7⟩] = true ∧
    (let s := State.reset.onPk fun k => { k with ports := [⟨[⟨7, 2, 1, 0⟩], 0⟩] }
     ∃ p t, s.pk.ports[0]? = some p ∧ p.tenants = [] ++ t :: [] ∧ t.id = 7 ∧ t.own < t.share ∧ t.own + t.shared ≠ 0) := by
  refine ⟨fun _ => rfl, rfl, rfl, ⟨rfl, by decide⟩, ⟨rfl, rfl, by decide, _, _, rfl⟩, ?_, by decide, by decide, ⟨_, _, rfl, rfl, rfl, ?_, ?_⟩⟩ <;> decide

/-- The plane's handler is K's block at 0, and a cause waits for S. -/
def handled : State := inBlock.onSys fun y => { y with sDue := true }
theorem witness_ExceptionResults :
    (∀ r, bestSlot (base .A).pk.swage (·.hooks r) = none) ∧
    ((0x0A : BitVec 6) ≠ 0x19 ∧ (base .A).sys.fq.length < 16 ∧ (base .A).core.a.run = .running ∧ (base .A).sys.levelS = false) ∧
    (atS.sys.levelS = true ∧ ∀ q ∈ (base .K).sys.fq, q.own = false) ∧
    (handled.sys.sDue = true ∧ handled.sys.levelS = false ∧ handled.sys.stoppedByH = false ∧ handled.core.k.amo = none ∧ ¬handlerStands handled) ∧
    -- a handler: k.tvec at a second header, which an empty block follows the first with
    (let s := (inBlock.putPlane { inBlock.plane with object := inBlock.plane.object.putCode .K (oneItemCode (.wide 0x80000000) ++ [0, 0]) }).onSys
       fun y => { y with sDue := true, tvec := 4 }
     handlerStands s ∧ s.sys.sDue = true) ∧
    (let r := (base .A).record .A 0x0A .precise 9 0 0 Coord.zero .strand 0
     let s := ((base .A).onSys fun y => { y with fq := [r] }).onStrand .A fun t => { t with run := .faulted }
     s.sys.fq = [r] ∧ s.sys.fqWait = [] ∧ s.core.qu.resumeDue = false ∧ r.resume = .strand ∧ r.strand ≠ .K ∧ r.stops = true ∧
       (s.strand r.strand).run = .faulted) ∧
    ((base .A).issues .A ∧ (base .A).decodeSlot .A (.wide 0xF8000000) = none) ∧
    (let s := (base .A).onSys fun y => { y with hearth := [(base .A).record .A 0x3E .precise 9 0 0 Coord.zero .strand 0] }
     s.sys.hearth ≠ [] ∧ s.pk.hot = false) ∧
    -- REVOKED, which resumes nothing, has reached Hearth
    (let s := (base .A).onSys fun y => { y with hearth := [(base .A).record .K 0x3C .asynchronous 0 0 0 Coord.zero .nothing 0] }
     (∃ r ∈ s.sys.hearth, r.raised ∈ [(0x32 : BitVec 6), 0x33, 0x3C, 0x3F]) ∧ s.sys.levelS = false ∧ (s.onPk fun k => { k with ending := 0 }).pk.ending ≠ 4) := by
  refine ⟨fun _ => rfl, ?_, ?_, ⟨rfl, rfl, rfl, rfl, fun h => absurd rfl h.1⟩, ⟨⟨?_, ?_⟩, rfl⟩, ?_, ⟨issues_base _, rfl⟩, ?_, ?_⟩ <;> decide

/-- All four strands have come to their ends, in a stage of the task's end. -/
def allEnd (n : Nat) : State := (strandIds.foldl (fun s x => s.onStrand x fun t => { t with run := .halted }) (base .K)).onPk fun k => { k with ending := n }
theorem witness_PreemptionAndTaskEnd :
    (∀ r, bestSlot (base .K).pk.swage (·.hooks r) = none) ∧
    ((base .K).sys.yreq = false ∧ (base .K).sys.ydl = 0 ∧ (base .K).core.qu.st = .none) ∧
    (let s := (strandIds.foldl (fun s x => s.onStrand x fun t => { t with run := .yielded }) ((base .K).onSys fun y => { y with
       yreq := true, yact := true, deadline := some 1 })).onPk fun k => { k with ending := 0 }
     s.sys.yact = true ∧ s.sys.deadline ≠ some 0 ∧ s.sys.levelS = false ∧ s.core.qu.st = .none ∧ s.pk.ending < 4 ∧ ∀ x, (s.strand x).run = .yielded) ∧
    (let s := (base .K).onSys fun y => { y with yreq := true, yact := true, deadline := some 0, budgetDue := true }
     s.sys.yact = true ∧ s.sys.deadline = some 0 ∧ s.core.qu.st = .none ∧ s.sys.budgetDue = true) ∧
    (let s := (base .K).onSys fun y => { y with forced := some .rollback }
     s.sys.fdone = false ∧ s.sys.forced = some .rollback ∧ s.core.qu.requests = []) ∧
    (let s := (allEnd 0).onSys fun y => { y with forced := some .save }
     s.sys.forced = some .save ∧ (∀ x, (s.strand x).run ≠ .running) ∧ s.enginesSaved = true ∧ s.core.side = []) ∧
    ((allEnd 0).sys.levelS = false ∧ (allEnd 0).sys.sDue = false ∧ (allEnd 0).sys.stoppedByH = false ∧ (∀ x, ((allEnd 0).strand x).run = .halted) ∧
      (allEnd 0).pk.ending = 0 ∧ (allEnd 0).sys.qlvl ≤ 1 ∧ (allEnd 2).sys.tmrec = false ∧ (allEnd 3).trailerDone = true) := by
  refine ⟨fun _ => rfl, ?_, ⟨?_, ?_, ?_, ?_, ?_, fun x => by cases x <;> rfl⟩, ?_, ?_, ⟨?_, fun x => by cases x <;> decide, ?_, ?_⟩, ?_, ?_, ?_,
    fun x => by cases x <;> rfl, ?_, ?_, ?_, ?_⟩ <;> decide

/-- K at the header of its block. -/
def atHdr : State := inBlock.onStrand .K fun t => { t with pc := 0, remain := 0 }
/-- K just past the body, with `n` repetitions left. -/
def atEndOfBody (n : BitVec 32) : State := inBlock.onStrand .K fun t => { t with pc := 4, remain := n }
/-- All four strands meet at S headers of count one. -/
def meeting : State :=
  let hdr : BitVec 32 := (1 <<< 31) + (2 <<< 19)
  let o := strandIds.foldl (fun (o : PlaneObject) x => o.putCode x ((Item.wide hdr).halves ++ [0, 0])) PlaneObject.empty
  let s := (base .K).putPlane { (base .K).plane with object := o }
  strandIds.foldl (fun s x => s.onStrand x fun t => { t with run := .meeting }) s
theorem witness_BlockResults :
    (atHdr.cur = .K ∧ atHdr.mayIssue .K = true ∧ atHdr.core.k.lockstep = false ∧ atHdr.core.k.pc = atHdr.core.k.hdr ∧ atHdr.pastCode .K = false ∧
      isHeader (atHdr.code .K) 0 = true ∧ headerFault (atHdr.code .K) 0 = none ∧ (wordAt (atHdr.code .K) 0).getLsbD 31 = false ∧
      atHdr.execCount .K (wordAt (atHdr.code .K) 0) = some 1) ∧
    (let s := atEndOfBody 2
     s.mayIssue .K = true ∧ s.core.k.pc ≠ s.core.k.hdr ∧ s.core.k.pc.toNat = bodyEnd (s.code .K) 0 ∧ 1 < s.core.k.remain ∧
       (atEndOfBody 1).core.k.remain ≤ 1) ∧
    (let s := inBlock.onStrand .K fun t => { t with pc := 4, hdr := 4 }
     s.mayIssue .K = true ∧ s.core.k.pc = s.core.k.hdr ∧ blocksEnd (s.code .K) 4 = true ∧ s.fetchLimit .K ≤ s.core.k.pc.toNat) ∧
    -- beyond the end of the blocks stands no header
    (let s := inBlock.onStrand .K fun t => { t with pc := 6, hdr := 6 }
     s.mayIssue .K = true ∧ s.core.k.lockstep = false ∧ isHeader (s.code .K) 6 = false ∧ blocksEnd (s.code .K) 6 = false) ∧
    (∀ y, (meeting.strand y).run = .meeting ∧ meeting.execCount y (wordAt (meeting.code y) (meeting.strand y).hdr.toNat) = some 1) := by
  refine ⟨?_, ?_, ?_, ?_, fun y => by cases y <;> decide⟩ <;> decide

theorem witness_EncodeThenDecode : (Instr.add 7 8 9).wf = true ∧ (Instr.add 7 8 9).readBy .K = true ∧ encode (.add 7 8 9) = some (.wide 0x80720900) ∧
    (Instr.ringPushV 1 0 3).wf = true ∧ (Instr.ringPushV 1 0 3).readBy .V = true := by decide

/-- K's turn is planned at its item. -/
def planned : State := { inBlock with agenda := [⟨0, .issue .K⟩] }
theorem witness_StepRunsInstruction : (planned.due.isNone ∧ planned.agenda = [⟨0, .issue .K⟩] ∧ atOwnItem (turnOf { planned with agenda := [] } .K 0) .K ∧
      itemAt (planned.code .K) (planned.strand .K).pc.toNat = .wide 0x80000000) ∧ (planned.decodeSlot .K (.wide 0x80000000)) = none ∧
    decode .K (.wide 0x80000000) = .ok (.add 0 0 0) :=
  ⟨⟨by decide, rfl, by unfold atOwnItem; decide, by decide⟩, rfl, rfl⟩

theorem reset_inv : State.reset.Inv := by
  refine ⟨⟨?_, ?_, ?_⟩, ?_, ?_⟩ <;> decide
theorem witness_StepKeepsInvariant : State.reset.Inv ∧ ∃ t, step State.reset = .next t := ⟨reset_inv, _, rfl⟩

/-! Address faults, and the clauses that several statements share (R171, R172) -/

/-- Pages of 64 KiB from virtual 0, K at T: readable and writable; no aperture; neither readable nor writable; of the supervisor; a peer's without
RA; under an absent key; of the host; of a parcel under way; discarded; and none. -/
def paged : State := (tables.onSys fun y => { y with levelS := false }).onMu fun m => { m with
  mem := m.mem ++ [(0x40010, 0x03), (0x40020, 0x13), (0x40028, 0x10), (0x40030, 0x93), (0x40031, 0x01), (0x40032, 0x80), (0x40038, 0x10),
    (0x40040, 0xB3), (0x40041, 0x01), (0x40050, 0x93), (0x40051, 0x41), (0x40058, 0x10), (0x40060, 0xD3), (0x40061, 0x01), (0x40070, 0xE3),
    (0x40071, 0x01), (0x40080, 0x93), (0x40081, 0x01), (0x40082, 0x20), (0x40088, 0x10)] }
/-- The leaf word of a page of `paged`. -/
def pageLeaf (n : Nat) : Option (BitVec 128) := match paged.walk (n * 65536) with | .ok (_, w, _) => some w | .error _ => none
theorem witness_AddressFaults :
    -- an address outside its space, one that is misaligned, and one that is neither
    (outsideSpace 0x0100000000000000 ∧ outsideSpace 0x8000000100000000 ∧ outsideSpace 0x8000000080000000) ∧
    (¬outsideSpace 0xFFFFFFFFFFFFFC ∧ (0xFFFFFFFFFFFFFC : BitVec 64).toNat % 8 ≠ 0) ∧
    -- the last bytes below B, and the first access past it
    (¬outsideSpace 0x80000000403FFFF8 ∧ (base .A).scratchCore ((0x80000000403FFFF8 : BitVec 64).setWidth 32) = .ok 0 ∧
      (base .A).scratchB 0 < 0x3FFFF8 + 8) ∧
    -- a scratchpad of a core that the context has no entry for
    ((base .A).scratchCore ((0x8000000000400000 : BitVec 64).setWidth 32) = .error 0x3B) := by
  unfold outsideSpace; decide
theorem witness_PageFaults :
    (∀ n, n < 10 → paged.cached pathCore (n * 65536) = none) ∧ paged.atS .K = false ∧ paged.sys.mhost.getLsbD 20 = false ∧
    (match paged.walk 0x90000 with | .error f => decide (f.cause = 0x10) | .ok _ => false) = true ∧
    (pageLeaf 1).map leafAper = some 0 ∧
    (pageLeaf 2).map (fun w => (leafAper w, leafR w, leafW w)) = some (1, false, false) ∧
    (pageLeaf 3).map (fun w => (leafR w, leafW w, leafSup w)) = some (true, true, true) ∧
    (pageLeaf 4).map (fun w => (leafAper w, leafR w, leafW w, leafSup w, leafRA w)) = some (3, true, true, false, false) ∧
    (pageLeaf 5).map (fun w => (leafSup w, paged.pk.mu.keys.getLsbD (leafKey w))) = some (false, false) ∧
    (pageLeaf 6).map (fun w => (leafAper w, paged.pk.mu.keys.getLsbD (leafKey w))) = some (5, true) ∧
    (pageLeaf 7).map (fun w => (leafAper w, paged.parcelRefuses w .read)) = some (6, some (cParcelTransit, 1)) ∧
    (pageLeaf 8).map (fun w => (leafAper w, leafDisc w, paged.parcelRefuses w .atomic)) = some (1, true, none) := by
  refine ⟨?_, ?_, ?_, ?_, ?_, ?_, ?_, ?_, ?_, ?_, ?_, ?_⟩ <;> decide
/-- A word of A at 0x100000 stands PEND in the side log, and memory is poisoned there. -/
def poisoned : State := pendingStore.onMu fun m => { m with poison := [0x100000] }
theorem witness_PoisonFaults :
    poisoned.cached pathCore 0x100000 = some hbmGiB ∧ (∀ level, permits hbmGiB.leaf.word level false .read = none) ∧
    poisoned.parcelRefuses hbmGiB.leaf.word .read = none ∧ leafDisc hbmGiB.leaf.word = false ∧
    (forwarded poisoned.core.side 0x100004 = none ∧ poisoned.anyPoison [poisoned.locOf hbmGiB 0x100004] = true) ∧
    ∀ j, j < 4 → forwarded poisoned.core.side (0x100000 + j) ≠ none := by
  refine ⟨by decide, fun _ => rfl, rfl, by decide, by decide, by decide⟩
-- R172: the load of eight bytes there names the first byte that no store covers
theorem test_poison_address : (nextOf (.ldD 3 1 0) poisoned).last = .trapped 0x35 0x0C 0x100004 := by decide

/-! Clauses that other witnesses do not meet -/

/-- An AMO.ADD of A stands PEND in the side log. -/
def atomicOnce : State := nextOf (.amoAdd 3 1 2 0) ((atGlobal .A).putReg .A 2 5)
theorem witness_AtomicAtHome : ∃ e w, atomicOnce.nextOut .A = some e ∧ e.kind = .atomic ∧ e.posted = false ∧
    (∀ f ∈ atomicOnce.core.side, f.id = e.id → f.ovf = none) ∧ e.lane = none ∧ (atomicOnce.strand .A).amo = some w ∧ w.entry = e.id ∧
    (∀ i, i < 4 → atomicOnce.cached e.path (entryStart e + i) = some hbmGiB) ∧ amoSize e.afn.toNat e.amod = 4 ∧ entryStart e = 0x100000 ∧
    leafR hbmGiB.leaf.word = true ∧ (∀ i, i < 4 → homeDie (0x100000 + i) = 0 ∧ atomicOnce.anyPoison [.here (0x100000 + i)] = false) :=
  ⟨_, _, rfl, rfl, rfl, by decide, rfl, rfl, rfl, by decide, by decide, by decide, by decide, by decide⟩
-- R182 items 5 and 6: the sum lies at the home, the old value has gone to the item
theorem test_atomic_at_home : (nextOf (.sideLogPerform .A) atomicOnce).globalByte 0 0x100000 = 5 ∧
    ((nextOf (.sideLogPerform .A) atomicOnce).core.a.amo.map (·.done)) = some (some 0) := by decide
-- R181, R94: −0 added to −0 is +0
theorem test_fadd_of_zeros : ((nextOf (.amoFadd 3 1 2) ((((atOwn .A).putReg .A 2 0x80000000).scratchPut 0 0 [0, 0, 0, 0x80]))).scratchRead 0 0 4) =
    [0, 0, 0, 0] := by decide
-- R68: the end of K's blocks is where ERET returns only if K entered S from there
theorem witness_EretAtTheEnd :
    let s := { returnsTo 4 with core := { (returnsTo 4).core with sys := { (returnsTo 4).core.sys with epcHdr := 4 } } }
    s.sys.epcEnd = false ∧ isHeader (s.code .K) 4 = false ∧ blocksEnd (s.code .K) 4 = true := by decide
-- SYSWR of a register that is only read, of m.carry at once and with no bank for a snapshot, and of v.park both ways
theorem witness_SystemWrites :
    atS.access .K 0x001 = .read ∧ (atS.access .K 0x060 = .write ∧ atS.access .K 0x052 = .write) ∧ (atS.putMcarry 0).2 = true ∧
    (let s := (atS.onMat fun m => { m with zfree := 1, zsnaps := [(0, .parked 0)] }).onVec fun v => { v with
       idle := (List.range 128).map fun i => (128 + i, .parked 4) }
     (s.putMcarry 0).2 = false) ∧
    (1 : BitVec 64).getLsbD 6 = false ∧ (0x40 : BitVec 64).getLsbD 6 = true ∧ atS.unparkNow 0 1 ≠ none ∧
    (let s := (atS.onStrand .V fun t => { t with run := .yielded, images := [{ atS.imageOf .V false with vcarry := 1 }] }).onVec fun v => { v with
       idle := (List.range 128).map fun i => (128 + i, .parked (BitVec.ofNat 6 i)) }
     s.unparkNow 0 1 = none) := by decide
theorem witness_RingAdvanceClauses :
    (base .K).issues .K ∧ ((base .A).issues .A ∧ (kGet Ring.zero (base .A).pk.rings ((base .A).pk.pcore.toNat * 16 + 1)).valid = false) ∧
    (ringed .A).ringOf 1 = .ok ring1At ∧ ring1At.slots < (3 : BitVec 10).toNat ∧
    ((ringed .A).slotState ring1At (ring1At.index 0 0)).full = false ∧ ((ringFull .A).slotState ring1At (ring1At.index 0 0)).full = true ∧
    (ringFull .A).advanceDone .A 1 ((ringFull .A).ringScope ring1At) = true ∧
    -- a stream with ADV = 1 fills the ring, and one with ADV = 0 that has written both slots
    (let s := (ringed .A).onCore fun c => { c with streams := put16 c.streams 2 { Stream.reset with desc := desc1 + (1 <<< 476), state := .run } }
     (s.streamFor 1).any (fun w => descAdv w.desc) = true) ∧
    (let s := (running2.putSlot ring1At 0 ⟨false, false, true, ⟨7, 0, 0, 0, 0, 0⟩⟩).putSlot ring1At 1 ⟨false, false, true, Coord.zero⟩
     (s.streamFor 1).any (fun w => !descAdv w.desc) = true ∧ ∀ q, q < 2 → (s.slotState ring1At (ring1At.index 0 q)).full = false ∧
       (s.slotState ring1At (ring1At.index 0 q)).written = true) := by
  refine ⟨issues_base _, ⟨issues_base _, ?_⟩, rfl, ?_, ?_, ?_, ?_, ?_, ?_⟩ <;> decide
theorem witness_SlotFill : ∃ got u, running2.readParts ((slotParts desc1 0).drop 0) ([] : List (List (BitVec 8))).reverse = .ok got u ∧
    Memory.wf u.pk.mu.scratch = true ∧ (slotFrom (slotParts desc1 0) got).length = slotBytes desc1 ∧
    kGet Ring.zero u.pk.rings ring1At.key = ring1At.ring := ⟨_, _, rfl, by decide, by decide, by decide⟩
-- R277 item 1: core 1 offers another accumulator; and this core is not among the participants
theorem witness_MultiplyDiffers :
    (let s := team.onMat fun m => { m with peers := [⟨1, teamShape, 1, Coord.zero, 1, [], none⟩] }
     s.issues .M ∧ (s.peersOf teamShape).any (fun ps => ps.any fun p => !agrees 0 teamShape p) = true) ∧
    team.sys.lcore.toNat < mmaLbase (teamShape + (1 <<< 45)) := ⟨⟨⟨rfl, rfl, rfl, rfl⟩, by decide⟩, by decide⟩
-- R271, R93: a block that no load has written is +0, also with half-step codes
theorem test_unwritten_block : blockValue .h4 .h4 false 4 6 9 0 0x3F80 false ⟨0, 0x3F80, 3, false⟩ = .num false 0 0 := by decide
theorem witness_QuenchClauses :
    -- a QUENCH_STOP record waits for room
    (let s := cutTaken.onSys fun y => { y with fqWait := [cutTaken.record .K 0x23 .asynchronous 0 0 0 Coord.zero .nothing 0] }
     s.core.qu.st = .cut ∧ s.core.qu.requests = [] ∧ ∃ r ∈ s.sys.fqWait, r.raised = 0x23) ∧
    -- two cores have asked, and a SETTLE waits behind them
    (let s := (base .K).onQu fun q => { q with settle := true, requests := [⟨Coord.zero, 1, 0, true, false, false⟩, ⟨Coord.zero, 1, 1, false, false, false⟩] }
     (∃ r ∈ s.core.qu.requests, ∃ p ∈ s.core.qu.requests, r.core ≠ p.core) ∧ s.core.qu.settle = true ∧ s.core.qu.st ≠ .pending) := by
  refine ⟨?_, ?_⟩ <;> decide
/-- Slice 1 of the context has a saved image, and the core last ran slice 0. -/
def slicesOn : State := State.reset.onPk fun k => { k with
  images := [{ State.reset.imageParts with lcore := 1 }], remap := [(0, ⟨true, 0, 0, 1, 0⟩), (1, ⟨true, 0, 1, 1, 0⟩)] }
theorem witness_SliceClauses : slicesOn.pk.ending = 4 ∧ slicesOn.nextSlice = some { State.reset.imageParts with lcore := 1 } ∧
    slicesOn.engineWork = false ∧ slicesOn.core.qu.st ≠ .pending ∧ slicesOn.core.qu.requests = [] := by
  refine ⟨?_, rfl, ?_, ?_, ?_⟩ <;> decide
-- R401: a task of the same context is preloaded, or none
theorem witness_ContextStays :
    (let s := (base .K).putShadow { successor with bind := { BindRecord.zero with ctx := (base .K).sys.ctx } }
     s.contextStays = true ∧ s.sys.budgetDone = false ∧ s.pk.mu.inflight = []) ∧ (base .K).contextStays = false := by
  refine ⟨?_, ?_⟩ <;> decide
-- R408: a function's own context keeps no key id that Hearth has not given it
theorem witness_ContextKeys :
    (hosted.onPk fun k => { k with contexts := [⟨3, 5, 2, some 0⟩] }).kidsFor (some 0) ⟨3, 6, 2, none⟩ = 4 ∧
      hosted.kidsFor (some 0) ⟨3, 6, 2, none⟩ = 0 ∧ hosted.kidsFor none ⟨3, 6, 2, none⟩ = 6 := by decide
-- R396: a bind record of another function's context, at host address 0x1000
theorem witness_BindPayload :
    (let s := mailed 3 (.bind 0x400 1)
     s.pk.mail = [⟨none, 1, 3, 0, 0, 0, .bind 0x400 1⟩] ∧ ¬∃ o ∈ s.pk.contexts, o.id = (readBind (s.mailPayload ⟨none, 1, 3, 0, 0, 0, .bind 0x400 1⟩ 1024)).ctx ∧ o.vf = none) ∧
    (let s := (mailed 3 (.bind 0x400 1)).onPk fun k => { k with contexts := [⟨0, 0, 0, none⟩] }
     ∃ o ∈ s.pk.contexts, o.id = (readBind (s.mailPayload ⟨none, 1, 3, 0, 0, 0, .bind 0x400 1⟩ 1024)).ctx ∧ o.vf = none) := by
  refine ⟨?_, ?_⟩ <;> decide
-- R420: a firmware image whose counter is below the fused one does not pass, and with none every step does
theorem witness_BootSteps :
    (let k := { State.reset.pk with fuseFirmware := 5, firmware := [⟨2, [1], 4, []⟩] }
     (k.firmware.filter (·.step == 2)) = [⟨2, [1], 4, []⟩] ∧ ¬k.fuseFirmware.toNat ≤ (4 : BitVec 8).toNat) ∧
    (State.reset.bootFlash []).2 = true ∧ (State.reset.pk.firmware.filter (·.step == 2)) = [] := by
  refine ⟨?_, ?_, ?_⟩ <;> decide
-- R409: a teardown while the core is being revoked
theorem witness_TeardownWaits : (lent.onPk fun k => { k with contexts := [⟨1, 0, 2, some 7⟩], lastCtx := some 1 }).pk.revoke ≠ none ∧
    (lent.onPk fun k => { k with contexts := [⟨1, 0, 2, some 7⟩], lastCtx := some 1 }).coreServes [⟨1, 0, 2, some 7⟩] = true ∧ lent.pk.teardowns = [] := by
  decide
-- R104, R144: after a HYPERCALL at S, K stands at the next item
theorem test_hypercall_at_S :
    (let s := inBlock.onSys fun y => { y with levelS := true }
     let t := s.raises .K 0x3E 1 0
     decide (t.core.k.pc = s.core.k.pc + BitVec.ofNat 16 (s.itemLen .K) ∧ t.sys.stoppedByH = true ∧ t.sys.fq = [])) = true := by decide
-- R284, R422: a DRAW.W that waits is not refused when CEIL falls below its units
theorem test_draw_waits :
    (let s := ((base .M).putReg .M 1 4).onMat fun m => { m with ceil := 4 }
     let t := nextOf (.drawW 1) s
     let u := nextOf (.drawW 1) (t.onMat fun m => { m with ceil := 2 })
     decide (t.last = .waited ∧ t.core.mat.pendUnits = 4 ∧ u.last = .waited ∧ u.core.mat.pendUnits = 4 ∧ u.core.mat.pendMore = [])) = true := by decide
end Sys2Proof.Tests
end

section
/-!
PROOFS. The state after reset (R3, R420), and what a write of k.fq leaves in its field LOST (R101): a fault queue beyond the
bounds of the invariant shows its length there.
-/
namespace Sys2Proof.Machine

/-! ## The state after reset -/

theorem Bank.get_zero (n : BitVec 5) : Bank.zero.get n = 0 := by simp [Bank.get, Bank.zero]

/-- Every strand is the strand of reset. -/
theorem State.reset_strand (x : StrandId) : State.reset.strand x = Strand.reset := by cases x <;> rfl

/-- Every register of every strand reads zero (log 3). -/
theorem State.reset_reg (x : StrandId) (r : BitVec 6) : State.reset.reg x r = 0 := by
  have ha : State.reset.core.areg = Bank.zero := rfl
  have hs : Strand.reset.s = Bank.zero := rfl
  unfold State.reg
  split
  · rw [ha, Bank.get_zero]
  · split
    · rfl
    · rw [State.reset_strand, hs, Bank.get_zero]

theorem State.reset_stream (n : BitVec 4) : at16 State.reset.core.streams n = Stream.reset := by
  simp [at16, State.reset, Core.reset]

theorem State.reset_chain (t : BitVec 6) : State.reset.chain t = Chain.zero := by
  simp [State.chain, at64, State.reset, Package.reset]

/-- Each Swage slot holds its number, and is not valid (R383). -/
theorem State.reset_swage (n : BitVec 4) :
    (at16 State.reset.pk.swage n).field 252 4 = n.toNat ∧ (at16 State.reset.pk.swage n).record.getLsbD 0 = false := by
  have h : at16 State.reset.pk.swage n = ⟨(BitVec.ofNat 256 n.toNat) <<< 252, [], 0⟩ := by
    simp [at16, State.reset, Package.reset, swageReset]
  rw [h]
  constructor
  · have hn : n.toNat < 16 := n.isLt
    simp only [SwageSlot.field, BitVec.extractLsb'_toNat, BitVec.toNat_shiftLeft, BitVec.toNat_ofNat, Nat.shiftLeft_eq,
      Nat.shiftRight_eq_div_pow]
    omega
  · simp

/-- No memory, image or fault queue holds anything. -/
theorem State.reset_meets_inv : State.reset.Inv := by
  have himages : State.reset.pk.images = [] := rfl
  refine ⟨⟨rfl, rfl, ?_⟩, rfl, ?_⟩ <;> simp [himages]

/-- Settles O56: each strand, register and record of the state after reset is the one that its table of reset values holds. -/
theorem resetState : Obligations.ResetState := by
  refine ⟨fun x => ?_, rfl, rfl, rfl, rfl, rfl, rfl, rfl, rfl, rfl, rfl, rfl, rfl, rfl, fun n => ?_, fun _ => rfl, fun t => ?_,
    fun _ => rfl, State.reset_swage, rfl, rfl, fun _ _ => rfl, fun _ _ => rfl, rfl, State.reset_meets_inv⟩
  · rw [State.reset_strand]
    exact ⟨rfl, rfl, rfl, rfl, rfl, rfl, State.reset_reg x⟩
  · rw [State.reset_stream]; rfl
  · rw [State.reset_chain]; rfl

/-! ## LOST of k.fq (R101) -/

/-- A flag is set at its own place alone. -/
theorem getLsbD_flagBit (b : Bool) (i j : Nat) : (flagBit 64 b i).getLsbD j = (b && decide (j < 64) && decide (i = j)) := by
  cases b with
  | false => simp [flagBit]
  | true => rw [flagBit, if_pos rfl, BitVec.getLsbD_ofNat, Nat.testBit_two_pow, Bool.true_and]

/-- What bits 8 to 15 of k.fq read as: LOST, and the multiples of 256 in the length of the queue. -/
theorem State.fqWord_lostField (s : State) :
    s.fqWord.extractLsb' 8 8 = BitVec.ofNat 8 (s.sys.fq.length / 256) ||| s.sys.lost := by
  ext j hj
  have length : (BitVec.ofNat 64 s.sys.fq.length).getLsbD (8 + j) = (BitVec.ofNat 8 (s.sys.fq.length / 256)).getLsbD j := by
    have h64 : j + 8 < 64 := by omega
    rw [BitVec.getLsbD_ofNat, BitVec.getLsbD_ofNat, show 256 = 2 ^ 8 from rfl, Nat.testBit_div_two_pow, Nat.add_comm]
    simp [hj, h64]
  have lost : (place 64 s.sys.lost 8).getLsbD (8 + j) = s.sys.lost.getLsbD j := by
    have h64 : 8 + j < 64 := by omega
    simp [place, h64]
  have flag (b : Bool) (i : Nat) (hi : i = 5 ∨ 16 ≤ i) : (flagBit 64 b i).getLsbD (8 + j) = false := by
    have : i ≠ 8 + j := by omega
    simp [getLsbD_flagBit, this]
  rw [← BitVec.getLsbD_eq_getElem, ← BitVec.getLsbD_eq_getElem, BitVec.getLsbD_extractLsb']
  simp [State.fqWord, strandIds, strandNum, length, lost, flag, hj]

/-- A write of k.fq without POP sets LOST and changes no record. -/
theorem State.sysWrite_fq {v : BitVec 64} (hpop : v.getLsbD 6 = false) (s : State) (x : StrandId) :
    s.sysWrite x 0x018 v = s.onSys fun y => { y with lost := v.extractLsb' 8 8 } := by
  simp only [State.sysWrite, State.writeFq, hpop, Bool.false_eq_true, if_false]

/-- What LOST reads back as after a write of k.fq without POP. -/
theorem State.sysWrite_fq_lostField {v : BitVec 64} (hpop : v.getLsbD 6 = false) (s : State) (x : StrandId) :
    ((s.sysWrite x 0x018 v).sysRead x 0x018).extractLsb' 8 8 =
      BitVec.ofNat 8 (s.sys.fq.length / 256) ||| v.extractLsb' 8 8 := by
  rw [State.sysWrite_fq hpop]
  exact State.fqWord_lostField _

/-- In a state that meets the invariant LOST reads back as written: the queue is far below 256 records. -/
theorem State.Inv.sysWrite_fq_lostField {s : State} (hs : s.Inv) {v : BitVec 64} (hpop : v.getLsbD 6 = false) (x : StrandId) :
    ((s.sysWrite x 0x018 v).sysRead x 0x018).extractLsb' 8 8 = v.extractLsb' 8 8 := by
  obtain ⟨-, hfq, -⟩ := hs
  have hlen : s.sys.fq.length / 256 = 0 := by
    simp only [queueWithin, decide_eq_true_eq] at hfq
    split at hfq <;> omega
  rw [State.sysWrite_fq_lostField hpop, hlen, BitVec.zero_or]

/-- The state after reset but for a fault queue of 256 records. No run reaches it (R101), yet the statement speaks of every state. -/
def longQueue : State :=
  State.reset.onSys fun y => { y with fq := List.replicate 256 (State.reset.record .K 0 .precise 0 0 0 Coord.zero .strand 0) }

/-- In `longQueue` LOST reads 1 after zero has been written to k.fq. -/
theorem longQueue_lostField : ((longQueue.sysWrite .K 0x018 0).sysRead .K 0x018).extractLsb' 8 8 = 1 := by
  have hlen : longQueue.sys.fq.length = 256 := List.length_replicate
  rw [State.sysWrite_fq_lostField (by decide), hlen]
  rfl

/-- Refutes O11: its clause on LOST of k.fq asks that the field reads back as written in every state. In `longQueue`, which is outside
the invariant, bit 8 of the queue's length shows there: zero is written, and one is read. Within the invariant the clause holds
(`State.Inv.sysWrite_fq_lostField`). -/
theorem not_systemRegisterAccess : ¬ Obligations.SystemRegisterAccess := by
  rintro ⟨-, writes⟩
  obtain ⟨-, -, -, -, -, -, -, -, -, -, -, -, -, -, lost, -⟩ := writes longQueue .K 0
  have hzero : ((longQueue.sysWrite .K 0x018 0).sysRead .K 0x018).extractLsb' 8 8 = 0 := lost (by decide)
  rw [longQueue_lostField] at hzero
  exact absurd hzero (by decide)

end Sys2Proof.Machine
end

section
/-!
PROOFS. Coordinates (R16, R21, R153): what a change of coordinate does to its strand, what CADV, CSET and CGET come to, and where an
advance stands in the order of coordinates.
-/
namespace Sys2Proof.Machine

/-! ## The image at a change of coordinate (R21, R339) -/

/-- Taking an image changes the images of its strand and the number of the next one, and nothing else. -/
theorem State.takeImage_frame (s : State) (x : StrandId) (e : Bool) :
    ∃ l n, s.takeImage x e = (s.onStrand x fun t => { t with images := l }).onQu fun q => { q with nextImage := n } := by
  by_cases h : s.core.qu.hk ≤ (s.strand x).coord.key
  · exact ⟨_, _, by rw [State.takeImage, if_pos h]; rfl⟩
  · exact ⟨(s.strand x).images, s.core.qu.nextImage, by rw [State.takeImage, if_neg h]; cases x <;> rfl⟩

@[simp] theorem State.takeImage_dry (s : State) (x : StrandId) (e : Bool) : (s.takeImage x e).dry = s.dry := by
  obtain ⟨_, _, h⟩ := s.takeImage_frame x e
  rw [h]; rfl

@[simp] theorem State.takeImage_eaf (s : State) (x : StrandId) (e : Bool) :
    ((s.takeImage x e).strand x).eaf = (s.strand x).eaf := by
  obtain ⟨_, _, h⟩ := s.takeImage_frame x e
  rw [h]; simp

/-- A change of coordinate changes the strand's coordinate, images and run state, and the number of the next image. -/
theorem State.changeCoord_frame (s : State) (x : StrandId) (c : Coord) :
    ∃ l n r, s.changeCoord x c =
      (s.onStrand x fun t => { t with coord := c, images := l, run := r }).onQu fun q => { q with nextImage := n } := by
  obtain ⟨l, n, h⟩ := (s.onStrand x fun t => { t with coord := c }).takeImage_frame x false
  refine ⟨l, n, if s.core.qu.st = .pending ∧ s.core.qu.cut.key ≤ c.key then .cut else (s.strand x).run, ?_⟩
  simp only [State.changeCoord, h]
  split <;> rename_i hq
  · rw [if_pos (by cases x <;> exact hq)]; cases x <;> rfl
  · rw [if_neg (by cases x <;> exact hq)]; cases x <;> rfl

@[simp] theorem State.changeCoord_dry (s : State) (x : StrandId) (c : Coord) : (s.changeCoord x c).dry = s.dry := by
  obtain ⟨_, _, _, h⟩ := s.changeCoord_frame x c
  rw [h]; rfl

@[simp] theorem State.changeCoord_eaf (s : State) (x : StrandId) (c : Coord) :
    ((s.changeCoord x c).strand x).eaf = (s.strand x).eaf := by
  obtain ⟨_, _, _, h⟩ := s.changeCoord_frame x c
  rw [h]; simp

/-! ## CADV, CSET and CGET (R153) -/

/-- The state after an item of `len` halfwords that changes the coordinate to `c`: the image is taken at the next item (R339). -/
def State.movedTo (s : State) (x : StrandId) (len : Nat) (c : Coord) : State :=
  ((s.onStrand x fun t => { t with pc := BitVec.ofNat 16 (t.pc.toNat + len) }).changeCoord x c).arrives x

/-- A word needs its upper half just from 2^32 on. -/
theorem upperHalf_ne_zero_iff (v : BitVec 64) : v.extractLsb' 32 32 ≠ 0 ↔ 2 ^ 32 ≤ v.toNat := by
  have hv : v.toNat < 2 ^ 64 := v.isLt
  rw [ne_eq, ← BitVec.toNat_inj, BitVec.extractLsb'_toNat, Nat.shiftRight_eq_div_pow]
  show ¬v.toNat / 2 ^ 32 % 2 ^ 32 = 0 ↔ 2 ^ 32 ≤ v.toNat
  omega

section
variable {s : State} {x : StrandId} (hi : s.issues x)
include hi

/-- An item that changes the coordinate moves on with the change, or waits for an image (R21). -/
theorem runItem_changeBy (len : Nat) (c : Coord) {cls : Bool} (hc : cls = true) :
    runItem s len allStrands false cls true (s.changeBy x len c) =
      if s.mayChange x c then s.movedTo x len c else s.waits := by
  obtain ⟨-, hdry, -, heaf⟩ := id hi
  have legal (y : StrandId) : allStrands.contains y = true := by cases y <;> rfl
  cases hm : s.mayChange x c with
  | false => simpa [State.changeBy, hm] using runItem_wait (legal s.cur) (.inl rfl) hc rfl
  | true =>
    have body : s.changeBy x len c =
        .jump ((s.onStrand x fun t => { t with pc := BitVec.ofNat 16 (t.pc.toNat + len) }).changeCoord x c) := by
      simp [State.changeBy, hm, State.afterItem, hdry, State.onStrand]
    rw [body, runItem_jump hi (legal x) (.inl rfl) hc rfl (by simpa using hdry) (by simpa using heaf)]
    rfl

/-- CADV in either form: the refusals of R153 in their order, then the advance. -/
theorem advance_eq (len : Nat) (j : BitVec 3) :
    advance s len j =
      if s.atS x then s.raises x 0x22 0 0
      else if s.sys.nest.toNat ≤ j.toNat then s.raises x 0x0E 0x03 0
      else if (s.strand x).coord.get j.toNat = 0xFFFFFFFF then s.raises x 0x22 (j.setWidth 64) 0
      else if s.mayChange x ((s.strand x).coord.advance j.toNat) then s.movedTo x len ((s.strand x).coord.advance j.toNat)
      else s.waits := by
  have trap (c : BitVec 6) (d : BitVec 64) : runItem s len allStrands false true true (.fail c d) = s.raises x c d 0 :=
    runItem_trap hi (by cases x <;> rfl) (.inl rfl) rfl rfl
  have cur : s.cur = x := hi.1
  simp only [advance, cur]
  split_ifs
  · exact trap _ _
  · exact trap _ _
  · exact trap _ _
  · rw [runItem_changeBy hi len _ rfl, if_pos ‹_›]
  · rw [runItem_changeBy hi len _ rfl, if_neg ‹_›]

/-- The clauses of R153 for an item that is a CADV. -/
theorem exec_advance_results {i : Instr} {len : Nat} {j : BitVec 3} (he : exec i s = .next (advance s len j)) :
    let c := (s.strand x).coord
    (s.atS x = true → exec i s = .next (s.raises x 0x22 0 0)) ∧
    (s.atS x = false → s.sys.nest.toNat ≤ j.toNat → exec i s = .next (s.raises x 0x0E 0x03 0)) ∧
    (s.atS x = false → j.toNat < s.sys.nest.toNat → c.get j.toNat = 0xFFFFFFFF →
      exec i s = .next (s.raises x 0x22 (j.setWidth 64) 0)) ∧
    (s.atS x = false → j.toNat < s.sys.nest.toNat → c.get j.toNat ≠ 0xFFFFFFFF → s.mayChange x (c.advance j.toNat) = true →
      exec i s = .next (s.movedTo x len (c.advance j.toNat))) ∧
    (s.atS x = false → j.toNat < s.sys.nest.toNat → c.get j.toNat ≠ 0xFFFFFFFF → s.mayChange x (c.advance j.toNat) = false →
      exec i s = .next s.waits) := by
  rw [he, advance_eq hi]
  refine ⟨fun hs => ?_, fun hs hn => ?_, fun hs hn hc => ?_, fun hs hn hc hm => ?_, fun hs hn hc hm => ?_⟩
  · rw [if_pos hs]
  · rw [if_neg (by simp [hs]), if_pos hn]
  · rw [if_neg (by simp [hs]), if_neg (Nat.not_le.mpr hn), if_pos hc]
  · rw [if_neg (by simp [hs]), if_neg (Nat.not_le.mpr hn), if_neg hc, if_pos hm]
  · rw [if_neg (by simp [hs]), if_neg (Nat.not_le.mpr hn), if_neg hc, if_neg (by simp [hm])]

/-- CSET: the refusals of R153 in their order; the present coordinate again changes nothing. -/
theorem execCset_eq (a : BitVec 6) (j : BitVec 3) (ha : regOk x a = true) :
    exec (.cset a j) s = .next (
      let c := (s.strand x).coord
      let v := s.reg x a
      let c' := c.assign j.toNat (v.setWidth 32)
      if s.atS x then s.raises x 0x22 0 0
      else if s.sys.nest.toNat ≤ j.toNat then s.raises x 0x0E 0x03 0
      else if 2 ^ 32 ≤ v.toNat then s.raises x 0x0E 0x05 0
      else if c'.key < c.key then s.raises x 0x22 (j.setWidth 64) 0
      else if c'.key = c.key then s.after x 2
      else if s.mayChange x c' then s.movedTo x 2 c' else s.waits) := by
  have legal : allStrands.contains x = true := by cases x <;> rfl
  have trap (c : BitVec 6) (d : BitVec 64) :
      runItem s 2 allStrands false (regOk x a) true (.fail c d) = s.raises x c d 0 :=
    runItem_trap hi legal (.inl rfl) ha rfl
  obtain ⟨cur, hdry, -, heaf⟩ := id hi
  show execCset a j s = _
  simp only [execCset, cur, upperHalf_ne_zero_iff]
  congr 1
  split_ifs
  · exact trap _ _
  · exact trap _ _
  · exact trap _ _
  · exact trap _ _
  · exact runItem_retire hi legal (.inl rfl) ha rfl hdry heaf
  · rw [runItem_changeBy hi 2 _ ha, if_pos ‹_›]
  · rw [runItem_changeBy hi 2 _ ha, if_neg ‹_›]

/-- CGET in either form. -/
theorem readCoord_eq (len : Nat) (d : BitVec 6) (j : BitVec 3) (hd : regOk x d = true) :
    readCoord s len d j =
      if 5 < j.toNat then s.raises x 0x0E 0x03 0
      else (s.putReg x d (((s.strand x).coord.get j.toNat).setWidth 64)).after x len := by
  have legal : allStrands.contains x = true := by cases x <;> rfl
  obtain ⟨cur, hdry, -, heaf⟩ := id hi
  simp only [readCoord, cur]
  split_ifs
  · exact runItem_trap hi legal (.inl rfl) hd rfl
  · exact runItem_retire hi legal (.inl rfl) hd rfl (by simpa using hdry) (by simpa using heaf)

end

/-- A field of five bits names a scalar register, which every strand has (R71). -/
theorem regOk_sReg (x : StrandId) (e : BitVec 5) : regOk x (sReg e) = true := by
  simp [regOk, sReg]

/-! ## The order of coordinates (R15, R16) -/

/-- An advance in dimension j keeps the outer dimensions, adds one there and zeroes the inner ones. -/
theorem Coord.get_advance (c : Coord) {i j : Nat} (hi : i < 6) (hj : j < 6) :
    (c.advance j).get i = if i < j then c.get i else if i = j then c.get j + 1 else 0 := by
  interval_cases j <;> interval_cases i <;> simp [Coord.advance, Coord.cutAfter, Coord.put, Coord.get]

/-- A coordinate comes before another that agrees with it outside dimension j and is greater there. -/
theorem Coord.key_lt_of_get_lt {c d : Coord} {j : Nat} (hj : j < 6) (outer : ∀ i, i < j → d.get i = c.get i)
    (here : (c.get j).toNat < (d.get j).toNat) : c.key < d.key := by
  have bounds := And.intro c.c0.isLt (And.intro c.c1.isLt (And.intro c.c2.isLt (And.intro c.c3.isLt (And.intro c.c4.isLt c.c5.isLt))))
  simp only [Coord.key]
  interval_cases j
  all_goals
    have outer (i : Nat) (hi : i < _) : (d.get i).toNat = (c.get i).toNat := congrArg _ (outer i hi)
    simp only [Nat.forall_lt_succ_right', Coord.get, Nat.not_lt_zero, false_implies, implies_true, true_and] at outer here
    omega

/-- An advance always rises. -/
theorem Coord.key_lt_advance (c : Coord) {j : Nat} (hj : j < 6) (hmax : c.get j ≠ 0xFFFFFFFF) : c.key < (c.advance j).key := by
  refine Coord.key_lt_of_get_lt hj (fun i hij => by rw [c.get_advance (by omega) hj, if_pos hij]) ?_
  have hne : (c.get j).toNat ≠ 0xFFFFFFFF := fun h => hmax (BitVec.eq_of_toNat_eq h)
  have hlt : (c.get j).toNat < 2 ^ 32 := (c.get j).isLt
  rw [c.get_advance hj hj, if_neg (Nat.lt_irrefl j), if_pos rfl, BitVec.toNat_add]
  show _ < ((c.get j).toNat + 1) % 2 ^ 32
  omega

/-- Settles O9: CADV, CSET and CGET by their equations, whose tests each clause decides; the order by the outermost dimension that
changes. -/
theorem coordinateResults : Obligations.CoordinateResults := by
  refine ⟨fun s x a j hi => ⟨exec_advance_results hi rfl, exec_advance_results hi rfl, fun ha hs => ?_, fun ha hs hn => ?_,
    fun ha hs hn => ?_⟩, fun s x d e j hi => ⟨fun hd => ?_, ?_⟩, fun c j hj hmax => ⟨?_, ?_, ?_, ?_⟩⟩
  · rw [execCset_eq hi a j ha, if_pos hs]
  · rw [execCset_eq hi a j ha, if_neg (by simp [hs]), if_pos hn]
  · rw [execCset_eq hi a j ha, if_neg (by simp [hs]), if_neg (Nat.not_le.mpr hn)]
    refine ⟨fun hv => ?_, fun hv hk => ?_, fun hv hk => ?_, fun hv hk hm => ?_, fun hv hk hm => ?_⟩
    · rw [if_pos hv]
    · rw [if_neg (Nat.not_le.mpr hv), if_pos hk]
    · rw [if_neg (Nat.not_le.mpr hv), if_neg (Nat.not_lt.mpr hk.ge), if_pos hk]
    · rw [if_neg (Nat.not_le.mpr hv), if_neg (Nat.lt_asymm hk), if_neg hk.ne', if_pos hm]
      rfl
    · rw [if_neg (Nat.not_le.mpr hv), if_neg (Nat.lt_asymm hk), if_neg hk.ne', if_neg (by simp [hm])]
  · exact congrArg _ (readCoord_eq hi 2 d j hd)
  · exact congrArg _ (readCoord_eq hi 1 (sReg e) j (regOk_sReg x e))
  · exact c.key_lt_advance hj hmax
  · exact fun i hij => by rw [c.get_advance (by omega) hj, if_pos hij]
  · rw [c.get_advance hj hj, if_neg (Nat.lt_irrefl j), if_pos rfl]
  · exact fun i hji hi6 => by rw [c.get_advance hi6 hj, if_neg (by omega), if_neg (by omega)]

end Sys2Proof.Machine
end

section
/-!
PROOFS. Blocks (R11, R16, R62, R64 to R66): what the steps of a strand at its header, at the end of a repetition and at the end of its
code come to, and what the meeting of the four strands does.
-/
namespace Sys2Proof.Machine

/-! ## A raise makes no strand wait at an S header -/

/-- No strand waits at an S header in `t` that did not in `s`. -/
def noNewMeeting (s t : State) : Prop := ∀ y, (s.strand y).run ≠ .meeting → (t.strand y).run ≠ .meeting

theorem noNewMeeting.trans {s t u : State} (h : noNewMeeting s t) (h' : noNewMeeting t u) : noNewMeeting s u :=
  fun y hy => h' y (h y hy)

/-- Strands that keep their run state do not begin to wait. -/
theorem noNewMeeting.of_run {s t : State} (h : ∀ y, (t.strand y).run = (s.strand y).run) : noNewMeeting s t :=
  fun y hy => (h y) ▸ hy

/-- One strand changes, and does not begin to wait. -/
theorem noNewMeeting.onStrand (s : State) (x : StrandId) {f : Strand → Strand}
    (h : (s.strand x).run ≠ .meeting → (f (s.strand x)).run ≠ .meeting) : noNewMeeting s (s.onStrand x f) := by
  intro y hy
  by_cases hyx : y = x
  · subst hyx
    rw [State.onStrand_strand]
    exact h hy
  · rwa [State.onStrand_other s f hyx]

theorem State.enqueue_strand (s : State) (r : FaultRecord) (y : StrandId) : (s.enqueue r).strand y = s.strand y := by
  unfold State.enqueue State.interrupt
  split_ifs <;> simp

theorem State.landAll_noNewMeeting (s : State) (x : StrandId) : noNewMeeting s (s.landAll x) := by
  unfold State.landAll
  generalize sortKey _ _ = l
  have lands (u : State) : noNewMeeting u (l.foldl (fun s t => s.putReg x t.reg t.value) u) := by
    induction l generalizing u with
    | nil => exact fun _ h => h
    | cons t l ih => exact (noNewMeeting.of_run fun y => u.putReg_run_of x y _ _).trans (ih _)
  exact (noNewMeeting.onStrand s x fun h => h).trans (lands _)

theorem State.enterS_noNewMeeting (s : State) : noNewMeeting s s.enterS := by
  refine (s.landAll_noNewMeeting .K).trans ?_
  unfold State.enterS
  generalize s.landAll .K = u
  dsimp only
  split_ifs
  · exact noNewMeeting.of_run fun y => by simp [State.machineCheck, State.toHearth]
  · intro y hy
    by_cases hyk : y = .K
    · subst hyk
      simp only [State.onStrand_strand, State.onQu_strand, State.onSys_strand]
      split_ifs <;> simp_all
    · simpa [State.onStrand_other _ _ hyk] using hy

theorem State.stopFor_noNewMeeting (s : State) (r : FaultRecord) : noNewMeeting s (s.stopFor r) := by
  unfold State.stopFor
  split_ifs
  · exact noNewMeeting.onStrand s _ fun h => h
  · exact fun _ h => h
  · exact fun _ h => h
  · exact noNewMeeting.onStrand s _ fun h => h
  · refine noNewMeeting.onStrand s _ fun h => ?_
    split_ifs
    · exact h
    · simp

theorem State.queueRecord_noNewMeeting (s : State) (r : FaultRecord) : noNewMeeting s (s.queueRecord r) := by
  have queued : noNewMeeting s ((s.stopFor r).enqueue r) :=
    (s.stopFor_noNewMeeting r).trans (noNewMeeting.of_run fun y => by rw [State.enqueue_strand])
  unfold State.queueRecord
  dsimp only
  split_ifs
  · exact queued.trans (State.enterS_noNewMeeting _)
  · exact queued

theorem State.slotActs_noNewMeeting (s : State) (n : BitVec 4) (x : StrandId) : noNewMeeting s (s.slotActs n x) :=
  noNewMeeting.onStrand (s.onPk _) x fun h => h

theorem State.resumeEngine_strand (s : State) (r : Resume) (y : StrandId) : (s.resumeEngine r).strand y = s.strand y := by
  cases r with
  | stream q gen => simp only [State.resumeEngine, State.onCore, State.strand]; split_ifs <;> cases y <;> rfl
  | chain tag gen => rfl
  | _ => cases y <;> rfl

/-- A strand with the retry count of a hook that stands for another record gone (R390). -/
def Strand.unhooked (t : Strand) (r : FaultRecord) : Strand :=
  { t with hook := match t.hook with | some h => if h.pc = r.pc ∧ h.cause = r.cause then some h else none | none => none }

/-- What a raise comes to (R100, R389): the record goes to Hearth, or is queued, as it is or as a hook changes it, or a hook has what it
stopped tried again. -/
theorem State.raise_cases (s : State) (r : FaultRecord) :
    let u := s.onStrand r.strand (·.unhooked r)
    (deliveredAtH r.cause = true ∧ s.raise r = (u.stopFor r).toHearth r) ∨
    (deliveredAtH r.cause = false ∧
      (s.raise r = u.queueRecord r ∨
        (∃ n c, s.raise r = (u.slotActs n r.strand).queueRecord { r with cause := c, slot := n }) ∨
        ∃ n k, ∃ p : Strand → BitVec 16, s.raise r = ((u.slotActs n r.strand).onStrand r.strand fun t =>
          { t with hook := some k, pc := p t }).resumeEngine r.resume)) := by
  intro u
  generalize ht : s.raise r = t
  cases hd : deliveredAtH r.cause with
  | true =>
    simp only [State.raise, hd, if_true] at ht
    exact .inl ⟨rfl, ht.symm⟩
  | false =>
    refine .inr ⟨rfl, ?_⟩
    simp only [State.raise, hd, Bool.false_eq_true, if_false] at ht
    split at ht
    · exact .inl ht.symm
    · rename_i n _
      split_ifs at ht
      · exact .inr (.inl ⟨n, _, ht.symm⟩)
      · exact .inr (.inr ⟨n, _, fun _ => r.pc, ht.symm⟩)
      · exact .inr (.inr ⟨n, _, fun t => t.pc, ht.symm⟩)
      · exact .inl ht.symm

theorem State.raise_noNewMeeting (s : State) (r : FaultRecord) : noNewMeeting s (s.raise r) := by
  have hooked : noNewMeeting s (s.onStrand r.strand (·.unhooked r)) := noNewMeeting.onStrand s r.strand fun h => h
  refine hooked.trans ?_
  have acted (n : BitVec 4) := (s.onStrand r.strand (·.unhooked r)).slotActs_noNewMeeting n r.strand
  obtain ⟨-, h⟩ | ⟨-, h | ⟨n, c, h⟩ | ⟨n, k, p, h⟩⟩ := s.raise_cases r <;> rw [h]
  · exact (State.stopFor_noNewMeeting _ r).trans (noNewMeeting.of_run fun y => by simp [State.toHearth])
  · exact State.queueRecord_noNewMeeting _ r
  · exact (acted n).trans (State.queueRecord_noNewMeeting _ _)
  · refine ((acted n).trans (noNewMeeting.onStrand _ r.strand fun h => ?_)).trans
      (noNewMeeting.of_run fun y => by rw [State.resumeEngine_strand])
    exact h

theorem State.raisePrecise_noNewMeeting (s : State) (x : StrandId) (c : BitVec 6) (d a : BitVec 64) (eng slot : BitVec 4) :
    noNewMeeting s (s.raisePrecise x c d a eng slot) := by
  unfold State.raisePrecise
  extract_lets u skip cls r
  have seen : noNewMeeting s u := noNewMeeting.of_run fun y => by simp only [u]; split_ifs <;> rfl
  refine seen.trans ?_
  split_ifs <;> exact State.raise_noNewMeeting _ _

/-! ## Yield points and the entry into a body (R65, R106) -/

/-- Whether the yield point of a header that asks for one, where `y`, stops a running strand (R106, R148). -/
abbrev State.yieldsAt (s : State) (x : StrandId) (y : Bool) : Prop :=
  y = true ∧ s.sys.yreq = true ∧ s.sys.yact = true ∧ s.atS x = false ∧ s.core.qu.st ≠ .pending

/-- How a strand stands after the entry into a repetition. -/
def State.entryRun (s : State) (x : StrandId) (y : Bool) : Run :=
  if (s.strand x).run = .running ∧ s.yieldsAt x y then .yielded else (s.strand x).run

/-- The yield point at the entry into a repetition changes the run state of its strand alone. -/
theorem State.entryYield_eq (s : State) (x : StrandId) (y : Bool) :
    s.entryYield x y = s.onStrand x fun t => { t with run := s.entryRun x y } := by
  by_cases h : (s.strand x).run = .running ∧ s.yieldsAt x y
  · rw [State.entryRun, if_pos h]
    obtain ⟨hr, rfl, hreq, hact, hs, hq⟩ := h
    have stops : (s.sys.yreq && s.sys.yact && !s.atS x && s.core.qu.st != .pending) = true := by
      rw [hreq, hact, hs, bne_iff_ne.mpr hq]; rfl
    rw [State.entryYield, hr, State.yieldPoint, if_pos stops]
    rfl
  · have unchanged : s = s.onStrand x fun t => { t with run := (s.strand x).run } := by cases x <;> rfl
    rw [State.entryRun, if_neg h]
    unfold State.entryYield State.yieldPoint
    split_ifs with hy hc
    · simp only [Bool.and_eq_true, beq_iff_eq, bne_iff_ne, Bool.not_eq_true'] at hy hc
      tauto
    · exact unchanged
    · exact unchanged

/-- The carry masks of a block's table go to the vector state or the matrix engine (R205, R251). -/
theorem State.takeCarry_frame (s : State) (x : StrandId) (h : BitVec 16) :
    ∃ v m, s.takeCarry x h = (s.onVec fun _ => v).onMat fun _ => m := by
  cases x with
  | K => exact ⟨s.core.vec, s.core.mat, rfl⟩
  | A => exact ⟨s.core.vec, s.core.mat, rfl⟩
  | V =>
    simp only [State.takeCarry]
    split
    · rename_i carry _
      exact ⟨{ s.core.vec with vcarry := carry }, s.core.mat, rfl⟩
    · exact ⟨s.core.vec, s.core.mat, rfl⟩
  | M =>
    simp only [State.takeCarry]
    split
    · rename_i carry _
      exact ⟨s.core.vec, { s.core.mat with zc := carry.setWidth 8 }, rfl⟩
    · exact ⟨s.core.vec, s.core.mat, rfl⟩

/-- What the first repetition of a block begins with. -/
theorem State.beginBody_frame (s : State) (x : StrandId) (n : BitVec 32) :
    ∃ v m, s.beginBody x n =
      ((s.onVec fun _ => v).onMat fun _ => m).onStrand x fun t => { t with pc := (s.strand x).hdr + 2, remain := n } := by
  obtain ⟨v, m, h⟩ := s.takeCarry_frame x (s.strand x).hdr
  exact ⟨v, m, by simp only [State.beginBody, h]⟩

@[simp] theorem State.onStrand_code (s : State) (x y : StrandId) (f : Strand → Strand) : (s.onStrand x f).code y = s.code y := by
  cases x <;> rfl

/-! ## BLOCK_ENTRY (R65) -/

section
variable {s : State} {x : StrandId} (hx : s.cur = x) (hm : s.mayIssue x = true) (hl : (s.strand x).lockstep = false)

include hx in
/-- A strand that may not issue, or that runs in a bundle, enters no block of its own. -/
theorem execBlockEntry_idle (h : s.mayIssue x = false ∨ (s.strand x).lockstep = true) : exec .blockEntry s = .next s := by
  show execBlockEntry s = _
  rcases h with h | h <;> simp [execBlockEntry, hx, h]

include hx hm hl in
theorem execBlockEntry_enters (hp : (s.strand x).pc = (s.strand x).hdr) (hf : s.fetchesPast x = false) :
    exec .blockEntry s = .next (s.enterBlock x) := by
  show execBlockEntry s = _
  simp [execBlockEntry, hx, hm, hl, State.atBodyEnd, State.atHeader, hp, hf]

include hx hm hl in
theorem execBlockEntry_ends (hp : (s.strand x).pc ≠ (s.strand x).hdr)
    (he : (s.strand x).pc.toNat = bodyEnd (s.code x) (s.strand x).hdr.toNat)
    (hh : isHeader (s.code x) (s.strand x).hdr.toNat = true) : exec .blockEntry s = .next (s.endRepetition x) := by
  show execBlockEntry s = _
  simp [execBlockEntry, hx, hm, hl, State.atBodyEnd, State.atHeader, hp, he, hh]

end

theorem State.fetchesPast_of_pastCode {s : State} {x : StrandId} (h : s.pastCode x = false) : s.fetchesPast x = false := by
  simp [State.fetchesPast, h]

/-- At a position that is neither a header nor the end of the blocks a strand is not past its code (log 18). -/
theorem State.fetchesPast_of_noHeader {s : State} {x : StrandId} (hp : (s.strand x).pc = (s.strand x).hdr)
    (hh : isHeader (s.code x) (s.strand x).hdr.toNat = false) (hb : blocksEnd (s.code x) (s.strand x).hdr.toNat = false) :
    s.fetchesPast x = false := by
  simp [State.fetchesPast, State.atItem, hp, hh, hb]

section
variable {s : State} {x : StrandId}

theorem State.enterBlock_noHeader (hh : isHeader (s.code x) (s.strand x).hdr.toNat = false) :
    s.enterBlock x = s.headerTrap x cPcAlign ((s.strand x).hdr.setWidth 64) := by
  simp [State.enterBlock, hh]

variable (hh : isHeader (s.code x) (s.strand x).hdr.toNat = true)
include hh

theorem State.enterBlock_malformed {c : BitVec 6} (hf : headerFault (s.code x) (s.strand x).hdr.toNat = some c) :
    s.enterBlock x = s.headerTrap x c 0 := by
  simp [State.enterBlock, hh, hf]

variable (hf : headerFault (s.code x) (s.strand x).hdr.toNat = none)
include hf

theorem State.enterBlock_lockstep (hs : hdrS (wordAt (s.code x) (s.strand x).hdr.toNat) = true) (ht : s.atS x = false) :
    s.enterBlock x = { (s.onStrand x fun t => { t with run := .meeting }) with last := .waited } := by
  simp [State.enterBlock, hh, hf, hs, ht]

variable (hs : hdrS (wordAt (s.code x) (s.strand x).hdr.toNat) = false)
include hs

theorem State.enterBlock_noCount (hc : s.execCount x (wordAt (s.code x) (s.strand x).hdr.toNat) = none) :
    s.enterBlock x = s.headerTrap x cOperandRange 0x06 := by
  simp [State.enterBlock, hh, hf, hs, hc]

theorem State.enterBlock_passes (hc : s.execCount x (wordAt (s.code x) (s.strand x).hdr.toNat) = some 0) :
    s.enterBlock x = { (s.toNextHeader x) with last := .jumped } := by
  simp [State.enterBlock, hh, hf, hs, hc]

theorem State.enterBlock_begins {n : BitVec 32} (hc : s.execCount x (wordAt (s.code x) (s.strand x).hdr.toNat) = some n)
    (hn : n ≠ 0) :
    s.enterBlock x =
      { ((s.beginBody x n).entryYield x (hdrY (wordAt (s.code x) (s.strand x).hdr.toNat))) with last := .jumped } := by
  simp only [State.enterBlock, hh, hf, hs, hc, if_neg hn, Bool.not_true, Bool.false_eq_true, if_false]

end

/-! ## The end of a repetition (R65 items 3 to 5, R16) -/

section
variable {s : State} {x : StrandId}

theorem State.autoAdvance_none (h : hdrCd (wordAt (s.code x) (s.strand x).hdr.toNat) = 0) : s.autoAdvance x = .ok none := by
  simp only [State.autoAdvance, if_pos h]

/-- The automatic advance of a header that asks for one: the refusals of R16 in their order, then the coordinate. -/
theorem State.autoAdvance_eq {cd : Nat} (h : hdrCd (wordAt (s.code x) (s.strand x).hdr.toNat) = cd) (h0 : cd ≠ 0) :
    s.autoAdvance x =
      if s.atS x then .error (0x22, 0)
      else if s.sys.nest.toNat < cd then .error (0x0E, 0x03)
      else if (s.strand x).coord.get (cd - 1) = 0xFFFFFFFF then .error (0x22, BitVec.ofNat 64 (cd - 1))
      else .ok (some ((s.strand x).coord.advance (cd - 1))) := by
  have outside : s.sys.nest.toNat ≤ cd - 1 ↔ s.sys.nest.toNat < cd := by omega
  simp only [State.autoAdvance, h, if_neg h0, outside]

end

section
variable {s : State} {x : StrandId}

theorem State.endRepetition_last (hr : (s.strand x).remain ≤ 1) :
    s.endRepetition x = { (s.toNextHeader x) with last := .jumped } := by
  have : (s.strand x).remain.toNat ≤ 1 := hr
  simp only [State.endRepetition, if_pos this]

variable (hr : 1 < (s.strand x).remain)
include hr

theorem State.endRepetition_again (ha : s.autoAdvance x = .ok none) :
    s.endRepetition x =
      { ((s.nextRepetition x none).entryYield x (hdrY (wordAt (s.code x) (s.strand x).hdr.toNat))) with last := .jumped } := by
  have : ¬(s.strand x).remain.toNat ≤ 1 := Nat.not_le.mpr hr
  simp only [State.endRepetition, if_neg this, ha]

theorem State.endRepetition_refused {c : BitVec 6} {d : BitVec 64} (ha : s.autoAdvance x = .error (c, d)) :
    s.endRepetition x = s.headerTrap x c d := by
  have : ¬(s.strand x).remain.toNat ≤ 1 := Nat.not_le.mpr hr
  simp only [State.endRepetition, if_neg this, ha]

theorem State.endRepetition_waits {c : Coord} (ha : s.autoAdvance x = .ok (some c)) (hc : s.mayChange x c = false) :
    s.endRepetition x = { s with last := .waited } := by
  have : ¬(s.strand x).remain.toNat ≤ 1 := Nat.not_le.mpr hr
  simp only [State.endRepetition, if_neg this, ha, hc, Bool.false_eq_true, if_false]

theorem State.endRepetition_advances {c : Coord} (ha : s.autoAdvance x = .ok (some c)) (hc : s.mayChange x c = true) :
    s.endRepetition x =
      { ((s.nextRepetition x (some c)).entryYield x (hdrY (wordAt (s.code x) (s.strand x).hdr.toNat))) with last := .jumped } := by
  have : ¬(s.strand x).remain.toNat ≤ 1 := Nat.not_le.mpr hr
  simp only [State.endRepetition, if_neg this, ha, hc, if_true]

end

/-- The strand after a change of its coordinate: it has taken its image where one is kept, and stops where it reaches a pending cut
(R21, R340). -/
theorem State.changeCoord_strand (s : State) (x : StrandId) (c : Coord) :
    (s.changeCoord x c).strand x = { s.strand x with
      coord := c
      images := (s.strand x).images ++
        if s.core.qu.hk ≤ c.key then [(s.onStrand x fun t => { t with coord := c }).imageOf x false] else []
      run := if s.core.qu.st = .pending ∧ s.core.qu.cut.key ≤ c.key then .cut else (s.strand x).run } := by
  unfold State.changeCoord State.takeImage
  simp only [State.onStrand_strand, State.onStrand_qu]
  split <;> split_ifs <;> simp_all

/-! ## FETCH_END_OF_CODE (R62, R119) -/

theorem execFetchEndOfCode_inside {s : State} {x : StrandId} (hx : s.cur = x) (h : s.fetchesPast x = false) :
    exec .fetchEndOfCode s = .next s := by
  show execFetchEndOfCode s = _
  simp [execFetchEndOfCode, hx, h]

theorem execFetchEndOfCode_past {s : State} {x : StrandId} (hx : s.cur = x) (hm : s.mayIssue x = true)
    (h : s.fetchesPast x = true) :
    exec .fetchEndOfCode s = .next (
      if s.atS x then s.headerTrap x cPrivileged 0
      else { (s.onStrand x fun t => { t with run := .pastEnd }) with last := .jumped }) := by
  show execFetchEndOfCode s = _
  simp [execFetchEndOfCode, hx, hm, h]

/-- A header, the end of the blocks or an item at or beyond the end of the code is past it. -/
theorem State.fetchesPast_of_limit {s : State} {x : StrandId}
    (h : ((s.strand x).pc = (s.strand x).hdr ∧ (isHeader (s.code x) (s.strand x).hdr.toNat = true ∨
      blocksEnd (s.code x) (s.strand x).hdr.toNat = true)) ∨ s.atItem x = true)
    (hl : s.fetchLimit x ≤ (s.strand x).pc.toNat) : s.fetchesPast x = true := by
  have past : s.pastCode x = true := by simp [State.pastCode, hl]
  rcases h with ⟨hp, h⟩ | h
  · rcases h with h | h <;> simp [State.fetchesPast, State.atHeader, hp, h, past]
  · simp [State.fetchesPast, h, past]

/-! ## The meeting of the four strands (R11) -/

/-- A step for each strand in turn: what it keeps of the state stays, and each strand is as its own step leaves it. -/
theorem foldl_strandIds {α : Type} {g : State → StrandId → State} {view : State → α} {R : StrandId → Strand → Strand → Prop}
    {s : State} (keeps : ∀ u x, view (g u x) = view u) (other : ∀ u x y, y ≠ x → (g u x).strand y = u.strand y)
    (self : ∀ u x, view u = view s → R x (u.strand x) ((g u x).strand x)) :
    view (strandIds.foldl g s) = view s ∧ ∀ x, R x (s.strand x) ((strandIds.foldl g s).strand x) := by
  have unfolded : strandIds.foldl g s = g (g (g (g s .K) .A) .V) .M := rfl
  rw [unfolded]
  refine ⟨by simp only [keeps], fun x => ?_⟩
  cases x with
  | K =>
    rw [other _ _ _ (by decide), other _ _ _ (by decide), other _ _ _ (by decide)]
    exact self s .K rfl
  | A =>
    rw [other _ _ _ (by decide), other _ _ _ (by decide), ← other s .K .A (by decide)]
    exact self _ .A (keeps _ _)
  | V =>
    rw [other _ _ _ (by decide), ← other s .K .V (by decide), ← other (g s .K) .A .V (by decide)]
    exact self _ .V (by simp only [keeps])
  | M =>
    rw [← other s .K .M (by decide), ← other (g s .K) .A .M (by decide), ← other (g (g s .K) .A) .V .M (by decide)]
    exact self _ .M (by simp only [keeps])

/-- A strand goes on from the meeting: past its block for a count of zero, else into it as part of the bundle. -/
def State.meetLane (n : BitVec 32) (y : Bool) (s : State) (x : StrandId) : State :=
  let s := s.onStrand x fun t => { t with run := .running }
  if n = 0 then s.toNextHeader x
  else ((s.beginBody x n).onStrand x fun t => { t with lockstep := true }).entryYield x y

/-- Four blocks of one count begin together. -/
theorem State.meet_eq {s : State} {n : BitVec 32}
    (h : ∀ x, s.execCount x (wordAt (s.code x) (s.strand x).hdr.toNat) = some n) :
    s.meet = strandIds.foldl (State.meetLane n (strandIds.any fun x => hdrY (wordAt (s.code x) (s.strand x).hdr.toNat))) s := by
  simp only [State.meet, h]
  simp [strandIds]
  rfl

/-- The code of a strand depends on the running plane alone. -/
theorem State.code_congr {s u : State} (h : (u.sys, u.pk) = (s.sys, s.pk)) (x : StrandId) : u.code x = s.code x := by
  obtain ⟨hs, hp⟩ := Prod.mk.inj h
  simp only [State.code, State.plane, hs, hp]

section
variable (n : BitVec 32) (y : Bool) (s : State) (x : StrandId)

/-- A strand's part of the meeting leaves the system registers and the package as they are. -/
theorem State.meetLane_keeps : ((State.meetLane n y s x).sys, (State.meetLane n y s x).pk) = (s.sys, s.pk) := by
  obtain ⟨v, m, h⟩ := (s.onStrand x fun t => { t with run := .running }).beginBody_frame x n
  unfold State.meetLane
  dsimp only
  split_ifs
  · simp [State.toNextHeader]
  · simp [State.entryYield_eq, h]

theorem State.meetLane_other {z : StrandId} (hz : z ≠ x) : (State.meetLane n y s x).strand z = s.strand z := by
  obtain ⟨v, m, h⟩ := (s.onStrand x fun t => { t with run := .running }).beginBody_frame x n
  unfold State.meetLane
  dsimp only
  split_ifs
  · simp [State.toNextHeader, State.onStrand_other _ _ hz]
  · simp [State.entryYield_eq, h, State.onStrand_other _ _ hz]

theorem State.meetLane_passes : (State.meetLane 0 y s x).strand x = { s.strand x with
    run := .running, remain := 0
    pc := BitVec.ofNat 16 (nextHeader (s.code x) (s.strand x).hdr.toNat)
    hdr := BitVec.ofNat 16 (nextHeader (s.code x) (s.strand x).hdr.toNat) } := by
  simp [State.meetLane, State.toNextHeader]

theorem State.meetLane_begins (hn : n ≠ 0) :
    let t := (State.meetLane n y s x).strand x
    t.lockstep = true ∧ t.pc = (s.strand x).hdr + 2 ∧ t.remain = n ∧ (t.run = .running ∨ t.run = .yielded) := by
  obtain ⟨v, m, h⟩ := (s.onStrand x fun t => { t with run := .running }).beginBody_frame x n
  simp only [State.meetLane, if_neg hn, State.entryYield_eq, h, State.onStrand_strand, State.entryRun, State.onMat_strand,
    State.onVec_strand, true_and]
  split_ifs
  · exact .inr rfl
  · exact .inl rfl

end

/-- BAD_BLOCK at one strand, which no longer waits. -/
def State.badBlock (s : State) (x : StrandId) : State :=
  (s.onStrand x fun t => { t with run := if t.run == .meeting then .running else t.run }).headerTrap x cBadBlock 0

theorem State.badBlock_noNewMeeting (s : State) (x : StrandId) : noNewMeeting s (s.badBlock x) := by
  refine noNewMeeting.trans (noNewMeeting.onStrand s x fun h => ?_) (State.raisePrecise_noNewMeeting _ x _ _ _ _ _)
  simp [h]

theorem State.badBlock_run (s : State) (x : StrandId) : ((s.badBlock x).strand x).run ≠ .meeting := by
  refine State.raisePrecise_noNewMeeting _ x _ _ _ _ _ x ?_
  rw [State.onStrand_strand]
  by_cases h : (s.strand x).run = .meeting <;> simp [h]

theorem foldl_badBlock_noNewMeeting (l : List StrandId) (s : State) : noNewMeeting s (l.foldl State.badBlock s) := by
  induction l generalizing s with
  | nil => exact fun _ h => h
  | cons x l ih => exact (s.badBlock_noNewMeeting x).trans (ih _)

/-- BAD_BLOCK at some strands leaves none of them waiting. -/
theorem State.badBlocks_run {s : State} {p : StrandId → Bool} {y : StrandId} (hy : p y = true) :
    ((s.badBlocks p).strand y).run ≠ .meeting := by
  show (((strandIds.filter p).foldl State.badBlock s).strand y).run ≠ .meeting
  have mem : y ∈ strandIds.filter p := List.mem_filter.mpr ⟨by cases y <;> decide, hy⟩
  generalize strandIds.filter p = l at mem
  induction l generalizing s with
  | nil => exact absurd mem List.not_mem_nil
  | cons x l ih =>
    rcases List.mem_cons.mp mem with rfl | h
    · exact foldl_badBlock_noNewMeeting l _ y (s.badBlock_run y)
    · exact ih h

theorem mem_strandIds (x : StrandId) : x ∈ strandIds := by cases x <;> decide

/-- While a strand has not come to the meeting, and none has left it, the others wait. -/
theorem execLockstepMeet_stays {s : State} (h : ∃ y, (s.strand y).run ≠ .meeting ∨ s.atS y = true)
    (hl : ∀ y, s.leftMeeting y = false) : exec .lockstepMeet s = .next s := by
  obtain ⟨y, h⟩ := h
  have missing : ¬ strandIds.all (fun x => (s.strand x).run == .meeting && !s.atS x) = true := by
    rw [List.all_eq_true]
    intro all
    have := all y (mem_strandIds y)
    rcases h with h | h <;> simp [h] at this
  show execLockstepMeet s = _
  simp only [execLockstepMeet, if_neg missing, hl]
  simp

/-- The four strands meet where each waits at T. -/
theorem execLockstepMeet_meets {s : State} (hs : s.sys.levelS = false) (h : ∀ y, (s.strand y).run = .meeting) :
    exec .lockstepMeet s = .next s.meet := by
  have waits : strandIds.all (fun x => (s.strand x).run == .meeting && !s.atS x) = true := by
    rw [List.all_eq_true]
    intro x _
    have atS : s.atS x = false := by simp only [State.atS, hs, Bool.and_false]
    rw [h x, atS]
    rfl
  show execLockstepMeet s = _
  simp only [execLockstepMeet, if_pos waits]

/-- Where a strand has halted those that wait raise BAD_BLOCK. -/
theorem execLockstepMeet_fails {s : State} {y z : StrandId} (hy : (s.strand y).run = .meeting) (hs : s.atS y = false)
    (hz : (s.strand z).run = .halted) :
    exec .lockstepMeet s = .next (s.badBlocks fun x => (s.strand x).run == .meeting && !s.atS x) := by
  have missing : ¬ strandIds.all (fun x => (s.strand x).run == .meeting && !s.atS x) = true := by
    rw [List.all_eq_true]
    exact fun all => by simpa [hz] using all z (mem_strandIds z)
  have waits : strandIds.any (fun x => (s.strand x).run == .meeting && !s.atS x) = true :=
    List.any_eq_true.mpr ⟨y, mem_strandIds y, by simp [hy, hs]⟩
  have left : strandIds.any (fun x => !((s.strand x).run == .meeting && !s.atS x) && s.leftMeeting x) = true :=
    List.any_eq_true.mpr ⟨z, mem_strandIds z, by simp [hz, State.leftMeeting]⟩
  show execLockstepMeet s = _
  simp only [execLockstepMeet, if_neg missing, waits, left, Bool.and_self, if_true]

/-! ## The statement -/

/-- The entry into a repetition from a state that differs from `s` in carry masks and in strand `x` alone, whose run state is as in `s`:
the strand runs on, or stops at the yield point. -/
theorem State.entryYield_enters {s u : State} {x : StrandId} {p : Strand} (y : Bool)
    (hu : ∃ v m, u = ((s.onVec fun _ => v).onMat fun _ => m).onStrand x fun _ => p) (hp : p.run = (s.strand x).run) :
    let t := u.entryYield x y
    ∃ r, ((∀ z, z ≠ x → t.strand z = s.strand z) ∧ t.sys = s.sys ∧ t.pk = s.pk) ∧
      (((s.strand x).run = .running ∧ s.yieldsAt x y ∧ r = .yielded) ∨
        (¬((s.strand x).run = .running ∧ s.yieldsAt x y) ∧ r = (s.strand x).run)) ∧
      t.strand x = { p with run := r } := by
  obtain ⟨v, m, rfl⟩ := hu
  rw [State.entryYield_eq]
  refine ⟨State.entryRun (((s.onVec fun _ => v).onMat fun _ => m).onStrand x fun _ => p) x y, ⟨fun z hz => ?_, ?_, ?_⟩, ?_, ?_⟩
  · exact (State.onStrand_other _ _ hz).trans ((State.onStrand_other _ _ hz).trans
      ((State.onMat_strand _ _ z).trans (State.onVec_strand _ _ z)))
  · cases x <;> rfl
  · rfl
  · have yields : State.yieldsAt (((s.onVec fun _ => v).onMat fun _ => m).onStrand x fun _ => p) x y ↔ s.yieldsAt x y := by
      cases x <;> rfl
    simp only [State.entryRun, State.onStrand_strand, hp, yields]
    split_ifs with h
    · exact .inl ⟨h.1, h.2, rfl⟩
    · exact .inr ⟨h, rfl⟩
  · rw [State.onStrand_strand, State.onStrand_strand]

/-- A repetition that begins with an advance to `c`: the strand stands at the start of its body with the coordinate and its image, and a
pending cut that it has reached stops it (R16, R340). -/
theorem State.nextRepetition_advances (s : State) (x : StrandId) (c : Coord) (y : Bool) :
    let p := s.strand x
    let t := (s.nextRepetition x (some c)).entryYield x y
    (t.strand x).coord = c ∧ (t.strand x).pc = p.hdr + 2 ∧ (t.strand x).remain = p.remain - 1 ∧ (t.strand x).s = p.s ∧
      (t.strand x).flags = p.flags ∧
      (s.core.qu.st = .pending → s.core.qu.cut.key ≤ c.key → (t.strand x).run = .cut) ∧
      (s.core.qu.hk ≤ c.key →
        ∃ i, (t.strand x).images = p.images ++ [i] ∧ i.coord = c ∧ i.s = p.s ∧ i.pc = p.hdr + 2) := by
  intro p t
  have moved : s.nextRepetition x (some c) =
      (s.onStrand x fun t => { t with pc := t.hdr + 2, remain := t.remain - 1 }).changeCoord x c := rfl
  have strand : t.strand x = { (s.nextRepetition x (some c)).strand x with run := (s.nextRepetition x (some c)).entryRun x y } := by
    simp only [t, State.entryYield_eq, State.onStrand_strand]
  have image := State.changeCoord_strand (s.onStrand x fun t => { t with pc := t.hdr + 2, remain := t.remain - 1 }) x c
  rw [← moved] at image
  simp only [State.onStrand_strand, State.onStrand_qu] at image
  rw [strand, image]
  refine ⟨rfl, rfl, rfl, rfl, rfl, fun hq hk => ?_, fun hk => ?_⟩
  · simp [State.entryRun, image, hq, hk]
  · rw [if_pos hk]
    exact ⟨_, rfl, by simp [State.imageOf], by simp [State.imageOf, p], by simp [State.imageOf, p]⟩

/-- Settles O55: each clause is the case of `enterBlock`, `endRepetition`, `meet` or `badBlocks` that its hypotheses choose. -/
theorem blockResults : Obligations.BlockResults := by
  intro s x hx
  refine ⟨execBlockEntry_idle hx, fun hm hl hp hf => ?_, fun hm hl hp he hh => ?_, fun hm hl hp hh hb => ?_, fun hm h hlim => ?_,
    fun hm hf => execFetchEndOfCode_inside hx (State.fetchesPast_of_pastCode hf), execLockstepMeet_stays, fun n hs h => ?_,
    fun y hy hs hz => ?_⟩
  · rw [execBlockEntry_enters hx hm hl hp (State.fetchesPast_of_pastCode hf)]
    refine ⟨fun hh => ?_, fun hh => ⟨fun c hc => ?_, fun hc => ⟨fun hS hT => ?_, fun hS =>
      ⟨fun hn => ?_, fun hn => ?_, fun n hn h0 => ?_⟩⟩⟩⟩
    · rw [State.enterBlock_noHeader hh]; rfl
    · rw [State.enterBlock_malformed hh hc]; rfl
    · rw [State.enterBlock_lockstep hh hc hS hT]
    · rw [State.enterBlock_noCount hh hc hS hn]; rfl
    · rw [State.enterBlock_passes hh hc hS hn]; rfl
    · rw [State.enterBlock_begins hh hc hS hn h0]
      obtain ⟨v, m, hb⟩ := s.beginBody_frame x n
      obtain ⟨r, others, runs, self⟩ := State.entryYield_enters (hdrY (wordAt (s.code x) (s.strand x).hdr.toNat))
        (p := { s.strand x with pc := (s.strand x).hdr + 2, remain := n }) ⟨v, m, hb.trans (by cases x <;> rfl)⟩ rfl
      exact ⟨_, r, rfl, others, runs, self⟩
  · rw [execBlockEntry_ends hx hm hl hp he hh]
    refine ⟨fun hr => ?_, fun hr hcd => ?_, fun hr hcd => ?_⟩
    · rw [State.endRepetition_last hr]; rfl
    · rw [State.endRepetition_again hr (State.autoAdvance_none hcd)]
      obtain ⟨r, others, runs, self⟩ := State.entryYield_enters (u := s.nextRepetition x none)
        (hdrY (wordAt (s.code x) (s.strand x).hdr.toNat))
        (p := { s.strand x with pc := (s.strand x).hdr + 2, remain := (s.strand x).remain - 1 })
        ⟨s.core.vec, s.core.mat, by cases x <;> rfl⟩ rfl
      exact ⟨_, r, rfl, others, runs, self⟩
    · have ha := State.autoAdvance_eq (s := s) (x := x) (by rfl) hcd
      refine ⟨fun hs => ?_, fun hs hn => ?_, fun hs hn hg => ?_, fun hs hn hg => ?_⟩
      · rw [if_pos hs] at ha
        rw [State.endRepetition_refused hr ha]; rfl
      · rw [if_neg (by simp [hs]), if_pos hn] at ha
        rw [State.endRepetition_refused hr ha]; rfl
      · rw [if_neg (by simp [hs]), if_neg (Nat.not_lt.mpr hn), if_pos hg] at ha
        rw [State.endRepetition_refused hr ha]; rfl
      · rw [if_neg (by simp [hs]), if_neg (Nat.not_lt.mpr hn), if_neg hg] at ha
        refine ⟨fun hc => by rw [State.endRepetition_waits hr ha hc], fun hc => ?_⟩
        rw [State.endRepetition_advances hr ha hc]
        exact ⟨_, rfl, s.nextRepetition_advances x _ _⟩
  · have hf := State.fetchesPast_of_noHeader hp hh hb
    rw [execBlockEntry_enters hx hm hl hp hf, State.enterBlock_noHeader hh]
    exact ⟨rfl, execFetchEndOfCode_inside hx hf⟩
  · rw [execFetchEndOfCode_past hx hm (State.fetchesPast_of_limit h hlim)]
    rfl
  · rw [execLockstepMeet_meets hs fun y => (h y).1, State.meet_eq fun y => (h y).2]
    generalize strandIds.any _ = y
    obtain ⟨keeps, lanes⟩ := foldl_strandIds (g := State.meetLane n y) (view := fun u => (u.sys, u.pk)) (s := s)
      (R := fun x p q =>
        (n = 0 → q = { p with
          run := .running, remain := 0, pc := BitVec.ofNat 16 (nextHeader (s.code x) p.hdr.toNat)
          hdr := BitVec.ofNat 16 (nextHeader (s.code x) p.hdr.toNat) }) ∧
        (n ≠ 0 → q.lockstep = true ∧ q.pc = p.hdr + 2 ∧ q.remain = n ∧ (q.run = .running ∨ q.run = .yielded)))
      (fun u x => u.meetLane_keeps n y x) (fun u x z hz => u.meetLane_other n y x hz)
      (fun u x hu => ⟨fun h0 => by rw [h0, u.meetLane_passes, State.code_congr hu], u.meetLane_begins n y x⟩)
    obtain ⟨hsys, hpk⟩ := Prod.mk.inj keeps
    exact ⟨_, rfl, hsys, hpk, fun h0 y => (lanes y).1 h0, fun h0 y => (lanes y).2 h0⟩
  · obtain ⟨z, hz⟩ := hz
    exact ⟨_, execLockstepMeet_fails hy hs hz, State.badBlocks_run (by simp [hy, hs])⟩

end Sys2Proof.Machine
end

section
/-!
PROOFS. The slot table, the planes and the memory steps that scheduling rests on: what each changes, and what it leaves (R12, R34, R397 to
R400).
-/
namespace Sys2Proof.Machine

/-! ## Slot-table entries and planes (R12, R397) -/

theorem State.setEntry_slot (s : State) (n : Nat) (st : EntryState) (det : BitVec 8) :
    kGet SlotEntry.zero (s.setEntry n st det).pk.slots n =
      { kGet SlotEntry.zero s.pk.slots n with state := st, det := det } := kGet_kSet _ _ _ _

/-- Replacing the shadow plane changes the two planes of the package and nothing else. -/
theorem State.putShadow_frame (s : State) (p : Plane) :
    ∃ p0 p1, s.putShadow p = s.onPk fun k => { k with plane0 := p0, plane1 := p1 } := by
  cases h : s.sys.planeAct with
  | true => exact ⟨p, s.pk.plane1, by simp only [State.putShadow, State.onPk, h, if_true]⟩
  | false => exact ⟨s.pk.plane0, p, by simp only [State.putShadow, State.onPk, h, Bool.false_eq_true, if_false]⟩

@[simp] theorem State.putShadow_shadow (s : State) (p : Plane) : (s.putShadow p).shadow = p := by
  cases h : s.sys.planeAct <;> simp [State.putShadow, State.shadow, h]

@[simp] theorem State.putShadow_plane (s : State) (p : Plane) : (s.putShadow p).plane = s.plane := by
  cases h : s.sys.planeAct <;> simp [State.putShadow, State.plane, h]

@[simp] theorem State.putPlane_plane (s : State) (p : Plane) : (s.putPlane p).plane = p := by
  cases h : s.sys.planeAct <;> simp [State.putPlane, State.plane, h]

/-- Replacing the running plane changes the two planes of the package and nothing else. -/
theorem State.putPlane_frame (s : State) (p : Plane) :
    ∃ p0 p1, s.putPlane p = s.onPk fun k => { k with plane0 := p0, plane1 := p1 } := by
  cases h : s.sys.planeAct with
  | true => exact ⟨s.pk.plane0, p, by simp only [State.putPlane, State.onPk, h, if_true]⟩
  | false => exact ⟨p, s.pk.plane1, by simp only [State.putPlane, State.onPk, h, Bool.false_eq_true, if_false]⟩

@[simp] theorem State.putShadow_slots (s : State) (p : Plane) : (s.putShadow p).pk.slots = s.pk.slots := by
  obtain ⟨_, _, h⟩ := s.putShadow_frame p
  rw [h]; rfl

@[simp] theorem State.putShadow_mu (s : State) (p : Plane) : (s.putShadow p).pk.mu = s.pk.mu := by
  obtain ⟨_, _, h⟩ := s.putShadow_frame p
  rw [h]; rfl

/-! ## The dispatcher's choice (R398) -/

theorem leastSeq_mem {l : List (Nat × SlotEntry)} {e : Nat × SlotEntry} (h : leastSeq l = some e) : e ∈ l := by
  induction l generalizing e with
  | nil => exact absurd h nofun
  | cons a l ih =>
    simp only [leastSeq] at h
    split at h
    · obtain rfl := Option.some.inj h
      exact List.mem_cons_self
    · rename_i f hf
      split_ifs at h <;> obtain rfl := Option.some.inj h
      · exact List.mem_cons_of_mem _ (ih hf)
      · exact List.mem_cons_self

theorem leastSeq_isSome {l : List (Nat × SlotEntry)} {f : Nat × SlotEntry} (hf : f ∈ l) : ∃ e, leastSeq l = some e := by
  cases l with
  | nil => exact absurd hf List.not_mem_nil
  | cons a l =>
    simp only [leastSeq]
    split
    · exact ⟨_, rfl⟩
    · split_ifs <;> exact ⟨_, rfl⟩

/-- Nothing has a lower SEQ than the entry chosen. -/
theorem leastSeq_le {l : List (Nat × SlotEntry)} {e f : Nat × SlotEntry} (h : leastSeq l = some e) (hf : f ∈ l) :
    e.2.seq ≤ f.2.seq := by
  induction l generalizing e with
  | nil => exact absurd hf List.not_mem_nil
  | cons a l ih =>
    simp only [leastSeq] at h
    split at h
    · rename_i hn
      obtain rfl := Option.some.inj h
      rcases List.mem_cons.mp hf with rfl | hf
      · exact BitVec.le_refl _
      · obtain ⟨g, hg⟩ := leastSeq_isSome hf
        exact absurd (hg.symm.trans hn) nofun
    · rename_i g hg
      split_ifs at h with hlt <;> obtain rfl := Option.some.inj h <;> rcases List.mem_cons.mp hf with rfl | hf
      · exact BitVec.le_of_lt hlt
      · exact ih hg hf
      · exact BitVec.le_refl _
      · exact BitVec.le_trans (BitVec.not_lt.mp hlt) (ih hg hf)

/-- The dispatcher chooses the one entry whose SEQ is below that of every other. -/
theorem leastSeq_eq {l : List (Nat × SlotEntry)} {e : Nat × SlotEntry} (he : e ∈ l)
    (least : ∀ f ∈ l, f ≠ e → e.2.seq < f.2.seq) : leastSeq l = some e := by
  obtain ⟨f, hf⟩ := leastSeq_isSome he
  by_cases hfe : f = e
  · rw [hf, hfe]
  · exact absurd (least f (leastSeq_mem hf) hfe) (BitVec.not_lt.mpr (leastSeq_le hf he))

/-- The entries that the dispatcher considers are those that it may take. -/
theorem State.mem_takeable (s : State) (p : Nat × SlotEntry) : p ∈ s.takeable ↔ p ∈ s.pk.slots ∧ mayTake s p.2 := by
  have serves (ctx : BitVec 32) : s.servesContext ctx = true ↔
      ∀ p b, s.loan = some (p, b) → ∃ c ∈ s.pk.contexts, c.id = ctx ∧ c.partition = b := by
    unfold State.servesContext
    cases s.loan with
    | none => simp
    | some l => obtain ⟨p, b⟩ := l; simp [List.any_eq_true]
  simp only [State.takeable, List.mem_filter, mayTake, Bool.and_eq_true, Bool.or_eq_true, beq_iff_eq, Bool.not_eq_true',
    Option.isNone_iff_eq_none, serves, and_assoc]

/-! ## A rejected record (R399) -/

/-- A change of one strand that keeps its run state keeps every strand's. -/
theorem State.onStrand_run (s : State) (x y : StrandId) {f : Strand → Strand} (h : (f (s.strand x)).run = (s.strand x).run) :
    ((s.onStrand x f).strand y).run = (s.strand y).run := by
  by_cases hyx : y = x
  · rw [hyx, State.onStrand_strand, h]
  · rw [State.onStrand_other _ _ hyx]

@[simp] theorem State.enqueue_pk (s : State) (r : FaultRecord) : (s.enqueue r).pk = s.pk := by
  unfold State.enqueue State.interrupt
  split_ifs <;> rfl

/-- A record that stops no strand, and is no fault of K's own, is queued and no more. -/
theorem State.queueRecord_nonStopping (s : State) {r : FaultRecord} (hs : nonStopping r.raised = true)
    (hc : r.cls = .asynchronous) : s.queueRecord r = s.enqueue r := by
  have stays : s.stopFor r = s := by
    have hstops : r.stops = false := by simp [FaultRecord.stops, hs]
    have hcall : r.raised ≠ cHypercall := fun h => by rw [h] at hs; exact absurd hs (by decide)
    simp only [State.stopFor, if_neg hcall, hstops, Bool.not_false, if_true, ite_self]
  have own : r.own = false := by simp [FaultRecord.own, hc]
  simp only [State.queueRecord, stays, own, Bool.false_and, Bool.false_eq_true, if_false]

/-- Raising a record of the system that stops no strand leaves memory, the slot table and the strands' run states as they are. -/
theorem State.raise_nonStopping {s : State} {r : FaultRecord} (hs : nonStopping r.raised = true) (hc : r.cls = .asynchronous)
    (hd : deliveredAtH r.cause = false) (hr : r.resume = .nothing) :
    (s.raise r).pk.mu = s.pk.mu ∧ (s.raise r).pk.slots = s.pk.slots ∧
      ∀ x, ((s.raise r).strand x).run = (s.strand x).run := by
  have hooked (y : StrandId) : ((s.onStrand r.strand (·.unhooked r)).strand y).run = (s.strand y).run :=
    s.onStrand_run r.strand y rfl
  have acted (n : BitVec 4) (y : StrandId) :
      (((s.onStrand r.strand (·.unhooked r)).slotActs n r.strand).strand y).run = (s.strand y).run :=
    (State.onStrand_run _ r.strand y rfl).trans (hooked y)
  obtain ⟨h, -⟩ | ⟨-, h | ⟨n, c, h⟩ | ⟨n, k, p, h⟩⟩ := s.raise_cases r
  · exact absurd (h.symm.trans hd) nofun
  · rw [h, State.queueRecord_nonStopping _ hs hc]
    exact ⟨by rw [State.enqueue_pk]; rfl, by rw [State.enqueue_pk]; rfl, fun x => by rw [State.enqueue_strand, hooked]⟩
  · rw [h, State.queueRecord_nonStopping _ (r := { r with cause := c, slot := n }) hs hc]
    exact ⟨by rw [State.enqueue_pk]; rfl, by rw [State.enqueue_pk]; rfl, fun x => by rw [State.enqueue_strand, acted]⟩
  · rw [h, hr]
    exact ⟨rfl, rfl, fun x => (State.onStrand_run _ r.strand x (by rfl)).trans (acted n x)⟩

/-! ## The steps of the dispatcher and the loader (R397 to R399) -/

/-- DETAIL of a PLANE_SWAP: the code of the rejection, and above it the number of the entry (R399). -/
theorem rejectDetail_eq (c : BitVec 8) (n : Nat) :
    (place 64 c 0 ||| place 64 (BitVec.ofNat 8 n) 8 : BitVec 64) = BitVec.ofNat 64 (c.toNat + n % 256 * 256) := by
  have hc : c.toNat < 2 ^ 8 := c.isLt
  have sum := Nat.shiftLeft_add_eq_or_of_lt hc (n % 2 ^ 8)
  have hsmall : (n % 2 ^ 8) <<< 8 < 2 ^ 64 := by rw [Nat.shiftLeft_eq]; omega
  apply BitVec.eq_of_toNat_eq
  simp only [place, BitVec.toNat_or, BitVec.toNat_shiftLeft, BitVec.toNat_setWidth, BitVec.toNat_ofNat, Nat.shiftLeft_zero]
  rw [Nat.mod_eq_of_lt (show n % 2 ^ 8 < 2 ^ 64 by omega), Nat.mod_eq_of_lt hsmall, Nat.mod_mod,
    Nat.mod_eq_of_lt (show c.toNat < 2 ^ 64 by omega), Nat.or_comm, ← sum, Nat.shiftLeft_eq]
  omega

/-- A record that is rejected: its entry says why, and where no task runs here Hearth gets a PLANE_SWAP with the code and the entry. -/
theorem State.rejectEntry_results (s : State) (n : Nat) (c : BitVec 8) (here : Bool) :
    let t := s.rejectEntry n c here
    (kGet SlotEntry.zero t.pk.slots n).state = .rejected ∧ (kGet SlotEntry.zero t.pk.slots n).det = c ∧ t.pk.mu = s.pk.mu ∧
      (∀ x, (t.strand x).run = (s.strand x).run) ∧
      (here = false ∨ s.pk.ending = 4 → ∃ r, t.sys.hDue = s.sys.hDue ++ [r] ∧ r.cause = 0x3A ∧
        r.detail = BitVec.ofNat 64 (c.toNat + n % 256 * 256)) := by
  have slot := s.setEntry_slot n .rejected c
  generalize ht : s.rejectEntry n c here = t
  simp only [State.rejectEntry] at ht
  split_ifs at ht with h <;> subst ht
  · simp only [Bool.and_eq_true, State.hasTask, decide_eq_true_eq] at h
    obtain ⟨hmu, hslots, hrun⟩ := State.raise_nonStopping (s := s.setEntry n .rejected c)
      (r := State.record _ .K cPlaneSwap .asynchronous _ 0 0 _ .nothing 0) (by rfl) rfl (by rfl) rfl
    refine ⟨?_, ?_, hmu, hrun, fun h' => ?_⟩
    · exact (congrArg (fun l => (kGet SlotEntry.zero l n).state) hslots).trans (congrArg SlotEntry.state slot)
    · exact (congrArg (fun l => (kGet SlotEntry.zero l n).det) hslots).trans (congrArg SlotEntry.det slot)
    · rcases h' with h' | h'
      · exact absurd (h.1.symm.trans h') nofun
      · exact absurd h' h.2
  · exact ⟨congrArg SlotEntry.state slot, congrArg SlotEntry.det slot, rfl, fun x => rfl, fun _ =>
      ⟨_, rfl, rfl, rejectDetail_eq c n⟩⟩

/-- An entry takes a state, and the shadow plane its task. -/
theorem State.enterShadow_results (s : State) (n : Nat) (st : EntryState) (p : Plane) :
    let t := (s.setEntry n st 0).putShadow p
    (kGet SlotEntry.zero t.pk.slots n).state = st ∧ t.shadow = p ∧ t.plane = s.plane ∧ t.core = s.core ∧ t.pk.mu = s.pk.mu := by
  refine ⟨?_, State.putShadow_shadow _ _, State.putShadow_plane _ _, rfl, State.putShadow_mu _ _⟩
  rw [State.putShadow_slots, State.setEntry_slot]

/-- With nothing that it may take the dispatcher does nothing. -/
theorem execDispatchTakeEntry_none {s : State} (h : ∀ p ∈ s.pk.slots, ¬mayTake s p.2) : exec .dispatchTakeEntry s = .next s := by
  have none : s.takeable = [] := List.eq_nil_iff_forall_not_mem.mpr fun p hp =>
    h p ((s.mem_takeable p).mp hp).1 ((s.mem_takeable p).mp hp).2
  show execDispatchTakeEntry s = _
  simp only [execDispatchTakeEntry, none, leastSeq]

/-- The dispatcher takes the entry of least SEQ among those that it may take. -/
theorem execDispatchTakeEntry_takes {s : State} {n : Nat} {e : SlotEntry} (hm : (n, e) ∈ s.pk.slots) (he : mayTake s e)
    (least : ∀ p ∈ s.pk.slots, p ≠ (n, e) → mayTake s p.2 → e.seq < p.2.seq) :
    exec .dispatchTakeEntry s = .next (
      if s.bindFault (s.bindBytes e) ≠ 0 then
        s.rejectEntry n (s.bindFault (s.bindBytes e)) (s.bindPlace (readBind (s.bindBytes e))).valid
      else (s.setEntry n .loading 0).putShadow
        { Plane.empty with bind := readBind (s.bindBytes e), entry := some (BitVec.ofNat 8 n) }) := by
  have chosen : leastSeq s.takeable = some (n, e) := by
    refine leastSeq_eq ((s.mem_takeable _).mpr ⟨hm, he⟩) fun f hf hfe => ?_
    obtain ⟨hfs, hft⟩ := (s.mem_takeable f).mp hf
    exact least f hfs hfe hft
  show execDispatchTakeEntry s = _
  simp only [execDispatchTakeEntry, chosen]

/-- The loader fills the shadow plane with the task of its record. -/
theorem execPlaneLoadComplete_eq {s : State} {n : BitVec 8} {o : PlaneObject} (hn : s.shadow.entry = some n)
    (ho : s.objectOf s.shadow.bind.obj = some o) :
    exec .planeLoadComplete s = .next (if s.shadow.loaded then s else (s.setEntry n.toNat .loaded 0).putShadow
      { s.shadow with object := s.resolve o, named := s.namedBy o, loaded := true }) := by
  show execPlaneLoadComplete s = _
  simp only [execPlaneLoadComplete, hn, ho]

end Sys2Proof.Machine
end

section
/-!
PROOFS. The swap (R12, R393, R400, R401): what each part of it changes, what the new task finds, and when the token waits.
-/
namespace Sys2Proof.Machine

/-! ## What the parts of a swap change -/

/-- A write of physical bytes changes memory, and nothing else. -/
theorem State.physPut_eq (s : State) (pa : Nat) (bs : List (BitVec 8)) :
    s.physPut pa bs = s.onMu fun m => { m with mem := (s.physPut pa bs).pk.mu.mem } := rfl

/-- The overflow records are written to memory. -/
theorem State.syncOverflow_frame (s : State) : ∃ mem, s.syncOverflow = s.onMu fun m => { m with mem := mem } := by
  refine List.foldlRecOn (motive := fun t => ∃ mem, t = s.onMu fun m => { m with mem := mem }) s.core.side _ ⟨s.pk.mu.mem, rfl⟩ ?_
  rintro t ⟨mem, h⟩ e -
  split
  · exact ⟨_, by rw [State.physPut_eq, h]; rfl⟩
  · exact ⟨mem, h⟩

/-- The data sections of an object go to the scratchpad. -/
theorem State.copySections_frame (s : State) (o : PlaneObject) :
    ∃ b, s.copySections o = s.onMu fun m => { m with scratch := b } := by
  refine List.foldlRecOn (motive := fun t => ∃ b, t = s.onMu fun m => { m with scratch := b }) o.sections _ ⟨s.pk.mu.scratch, rfl⟩ ?_
  rintro _ ⟨b, rfl⟩ d -
  exact ⟨_, rfl⟩

/-- Settling changes the record of what reads may still find, and nothing else. -/
theorem State.settleStale_frame (s : State) (w y : BitVec 5) :
    ∃ l, s.settleStale w y = s.onMu fun m => { m with stale := l } := by
  unfold State.settleStale
  split
  · exact ⟨s.pk.mu.stale, rfl⟩
  · exact ⟨_, rfl⟩

/-- What the tiles have held joins the past values. -/
theorem State.keepTiles_frame (s : State) : ∃ l, s.keepTiles = s.onVec fun v => { v with past := l } := by
  refine List.foldlRecOn (motive := fun t => ∃ l, t = s.onVec fun v => { v with past := l }) (List.range 64) _ ⟨s.core.vec.past, rfl⟩ ?_
  rintro _ ⟨l, rfl⟩ n -
  exact ⟨_, rfl⟩

/-- The pending sets of a core replace its active slots, one after the other (R393). -/
def Package.patched (k : Package) : Package :=
  k.patches.foldl (fun k p => { k with
    swage := installSet k.swage p
    vendorArb := if p.operator then k.vendorArb else p.arb
    operatorArb := if p.operator then p.arb else k.operatorArb }) k

theorem State.installPatches_eq (s : State) : s.installPatches = s.onPk fun k => { k.patched with patches := [] } := rfl

theorem Package.patched_none {k : Package} (h : k.patches = []) : k.patched = k := by simp only [patched, h, List.foldl_nil]

/-- Installing the pending sets changes the active slots and their counters, and nothing else. -/
theorem Package.patched_frame (k : Package) : ∃ w v o, k.patched = { k with swage := w, vendorArb := v, operatorArb := o } := by
  refine List.foldlRecOn (motive := fun l : Package => ∃ w v o, l = { k with swage := w, vendorArb := v, operatorArb := o })
    k.patches _ ⟨k.swage, k.vendorArb, k.operatorArb, rfl⟩ ?_
  rintro _ ⟨w, v, o, rfl⟩ p -
  exact ⟨installSet w p, if p.operator then v else p.arb, if p.operator then p.arb else o, rfl⟩

/-- Installing the pending sets (R393). -/
theorem State.installPatches_frame (s : State) :
    ∃ w v o, s.installPatches = (s.onPk fun k => { k with swage := w, vendorArb := v, operatorArb := o, patches := [] }) ∧
      (s.pk.patches = [] → w = s.pk.swage) := by
  obtain ⟨w, v, o, h⟩ := s.pk.patched_frame
  refine ⟨w, v, o, ?_, fun hp => ?_⟩
  · rw [State.installPatches_eq, State.onPk, h]; rfl
  · exact (congrArg Package.swage h).symm.trans (congrArg Package.swage (Package.patched_none hp))

/-! ## The stages of a swap -/

/-- The first part of a swap: the planes turn, and what the outgoing task leaves in the core goes (R12, R401). -/
def State.turned (s : State) : State :=
  ((s.installPatches.leaveEngines.onSys fun y => { y with planeAct := !y.planeAct }).putShadow Plane.empty).clearTask

/-- What stands in a state after the planes have turned. -/
structure State.TurnedFrom (s t : State) : Prop where
  act : t.sys.planeAct = !s.sys.planeAct
  plane : t.plane = s.shadow
  shadow : t.shadow = Plane.empty
  slag : t.core.slag = []
  tags : t.core.tags = s.core.tags
  mat : t.core.mat.acc = s.core.mat.acc ∧ t.core.mat.cells = s.core.mat.cells ∧ t.core.mat.bstat = s.core.mat.bstat
  patches : t.pk.patches = []
  swage : s.pk.patches = [] → t.pk.swage = s.pk.swage

/-- The outgoing task's engines leave the planes, the slots of Swage, the tags and the accumulators as they are (R12). -/
theorem State.leaveEngines_keeps (s : State) :
    let t := s.leaveEngines
    t.sys = s.sys ∧ t.core.tags = s.core.tags ∧ (t.core.mat.acc = s.core.mat.acc ∧ t.core.mat.cells = s.core.mat.cells ∧
      t.core.mat.bstat = s.core.mat.bstat) ∧ t.pk.plane0 = s.pk.plane0 ∧ t.pk.plane1 = s.pk.plane1 ∧ t.pk.patches = s.pk.patches ∧
      t.pk.swage = s.pk.swage := by
  generalize ht : s.leaveEngines = t
  simp only [State.leaveEngines] at ht
  obtain ⟨mem, h⟩ := State.syncOverflow_frame ((s.onMat fun m => { m with
    queue := if m.queue.any (·.held) then [] else m.queue.map fun o => { o with atS := true } }).onCore fun c => { c with
      rowq := (c.rowq.filter fun r => !r.held).map fun r => { r with atS := true }
      chainq := (c.chainq.filter fun p => !p.held).map fun p => { p with atS := true }
      side := (c.side.filter fun e => e.state != .faulted).map fun e => { e with atS := true } })
  rw [h] at ht
  subst ht
  exact ⟨rfl, rfl, ⟨rfl, rfl, rfl⟩, rfl, rfl, rfl, rfl⟩

/-- Clearing the task leaves the package, the plane in force, the tags and the accumulators, and leaves no slag (R401). -/
theorem State.clearTask_keeps (s : State) :
    let t := s.clearTask
    t.pk = s.pk ∧ t.sys.planeAct = s.sys.planeAct ∧ t.core.tags = s.core.tags ∧ (t.core.mat.acc = s.core.mat.acc ∧
      t.core.mat.cells = s.core.mat.cells ∧ t.core.mat.bstat = s.core.mat.bstat) ∧ t.core.slag = [] := by
  exact ⟨rfl, rfl, rfl, ⟨rfl, rfl, rfl⟩, rfl⟩

/-- A state with the same package and plane in force has the same planes. -/
theorem State.planes_congr {s t : State} (h0 : t.pk.plane0 = s.pk.plane0) (h1 : t.pk.plane1 = s.pk.plane1)
    (ha : t.sys.planeAct = s.sys.planeAct) : t.plane = s.plane ∧ t.shadow = s.shadow := by
  simp only [State.plane, State.shadow, h0, h1, ha, and_self]

/-- Once the planes have turned, the shadow plane is the running one, and the other is empty. -/
theorem State.turn_planes (s : State) :
    let t := (s.onSys fun y => { y with planeAct := !y.planeAct }).putShadow Plane.empty
    t.plane = s.shadow ∧ t.shadow = Plane.empty := by
  refine ⟨?_, State.putShadow_shadow _ _⟩
  show State.plane (State.putShadow _ _) = _
  rw [State.putShadow_plane]
  cases h : s.sys.planeAct <;> simp [State.plane, State.shadow, h]

theorem State.turned_turnedFrom (s : State) : s.TurnedFrom s.turned := by
  obtain ⟨w, v, o, hp, hw⟩ := s.installPatches_frame
  obtain ⟨hsys, htags, hmat, h0, h1, hpatches, hswage⟩ := s.installPatches.leaveEngines_keeps
  unfold State.turned
  generalize s.installPatches.leaveEngines = u at *
  obtain ⟨hplane, hshadow⟩ := u.turn_planes
  obtain ⟨p0, p1, hframe⟩ := (u.onSys fun y => { y with planeAct := !y.planeAct }).putShadow_frame Plane.empty
  generalize hv : (u.onSys fun y => { y with planeAct := !y.planeAct }).putShadow Plane.empty = v at *
  obtain ⟨cpk, cact, ctags, cmat, cslag⟩ := v.clearTask_keeps
  rw [hp] at hsys htags hmat h0 h1 hpatches hswage
  have same := State.planes_congr h0 h1 (congrArg System.planeAct hsys)
  have cleared := State.planes_congr (congrArg Package.plane0 cpk) (congrArg Package.plane1 cpk) cact
  exact {
    act := by rw [cact, hframe]; exact congrArg (!·.planeAct) hsys
    plane := cleared.1.trans (hplane.trans same.2)
    shadow := cleared.2.trans hshadow
    slag := cslag
    tags := by rw [ctags, hframe]; exact htags
    mat := by rw [cmat.1, cmat.2.1, cmat.2.2, hframe]; exact hmat
    patches := by rw [cpk, hframe]; exact hpatches
    swage := fun h => by rw [cpk, hframe]; exact hswage.trans (hw h) }

/-- The second part of a swap: every strand stands at the start of the task of a plane (R398, R401). -/
def State.started (s : State) (p : Plane) : State :=
  let o := p.object
  let b := p.bind
  let s := (s.onSys (startSys o b)).onQu (startQuench b)
  let member := s.memberOf b.ctx b.lcore
  let s := strandIds.foldl (fun s x => s.onStrand x (startStrand o b member x)) s
  let s := (s.onCore fun c => { c with areg := o.window.a }).onVec fun v => { v with vmask := o.window.vmask }
  let s := s.onMat fun m => { m with zc := 0, zfree := 0, chkBase := m.chk, loadTop := 0, keptAccs := 0, sums := [] }
  let s := (s.copySections o).onMu fun m => { m with touchmark := 0, tmval := if b.recorded then b.tmval else 0 }
  let base := s.pk.pcore.toNat * 16
  s.onPk fun k => { k with
    ending := 0, lastCtx := some b.ctx, sliceDue := false, sliceRun := 0, barriers := []
    rings := k.rings.map fun r => if base ≤ r.1 ∧ r.1 < base + 16 then (r.1, { r.2 with passed := 0 }) else r }

/-- What stands in a state once the task of a plane has been started. -/
structure State.StartedFrom (p : Plane) (s t : State) : Prop where
  sys : t.sys = startSys p.object p.bind s.sys
  planes : t.plane = s.plane ∧ t.shadow = s.shadow
  bound : t.pk.ending = 0 ∧ t.pk.lastCtx = some p.bind.ctx
  hk : t.core.qu.hk = 0
  slag : t.core.slag = s.core.slag
  touchmark : t.pk.mu.touchmark = 0
  window : t.core.areg = p.object.window.a ∧ t.core.vec.vmask = p.object.window.vmask
  swage : t.pk.swage = s.pk.swage ∧ t.pk.patches = s.pk.patches
  tags : t.core.tags = s.core.tags
  mat : t.core.mat.acc = s.core.mat.acc ∧ t.core.mat.cells = s.core.mat.cells ∧ t.core.mat.bstat = s.core.mat.bstat
  strand : ∀ x, ∃ member, t.strand x = startStrand p.object p.bind member x (s.strand x)

theorem State.started_startedFrom (s : State) (p : Plane) : s.StartedFrom p (s.started p) := by
  generalize ht : s.started p = t
  simp only [State.started] at ht
  generalize hm : ((s.onSys (startSys p.object p.bind)).onQu (startQuench p.bind)).memberOf p.bind.ctx p.bind.lcore = member at ht
  obtain ⟨b, h⟩ := State.copySections_frame (State.onMat
    (((strandIds.foldl (fun s x => s.onStrand x (startStrand p.object p.bind member x))
      ((s.onSys (startSys p.object p.bind)).onQu (startQuench p.bind))).onCore fun c => { c with areg := p.object.window.a }).onVec
      fun v => { v with vmask := p.object.window.vmask })
    fun m => { m with zc := 0, zfree := 0, chkBase := m.chk, loadTop := 0, keptAccs := 0, sums := [] }) p.object
  rw [h] at ht
  subst ht
  exact ⟨rfl, ⟨rfl, rfl⟩, ⟨rfl, rfl⟩, rfl, rfl, rfl, ⟨rfl, rfl⟩, ⟨rfl, rfl⟩, rfl, ⟨rfl, rfl, rfl⟩,
    fun x => ⟨member, by cases x <;> rfl⟩⟩

/-- The entry of a plane, where it came from the slot table, takes a state. -/
def State.markEntry (s : State) (entry : Option (BitVec 8)) (st : EntryState) (det : BitVec 8) : State :=
  match entry with
  | some n => s.setEntry n.toNat st det
  | none => s

/-- Marking an entry changes the slot table, and nothing else. -/
theorem State.markEntry_frame (s : State) (entry : Option (BitVec 8)) (st : EntryState) (det : BitVec 8) :
    ∃ l, s.markEntry entry st det = (s.onPk fun k => { k with slots := l }) ∧
      ∀ n, entry = some n → kGet SlotEntry.zero l n.toNat = { kGet SlotEntry.zero s.pk.slots n.toNat with state := st, det := det } := by
  cases entry with
  | none => exact ⟨s.pk.slots, rfl, fun n h => absurd h nofun⟩
  | some n => exact ⟨_, rfl, fun m h => by obtain rfl := Option.some.inj h; exact kGet_kSet _ _ _ _⟩

/-- The last part of a swap: the entry runs, the acquire is made, and the entry images are taken (R39, R46, R397). -/
def State.entered (s : State) (entry : Option (BitVec 8)) (trail : BitVec 5) : State :=
  strandIds.foldl (fun s x => s.takeImage x true) ((s.markEntry entry .running 0).settleStale trail allClasses)

theorem State.flipPlanes_eq (s : State) : s.flipPlanes = (s.turned.started s.shadow).entered s.shadow.entry s.sys.trail := rfl

/-- What of a state no taking of an image touches. -/
def State.apartFromImages (s : State) : Package × System × VectorState × MatrixState × Bank × Cells 128 × List SlagEntry × Nat :=
  (s.pk, s.sys, s.core.vec, s.core.mat, s.core.areg, s.core.tags, s.core.slag, s.core.qu.hk)

/-- What taking an image makes of a strand: at or above the horizon it has one more, at its coordinate (R21, R337). -/
def hasImage (e : Bool) (hk : Nat) (t u : Strand) : Prop :=
  ∃ l, u = { t with images := l } ∧ (hk ≤ t.coord.key → ∃ i, l = t.images ++ [i] ∧ i.entry = e ∧ i.coord = t.coord)

/-- Every strand takes an image. -/
theorem State.takeImages_results (s : State) (e : Bool) :
    let t := strandIds.foldl (fun s x => s.takeImage x e) s
    t.apartFromImages = s.apartFromImages ∧ ∀ x, hasImage e s.core.qu.hk (s.strand x) (t.strand x) := by
  refine foldl_strandIds (view := State.apartFromImages) (R := fun _ => hasImage e s.core.qu.hk) (fun u x => ?_) (fun u x y hyx => ?_)
    (fun u x hu => ?_)
  · obtain ⟨l, n, h⟩ := u.takeImage_frame x e
    rw [h]
    cases x <;> rfl
  · obtain ⟨l, n, h⟩ := u.takeImage_frame x e
    rw [h, State.onQu_strand, State.onStrand_other _ _ hyx]
  · have hk : u.core.qu.hk = s.core.qu.hk := congrArg (·.2.2.2.2.2.2.2) hu
    by_cases hle : u.core.qu.hk ≤ (u.strand x).coord.key
    · simp only [State.takeImage, if_pos hle, State.onQu_strand, State.onStrand_strand]
      exact ⟨_, rfl, fun _ => ⟨_, rfl, rfl, rfl⟩⟩
    · simp only [State.takeImage, if_neg hle]
      exact ⟨_, rfl, fun h => absurd (hk ▸ h) hle⟩

/-- The task of the shadow plane runs, each strand at the start of it (R12, R401). -/
structure State.Starts (s t : State) : Prop where
  act : t.sys.planeAct = !s.sys.planeAct
  plane : t.plane = s.shadow
  shadow : t.shadow = Plane.empty
  sys : ∃ y, t.sys = startSys s.shadow.object s.shadow.bind y
  bound : t.pk.ending = 0 ∧ t.pk.lastCtx = some s.shadow.bind.ctx
  fresh : t.core.qu.hk = 0 ∧ t.core.slag = [] ∧ t.pk.mu.touchmark = 0
  window : t.core.areg = s.shadow.object.window.a ∧ t.core.vec.vmask = s.shadow.object.window.vmask
  entry : ∀ n, s.shadow.entry = some n → (kGet SlotEntry.zero t.pk.slots n.toNat).state = .running
  swage : (s.pk.patches = [] → t.pk.swage = s.pk.swage) ∧ t.pk.patches = []
  tags : t.core.tags = s.core.tags
  mat : t.core.mat.acc = s.core.mat.acc ∧ t.core.mat.cells = s.core.mat.cells ∧ t.core.mat.bstat = s.core.mat.bstat
  strand : ∀ x, ∃ member u i, t.strand x = { startStrand s.shadow.object s.shadow.bind member x u with images := [i] } ∧
    i.entry = true ∧ i.coord = (t.strand x).coord

/-- The last part of a swap leaves all but images and the slot table, and each strand has its entry image. -/
theorem State.entered_results (s : State) (entry : Option (BitVec 8)) (trail : BitVec 5) (hk : s.core.qu.hk = 0) :
    let t := s.entered entry trail
    ∃ l stale, t.apartFromImages = (s.onPk fun k => { k with slots := l, mu := { k.mu with stale := stale } }).apartFromImages ∧
      (∀ n, entry = some n → (kGet SlotEntry.zero l n.toNat).state = .running) ∧
      ∀ x, ∃ i, t.strand x = { s.strand x with images := (s.strand x).images ++ [i] } ∧ i.entry = true ∧ i.coord = (s.strand x).coord := by
  obtain ⟨l, hl, hrun⟩ := s.markEntry_frame entry .running 0
  obtain ⟨stale, hstale⟩ := (s.markEntry entry .running 0).settleStale_frame trail allClasses
  obtain ⟨kept, strands⟩ := ((s.markEntry entry .running 0).settleStale trail allClasses).takeImages_results true
  rw [hl] at hstale
  rw [hl, hstale] at kept strands
  refine ⟨l, stale, ?_, fun n h => by rw [hrun n h], fun x => ?_⟩
  · simp only [State.entered, hl, hstale]
    exact kept
  · obtain ⟨_, hu, himage⟩ := strands x
    obtain ⟨i, rfl, hi⟩ := himage (hk ▸ Nat.zero_le _)
    refine ⟨i, ?_, hi⟩
    simp only [State.entered, hl, hstale]
    exact hu

theorem State.flipPlanes_starts (s : State) : s.Starts s.flipPlanes := by
  obtain ⟨act, plane, shadow, slag, tags, mat, patches, swage⟩ := s.turned_turnedFrom
  obtain ⟨sys', planes', bound', hk', slag', touchmark', window', swage', tags', mat', strand'⟩ :=
    s.turned.started_startedFrom s.shadow
  obtain ⟨l, stale, kept, hrun, images⟩ := (s.turned.started s.shadow).entered_results s.shadow.entry s.sys.trail hk'
  rw [State.flipPlanes_eq]
  generalize s.turned = u at *
  generalize u.started s.shadow = v at *
  generalize v.entered s.shadow.entry s.sys.trail = t at *
  obtain ⟨hpk, hsys, hvec, hmat, hareg, htags, hslag, hhk⟩ : t.pk = _ ∧ t.sys = _ ∧ t.core.vec = _ ∧ t.core.mat = _ ∧ t.core.areg = _ ∧
    t.core.tags = _ ∧ t.core.slag = _ ∧ t.core.qu.hk = _ := by
    simpa only [State.apartFromImages, Prod.mk.injEq] using kept
  have same := State.planes_congr (s := v) (t := t) (by rw [hpk]; rfl) (by rw [hpk]; rfl) (congrArg System.planeAct hsys)
  exact {
    act := by rw [hsys]; exact (congrArg System.planeAct sys').trans act
    plane := by rw [same.1, planes'.1, plane]
    shadow := by rw [same.2, planes'.2, shadow]
    sys := ⟨u.sys, hsys.trans sys'⟩
    bound := by rw [hpk]; exact bound'
    fresh := by rw [hpk, hslag, hhk]; exact ⟨hk', slag'.trans slag, touchmark'⟩
    window := by rw [hareg, hvec]; exact window'
    entry := by rw [hpk]; exact hrun
    swage := by rw [hpk]; exact ⟨fun h => swage'.1.trans (swage h), swage'.2.trans patches⟩
    tags := by rw [htags]; exact tags'.trans tags
    mat := by rw [hmat]; exact ⟨mat'.1.trans mat.1, mat'.2.1.trans mat.2.1, mat'.2.2.trans mat.2.2⟩
    strand := fun x => by
      obtain ⟨member, hm⟩ := strand' x
      obtain ⟨i, hi, hentry, hcoord⟩ := images x
      rw [hm] at hi hcoord
      rw [hi]
      exact ⟨member, u.strand x, i, rfl, hentry, hcoord⟩ }

/-! ## The task of the shadow plane (R400, R401) -/

theorem State.swapTask_same {s : State} (hc : s.pk.lastCtx = some s.shadow.bind.ctx) (hr : successorReady s)
    (hi : s.imageFor s.shadow.bind = none) : s.swapTask = s.keepTiles.flipPlanes := by
  obtain ⟨hl, inputs⟩ := hr
  have ready : s.sready = true := by simp [State.sready, hl, hi, hc, (inputs hi).1 hc]
  simp only [State.swapTask, if_pos hc, if_pos ready]

theorem State.swapTask_other {s : State} (hc : s.pk.lastCtx ≠ some s.shadow.bind.ctx) (hr : successorReady s)
    (hi : s.imageFor s.shadow.bind = none) :
    s.swapTask = (s.scrubContext.onPk fun k => { k with lastCtx := some s.shadow.bind.ctx }).flipPlanes := by
  obtain ⟨hl, inputs⟩ := hr
  have ready : (s.scrubContext.onPk fun k => { k with lastCtx := some s.shadow.bind.ctx }).sready = true := by
    generalize ht : (s.scrubContext.onPk fun k => { k with lastCtx := some s.shadow.bind.ctx }) = t
    have shadow : t.shadow = s.shadow := by subst ht; rfl
    have image : t.imageFor s.shadow.bind = s.imageFor s.shadow.bind := by subst ht; rfl
    have last : t.pk.lastCtx = some s.shadow.bind.ctx := by subst ht; rfl
    simp [State.sready, shadow, image, last, hl, hi, (inputs hi).2 hc, State.inputsReady]
  simp only [State.swapTask, if_neg hc, if_pos ready]

/-- A swap to a task: it starts, and a change of context has scrubbed the core first. -/
theorem State.swapTask_starts {s : State} (hr : successorReady s) (hi : s.imageFor s.shadow.bind = none) :
    ∃ u : State, u.Starts s.swapTask ∧ u.sys.planeAct = s.sys.planeAct ∧ u.shadow = s.shadow ∧ u.pk.patches = s.pk.patches ∧
      u.pk.swage = s.pk.swage ∧ (s.pk.lastCtx ≠ some s.shadow.bind.ctx →
        u.core.tags = [] ∧ u.core.mat.acc = [] ∧ u.core.mat.cells = [] ∧ u.core.mat.bstat = Resident.none) := by
  by_cases hc : s.pk.lastCtx = some s.shadow.bind.ctx
  · obtain ⟨l, h⟩ := s.keepTiles_frame
    rw [State.swapTask_same hc hr hi, h]
    exact ⟨_, State.flipPlanes_starts _, rfl, rfl, rfl, rfl, fun h => absurd hc h⟩
  · rw [State.swapTask_other hc hr hi]
    exact ⟨_, State.flipPlanes_starts _, rfl, rfl, rfl, rfl, fun _ => ⟨rfl, rfl, rfl, rfl⟩⟩

/-- What the new task finds (R12, R401). -/
theorem State.swapTask_results {s : State} (hr : successorReady s) (hi : s.imageFor s.shadow.bind = none) :
    let t := s.swapTask
    let b := s.shadow.bind
    let o := s.shadow.object
    t.sys.planeAct = !s.sys.planeAct ∧ t.plane = s.shadow ∧
      t.shadow = Plane.empty ∧ t.pk.ending = 0 ∧ t.pk.lastCtx = some b.ctx ∧ t.sys.ctx = b.ctx ∧ t.sys.lcore = b.lcore ∧
      t.sys.nest = b.nest ∧ t.sys.qlvl = b.qlvl ∧ t.sys.budget = b.budget ∧ t.sys.tvec = o.tvec ∧ t.sys.levelS = false ∧ t.sys.fq = [] ∧
      t.core.qu.hk = 0 ∧ t.core.slag = [] ∧ t.pk.mu.touchmark = 0 ∧ t.core.areg = o.window.a ∧ t.core.vec.vmask = o.window.vmask ∧
      (∀ n, s.shadow.entry = some n → (kGet SlotEntry.zero t.pk.slots n.toNat).state = .running) ∧
      (s.pk.patches = [] → t.pk.swage = s.pk.swage) ∧ t.pk.patches = [] ∧
      (∀ x, (t.strand x).run = .running ∧ (t.strand x).pc = o.entry.toList.getD (strandNum x) 0 ∧ (t.strand x).hdr = (t.strand x).pc ∧
        (t.strand x).calls = [] ∧ (t.strand x).coord = b.cbase.cutAfter (b.nest.toNat - 1) ∧ (t.strand x).phase = 0 ∧
        (t.strand x).flags = o.window.flags.toList.getD (strandNum x) 0 &&& 0x1F3F ∧
        (t.strand x).s = (match x with | .K => o.window.sK | .A => o.window.sA | .V => o.window.sV | .M => o.window.sM) ∧
        ∃ i, (t.strand x).images = [i] ∧ i.entry = true ∧ i.coord = (t.strand x).coord) ∧
      (s.pk.lastCtx ≠ some b.ctx →
        t.core.tags = [] ∧ t.core.mat.acc = [] ∧ t.core.mat.cells = [] ∧ t.core.mat.bstat = Resident.none) := by
  obtain ⟨u, starts, uact, ushadow, upatches, uswage, uscrubbed⟩ := State.swapTask_starts hr hi
  obtain ⟨act, plane, shadow, ⟨y, sys⟩, ⟨ending, lastCtx⟩, ⟨hk, slag, touchmark⟩, ⟨areg, vmask⟩, entry, ⟨swage, patches⟩, tags,
    ⟨acc, cells, bstat⟩, strand⟩ := starts
  rw [ushadow] at plane sys lastCtx areg vmask entry strand
  rw [uact] at act
  rw [upatches, uswage] at swage
  refine ⟨act, plane, shadow, ending, lastCtx, ?_, ?_, ?_, ?_, ?_, ?_, ?_, ?_, hk, slag, touchmark, areg, vmask, entry, swage, patches,
    fun x => ?_, fun hc => ?_⟩
  iterate 8 rw [sys]; rfl
  · obtain ⟨member, v, i, hx, hentry, hcoord⟩ := strand x
    rw [hx] at hcoord ⊢
    exact ⟨rfl, rfl, rfl, rfl, rfl, rfl, rfl, rfl, i, rfl, hentry, hcoord⟩
  · obtain ⟨utags, uacc, ucells, ubstat⟩ := uscrubbed hc
    exact ⟨tags.trans utags, acc.trans uacc, cells.trans ucells, bstat.trans ubstat⟩

end Sys2Proof.Machine
end

section
/-!
PROOFS. SWAP_TOKEN_FLIP (R400, R403): when the token waits, and what it comes to when it does not.
-/
namespace Sys2Proof.Machine

/-- The token waits while a task runs, no successor is loaded or it is held back, a quench is pending or asked for, Hearth has the core, or
a slice is to have it. -/
theorem execSwapTokenFlip_held {s : State} (h : s.pk.ending ≠ 4 ∨ s.shadow.loaded = false ∨ s.sys.sheld = true ∨
    s.core.qu.st = .pending ∨ s.core.qu.requests ≠ [] ∨ s.sys.stoppedByH = true ∨ s.sliceWaits = true) :
    exec .swapTokenFlip s = .next s := by
  have held : (s.hasTask || !s.shadow.loaded || s.sys.sheld || !s.noQuench || s.sys.stoppedByH || s.sliceWaits) = true := by
    rcases h with h | h | h | h | h | h | h <;> simp [State.hasTask, State.noQuench, h]
  show execSwapTokenFlip s = _
  simp only [execSwapTokenFlip, if_pos held]

section
variable {s : State} (h4 : s.pk.ending = 4) (hl : s.shadow.loaded = true) (hheld : s.sys.sheld = false)
  (hst : s.core.qu.st ≠ .pending) (hq : s.core.qu.requests = []) (hH : s.sys.stoppedByH = false) (hw : s.sliceWaits = false)
include h4 hl hheld hst hq hH hw

theorem not_swapHeld :
    ¬(s.hasTask || !s.shadow.loaded || s.sys.sheld || !s.noQuench || s.sys.stoppedByH || s.sliceWaits) = true := by
  simp [State.hasTask, State.noQuench, h4, hl, hheld, hst, hq, hH, hw]

/-- A record that names no saved context starts its task; a change of context waits for the engines (log 24). -/
theorem execSwapTokenFlip_task (hi : s.imageFor s.shadow.bind = none) : exec .swapTokenFlip s = .next
    (if s.pk.lastCtx != some s.shadow.bind.ctx && s.engineWork then s else s.swapTask) := by
  show execSwapTokenFlip s = _
  simp only [execSwapTokenFlip, if_neg (not_swapHeld h4 hl hheld hst hq hH hw), hi]

/-- A record that names a saved context restores it, once the engines have ended; one that may not be restored is rejected at once. -/
theorem execSwapTokenFlip_image {i : Image} (hi : s.imageFor s.shadow.bind = some i) : exec .swapTokenFlip s = .next
    (if s.engineWork && s.mayRestore i then s else s.swapImage i) := by
  show execSwapTokenFlip s = _
  simp only [execSwapTokenFlip, if_neg (not_swapHeld h4 hl hheld hst hq hH hw), hi]

end

end Sys2Proof.Machine
end

section
/-!
PROOFS. The restore of an image (R60, R110 to R112): what each part of it changes, and the task that then runs.
-/
namespace Sys2Proof.Machine

/-! ## The pairs of an image (R60) -/

/-- Pairs have been resolved: the registers that they name may have changed, and bytes of the scratchpad; nothing else has. -/
structure State.Filled (pairs : List (PairAt × Reloc)) (s t : State) : Prop where
  pk : ∃ b, t.pk = { s.pk with mu := { s.pk.mu with scratch := b } }
  sys : t.sys = s.sys
  tags : t.core.tags = s.core.tags
  mat : t.core.mat = s.core.mat
  areg : ∀ n : Fin 32, (∀ p ∈ pairs, ∀ x, p.1 ≠ .reg x (n + 32)) → t.core.areg[n] = s.core.areg[n]
  strand : ∀ x, ∃ b : Bank, t.strand x = { s.strand x with s := b } ∧
    ∀ n : Fin 32, (∀ p ∈ pairs, p.1 ≠ .reg x n) → b[n] = (s.strand x).s[n]

theorem State.Filled.refl (s : State) : State.Filled [] s s where
  pk := ⟨_, rfl⟩
  sys := rfl
  tags := rfl
  mat := rfl
  areg := fun _ _ => rfl
  strand := fun _ => ⟨_, rfl, fun _ _ => rfl⟩

theorem State.Filled.trans {l m : List (PairAt × Reloc)} {s t u : State} (h : State.Filled l s t) (g : State.Filled m t u) :
    State.Filled (l ++ m) s u where
  pk := by
    obtain ⟨b, hb⟩ := h.pk
    obtain ⟨c, hc⟩ := g.pk
    exact ⟨c, by rw [hc, hb]⟩
  sys := g.sys.trans h.sys
  tags := g.tags.trans h.tags
  mat := g.mat.trans h.mat
  areg := fun n hn => (g.areg n fun p hp => hn p (List.mem_append_right _ hp)).trans
    (h.areg n fun p hp => hn p (List.mem_append_left _ hp))
  strand := fun x => by
    obtain ⟨b, hb, hbn⟩ := h.strand x
    obtain ⟨c, hc, hcn⟩ := g.strand x
    refine ⟨c, by rw [hc, hb], fun n hn => ?_⟩
    rw [hcn n fun p hp => hn p (List.mem_append_right _ hp), hb]
    exact hbn n fun p hp => hn p (List.mem_append_left _ hp)

/-- A bank with one register replaced keeps the others. -/
theorem Bank.set!_other {b : Bank} {k : Nat} {v : BitVec 64} {n : Fin 32} (h : k ≠ n) : (b.set! k v)[n] = b[n] := by
  simp [h]

/-- A pair in a register changes that register alone, one in the scratchpad no register. -/
theorem State.fillPair_filled (s : State) (p : PairAt × Reloc) : State.Filled [p] s (s.fillPair p) := by
  obtain ⟨pl, r⟩ := p
  cases pl with
  | scratch off =>
    exact {
      pk := ⟨(s.fillPair (.scratch off, r)).pk.mu.scratch, rfl⟩
      sys := rfl
      tags := rfl
      mat := rfl
      areg := fun _ _ => rfl
      strand := fun _ => ⟨_, rfl, fun _ _ => rfl⟩ }
  | reg x k =>
    by_cases hk : k < 32
    · obtain ⟨v, hv⟩ : ∃ v, s.fillPair (.reg x k, r) = s.onStrand x fun t => { t with s := t.s.set! k v } := by
        simp only [State.fillPair, if_pos hk]
        exact ⟨_, rfl⟩
      rw [hv]
      exact {
        pk := ⟨_, rfl⟩
        sys := by simp
        tags := by simp
        mat := by simp
        areg := fun _ _ => by simp
        strand := fun y => by
          by_cases hy : y = x
          · subst hy
            refine ⟨_, State.onStrand_strand _ _ _, fun n hn => Bank.set!_other fun h => ?_⟩
            exact hn _ (List.mem_singleton.mpr rfl) (by rw [h])
          · exact ⟨(s.strand y).s, State.onStrand_other _ _ hy, fun _ _ => rfl⟩ }
    · obtain ⟨v, hv⟩ : ∃ v, s.fillPair (.reg x k, r) = s.onCore fun c => { c with areg := c.areg.set! (k - 32) v } := by
        simp only [State.fillPair, if_neg hk]
        exact ⟨_, rfl⟩
      rw [hv]
      exact {
        pk := ⟨_, rfl⟩
        sys := rfl
        tags := rfl
        mat := rfl
        areg := fun n hn => Bank.set!_other fun h => hn _ (List.mem_singleton.mpr rfl) x
          (congrArg (PairAt.reg x) (by omega : k = n + 32))
        strand := fun y => ⟨(s.strand y).s, by cases y <;> rfl, fun _ _ => rfl⟩ }

theorem State.fillPairs_filled (pairs : List (PairAt × Reloc)) (s : State) : State.Filled pairs s (pairs.foldl State.fillPair s) := by
  induction pairs generalizing s with
  | nil => exact State.Filled.refl s
  | cons p l ih => exact (s.fillPair_filled p).trans (ih _)

/-! ## The acquire of a restore or a save (R49) -/

/-- Only the memory unit's state has changed. -/
def State.onlyMemory (s t : State) : Prop := ∃ m : MemoryState, t = s.onMu fun _ => m

theorem State.onlyMemory.refl (s : State) : State.onlyMemory s s := ⟨s.pk.mu, rfl⟩

theorem State.onlyMemory.trans {s t u : State} (h : State.onlyMemory s t) (g : State.onlyMemory t u) : State.onlyMemory s u := by
  obtain ⟨m, rfl⟩ := h
  obtain ⟨m', rfl⟩ := g
  exact ⟨m', rfl⟩

/-- A fold of steps that change only memory changes only memory. -/
theorem State.onlyMemory_foldl {α : Type} {g : State → α → State} (h : ∀ s a, State.onlyMemory s (g s a)) (l : List α) (s : State) :
    State.onlyMemory s (l.foldl g s) :=
  List.foldlRecOn l g (State.onlyMemory.refl s) fun t ht a _ => ht.trans (h t a)

theorem State.applyStamped_onlyMemory (s : State) (w : StampedWrite) (e : Nat) : State.onlyMemory s (s.applyStamped w e) :=
  ⟨(s.applyStamped w e).pk.mu, rfl⟩

theorem State.deliverTo_onlyMemory (s : State) (e : Nat) : State.onlyMemory s (s.deliverTo e) := by
  refine State.onlyMemory_foldl (fun t w => ?_) _ s
  split
  · exact t.applyStamped_onlyMemory w e
  · exact State.onlyMemory.refl t

theorem State.refreshDie_onlyMemory (s : State) : State.onlyMemory s s.refreshDie := by
  refine (State.onlyMemory_foldl (fun t e => t.deliverTo_onlyMemory e) (List.range 4) s).trans ⟨s.refreshDie.pk.mu, ?_⟩
  rfl

/-- An acquire for every strand changes memory as its die's refresh does, and what the side log's entries have been found by. -/
theorem State.acquireAll_frame (s : State) : ∃ m side, s.acquireAll = ((s.onMu fun _ => m).onCore fun c => { c with side := side }) ∧
    m.mem = s.refreshDie.pk.mu.mem := by
  obtain ⟨l, hl⟩ := s.refreshDie.settleStale_frame allClasses allClasses
  obtain ⟨m, hm⟩ := s.refreshDie_onlyMemory
  have h : s.refreshDie.settleStale allClasses allClasses = s.onMu fun _ => { m with stale := l } := by rw [hl, hm]; rfl
  have mem : m.mem = s.refreshDie.pk.mu.mem := by rw [hm]; rfl
  simp only [State.acquireAll, State.settleAll, h]
  split
  · exact ⟨{ m with stale := l }, s.core.side, rfl, mem⟩
  · exact ⟨{ m with stale := l }, s.core.side.map fun e => e.found allClasses 0xF, rfl, mem⟩

/-! ## The stages of a restore -/

/-- The first part of a restore: the core is the image's, and the plane has the object (R110). -/
def State.imagePlaced (s : State) (i : Image) (o : PlaneObject) (named : List PlaneObject) (entry : Option (BitVec 8)) : State :=
  let own := s.core
  let act := !own.sys.planeAct
  let s := s.scrubContext
  let s := ({ s with core := i.coreOn own act }.putShadow Plane.empty).putPlane ⟨s.resolve o, named, i.bind, entry, true⟩
  s.onMu fun m => { m with
    scratch := cellPaste m.scratch (scratchBase s.pk.pcore.toNat) (2 ^ 22) i.scratch
    touchmark := i.touchmark, tmval := i.tmval }

/-- The further part: the strands are members of their domains, and the package knows the task (R115, R402). -/
def State.imageBound (s : State) (i : Image) (entry : Option (BitVec 8)) (base : Nat) : State :=
  let s := let m := s.memberOf i.ctx i.lcore; strandIds.foldl (fun s x => s.onStrand x fun t => { t with member := m }) s
  let key := i.ctx.toNat * 256 + i.lcore.toNat
  let s := s.onPk fun k => { k with
    rings := i.rings.foldl (fun l r => kSet l (base + r.1) r.2) k.rings
    headers := i.headers.foldl (fun l h => kSet l (base * 256 + h.1) h.2) k.headers
    remap := kSet k.remap key { kGet RemapEntry.zero k.remap key with valid := true, pcore := k.pcore }
    images := k.images.filter fun j => !(j.ctx == i.ctx && j.lcore == i.lcore)
    ending := 0, lastCtx := some i.ctx, sliceDue := false, sliceRun := 0 }
  s.markEntry entry .running 0

theorem State.installImage_eq (s : State) (i : Image) (o : PlaneObject) (named : List PlaneObject) (entry : Option (BitVec 8)) :
    s.installImage i o named entry = strandIds.foldl (fun s x => s.takeImage x false)
      (((i.pairs.foldl State.fillPair (s.imagePlaced i o named entry)).imageBound i entry (s.pk.pcore.toNat * 16)).acquireAll) := rfl

theorem State.imagePlaced_keeps (s : State) (i : Image) (o : PlaneObject) (named : List PlaneObject) (entry : Option (BitVec 8)) :
    let t := s.imagePlaced i o named entry
    t.core = i.coreOn s.core (!s.sys.planeAct) ∧ t.plane = ⟨s.resolve o, named, i.bind, entry, true⟩ ∧ t.pk.patches = s.pk.patches := by
  generalize hu : ({ s.scrubContext with core := i.coreOn s.core (!s.sys.planeAct) }.putShadow Plane.empty).putPlane
    ⟨s.resolve o, named, i.bind, entry, true⟩ = u
  have placed : s.imagePlaced i o named entry = u.onMu fun m => { m with
    scratch := cellPaste m.scratch (scratchBase u.pk.pcore.toNat) (2 ^ 22) i.scratch
    touchmark := i.touchmark, tmval := i.tmval } := by subst hu; rfl
  obtain ⟨p0, p1, h⟩ := State.putShadow_frame { s.scrubContext with core := i.coreOn s.core (!s.sys.planeAct) } Plane.empty
  obtain ⟨q0, q1, h'⟩ := State.putPlane_frame (State.putShadow { s.scrubContext with core := i.coreOn s.core (!s.sys.planeAct) } Plane.empty)
    ⟨s.resolve o, named, i.bind, entry, true⟩
  have hplane : u.plane = ⟨s.resolve o, named, i.bind, entry, true⟩ := by rw [← hu, State.putPlane_plane]
  rw [h] at h'
  rw [placed]
  refine ⟨?_, hplane, ?_⟩ <;> rw [← hu, h, h'] <;> rfl

/-- Binding an image's task changes the strands' memberships and what the package knows of the task. -/
structure State.BoundFrom (entry : Option (BitVec 8)) (s t : State) : Prop where
  ending : t.pk.ending = 0
  patches : t.pk.patches = s.pk.patches
  planes : t.plane = s.plane ∧ t.shadow = s.shadow
  entry : ∀ n, entry = some n → (kGet SlotEntry.zero t.pk.slots n.toNat).state = .running
  sys : t.sys = s.sys
  areg : t.core.areg = s.core.areg
  tags : t.core.tags = s.core.tags
  mat : t.core.mat = s.core.mat
  strand : ∀ x, ∃ m, t.strand x = { s.strand x with member := m }

theorem State.imageBound_boundFrom (s : State) (i : Image) (entry : Option (BitVec 8)) (base : Nat) :
    s.BoundFrom entry (s.imageBound i entry base) := by
  generalize ht : s.imageBound i entry base = t
  simp only [State.imageBound] at ht
  generalize hu : State.onPk (strandIds.foldl (fun u x => u.onStrand x fun t => { t with member := s.memberOf i.ctx i.lcore }) s) _ = u at ht
  obtain ⟨l, hl, hrun⟩ := u.markEntry_frame entry .running 0
  rw [hl] at ht
  have running (n : BitVec 8) (h : entry = some n) : (kGet SlotEntry.zero l n.toNat).state = .running := by rw [hrun n h]
  subst ht hu
  exact ⟨rfl, rfl, ⟨rfl, rfl⟩, running, rfl, rfl, rfl, rfl,
    fun x => ⟨s.memberOf i.ctx i.lcore, by cases x <;> rfl⟩⟩

/-- A strand after a restore stands where it stood. -/
theorem Image.coreOn_strand (i : Image) (own : Core) (act : Bool) (x : StrandId) :
    (i.coreOn own act).strand x = (i.core.strand x).restored (own.strand x)
      ((i.core.sys.fq ++ i.core.sys.fqWait).any fun r => r.strand == x && r.stops) := by cases x <;> rfl

/-- One that the save had stopped, or whose record has been popped, runs (R101, R112). -/
theorem Strand.restored_run {t own : Strand} {q : List FaultRecord} {x : StrandId}
    (h : t.run = .saved ∨ (t.run = .faulted ∧ ∀ r ∈ q, r.strand = x → r.stops = false)) :
    (t.restored own (q.any fun r => r.strand == x && r.stops)).run = .running := by
  rcases h with h | ⟨h, none⟩
  · simp [Strand.restored, h]
  · have : (q.any fun r => r.strand == x && r.stops) = false := by
      simpa [List.any_eq_false] using none
    simp [Strand.restored, h, this]

/-- After a restore the core is the image's, but for the registers that hold resolved pairs, the strands' memberships and their cut images. -/
theorem State.installImage_core (s : State) (i : Image) (o : PlaneObject) (named : List PlaneObject) (entry : Option (BitVec 8)) :
    let t := s.installImage i o named entry
    let c := i.coreOn s.core (!s.sys.planeAct)
    t.pk.ending = 0 ∧ t.pk.patches = s.pk.patches ∧ t.plane = ⟨s.resolve o, named, i.bind, entry, true⟩ ∧
      (∀ n, entry = some n → (kGet SlotEntry.zero t.pk.slots n.toNat).state = .running) ∧
      t.sys = c.sys ∧ t.core.tags = c.tags ∧ t.core.mat = c.mat ∧
      (∀ n : Fin 32, (∀ p ∈ i.pairs, ∀ x, p.1 ≠ .reg x (n + 32)) → t.core.areg[n] = c.areg[n]) ∧
      ∀ x, ∃ images member bank, t.strand x = { c.strand x with images := images, member := member, s := bank } ∧
        ∀ n : Fin 32, (∀ p ∈ i.pairs, p.1 ≠ .reg x n) → bank[n] = (c.strand x).s[n] := by
  rw [State.installImage_eq]
  obtain ⟨hcore, hplane, hpatches⟩ := s.imagePlaced_keeps i o named entry
  generalize s.imagePlaced i o named entry = u at *
  obtain ⟨⟨b, fpk⟩, fsys, ftags, fmat, fareg, fstrand⟩ := u.fillPairs_filled i.pairs
  generalize i.pairs.foldl State.fillPair u = v at *
  obtain ⟨ending, patches, planes, running, bsys, bareg, btags, bmat, bstrand⟩ :=
    v.imageBound_boundFrom i entry (s.pk.pcore.toNat * 16)
  generalize v.imageBound i entry (s.pk.pcore.toNat * 16) = w at *
  obtain ⟨m, side, hacq, -⟩ := w.acquireAll_frame
  obtain ⟨kept, strands⟩ := w.acquireAll.takeImages_results false
  generalize strandIds.foldl (fun s x => s.takeImage x false) w.acquireAll = t at *
  rw [hacq] at kept strands
  obtain ⟨hpk, hsys, -, hmat, hareg, htags, -, -⟩ : t.pk = _ ∧ t.sys = _ ∧ t.core.vec = _ ∧ t.core.mat = _ ∧ t.core.areg = _ ∧
    t.core.tags = _ ∧ t.core.slag = _ ∧ t.core.qu.hk = _ := by
    simpa only [State.apartFromImages, Prod.mk.injEq] using kept
  simp only [← hcore]
  refine ⟨by rw [hpk]; exact ending, ?_, ?_, by rw [hpk]; exact running, hsys.trans (bsys.trans fsys), htags.trans (btags.trans ftags),
    hmat.trans (bmat.trans fmat), fun n hn => ?_, fun x => ?_⟩
  · rw [hpk]
    exact patches.trans (by rw [fpk]; exact hpatches)
  · rw [← hplane, ← (State.planes_congr (s := u) (t := v) (by rw [fpk]) (by rw [fpk]) (congrArg System.planeAct fsys)).1, ← planes.1]
    exact (State.planes_congr (by rw [hpk]) (by rw [hpk]) (congrArg System.planeAct hsys)).1
  · rw [hareg]
    show w.core.areg[n] = _
    rw [bareg, fareg n hn]
  · obtain ⟨images, hi, -⟩ := strands x
    obtain ⟨member, hm⟩ := bstrand x
    obtain ⟨bank, hb, hbank⟩ := fstrand x
    have hw : ((w.onMu fun _ => m).onCore fun c => { c with side := side }).strand x = w.strand x := by cases x <;> rfl
    rw [hw, hm, hb] at hi
    exact ⟨images, member, bank, hi, hbank⟩

/-- The task of the image runs on the core, its plane naming the objects, and its entry is RUNNING (R110, R112). -/
theorem State.installImage_restored (s : State) (i : Image) (o : PlaneObject) (named : List PlaneObject) (entry : Option (BitVec 8)) :
    let t := s.installImage i o named entry
    isRestored s t i o ∧ t.plane.named = named ∧ t.pk.patches = s.pk.patches ∧
      ∀ n, entry = some n → (kGet SlotEntry.zero t.pk.slots n.toNat).state = .running := by
  obtain ⟨ending, patches, plane, running, sys, tags, mat, areg, strand⟩ := s.installImage_core i o named entry
  refine ⟨⟨ending, by rw [plane], by rw [sys]; rfl, by rw [sys]; rfl, areg, tags, by rw [mat]; rfl, fun x => ?_⟩,
    by rw [plane], patches, running⟩
  obtain ⟨images, member, bank, hx, hbank⟩ := strand x
  rw [Image.coreOn_strand] at hx hbank
  rw [hx]
  exact ⟨rfl, rfl, rfl, hbank, rfl, rfl, Strand.restored_run (own := s.core.strand x)⟩

end Sys2Proof.Machine
end

section
/-!
PROOFS. Restoring a saved context (R110, R111, R402, R403): what the check of an image rests on, and what a swap or a slice makes of one.
-/
namespace Sys2Proof.Machine

/-! ## What the check of an image rests on (R111) -/

/-- Only the slot table and the planes have changed. -/
def State.onlySchedule (s t : State) : Prop := ∃ l p0 p1, t = s.onPk fun k => { k with slots := l, plane0 := p0, plane1 := p1 }

theorem State.returnShadow_onlySchedule (s : State) : State.onlySchedule s s.returnShadow := by
  unfold State.returnShadow
  split
  · exact ⟨s.pk.slots, s.pk.plane0, s.pk.plane1, rfl⟩
  · rename_i n _
    obtain ⟨p0, p1, h⟩ := (s.setEntry n.toNat .returned 0).putShadow_frame Plane.empty
    exact ⟨(s.setEntry n.toNat .returned 0).pk.slots, p0, p1, h⟩

section
variable {s t : State} (h : State.onlySchedule s t)
include h

theorem State.walkFrom_schedule (va n l pa : Nat) : t.walkFrom va n l pa = s.walkFrom va n l pa := by
  obtain ⟨sl, p0, p1, rfl⟩ := h
  induction n generalizing l pa with
  | zero => rfl
  | succ n ih =>
    simp only [State.walkFrom, ih]
    rfl

theorem State.walk_schedule (va : Nat) : t.walk va = s.walk va := by
  unfold State.walk
  simp only [State.walkFrom_schedule h]
  obtain ⟨sl, p0, p1, rfl⟩ := h
  rfl

theorem State.under_schedule (ctx : BitVec 32) (mroot : BitVec 64) : State.onlySchedule (s.under ctx mroot) (t.under ctx mroot) := by
  obtain ⟨sl, p0, p1, rfl⟩ := h
  exact ⟨sl, p0, p1, rfl⟩

theorem State.objectOf_schedule (hash : BitVec 64) : t.objectOf hash = s.objectOf hash := by
  obtain ⟨sl, p0, p1, rfl⟩ := h
  rfl

theorem State.loadable_schedule (o : PlaneObject) : t.loadable o = s.loadable o := by
  simp only [State.loadable, State.usable, State.codePermit, State.objectOf_schedule h, State.walk_schedule h]

theorem State.imageObjectsOf_schedule (i : Image) : t.imageObjectsOf i = s.imageObjectsOf i := by
  simp only [State.imageObjectsOf, State.objectOf_schedule h]

theorem State.mayRestore_schedule (i : Image) : t.mayRestore i = s.mayRestore i := by
  have loadable : (t.under i.ctx i.core.sys.mroot).loadable = (s.under i.ctx i.core.sys.mroot).loadable :=
    funext (State.loadable_schedule (State.under_schedule h _ _))
  simp only [State.mayRestore, State.imageObjectsOf_schedule h, loadable]

end

/-! ## The restoring loader (R110, R111) -/

/-- An object is resolved by where the others lie. -/
theorem State.resolve_congr {s u : State} (h : u.pk.objects = s.pk.objects) (o : PlaneObject) : u.resolve o = s.resolve o := by
  have values : u.pairValue = s.pairValue := funext fun r => by simp only [State.pairValue, State.objectOf, h]
  simp only [State.resolve, values]

theorem isRestored_congr {s u t : State} {i : Image} {o : PlaneObject} (h : u.pk.objects = s.pk.objects) (hr : isRestored u t i o) :
    isRestored s t i o := by
  unfold isRestored at hr ⊢
  rwa [State.resolve_congr h] at hr

/-- An image that may be restored is, with the core's pending Swage sets (R393). -/
theorem State.restoreContext_restored {s : State} {i : Image} {o : PlaneObject} {named : List PlaneObject}
    (ho : s.imageObjectsOf i = some (o :: named)) (hm : s.mayRestore i = true) (entry : Option (BitVec 8)) :
    let t := s.restoreContext i entry
    isRestored s t i o ∧ t.plane.named = named ∧ t.pk.patches = [] ∧
      ∀ n, entry = some n → (kGet SlotEntry.zero t.pk.slots n.toNat).state = .running := by
  have restores : s.restoreContext i entry = s.installPatches.installImage i o named entry := by
    simp only [State.restoreContext, ho, if_pos hm]
  obtain ⟨w, v, p, hp, -⟩ := s.installPatches_frame
  rw [restores]
  obtain ⟨hr, hnamed, hpatches, hrun⟩ := s.installPatches.installImage_restored i o named entry
  exact ⟨isRestored_congr (by rw [hp]; rfl) hr, hnamed, hpatches.trans (by rw [hp]; rfl), hrun⟩

/-- One that may not be is left where it is, and Hearth hears of it (R111). -/
theorem State.restoreContext_refused {s : State} {i : Image} (hm : s.mayRestore i = false) (entry : Option (BitVec 8)) :
    s.restoreContext i entry = s.refuseImage i := by
  unfold State.restoreContext
  split
  · rw [if_neg (by simp [hm])]
  · rfl

theorem State.mem_refuseImage (s : State) (i : Image) : (i.ctx, i.lcore) ∈ (s.refuseImage i).pk.refused := by
  show _ ∈ ite _ _ _
  split
  · exact List.contains_iff_mem.mp ‹_›
  · exact List.mem_append_right _ (List.mem_singleton.mpr rfl)

/-- The record of an image that may not be restored is rejected, the core as it was (log 22). -/
theorem State.swapImage_refused {s : State} {i : Image} (hm : s.mayRestore i = false) :
    let t := s.swapImage i
    t.core = s.core ∧ t.pk.mu = s.pk.mu ∧ t.pk.ending = s.pk.ending ∧ t.shadow = Plane.empty ∧ (i.ctx, i.lcore) ∈ t.pk.refused ∧
      t.pk.images = s.pk.images ∧ ∀ n, s.shadow.entry = some n → (kGet SlotEntry.zero t.pk.slots n.toNat).state = .rejected ∧
        (kGet SlotEntry.zero t.pk.slots n.toNat).det = 0x04 := by
  have refused : s.swapImage i = ((s.markEntry s.shadow.entry .rejected 0x04).refuseImage i).putShadow Plane.empty := by
    simp only [State.swapImage, hm, Bool.false_eq_true, if_false]
    rfl
  have mem := (s.markEntry s.shadow.entry .rejected 0x04).mem_refuseImage i
  have empty := ((s.markEntry s.shadow.entry .rejected 0x04).refuseImage i).putShadow_shadow Plane.empty
  obtain ⟨l, hl, hslot⟩ := s.markEntry_frame s.shadow.entry .rejected 0x04
  obtain ⟨p0, p1, h⟩ := ((s.markEntry s.shadow.entry .rejected 0x04).refuseImage i).putShadow_frame Plane.empty
  rw [h] at empty
  rw [refused, h]
  rw [hl] at empty mem ⊢
  refine ⟨rfl, rfl, rfl, empty, mem, rfl, fun n hn => ?_⟩
  have slot := hslot n hn
  exact ⟨congrArg SlotEntry.state slot, congrArg SlotEntry.det slot⟩

/-! ## The next slice (R403) -/

/-- A slice that may be restored takes the core; a successor that stands in the shadow plane is returned (log 22). -/
theorem State.takeNextSlice_eq {s : State} {i : Image} (hi : s.nextSlice = some i) (hw : s.engineWork = false)
    (hst : s.core.qu.st ≠ .pending) (hq : s.core.qu.requests = []) :
    s.takeNextSlice = (if s.mayRestore i then s.returnShadow else s).restoreContext i i.entry := by
  simp [State.takeNextSlice, hi, hw, State.noQuench, hst, hq]

theorem State.takeNextSlice_restored {s : State} {i : Image} {o : PlaneObject} {named : List PlaneObject} (hi : s.nextSlice = some i)
    (hw : s.engineWork = false) (hst : s.core.qu.st ≠ .pending) (hq : s.core.qu.requests = [])
    (ho : s.imageObjectsOf i = some (o :: named)) (hm : s.mayRestore i = true) :
    isRestored s s.takeNextSlice i o ∧ s.takeNextSlice.pk.patches = [] := by
  have returned := s.returnShadow_onlySchedule
  rw [State.takeNextSlice_eq hi hw hst hq, if_pos hm]
  obtain ⟨hr, -, hpatches, -⟩ := State.restoreContext_restored ((State.imageObjectsOf_schedule returned i).trans ho)
    ((State.mayRestore_schedule returned i).trans hm) i.entry
  refine ⟨isRestored_congr ?_ hr, hpatches⟩
  obtain ⟨l, p0, p1, h⟩ := returned
  rw [h]; rfl

theorem State.takeNextSlice_refused {s : State} {i : Image} (hi : s.nextSlice = some i) (hw : s.engineWork = false)
    (hst : s.core.qu.st ≠ .pending) (hq : s.core.qu.requests = []) (hm : s.mayRestore i = false) :
    s.takeNextSlice = s.refuseImage i := by
  rw [State.takeNextSlice_eq hi hw hst hq, if_neg (by simp [hm]), State.restoreContext_refused hm]

end Sys2Proof.Machine
end

section
/-!
PROOFS. Remap entries, freed slot-table entries and the quantum of a slice (R397, R402, R403).
-/
namespace Sys2Proof.Machine

/-- A request with a deadline that is not zero begins, and no more (R106). -/
theorem State.request_later (s : State) {d : Nat} (hd : d ≠ 0) :
    s.request d = s.onSys fun y => { y with yreq := true, yact := true, deadline := some d } := by
  have due : (s.onSys fun y => { y with yreq := true, yact := true, deadline := some d }).deadlineDue = false := by
    simp [State.deadlineDue, hd]
  simp only [State.request, due, Bool.false_eq_true, if_false]

/-- Tongs frees an entry that is done with (R397). -/
theorem execSlotEntryFree_frees {s : State} {n : Nat} (hn : n < 256) (h : (kGet SlotEntry.zero s.pk.slots n).state = .done ∨
    (kGet SlotEntry.zero s.pk.slots n).state = .rejected ∨ (kGet SlotEntry.zero s.pk.slots n).state = .returned) :
    exec (.slotEntryFree n false) s = .next (s.setEntry n .free 0) := by
  show execSlotEntryFree n false s = _
  simp only [execSlotEntryFree, Nat.mod_eq_of_lt hn, Bool.false_eq_true, if_false, if_pos h]

/-- Tongs posts a FREE entry (R397). -/
theorem execSlotEntryFree_posts {s : State} {n : Nat} (hn : n < 256) (h : (kGet SlotEntry.zero s.pk.slots n).state = .free) :
    exec (.slotEntryFree n true) s = .next (s.setEntry n .posted 0) := by
  show execSlotEntryFree n true s = _
  simp only [execSlotEntryFree, Nat.mod_eq_of_lt hn, if_true, if_pos h]

/-- With no record at Hearth a remap entry changes at once, where the routers have room (R402). -/
theorem execHearthRemapRewrite_eq {s : State} (hh : s.sys.hearth = []) (ctx : BitVec 32) (lcore pcore : BitVec 8)
    (slice nsm1 : BitVec 4) (quant : BitVec 16) (valid : Bool) :
    exec (.hearthRemapRewrite ctx lcore pcore slice nsm1 quant valid) s = .next (if s.remapRoom ctx then s.onPk fun k => { k with
      remap := kSet k.remap (ctx.toNat * 256 + lcore.toNat) ⟨valid, pcore, slice.setWidth 3, nsm1.setWidth 3, quant⟩ } else s) := by
  show execHearthRemapRewrite ctx lcore pcore slice nsm1 quant valid s = _
  unfold execHearthRemapRewrite
  cases s.remapRoom ctx <;> simp [hh]

/-! ## The quantum of a slice (R403) -/

/-- A core that is not shared by slices, or is at Hearth, has no quantum. -/
theorem execSliceQuantumExpiry_none {s : State} (h : (s.remapOf s.sys.lcore.toNat).valid = false ∨ (s.remapOf s.sys.lcore.toNat).nsm1 = 0 ∨
    s.sys.stoppedByH = true) : exec .sliceQuantumExpiry s = .next s := by
  show execSliceQuantumExpiry s = _
  rcases h with h | h | h <;> simp [execSliceQuantumExpiry, h]

section
variable {s : State} (hv : (s.remapOf s.sys.lcore.toNat).valid = true) (hn : (s.remapOf s.sys.lcore.toNat).nsm1 ≠ 0)
  (hH : s.sys.stoppedByH = false)
include hv hn hH

/-- A core that is shared by slices goes by what its slice does. -/
theorem execSliceQuantumExpiry_shared : exec .sliceQuantumExpiry s = .next (
    if !s.hasTask then s.takeNextSlice
    else if s.pk.sliceDue then
      (if s.sys.fdone then (s.saveImage s.plane.entry).takeNextSlice
       else if !s.sys.yact && s.sys.forced.isNone then s.forceMode
       else s)
    else if (s.remapOf s.sys.lcore.toNat).quant.toNat * 256 ≤ s.pk.sliceRun ∧ !s.sys.yreq then
      (s.onPk fun k => { k with sliceDue := true }).request 4096
    else s) := by
  have shared : ¬(!(s.remapOf s.sys.lcore.toNat).valid || (s.remapOf s.sys.lcore.toNat).nsm1 == 0 || s.sys.stoppedByH) = true := by
    simpa [hv, hH] using hn
  show execSliceQuantumExpiry s = _
  simp only [execSliceQuantumExpiry, if_neg shared]

/-- At the end of its quantum a slice is asked to yield within 4,096 cycles. -/
theorem execSliceQuantumExpiry_asks (h4 : s.pk.ending ≠ 4) (hd : s.pk.sliceDue = false) (hy : s.sys.yreq = false)
    (hq : (s.remapOf s.sys.lcore.toNat).quant.toNat * 256 ≤ s.pk.sliceRun) :
    exec .sliceQuantumExpiry s = .next ((s.onPk fun k => { k with sliceDue := true }).onSys fun y => { y with
      yreq := true, yact := true, deadline := some 4096 }) := by
  rw [execSliceQuantumExpiry_shared hv hn hH]
  simp [State.hasTask, h4, hd, hy, hq, State.request_later]

/-- Asked to yield, it runs on until its forced mode is done. -/
theorem execSliceQuantumExpiry_asked (h4 : s.pk.ending ≠ 4) (hd : s.pk.sliceDue = true) (hf : s.sys.fdone = false)
    (hy : s.sys.yact = true) : exec .sliceQuantumExpiry s = .next s := by
  rw [execSliceQuantumExpiry_shared hv hn hH]
  simp [State.hasTask, h4, hd, hf, hy]

/-- A slice whose task has ended gives the core up. -/
theorem execSliceQuantumExpiry_idle (h4 : s.pk.ending = 4) : exec .sliceQuantumExpiry s = .next s.takeNextSlice := by
  rw [execSliceQuantumExpiry_shared hv hn hH]
  simp [State.hasTask, h4]

end

end Sys2Proof.Machine
end

section
/-!
PROOFS. The save of a context (R108, R109, R290, R401): the fields of an image's header, what an acquire leaves of memory at its home die,
and what leaves the core.
-/
namespace Sys2Proof.Machine

/-! ## Fields of a word -/

/-- A field is read where it was placed. -/
theorem extractLsb'_place {v w : Nat} (x : BitVec v) {lo : Nat} (h : lo + v ≤ w) : (place w x lo).extractLsb' lo v = x := by
  ext i hi
  have inside : lo + i < w := by omega
  simp [place, inside, hi]

/-- Nothing of a field is read below it or beyond it. -/
theorem extractLsb'_place_apart {v w : Nat} (x : BitVec v) {lo n len : Nat} (h : n + len ≤ lo ∨ lo + v ≤ n) :
    (place w x lo).extractLsb' n len = 0 := by
  ext i hi
  rcases h with h | h
  · have below : n + i < lo := by omega
    simp [place, below]
  · have beyond : v ≤ n + i - lo := by omega
    simp [place, BitVec.getLsbD_of_ge x _ beyond]

/-- A flag is read at its own bit alone. -/
theorem extractLsb'_flagBit_apart {w : Nat} (b : Bool) {k n len : Nat} (h : n + len ≤ k ∨ k < n) :
    (flagBit w b k).extractLsb' n len = 0 := by
  ext i hi
  have apart : k ≠ n + i := by omega
  cases b
  · simp [flagBit]
  · simp only [flagBit, if_true, BitVec.getElem_extractLsb', BitVec.getLsbD_ofNat, Nat.testBit_two_pow_of_ne apart]
    simp

/-- The header of an image names its format, its context and its core, and holds the digest of the sections after it (R109). -/
theorem Image.headerOf_fields (i : Image) :
    i.headerOf.extractLsb' 0 32 = 0x43524B49 ∧ i.headerOf.extractLsb' 32 16 = 1 ∧ i.headerOf.extractLsb' 64 32 = i.ctx ∧
      i.headerOf.extractLsb' 192 8 = i.lcore ∧ i.headerOf.extractLsb' 448 64 = i.digest := by
  simp only [Image.headerOf, BitVec.extractLsb'_or]
  refine ⟨?_, ?_, ?_, ?_, ?_⟩ <;> simp [extractLsb'_place, extractLsb'_place_apart, extractLsb'_flagBit_apart]

/-- The digest is that of the sections after the header, and where an image's task stands in the slot table is no part of them. -/
theorem Image.digest_header (i : Image) (h : BitVec 512) (e : Option (BitVec 8)) :
    { i with header := h, entry := e }.digest = i.digest := rfl

/-! ## Memory at its home die (R36) -/

/-- Leaving out cells leaves the others. -/
theorem cellGet_filter {w : Nat} (c : Cells w) {p : Nat → Bool} {n : Nat} (h : p n = true) :
    cellGet (c.filter fun kv => p kv.1) n = cellGet c n := by
  induction c with
  | nil => rfl
  | cons kv rest ih =>
    obtain ⟨k, v⟩ := kv
    by_cases hk : n = k
    · subst hk
      simp only [List.filter_cons, h, if_true, cellGet]
    · cases hp : p k <;> simp only [List.filter_cons, hp, Bool.false_eq_true, if_false, if_true, cellGet, if_neg hk, ih]

/-- Writing cells leaves the others. -/
theorem cellGet_foldl_cellSet {w : Nat} (l : List (Nat × BitVec w)) (c : Cells w) (base : Nat) {n : Nat} (h : ∀ p ∈ l, n ≠ base + p.1) :
    cellGet (l.foldl (fun t (pa, v) => cellSet t (base + pa) v) c) n = cellGet c n := by
  induction l generalizing c with
  | nil => rfl
  | cons p l ih =>
    rw [List.foldl_cons, ih _ fun q hq => h q (List.mem_cons_of_mem _ hq)]
    exact cellGet_cellSet_other _ (h p List.mem_cons_self)

/-- A place has one home die and one address there. -/
theorem dieBase_add_inj {d e p q : Nat} (hp : p < 2 ^ 72) (hq : q < 2 ^ 72) (h : dieBase d + p = dieBase e + q) : d = e ∧ p = q := by
  unfold dieBase at h
  omega

/-- With no write in flight, a die's refresh leaves every byte at its home die. -/
theorem State.refreshDie_home {s : State} (hf : s.pk.mu.inflight = []) {q : Nat} (hq : q < 2 ^ 72) :
    cellGet s.refreshDie.pk.mu.mem (dieBase (homeDie q) + q) = cellGet s.pk.mu.mem (dieBase (homeDie q) + q) := by
  have delivered : (List.range 4).foldl (fun t e => t.deliverTo e) s = s := by
    refine List.foldlRecOn (motive := fun t => t = s) _ _ rfl ?_
    rintro _ rfl e -
    simp only [State.deliverTo, hf, List.foldl_nil]
  unfold State.refreshDie
  rw [delivered]
  show cellGet (List.foldl _ _ _) _ = _
  rw [cellGet_foldl_cellSet]
  · refine cellGet_filter s.pk.mu.mem (p := fun k =>
      !(decide (dieBase s.die ≤ k ∧ k < dieBase (s.die + 1))) || homeDie (k - dieBase s.die) == s.die) ?_
    by_cases hd : homeDie q = s.die
    · simp [hd]
    · have outside : ¬(dieBase s.die ≤ dieBase (homeDie q) + q ∧ dieBase (homeDie q) + q < dieBase (s.die + 1)) := by
        unfold dieBase
        omega
      simp [outside]
  · intro p hp h
    obtain ⟨⟨k, v⟩, -, hkv⟩ := List.mem_filterMap.mp hp
    dsimp only at hkv
    split at hkv
    · rename_i hk
      obtain rfl := Option.some.inj hkv
      obtain ⟨hd, rfl⟩ := dieBase_add_inj hq (Nat.mod_lt _ (by decide)) h
      exact hk.2.2 hd
    · exact absurd hkv nofun

/-- A block of 1 KiB lies at one die. -/
theorem homeDie_congr {p q : Nat} (h : p / 1024 = q / 1024) : homeDie p = homeDie q := by
  have below (n : Nat) : n < 2 ^ 40 ↔ n / 1024 < 2 ^ 30 := by rw [Nat.div_lt_iff_lt_mul (by decide : 0 < 1024)]; rfl
  have first (n : Nat) : n / 2 ^ 36 = n / 1024 / 2 ^ 26 := by rw [Nat.div_div_eq_div_mul]; rfl
  have second (n : Nat) : (n - 2 ^ 40) / (192 * 2 ^ 30) = (n / 1024 - 2 ^ 30) / (192 * 2 ^ 20) := by
    rw [← Nat.sub_mul_div, Nat.div_div_eq_div_mul]; rfl
  simp only [homeDie, below, first, second, h]

theorem homeDie_block (r : Nat) {k : Nat} (hk : k < 1024) : homeDie (r * 1024 + k) = homeDie (r * 1024) :=
  homeDie_congr (by omega)

/-- With no write in flight an acquire leaves the bind records. -/
theorem State.acquireAll_bindBytes {s : State} (hf : s.pk.mu.inflight = []) (e : SlotEntry) :
    s.acquireAll.bindBytes e = s.bindBytes e := by
  obtain ⟨m, side, h, mem⟩ := s.acquireAll_frame
  simp only [State.bindBytes, cellRange]
  refine List.map_congr_left fun k hk => ?_
  have hk := List.mem_range.mp hk
  have bound : e.rec_.toNat * 1024 + k < 2 ^ 72 := by
    have := e.rec_.isLt
    omega
  rw [h]
  show cellGet m.mem _ = _
  rw [mem, Nat.add_assoc, ← homeDie_block _ hk]
  exact State.refreshDie_home hf bound

/-! ## What leaves the core with a saved context (R290, R401) -/

/-- Whether a further task of the context is bound to the core rests on the records, the planes and the remap table. -/
theorem State.contextStays_congr {s t : State} (bytes : ∀ e, t.bindBytes e = s.bindBytes e) (slots : t.pk.slots = s.pk.slots)
    (shadow : t.shadow = s.shadow) (sys : t.sys = s.sys) (remap : t.pk.remap = s.pk.remap) (pcore : t.pk.pcore = s.pk.pcore) :
    t.contextStays = s.contextStays := by
  simp only [State.contextStays, State.bindPlace, bytes, slots, shadow, sys, remap, pcore]

/-- What the context shares with its further tasks: it stays where such a task is bound to the core, and goes where none is (R401, log
22). -/
def State.sharedLeft (s : State) : State := if s.contextStays then s.dropTickets.keepTiles else s.scrubShared

/-- What the task alone has in the core goes (R290). -/
def State.ownCleared (s : State) : State :=
  let s := s.onCore fun c => { c with
    areg := Bank.zero, streams := Vector.replicate 16 Stream.reset, rowq := [], chainq := [], slag := [], sys := c.sys.left
    qu := { QuenchUnit.reset with
      peersReported := c.qu.peersReported, peersH := c.qu.peersH, peersMax := c.qu.peersMax, peersG := c.qu.peersG
      nextImage := c.qu.nextImage } }
  let s := s.onVec fun v => { v with
    banks := cellClear v.banks (if s.sys.planeAct then 64 * 1024 else 0) (64 * 1024), masks := Vector.replicate 8 0, vmask := 0, vcarry := 0 }
  s.onMu fun m => { m with touchmark := 0, tmval := 0 }

theorem State.leaveSaved_eq (s : State) : s.leaveSaved = (((s.sharedLeft.ownCleared.putPlane Plane.empty).onMat fun m => { MatrixState.reset with
    cells := m.cells, cols := m.cols, written := m.written, bstat := m.bstat, acc := m.acc, ceil := m.ceil }).onPk fun k =>
      { k with barriers := [] }) := rfl

theorem State.sharedLeft_results (s : State) :
    let t := s.sharedLeft
    t.sys = s.sys ∧ t.pk.images = s.pk.images ∧ (s.contextStays = false → t.core.tags = [] ∧ t.core.mat.acc = []) ∧
      (s.contextStays = true → t.core.tags = s.core.tags ∧ t.core.mat.acc = s.core.mat.acc) := by
  unfold State.sharedLeft
  cases s.contextStays with
  | false => exact ⟨rfl, rfl, fun _ => ⟨rfl, rfl⟩, fun h => absurd h nofun⟩
  | true =>
    obtain ⟨l, h⟩ := s.dropTickets.keepTiles_frame
    simp only [if_true, h]
    exact ⟨rfl, rfl, fun h => absurd h nofun, fun _ => ⟨rfl, rfl⟩⟩

/-- The core is left idle, with nothing of the saved task. -/
structure State.LeftIdle (s t : State) : Prop where
  ending : t.pk.ending = 4
  run : ∀ x, (t.strand x).run = .noTask
  areg : t.core.areg = Bank.zero
  queue : t.core.mat.queue = []
  plane : t.plane = Plane.empty
  touchmark : t.pk.mu.touchmark = 0
  hk : t.core.qu.hk = 0
  sys : t.sys.nest = System.reset.nest ∧ t.sys.epcPc = 0 ∧ t.sys.estatFl = 0 ∧ t.sys.budget = 0 ∧ t.sys.mroot = 0
  images : t.pk.images = s.pk.images
  goes : s.contextStays = false → t.core.tags = [] ∧ t.core.mat.acc = []
  stays : s.contextStays = true → t.core.tags = s.core.tags ∧ t.core.mat.acc = s.core.mat.acc

theorem State.leaveSaved_leftIdle (s : State) : s.LeftIdle s.leaveSaved.idle := by
  rw [State.leaveSaved_eq]
  obtain ⟨hsys, himages, goes, stays⟩ := s.sharedLeft_results
  generalize s.sharedLeft = u at *
  have empty := u.ownCleared.putPlane_plane Plane.empty
  obtain ⟨p0, p1, h⟩ := u.ownCleared.putPlane_frame Plane.empty
  rw [h] at empty ⊢
  exact ⟨rfl, fun x => by cases x <;> rfl, rfl, rfl, empty, rfl, rfl, ⟨rfl, rfl, rfl, rfl, rfl⟩, himages, goes, stays⟩

end Sys2Proof.Machine
end

section
/-!
PROOFS. CONTEXT_IMAGE_WRITE (R108, R109, R401, R404): the image that is written, and the core that the task has left.
-/
namespace Sys2Proof.Machine

/-! ## The image (R108, R109) -/

/-- A strand at T is saved as it stands. -/
theorem State.savedStrand_atT {s : State} {x : StrandId} (h : s.atS x = false) :
    s.savedStrand x = { s.strand x with images := [], hook := none } := by
  simp only [State.savedStrand, h, Bool.false_eq_true, if_false]

/-- K at S is saved at its place at T. -/
theorem State.savedStrand_atS {s : State} (h : s.sys.levelS = true) :
    (s.savedStrand .K).pc = s.sys.epcPc ∧ (s.savedStrand .K).hdr = s.sys.epcHdr ∧ (s.savedStrand .K).remain = s.sys.epcRemain ∧
      (s.savedStrand .K).flags = s.sys.estatFl &&& 0x1F3F := by
  have atS : s.atS .K = true := by simp [State.atS, h]
  simp [State.savedStrand, atS]

theorem State.contextImage_strand (s : State) (x : StrandId) : s.contextImage.core.strand x = s.savedStrand x := by cases x <;> rfl

/-- The image's header names it and holds its digest. -/
theorem State.contextImage_header (s : State) :
    let i := { s.contextImage with entry := none }
    i.header.extractLsb' 0 32 = 0x43524B49 ∧ i.header.extractLsb' 32 16 = 1 ∧ i.header.extractLsb' 64 32 = s.sys.ctx ∧
      i.header.extractLsb' 192 8 = s.sys.lcore ∧ i.header.extractLsb' 448 64 = { i with header := 0 }.digest := by
  obtain ⟨magic, version, ctx, lcore, digest⟩ := s.imageParts.headerOf_fields
  exact ⟨magic, version, ctx, lcore, digest.trans (s.imageParts.digest_header 0 none).symm⟩

/-! ## The save (R108, R404) -/

/-- The image of the running task joins the images, in the place of an older one of its core. -/
def State.imageAdded (s : State) (entry : Option (BitVec 8)) : State :=
  let i := { s.contextImage with entry := entry }
  s.onPk fun k => { k with images := (k.images.filter fun j => !(j.ctx == i.ctx && j.lcore == i.lcore)) ++ [i] }

/-- The image is kept, a successor that overlaps a task out of its budget is returned, and what the context wrote is found (R49, R404). -/
def State.imageKept (s : State) (entry : Option (BitVec 8)) : State :=
  let s := s.imageAdded entry
  (if s.sys.budgetDone then s.returnOverlap else s).acquireAll

theorem State.saveTask_eq (s : State) : s.saveTask = ((s.imageKept none).leaveSaved.idle).markEntry s.plane.entry .done 0 := rfl

theorem State.returnOverlap_onlySchedule (s : State) : State.onlySchedule s s.returnOverlap := by
  unfold State.returnOverlap
  split
  · exact s.returnShadow_onlySchedule
  · exact ⟨s.pk.slots, s.pk.plane0, s.pk.plane1, rfl⟩

theorem State.mem_imageKept (s : State) (entry : Option (BitVec 8)) :
    { s.contextImage with entry := entry } ∈ (s.imageKept entry).pk.images := by
  have mem : { s.contextImage with entry := entry } ∈ (s.imageAdded entry).pk.images :=
    List.mem_append_right _ (List.mem_singleton.mpr rfl)
  unfold State.imageKept
  generalize s.imageAdded entry = u at *
  have returned : State.onlySchedule u (if u.sys.budgetDone then u.returnOverlap else u) := by
    split
    · exact u.returnOverlap_onlySchedule
    · exact ⟨u.pk.slots, u.pk.plane0, u.pk.plane1, rfl⟩
  obtain ⟨m, side, h, -⟩ := (if u.sys.budgetDone then u.returnOverlap else u).acquireAll_frame
  obtain ⟨l, p0, p1, h'⟩ := returned
  rw [h, h']
  exact mem

/-- Within the budget and with no write in flight, the save leaves what the core shares as it was. -/
theorem State.imageKept_shared {s : State} (hb : s.sys.budgetDone = false) (hf : s.pk.mu.inflight = []) (entry : Option (BitVec 8)) :
    let t := s.imageKept entry
    t.contextStays = s.contextStays ∧ t.core.tags = s.core.tags ∧ t.core.mat.acc = s.core.mat.acc := by
  have kept : s.imageKept entry = (s.imageAdded entry).acquireAll := by
    have within : ¬(s.imageAdded entry).sys.budgetDone = true := fun h => absurd (h.symm.trans hb) nofun
    simp only [State.imageKept, if_neg within]
  have bytes (e : SlotEntry) : (s.imageAdded entry).acquireAll.bindBytes e = s.bindBytes e := by
    have same : (s.imageAdded entry).bindBytes e = s.bindBytes e := rfl
    rw [State.acquireAll_bindBytes (s := s.imageAdded entry) hf, same]
  obtain ⟨m, side, h, -⟩ := (s.imageAdded entry).acquireAll_frame
  rw [kept]
  rw [h] at bytes ⊢
  exact ⟨State.contextStays_congr bytes rfl rfl rfl rfl rfl, rfl, rfl⟩

/-- A save leaves the image of the task and an idle core (R108, R109, R401). -/
theorem State.saveTask_results (s : State) :
    let t := s.saveTask
    t.pk.ending = 4 ∧ (∀ x, (t.strand x).run = .noTask) ∧
      t.core.areg = Bank.zero ∧ t.core.mat.queue = [] ∧ t.plane = Plane.empty ∧ t.pk.mu.touchmark = 0 ∧
      t.core.qu.hk = 0 ∧ t.sys.nest = System.reset.nest ∧ t.sys.epcPc = 0 ∧ t.sys.estatFl = 0 ∧ t.sys.budget = 0 ∧ t.sys.mroot = 0 ∧
      (s.sys.budgetDone = false → s.pk.mu.inflight = [] →
        (s.contextStays = false → t.core.tags = [] ∧ t.core.mat.acc = []) ∧
        (s.contextStays = true → t.core.tags = s.core.tags ∧ t.core.mat.acc = s.core.mat.acc)) ∧
      (∀ n, s.plane.entry = some n → (kGet SlotEntry.zero t.pk.slots n.toNat).state = .done) ∧
      ∃ i ∈ t.pk.images, i.ctx = s.sys.ctx ∧ i.lcore = s.sys.lcore ∧
        (∀ x, s.atS x = false → i.core.strand x = { s.strand x with images := [], hook := none }) ∧
        (s.sys.levelS = true → i.core.k.pc = s.sys.epcPc ∧ i.core.k.hdr = s.sys.epcHdr ∧ i.core.k.remain = s.sys.epcRemain ∧
          i.core.k.flags = s.sys.estatFl &&& 0x1F3F) ∧
        i.header.extractLsb' 0 32 = 0x43524B49 ∧ i.header.extractLsb' 32 16 = 1 ∧ i.header.extractLsb' 64 32 = s.sys.ctx ∧
        i.header.extractLsb' 192 8 = s.sys.lcore ∧ i.header.extractLsb' 448 64 = { i with header := 0 }.digest ∧
        i.core.areg = s.core.areg ∧ i.core.sys = s.core.sys.saved ∧ i.core.tags = s.core.tags ∧ i.core.streams = s.core.streams ∧
        i.core.mat.acc = s.core.mat.acc ∧ i.obj = s.plane.bind.obj ∧ i.touchmark = s.pk.mu.touchmark := by
  have mem := s.mem_imageKept none
  have shared (hb : s.sys.budgetDone = false) (hf : s.pk.mu.inflight = []) := State.imageKept_shared hb hf none
  rw [State.saveTask_eq]
  generalize s.imageKept none = u at *
  obtain ⟨ending, run, areg, queue, plane, touchmark, hk, ⟨nest, epcPc, estatFl, budget, mroot⟩, images, goes, stays⟩ := u.leaveSaved_leftIdle
  obtain ⟨l, hl, slot⟩ := u.leaveSaved.idle.markEntry_frame s.plane.entry .done 0
  rw [← images] at mem
  rw [hl]
  obtain ⟨magic, version, ctx, lcore, digest⟩ := s.contextImage_header
  refine ⟨ending, run, areg, queue, plane, touchmark, hk, nest, epcPc, estatFl, budget, mroot, fun hb hf => ?_, fun n hn => ?_,
    _, mem, rfl, rfl, fun x hx => ?_, State.savedStrand_atS, magic, version, ctx, lcore, digest, rfl, rfl, rfl, rfl, rfl, rfl, rfl⟩
  · obtain ⟨same, tags, acc⟩ := shared hb hf
    rw [← same, ← tags, ← acc]
    exact ⟨goes, stays⟩
  · have done := slot n hn
    exact congrArg SlotEntry.state done
  · exact (s.contextImage_strand x).trans (State.savedStrand_atT hx)

/-- The image is written when the task's forced mode has completed. -/
theorem execContextImageWrite_none {s : State} (h : s.sys.fdone = false ∨ s.pk.ending = 4) : exec .contextImageWrite s = .next s := by
  show execContextImageWrite s = _
  rcases h with h | h <;> simp [execContextImageWrite, h]

theorem execContextImageWrite_saves {s : State} (hf : s.sys.fdone = true) (h4 : s.pk.ending ≠ 4) :
    exec .contextImageWrite s = .next s.saveTask := by
  show execContextImageWrite s = _
  simp [execContextImageWrite, hf, h4]

end Sys2Proof.Machine
end

section
/-! PROOFS. Scheduling (O50): the obligation, from the steps' lemmas. -/
namespace Sys2Proof.Machine

/-- Settles O50: each step of scheduling comes to what its lemma states; a swap starts the task of the shadow plane or restores its image,
and a save leaves the image and an idle core. -/
theorem planeScheduleSteps : Obligations.PlaneScheduleSteps := by
  unfold Obligations.PlaneScheduleSteps
  intro s slotOf
  refine ⟨execDispatchTakeEntry_none, fun n e hm he least => ⟨fun h0 => ?_, fun c hc hf => ?_⟩,
    fun n o hn ho => ⟨fun hl => ?_, fun hl => ?_⟩, fun n hn => ⟨fun h => ?_, fun h => ?_⟩, execSwapTokenFlip_held,
    fun h4 hheld hst hq hH hw hr hi => ⟨fun hc he => ?_, fun he => ?_⟩,
    fun i h4 hheld hst hq hH hw hl hi => ⟨fun he hm => ?_, fun o named he hm ho => ?_, fun hm => ?_⟩, execContextImageWrite_none,
    fun hf h4 => ?_, fun ctx lcore pcore slice nsm1 quant valid hh => ?_, execSliceQuantumExpiry_none, fun hv hn hH => ?_⟩
  -- the dispatcher and the loader
  · rw [execDispatchTakeEntry_takes hm he least, if_neg (not_not.mpr h0)]
    obtain ⟨state, shadow, plane, core, mu⟩ := s.enterShadow_results n .loading
      { Plane.empty with bind := readBind (s.bindBytes e), entry := some (BitVec.ofNat 8 n) }
    exact ⟨_, rfl, state, by rw [shadow], by rw [shadow], by rw [shadow]; rfl, plane, core, mu⟩
  · subst hf
    rw [execDispatchTakeEntry_takes hm he least, if_pos hc]
    exact ⟨_, rfl, s.rejectEntry_results n _ _⟩
  · rw [execPlaneLoadComplete_eq hn ho, if_pos hl]
  · rw [execPlaneLoadComplete_eq hn ho, if_neg (by simp [hl])]
    obtain ⟨state, shadow, plane, core, -⟩ := s.enterShadow_results n.toNat .loaded
      { s.shadow with object := s.resolve o, named := s.namedBy o, loaded := true }
    exact ⟨_, rfl, state, shadow, plane, core⟩
  · exact ⟨_, execSlotEntryFree_frees hn h, s.setEntry_slot n .free 0, rfl⟩
  · exact ⟨_, execSlotEntryFree_posts hn h, s.setEntry_slot n .posted 0, rfl⟩
  -- the swap to a task
  · rw [execSwapTokenFlip_task h4 hr.1 hheld hst hq hH hw hi, if_pos (by simpa [he] using hc)]
  · have goes : ¬(s.pk.lastCtx != some s.shadow.bind.ctx && s.engineWork) = true := by
      simpa using he
    rw [execSwapTokenFlip_task h4 hr.1 hheld hst hq hH hw hi, if_neg goes]
    exact ⟨_, rfl, State.swapTask_results hr hi⟩
  -- the swap to a saved context
  · rw [execSwapTokenFlip_image h4 hl hheld hst hq hH hw hi, if_pos (by simp [he, hm])]
  · rw [execSwapTokenFlip_image h4 hl hheld hst hq hH hw hi, if_neg (by simp [he])]
    have restores : s.swapImage i = s.restoreContext i s.shadow.entry := by simp only [State.swapImage, if_pos hm]
    exact ⟨_, rfl, by rw [restores]; exact State.restoreContext_restored ho hm _⟩
  · rw [execSwapTokenFlip_image h4 hl hheld hst hq hH hw hi, if_neg (by simp [hm])]
    obtain ⟨core, mu, ending, shadow, refused, images, slot⟩ := State.swapImage_refused hm
    exact ⟨_, rfl, core, mu, ending.trans h4, shadow, refused, images, slot⟩
  -- the save of a context
  · exact ⟨_, execContextImageWrite_saves hf h4, s.saveTask_results⟩
  -- remap entries and slices
  · rw [execHearthRemapRewrite_eq hh]
    exact ⟨fun hr => by rw [if_neg (by simp [hr])], fun hr => by rw [if_pos hr]⟩
  · refine ⟨execSliceQuantumExpiry_asks hv hn hH, execSliceQuantumExpiry_asked hv hn hH,
      fun i h4 hi hw hst hq => ⟨fun o named ho hm => ?_, fun hm => ?_⟩⟩
    · exact ⟨_, execSliceQuantumExpiry_idle hv hn hH h4, State.takeNextSlice_restored hi hw hst hq ho hm⟩
    · refine ⟨_, execSliceQuantumExpiry_idle hv hn hH h4, ?_⟩
      rw [State.takeNextSlice_refused hi hw hst hq hm]
      exact ⟨rfl, rfl, s.mem_refuseImage i⟩

end Sys2Proof.Machine
end

section
/-!
PROOFS. Words and their decoding (R69 to R78): decoding undoes encoding, and the words that the manual writes out.
-/
namespace Sys2Proof.Machine
open Sys2Proof.Laws

/-! ## The round trip (R69 to R76) -/

/-- The word of every well-formed instruction decodes to it: constructor by constructor, by the layout of its word; the steps without a
word have nothing to decode. -/
theorem roundTrip (i : Instr) : RoundTrip.Statement i := by
  cases i with
  | add => apply RoundTrip.add | sub => apply RoundTrip.sub | mul => apply RoundTrip.mul | mulhI => apply RoundTrip.mulhI
  | mulhN => apply RoundTrip.mulhN | mulhIn => apply RoundTrip.mulhIn | divI => apply RoundTrip.divI | divN => apply RoundTrip.divN
  | remI => apply RoundTrip.remI | remN => apply RoundTrip.remN | and => apply RoundTrip.and | or => apply RoundTrip.or | xor => apply RoundTrip.xor
  | andn => apply RoundTrip.andn | shl => apply RoundTrip.shl | shr => apply RoundTrip.shr | sra => apply RoundTrip.sra | rot => apply RoundTrip.rot
  | clz => apply RoundTrip.clz | popc => apply RoundTrip.popc | minI => apply RoundTrip.minI | minN => apply RoundTrip.minN
  | maxI => apply RoundTrip.maxI | maxN => apply RoundTrip.maxN | sel => apply RoundTrip.sel | cmp => apply RoundTrip.cmp
  | mov => apply RoundTrip.mov | add128 => apply RoundTrip.add128 | addImm => apply RoundTrip.addImm | subImm => apply RoundTrip.subImm
  | mulImm => apply RoundTrip.mulImm | andImm => apply RoundTrip.andImm | orImm => apply RoundTrip.orImm | xorImm => apply RoundTrip.xorImm
  | andnImm => apply RoundTrip.andnImm | shlImm => apply RoundTrip.shlImm | shrImm => apply RoundTrip.shrImm | sraImm => apply RoundTrip.sraImm
  | rotImm => apply RoundTrip.rotImm | minImm => apply RoundTrip.minImm | maxImm => apply RoundTrip.maxImm | cmpImm => apply RoundTrip.cmpImm
  | limm => apply RoundTrip.limm | br => apply RoundTrip.br | jmp => apply RoundTrip.jmp | call => apply RoundTrip.call | ret => apply RoundTrip.ret
  | jmpReg => apply RoundTrip.jmpReg | callReg => apply RoundTrip.callReg | nop => apply RoundTrip.nop | halt => apply RoundTrip.halt
  | bkpt => apply RoundTrip.bkpt | taskend => apply RoundTrip.taskend | trap => apply RoundTrip.trap | eret => apply RoundTrip.eret
  | sysrd => apply RoundTrip.sysrd | syswr => apply RoundTrip.syswr | pause => apply RoundTrip.pause | yield => apply RoundTrip.yield
  | dsync => apply RoundTrip.dsync | fenceAcq => apply RoundTrip.fenceAcq | fenceRel => apply RoundTrip.fenceRel
  | fenceAr => apply RoundTrip.fenceAr | fenceP => apply RoundTrip.fenceP | ringWaitf => apply RoundTrip.ringWaitf
  | ringWaite => apply RoundTrip.ringWaite | cadv => apply RoundTrip.cadv | cset => apply RoundTrip.cset | cget => apply RoundTrip.cget
  | ldB => apply RoundTrip.ldB | ldH => apply RoundTrip.ldH | ldW => apply RoundTrip.ldW | ldD => apply RoundTrip.ldD | ldBN => apply RoundTrip.ldBN
  | ldHN => apply RoundTrip.ldHN | ldWN => apply RoundTrip.ldWN | ldWAcq => apply RoundTrip.ldWAcq | ldDAcq => apply RoundTrip.ldDAcq
  | ldt => apply RoundTrip.ldt | pref => apply RoundTrip.pref | stB => apply RoundTrip.stB | stH => apply RoundTrip.stH | stW => apply RoundTrip.stW
  | stD => apply RoundTrip.stD | stWRel => apply RoundTrip.stWRel | stDRel => apply RoundTrip.stDRel | amoAdd => apply RoundTrip.amoAdd
  | amoFadd => apply RoundTrip.amoFadd | amoBadd => apply RoundTrip.amoBadd | amoBfin => apply RoundTrip.amoBfin | amoMin => apply RoundTrip.amoMin
  | amoMax => apply RoundTrip.amoMax | amoAnd => apply RoundTrip.amoAnd | amoOr => apply RoundTrip.amoOr | amoXor => apply RoundTrip.amoXor
  | amoSwap => apply RoundTrip.amoSwap | amoCas => apply RoundTrip.amoCas | sdef => apply RoundTrip.sdef | sgo => apply RoundTrip.sgo
  | sstop => apply RoundTrip.sstop | sstat => apply RoundTrip.sstat | scrldStream => apply RoundTrip.scrldStream
  | scrldOctet => apply RoundTrip.scrldOctet | scrstStream => apply RoundTrip.scrstStream | scrstOctet => apply RoundTrip.scrstOctet
  | ringAdvC => apply RoundTrip.ringAdvC | ringAdvP => apply RoundTrip.ringAdvP | ringPushA => apply RoundTrip.ringPushA
  | ringPushV => apply RoundTrip.ringPushV | ringPopA => apply RoundTrip.ringPopA | ringPopV => apply RoundTrip.ringPopV
  | ringDef => apply RoundTrip.ringDef | tlook => apply RoundTrip.tlook | tset => apply RoundTrip.tset | tready => apply RoundTrip.tready
  | treadyClr => apply RoundTrip.treadyClr | tdrop => apply RoundTrip.tdrop | vadd => apply RoundTrip.vadd | vsub => apply RoundTrip.vsub
  | vmul => apply RoundTrip.vmul | vminI => apply RoundTrip.vminI | vminN => apply RoundTrip.vminN | vmaxI => apply RoundTrip.vmaxI
  | vmaxN => apply RoundTrip.vmaxN | vaddsI => apply RoundTrip.vaddsI | vaddsN => apply RoundTrip.vaddsN | vsubsI => apply RoundTrip.vsubsI
  | vsubsN => apply RoundTrip.vsubsN | vand => apply RoundTrip.vand | vor => apply RoundTrip.vor | vxor => apply RoundTrip.vxor
  | vandn => apply RoundTrip.vandn | vshl => apply RoundTrip.vshl | vshr => apply RoundTrip.vshr | vsra => apply RoundTrip.vsra
  | vceq => apply RoundTrip.vceq | vcltI => apply RoundTrip.vcltI | vcltN => apply RoundTrip.vcltN | vmov => apply RoundTrip.vmov
  | vbcs => apply RoundTrip.vbcs | vins => apply RoundTrip.vins | vext => apply RoundTrip.vext | vidx => apply RoundTrip.vidx
  | dot4S => apply RoundTrip.dot4S | mkAnd => apply RoundTrip.mkAnd | mkOr => apply RoundTrip.mkOr | mkXor => apply RoundTrip.mkXor
  | mkAndn => apply RoundTrip.mkAndn | mkSet => apply RoundTrip.mkSet | vfadd => apply RoundTrip.vfadd | vfsub => apply RoundTrip.vfsub
  | vfmul => apply RoundTrip.vfmul | vfma => apply RoundTrip.vfma | vfnma => apply RoundTrip.vfnma | vfmin => apply RoundTrip.vfmin
  | vfmax => apply RoundTrip.vfmax | vfabs => apply RoundTrip.vfabs | vfneg => apply RoundTrip.vfneg | vfceq => apply RoundTrip.vfceq
  | vfclt => apply RoundTrip.vfclt | vfcle => apply RoundTrip.vfcle | vfcun => apply RoundTrip.vfcun | vfmuls => apply RoundTrip.vfmuls
  | vfadds => apply RoundTrip.vfadds | rotr => apply RoundTrip.rotr | rotc => apply RoundTrip.rotc | bcr => apply RoundTrip.bcr
  | bcc => apply RoundTrip.bcc | redrFadd => apply RoundTrip.redrFadd | redrFmax => apply RoundTrip.redrFmax | redrFmin => apply RoundTrip.redrFmin
  | redrAdd => apply RoundTrip.redrAdd | redrMaxI => apply RoundTrip.redrMaxI | redrMinI => apply RoundTrip.redrMinI
  | redrMaxN => apply RoundTrip.redrMaxN | redrMinN => apply RoundTrip.redrMinN | redcFadd => apply RoundTrip.redcFadd
  | redcFmax => apply RoundTrip.redcFmax | redcFmin => apply RoundTrip.redcFmin | redcAdd => apply RoundTrip.redcAdd
  | redcMaxI => apply RoundTrip.redcMaxI | redcMinI => apply RoundTrip.redcMinI | redcMaxN => apply RoundTrip.redcMaxN
  | redcMinN => apply RoundTrip.redcMinN | cvt => apply RoundTrip.cvt | rcpa => apply RoundTrip.rcpa | rsqa => apply RoundTrip.rsqa
  | rcpn => apply RoundTrip.rcpn | rsqn => apply RoundTrip.rsqn | exp2 => apply RoundTrip.exp2 | log2 => apply RoundTrip.log2
  | rand => apply RoundTrip.rand | vld => apply RoundTrip.vld | vst => apply RoundTrip.vst | vgath => apply RoundTrip.vgath
  | vscat => apply RoundTrip.vscat | vamoAdd => apply RoundTrip.vamoAdd | vamoFadd => apply RoundTrip.vamoFadd
  | vamoMinI => apply RoundTrip.vamoMinI | vamoMinN => apply RoundTrip.vamoMinN | vamoMaxI => apply RoundTrip.vamoMaxI
  | vamoMaxN => apply RoundTrip.vamoMaxN | vamoAnd => apply RoundTrip.vamoAnd | vamoOr => apply RoundTrip.vamoOr
  | vamoXor => apply RoundTrip.vamoXor | vamoSwap => apply RoundTrip.vamoSwap | rowMax => apply RoundTrip.rowMax | rowExp => apply RoundTrip.rowExp
  | rowScl => apply RoundTrip.rowScl | chain => apply RoundTrip.chain | mma => apply RoundTrip.mma | mmac => apply RoundTrip.mmac
  | mloadb => apply RoundTrip.mloadb | mcsum => apply RoundTrip.mcsum | mseed => apply RoundTrip.mseed | mzero => apply RoundTrip.mzero
  | mdrain => apply RoundTrip.mdrain | mspill => apply RoundTrip.mspill | mfill => apply RoundTrip.mfill | mstat => apply RoundTrip.mstat
  | mchk => apply RoundTrip.mchk | draw => apply RoundTrip.draw | drawW => apply RoundTrip.drawW | cpgo => apply RoundTrip.cpgo
  | cpwait => apply RoundTrip.cpwait | cpstat => apply RoundTrip.cpstat | cpkill => apply RoundTrip.cpkill | popen => apply RoundTrip.popen
  | pld => apply RoundTrip.pld | pst => apply RoundTrip.pst | pstref => apply RoundTrip.pstref | pmkref => apply RoundTrip.pmkref
  | pseal => apply RoundTrip.pseal | post => apply RoundTrip.post | precv => apply RoundTrip.precv | precvW => apply RoundTrip.precvW
  | pfree => apply RoundTrip.pfree | qreq => apply RoundTrip.qreq | qstat => apply RoundTrip.qstat | qwait => apply RoundTrip.qwait
  | qresume => apply RoundTrip.qresume | qarm => apply RoundTrip.qarm | qarmClr => apply RoundTrip.qarmClr | qhoriz => apply RoundTrip.qhoriz
  | settle => apply RoundTrip.settle | tlbinv => apply RoundTrip.tlbinv | tlbinvAll => apply RoundTrip.tlbinvAll
  | tlbsync => apply RoundTrip.tlbsync | pgdisc => apply RoundTrip.pgdisc | pgseal => apply RoundTrip.pgseal
  | pgsealClr => apply RoundTrip.pgsealClr | tmread => apply RoundTrip.tmread | tmreadRec => apply RoundTrip.tmreadRec
  | tmset => apply RoundTrip.tmset | tmsetClr => apply RoundTrip.tmsetClr | planeswRel => apply RoundTrip.planeswRel
  | planeswDrop => apply RoundTrip.planeswDrop | planeswHold => apply RoundTrip.planeswHold | swgstat => apply RoundTrip.swgstat
  | swgstatRec => apply RoundTrip.swgstatRec | swgstatHit => apply RoundTrip.swgstatHit | swgstatLast => apply RoundTrip.swgstatLast
  | nopC => apply RoundTrip.nopC | haltC => apply RoundTrip.haltC | yieldC => apply RoundTrip.yieldC | retC => apply RoundTrip.retC
  | bkptC => apply RoundTrip.bkptC | taskendC => apply RoundTrip.taskendC | movC => apply RoundTrip.movC | addC => apply RoundTrip.addC
  | subC => apply RoundTrip.subC | andC => apply RoundTrip.andC | orC => apply RoundTrip.orC | xorC => apply RoundTrip.xorC
  | mulC => apply RoundTrip.mulC | addCImm => apply RoundTrip.addCImm | limmC => apply RoundTrip.limmC | shlC => apply RoundTrip.shlC
  | shrC => apply RoundTrip.shrC | sraC => apply RoundTrip.sraC | brC => apply RoundTrip.brC | cadvC => apply RoundTrip.cadvC
  | pauseC => apply RoundTrip.pauseC | ringWaitfC => apply RoundTrip.ringWaitfC | ringWaiteC => apply RoundTrip.ringWaiteC
  | ringAdvCC => apply RoundTrip.ringAdvCC | ringAdvPC => apply RoundTrip.ringAdvPC | ldDC => apply RoundTrip.ldDC | stDC => apply RoundTrip.stDC
  | cgetC => apply RoundTrip.cgetC
  | _ => exact trivial

/-- Settles O57, by the round trip of the constructor at hand. -/
theorem encodeThenDecode : Obligations.EncodeThenDecode := by
  intro i c w hwf hread henc
  have h := roundTrip i
  rw [RoundTrip.Statement, henc] at h
  exact h c hwf hread

/-! ## Words of the manual -/

/-- A wide item of major 0x1E is in the reserved space, whatever its other bits (R73). -/
theorem decode_major30 (c : StrandId) (d : BitVec 26) : decode c (.wide (0b1#1 ++ 0x1E#5 ++ d)) = .error .reservedSpace := by
  refine Laws.word (P := fun w => decode c (.wide w) = .error .reservedSpace) fun w hw => ?_
  have major : w.extractLsb' 26 5 = 0x1E#5 := by
    rw [← hw, hiPart _ _ 26 5 (by decide), loPart _ _ _ 5 (by decide)]
    rfl
  simp [decode, decodeWide, decodeLow, major]

/-- Settles O58: each word is read by evaluation, and major 0x1E with any low bits by its major field. -/
theorem decodeWords : Obligations.DecodeWords :=
  ⟨rfl, rfl, rfl, rfl, rfl, rfl, rfl, rfl, rfl, rfl, rfl, rfl, rfl, rfl, rfl, rfl, rfl, rfl, rfl, rfl, rfl,
    decode_major30 .K, rfl⟩

end Sys2Proof.Machine
end

section
/-!
PROOFS. The step of the machine (R69, R77, R385, log 2): a planned move, or a strand's own turn, comes to what the item or the event means.
-/
namespace Sys2Proof.Machine

/-! ## Moves (log 2) -/

/-- A move whose cycles pass with nothing due is made at their end. -/
theorem State.moveAfter_comes {u : State} {n : Nat} (h : comes u n) (a : Act) : u.moveAfter ⟨n, a⟩ = (u.tick n).act a := by
  obtain ⟨passes, due⟩ := h
  simp [State.moveAfter, passes, due]

/-- A move on whose way something falls due stays planned with the cycles that are left. -/
theorem State.moveAfter_waits {u : State} {n : Nat} (h : ¬comes u n) (a : Act) :
    u.moveAfter ⟨n, a⟩ = .next { u.tick (u.passes n) with agenda := ⟨n - u.passes n, a⟩ :: u.agenda } := by
  have early : ¬((decide (u.passes n = n) && (u.tick (u.passes n)).due.isNone) = true) := by
    intro hc
    simp only [Bool.and_eq_true, decide_eq_true_eq, Option.isNone_iff_eq_none] at hc
    obtain ⟨passes, due⟩ := hc
    exact h ⟨passes, by rwa [passes] at due⟩
  simp only [State.moveAfter]
  rw [if_neg early]
  rfl

/-- With nothing due, the step is the next planned move. -/
theorem step_planned {s : State} (hd : s.due = none) {m : Move} {rest : List Move} (ha : s.agenda = m :: rest) :
    step s = { s with agenda := rest }.moveAfter m := by
  simp only [step, oneMove, hd, ha]

/-- With nothing due or planned, a strand whose turn it is issues after a cycle. -/
theorem step_turn {s : State} {x : StrandId} (hd : s.due = none) (ha : s.agenda = []) (ht : s.turn = strandNum x) :
    step s = { s with turn := s.turn + 1 }.moveAfter ⟨1, .issue x⟩ := by
  have own : strandNum x < 4 ∧ strandOf (strandNum x) = x := by cases x <;> decide
  simp only [step, oneMove, hd, ha, State.ownMove, ht, own, if_true]

/-! ## The item of a strand (R69, R77) -/

/-- A strand that stands at an item of its block, alone, and may issue, runs that item. -/
theorem issue_item {s : State} {x : StrandId} {n : Nat} (h : atOwnItem (turnOf s x n) x) :
    issue x (s.tick n) =
      (turnOf s x n).oneItem (itemAt ((turnOf s x n).code x) ((turnOf s x n).strand x).pc.toNat) := by
  have turn : { s.tick n with cur := x, dry := false } = turnOf s x n := rfl
  obtain ⟨may, rerun, alone, inCode, notHeader, notEnd, item⟩ := h
  simp only [issue, turn, may, rerun, alone, State.fetchesPast_of_pastCode inCode, notHeader, notEnd, item, Bool.not_true,
    Bool.false_and, Bool.or_self, Bool.false_eq_true, if_false]

/-- The item of the issuing strand: the meaning of the instruction it decodes to, the cause of its refusal, or a slot's action. -/
theorem State.oneItem_results {u : State} {x : StrandId} (hx : u.cur = x) (it : Item) :
    (u.decodeSlot x it = none →
      (∀ i, decode x it = .ok i → u.oneItem it = exec i u) ∧
      (decode x it = .error .reservedSpace → u.oneItem it = exec (.reservedSpaceItem (itemBits it) (itemCompact it)) u) ∧
      (decode x it = .error .illegalEncoding → u.oneItem it = exec (.illegalEncodingItem (itemBits it) (itemCompact it)) u)) ∧
    (∀ n, u.decodeSlot x it = some n → u.oneItem it = .next (u.patched n)) := by
  subst hx
  refine ⟨fun free => ⟨fun i hi => ?_, fun he => ?_, fun he => ?_⟩, fun n claimed => ?_⟩
  · simp only [State.oneItem, free, execItem, hi]
  · simp only [State.oneItem, free, execItem, he]
    rfl
  · simp only [State.oneItem, free, execItem, he]
    rfl
  · simp only [State.oneItem, claimed]

/-- Settles O59: the step is the move that is planned or whose turn it is, an issue runs the item, and the item is what it decodes to. -/
theorem stepRunsInstruction : Obligations.StepRunsInstruction := by
  intro s x hd
  refine ⟨fun n rest ha hc own => ?_, fun ha ht hc own => ?_, fun n i rest ha hc => ?_, fun n i rest ha hc => ?_,
    fun n a rest ha hc => ?_⟩
  · rw [step_planned hd ha, State.moveAfter_comes hc, State.act, issue_item own]
    exact State.oneItem_results rfl _
  · rw [step_turn hd ha ht, State.moveAfter_comes hc, State.act, issue_item own]
    exact State.oneItem_results rfl _
  · rw [step_planned hd ha, State.moveAfter_comes hc, State.act]
  · rw [step_planned hd ha, State.moveAfter_comes hc, State.act]
  · rw [step_planned hd ha, State.moveAfter_waits hc]

end Sys2Proof.Machine
end

section
/-!
PROOFS. Scalar arithmetic (R76, R132, R136 to R138): what the shared operations of its items come to, the results of the immediate and
compact forms, and the frame of them all.
-/
namespace Sys2Proof.Machine

/-! ## The shared operations -/

/-- Every strand may issue an item that is legal in all. -/
theorem allStrands_contains (x : StrandId) : allStrands.contains x = true := by cases x <;> rfl

/-- An item that passes its checks ends as its body says. -/
theorem runItem_body (s : State) (len : Nat) (body : Res) : runItem s len allStrands false true true body = s.finish s.cur len body := by
  simp only [runItem, allStrands_contains, Bool.not_true, Bool.false_and, Bool.false_eq_true, if_false]

/-- An item whose checks pass and whose body writes one register. -/
theorem runItem_putReg {s : State} {x : StrandId} (hi : s.issues x) (d : BitVec 6) (len : Nat) (v : BitVec 64) {cls : Bool} (hc : cls = true) :
    runItem s len allStrands false cls true (.retire (s.putReg x d v)) = (s.putReg x d v).after x len := by
  obtain ⟨-, hdry, -, heaf⟩ := id hi
  exact runItem_retire hi (allStrands_contains x) (.inl rfl) hc rfl (by simpa using hdry) (by simpa using heaf)

section
variable {s : State} {x : StrandId} (hi : s.issues x) {d a b : BitVec 6} (hd : regOk x d = true) (len : Nat)
include hi hd

theorem alu_eq (ha : regOk x a = true) (hb : regOk x b = true) (f : BitVec 64 → BitVec 64 → BitVec 64) :
    alu s len d a b f = (s.putReg x d (f (s.reg x a) (s.reg x b))).after x len := by
  have cur : s.cur = x := hi.1
  simp only [alu, cur]
  exact runItem_putReg hi d len _ (by simp [hd, ha, hb])

theorem aluImm_eq (ha : regOk x a = true) (v : BitVec 64) (f : BitVec 64 → BitVec 64 → BitVec 64) :
    aluImm s len d a v f = (s.putReg x d (f (s.reg x a) v)).after x len := by
  have cur : s.cur = x := hi.1
  simp only [aluImm, cur]
  exact runItem_putReg hi d len _ (by simp [hd, ha])

theorem aluOne_eq (ha : regOk x a = true) (f : BitVec 64 → BitVec 64) :
    aluOne s len d a f = (s.putReg x d (f (s.reg x a))).after x len := by
  have cur : s.cur = x := hi.1
  simp only [aluOne, cur]
  exact runItem_putReg hi d len _ (by simp [hd, ha])

theorem loadConst_eq (v : BitVec 64) : loadConst s len d v = (s.putReg x d v).after x len := by
  have cur : s.cur = x := hi.1
  simp only [loadConst, cur]
  exact runItem_putReg hi d len _ hd

end

/-! ## Results of the immediate and compact forms (R138, R76) -/

/-- A count of at most six bits is the shift count of its zero extension. -/
theorem shiftCount_setWidth {w : Nat} (hw : w ≤ 6) (n : BitVec w) : shiftCount (n.setWidth 64) = n.toNat := by
  have hn : n.toNat < 2 ^ 6 := n.isLt.trans_le (Nat.pow_le_pow_right (by decide) hw)
  simp only [shiftCount, BitVec.extractLsb'_toNat, BitVec.toNat_setWidth, Nat.shiftRight_zero]
  omega

theorem minSigned_eq (a b : BitVec 64) : minSigned a b = if a.toInt ≤ b.toInt then a else b := by
  simp only [minSigned, BitVec.slt_eq_decide, decide_eq_true_eq, ← not_le, ite_not]

theorem maxSigned_eq (a b : BitVec 64) : maxSigned a b = if a.toInt ≤ b.toInt then b else a := by
  simp only [maxSigned, BitVec.slt_eq_decide, decide_eq_true_eq]
  split_ifs with hlt hle hle
  · rfl
  · omega
  · exact BitVec.eq_of_toInt_eq (by omega)
  · rfl

/-- Settles O3: every immediate and compact form is a shared operation on its operands. -/
theorem aluImmediateAndCompactResults : Obligations.AluImmediateAndCompactResults := by
  refine ⟨fun s x d a i n l hi hd ha => ?_, fun s x d b i hi => ?_⟩
  · intro A B gives
    have imm (f : BitVec 64 → BitVec 64 → BitVec 64) :
        Host.Outcome.next (aluImm s 2 d a B f) = (.next ((s.putReg x d (f A B)).after x 2) : Host.Outcome State Fault Refusal) :=
      congrArg _ (aluImm_eq hi hd 2 ha B f)
    have shift (f : BitVec 64 → Nat → BitVec 64) :
        Host.Outcome.next (aluImm s 2 d a (n.setWidth 64) fun p q => f p (shiftCount q)) =
          (.next ((s.putReg x d (f A n.toNat)).after x 2) : Host.Outcome State Fault Refusal) := by
      rw [aluImm_eq hi hd 2 ha, shiftCount_setWidth (Nat.le_refl 6)]
    refine ⟨imm (· + ·), imm (· - ·), imm (· * ·), imm (· &&& ·), imm (· ||| ·), imm (· ^^^ ·), imm fun p q => p &&& ~~~q,
      shift fun p k => p <<< k, shift fun p k => p >>> k, shift fun p k => p.sshiftRight k, shift fun p k => p.rotateRight k, ?_, ?_,
      congrArg _ (loadConst_eq hi hd 2 _)⟩
    · exact (imm minSigned).trans (by rw [minSigned_eq])
    · exact (imm maxSigned).trans (by rw [maxSigned_eq])
  · intro D A B gives
    have hd : regOk x D = true := regOk_sReg x d
    have reg (f : BitVec 64 → BitVec 64 → BitVec 64) :
        Host.Outcome.next (alu s 1 D D (sReg b) f) = (.next ((s.putReg x D (f A B)).after x 1) : Host.Outcome State Fault Refusal) :=
      congrArg _ (alu_eq hi hd 1 hd (regOk_sReg x b) f)
    have shift (f : BitVec 64 → Nat → BitVec 64) :
        Host.Outcome.next (aluImm s 1 D D (i.setWidth 64) fun p q => f p (shiftCount q)) =
          (.next ((s.putReg x D (f A i.toNat)).after x 1) : Host.Outcome State Fault Refusal) := by
      rw [aluImm_eq hi hd 1 hd, shiftCount_setWidth (by decide)]
    exact ⟨congrArg _ (aluOne_eq hi hd 1 (regOk_sReg x b) id), reg (· + ·), reg (· - ·), reg (· &&& ·), reg (· ||| ·), reg (· ^^^ ·),
      reg (· * ·), congrArg _ (aluImm_eq hi hd 1 hd _ (· + ·)), congrArg _ (loadConst_eq hi hd 1 _), shift fun p k => p <<< k,
      shift fun p k => p >>> k, shift fun p k => p.sshiftRight k⟩

/-! ## The frame (R132, R136 to R138) -/

/-- What an arithmetic item that has retired leaves of state `s` of strand `x`: all but the registers `dest` and the position. -/
def onlyWrites (s t : State) (x : StrandId) (dest : List (BitVec 6)) : Prop :=
  s.regsSame t x dest ∧ s.statusSame t x ∧ s.restSame t x ∧
    ∀ y, y ≠ x → ∀ r : BitVec 6, r.getLsbD 5 = false → t.reg y r = s.reg y r

theorem onlyWrites.refl (s : State) (x : StrandId) (dest : List (BitVec 6)) : onlyWrites s s x dest :=
  ⟨fun _ _ => rfl, ⟨rfl, rfl, rfl, rfl, rfl, rfl, rfl⟩, ⟨fun _ _ => rfl, rfl, rfl, rfl, rfl, rfl, rfl, rfl, rfl, rfl, rfl, rfl⟩,
    fun _ _ _ _ => rfl⟩

/-- A write to a register leaves every other strand as it is. -/
theorem State.putReg_other (s : State) {x y : StrandId} (h : y ≠ x) (f : BitVec 6) (v : BitVec 64) :
    (s.putReg x f v).strand y = s.strand y := by
  simp only [State.putReg]
  split_ifs
  · cases y <;> rfl
  · rfl
  · exact s.onStrand_other _ h

theorem onlyWrites.putReg {s t : State} {x : StrandId} {dest : List (BitVec 6)} (h : onlyWrites s t x dest) {d : BitVec 6}
    (hd : d ∈ dest) (v : BitVec 64) : onlyWrites s (t.putReg x d v) x dest := by
  obtain ⟨regs, ⟨fl, cc, coord, calls, member, phase, run⟩, ⟨strands, rest⟩, others⟩ := h
  refine ⟨fun r hr => ?_, by simp [State.statusSame, *], ⟨fun y hy => ?_, by simpa using rest⟩, fun y hy r hr => ?_⟩
  · rw [State.reg_putReg_other _ _ (.inl fun e => hr (by rwa [e])), regs r hr]
  · rw [State.putReg_other _ hy, strands y hy]
  · rw [← others y hy r hr]
    by_cases hf : d.getLsbD 5 = true
    · exact State.reg_putReg_other _ _ (.inl fun e => by rw [e, hf] at hr; cases hr)
    · exact State.reg_putReg_other _ _ (.inr ⟨hy, by simpa using hf⟩)

/-- The end of an item changes no register. -/
theorem State.after_reg (t : State) (x y : StrandId) (len : Nat) (r : BitVec 6) : (t.after x len).reg y r = t.reg y r := by
  cases x <;> cases y <;> rfl

/-- The end of an item leaves every other strand as it is. -/
theorem State.after_other (t : State) {x y : StrandId} (h : y ≠ x) (len : Nat) : (t.after x len).strand y = t.strand y := by
  rw [← t.onStrand_other (fun r => { r with pc := r.pc + BitVec.ofNat 16 len }.settled) h]
  cases y <;> rfl

theorem onlyWrites.after {s t : State} {x : StrandId} {dest : List (BitVec 6)} (h : onlyWrites s t x dest) (len : Nat) :
    onlyWrites s (t.after x len) x dest := by
  obtain ⟨regs, status, ⟨strands, rest⟩, others⟩ := h
  refine ⟨fun r hr => (t.after_reg x x len r).trans (regs r hr), ?_, ⟨fun y hy => (t.after_other hy len).trans (strands y hy), ?_⟩,
    fun y hy r hr => (t.after_reg x y len r).trans (others y hy r hr)⟩
  · cases x <;> exact status
  · cases x <;> exact rest

/-- An item that retires has passed its checks, and its body has retired. -/
theorem runItem_retired {s : State} {x : StrandId} {len : Nat} {cls ok : Bool} {body : Res} (hi : s.issues x)
    (h : (runItem s len allStrands false cls ok body).last = .retired) : cls = true ∧ ok = true ∧ ∃ u, body = .retire u := by
  cases cls with
  | false => rw [runItem_class hi (allStrands_contains x) (.inl rfl)] at h; cases h
  | true =>
    cases ok with
    | false => rw [runItem_range hi (allStrands_contains x) (.inl rfl)] at h; cases h
    | true =>
      refine ⟨rfl, rfl, ?_⟩
      cases body with
      | retire u => exact ⟨u, rfl⟩
      | jump u => rw [runItem_body] at h; cases h
      | wait u => rw [runItem_wait (allStrands_contains s.cur) (.inl rfl) rfl rfl] at h; cases h
      | trap c d a => rw [runItem_trap hi (allStrands_contains x) (.inl rfl) rfl rfl] at h; cases h

section
variable {s : State} {x : StrandId} (hi : s.issues x) {len : Nat} {cls : Bool} {d : BitVec 6} {v : BitVec 64}
include hi

/-- The frame of an item whose body writes one register. -/
theorem onlyWrites_of_retire (h : (runItem s len allStrands false cls true (.retire (s.putReg s.cur d v))).last = .retired) :
    onlyWrites s (runItem s len allStrands false cls true (.retire (s.putReg s.cur d v))) x [d] := by
  obtain ⟨hc, -, -⟩ := runItem_retired hi h
  obtain ⟨hcur, hdry, -, heaf⟩ := id hi
  rw [hcur, runItem_retire hi (allStrands_contains x) (.inl rfl) hc rfl (by simpa using hdry) (by simpa using heaf)]
  exact ((onlyWrites.refl s x [d]).putReg (List.mem_singleton_self d) v).after len

/-- The frame of a division. -/
theorem onlyWrites_of_divide {a b : BitVec 6} {f : BitVec 64 → BitVec 64 → BitVec 64} (h : (divide s d a b f).last = .retired) :
    onlyWrites s (divide s d a b f) x [d] := by
  by_cases hz : s.reg s.cur b = 0
  · simp only [divide, if_pos hz] at h
    obtain ⟨-, -, u, hu⟩ := runItem_retired hi h
    cases hu
  · simp only [divide, if_neg hz] at h ⊢
    exact onlyWrites_of_retire hi h

/-- The frame of ADD128: the pair it writes. -/
theorem onlyWrites_of_pair {ok : Bool} (heven : ok = true → evenOk d = true) {v : BitVec 128}
    (h : (runItem s len allStrands false cls ok (.retire (s.putPair s.cur d v))).last = .retired) :
    onlyWrites s (runItem s len allStrands false cls ok (.retire (s.putPair s.cur d v))) x [d, d + 1] := by
  obtain ⟨hc, hok, -⟩ := runItem_retired hi h
  obtain ⟨hcur, hdry, -, heaf⟩ := id hi
  have hpair : pairOf d = d + 1 := by
    have := heven hok
    clear * - this
    revert d
    decide
  rw [hcur, runItem_retire hi (allStrands_contains x) (.inl rfl) hc hok (by simpa [State.putPair] using hdry)
    (by simpa [State.putPair] using heaf)]
  simp only [State.putPair, hpair]
  exact (((onlyWrites.refl s x _).putReg (by simp) _).putReg (by simp) _).after len

end

/-- Every arithmetic item with a destination writes no more than that, where it retires. -/
theorem exec_alu_onlyWrites {i : Instr} {dest : List (BitVec 6)} {s t : State} {x : StrandId} (hdest : aluDest i = some dest)
    (hi : s.issues x) (he : exec i s = .next t) (h : t.last = .retired) : onlyWrites s t x dest := by
  cases i with
  | add | sub | mul | mulhI | mulhN | mulhIn | and | or | xor | andn | shl | shr | sra | rot | clz | popc | minI | minN | maxI | maxN
  | sel | mov | addImm | subImm | mulImm | andImm | orImm | xorImm | andnImm | shlImm | shrImm | sraImm | rotImm | minImm | maxImm
  | limm | movC | addC | subC | andC | orC | xorC | mulC | addCImm | limmC | shlC | shrC | sraC =>
    cases hdest
    cases he
    exact onlyWrites_of_retire hi h
  | divI | divN | remI | remN =>
    cases hdest
    cases he
    exact onlyWrites_of_divide hi h
  | add128 d a b =>
    cases hdest
    cases he
    exact onlyWrites_of_pair hi (fun hok => by simp only [Bool.and_eq_true] at hok; exact hok.1.1) h
  | _ => cases hdest

/-! ## Address registers on other strands (R71, R77 step 7) -/

/-- An address register is of no class of K, V and M. -/
theorem regOk_address {x : StrandId} (hx : x ≠ .A) {r : BitVec 6} (h : r.getLsbD 5 = true) : regOk x r = false := by
  simp [regOk, h, hx]

/-- Settles O4: the frame by the registers that a body writes; the refusal by the class check, which comes before the body. -/
theorem aluFrame : Obligations.AluFrame := by
  refine ⟨fun i dest s t x hdest hi he h => ?_, fun s x d a b i hi hx hreg => ?_⟩
  · obtain ⟨regs, status, rest, others⟩ := exec_alu_onlyWrites hdest hi he h
    have hpk : t.pk = s.pk := by
      obtain ⟨-, -, -, -, -, -, -, -, -, -, -, hpk⟩ := rest
      exact hpk
    exact ⟨regs, status, rest, others, fun p o => by simp only [State.scratchByte, hpk], fun v pa => by simp only [State.globalByte, hpk]⟩
  · have cur : s.cur = x := hi.1
    have refused {cls : Bool} (hc : cls = false) (body : Res) : runItem s 2 allStrands false cls true body = s.raises x 0x03 0 0 := by
      rw [hc]
      exact runItem_class hi (allStrands_contains x) (.inl rfl)
    have three : (regOk x d && regOk x a && regOk x b) = false := by
      rcases hreg with h | h | h <;> simp [regOk_address hx h]
    have two (h : d.getLsbD 5 = true ∨ a.getLsbD 5 = true) : (regOk x d && regOk x a) = false := by
      rcases h with h | h <;> simp [regOk_address hx h]
    exact ⟨congrArg _ (refused (by rw [cur]; exact three) _), congrArg _ (refused (by rw [cur]; exact three) _),
      congrArg _ (refused (by rw [cur]; exact three) _), fun h => congrArg _ (refused (by rw [cur]; exact two h) _)⟩

end Sys2Proof.Machine
end

section
/-!
PROOFS. Transfers of control (R68, R106, R118, R119, R126, R139 to R141, R145, R148): where a strand continues, or which cause its target
raises; branches, jumps, calls and returns by that, the return from S, and PAUSE and YIELD.
-/
namespace Sys2Proof.Machine

/-! ## Targets (R68, R119) -/

/-- An instruction of a block stands in its body. -/
theorem inBody_of_isStart {code : List (BitVec 16)} {h p : Nat} (hs : isStart code h p = true) : inBody code h p = true := by
  simp only [isStart, Bool.and_eq_true] at hs
  obtain ⟨within, -⟩ := hs
  exact within

section
variable {s : State} {x : StrandId} {target : Int} {k : State → State}

/-- A target that R68 allows: the strand continues there. -/
theorem State.continueAt_goes (h : mayGo s x target = true) (hcode : (k s).code x = s.code x)
    (hhdr : ((k s).strand x).hdr = (s.strand x).hdr) :
    ∃ u, s.continueAt x target k = .jump u ∧ u.arrives x = goesTo (k s) x target.toNat ∧ u.dry = (k s).dry ∧
      (u.strand x).eaf = ((k s).strand x).eaf := by
  simp only [mayGo, Bool.and_eq_true, Bool.or_eq_true, decide_eq_true_eq, Bool.not_eq_true'] at h
  obtain ⟨⟨⟨low, high⟩, level⟩, place⟩ := h
  have stays : ¬(((s.strand x).lockstep &&
      !(decide (0 ≤ target) && inBody (s.code x) (s.strand x).hdr.toNat target.toNat)) = true) := by
    rcases place with start | ⟨-, alone⟩
    · simp [inBody_of_isStart start, low]
    · simp [alone]
  have allowed : ¬(target < 0 ∨ ((s.code x).length : Int) ≤ target ∨ (!s.levelAllows x target.toNat) = true) := by
    simp only [level, Bool.not_true, Bool.false_eq_true, or_false]
    omega
  simp only [State.continueAt, goesTo, hcode, hhdr]
  rw [if_neg stays, if_neg allowed]
  by_cases start : isStart (s.code x) (s.strand x).hdr.toNat target.toNat = true
  · rw [if_pos start, if_pos start]
    exact ⟨_, rfl, rfl, rfl, by simp⟩
  · have header : isHeader (s.code x) target.toNat = true := (place.resolve_left start).1
    rw [if_neg start, if_neg start, if_pos header]
    exact ⟨_, rfl, rfl, rfl, by simp⟩

/-- A target outside the body, in lockstep. -/
theorem State.continueAt_leaves (h : leavesBlock s x target) : s.continueAt x target k = .fail cBadBlock 0 := by
  obtain ⟨together, outside⟩ := h
  have leaves : ((s.strand x).lockstep &&
      !(decide (0 ≤ target) && inBody (s.code x) (s.strand x).hdr.toNat target.toNat)) = true := by
    simp only [together, Bool.true_and, Bool.not_eq_true', Bool.and_eq_false_iff, decide_eq_false_iff_not]
    rw [not_and_or] at outside
    simpa using outside
  simp only [State.continueAt]
  rw [if_pos leaves]

/-- A target that R68 or R119 refuses. -/
theorem State.continueAt_refused (h : refuses s x target) :
    s.continueAt x target k = .fail cPcAlign ((BitVec.ofInt 16 target).setWidth 64) := by
  obtain ⟨inside, bad⟩ := h
  have stays : ¬(((s.strand x).lockstep &&
      !(decide (0 ≤ target) && inBody (s.code x) (s.strand x).hdr.toNat target.toNat)) = true) := by
    intro hc
    simp only [Bool.and_eq_true, Bool.not_eq_true'] at hc
    obtain ⟨together, outside⟩ := hc
    exact inside ⟨together, fun within => by simp [within] at outside⟩
  simp only [State.continueAt]
  rw [if_neg stays]
  by_cases allowed : target < 0 ∨ ((s.code x).length : Int) ≤ target ∨ (!s.levelAllows x target.toNat) = true
  · rw [if_pos allowed]
  · have nowhere : isStart (s.code x) (s.strand x).hdr.toNat target.toNat = false ∧ isHeader (s.code x) target.toNat = false := by
      rcases bad with h | h | h | h
      · exact absurd (.inl h) allowed
      · exact absurd (.inr (.inl h)) allowed
      · exact absurd (.inr (.inr (by simp [h]))) allowed
      · exact h
    rw [if_neg allowed, if_neg (by simp [nowhere]), if_neg (by simp [nowhere])]

variable (hi : s.issues x) (len : Nat)
include hi

/-- An item that raises a cause when it has passed its checks. -/
theorem runItem_fail (c : BitVec 6) (d : BitVec 64) :
    runItem s len allStrands false true true (.fail c d) = s.raises x c d 0 :=
  runItem_trap hi (allStrands_contains x) (.inl rfl) rfl rfl

/-- An item that continues at an allowed target. -/
theorem runItem_goes (h : mayGo s x target = true) (hcode : (k s).code x = s.code x)
    (hhdr : ((k s).strand x).hdr = (s.strand x).hdr) (hdry : (k s).dry = s.dry)
    (heaf : ((k s).strand x).eaf = (s.strand x).eaf) :
    runItem s len allStrands false true true (s.continueAt x target k) = goesTo (k s) x target.toNat := by
  obtain ⟨u, jumps, arrives, udry, ueaf⟩ := State.continueAt_goes h hcode hhdr
  obtain ⟨-, sdry, -, seaf⟩ := id hi
  rw [jumps, runItem_jump hi (allStrands_contains x) (.inl rfl) rfl rfl (by rw [udry, hdry, sdry]) (by rw [ueaf, heaf, seaf]), arrives]

/-- The three ends of an item that transfers control and does nothing else. -/
theorem transfer_results {i : Instr}
    (he : exec i s = .next (runItem s len allStrands false true true (s.continueAt x target id))) :
    (mayGo s x target = true → exec i s = .next (goesTo s x target.toNat)) ∧
    (leavesBlock s x target → exec i s = .next (s.raises x 0x04 0 0)) ∧
    (refuses s x target → exec i s = .next (s.raises x 0x0B ((BitVec.ofInt 16 target).setWidth 64) 0)) := by
  refine ⟨fun h => ?_, fun h => ?_, fun h => ?_⟩
  · rw [he, runItem_goes hi len h rfl rfl rfl rfl]
    rfl
  · rw [he, State.continueAt_leaves h, runItem_fail hi]
  · rw [he, State.continueAt_refused h, runItem_fail hi]

/-! ## Conditions and branches (R139, R140) -/

/-- The ends of a branch, in the terms of the statement. -/
theorem branch_results {i : Instr} {w : Nat} {c : BitVec 4} {d : BitVec w} (he : exec i s = .next (branch s len c d)) :
    let target : Int := (s.strand x).pc.toNat + d.toInt
    let taken : Prop := c.toNat < 11 ∧ condHolds c.toNat (s.strand x).cc = true
    (11 ≤ c.toNat → exec i s = .next (s.raises x 0x01 0 0)) ∧
    (c.toNat < 11 → condHolds c.toNat (s.strand x).cc = false → exec i s = .next (s.after x len)) ∧
    (taken → exec i s = .next (runItem s len allStrands false true true (s.continueAt x target id))) := by
  obtain ⟨cur, hdry, -, heaf⟩ := id hi
  have ok : condOk c = decide (c.toNat < 11) := rfl
  refine ⟨fun hc => ?_, fun hc hn => ?_, fun ⟨hc, hn⟩ => ?_⟩
  · have bad : condOk c = false := by simp [ok, hc]
    rw [he, branch, bad, runItem_range hi (allStrands_contains x) (.inl rfl)]
  · have good : condOk c = true := by simp [ok, hc]
    simp only [he, branch, good, cur, hn, Bool.false_eq_true, if_false]
    rw [runItem_retire hi (allStrands_contains x) (.inl rfl) rfl rfl hdry heaf]
  · have good : condOk c = true := by simp [ok, hc]
    simp only [he, branch, good, cur, hn, if_true]
    rfl

end

/-- Settles O5: a branch that is taken and a jump are transfers, whose target decides how they end. -/
theorem branchAndJumpResults : Obligations.BranchAndJumpResults := by
  refine ⟨⟨fun cc => ⟨rfl, rfl, rfl, rfl, rfl, rfl, rfl, rfl, rfl, rfl, rfl⟩, fun s x c d e hi => ?_⟩, fun s x d b hi => ?_⟩
  · intro pc runs
    have branches {i : Instr} {w : Nat} {len : Nat} {disp : BitVec w} (he : exec i s = .next (branch s len c disp)) :
        runs i len disp.toInt := by
      obtain ⟨unknown, passes, taken⟩ := branch_results hi len he
      have ends (hc : c.toNat < 11) (hn : condHolds c.toNat (s.strand x).cc = true) :=
        transfer_results hi len (taken ⟨hc, hn⟩)
      exact ⟨unknown, passes, fun hc hn => (ends hc hn).1, fun hc hn => (ends hc hn).2.1, fun hc hn => (ends hc hn).2.2⟩
    exact ⟨branches rfl, branches rfl⟩
  · have cur : s.cur = x := hi.1
    refine ⟨transfer_results hi 2 ?_, transfer_results hi 2 ?_⟩
    · show execJmp d s = _
      rw [execJmp, cur]
      rfl
    · show execJmpReg b s = _
      rw [execJmpReg, cur]

/-! ## Calls and returns (R134, R141) -/

theorem State.putCalls_code (s : State) (x : StrandId) (l : List CallEntry) : (s.putCalls x l).code x = s.code x := by
  unfold State.putCalls
  split
  · rfl
  · exact s.onStrand_code x x _

theorem State.putCalls_dry (s : State) (x : StrandId) (l : List CallEntry) : (s.putCalls x l).dry = s.dry := by
  unfold State.putCalls
  split <;> rfl

/-- A call stack replaces no other part of its strand. -/
theorem State.putCalls_strand (s : State) (x : StrandId) (l : List CallEntry) :
    ((s.putCalls x l).strand x).hdr = (s.strand x).hdr ∧ ((s.putCalls x l).strand x).eaf = (s.strand x).eaf := by
  unfold State.putCalls
  split <;> simp

section
variable {s : State} {x : StrandId} (hi : s.issues x)
include hi

/-- The ends of a call in the terms of the statement. -/
theorem call_results {i : Instr} {target : Int}
    (he : exec i s = .next (runItem s 2 allStrands false true true (s.callTo x target))) :
    let t := s.strand x
    let entry : CallEntry := ⟨BitVec.ofNat 16 (t.pc.toNat + 2), t.hdr, t.remain⟩
    (16 ≤ (s.callStack x).length → exec i s = .next (s.raises x 0x0E 0x01 0)) ∧
    ((s.callStack x).length < 16 → mayGo s x target = true →
      exec i s = .next (goesTo (s.putCalls x (entry :: s.callStack x)) x target.toNat)) := by
  intro t entry
  have hdry : s.dry = false := hi.2.1
  have next : s.afterItem x 2 = t.pc.toNat + 2 := by simp [State.afterItem, hdry, t]
  refine ⟨fun full => ?_, fun room h => ?_⟩
  · rw [he, State.callTo, if_pos full, runItem_fail hi]
  · obtain ⟨hdr, eaf⟩ := s.putCalls_strand x (entry :: s.callStack x)
    have body : s.callTo x target = s.continueAt x target fun u =>
        u.putCalls x (⟨BitVec.ofNat 16 (u.afterItem x 2), t.hdr, t.remain⟩ :: s.callStack x) := by
      rw [State.callTo, if_neg (Nat.not_le.mpr room)]
    rw [he, body]
    refine congrArg _ ((runItem_goes hi 2 h ?_ ?_ ?_ ?_).trans ?_) <;> simp only [next]
    · exact s.putCalls_code x _
    · exact hdr
    · exact s.putCalls_dry x _
    · exact eaf
    · rfl

/-- A return with nothing on the stack. -/
theorem ret_empty (len : Nat) (h : s.callStack x = []) : ret s len = s.raises x 0x0E 0x02 0 := by
  have cur : s.cur = x := hi.1
  simp only [ret, cur, h]
  exact runItem_fail hi len _ _

/-- A return to a place of the caller's block. -/
theorem ret_returns (len : Nat) {e : CallEntry} {rest : List CallEntry} (h : s.callStack x = e :: rest)
    (header : isHeader (s.code x) e.hdr.toNat = true)
    (place : isStart (s.code x) e.hdr.toNat e.pc.toNat = true ∨ e.pc.toNat = bodyEnd (s.code x) e.hdr.toNat)
    (level : s.levelAllows x e.pc.toNat = true) (block : (s.strand x).lockstep = true → e.hdr = (s.strand x).hdr) :
    ret s len = ((s.putCalls x rest).onStrand x fun t => { t with pc := e.pc, hdr := e.hdr, remain := e.remain }).arrives x := by
  obtain ⟨cur, hdry, -, heaf⟩ := id hi
  have allowed : (isHeader (s.code x) e.hdr.toNat &&
      (isStart (s.code x) e.hdr.toNat e.pc.toNat || e.pc.toNat == bodyEnd (s.code x) e.hdr.toNat) &&
      s.levelAllows x e.pc.toNat) = true := by
    simpa [header, level] using place
  have own : ((s.strand x).lockstep && e.hdr != (s.strand x).hdr) = false := by
    cases hl : (s.strand x).lockstep with
    | false => rfl
    | true => simp [block hl]
  simp only [ret, cur, h, allowed, own, Bool.not_true, Bool.false_eq_true, if_false]
  exact runItem_jump hi (allStrands_contains x) (.inl rfl) rfl rfl (by simp [State.putCalls_dry, hdry])
    (by simp [(s.putCalls_strand x rest).2, heaf])

end

/-- Settles O6: a call is a transfer with its entry on the stack; a return goes to the entry on top of it. -/
theorem callAndReturnResults : Obligations.CallAndReturnResults := by
  refine ⟨fun s x d b hi => ?_, fun s x hi => ⟨fun h => ?_, fun e rest h header place level block => ?_⟩⟩
  · have cur : s.cur = x := hi.1
    refine ⟨call_results hi ?_, call_results hi ?_⟩
    · show execCall d s = _
      rw [execCall, cur]
      rfl
    · show execCallReg b s = _
      rw [execCallReg, cur]
  · exact ⟨congrArg _ (ret_empty hi 2 h), congrArg _ (ret_empty hi 1 h)⟩
  · exact ⟨congrArg _ (ret_returns hi 2 h header place level block), congrArg _ (ret_returns hi 1 h header place level block)⟩

/-! ## The return from S (R118, R145) -/

/-- Whether k.epc stands within the block at HDR or just past its body, inside the code section. -/
def State.epcWithin (s : State) : Bool :=
  isHeader (s.code .K) s.sys.epcHdr.toNat &&
    ((isStart (s.code .K) s.sys.epcHdr.toNat s.sys.epcPc.toNat && decide (s.sys.epcPc.toNat < (s.code .K).length)) ||
      (s.sys.epcPc.toNat == bodyEnd (s.code .K) s.sys.epcHdr.toNat && decide (s.sys.epcPc.toNat ≤ (s.code .K).length)))

/-- Where a running K goes on, on its own side of the handler overlay: at its place in the block, or at a header, which it enters afresh. -/
theorem State.eretTo_running {s : State} (hr : (s.strand .K).run = .running)
    (hv : s.sys.plvl = true → s.sys.tvec.toNat ≤ s.sys.epcPc.toNat) : s.eretTo =
      if s.epcWithin then some (s.sys.epcPc, s.sys.epcHdr, s.sys.epcRemain)
      else if isHeader (s.code .K) s.sys.epcPc.toNat || (s.sys.epcEnd && blocksEnd (s.code .K) s.sys.epcPc.toNat &&
          s.sys.epcPc.toNat == s.sys.epcHdr.toNat) then
        some (s.sys.epcPc, s.sys.epcPc, if s.sys.epcPc.toNat = s.sys.epcHdr.toNat then s.sys.epcRemain else 0)
      else none := by
  have side : (s.sys.plvl && decide (s.sys.epcPc.toNat < s.sys.tvec.toNat)) = false := by simpa using hv
  simp only [State.eretTo, hr, side]
  rfl

/-- ERET at S, with a place to go on at: K leaves S for it. -/
theorem exec_eret_leaves {s : State} (hi : s.issues .K) (hs : s.sys.levelS = true) {p : BitVec 16 × BitVec 16 × BitVec 32}
    (hp : s.eretTo = some p) (hd : (s.leaveS p).dry = s.dry) (he : ((s.leaveS p).strand .K).eaf = (s.strand .K).eaf) :
    exec .eret s = .next ((s.leaveS p).arrives .K) := by
  obtain ⟨cur, hdry, -, heaf⟩ := id hi
  show execEret s = _
  simp only [execEret, cur, hs, hp, Bool.not_true, Bool.false_eq_true, if_false]
  exact congrArg _ (runItem_jump hi rfl (.inl rfl) rfl rfl (hd.trans hdry) (he.trans heaf))

/-- What leaving S with PEND clear and nothing held back does: the position, the flags and the level. -/
theorem State.leaveS_results {s : State} (hp : s.sys.pend = false) (hk : s.sys.kHeld = none) (pos : BitVec 16 × BitVec 16 × BitVec 32) :
    ∃ lock synced, s.leaveS pos = (s.onStrand .K fun k => { k with
      flags := s.sys.estatFl &&& 0x1F3F, pc := pos.1, hdr := pos.2.1, remain := pos.2.2, lockstep := lock, synced := synced }).onSys
        fun y => { y with levelS := y.plvl, kHeld := none, lockT := false } := by
  have stays : (s.sys.pend && !s.sys.plvl) = false := by simp [hp]
  simp only [State.leaveS, hk, stays, Bool.false_eq_true, if_false]
  exact ⟨_, _, rfl⟩

/-- Settles O8: ERET by the place it goes on at, PAUSE and YIELD by their bodies. -/
theorem eretPauseAndYieldResults : Obligations.EretPauseAndYieldResults := by
  refine ⟨fun s x hi => ⟨fun hx => ?_, fun hx hs => ?_, fun hx hs hpend hheld hrun hside => ?_⟩, fun s x n m hi => ?_⟩
  · have notK : (x == StrandId.K) = false := by simpa using hx
    show execEret s = _
    rw [execEret, hi.1, notK]
    exact congrArg _ (runItem_class hi (allStrands_contains x) (.inl rfl))
  · subst hx
    show execEret s = _
    simp only [execEret, hi.1, hs, Bool.not_false, if_true]
    exact congrArg _ (runItem_fail hi 2 _ _)
  · subst hx
    intro code h p inBlock returns
    have leaves {hdr : BitVec 16} {remain : BitVec 32} (hp : s.eretTo = some (s.sys.epcPc, hdr, remain)) : returns hdr remain := by
      obtain ⟨lock, synced, hl⟩ := s.leaveS_results hpend hheld (s.sys.epcPc, hdr, remain)
      refine ⟨_, exec_eret_leaves hi hs hp (by rw [hl]; rfl) (by rw [hl]; rfl), ?_⟩
      rw [hl]
      exact ⟨rfl, rfl, rfl, rfl, rfl, rfl, rfl, rfl, fun y hy => by cases y <;> [exact absurd rfl hy; rfl; rfl; rfl]⟩
    have within : inBlock ↔ s.epcWithin = true := by simp [inBlock, State.epcWithin, code, h, p]
    have eretTo := State.eretTo_running hrun hside
    refine ⟨fun inside => leaves ?_, fun outside header => leaves ?_, fun outside nowhere notEnd => ?_⟩
    · rw [eretTo, if_pos (within.mp inside)]
    · have place : isHeader (s.code .K) s.sys.epcPc.toNat = true := header
      rw [eretTo, if_neg (mt within.mpr outside), place, Bool.true_or, if_pos rfl]
    · have place : isHeader (s.code .K) s.sys.epcPc.toNat = false := nowhere
      have none : s.eretTo = none := by
        rw [eretTo, if_neg (mt within.mpr outside), place, if_neg]
        simpa using notEnd
      show execEret s = _
      simp only [execEret, hi.1, hs, none, Bool.not_true, Bool.false_eq_true, if_false]
      exact congrArg _ (runItem_fail hi 2 _ _)
  · obtain ⟨cur, hdry, -, heaf⟩ := id hi
    have retires {t : State} (len : Nat) (hd : t.dry = s.dry) (he : (t.strand x).eaf = (s.strand x).eaf) :
        runItem s len allStrands false true true (.retire t) = t.after x len :=
      runItem_retire hi (allStrands_contains x) (.inl rfl) rfl rfl (hd.trans hdry) (he.trans heaf)
    have pauses (len k : Nat) : pauseFor s len k =
        if k = 0 then s.raises x 0x0E 0x04 0
        else if (s.strand x).lockstep then s.after x len
        else (s.onStrand x fun t => { t with pause := s.sys.cycle.toNat + k }).after x len := by
      simp only [pauseFor, cur]
      split_ifs
      · exact runItem_fail hi len _ _
      · exact retires len rfl rfl
      · exact retires len rfl (by simp)
    have yields (len : Nat) : runItem s len allStrands false true true (.retire (s.yieldPoint s.cur)) =
        if s.sys.yreq && s.sys.yact && !s.atS x && s.core.qu.st != .pending then
          (s.onStrand x fun t => { t with run := .yielded }).after x len
        else s.after x len := by
      simp only [State.yieldPoint, cur]
      split_ifs
      · exact retires len rfl (by simp)
      · exact retires len rfl rfl
    exact ⟨congrArg _ (pauses 2 _), congrArg _ (pauses 1 _), congrArg _ (yields 2), congrArg _ (yields 1)⟩

end Sys2Proof.Machine
end

section
/-!
PROOFS. Loads (R76, R155, R171 to R175, R177, R364, R372): which check of an address or a page fails first and the cause that it raises,
what a read of virtual memory leaves, and the scalar loads by that.
-/
namespace Sys2Proof.Machine

/-! ## The access fields of DETAIL (R172) -/

/-- The number of an access's kind in the access fields (R172). -/
def Need.kind : Need → Nat
  | .read => 0
  | .write => 1
  | .atomic => 2

theorem accessBits_eq (need : Need) (size : Nat) (scratch : Bool) : accessBits need size scratch = accessFields need.kind size scratch := by
  have table : ∀ m : Fin 7, ∀ b : Bool,
      (match need with | .read => 0 | .write => 1 | .atomic => 2) ||| BitVec.ofNat 64 (m.val * 4) ||| flagBit 64 b 8 =
        BitVec.ofNat 64 (need.kind + 4 * m.val + if b then 256 else 0) := by
    cases need <;> decide
  have hm : min 6 size.log2 < 7 := by omega
  exact table ⟨min 6 size.log2, hm⟩ scratch

/-! ## Addresses (R171 steps 1 to 3) -/

section
variable {s : State} {x : StrandId} {ea : BitVec 64} {need : Need} {size align : Nat}

theorem State.checkAddr_outside (h : outsideSpace ea) : s.checkAddr x ea need size align = .error ⟨0x0E, 0x10, ea⟩ :=
  if_pos h

theorem State.checkAddr_misaligned (h : ¬outsideSpace ea) (hal : ea.toNat % align ≠ 0) :
    s.checkAddr x ea need size align = .error ⟨0x14, accessFields need.kind size (ea.getLsbD 63), ea⟩ := by
  rw [← accessBits_eq]
  exact (if_neg h).trans (if_pos hal)

theorem State.checkAddr_global (h : ¬outsideSpace ea) (hal : ea.toNat % align = 0) (hs : ea.getLsbD 63 = false) :
    s.checkAddr x ea need size align = .ok (.global ea.toNat) :=
  (if_neg h).trans ((if_neg (not_not.mpr hal)).trans (if_neg (by rw [hs]; decide)))

theorem State.checkAddr_scratch {c : BitVec 6} (h : ¬outsideSpace ea) (hal : ea.toNat % align = 0) (hs : ea.getLsbD 63 = true)
    (hp : s.scratchPlace (s.atS x) (ea.setWidth 32) size = .error c) : s.checkAddr x ea need size align = .error (if c = cScratchBounds then
      ⟨c, accessBits need size true, ea + BitVec.ofNat 64 (s.pastPlace (s.atS x) (ea.setWidth 32))⟩ else ⟨c, 0, ea⟩) := by
  refine (if_neg h).trans ((if_neg (not_not.mpr hal)).trans ((if_pos hs).trans ?_))
  simp only [hp, hs]

/-- The offset of a scratchpad address (R156). -/
theorem scratchOff_eq (ea : BitVec 64) : ((ea.setWidth 32).extractLsb' 0 22).toNat = ea.toNat % 2 ^ 22 := by
  simp only [BitVec.extractLsb'_toNat, BitVec.toNat_setWidth, Nat.shiftRight_zero]
  omega

theorem State.scratchPlace_bounds {p : Nat} (hp : s.scratchCore (ea.setWidth 32) = .ok p)
    (hb : (if s.atS x then 2 ^ 22 else s.scratchB p) < ea.toNat % 2 ^ 22 + size) :
    s.scratchPlace (s.atS x) (ea.setWidth 32) size = .error cScratchBounds ∧
      s.pastPlace (s.atS x) (ea.setWidth 32) = (if s.atS x then 2 ^ 22 else s.scratchB p) - ea.toNat % 2 ^ 22 := by
  have out : s.scratchOk (s.atS x) p (ea.toNat % 2 ^ 22) size = false := by
    simpa only [State.scratchOk, decide_eq_false_iff_not, Nat.not_le] using hb
  simp only [State.scratchPlace, State.pastPlace, hp, scratchOff_eq, out, Bool.false_eq_true, if_false, State.pastBound, true_and]

theorem State.scratchPlace_remap (hp : s.scratchCore (ea.setWidth 32) = .error 0x3B) (hb : ea.toNat % 2 ^ 22 + size ≤ 0x3E0000) :
    s.scratchPlace (s.atS x) (ea.setWidth 32) size = .error cRemap := by
  have within : ea.toNat % 2 ^ 22 + size ≤ if s.atS x then 2 ^ 22 else 0x3E0000 := by split <;> omega
  simp only [State.scratchPlace, hp, scratchOff_eq, decide_eq_true within, if_true]

/-- An item that raises whatever the checks of its address find meets the statement of steps 1 to 3. -/
theorem addressFaults_of_checkAddr {i : Instr}
    (hbad : ∀ b, s.checkAddr x ea need size align = .error b → exec i s = .next (s.raises x b.cause b.detail b.addr)) :
    addressFaults s x i ea need.kind size align := by
  refine ⟨fun h => hbad _ (State.checkAddr_outside h), fun h hal => hbad _ (State.checkAddr_misaligned h hal),
    fun h hal hs => ⟨fun p hp => ?_, fun hp hb => ?_⟩⟩
  · intro top hb
    obtain ⟨place, past⟩ := State.scratchPlace_bounds (x := x) hp hb
    have found := State.checkAddr_scratch (need := need) h hal hs place
    rw [if_pos rfl, past, accessBits_eq] at found
    exact hbad _ found
  · refine hbad ⟨cRemap, 0, ea⟩ ?_
    rw [State.checkAddr_scratch h hal hs (State.scratchPlace_remap hp hb), if_neg (by decide)]

end

/-! ## The walk and the page (R171 steps 4 and 5, R364) -/

/-- What a walk that fails reports: its cause, a reason and a level of R364, no status of the host. -/
def WalkFail.ofTable (f : WalkFail) : Prop :=
  (f.cause = cPageAbsent ∨ f.cause = cAperture) ∧ f.reason < 16 ∧ f.level < 4 ∧ f.status = 0

theorem WalkFail.ofTable_absent {n l : Nat} (hn : n < 16) (hl : l < 4) : (⟨cPageAbsent, n, l, 0⟩ : WalkFail).ofTable :=
  ⟨.inl rfl, hn, hl, rfl⟩

/-- A walk from a level of its table to the last reports a table's failure, or finds a leaf at one of the levels. -/
theorem State.walkFrom_cases (s : State) (va : Nat) (n l pa : Nat) (hl : l + n = 3) :
    (∃ f, s.walkFrom va (n + 1) l pa = .error f ∧ f.ofTable) ∨ ∃ a e k, s.walkFrom va (n + 1) l pa = .ok (a, e, k) ∧ k < 4 := by
  induction n generalizing l pa with
  | zero =>
    obtain rfl : l = 3 := by omega
    simp only [State.walkFrom, true_or, if_true]
    split_ifs
    · exact .inl ⟨_, rfl, WalkFail.ofTable_absent (by decide) (by decide)⟩
    · exact .inl ⟨_, rfl, WalkFail.ofTable_absent (by decide) (by decide)⟩
    · exact .inr ⟨_, _, _, rfl, by decide⟩
    · exact .inl ⟨_, rfl, WalkFail.ofTable_absent (by decide) (by decide)⟩
  | succ n ih =>
    have hl4 : l < 4 := by omega
    rw [State.walkFrom]
    dsimp only
    split_ifs
    · exact .inl ⟨_, rfl, WalkFail.ofTable_absent (by decide) hl4⟩
    · exact .inl ⟨_, rfl, WalkFail.ofTable_absent (by decide) hl4⟩
    · exact .inr ⟨_, _, _, rfl, hl4⟩
    · exact .inl ⟨_, rfl, WalkFail.ofTable_absent (by decide) hl4⟩
    · exact .inl ⟨_, rfl, .inr rfl, Nat.lt_of_sub_eq_succ rfl, hl4, rfl⟩
    · exact ih _ _ (by omega)

theorem State.walk_cases (s : State) (va : Nat) :
    (∃ f, s.walk va = .error f ∧ f.ofTable) ∨ ∃ a e k, s.walk va = .ok (a, e, k) ∧ k < 4 := by
  unfold State.walk
  dsimp only
  split_ifs
  · exact .inl ⟨_, rfl, WalkFail.ofTable_absent (by decide) (by decide)⟩
  · exact .inl ⟨_, rfl, .inr rfl, by decide, by decide, rfl⟩
  · exact s.walkFrom_cases va 3 0 _ rfl

theorem State.walk_error {s : State} {va : Nat} {f : WalkFail} (h : s.walk va = .error f) : f.ofTable := by
  rcases s.walk_cases va with ⟨g, hg, ofTable⟩ | ⟨a, e, k, hk, -⟩
  · cases h.symm.trans hg; exact ofTable
  · cases h.symm.trans hk

theorem State.walk_level {s : State} {va pa l : Nat} {w : BitVec 128} (h : s.walk va = .ok (pa, w, l)) : l < 4 := by
  rcases s.walk_cases va with ⟨g, hg, -⟩ | ⟨a, e, k, hk, lt⟩
  · cases h.symm.trans hg
  · cases h.symm.trans hk; exact lt

/-- The walk fields, for a reason and a level of R364. -/
theorem WalkFail.bits_eq (c : BitVec 6) {n l : Nat} (hn : n < 16) (hl : l < 4) :
    (⟨c, n, l, 0⟩ : WalkFail).bits = BitVec.ofNat 64 (n * 2 ^ 60) ||| BitVec.ofNat 64 (l * 2 ^ 58) ∧
      BitVec.ofNat 64 (n * 2 ^ 60) ||| BitVec.ofNat 64 (l * 2 ^ 58) = BitVec.ofNat 64 (n * 2 ^ 60 + l * 2 ^ 58) := by
  have table : ∀ n : Fin 16, ∀ l : Fin 4,
      place 64 (BitVec.ofNat 4 n.val) 60 ||| place 64 (BitVec.ofNat 2 l.val) 58 ||| place 64 (0 : BitVec 8) 50 =
          BitVec.ofNat 64 (n.val * 2 ^ 60) ||| BitVec.ofNat 64 (l.val * 2 ^ 58) ∧
        BitVec.ofNat 64 (n.val * 2 ^ 60) ||| BitVec.ofNat 64 (l.val * 2 ^ 58) = BitVec.ofNat 64 (n.val * 2 ^ 60 + l.val * 2 ^ 58) := by
    decide
  exact table ⟨n, hn⟩ ⟨l, hl⟩

/-- The causes that keep their own code in DETAIL (R332). -/
abbrev isParcelCause (c : BitVec 6) : Prop := c = cParcelTransit ∨ c = cParcelState

theorem faultDetail_parcel {c : BitVec 6} (h : isParcelCause c) (bits : BitVec 64) (need : Need) (size : Nat) :
    faultDetail c bits need size = bits := if_pos h

theorem faultDetail_other {c : BitVec 6} (h : ¬isParcelCause c) (bits : BitVec 64) (need : Need) (size : Nat) :
    faultDetail c bits need size = bits ||| accessFields need.kind size false := by
  rw [← accessBits_eq]
  exact if_neg h

/-- A page's parcel refuses with a parcel cause. -/
theorem State.parcelRefuses_isParcelCause {s : State} {w : BitVec 128} {need : Need} {c : BitVec 6} {d : BitVec 64}
    (h : s.parcelRefuses w need = some (c, d)) : isParcelCause c := by
  unfold State.parcelRefuses at h
  split at h
  · split at h
    · cases h; exact .inl rfl
    · cases h
  · split at h
    · cases h; exact .inl rfl
    · split at h
      · cases h
      · cases h; exact .inr rfl
    · split at h
      · cases h; exact .inl rfl
      · cases h
    · cases h

section
variable {s : State} {va : Nat} {sup : Bool} {need : Need} {pa l : Nat} {w : BitVec 128}

theorem State.translate_walkFails {f : WalkFail} (hc : s.cached pathCore va = none) (hw : s.walk va = .error f) :
    s.translate pathCore va sup need = .fail f s := by
  simp only [State.translate, hc, hw]

variable (hc : s.cached pathCore va = none) (hw : s.walk va = .ok (pa, w, l))
include hc hw

theorem State.translate_refused {f : WalkFail} (hp : permits w l sup need = some f) : s.translate pathCore va sup need = .fail f s := by
  simp only [State.translate, hc, hw, hp]

variable (hp : permits w l sup need = none)
include hp

theorem State.translate_noKey (hk : s.pk.mu.keys.getLsbD (leafKey w) = false) :
    s.translate pathCore va sup need = .fail ⟨cKeyAbsent, 7, l, 0⟩ s := by
  simp only [State.translate, hc, hw, hp, hk, Bool.not_false, if_true]

variable (hk : s.pk.mu.keys.getLsbD (leafKey w) = true)
include hk

theorem State.translate_noHost (ha : leafAper w = 5) (hh : s.sys.mhost.getLsbD 20 = false) :
    s.translate pathCore va sup need = .fail ⟨cHostTranslation, 8, l, 0⟩ s := by
  simp only [State.translate, hc, hw, hp, hk, ha, hh, Bool.not_true, Bool.not_false, Bool.false_eq_true, if_false, if_true]

theorem State.translate_fills (ha : leafAper w ≠ 5) (hs : leafAper w = 1 → s.strictRefuses (leafFrame w * 2 ^ 16) = false) :
    ∃ e, e.leaf.word = w ∧ s.translate pathCore va sup need = .ok e (s.cacheFill e) := by
  have open_ : (decide (leafAper w = 1) && s.strictRefuses (leafFrame w * 2 ^ 16)) = false := by
    by_cases h1 : leafAper w = 1
    · rw [hs h1, Bool.and_false]
    · rw [decide_eq_false h1, Bool.false_and]
  refine ⟨⟨pathCore, s.sys.ctx, va / pageSize (leafSz w) * pageSize (leafSz w), ⟨w, pageSize (leafSz w)⟩, none, s.keyOf (leafKey w)⟩,
    rfl, ?_⟩
  simp only [State.translate, hc, hw, hp, hk, Bool.not_true, Bool.false_eq_true, if_false, if_neg ha, open_]

end

/-- The permits of a leaf, in the order of R364. -/
theorem permits_eq (w : BitVec 128) (l : Nat) (sup : Bool) (need : Need) : permits w l sup need =
    if leafAper w = 0 then some ⟨cPageAbsent, 3, l, 0⟩
    else if (need.kind ≠ 1 ∧ leafR w = false) ∨ (need.kind ≠ 0 ∧ leafW w = false) then some ⟨cPageProtect, 4, l, 0⟩
    else if leafSup w = true ∧ sup = false then some ⟨cPageProtect, 5, l, 0⟩
    else if need.kind = 2 ∧ (leafAper w = 3 ∨ leafAper w = 4) ∧ leafRA w = false then some ⟨cRemoteAtomic, 6, l, 0⟩
    else none := by
  cases need <;> simp [permits, Need.kind]

/-- An item that raises what the translation of its page and the page's parcel give meets the statement of steps 4 and 5. -/
theorem pageFaults_of_translate {s : State} {x : StrandId} {i : Instr} {ea : BitVec 64} {need : Need} {size align : Nat}
    (hglobal : ¬outsideSpace ea → ea.getLsbD 63 = false → ea.toNat % align = 0 →
      (∀ f t, ¬isParcelCause f.cause → s.translate pathCore ea.toNat (s.atS x) need = .fail f t →
        exec i s = .next (s.raises x f.cause (f.bits ||| accessFields need.kind size false) ea)) ∧
      ∀ e t, s.translate pathCore ea.toNat (s.atS x) need = .ok e t → leafAper e.leaf.word ≠ 5 →
        (∀ c d, t.parcelRefuses e.leaf.word need = some (c, d) → exec i s = .next (s.raises x c d ea)) ∧
        (need = .atomic → t.parcelRefuses e.leaf.word need = none → leafDisc e.leaf.word = true →
          exec i s = .next (s.raises x 0x13 (0 ||| accessFields need.kind size false) ea))) :
    pageFaults s x i ea need.kind size align := by
  unfold pageFaults
  intro raises hout hspace hal hc
  obtain ⟨failing, passing⟩ := hglobal hout hspace hal
  have refused {c : BitVec 6} {n l : Nat} {t : State} (hn : n < 16) (hl : l < 4) (hp : ¬isParcelCause c)
      (h : s.translate pathCore ea.toNat (s.atS x) need = .fail ⟨c, n, l, 0⟩ t) :
      raises c (BitVec.ofNat 64 (n * 2 ^ 60) ||| BitVec.ofNat 64 (l * 2 ^ 58)) := by
    have := failing _ _ hp h
    rwa [(WalkFail.bits_eq c hn hl).1] at this
  refine ⟨fun f hw => ?_, fun pa w l hw => ?_⟩
  · obtain ⟨c, n, l, st⟩ := f
    obtain ⟨hcause, hn, hl, rfl⟩ := State.walk_error hw
    rw [← (WalkFail.bits_eq c hn hl).2]
    refine refused hn hl ?_ (State.translate_walkFails hc hw)
    rcases hcause with rfl | rfl
    · exact (by decide : ¬isParcelCause cPageAbsent)
    · exact (by decide : ¬isParcelCause cAperture)
  · have hl := State.walk_level hw
    have permits := permits_eq w l (s.atS x) need
    intro level aper noRead noWrite sup noAtomic allowed
    have allows (h : allowed) : Machine.permits w l (s.atS x) need = none := by
      obtain ⟨h0, hr, hww, hs, ha⟩ := h
      rw [permits, if_neg h0, if_neg (not_or.mpr ⟨hr, hww⟩), if_neg hs, if_neg ha]
    refine ⟨fun h0 => ?_, fun h0 hrw => ?_, fun h0 hr hww hs => ?_, fun h0 hr hww hs ha => ?_, fun h hk => ?_, fun h hk h5 hst => ?_,
      fun h hk h5 hh => ?_⟩
    · exact refused (n := 3) (by decide) hl (by decide) (State.translate_refused hc hw (by rw [permits, if_pos h0]))
    · exact refused (n := 4) (by decide) hl (by decide) (State.translate_refused hc hw (by rw [permits, if_neg h0, if_pos hrw]))
    · exact refused (n := 5) (by decide) hl (by decide)
        (State.translate_refused hc hw (by rw [permits, if_neg h0, if_neg (not_or.mpr ⟨hr, hww⟩), if_pos hs]))
    · exact refused (n := 6) (by decide) hl (by decide)
        (State.translate_refused hc hw (by rw [permits, if_neg h0, if_neg (not_or.mpr ⟨hr, hww⟩), if_neg hs, if_pos ha]))
    · exact refused (n := 7) (by decide) hl (by decide) (State.translate_noKey hc hw (allows h) hk)
    · obtain ⟨e, rfl, ht⟩ := State.translate_fills hc hw (allows h) hk h5 hst
      obtain ⟨parcel, discarded⟩ := passing e _ ht h5
      cases need with
      | read => exact ⟨fun c d hp => parcel c d hp, fun h => absurd h (by decide)⟩
      | write => exact ⟨fun c d hp => parcel c d hp, fun h => absurd h (by decide)⟩
      | atomic => exact ⟨fun c d hp => parcel c d hp, fun _ hp hd => discarded rfl hp hd⟩
    · exact refused (n := 8) (by decide) hl (by decide) (State.translate_noHost hc hw (allows h) hk h5 hh)

end Sys2Proof.Machine
end

section
/-!
PROOFS. What a read of virtual memory by a strand finds and leaves (R174), and what an acquire changes (R40).
-/
namespace Sys2Proof.Machine

/-! ## What the end of an item asks of the state its body leaves -/

/-- State `t` tells the end of an item of strand `x` what `s` tells it (R77): whether a wrapper runs it, and the addresses it still has to
give. -/
def State.endsAs (x : StrandId) (s t : State) : Prop := t.dry = s.dry ∧ (t.strand x).eaf = (s.strand x).eaf

namespace State.endsAs
variable {x : StrandId} {s t u : State}

theorem refl : State.endsAs x s s := ⟨rfl, rfl⟩

theorem trans (h : State.endsAs x s t) (g : State.endsAs x t u) : State.endsAs x s u := ⟨g.1.trans h.1, g.2.trans h.2⟩

theorem onMu (f : MemoryState → MemoryState) : State.endsAs x s (s.onMu f) := ⟨rfl, rfl⟩

theorem onSide (f : List SideEntry → List SideEntry) : State.endsAs x s (s.onCore fun c => { c with side := f c.side }) :=
  ⟨rfl, by cases x <;> rfl⟩

theorem onPk (f : Package → Package) : State.endsAs x s (s.onPk f) := ⟨rfl, rfl⟩

theorem putReg (d : BitVec 6) (v : BitVec 64) : State.endsAs x s (s.putReg x d v) := ⟨by simp, by simp⟩

theorem of_onlyMemory (h : State.onlyMemory s t) : State.endsAs x s t := by
  obtain ⟨m, rfl⟩ := h
  exact onMu _

/-- The end of an item that has passed its checks and whose body retires. -/
theorem retires {len : Nat} {legal : List StrandId} (h : State.endsAs x s t) (hi : s.issues x) (hl : legal.contains x = true) {cls ok : Bool}
    (hc : cls = true) (ho : ok = true) : runItem s len legal false cls ok (.retire t) = t.after x len := by
  obtain ⟨-, hdry, -, heaf⟩ := id hi
  exact runItem_retire hi hl (.inl rfl) hc ho (h.1.trans hdry) (h.2.trans heaf)

end State.endsAs

/-- An acquire changes memory and what the side log's entries have been found by. -/
theorem State.acquire_frame (s : State) (x : StrandId) (scope : Nat) :
    ∃ m side, s.acquire x scope = (s.onMu fun _ => m).onCore fun c => { c with side := side } := by
  obtain ⟨m, hm⟩ : State.onlyMemory s (if 4 ≤ scope then s.refreshDie else s) := by
    split
    · exact s.refreshDie_onlyMemory
    · exact State.onlyMemory.refl s
  obtain ⟨l, hl⟩ := State.settleStale_frame (s.onMu fun _ => m) allClasses allClasses
  simp only [State.acquire, hm, State.settleAll, hl]
  split
  · exact ⟨{ m with stale := l }, s.core.side, rfl⟩
  · exact ⟨{ m with stale := l }, s.core.side.map fun e => e.found allClasses (1#4 <<< strandNum x), rfl⟩

theorem State.acquire_endsAs (s : State) (x y : StrandId) (scope : Nat) : State.endsAs y s (s.acquire x scope) := by
  obtain ⟨m, side, h⟩ := s.acquire_frame x scope
  rw [h]
  exact (State.endsAs.onMu _).trans (State.endsAs.onSide fun _ => side)

/-! ## The page of a scalar access -/

/-- An aligned access of a scalar item lies in one page. -/
theorem aligned_within_page {va n : Nat} (hn : n ∈ [1, 2, 4, 8]) (h : va % n = 0) : 0 < n ∧ va % 2 ^ 16 + n ≤ 2 ^ 16 := by
  simp only [List.mem_cons, List.not_mem_nil, or_false] at hn
  rcases hn with rfl | rfl | rfl | rfl <;> omega

theorem pages_of_one {va n : Nat} (h0 : 0 < n) (h : va % 2 ^ 16 + n ≤ 2 ^ 16) : pages va n = [(va, n)] := by
  have all : min n (2 ^ 16 - va % 2 ^ 16) = n := by omega
  simp only [pages, pagesOf, if_neg h0.ne', all, Nat.sub_self, if_true]

theorem State.readVirtual_of_one (s : State) (by_ : ReadBy) {va n : Nat} (h0 : 0 < n) (h : va % 2 ^ 16 + n ≤ 2 ^ 16) :
    s.readVirtual by_ va n = s.readPage by_ va n := by
  simp only [State.readVirtual, pages_of_one h0 h, List.foldl_cons, List.foldl_nil, List.nil_append]
  cases s.readPage by_ va n <;> rfl

/-! ## A read of a page -/

section
variable {s t : State} {by_ : ReadBy} {va n : Nat} {e : TlbEntry}

theorem State.readPage_of_fail {f : WalkFail} (h : s.translate by_.path va by_.sup .read = .fail f t) :
    s.readPage by_ va n = .fail f.cause f.bits va t := by
  simp only [State.readPage, h]

theorem State.readPage_of_refused {c : BitVec 6} {d : BitVec 64} (h : s.translate by_.path va by_.sup .read = .ok e t)
    (hp : t.parcelRefuses e.leaf.word .read = some (c, d)) : s.readPage by_ va n = .fail c d va t := by
  simp only [State.readPage, h, hp]

theorem State.translate_of_cached {path : Nat} {sup : Bool} {need : Need} (hc : s.cached path va = some e)
    (hp : ∀ level, permits e.leaf.word level sup need = none) : s.translate path va sup need = .ok e s := by
  simp only [State.translate, hc, hp]

/-- A translation that succeeds leaves the state, or fills a cache. -/
theorem State.translate_ok {path : Nat} {sup : Bool} {need : Need} (h : s.translate path va sup need = .ok e t) :
    t = s ∨ t = s.cacheFill e := by
  unfold State.translate at h
  split at h
  · split at h
    · cases h
    · cases h; exact .inl rfl
  · split at h
    · cases h
    · dsimp only at h
      split at h
      · cases h
      · split_ifs at h
        · split at h
          · split at h <;> cases h
          · cases h
        · cases h; exact .inr rfl

theorem State.sawEntries_frame (s : State) (x : StrandId) (c : Nat) (ids : List Nat) :
    ∃ l side, s.sawEntries x c ids = (s.onMu fun m => { m with stale := l }).onCore fun k => { k with side := side } := by
  unfold State.sawEntries
  split
  · exact ⟨s.pk.mu.stale, s.core.side, rfl⟩
  · obtain ⟨l, h⟩ := s.settleStale_frame 0x1F (1#5 <<< c)
    rw [h]
    exact ⟨l, _, rfl⟩

theorem State.refreshHomes_onlyMemory (s : State) (pas : List Nat) : State.onlyMemory s (s.refreshHomes pas) := by
  unfold State.refreshHomes
  split
  · exact State.onlyMemory.refl s
  · refine State.onlyMemory_foldl (fun t h => ?_) _ s
    split
    · exact t.deliverTo_onlyMemory h
    · exact State.onlyMemory.refl t

theorem State.sawEntries_endsAs (s : State) (x y : StrandId) (c : Nat) (ids : List Nat) : State.endsAs y s (s.sawEntries x c ids) := by
  obtain ⟨l, side, h⟩ := s.sawEntries_frame x c ids
  rw [h]
  exact (State.endsAs.onMu _).trans (State.endsAs.onSide fun _ => side)

theorem State.setDz_endsAs (s : State) (x y : StrandId) : State.endsAs y s (s.setDz x) := by
  refine ⟨rfl, ?_⟩
  by_cases h : y = x
  · subst h; simp [State.setDz]
  · simp [State.setDz, State.onStrand_other _ _ h]

theorem State.underKey_endsAs (s : State) (x : StrandId) (key : Option (BitVec 512)) (ls : List Loc) : State.endsAs x s (s.underKey key ls) := by
  obtain ⟨mem, under, h⟩ := s.underKey_frame key ls
  rw [h]
  exact State.endsAs.onMu _

/-- A die that refreshes, or need not. -/
theorem State.refreshHomes_endsAs (s : State) (x : StrandId) (pas : List Nat) (b : Bool) :
    State.endsAs x s (if b then s.refreshHomes pas else s) := by
  split
  · exact State.endsAs.of_onlyMemory (s.refreshHomes_onlyMemory pas)
  · exact State.endsAs.refl

/-- A read of cells gives as many bytes, and may show the class more of what was written. -/
theorem State.readCells_results (s : State) (c : Nat) (keys : List Nat) (x : StrandId) :
    (s.readCells c keys).1.length = keys.length ∧ State.endsAs x s (s.readCells c keys).2 := by
  unfold State.readCells
  split
  · exact ⟨List.length_map _, State.endsAs.refl⟩
  · exact ⟨List.length_map _, rfl, rfl⟩

/-- A read of a page that succeeds gives the bytes asked for, and the strand goes on as before. -/
theorem State.readPage_ok {bs : List (BitVec 8)} (x : StrandId) (h : s.readPage by_ va n = .ok bs t) :
    bs.length = n ∧ State.endsAs x s t := by
  unfold State.readPage at h
  split at h
  · cases h
  · cases h
  · rename_i e u hu
    have kept : State.endsAs x s u := by
      rcases State.translate_ok hu with rfl | rfl
      · exact State.endsAs.refl
      · exact State.endsAs.onMu _
    split at h
    · cases h
    · dsimp only at h
      split at h
      · cases h
        exact ⟨by simp, kept.trans ((State.sawEntries_endsAs ..).trans (State.setDz_endsAs ..))⟩
      · split at h
        · cases h
        · cases h
          exact ⟨by simp [(State.readCells_results _ _ _ x).1], kept.trans ((State.sawEntries_endsAs ..).trans
            ((State.underKey_endsAs ..).trans ((State.refreshHomes_endsAs ..).trans (State.readCells_results ..).2)))⟩

end
end Sys2Proof.Machine
end

section
/-!
PROOFS. The scalar loads (R76, R173 to R175, R177).
-/
namespace Sys2Proof.Machine

theorem State.sawEntries_locOf (s : State) (x : StrandId) (c : Nat) (ids : List Nat) : (s.sawEntries x c ids).locOf = s.locOf := by
  obtain ⟨l, side, h⟩ := s.sawEntries_frame x c ids
  rw [h]
  rfl

theorem State.sawEntries_anyPoison (s : State) (x : StrandId) (c : Nat) (ids : List Nat) :
    (s.sawEntries x c ids).anyPoison = s.anyPoison := by
  obtain ⟨l, side, h⟩ := s.sawEntries_frame x c ids
  rw [h]
  rfl

/-- A read with forwarding of a page that its caches hold finds the first poisoned byte that no entry of the side log covers (R372). -/
theorem State.readPage_of_poison {s : State} {by_ : ReadBy} {va n k : Nat} {e : TlbEntry} (hf : by_.forward = true)
    (h : s.translate by_.path va by_.sup .read = .ok e s) (hp : s.parcelRefuses e.leaf.word .read = none) (hd : leafDisc e.leaf.word = false)
    (hk : k < n) (bad : forwarded s.core.side (va + k) = none ∧ s.anyPoison [s.locOf e (va + k)] = true)
    (good : ∀ j, j < k → ¬(forwarded s.core.side (va + j) = none ∧ s.anyPoison [s.locOf e (va + j)] = true)) :
    ∃ t, s.readPage by_ va n = .fail cPoison 0 (va + k) t := by
  have first : ((List.range n).find? fun j => (forwarded s.core.side (va + j)).isNone && s.anyPoison [s.locOf e (va + j)]) = some k := by
    rw [List.find?_range_eq_some]
    refine ⟨by simpa using bad, List.mem_range.mpr hk, fun j hj => ?_⟩
    simpa [Option.isSome_iff_ne_none, or_iff_not_imp_left] using good j hj
  simp only [State.readPage, h, hp, hf, hd, if_true, Bool.true_and, Bool.false_eq_true, if_false, State.sawEntries_locOf,
    State.sawEntries_anyPoison, List.map_map, List.zip_map', List.find?_map, Function.comp_def, first, Option.map_some]
  exact ⟨_, rfl⟩

section
variable {s t : State} {x : StrandId} {ea : BitVec 64} {size : Nat} (k : List (BitVec 8) → State → Res)

theorem State.load_of_finds {bs : List (BitVec 8)} (h : finds s x ea size bs t) : s.load x ea size k = k bs t := by
  rcases h with ⟨p, a, hc, rfl, rfl⟩ | ⟨va, hc, hr⟩
  · simp only [State.load, hc]
  · simp only [State.load, hc, hr]

theorem State.load_of_badAddr {b : BadAddr} (h : s.checkAddr x ea .read size size = .error b) :
    s.load x ea size k = .trap b.cause b.detail b.addr := by
  simp only [State.load, h]

/-- What the read of its page reports, a load raises. -/
theorem State.load_of_fail {c : BitVec 6} {bits : BitVec 64} {va : Nat} (hn : size ∈ [1, 2, 4, 8]) (hout : ¬outsideSpace ea)
    (hs : ea.getLsbD 63 = false) (hal : ea.toNat % size = 0) (h : s.readPage (s.readAs x clsLS) ea.toNat size = .fail c bits va t) :
    s.load x ea size k = .trap c (faultDetail c bits .read size) (BitVec.ofNat 64 va) := by
  obtain ⟨h0, within⟩ := aligned_within_page hn hal
  simp only [State.load, State.checkAddr_global hout hal hs, State.readVirtual_of_one _ _ h0 within, h]

/-- A global address that passes its checks is the address given, aligned. -/
theorem State.checkAddr_ok_global {need : Need} {align va : Nat} (h : s.checkAddr x ea need size align = .ok (.global va)) :
    va % align = 0 := by
  unfold State.checkAddr at h
  dsimp only at h
  split_ifs at h with hout hal hs
  · split at h <;> cases h
  · cases h
    exact not_not.mp hal

/-- What a load finds: as many bytes as it reads, and the strand goes on as before. -/
theorem finds_results {bs : List (BitVec 8)} (hn : size ∈ [1, 2, 4, 8]) (h : finds s x ea size bs t) : bs.length = size ∧ State.endsAs x s t := by
  rcases h with ⟨p, a, -, rfl, rfl⟩ | ⟨va, hc, hr⟩
  · exact ⟨by simp [State.scratchRead, cellRange], State.endsAs.refl⟩
  · obtain ⟨h0, within⟩ := aligned_within_page hn (State.checkAddr_ok_global hc)
    rw [State.readVirtual_of_one _ _ h0 within] at hr
    exact State.readPage_ok x hr

end

/-! ## The items -/

/-- The state after the acquire that a load makes, if it is one (R175). -/
def State.acquiring (s : State) (x : StrandId) : Option (BitVec 3) → State
  | some n => s.acquire x n.toNat
  | none => s

theorem State.acquiring_endsAs (s : State) (x : StrandId) (scope : Option (BitVec 3)) : State.endsAs x s (s.acquiring x scope) := by
  cases scope with
  | none => exact State.endsAs.refl
  | some n => exact s.acquire_endsAs x x n.toNat

theorem memStrands_of_core {x : StrandId} (h : x = .K ∨ x = .A) : memStrands.contains x = true := by
  rcases h with rfl | rfl <;> rfl

theorem memStrands_of_engine {x : StrandId} (h : x = .V ∨ x = .M) : memStrands.contains x = false := by
  rcases h with rfl | rfl <;> rfl

section
variable {s : State} {x : StrandId} (hi : s.issues x) {d a : BitVec 6} (hd : regOk x d = true) (ha : regOk x a = true) {len size : Nat}
  (hn : size ∈ [1, 2, 4, 8]) {signed : Bool} {scope : Option (BitVec 3)} {ea : BitVec 64} {i : Instr}
  (hexec : exec i s = .next (loadItem s len d a ea size signed scope))
include hi hexec

theorem load_wrongStrand (hx : x = .V ∨ x = .M) : exec i s = .next (s.raises x 0x03 0 0) := by
  rw [hexec, loadItem, runItem_wrongStrand hi (memStrands_of_engine hx)]

include hd ha

theorem load_raises (hx : x = .K ∨ x = .A) {c : BitVec 6} {dt ad : BitVec 64} (h : ∀ k, s.load x ea size k = .trap c dt ad) :
    exec i s = .next (s.raises x c dt ad) := by
  have cur : s.cur = x := hi.1
  simp only [hexec, loadItem, cur, h]
  rw [runItem_trap hi (memStrands_of_core hx) (.inl rfl) (by rw [hd, ha]; rfl) rfl]

include hn

theorem load_retires (hx : x = .K ∨ x = .A) {bs : List (BitVec 8)} {t : State} (h : finds s x ea size bs t) :
    exec i s = .next (((t.acquiring x scope).putReg x d
      (if signed then (BitVec.ofNat (8 * size) (leNat bs)).signExtend 64 else BitVec.ofNat 64 (leNat bs))).after x len) := by
  have cur : s.cur = x := hi.1
  obtain ⟨rfl, kept⟩ := finds_results hn h
  simp only [hexec, loadItem, cur, State.load_of_finds _ h]
  exact congrArg _ (((kept.trans (t.acquiring_endsAs x scope)).trans (State.endsAs.putReg _ _)).retires hi (memStrands_of_core hx)
    (by rw [hd, ha]; rfl) rfl)

omit hn in
theorem load_addressFaults (hx : x = .K ∨ x = .A) : addressFaults s x i ea 0 size size :=
  addressFaults_of_checkAddr (need := .read) fun _ hb => load_raises hi hd ha hexec hx fun _ => State.load_of_badAddr _ hb

theorem load_pageFaults (hx : x = .K ∨ x = .A) : pageFaults s x i ea 0 size size := by
  refine pageFaults_of_translate (need := .read) fun hout hs hal => ⟨fun f t hp ht => ?_, fun e t ht _ => ⟨fun c d' hp => ?_, ?_⟩⟩
  · rw [← faultDetail_other hp]
    exact load_raises hi hd ha hexec hx fun k => by
      rw [State.load_of_fail k hn hout hs hal (State.readPage_of_fail ht), BitVec.ofNat_toNat, BitVec.setWidth_eq]
  · refine load_raises hi hd ha hexec hx fun k => ?_
    rw [State.load_of_fail k hn hout hs hal (State.readPage_of_refused ht hp), faultDetail_parcel (State.parcelRefuses_isParcelCause hp),
      BitVec.ofNat_toNat, BitVec.setWidth_eq]
  · intro h
    cases h

theorem load_poisonFaults (hx : x = .K ∨ x = .A) : poisonFaults s x i ea size := by
  intro c k hout hs hal hc hp hr hdisc hk bad
  obtain ⟨t, ht⟩ := State.readPage_of_poison (by_ := s.readAs x clsLS) rfl (State.translate_of_cached hc hp) hr hdisc hk bad.1 bad.2
  refine ⟨_, load_raises hi hd ha hexec hx fun f => State.load_of_fail f hn hout hs hal ht, ?_⟩
  rw [faultDetail_other (by decide), BitVec.ofNat_add, BitVec.ofNat_toNat, BitVec.setWidth_eq]
  exact congrArg (ItemEnd.trapped 0x35 · _) BitVec.zero_or

/-- What the statement on loads says of one item. -/
theorem load_results : (x = .V ∨ x = .M → exec i s = .next (s.raises x 0x03 0 0)) ∧
    (x = .K ∨ x = .A → addressFaults s x i ea 0 size size ∧ pageFaults s x i ea 0 size size ∧ poisonFaults s x i ea size) ∧
    ∀ bs t, x = .K ∨ x = .A → finds s x ea size bs t → exec i s = .next (((t.acquiring x scope).putReg x d
      (if signed then (BitVec.ofNat (8 * size) (leNat bs)).signExtend 64 else BitVec.ofNat 64 (leNat bs))).after x len) :=
  ⟨load_wrongStrand hi hexec, fun hx => ⟨load_addressFaults hi hd ha hexec hx, load_pageFaults hi hd ha hn hexec hx,
    load_poisonFaults hi hd ha hn hexec hx⟩, fun _ _ hx h => load_retires hi hd ha hn hexec hx h⟩

end

theorem pref_retires {s : State} {x : StrandId} (hi : s.issues x) {a : BitVec 6} (ha : regOk x a = true) (e : BitVec 10) (hx : x = .K ∨ x = .A) :
    exec (.pref a e) s = .next (s.after x 2) :=
  congrArg _ (State.endsAs.refl.retires hi (memStrands_of_core hx) (by rw [hi.1]; exact ha) rfl)

theorem pref_wrongStrand {s : State} {x : StrandId} (hi : s.issues x) (a : BitVec 6) (e : BitVec 10) (hx : x = .V ∨ x = .M) :
    exec (.pref a e) s = .next (s.raises x 0x03 0 0) :=
  congrArg _ (runItem_wrongStrand hi (memStrands_of_engine hx))

/-- Settles O12, by what every load has in common: its checks, what its read finds, and the acquire where it makes one. -/
theorem loadResults : Obligations.LoadResults := by
  unfold Obligations.LoadResults
  intro s t x d a e sc f bs hi hd ha ea loads
  have cur : s.cur = x := hi.1
  have item (scope : Option (BitVec 3)) {size : Nat} {signed : Bool} {i : Instr} {disp : Int} (hn : size ∈ [1, 2, 4, 8])
      (hexec : exec i s = .next (loadItem s 2 d a (ea disp size) size signed scope)) :
      loads i disp size signed (t.acquiring x scope) :=
    have ⟨wrong, faults, found⟩ := load_results hi hd ha hn hexec
    ⟨wrong, faults, found bs t⟩
  subst cur
  refine ⟨item none (by decide) rfl, item none (by decide) rfl, item none (by decide) rfl, item none (by decide) rfl,
    item none (by decide) rfl, item none (by decide) rfl, item none (by decide) rfl, item (some sc) (by decide) rfl, item (some sc) (by decide) rfl, pref_retires hi ha e,
    pref_wrongStrand hi a e, fun c b => ?_⟩
  obtain ⟨wrong, faults, found⟩ := load_results hi (regOk_sReg _ c) (regOk_sReg _ b) (size := 8) (by decide) (i := .ldDC c b) (scope := none) rfl
  exact ⟨wrong, faults, found bs t⟩

end Sys2Proof.Machine
end

section
/-!
PROOFS. Ring waits (R44, R76, R147, R163, R165, R190, R191): the slots a wait looks at, the items, and the causes of a wait that lasts.
-/
namespace Sys2Proof.Machine

/-! ## The slots of a wait (R163) -/

section
variable (s : State) (r : RingAt) (start : Nat)

/-- What a full-barrier wait makes of one more slot. -/
theorem State.fullWait_succ (n : Nat) : s.fullWait r start (n + 1) =
    let t := s.slotState r (r.index r.ring.head.toNat (start + n))
    if t.full && t.ph != r.parity r.ring.head.toNat r.ring.cp (start + n) then .wrongLap
    else if !t.full && s.fullWait r start n == .ready then .waits else s.fullWait r start n := by
  rw [State.fullWait, List.range_succ, List.foldl_append]
  rfl

variable {s r start} {n : Nat} (lap : ∀ q, q < n → (s.slotState r (r.index r.ring.head.toNat (start + q))).full = true →
  (s.slotState r (r.index r.ring.head.toNat (start + q))).ph = r.parity r.ring.head.toNat r.ring.cp (start + q))
include lap

/-- Where no full slot is of another lap, a full-barrier wait is ready just when every slot is full. -/
theorem State.fullWait_eq : s.fullWait r start n =
    if ∀ q, q < n → (s.slotState r (r.index r.ring.head.toNat (start + q))).full = true then .ready else .waits := by
  induction n with
  | zero => rw [if_pos fun q h => absurd h (Nat.not_lt_zero q)]; rfl
  | succ n ih =>
    rw [State.fullWait_succ, ih fun q h => lap q (h.trans n.lt_succ_self)]
    have last := lap n n.lt_succ_self
    cases hf : (s.slotState r (r.index r.ring.head.toNat (start + n))).full with
    | false =>
      have some_empty : ¬∀ q, q < n + 1 → (s.slotState r (r.index r.ring.head.toNat (start + q))).full = true :=
        fun h => absurd ((h n n.lt_succ_self).symm.trans hf) nofun
      rw [if_neg some_empty]
      simp only [hf, Bool.false_and, Bool.false_eq_true, if_false, Bool.not_false, Bool.true_and]
      split <;> rfl
    | true =>
      have same : (∀ q, q < n + 1 → (s.slotState r (r.index r.ring.head.toNat (start + q))).full = true) ↔
          ∀ q, q < n → (s.slotState r (r.index r.ring.head.toNat (start + q))).full = true := by
        refine ⟨fun h q hq => h q (hq.trans n.lt_succ_self), fun h q hq => ?_⟩
        rcases Nat.lt_succ_iff_lt_or_eq.mp hq with h' | rfl
        · exact h q h'
        · exact hf
      simp only [hf, last hf, same, bne_self_eq_false, Bool.and_false, Bool.not_true, Bool.false_and, Bool.false_eq_true, if_false]

theorem State.fullWait_ready (h : ∀ q, q < n → (s.slotState r (r.index r.ring.head.toNat (start + q))).full = true) :
    s.fullWait r start n = .ready := by
  rw [State.fullWait_eq lap, if_pos h]

theorem State.fullWait_waits (h : ∃ q, q < n ∧ (s.slotState r (r.index r.ring.head.toNat (start + q))).full = false) :
    s.fullWait r start n = .waits := by
  obtain ⟨q, hq, empty⟩ := h
  rw [State.fullWait_eq lap, if_neg fun full => absurd ((full q hq).symm.trans empty) nofun]

end

/-! ## Uses of a ring -/

theorem State.consumes_endsAs (s : State) (x y : StrandId) (r : RingAt) : State.endsAs y s (s.consumes x r) := by
  unfold State.consumes
  split
  · exact State.endsAs.refl
  · exact State.endsAs.onPk _

theorem State.produces_endsAs (s : State) (x y : StrandId) (r : RingAt) : State.endsAs y s (s.produces x r) := by
  unfold State.produces
  split
  · exact State.endsAs.refl
  · exact State.endsAs.onPk _

section
variable {s : State} {x : StrandId} {h : BitVec 4} {n : Nat}

theorem State.withRing_error {c : BitVec 6} {d : BitVec 64} (hr : s.ringOf h = .error (c, d)) (k : RingAt → Res) :
    s.withRing h k = .fail c d := by
  simp only [State.withRing, hr]

theorem State.withRing_ok {r : RingAt} (hr : s.ringOf h = .ok r) (k : RingAt → Res) : s.withRing h k = k r := by
  simp only [State.withRing, hr]

theorem State.ringOf_undefined (hv : (kGet Ring.zero s.pk.rings (s.pk.pcore.toNat * 16 + h.toNat)).valid = false) :
    s.ringOf h = .error (cRingProtocol, h.setWidth 64) := by
  simp only [State.ringOf, hv, Bool.not_false, if_true]

/-- A handle that resolves to a ring of this core. -/
theorem State.ringOf_handle {r : RingAt} (hr : s.ringOf h = .ok r) : r.handle = h := by
  unfold State.ringOf at hr
  dsimp only at hr
  split_ifs at hr
  · cases hr; rfl
  · split at hr
    · cases hr
    · split_ifs at hr <;> cases hr <;> rfl

theorem State.slotAccess_none (r : RingAt) (need : Need) (idx byte : Nat) (res : Res) : s.slotAccess x r need idx byte 0 res = res := rfl

variable {r : RingAt}

theorem State.awaitSlots_ready {start : Nat} (hw : s.fullWait r start n = .ready) (k : State → Res) :
    s.awaitSlots x r start n 0 0 k = k ((s.consumes x r).acquire x (s.ringScope r)) := by
  simp only [State.awaitSlots, hw, State.slotAccess_none, List.foldr_fixed]

theorem State.awaitSlots_waits {start byte len : Nat} (hw : s.fullWait r start n = .waits) (k : State → Res) :
    s.awaitSlots x r start n byte len k = .wait (s.ringWait x r.handle true) := by
  simp only [State.awaitSlots, hw]

variable (hr : s.ringOf h = .ok r)
include hr

theorem State.waitFull_badCount (hn : r.countOk n = false) : s.waitFull x h n = .fail cRingProtocol (h.setWidth 64) := by
  simp only [State.waitFull, State.withRing_ok hr, hn, Bool.not_false, if_true]

theorem State.waitEmpty_badCount (hn : r.countOk n = false) : s.waitEmpty x h n = .fail cRingProtocol (h.setWidth 64) := by
  simp only [State.waitEmpty, State.withRing_ok hr, hn, Bool.not_false, if_true]

variable (hn : r.countOk n = true)
include hn

theorem State.waitFull_ready (hw : s.fullWait r 0 n = .ready) :
    s.waitFull x h n = .retire ((s.consumes x r).acquire x (s.ringScope r)) := by
  simp only [State.waitFull, State.withRing_ok hr, hn, Bool.not_true, Bool.false_eq_true, if_false, State.awaitSlots_ready hw]

theorem State.waitFull_waits (hw : s.fullWait r 0 n = .waits) : s.waitFull x h n = .wait (s.ringWait x r.handle true) := by
  simp only [State.waitFull, State.withRing_ok hr, hn, Bool.not_true, Bool.false_eq_true, if_false, State.awaitSlots_waits hw]

theorem State.waitEmpty_ready (hw : ∀ q, q < n → (s.slotState r (r.index r.ring.tail.toNat q)).full = false) :
    s.waitEmpty x h n = .retire (s.acquire x (s.ringScope r)) := by
  have empty : ((List.range n).all fun i => !(s.slotState r (r.index r.ring.tail.toNat i)).full) = true := by
    simpa using hw
  simp only [State.waitEmpty, State.withRing_ok hr, hn, empty, Bool.not_true, Bool.false_eq_true, if_false, if_true]

theorem State.waitEmpty_waits (hw : ∃ q, q < n ∧ (s.slotState r (r.index r.ring.tail.toNat q)).full = true) :
    s.waitEmpty x h n = .wait (s.ringWait x h false) := by
  have full : ((List.range n).all fun i => !(s.slotState r (r.index r.ring.tail.toNat i)).full) = false := by
    simpa using hw
  simp only [State.waitEmpty, State.withRing_ok hr, hn, full, Bool.not_true, Bool.false_eq_true, if_false]

end

theorem RingAt.countOk_iff {r : RingAt} {n : Nat} : r.countOk n = true ↔ 1 ≤ n ∧ n ≤ r.ring.ns.toNat + 1 := decide_eq_true_iff

/-! ## The items -/

/-- An item of a ring wait with a given body. -/
def State.ringWaitItem (s : State) (len : Nat) (body : Res) : State := runItem s len allStrands false (s.cur != .K) true body

section
variable {s : State} {x : StrandId} (hi : s.issues x) (len : Nat)
include hi

theorem State.ringWaitItem_onK (hx : x = .K) (body : Res) : s.ringWaitItem len body = s.raises x 0x03 0 0 := by
  have cls : (s.cur != StrandId.K) = false := by rw [hi.1, hx]; rfl
  rw [State.ringWaitItem, cls]
  exact runItem_class hi (allStrands_contains x) (.inl rfl)

variable (hx : x ≠ .K)
include hx

theorem State.ringWaitItem_class : (s.cur != StrandId.K) = true := by
  rw [hi.1]
  exact bne_iff_ne.mpr hx

theorem State.ringWaitItem_trap (c : BitVec 6) (d : BitVec 64) : s.ringWaitItem len (.trap c d 0) = s.raises x c d 0 :=
  runItem_trap hi (allStrands_contains x) (.inl rfl) (State.ringWaitItem_class hi hx) rfl

theorem State.ringWaitItem_wait (t : State) : s.ringWaitItem len (.wait t) = t.waits :=
  runItem_wait (allStrands_contains _) (.inl rfl) (State.ringWaitItem_class hi hx) rfl

theorem State.ringWaitItem_retire {t : State} (ht : State.endsAs x s t) : s.ringWaitItem len (.retire t) = t.after x len :=
  ht.retires hi (allStrands_contains x) (State.ringWaitItem_class hi hx) rfl

end

/-- What the statement on ring waits says of a WAITF and a WAITE of one width and count. -/
theorem ringWait_results {s : State} {x : StrandId} {h : BitVec 4} {k len : Nat} {i j : Instr} (hi : s.issues x)
    (hexec : exec i s = .next (s.ringWaitItem len (s.waitFull x h k))) (hexec' : exec j s = .next (s.ringWaitItem len (s.waitEmpty x h k))) :
    (x = .K → exec i s = .next (s.raises x 0x03 0 0) ∧ exec j s = .next (s.raises x 0x03 0 0)) ∧
    (x ≠ .K → ∀ c d, s.ringOf h = .error (c, d) → exec i s = .next (s.raises x c d 0) ∧ exec j s = .next (s.raises x c d 0)) ∧
    (x ≠ .K → ∀ r, s.ringOf h = .ok r →
      (r.countOk k = false → exec i s = .next (s.raises x 0x1D (h.setWidth 64) 0) ∧ exec j s = .next (s.raises x 0x1D (h.setWidth 64) 0)) ∧
      (r.countOk k = true →
        (s.fullWait r 0 k = .ready → exec i s = .next (((s.consumes x r).acquire x (s.ringScope r)).after x len)) ∧
        (s.fullWait r 0 k = .waits → exec i s = .next (s.ringWait x r.handle true).waits) ∧
        ((∀ q, q < k → (s.slotState r (r.index r.ring.tail.toNat q)).full = false) →
          exec j s = .next ((s.acquire x (s.ringScope r)).after x len)) ∧
        ((∃ q, q < k ∧ (s.slotState r (r.index r.ring.tail.toNat q)).full = true) → exec j s = .next (s.ringWait x h false).waits))) := by
  rw [hexec, hexec']
  refine ⟨fun hx => ?_, fun hx c d hr => ?_, fun hx r hr => ⟨fun hn => ?_, fun hn => ⟨fun hw => ?_, fun hw => ?_, fun hw => ?_, fun hw => ?_⟩⟩⟩
  · rw [State.ringWaitItem_onK hi len hx, State.ringWaitItem_onK hi len hx]
    exact ⟨rfl, rfl⟩
  · rw [State.waitFull, State.waitEmpty, State.withRing_error hr, State.withRing_error hr, Res.fail, State.ringWaitItem_trap hi len hx]
    exact ⟨rfl, rfl⟩
  · rw [State.waitFull_badCount hr hn, State.waitEmpty_badCount hr hn, Res.fail, State.ringWaitItem_trap hi len hx]
    exact ⟨rfl, rfl⟩
  · rw [State.waitFull_ready hr hn hw,
      State.ringWaitItem_retire hi len hx ((s.consumes_endsAs x x r).trans (State.acquire_endsAs _ x x _))]
  · rw [State.waitFull_waits hr hn hw, State.ringWaitItem_wait hi len hx]
  · rw [State.waitEmpty_ready hr hn hw, State.ringWaitItem_retire hi len hx (State.acquire_endsAs _ x x _)]
  · rw [State.waitEmpty_waits hr hn hw, State.ringWaitItem_wait hi len hx]

/-! ## Waits that last (R165) -/

@[simp] theorem at16_put16 {α : Type} (v : Vector α 16) (n : BitVec 4) (a : α) : at16 (put16 v n a) n = a := by
  simp [at16, put16]


/-- A record that no hook claims is queued (R100, R389). -/
theorem State.raise_unclaimed {s : State} {r : FaultRecord} (hd : deliveredAtH r.cause = false) (hb : bestSlot s.pk.swage (·.hooks r) = none) :
    s.raise r = (s.onStrand r.strand (·.unhooked r)).queueRecord r := by
  generalize ht : s.raise r = t
  simp only [State.raise, hd, Bool.false_eq_true, if_false] at ht
  split at ht
  · exact ht.symm
  · rename_i n hn
    exact absurd (hb.symm.trans hn) nofun

theorem roomFor_of_short {fq : List FaultRecord} (r : FaultRecord) (h : fq.length < 16) : roomFor fq r = true := by
  unfold roomFor
  dsimp only
  split
  · rfl
  · exact decide_eq_true (h.trans_le (Nat.le_add_right _ _))

theorem State.interrupt_fq (s : State) : s.interrupt.sys.fq = s.sys.fq := by
  simp only [State.interrupt, State.onSys_sys]
  split <;> rfl

theorem State.enqueue_fq {s : State} {r : FaultRecord} (h : roomFor s.sys.fq r = true) : (s.enqueue r).sys.fq = s.sys.fq ++ [r] := by
  simp only [State.enqueue, h, if_true, State.interrupt_fq]
  rfl

/-- A record that stops no strand, which no hook claims, joins a queue that has room; no strand's run state, position or wait changes. -/
theorem State.raise_joins {s : State} {r : FaultRecord} (hs : nonStopping r.raised = true) (hc : r.cls = .asynchronous)
    (hd : deliveredAtH r.cause = false) (hb : bestSlot s.pk.swage (·.hooks r) = none) (hroom : s.sys.fq.length < 16) :
    (s.raise r).sys.fq = s.sys.fq ++ [r] ∧ (s.raise r).core.streams = s.core.streams ∧
      ∀ y, ((s.raise r).strand y).run = (s.strand y).run ∧ ((s.raise r).strand y).pc = (s.strand y).pc ∧
        ((s.raise r).strand y).wait = (s.strand y).wait := by
  have sys : (s.onStrand r.strand (·.unhooked r)).sys = s.sys := State.onStrand_sys _ _ _
  have room : roomFor (s.onStrand r.strand (·.unhooked r)).sys.fq r = true := by
    rw [sys]
    exact roomFor_of_short r hroom
  rw [State.raise_unclaimed hd hb, State.queueRecord_nonStopping _ hs hc]
  refine ⟨?_, ?_, fun y => ?_⟩
  · rw [State.enqueue_fq room, sys]
  · simp only [State.enqueue, room, if_true, State.interrupt]
    exact State.onStrand_streams _ _ _
  · rw [State.enqueue_strand]
    by_cases hy : y = r.strand
    · subst hy; simp [Strand.unhooked]
    · simp [State.onStrand_other _ _ hy]

/-- The ring wait of a strand has raised its RING_STALL. -/
def State.stallRaised (s : State) (x : StrandId) (w : RingWait) : State :=
  s.onStrand x fun t => { t with wait := some { w with raised := true } }

/-- The wait of a stream has raised its RING_STALL. -/
def State.streamStallRaised (s : State) (q : BitVec 4) : State :=
  let t := at16 s.core.streams q
  s.onCore fun c => { c with streams := put16 c.streams q { t with stall := t.stall.map fun w => (w.1, true) } }

/-- RING_STALL of a ring wait that has lasted LIMIT cycles, which no hook claims. -/
theorem ringStall_joins {s : State} {x : StrandId} {w : RingWait} (hw : (s.strand x).wait = some w) (hraised : w.raised = false)
    (hlimit : s.sys.rstall ≠ 0) (hdue : w.since + s.sys.rstall.toNat ≤ s.sys.cycle.toNat)
    (hb : bestSlot s.pk.swage (·.hooks ((s.onStrand x fun t => { t with wait := some { w with raised := true } }).record x 0x1E .asynchronous
      (w.handle.setWidth 64 ||| flagBit 64 w.full 8) 0 0 (s.strand x).coord .nothing 0)) = none) (hroom : s.sys.fq.length < 16) :
    ∃ t r, exec (.ringStall x) s = .next t ∧ t.sys.fq = s.sys.fq ++ [r] ∧ r.cause = 0x1E ∧ r.strand = x ∧
      r.detail = w.handle.setWidth 64 ||| flagBit 64 w.full 8 ∧ (t.strand x).run = (s.strand x).run ∧
      (t.strand x).pc = (s.strand x).pc ∧ (t.strand x).wait = some { w with raised := true } := by
  have stalls : s.strandStalls x = true := by
    simp only [State.strandStalls, hw, State.stallDue, hraised, Bool.not_false, Bool.true_and, Bool.and_eq_true, bne_iff_ne, ne_eq,
      decide_eq_true_eq]
    exact ⟨hlimit, hdue⟩
  have sys : (s.stallRaised x w).sys = s.sys := State.onStrand_sys _ _ _
  have runs : exec (.ringStall x) s = .next ((s.stallRaised x w).raiseAsync x cRingStall (w.handle.setWidth 64 ||| flagBit 64 w.full 8) 0 0 (s.strand x).coord
      .nothing) := by
    show execRingStall x s = _
    simp only [execRingStall, hw, stalls]
    rfl
  obtain ⟨fq, -, strands⟩ := State.raise_joins (s := s.stallRaised x w) (r := (s.stallRaised x w).record x cRingStall .asynchronous
    (w.handle.setWidth 64 ||| flagBit 64 w.full 8) 0 0 (s.strand x).coord .nothing 0) rfl rfl rfl hb (by rwa [sys])
  obtain ⟨run, pc, wait⟩ := strands x
  rw [sys] at fq
  refine ⟨_, _, runs, fq, rfl, rfl, rfl, ?_, ?_, ?_⟩
  · exact run.trans (by simp [State.stallRaised])
  · exact pc.trans (by simp [State.stallRaised])
  · exact wait.trans (by simp [State.stallRaised])

/-- RING_STALL of a stream of A whose wait for an empty slot has lasted LIMIT cycles, which no hook claims. -/
theorem streamStall_joins {s : State} {q : BitVec 4} {since : Nat} (hstrand : s.strandStalls .A = false) (hq : s.streamStalls = some q)
    (hstall : (at16 s.core.streams q).stall = some (since, false))
    (hb : bestSlot s.pk.swage (·.hooks (s.record .A 0x1E .asynchronous ((descRing (at16 s.core.streams q).desc).setWidth 64) 0 1
      (Coord.ofKey ((at16 s.core.streams q).keyAt (at16 s.core.streams q).head)) .nothing 0)) = none) (hroom : s.sys.fq.length < 16) :
    ∃ t r, exec (.ringStall .A) s = .next t ∧ t.sys.fq = s.sys.fq ++ [r] ∧ r.cause = 0x1E ∧ r.eng = 1 ∧
      r.detail = (descRing (at16 s.core.streams q).desc).setWidth 64 ∧ (t.strand .A).run = (s.strand .A).run ∧
      (t.strand .A).pc = (s.strand .A).pc ∧ (at16 t.core.streams q).stall = some (since, true) := by
  have runs : exec (.ringStall .A) s = .next (s.raiseStreamStall q) := by
    show execRingStall .A s = _
    simp only [execRingStall, hstrand, hq, if_true]
    cases (s.strand .A).wait <;> rfl
  obtain ⟨fq, streams, strands⟩ := State.raise_joins (s := s.streamStallRaised q) (r := s.record .A cRingStall .asynchronous
    ((descRing (at16 s.core.streams q).desc).setWidth 64) 0 1 (Coord.ofKey ((at16 s.core.streams q).keyAt (at16 s.core.streams q).head))
    .nothing 0) rfl rfl rfl hb hroom
  obtain ⟨run, pc, -⟩ := strands .A
  refine ⟨_, _, runs, fq, rfl, rfl, rfl, run, pc, ?_⟩
  refine (congrArg (fun v => (at16 v q).stall) streams).trans ?_
  simp [State.streamStallRaised, hstall]

/-- A ring wait whose slots have come retires by its event (R163). -/
theorem ringWaitSatisfied_retires {s : State} {x : StrandId} {w : RingWait} {h : BitVec 4} {n : Nat} {r : RingAt} (hi : s.issues x)
    (hw : (s.strand x).wait = some w) (hmay : s.mayIssue x = true) (hlock : (s.strand x).lockstep = false)
    (hslot : s.decodeSlot x (s.itemOf x) = none) (hitem : waitItem (s.itemOf x) = some (h, n, true)) (hr : s.ringOf h = .ok r)
    (hn : r.countOk n = true) (hf : s.fullWait r 0 n = .ready) :
    exec (.ringWaitSatisfied x) s = .next (((s.consumes x r).acquire x (s.ringScope r)).after x (s.itemLen x)) := by
  have ends : s.finish x (s.itemLen x) (.retire ((s.consumes x r).acquire x (s.ringScope r))) =
      ((s.consumes x r).acquire x (s.ringScope r)).after x (s.itemLen x) := by
    have := runItem_body s (s.itemLen x) (.retire ((s.consumes x r).acquire x (s.ringScope r)))
    rw [hi.1] at this
    rw [← this]
    exact ((s.consumes_endsAs x x r).trans (State.acquire_endsAs _ x x _)).retires hi (allStrands_contains x) rfl rfl
  show execRingWaitSatisfied x s = _
  simp only [execRingWaitSatisfied, hw, hmay, hlock, hslot, hitem, State.waitFull_ready hr hn hf, ends, Bool.not_true, Bool.or_self,
    Option.isSome_none, Bool.false_eq_true, if_false]

/-- Settles O20, by what the slots say of a wait, and by the queueing of a record that stops no strand. -/
theorem ringWaitResults : Obligations.RingWaitResults := by
  unfold Obligations.RingWaitResults
  refine ⟨fun s x h n m hi => ?_, fun s x w hw => ⟨fun hraised hlimit hdue hb hroom => ringStall_joins hw hraised hlimit hdue hb hroom,
    fun h n hmay hlock hcur hdry hstep heaf hslot hitem r hr hn hf =>
      ringWaitSatisfied_retires ⟨hcur, hdry, hstep, heaf⟩ hw hmay hlock hslot hitem hr hn hf⟩,
    fun s q since hstrand hq hstall hb hroom => streamStall_joins hstrand hq hstall hb hroom⟩
  intro runs
  have item {i j : Instr} {len k : Nat} (hexec : exec i s = .next (s.ringWaitItem len (s.waitFull x h k)))
      (hexec' : exec j s = .next (s.ringWaitItem len (s.waitEmpty x h k))) : runs i j len k := by
    obtain ⟨onK, unresolved, resolved⟩ := ringWait_results hi hexec hexec'
    refine ⟨onK, fun hx => ⟨fun hv => unresolved hx _ _ (State.ringOf_undefined hv), unresolved hx⟩, fun hx r hr => ?_⟩
    obtain ⟨badCount, goodCount⟩ := resolved hx r hr
    refine ⟨fun hk => badCount ?_, fun h1 h2 => ?_⟩
    · rw [Bool.eq_false_iff, ne_eq, RingAt.countOk_iff]
      omega
    · obtain ⟨full, waits, empty, waitsEmpty⟩ := goodCount (RingAt.countOk_iff.mpr ⟨h1, h2⟩)
      refine ⟨fun hf => full ?_, fun hempty lap => waits ?_, empty, waitsEmpty⟩
      · exact State.fullWait_ready (by simpa using fun q hq _ => (hf q hq).2) (by simpa using fun q hq => (hf q hq).1)
      · exact State.fullWait_waits (by simpa using lap) (by simpa using hempty)
  have cur := hi.1
  subst cur
  exact ⟨item rfl rfl, item rfl rfl⟩

end Sys2Proof.Machine
end

section
/-!
PROOFS. Pushes, pops and definitions of rings (R155, R162, R163, R190, R191, R194).
-/
namespace Sys2Proof.Machine

/-! ## What stores, acquires and snapshots leave of a strand -/

theorem State.slagAdd_endsAs (s : State) (x : StrandId) (e : SlagEntry) : State.endsAs x s (s.slagAdd e) := ⟨rfl, by cases x <;> rfl⟩

/-- A store to scratchpad that is made lets its strand go on as before. -/
theorem State.scratchStore_endsAs {s t : State} {x : StrandId} {c : Coord} {keep : Bool} {p : Nat} {a : BitVec 32} {bs : List (BitVec 8)}
    (y : StrandId) (h : s.scratchStore x c keep p a bs = .done t) : State.endsAs y s t := by
  unfold State.scratchStore at h
  dsimp only at h
  split_ifs at h
  · cases h; exact State.endsAs.refl
  · cases h
    refine State.endsAs.trans ?_ (State.endsAs.onMu _)
    exact List.foldlRecOn _ _ State.endsAs.refl fun u hu _ _ => hu.trans (u.slagAdd_endsAs y _)
  · cases h; exact State.endsAs.onMu _

theorem State.endsAs.onVec {s : State} (x : StrandId) (f : VectorState → VectorState) : State.endsAs x s (s.onVec f) :=
  ⟨rfl, by cases x <;> rfl⟩

theorem State.putTile_endsAs (s : State) (x : StrandId) (n : BitVec 6) (t : Tile) : State.endsAs x s (s.putTile n t) :=
  (State.endsAs.onVec x _).trans (State.endsAs.onVec x _)

/-- A fold of steps that may fail and that each let a strand go on as before. -/
theorem State.endsAs_foldl_bind {α : Type} {x : StrandId} {g : State → α → Option State} (h : ∀ u a t, g u a = some t → State.endsAs x u t) :
    ∀ (l : List α) (s t : State), l.foldl (fun r a => r.bind fun u => g u a) (some s) = some t → State.endsAs x s t
  | [], s, t, ht => by cases ht; exact State.endsAs.refl
  | a :: l, s, t, ht => by
    rw [List.foldl_cons, Option.bind_some] at ht
    cases hg : g s a with
    | none =>
      rw [hg, List.foldl_fixed' fun _ => rfl] at ht
      cases ht
    | some u =>
      rw [hg] at ht
      exact (h s a u hg).trans (State.endsAs_foldl_bind h l u t ht)

/-- Snapshots of a tile let every strand go on as before. -/
theorem State.snapTile_endsAs {s t : State} {n : BitVec 6} (x : StrandId) (h : s.snapTile n = some t) : State.endsAs x s t := by
  refine State.endsAs_foldl_bind (fun u i t ht => ?_) _ s t h
  split at ht
  · cases ht
  · cases ht; exact State.endsAs.onVec x _

/-! ## Bytes of slots and tiles -/

theorem toBytes_length {w : Nat} (n : Nat) (v : BitVec w) : (toBytes n v).length = n := by
  simp only [toBytes, List.length_map, List.length_range]

theorem cellRange_add {w : Nat} (c : Cells w) (n a b : Nat) : cellRange c n (a + b) = cellRange c n a ++ cellRange c (n + a) b := by
  simp only [cellRange, List.range_add, List.map_append, List.map_map, Function.comp_def, Nat.add_assoc]

/-- The lanes of the bytes that a scratchpad holds from an offset on. -/
theorem State.lanesOf_scratchRead (s : State) (p : Nat) (n off : Nat) : lanesOf n (s.scratchRead p off (4 * n)) =
    (List.range n).map fun l => BitVec.ofNat 32 (leNat (s.scratchRead p (off + 4 * l) 4)) := by
  induction n generalizing off with
  | zero => rfl
  | succ n ih =>
    have split : s.scratchRead p off (4 * (n + 1)) = s.scratchRead p off 4 ++ s.scratchRead p (off + 4) (4 * n) := by
      simp only [State.scratchRead, Nat.mul_succ, Nat.add_comm (4 * n), cellRange_add, Nat.add_assoc]
    have four : (s.scratchRead p off 4).length = 4 := rfl
    rw [split, lanesOf, List.take_left' four, List.drop_left' four, ih, List.range_succ_eq_map, List.map_cons, List.map_map]
    refine congrArg (List.cons _) (List.map_congr_left fun l _ => ?_)
    rw [Function.comp_apply, Nat.mul_succ, Nat.add_right_comm, Nat.add_assoc off]

theorem denseFrom_length {w : Nat} (k n : Nat) (c : Cells w) : (denseFrom k n c).length = k := by
  induction k generalizing n c with
  | zero => rfl
  | succ k ih =>
    cases c with
    | nil => rw [denseFrom, List.length_cons, ih]
    | cons kv rest =>
      rw [denseFrom]
      split <;> rw [List.length_cons, ih]

theorem imageBytes_length (t : Tile) : (imageBytes t).length = 4 * t.length := by
  simp only [imageBytes, List.length_flatMap, toBytes_length, List.map_const', List.sum_replicate, smul_eq_mul, Nat.mul_comm]

theorem State.tile_length (s : State) (n : BitVec 6) : (s.tile n).length = 1024 := denseFrom_length _ _ _

/-- A cell of a part that is put to zero reads as zero. -/
theorem cellGet_cellClear {w : Nat} (c : Cells w) {n len m : Nat} (h : n ≤ m) (h' : m < n + len) : cellGet (cellClear c n len) m = 0 := by
  induction c with
  | nil => rfl
  | cons kv rest ih =>
    rw [cellClear, List.filter_cons]
    split
    · rename_i hk
      have other : m ≠ kv.1 := by
        rintro rfl
        simp only [Bool.or_eq_true, decide_eq_true_eq] at hk
        omega
      rw [cellGet, if_neg other]
      exact ih
    · exact ih

/-! ## Pushes and pops -/

section
variable {s : State} {x : StrandId} {h : BitVec 4} {r : RingAt} {o byte n : Nat} {idx : Nat}

theorem State.slotAccess_fits {need : Need} (hf : s.scratchOk false r.pcore (r.slotOff idx + byte) n = true) (res : Res) :
    s.slotAccess x r need idx byte n res = res := by
  simp only [State.slotAccess, hf, Bool.or_true, if_true]

/-- An access of a scalar strand that reaches past the bounds of HOME raises SCRATCH_BOUNDS at the first byte past them. -/
theorem State.slotAccess_past {need : Need} (hx : x ≠ .V) (hn : n ≠ 0) (hf : s.scratchOk false r.pcore (r.slotOff idx + byte) n = false)
    (res : Res) : s.slotAccess x r need idx byte n res = .trap cScratchBounds (accessBits need n true) (BitVec.ofNat 64 (2 ^ 63) |||
      (r.slotAddr idx (byte + s.pastBound false r.pcore (r.slotOff idx + byte))).setWidth 64) := by
  have nonzero : (n == 0) = false := beq_eq_false_iff_ne.mpr hn
  simp only [State.slotAccess, hf, nonzero, Bool.or_self, Bool.false_eq_true, if_false, laneOfByte, if_neg hx]
  rw [show flagBit 64 true 63 = BitVec.ofNat 64 (2 ^ 63) by decide]
  exact congrArg (Res.trap _ · _) BitVec.or_zero

theorem State.awaitSlots_one {start : Nat} (hw : s.fullWait r start 1 = .ready) (k : State → Res) :
    s.awaitSlots x r start 1 byte n k =
      s.slotAccess x r .read (r.index r.ring.head.toNat start) byte n (k ((s.consumes x r).acquire x (s.ringScope r))) := by
  simp only [State.awaitSlots, hw]
  rfl

variable (hr : s.ringOf h = .ok r)
include hr

theorem State.push_tooLong {bs : List (BitVec 8)} (hl : r.slotSize < byte + bs.length) :
    s.push x h o byte bs = .trap cRingProtocol (h.setWidth 64) 0 := by
  simp only [State.push, State.withRing_ok hr, if_pos hl, Res.fail]

theorem State.pop_tooLong (hl : r.slotSize < byte + n) (k : List (BitVec 8) → State → Res) :
    s.pop x h o byte n k = .trap cRingProtocol (h.setWidth 64) 0 := by
  simp only [State.pop, State.withRing_ok hr, if_pos hl, Res.fail]

theorem State.push_past {bs : List (BitVec 8)} (hx : x ≠ .V) (hb : bs.length ≠ 0) (hl : byte + bs.length ≤ r.slotSize)
    (hf : s.scratchOk false r.pcore (r.slotOff (r.index r.ring.tail.toNat o) + byte) bs.length = false) :
    s.push x h o byte bs = .trap cScratchBounds (accessBits .write bs.length true) (BitVec.ofNat 64 (2 ^ 63) |||
      (r.slotAddr (r.index r.ring.tail.toNat o) (byte + s.pastBound false r.pcore (r.slotOff (r.index r.ring.tail.toNat o) + byte))).setWidth 64) := by
  simp only [State.push, State.withRing_ok hr, if_neg hl.not_gt, State.slotAccess_past hx hb hf]

theorem State.push_stores {bs : List (BitVec 8)} {t : State} (hl : byte + bs.length ≤ r.slotSize)
    (hf : s.scratchOk false r.pcore (r.slotOff (r.index r.ring.tail.toNat o) + byte) bs.length = true)
    (hs : s.scratchStore x (s.strand x).coord (s.kept x (s.strand x).coord) r.pcore (r.slotAddr (r.index r.ring.tail.toNat o) byte) bs = .done t) :
    s.push x h o byte bs = .retire (t.produces x r) := by
  simp only [State.push, State.withRing_ok hr, if_neg hl.not_gt, State.slotAccess_fits hf, hs]

variable (hl : byte + n ≤ r.slotSize) (hw : s.fullWait r o 1 = .ready) (k : List (BitVec 8) → State → Res)
include hl hw

theorem State.pop_past (hx : x ≠ .V) (hn : n ≠ 0)
    (hf : s.scratchOk false r.pcore (r.slotOff (r.index r.ring.head.toNat o) + byte) n = false) :
    s.pop x h o byte n k = .trap cScratchBounds (accessBits .read n true) (BitVec.ofNat 64 (2 ^ 63) |||
      (r.slotAddr (r.index r.ring.head.toNat o) (byte + s.pastBound false r.pcore (r.slotOff (r.index r.ring.head.toNat o) + byte))).setWidth 64) := by
  simp only [State.pop, State.withRing_ok hr, if_neg hl.not_gt, State.awaitSlots_one hw, State.slotAccess_past hx hn hf]

theorem State.pop_reads (hf : s.scratchOk false r.pcore (r.slotOff (r.index r.ring.head.toNat o) + byte) n = true) :
    s.pop x h o byte n k = k (((s.consumes x r).acquire x (s.ringScope r)).scratchRead r.pcore (r.slotOff (r.index r.ring.head.toNat o) + byte) n)
      ((s.consumes x r).acquire x (s.ringScope r)) := by
  simp only [State.pop, State.withRing_ok hr, if_neg hl.not_gt, State.awaitSlots_one hw, State.slotAccess_fits hf]

end

/-! ## The items -/

theorem ringStrands_of_engine {x : StrandId} (h : x ≠ .K) : ringStrands.contains x = true := by
  cases x <;> [exact absurd rfl h; rfl; rfl; rfl]

section
variable {s t : State} {x : StrandId} (hi : s.issues x) (hx : x ≠ .K) {cls : Bool} (hc : cls = true)
include hi hx hc

/-- An item of the ring major on its strand, whose body raises a cause. -/
theorem ringItem_trap (c : BitVec 6) (d a : BitVec 64) : runItem s 2 ringStrands false cls true (.trap c d a) = s.raises x c d a :=
  runItem_trap hi (ringStrands_of_engine hx) (.inl rfl) hc rfl

/-- An item of the ring major on its strand, whose body retires. -/
theorem ringItem_retire (ht : State.endsAs x s t) : runItem s 2 ringStrands false cls true (.retire t) = t.after x 2 :=
  ht.retires hi (ringStrands_of_engine hx) hc rfl

/-- An item of the ring major on its strand, whose body waits. -/
theorem ringItem_wait : runItem s 2 ringStrands false cls true (.wait t) = t.waits :=
  runItem_wait (by rw [hi.1]; exact ringStrands_of_engine hx) (.inl rfl) hc rfl

end

/-- The entry of a handle that RING.DEF writes, with the slot states cleared of a ring at home. -/
def State.defines (s : State) (h : BitVec 4) (e : Ring) : State :=
  let own := s.pk.pcore.toNat
  let s := s.onPk fun k => { k with rings := kSet k.rings (own * 16 + h.toNat) e }
  if e.remote then s
  else s.onMu fun m => { m with scratch := cellClear m.scratch (scratchBase own + 0x3E0000 + h.toNat * 8192) 8192 }

theorem State.defines_endsAs (s : State) (x : StrandId) (h : BitVec 4) (e : Ring) : State.endsAs x s (s.defines h e) := by
  unfold State.defines
  dsimp only
  split
  · exact State.endsAs.onPk _
  · exact (State.endsAs.onPk _).trans (State.endsAs.onMu _)

theorem State.defines_ring (s : State) (h : BitVec 4) (e : Ring) :
    kGet Ring.zero (s.defines h e).pk.rings (s.pk.pcore.toNat * 16 + h.toNat) = e := by
  unfold State.defines
  dsimp only
  split <;> exact kGet_kSet ..

theorem State.defines_mem (s : State) (h : BitVec 4) (e : Ring) : (s.defines h e).pk.mu.mem = s.pk.mu.mem := by
  unfold State.defines
  dsimp only
  split <;> rfl

/-- The slot states of a ring that is defined at home are clear. -/
theorem State.defines_slotStates (s : State) (h : BitVec 4) {e : Ring} (he : e.remote = false) {q : Nat} (hq : q < 8192) :
    (s.defines h e).scratchByte s.pk.pcore.toNat (0x3E0000 + h.toNat * 8192 + q) = 0 := by
  simp only [State.defines, he, Bool.false_eq_true, if_false]
  exact cellGet_cellClear _ (by omega) (by omega)

section
variable {s : State} (hi : s.issues .A) {h : BitVec 4} {d : BitVec 6}
include hi

theorem ringDef_waits (hk : s.core.qu.hk < (s.strand .A).coord.key) : exec (.ringDef h d) s = .next s.waits := by
  show execRingDef h d s = _
  simp only [execRingDef, hi.1, if_pos hk]
  exact congrArg _ (ringItem_wait hi nofun rfl)

theorem ringDef_defines {e : Ring} {p : Nat} (hk : (s.strand .A).coord.key ≤ s.core.qu.hk) (hc : s.checkDef h (s.reg .A d) = .ok (e, p)) :
    exec (.ringDef h d) s = .next ((s.defines h e).after .A 2) := by
  show execRingDef h d s = _
  simp only [execRingDef, hi.1, if_neg hk.not_gt, hc]
  exact congrArg _ (ringItem_retire hi nofun rfl (s.defines_endsAs .A h e))

end

/-- The state that a pop reads in: the strand consumes from the ring, and has acquired. -/
theorem State.consumes_acquire_frame (s : State) (x y : StrandId) (r : RingAt) (scope : Nat) :
    State.endsAs y s ((s.consumes x r).acquire x scope) ∧ ((s.consumes x r).acquire x scope).cur = s.cur := by
  refine ⟨(s.consumes_endsAs x y r).trans (State.acquire_endsAs _ x y scope), ?_⟩
  have cur : (s.consumes x r).cur = s.cur := by unfold State.consumes; split <;> rfl
  obtain ⟨m, side, h⟩ := (s.consumes x r).acquire_frame x scope
  rw [h, ← cur]
  rfl

section
variable {s : State} (hi : s.issues .A) (h : BitVec 4) (w : BitVec 10) (o : BitVec 2) (d : BitVec 6)
include hi

theorem ringPushA_eq : exec (.ringPushA h w o d) s =
    .next (runItem s 2 ringStrands false true true (s.push .A h o.toNat (8 * w.toNat) (toBytes 8 (s.reg .A d)))) := by
  show execRingPushA h w o d s = _
  rw [execRingPushA, hi.1]
  rfl

theorem ringPopA_eq : exec (.ringPopA h w o d) s =
    .next (runItem s 2 ringStrands false true true
      (s.pop .A h o.toNat (8 * w.toNat) 8 fun bs u => .retire (u.putReg u.cur d (ofBytes 64 bs)))) := by
  show execRingPopA h w o d s = _
  rw [execRingPopA, hi.1]
  rfl

end

section
variable {s : State} (hi : s.issues .V) (h : BitVec 4) (o : BitVec 2) (v : BitVec 6) (hout : s.lanesOut v = false)
include hi hout

theorem ringPushV_eq : exec (.ringPushV h o v) s =
    .next (runItem s 2 ringStrands false true true (s.push .V h o.toNat 0 (imageBytes (s.tile v)))) := by
  show execRingPushV h o v s = _
  simp only [execRingPushV, hi.1, State.tileIn, hout]
  rfl

theorem ringPopV_eq : exec (.ringPopV h o v) s =
    .next (runItem s 2 ringStrands false true true
      (s.pop .V h o.toNat 0 4096 fun bs u => u.writeTile v (lanesOf 1024 bs) .retire)) := by
  show execRingPopV h o v s = _
  simp only [execRingPopV, hi.1, State.tileIn, hout]
  rfl

end

/-- Settles O22, by what pushes and pops come to on a ring that resolves, and by what a definition leaves. -/
theorem ringMoveResults : Obligations.RingMoveResults := by
  unfold Obligations.RingMoveResults
  refine ⟨fun s h w o d hi => ⟨fun r hr => ?_, ringDef_waits hi, fun e p hk hc => ?_⟩, fun s h o v r hi hout hr => ?_⟩
  · have engine : StrandId.A ≠ .K := nofun
    have scalar : StrandId.A ≠ .V := nofun
    have len : (toBytes 8 (s.reg .A d)).length = 8 := toBytes_length 8 _
    rw [ringPushA_eq hi, ringPopA_eq hi]
    refine ⟨fun hl => ⟨?_, ?_⟩, fun hl => ⟨fun hf => ?_, fun hf hw => ?_, fun t hf hs => ?_, fun hf hw => ?_⟩⟩
    · rw [State.push_tooLong hr (by rw [len]; exact hl), ringItem_trap hi engine rfl]
    · rw [State.pop_tooLong hr hl, ringItem_trap hi engine rfl]
    · rw [State.push_past hr scalar (by rw [len]; decide) (by rw [len]; exact hl) (by rw [len]; exact hf), len,
        ringItem_trap hi engine rfl]
      rfl
    · rw [State.pop_past hr hl hw _ scalar (by decide) hf, ringItem_trap hi engine rfl]
      rfl
    · rw [State.push_stores hr (by rw [len]; exact hl) (by rw [len]; exact hf) hs,
        ringItem_retire hi engine rfl ((State.scratchStore_endsAs .A hs).trans (t.produces_endsAs .A .A r))]
    · obtain ⟨kept, cur⟩ := s.consumes_acquire_frame .A .A r (s.ringScope r)
      rw [State.pop_reads hr hl hw _ hf, cur, hi.1, ringItem_retire hi engine rfl (kept.trans (State.endsAs.putReg _ _))]
      rfl
  · refine ⟨_, ringDef_defines hi hk hc, rfl, s.defines_ring h e, fun he q hq => s.defines_slotStates h he hq, fun v pa => ?_⟩
    exact congrArg (cellGet · (dieBase v + pa)) (s.defines_mem h e)
  · have engine : StrandId.V ≠ .K := nofun
    have len : (imageBytes (s.tile v)).length = 4096 := by rw [imageBytes_length, State.tile_length]
    rw [ringPushV_eq hi h o v hout, ringPopV_eq hi h o v hout]
    refine ⟨fun hl => ⟨?_, ?_⟩, fun hl => ⟨fun t hf hs => ?_, fun hf hw u t hu ht => ?_⟩⟩
    · rw [State.push_tooLong hr (by rw [len]; omega), ringItem_trap hi engine rfl]
    · rw [State.pop_tooLong hr (by omega), ringItem_trap hi engine rfl]
    · rw [State.push_stores (bs := imageBytes (s.tile v)) hr (by rw [len]; omega) (by rw [len]; exact hf) hs,
        ringItem_retire hi engine rfl ((State.scratchStore_endsAs .V hs).trans (t.produces_endsAs .V .V r))]
    · obtain ⟨kept, -⟩ := s.consumes_acquire_frame .V .V r (s.ringScope r)
      rw [State.pop_reads hr (by omega) hw _ hf, ← hu, State.writeTile, ht]
      rw [← hu] at kept
      rw [ringItem_retire hi engine rfl (kept.trans ((State.snapTile_endsAs .V ht).trans (t.putTile_endsAs .V v _))), ← State.lanesOf_scratchRead]
      rfl

end Sys2Proof.Machine
end

section
/-!
PROOFS. The operation of an atomic (R94 to R97, R180, R181): what it gives, and how many bytes it writes.
-/
namespace Sys2Proof.Machine

/-! ## The operation (R180, R181, R94) -/

theorem leNat_lt (bs : List (BitVec 8)) : leNat bs < 2 ^ (8 * bs.length) := by
  induction bs with
  | nil => exact Nat.one_pos
  | cons b bs ih =>
    have hb := b.isLt
    rw [leNat, List.length_cons, Nat.mul_succ, Nat.pow_add]
    omega

/-- A word read from four bytes, widened with zeros. -/
theorem ofNat_leNat_setWidth {bs : List (BitVec 8)} (h : bs.length = 4) :
    (BitVec.ofNat 32 (leNat bs)).setWidth 64 = BitVec.ofNat 64 (leNat bs) := by
  have lt := leNat_lt bs
  rw [h] at lt
  apply BitVec.eq_of_toNat_eq
  simp only [BitVec.toNat_setWidth, BitVec.toNat_ofNat]
  omega

section
variable {w : Nat} (unsigned : Bool) (m x d : BitVec w)

theorem amoNew_min : amoNew 4 unsigned m x d = amoValue 4 unsigned m x d := by
  cases unsigned
  case false =>
    rcases lt_trichotomy m.toInt x.toInt with h | h | h
    · simp [amoNew, amoValue, BitVec.slt, h, h.le]
    · simp [amoNew, amoValue, BitVec.eq_of_toInt_eq h]
    · simp [amoNew, amoValue, BitVec.slt, h.not_gt, h.not_ge]
  case true =>
    rcases lt_trichotomy m.toNat x.toNat with h | h | h
    · simp [amoNew, amoValue, BitVec.ult, h, h.le]
    · simp [amoNew, amoValue, BitVec.eq_of_toNat_eq h]
    · simp [amoNew, amoValue, BitVec.ult, h.not_gt, h.not_ge]

theorem amoNew_max : amoNew 5 unsigned m x d = amoValue 5 unsigned m x d := by
  cases unsigned
  case false =>
    rcases lt_or_ge x.toInt m.toInt with h | h
    · simp [amoNew, amoValue, BitVec.slt, h, h.not_ge]
    · simp [amoNew, amoValue, BitVec.slt, h, h.not_gt]
  case true =>
    rcases lt_or_ge x.toNat m.toNat with h | h
    · simp [amoNew, amoValue, BitVec.ult, h, h.not_ge]
    · simp [amoNew, amoValue, BitVec.ult, h, h.not_gt]

/-- The new value of an integer atomic is what R180 says of it. -/
theorem amoNew_eq_amoValue (fn : Nat) : amoNew fn unsigned m x d = amoValue fn unsigned m x d :=
  match fn with
  | 4 => amoNew_min unsigned m x d
  | 5 => amoNew_max unsigned m x d
  | 0 | 1 | 2 | 3 | 6 | 7 | 8 | 9 => rfl
  | _ + 10 => by simp [amoNew, amoValue]

end

/-- Rounding a sum whose exact zero has lost its sign is rne32 (R94). -/
theorem toF32_zeroSum (v : Val) (fl : Flags5) : ((toF32 v.zeroSum).1, fl ||| (toF32 v.zeroSum).2) = rne32 (v, fl) := by
  have other (h : v.isZero = false) (hz : v.zeroSum = v) : ((toF32 v.zeroSum).1, fl ||| (toF32 v.zeroSum).2) = rne32 (v, fl) := by
    simp only [rne32, h, hz, Bool.false_eq_true, if_false]
  cases v with
  | nan b => exact other rfl rfl
  | inf n => exact other rfl rfl
  | num n m e =>
    cases m with
    | zero => simp [rne32, Val.isZero, Val.zeroSum, toF32, toFloat]
    | succ m => exact other rfl (by simp [Val.zeroSum])

/-- An atomic on as many bytes as it acts on gives what R181 says of it. -/
theorem amoDo_eq_atomicOut {fn : Nat} {amod : BitVec 2} {m : List (BitVec 8)} (hm : m.length = amoSize fn amod) (x d : BitVec 64) :
    amoDo fn amod m x d = ⟨(atomicOut fn amod m x d).1, (atomicOut fn amod m x d).2.1, (atomicOut fn amod m x d).2.2⟩ := by
  unfold amoDo
  split
  case h_1 =>
    have sum := toF32_zeroSum ((f32Val (ofBytes 32 m)).add (f32Val (x.setWidth 32))).1 ((f32Val (ofBytes 32 m)).add (f32Val (x.setWidth 32))).2
    rw [Prod.mk.injEq] at sum
    obtain ⟨value, flags⟩ := sum
    simp only [atomicOut, if_true, AmoOut.mk.injEq, value, flags]
    exact ⟨rfl, rfl, rfl⟩
  case h_2 => rfl
  case h_3 => rfl
  case h_4 h1 h2 h3 =>
    simp only [atomicOut, if_neg h1, if_neg h2, if_neg h3]
    split
    · simp only [amoNew_eq_amoValue, ofBytes]
    · rename_i narrow
      have four : m.length = 4 := by
        rw [hm, amoSize, if_neg (not_or.mpr ⟨h2, h3⟩), if_neg h1, if_neg narrow]
      simp only [amoNew_eq_amoValue, ofBytes, ofNat_leNat_setWidth four]
      simp

/-! ## The bytes that an atomic writes (R95 to R97, R181) -/

theorem openBins_length (b new : Bins) (x : BitVec 32) : (openBins b new x).length = 12 := by
  rw [openBins, List.length_map, List.length_range]

theorem binAdd_length {b : Bins} (h : b.length = 12) (x : BitVec 32) : (binAdd b x).length = 12 := by
  unfold binAdd
  dsimp only
  split
  · rw [apply_ite List.length, h, apply_ite List.length, openBins_length, List.length_set, List.length_set, h, ite_self, ite_self]
  · rw [List.length_set, h]

theorem binCarry_length (b : Bins) (i : Nat) : (binCarry b i).length = b.length := by
  rw [binCarry, List.length_set, List.length_set]

theorem foldl_binCarry_length (l : List Nat) (b : Bins) : (l.foldl binCarry b).length = b.length := by
  induction l generalizing b with
  | nil => rfl
  | cons i l ih => rw [List.foldl_cons, ih, binCarry_length]

theorem binNormalise_length {b : Bins} (h : b.length = 12) : (binNormalise b).length = 12 := by
  unfold binNormalise
  split
  · exact h
  · rw [foldl_binCarry_length, h]

theorem binBytes_length {b : Bins} (h : b.length = 12) : (binBytes b).length = 96 := by
  simp [binBytes, List.length_flatMap, toBytes_length, h]

theorem binsOf_length (bs : List (BitVec 8)) : (binsOf bs).length = 12 := by
  simp [binsOf]

/-- An atomic writes the bytes that it acts on. -/
theorem atomicOut_length (fn : Nat) (amod : BitVec 2) (m : List (BitVec 8)) (x d : BitVec 64) :
    (atomicOut fn amod m x d).1.length = amoSize fn amod := by
  unfold atomicOut amoSize
  dsimp only
  by_cases h1 : fn = 1
  · simp [h1, toBytes_length]
  · by_cases h2 : fn = 2
    · simp [h2, binBytes_length, binAdd_length, binsOf_length]
    · by_cases h3 : fn = 3
      · simp [h3, binBytes_length, binNormalise_length, binsOf_length]
      · rw [if_neg h1, if_neg h2, if_neg h3, if_neg (not_or.mpr ⟨h2, h3⟩), if_neg h1]
        split_ifs <;> exact toBytes_length ..

theorem amoSize_pos (fn : Nat) (amod : BitVec 2) : 0 < amoSize fn amod := by
  unfold amoSize
  split_ifs <;> decide

end Sys2Proof.Machine
end

section
/-!
PROOFS. Scalar atomics on scratchpad (R171, R172, R180 to R183): which check of an address or a page fails first, and what an atomic that
passes them leaves.
-/
namespace Sys2Proof.Machine

/-! ## Stores and flags -/

theorem State.scratchRead_length (s : State) (p off n : Nat) : (s.scratchRead p off n).length = n := by
  simp only [State.scratchRead, cellRange, List.length_map, List.length_range]

/-- A store below the slot states with nothing kept writes its bytes. -/
theorem State.scratchStore_below {s : State} {x : StrandId} {c : Coord} {p : Nat} {a : BitVec 32} {bs : List (BitVec 8)} (h0 : 0 < bs.length)
    (h : scratchOff a + bs.length ≤ 0x3E0000) : s.scratchStore x c false p a bs = .done (s.scratchPut p (scratchOff a) bs) := by
  have all : bs.take (0x3E0000 - scratchOff a) = bs := List.take_of_length_le (by omega)
  have nonempty : bs.isEmpty = false := by rw [List.isEmpty_eq_false_iff]; exact List.ne_nil_of_length_pos h0
  rw [scratchOff] at all
  simp only [State.scratchStore, all, nonempty, Bool.false_eq_true, if_false, scratchOff]

/-- Setting no flag changes nothing. -/
theorem State.addFlags_zero (s : State) (x : StrandId) : s.addFlags x 0 = s := by
  have same (t : Strand) : { t with flags := t.flags ||| (0 : Flags5).setWidth 13 } = t := by simp
  rw [State.addFlags, funext same]
  exact s.onStrand_id x

theorem State.addFlags_endsAs (s : State) (x y : StrandId) (fl : Flags5) : State.endsAs y s (s.addFlags x fl) := by
  refine ⟨rfl, ?_⟩
  by_cases h : y = x
  · subst h; simp [State.addFlags]
  · simp [State.addFlags, State.onStrand_other _ _ h]

/-! ## The page of a write (R171 steps 4 and 5) -/

section
variable {path : Nat} {sup : Bool} {need : Need} {s t : State} {va n : Nat} {e : TlbEntry} (h0 : 0 < n)
include h0

/-- What the check of a write reports of its first page, it reports. -/
theorem State.checkWrite_of_translate_fail {f : WalkFail} (h : s.translate path va sup need = .fail f t) :
    s.checkWrite path sup need va n = .fail f.cause f.bits va t := by
  simp only [State.checkWrite, pages, pagesOf, if_neg h0.ne', List.foldl_cons, h]
  exact List.foldl_fixed' (fun _ => rfl) _

variable (h : s.translate path va sup need = .ok e t) (ha : leafAper e.leaf.word ≠ 5)
include h ha

theorem State.checkWrite_of_refused {c : BitVec 6} {d : BitVec 64} (hp : t.parcelRefuses e.leaf.word need = some (c, d)) :
    s.checkWrite path sup need va n = .fail c d va t := by
  simp only [State.checkWrite, pages, pagesOf, if_neg h0.ne', List.foldl_cons, h, decide_eq_false ha, Bool.and_false, Bool.false_eq_true,
    if_false, hp]
  exact List.foldl_fixed' (fun _ => rfl) _

theorem State.checkWrite_of_discarded (hn : need = .atomic) (hp : t.parcelRefuses e.leaf.word need = none) (hd : leafDisc e.leaf.word = true) :
    s.checkWrite path sup need va n = .fail cDiscardedWrite 0 va t := by
  simp only [State.checkWrite, pages, pagesOf, if_neg h0.ne', List.foldl_cons, h, decide_eq_false ha, Bool.and_false, Bool.false_eq_true,
    if_false, hp, decide_eq_true hn, hd, Bool.and_self, if_true]
  exact List.foldl_fixed' (fun _ => rfl) _

end

/-! ## The issue of an atomic (R182) -/

/-- The state after an atomic of the A strand that is performed on scratchpad: its bytes, its flags and its result stand. -/
def State.performed (s : State) (p off : Nat) (d : BitVec 6) (out : List (BitVec 8) × BitVec 64 × Flags5) : State :=
  (((s.scratchPut p off out.1).addFlags .A out.2.2).putReg .A d out.2.1).after .A 2

theorem State.performed_mk (s : State) (p off : Nat) (d : BitVec 6) (new : List (BitVec 8)) (v : BitVec 64) (fl : Flags5) :
    s.performed p off d (new, v, fl) = (((s.scratchPut p off new).addFlags .A fl).putReg .A d v).after .A 2 := rfl

/-- An atomic that sets no flag leaves its bytes and its result. -/
theorem State.performed_noFlags (s : State) (p off : Nat) (d : BitVec 6) (new : List (BitVec 8)) (v : BitVec 64) :
    s.performed p off d (new, v, 0) = ((s.scratchPut p off new).putReg .A d v).after .A 2 := by
  rw [State.performed_mk, State.addFlags_zero]

section
variable {s : State} {amod : BitVec 2} {fn : Nat} {d a b : BitVec 6}

theorem State.issueAtomic_badAddr {x : StrandId} {e : BadAddr}
    (h : s.checkAddr x (s.reg x a) .atomic (amoSize (s.amoFn fn) amod) (amoAlign (s.amoFn fn) amod) = .error e) :
    s.issueAtomic x fn amod d a b = .trap e.cause e.detail e.addr := by
  simp only [State.issueAtomic, h]

/-- What the check of its page reports, an atomic raises. -/
theorem State.issueAtomic_badPage {x : StrandId} {c : BitVec 6} {bits : BitVec 64} {va v : Nat} {t : State}
    (h : s.checkAddr x (s.reg x a) .atomic (amoSize (s.amoFn fn) amod) (amoAlign (s.amoFn fn) amod) = .ok (.global va))
    (hw : s.checkWrite pathCore (s.atS x) .atomic va (amoSize (s.amoFn fn) amod) = .fail c bits v t) :
    s.issueAtomic x fn amod d a b = .trap c (faultDetail c bits .atomic (amoSize (s.amoFn fn) amod)) (BitVec.ofNat 64 v) := by
  simp only [State.issueAtomic, h, hw]

/-- An atomic on scratchpad with nothing kept is performed at once. -/
theorem State.issueAtomic_scratch {x : StrandId} {p : Nat} {o : BitVec 32} (hk : s.kept x (s.strand x).coord = false)
    (h : s.checkAddr x (s.reg x a) .atomic (amoSize (s.amoFn fn) amod) (amoAlign (s.amoFn fn) amod) = .ok (.scratch p o))
    (hb : scratchOff o + amoSize (s.amoFn fn) amod ≤ 0x3E0000) :
    let out := atomicOut (s.amoFn fn) amod (s.scratchRead p (scratchOff o) (amoSize (s.amoFn fn) amod)) (s.reg x b) (s.reg x d)
    s.issueAtomic x fn amod d a b = .retire (((s.scratchPut p (scratchOff o) out.1).addFlags x out.2.2).putReg x d out.2.1) := by
  intro out
  have performed := amoDo_eq_atomicOut (State.scratchRead_length s p (scratchOff o) (amoSize (s.amoFn fn) amod)) (s.reg x b) (s.reg x d)
  have len : out.1.length = amoSize (s.amoFn fn) amod := atomicOut_length ..
  have stored := State.scratchStore_below (s := s) (x := x) (c := (s.strand x).coord) (p := p) (len ▸ amoSize_pos ..) (len.symm ▸ hb)
  simp only [State.issueAtomic, h, performed, hk]
  simp only [out] at stored
  simp only [stored]
  rfl

variable (hi : s.issues .A) (hamo : (s.strand .A).amo = none) {i : Instr} (hexec : exec i s = .next (atomic s fn amod d a b))
include hi hamo hexec

theorem atomic_issues : exec i s = .next (runItem s 2 [.A] false true true (s.issueAtomic .A fn amod d a b)) := by
  have every (r : BitVec 6) : regOk .A r = true := by simp [regOk]
  rw [hexec, atomic, hi.1]
  simp only [hamo, every, Bool.and_self]

theorem atomic_raises {c : BitVec 6} {dt ad : BitVec 64} (h : s.issueAtomic .A fn amod d a b = .trap c dt ad) :
    exec i s = .next (s.raises .A c dt ad) := by
  rw [atomic_issues hi hamo hexec, h, runItem_trap hi rfl (.inl rfl) rfl rfl]

theorem atomic_scratch {p : Nat} {o : BitVec 32} (hk : s.kept .A (s.strand .A).coord = false)
    (h : s.checkAddr .A (s.reg .A a) .atomic (amoSize (s.amoFn fn) amod) (amoAlign (s.amoFn fn) amod) = .ok (.scratch p o))
    (hb : scratchOff o + amoSize (s.amoFn fn) amod ≤ 0x3E0000) : exec i s = .next (s.performed p (scratchOff o) d
      (atomicOut (s.amoFn fn) amod (s.scratchRead p (scratchOff o) (amoSize (s.amoFn fn) amod)) (s.reg .A b) (s.reg .A d))) := by
  rw [atomic_issues hi hamo hexec, State.issueAtomic_scratch hk h hb]
  exact congrArg _ ((((State.endsAs.onMu _).trans (State.addFlags_endsAs ..)).trans (State.endsAs.putReg _ _)).retires hi rfl rfl rfl)

/-- The first check of its address or page that fails decides what an atomic raises. -/
theorem atomic_faults : addressFaults s .A i (s.reg .A a) 2 (amoSize (s.amoFn fn) amod) (amoAlign (s.amoFn fn) amod) ∧
    pageFaults s .A i (s.reg .A a) 2 (amoSize (s.amoFn fn) amod) (amoAlign (s.amoFn fn) amod) := by
  refine ⟨addressFaults_of_checkAddr (need := .atomic) fun _ hb => atomic_raises hi hamo hexec (State.issueAtomic_badAddr hb),
    pageFaults_of_translate (need := .atomic) fun hout hs hal => ?_⟩
  have found := State.checkAddr_global (s := s) (x := .A) (need := .atomic) (size := amoSize (s.amoFn fn) amod) hout hal hs
  have positive := amoSize_pos (s.amoFn fn) amod
  have fails {c : BitVec 6} {bits : BitVec 64} {t : State}
      (hw : s.checkWrite pathCore (s.atS .A) .atomic (s.reg .A a).toNat (amoSize (s.amoFn fn) amod) = .fail c bits (s.reg .A a).toNat t) :
      exec i s = .next (s.raises .A c (faultDetail c bits .atomic (amoSize (s.amoFn fn) amod)) (s.reg .A a)) := by
    have := atomic_raises (d := d) (b := b) hi hamo hexec (State.issueAtomic_badPage found hw)
    rwa [BitVec.ofNat_toNat, BitVec.setWidth_eq] at this
  refine ⟨fun f t hp ht => ?_, fun e t ht h5 => ⟨fun c d' hp => ?_, fun hn hp hd => ?_⟩⟩
  · rw [← faultDetail_other hp]
    exact fails (State.checkWrite_of_translate_fail positive ht)
  · have := fails (State.checkWrite_of_refused positive ht h5 hp)
    rwa [faultDetail_parcel (State.parcelRefuses_isParcelCause hp)] at this
  · rw [← faultDetail_other (by decide : ¬isParcelCause cDiscardedWrite)]
    exact fails (c := cDiscardedWrite) (State.checkWrite_of_discarded positive ht h5 hn hp hd)

end

/-! ## The forms -/

theorem sizeMod_bits (z : BitVec 1) : (sizeMod z).getLsbD 0 = decide (z = 1) ∧ (sizeMod z).getLsbD 1 = false := by
  revert z; decide

theorem rangeMod_bits (n z : BitVec 1) : (rangeMod n z).getLsbD 0 = decide (z = 1) ∧ (rangeMod n z).getLsbD 1 = (n == 1) := by
  revert n z; decide

/-- The functions of the integer atomics (R180). -/
abbrev integerFn (fn : Nat) : Prop := fn ≠ 1 ∧ fn ≠ 2 ∧ fn ≠ 3

theorem State.amoFn_of_integer (s : State) {fn : Nat} (h : integerFn fn) : s.amoFn fn = fn :=
  if_neg fun both => h.1 both.1

theorem amoSize_of_integer {fn : Nat} (h : integerFn fn) (amod : BitVec 2) : amoSize fn amod = if amod.getLsbD 0 then 8 else 4 := by
  rw [amoSize, if_neg (not_or.mpr h.2), if_neg h.1]

theorem amoAlign_of_integer {fn : Nat} (h : integerFn fn) (amod : BitVec 2) : amoAlign fn amod = amoSize fn amod :=
  if_neg (not_or.mpr h.2)

section
variable {s : State} (hi : s.issues .A) (hamo : (s.strand .A).amo = none) {d a b : BitVec 6} {z : BitVec 1} {fn : Nat} (hfn : integerFn fn)
  {amod : BitVec 2} {unsigned : Bool} (hmod : amod.getLsbD 0 = decide (z = 1) ∧ amod.getLsbD 1 = unsigned) {i : Instr}
  (hexec : exec i s = .next (atomic s fn amod d a b))
include hi hamo hfn hmod hexec

theorem integerAtomic_faults : addressFaults s .A i (s.reg .A a) 2 (if z = 1 then 8 else 4) (if z = 1 then 8 else 4) ∧
    pageFaults s .A i (s.reg .A a) 2 (if z = 1 then 8 else 4) (if z = 1 then 8 else 4) := by
  have faults := atomic_faults hi hamo hexec
  simpa only [s.amoFn_of_integer hfn, amoAlign_of_integer hfn, amoSize_of_integer hfn, hmod.1, decide_eq_true_eq] using faults

theorem integerAtomic_scratch (hk : s.kept .A (s.strand .A).coord = false) {p : Nat} {o : BitVec 32} {size : Nat}
    (hs : size = if z = 1 then 8 else 4) (h : s.checkAddr .A (s.reg .A a) .atomic size size = .ok (.scratch p o)) (hb : scratchOff o + size ≤ 0x3E0000) :
    let bs := s.scratchRead p (scratchOff o) size
    exec i s = .next (((s.scratchPut p (scratchOff o)
      (if z = 1 then toBytes 8 (amoValue fn unsigned (BitVec.ofNat 64 (leNat bs)) (s.reg .A b) (s.reg .A d))
       else toBytes 4 (amoValue fn unsigned (BitVec.ofNat 32 (leNat bs)) ((s.reg .A b).setWidth 32) ((s.reg .A d).setWidth 32)))).putReg .A d
      (if z = 0 ∧ (fn = 4 ∨ fn = 5) ∧ unsigned = false then (BitVec.ofNat 32 (leNat bs)).signExtend 64 else BitVec.ofNat 64 (leNat bs))).after
        .A 2) := by
  have sizeEq : amoSize (s.amoFn fn) amod = size := by
    simp only [s.amoFn_of_integer hfn, amoSize_of_integer hfn, hmod.1, decide_eq_true_eq, hs]
  have alignEq : amoAlign (s.amoFn fn) amod = size := by rw [← sizeEq, s.amoFn_of_integer hfn, amoAlign_of_integer hfn]
  intro bs
  rw [← State.performed_noFlags, atomic_scratch hi hamo hexec hk (by rw [sizeEq, alignEq]; exact h) (by rw [sizeEq]; exact hb), sizeEq,
    s.amoFn_of_integer hfn]
  obtain ⟨h1, h2, h3⟩ := hfn
  obtain ⟨hz, hu⟩ := hmod
  simp only [atomicOut, if_neg h1, if_neg h2, if_neg h3, hz, hu]
  rcases BitVec.eq_zero_or_eq_one z with rfl | rfl <;> simp [bs]

end

section
variable {s : State} (hi : s.issues .A) (hamo : (s.strand .A).amo = none) (hk : s.kept .A (s.strand .A).coord = false) {d a b : BitVec 6}
  {i : Instr} {p : Nat} {o : BitVec 32}
include hi hamo hk

/-- An atomic performed as AMO.BADD adds to the bins, and gives their rounded value before (R96, R183). -/
theorem binnedAdd_scratch {fn : Nat} (hexec : exec i s = .next (atomic s fn 0 d a b)) (hfn : s.amoFn fn = 2)
    (h : s.checkAddr .A (s.reg .A a) .atomic 96 32 = .ok (.scratch p o)) (hb : scratchOff o + 96 ≤ 0x3E0000) :
    exec i s = .next (((s.scratchPut p (scratchOff o) (binBytes (binAdd (binsOf (s.scratchRead p (scratchOff o) 96))
      ((s.reg .A b).setWidth 32)))).putReg .A d ((binRound (binsOf (s.scratchRead p (scratchOff o) 96))).1.setWidth 64)).after .A 2) := by
  have made := atomic_scratch hi hamo hexec hk (p := p) (o := o)
  rw [hfn] at made
  rw [← State.performed_noFlags]
  exact made h hb

/-- AMO.BFIN normalises the bins and gives their rounded value with its flags (R97). -/
theorem binnedFinish_scratch (hexec : exec i s = .next (atomic s 3 0 d a b))
    (h : s.checkAddr .A (s.reg .A a) .atomic 96 32 = .ok (.scratch p o)) (hb : scratchOff o + 96 ≤ 0x3E0000) :
    let bins := binNormalise (binsOf (s.scratchRead p (scratchOff o) 96))
    exec i s = .next ((((s.scratchPut p (scratchOff o) (binBytes bins)).addFlags .A (binRound bins).2).putReg .A d
      ((binRound bins).1.setWidth 64)).after .A 2) := by
  have made := atomic_scratch hi hamo hexec hk (p := p) (o := o)
  rw [show s.amoFn 3 = 3 from rfl] at made
  intro bins
  rw [← State.performed_mk]
  exact made h hb

/-- AMO.FADD outside deterministic mode adds once rounded (R94, R181). -/
theorem floatAdd_scratch (hexec : exec i s = .next (atomic s 1 0 d a b)) (hdet : s.sys.det = false)
    (h : s.checkAddr .A (s.reg .A a) .atomic 4 4 = .ok (.scratch p o)) (hb : scratchOff o + 4 ≤ 0x3E0000) :
    let m : BitVec 32 := BitVec.ofNat 32 (leNat (s.scratchRead p (scratchOff o) 4))
    let sum := rne32 ((f32Val m).add (f32Val ((s.reg .A b).setWidth 32)))
    exec i s = .next ((((s.scratchPut p (scratchOff o) (toBytes 4 sum.1)).addFlags .A sum.2).putReg .A d (m.setWidth 64)).after .A 2) := by
  have single : s.amoFn 1 = 1 := if_neg fun both => by rw [hdet] at both; exact Bool.false_ne_true both.2
  have made := atomic_scratch hi hamo hexec hk (p := p) (o := o)
  rw [single] at made
  intro m sum
  rw [ofNat_leNat_setWidth (s.scratchRead_length ..), ← State.performed_mk]
  exact made h hb

end

/-- What holds of every item that performs an integer atomic holds of the eight forms. -/
theorem integerForms {s : State} {d a b : BitVec 6} (n : BitVec 1) {z : BitVec 1} {P : Instr → Nat → Bool → Prop}
    (item : ∀ {i : Instr} {fn : Nat} {amod : BitVec 2} {unsigned : Bool}, integerFn fn →
      amod.getLsbD 0 = decide (z = 1) ∧ amod.getLsbD 1 = unsigned → exec i s = .next (atomic s fn amod d a b) → P i fn unsigned) :
    P (.amoAdd d a b z) 0 false ∧ P (.amoMin d a b n z) 4 (n == 1) ∧ P (.amoMax d a b n z) 5 (n == 1) ∧ P (.amoAnd d a b z) 6 false ∧
      P (.amoOr d a b z) 7 false ∧ P (.amoXor d a b z) 8 false ∧ P (.amoSwap d a b z) 9 false ∧ P (.amoCas d a b z) 10 false :=
  ⟨item (by decide) (sizeMod_bits z) rfl, item (by decide) (rangeMod_bits n z) rfl, item (by decide) (rangeMod_bits n z) rfl,
    item (by decide) (sizeMod_bits z) rfl, item (by decide) (sizeMod_bits z) rfl, item (by decide) (sizeMod_bits z) rfl,
    item (by decide) (sizeMod_bits z) rfl, item (by decide) (sizeMod_bits z) rfl⟩

/-- Settles O17, by what every atomic has in common: its checks, and that on scratchpad it is performed at once. -/
theorem scratchAtomicResults : Obligations.ScratchAtomicResults := by
  unfold Obligations.ScratchAtomicResults
  refine ⟨?_, ?_, ?_⟩
  · intro s d a b n z p o hi hamo hk size hc hb bs gives
    exact integerForms n fun hfn hmod hexec => integerAtomic_scratch hi hamo hfn hmod hexec hk rfl hc hb
  · intro s d a b n z hi hamo faults size
    refine ⟨?_, atomic_faults (fn := 2) (amod := 0) hi hamo rfl, atomic_faults (fn := 3) (amod := 0) hi hamo rfl, ?_⟩
    · have forms := integerForms (d := d) (b := b) (P := fun i _ _ => faults i size size) n
        fun hfn hmod hexec => integerAtomic_faults hi hamo hfn hmod hexec
      simpa only [List.forall_mem_cons, List.not_mem_nil, false_imp_iff, implies_true, and_true] using forms
    · have added := atomic_faults (i := .amoFadd d a b) (fn := 1) (amod := 0) hi hamo rfl
      cases hdet : s.sys.det <;> (simp only [State.amoFn, hdet] at added; exact added)
  · intro s d a b p o hi hamo hk bins badd m sum
    exact ⟨fun hb hc => ⟨binnedAdd_scratch hi hamo hk rfl rfl hc hb, fun hdet => binnedAdd_scratch hi hamo hk rfl (if_pos ⟨rfl, hdet⟩) hc hb,
      binnedFinish_scratch (b := 0) hi hamo hk rfl hc hb⟩, fun hb hdet hc => floatAdd_scratch hi hamo hk rfl hdet hc hb⟩

end Sys2Proof.Machine
end

section
/-!
PROOFS. Rounding to FP32 (R79 to R81): the code that a rounding gives is nearest to the exact value among all codes, even on a tie.
-/
namespace Sys2Proof.Machine

/-! ## The nearest number of steps -/

/-- Of the multiples of a step `G`, the one of `n` steps lies nearest to `A`, and `n` is even where two lie equally near (R79). -/
def nearestSteps (A G n : Nat) : Prop :=
  2 * A ≤ 2 * (n * G) + G ∧ 2 * (n * G) ≤ 2 * A + G ∧ (2 * A = 2 * (n * G) + G ∨ 2 * (n * G) = 2 * A + G → n % 2 = 0)

theorem nearestSteps_exact {n G : Nat} (hG : 0 < G) : nearestSteps (n * G) G n :=
  ⟨by omega, by omega, fun h => by omega⟩

theorem nearestSteps_rneNat (m k : Nat) : nearestSteps m (2 ^ k) (rneNat m k) := by
  have parts : m / 2 ^ k * 2 ^ k + m % 2 ^ k = m := Nat.div_add_mod' m (2 ^ k)
  have rest : m % 2 ^ k < 2 ^ k := Nat.mod_lt _ (Nat.two_pow_pos k)
  unfold nearestSteps rneNat
  dsimp only
  split
  · rename_i up
    rw [Nat.add_mul, Nat.one_mul]
    refine ⟨by omega, by omega, fun tie => ?_⟩
    omega
  · rename_i down
    refine ⟨by omega, by omega, fun tie => ?_⟩
    omega

theorem nearestSteps.scale {A G n : Nat} (h : nearestSteps A G n) {u : Nat} (hu : 0 < u) : nearestSteps (A * u) (G * u) n := by
  obtain ⟨below, above, tie⟩ := h
  have assoc : n * (G * u) = n * G * u := (Nat.mul_assoc ..).symm
  have eqs (x y : Nat) : x * u = y * u ↔ x = y := Nat.mul_left_inj hu.ne'
  refine ⟨?_, ?_, fun t => tie ?_⟩
  · have := Nat.mul_le_mul_right u below
    rw [assoc]
    linarith
  · have := Nat.mul_le_mul_right u above
    rw [assoc]
    linarith
  · rw [← eqs (2 * A), ← eqs (2 * (n * G))]
    rw [assoc] at t
    rcases t with t | t
    · exact .inl (by linarith)
    · exact .inr (by linarith)

/-- A multiple of the step is no nearer than the nearest, and lies as near only where the nearest is even. -/
theorem nearestSteps.le_of_multiple {A G n : Nat} (h : nearestSteps A G n) (j : Int) :
    ((A : Int) - (n * G : Nat)).natAbs ≤ ((A : Int) - j * G).natAbs ∧
      (((A : Int) - (n * G : Nat)).natAbs = ((A : Int) - j * G).natAbs → j * G ≠ (n * G : Nat) → n % 2 = 0) := by
  obtain ⟨below, above, tie⟩ := h
  rcases lt_trichotomy j n with hj | rfl | hj
  · have gap : (j + 1) * G ≤ n * (G : Int) := Int.mul_le_mul_of_nonneg_right (by omega) (by omega)
    rw [Int.add_mul, Int.one_mul, ← Int.natCast_mul] at gap
    exact ⟨by omega, fun _ _ => tie (by omega)⟩
  · rw [← Int.natCast_mul]
    exact ⟨le_refl _, fun _ other => absurd rfl other⟩
  · have gap : ((n : Int) + 1) * G ≤ j * G := Int.mul_le_mul_of_nonneg_right (by omega) (by omega)
    rw [Int.add_mul, Int.one_mul, ← Int.natCast_mul] at gap
    exact ⟨by omega, fun _ _ => tie (by omega)⟩

/-- The same of a value that lies below a multiple of the step which the value rounded reaches. -/
theorem nearestSteps.lt_of_below {A G n t : Nat} (h : nearestSteps A G n) (ht : t * G ≤ A) {y : Int} (hy : y.natAbs < t * G) :
    ((A : Int) - (n * G : Nat)).natAbs < ((A : Int) - y).natAbs := by
  have closer := (h.le_of_multiple t).1
  rw [← Int.natCast_mul] at closer
  omega

/-! ## Rounding a magnitude to a step -/

theorem two_pow_toNat_add {a b c : Int} (ha : 0 ≤ a) (hb : 0 ≤ b) (h : a + b = c) : 2 ^ a.toNat * 2 ^ b.toNat = 2 ^ c.toNat := by
  rw [← Nat.pow_add]
  congr 1
  omega

/-- A magnitude rounded to an integer of steps `2^q`, counted in units `2^k`. -/
theorem rneMag_nearest {e q k : Int} (m : Nat) (he : k ≤ e) (hq : k ≤ q) :
    nearestSteps (m * 2 ^ (e - k).toNat) (2 ^ (q - k).toNat) (rneMag m (e - q)).1 ∧
      ((rneMag m (e - q)).2 = true ↔ (rneMag m (e - q)).1 * 2 ^ (q - k).toNat ≠ m * 2 ^ (e - k).toNat) := by
  unfold rneMag
  split
  · rename_i exact_
    have same : m * pow2 (e - q) * 2 ^ (q - k).toNat = m * 2 ^ (e - k).toNat := by
      rw [Nat.mul_assoc, pow2, two_pow_toNat_add exact_ (b := q - k) (c := e - k) (by omega) (by omega)]
    rw [← same]
    exact ⟨nearestSteps_exact (Nat.two_pow_pos _), by simp⟩
  · rename_i coarse
    have step : 2 ^ (-(e - q)).toNat * 2 ^ (e - k).toNat = 2 ^ (q - k).toNat := two_pow_toNat_add (by omega) (by omega) (by omega)
    dsimp only
    generalize (-(e - q)).toNat = j at step ⊢
    rw [← step, ← Nat.mul_assoc]
    refine ⟨(nearestSteps_rneNat m j).scale (Nat.two_pow_pos _), ?_⟩
    rw [decide_eq_true_eq, Ne, Ne, Nat.mul_left_inj (Nat.two_pow_pos _).ne', not_iff_not]
    refine ⟨fun h => ?_, fun h => ?_⟩
    · have none_up : ¬(2 ^ j < 2 * (m % 2 ^ j) ∨ 2 * (m % 2 ^ j) = 2 ^ j ∧ m / 2 ^ j % 2 = 1) := by
        have := Nat.two_pow_pos j
        omega
      rw [rneNat, if_neg none_up]
      exact Nat.div_mul_cancel (Nat.dvd_of_mod_eq_zero h)
    · rw [← h]
      exact Nat.mul_mod_left _ _

/-! ## Codes of FP32 (R81) -/

/-- The significand and the exponent of a finite code. -/
theorem f32Val_num {y : BitVec 32} {b : Bool} {p : Nat} {g : Int} (h : f32Val y = .num b p g) : p < 2 ^ 24 ∧ -149 ≤ g := by
  have low : y.toNat % 2 ^ 23 < 2 ^ 23 := Nat.mod_lt _ (by decide)
  unfold f32Val floatVal at h
  dsimp only at h
  split_ifs at h with h1 h2 h3
  · cases h; exact ⟨by omega, by omega⟩
  · cases h; exact ⟨by omega, by omega⟩

/-- The sign bit of FP32, as a number. -/
abbrev f32Sign (neg : Bool) : Nat := if neg then 2 ^ 31 else 0

/-- A finite code by its sign, its exponent field and its fraction. -/
theorem f32Val_ofParts (neg : Bool) {ex fr : Nat} (hex : ex < 255) (hfr : fr < 2 ^ 23) :
    f32Val (BitVec.ofNat 32 (f32Sign neg + (ex * 2 ^ 23 + fr))) =
      if ex = 0 then .num neg fr (-149) else .num neg (2 ^ 23 + fr) ((ex : Int) - 150) := by
  obtain ⟨b, hb, sg, rfl⟩ : ∃ b, b < 2 ∧ f32Sign neg = b * 2 ^ 31 ∧ neg = decide (b = 1) := by
    cases neg
    · exact ⟨0, by decide, rfl, rfl⟩
    · exact ⟨1, by decide, rfl, rfl⟩
  rw [sg]
  have whole : (BitVec.ofNat 32 (b * 2 ^ 31 + (ex * 2 ^ 23 + fr))).toNat = b * 2 ^ 31 + (ex * 2 ^ 23 + fr) := by
    rw [BitVec.toNat_ofNat]
    omega
  have sign : (b * 2 ^ 31 + (ex * 2 ^ 23 + fr)) / 2 ^ (23 + 8) % 2 = b := by omega
  have exponent : (b * 2 ^ 31 + (ex * 2 ^ 23 + fr)) / 2 ^ 23 % 256 = ex := by omega
  have fraction : (b * 2 ^ 31 + (ex * 2 ^ 23 + fr)) % 2 ^ 23 = fr := by omega
  have finite : ex ≠ 255 := by omega
  unfold f32Val floatVal
  dsimp only
  rw [whole, sign, exponent, fraction, if_neg finite]
  split
  · rfl
  · congr 1
    omega

/-- The code of `n` steps of `2^(E - 149)`, of which a normal one has at least `2^23`, is that number. -/
theorem f32Val_steps (neg : Bool) {E n : Nat} (hE : E = 0 ∨ 2 ^ 23 ≤ n) (hn : n ≤ 2 ^ 24) (hc : E * 2 ^ 23 + n < 255 * 2 ^ 23) {k : Int}
    (hk : k ≤ -149) : ∃ (p : Nat) (f : Int), f32Val (BitVec.ofNat 32 (f32Sign neg + (E * 2 ^ 23 + n))) = .num neg p f ∧
      p * 2 ^ (f - k).toNat = n * 2 ^ ((E : Int) - 149 - k).toNat := by
  rcases Nat.lt_or_ge n (2 ^ 23) with small | large
  · obtain rfl : E = 0 := by omega
    exact ⟨n, -149, by rw [f32Val_ofParts neg (by decide) small, if_pos rfl], by simp⟩
  · rcases Nat.lt_or_ge n (2 ^ 24) with below | top
    · refine ⟨n, (E : Int) - 149, ?_, rfl⟩
      have code : E * 2 ^ 23 + n = (E + 1) * 2 ^ 23 + (n - 2 ^ 23) := by omega
      have significand : 2 ^ 23 + (n - 2 ^ 23) = n := by omega
      have exponent : ((E + 1 : Nat) : Int) - 150 = E - 149 := by omega
      rw [code, f32Val_ofParts neg (by omega) (by omega), if_neg (by omega), significand, exponent]
    · have full : n = 2 ^ 24 := by omega
      have code : E * 2 ^ 23 + n = (E + 2) * 2 ^ 23 + 0 := by omega
      have double : ((E : Int) - 148 - k).toNat = ((E : Int) - 149 - k).toNat + 1 := by omega
      refine ⟨2 ^ 23, (E : Int) - 148, ?_, ?_⟩
      · rw [code, f32Val_ofParts neg (by omega) (by decide), if_neg (by omega)]
        congr 1
        omega
      · rw [double, Nat.pow_succ, full]
        omega

/-! ## Rounding a magnitude (R79, R80) -/

/-- The exponent of the last place to which a float of `f` fraction bits rounds a magnitude. -/
def roundExp (f m : Nat) (e : Int) : Int := max ((Nat.log2 m : Int) + e - (f : Int)) (-126 - (f : Int))

/-- The number of steps of that exponent to which a magnitude is rounded. -/
def roundSteps (f m : Nat) (e : Int) : Nat := (rneMag m (e - roundExp f m e)).1

/-- The code without its sign, where it is finite. -/
def roundCode (f m : Nat) (e : Int) : Nat := (roundExp f m e + 126 + (f : Int)).toNat * 2 ^ f + roundSteps f m e

theorem floatRound_eq (f m : Nat) (e : Int) : floatRound f m e =
    if 255 * 2 ^ f ≤ roundCode f m e then (255 * 2 ^ f, fOF ||| fNX)
    else (roundCode f m e, flagIf (rneMag m (e - roundExp f m e)).2 fNX |||
      flagIf ((rneMag m (e - roundExp f m e)).2 && decide ((Nat.log2 m : Int) + e < -126)) fUF) := rfl

theorem toF32_overflow (neg : Bool) {m : Nat} (hm : m ≠ 0) {e : Int} (h : 255 * 2 ^ 23 ≤ roundCode 23 m e) :
    toF32 (.num neg m e) = (BitVec.ofNat 32 (f32Sign neg + 255 * 2 ^ 23), fOF ||| fNX) := by
  rw [toF32, toFloat, if_neg hm, floatRound_eq, if_pos h]

theorem toF32_finite (neg : Bool) {m : Nat} (hm : m ≠ 0) {e : Int} (h : ¬255 * 2 ^ 23 ≤ roundCode 23 m e) :
    toF32 (.num neg m e) = (BitVec.ofNat 32 (f32Sign neg + roundCode 23 m e), flagIf (rneMag m (e - roundExp 23 m e)).2 fNX |||
      flagIf ((rneMag m (e - roundExp 23 m e)).2 && decide ((Nat.log2 m : Int) + e < -126)) fUF) := by
  rw [toF32, toFloat, if_neg hm, floatRound_eq, if_neg h]
theorem roundExp_eq (m : Nat) (e : Int) : roundExp 23 m e = max ((Nat.log2 m : Int) + e - 23) (-149) := by
  rw [roundExp]
  congr 1

theorem roundCode_eq (m : Nat) (e : Int) : roundCode 23 m e = (roundExp 23 m e + 149).toNat * 2 ^ 23 + roundSteps 23 m e := by
  have field : roundExp 23 m e + 126 + (23 : Nat) = roundExp 23 m e + 149 := by push_cast; ring
  rw [roundCode, field]

/-- The flags of a finite result: NX where it is inexact, no other of the first three. -/
theorem roundFlags (inexact tiny : Bool) : ((flagIf inexact fNX ||| flagIf (inexact && tiny) fUF).getLsbD 4 = true ↔ inexact = true) ∧
    (flagIf inexact fNX ||| flagIf (inexact && tiny) fUF) &&& 0x07 = 0 := by
  revert inexact tiny
  decide

section
variable {m : Nat} {e k : Int} (hm : m ≠ 0) (he : k ≤ e) (hk : k ≤ -149)

/-- A magnitude in units of `2^k`. -/
abbrev unitsOf (k : Int) (m : Nat) (e : Int) : Nat := m * 2 ^ (e - k).toNat

/-- The last place of its rounding in units of `2^k`. -/
abbrev placeOf (k : Int) (m : Nat) (e : Int) : Nat := 2 ^ (roundExp 23 m e - k).toNat

include hk in
theorem le_roundExp : k ≤ roundExp 23 m e := by
  rw [roundExp_eq]
  omega

include he hk

theorem roundSteps_nearest : nearestSteps (unitsOf k m e) (placeOf k m e) (roundSteps 23 m e) :=
  (rneMag_nearest m he (le_roundExp hk)).1

theorem unitsOf_lt : unitsOf k m e < 2 ^ 24 * placeOf k m e := by
  have top : m < 2 ^ (m.log2 + 1) := Nat.lt_log2_self
  have exps : m.log2 + 1 + (e - k).toNat ≤ 24 + (roundExp 23 m e - k).toNat := by
    have := le_roundExp (m := m) (e := e) hk
    rw [roundExp_eq] at this ⊢
    omega
  calc m * 2 ^ (e - k).toNat < 2 ^ (m.log2 + 1) * 2 ^ (e - k).toNat := Nat.mul_lt_mul_of_pos_right top (Nat.two_pow_pos _)
    _ = 2 ^ (m.log2 + 1 + (e - k).toNat) := (Nat.pow_add ..).symm
    _ ≤ 2 ^ (24 + (roundExp 23 m e - k).toNat) := Nat.pow_le_pow_right (by decide) exps
    _ = 2 ^ 24 * 2 ^ (roundExp 23 m e - k).toNat := Nat.pow_add ..

include hm

/-- A magnitude that FP32 rounds as a normal one has at least as many places as its implicit bit. -/
theorem le_unitsOf (hq : roundExp 23 m e ≠ -149) : 2 ^ 23 * placeOf k m e ≤ unitsOf k m e := by
  have top : 2 ^ m.log2 ≤ m := Nat.log2_self_le hm
  have exps : 23 + (roundExp 23 m e - k).toNat = m.log2 + (e - k).toNat := by
    have := le_roundExp (m := m) (e := e) hk
    rw [roundExp_eq] at this hq ⊢
    omega
  calc 2 ^ 23 * 2 ^ (roundExp 23 m e - k).toNat = 2 ^ (m.log2 + (e - k).toNat) := by rw [← Nat.pow_add, exps]
    _ = 2 ^ m.log2 * 2 ^ (e - k).toNat := Nat.pow_add ..
    _ ≤ m * 2 ^ (e - k).toNat := Nat.mul_le_mul_right _ top

theorem roundSteps_bounds : roundSteps 23 m e ≤ 2 ^ 24 ∧ (roundExp 23 m e ≠ -149 → 2 ^ 23 ≤ roundSteps 23 m e) := by
  obtain ⟨below, above, -⟩ := roundSteps_nearest he hk (m := m)
  have pos : 0 < placeOf k m e := Nat.two_pow_pos _
  have lt := unitsOf_lt he hk (m := m)
  refine ⟨?_, fun hq => ?_⟩
  · by_contra large
    have := Nat.mul_le_mul_right (placeOf k m e) (show 2 ^ 24 + 1 ≤ roundSteps 23 m e by omega)
    omega
  · by_contra small
    have := Nat.mul_le_mul_right (placeOf k m e) (show roundSteps 23 m e ≤ 2 ^ 23 - 1 by omega)
    have := le_unitsOf hm he hk hq
    omega

/-- A magnitude rounds past the finite codes exactly from 2^128 − 2^103 on. -/
theorem overflows_iff : 255 * 2 ^ 23 ≤ roundCode 23 m e ↔ (2 ^ 25 - 1) * 2 ^ (103 - k).toNat ≤ unitsOf k m e := by
  obtain ⟨below, above, tie⟩ := roundSteps_nearest he hk (m := m)
  obtain ⟨most, least⟩ := roundSteps_bounds hm he hk
  have lt := unitsOf_lt he hk (m := m)
  have ge := le_unitsOf hm he hk
  have pos : 0 < 2 ^ (103 - k).toNat := Nat.two_pow_pos _
  rw [roundCode_eq]
  rcases lt_trichotomy (roundExp 23 m e) 104 with q | q | q
  · have place : placeOf k m e ≤ 2 ^ (103 - k).toNat := Nat.pow_le_pow_right (by decide) (by omega)
    omega
  · have place : placeOf k m e = 2 * 2 ^ (103 - k).toNat := by
      rw [placeOf, show (roundExp 23 m e - k).toNat = (103 - k).toNat + 1 by omega, Nat.pow_succ, Nat.mul_comm]
    specialize ge (by omega)
    rcases Nat.lt_or_ge (roundSteps 23 m e) (2 ^ 24 - 1) with n | n
    · have := Nat.mul_le_mul_right (placeOf k m e) (show roundSteps 23 m e ≤ 2 ^ 24 - 2 by omega)
      omega
    · rcases Nat.lt_or_ge (roundSteps 23 m e) (2 ^ 24) with n' | n'
      · have n : roundSteps 23 m e = 2 ^ 24 - 1 := by omega
        rw [n] at below above tie
        omega
      · have n : roundSteps 23 m e = 2 ^ 24 := by omega
        rw [n] at below above
        omega
  · have place : 4 * 2 ^ (103 - k).toNat ≤ placeOf k m e := by
      calc 4 * 2 ^ (103 - k).toNat = 2 ^ (2 + (103 - k).toNat) := (Nat.pow_add 2 2 _).symm
        _ ≤ _ := Nat.pow_le_pow_right (by decide) (by omega)
    have := least (by omega)
    have := ge (by omega)
    omega

end

/-! ## The rounded value among all codes -/

/-- A sign, as a factor. -/
abbrev signFactor (neg : Bool) : Int := if neg then -1 else 1

/-- A value of a sign and a magnitude, in units of `2^k`. -/
theorem scaledBy_eq (k : Int) (neg : Bool) (m : Nat) (e : Int) : scaledBy k neg m e = signFactor neg * (unitsOf k m e : Int) := by
  rw [scaledBy, unitsOf]
  cases neg <;> push_cast <;> simp

theorem natAbs_signFactor_mul (neg : Bool) (a : Int) : (signFactor neg * a).natAbs = a.natAbs := by
  cases neg <;> simp

theorem scaledBy_natAbs (k : Int) (neg : Bool) (m : Nat) (e : Int) : (scaledBy k neg m e).natAbs = unitsOf k m e := by
  rw [scaledBy_eq, natAbs_signFactor_mul, Int.natAbs_natCast]

/-- The distance of two values is that of the first's magnitude from the second seen from its sign. -/
theorem natAbs_signFactor_mul_sub (neg : Bool) (a b : Int) : (signFactor neg * a - b).natAbs = (a - signFactor neg * b).natAbs := by
  cases neg <;> simp
  omega

/-- A value lies on the places of a rounding, or below all of its normal results. -/
def onPlaces (k : Int) (m : Nat) (e y : Int) : Prop :=
  (∃ j : Int, y = j * (placeOf k m e : Int)) ∨ (y.natAbs < 2 ^ 23 * placeOf k m e ∧ 2 ^ 23 * placeOf k m e ≤ unitsOf k m e)

theorem onPlaces.signed {k : Int} {m : Nat} {e y : Int} (h : onPlaces k m e y) (neg : Bool) : onPlaces k m e (signFactor neg * y) := by
  rcases h with ⟨j, rfl⟩ | ⟨below, normal⟩
  · exact .inl ⟨signFactor neg * j, (Int.mul_assoc ..).symm⟩
  · exact .inr ⟨by rwa [natAbs_signFactor_mul], normal⟩

section
variable {m : Nat} {e k : Int} (hm : m ≠ 0) (he : k ≤ e) (hk : k ≤ -149)
include hm he hk

/-- Every finite code lies on the places of a rounding, or below all of its normal results. -/
theorem code_onPlaces {y : BitVec 32} {b : Bool} {p : Nat} {g : Int} (h : f32Val y = .num b p g) : onPlaces k m e (scaledBy k b p g) := by
  obtain ⟨hp, hg⟩ := f32Val_num h
  have hq := le_roundExp (m := m) (e := e) hk
  rw [scaledBy_eq]
  refine onPlaces.signed ?_ b
  rcases le_or_gt (roundExp 23 m e) g with fine | coarse
  · refine .inl ⟨p * 2 ^ (g - roundExp 23 m e).toNat, ?_⟩
    have split : (2 : Nat) ^ (g - roundExp 23 m e).toNat * 2 ^ (roundExp 23 m e - k).toNat = 2 ^ (g - k).toNat :=
      two_pow_toNat_add (by omega) (by omega) (by omega)
    rw [unitsOf, ← split]
    push_cast
    ring
  · refine .inr ⟨?_, le_unitsOf hm he hk (by omega)⟩
    rw [Int.natAbs_natCast]
    calc p * 2 ^ (g - k).toNat < 2 ^ 24 * 2 ^ (g - k).toNat := Nat.mul_lt_mul_of_pos_right hp (Nat.two_pow_pos _)
      _ = 2 ^ 23 * 2 ^ ((g - k).toNat + 1) := by ring
      _ ≤ 2 ^ 23 * 2 ^ (roundExp 23 m e - k).toNat := Nat.mul_le_mul_left _ (Nat.pow_le_pow_right (by decide) (by omega))

omit hm in
/-- No such value is nearer than the rounded one, and one is as near only where the rounded one is even. -/
theorem roundSteps_le {y : Int} (hy : onPlaces k m e y) :
    ((unitsOf k m e : Int) - (roundSteps 23 m e * placeOf k m e : Nat)).natAbs ≤ ((unitsOf k m e : Int) - y).natAbs ∧
      (((unitsOf k m e : Int) - (roundSteps 23 m e * placeOf k m e : Nat)).natAbs = ((unitsOf k m e : Int) - y).natAbs →
        y ≠ (roundSteps 23 m e * placeOf k m e : Nat) → roundSteps 23 m e % 2 = 0) := by
  have near := roundSteps_nearest he hk (m := m)
  rcases hy with ⟨j, rfl⟩ | ⟨below, normal⟩
  · exact near.le_of_multiple j
  · have far := near.lt_of_below normal below
    exact ⟨far.le, fun same => absurd same far.ne⟩

variable (neg : Bool)

omit hm he hk in
/-- The bound 2^128 − 2^103 in units, as an integer and as a natural number. -/
theorem overflowBound_cast : ((2 ^ 25 - 1) * 2 ^ (103 - k).toNat : Int) = ((2 ^ 25 - 1) * 2 ^ (103 - k).toNat : Nat) := by
  push_cast
  norm_num

theorem toF32_large (h : ((2 ^ 25 - 1) * 2 ^ (103 - k).toNat : Int) ≤ (scaledBy k neg m e).natAbs) :
    toF32 (.num neg m e) = (if neg then 0xFF800000 else 0x7F800000, 0x14) := by
  rw [scaledBy_natAbs, overflowBound_cast, Int.ofNat_le] at h
  rw [toF32_overflow neg hm ((overflows_iff hm he hk).mpr h)]
  cases neg <;> decide

/-- The finite result of a rounding: the code of its steps, inexact where they miss the value. -/
theorem toF32_small (h : ((scaledBy k neg m e).natAbs : Int) < (2 ^ 25 - 1) * 2 ^ (103 - k).toNat) : ∃ n f,
    f32Val (toF32 (.num neg m e)).1 = .num neg n f ∧ unitsOf k n f = roundSteps 23 m e * placeOf k m e ∧
      ((toF32 (.num neg m e)).2.getLsbD 4 = true ↔ unitsOf k n f ≠ unitsOf k m e) ∧ (toF32 (.num neg m e)).2 &&& 0x07 = 0 ∧
      (roundSteps 23 m e % 2 = 0 → (toF32 (.num neg m e)).1.getLsbD 0 = false) := by
  rw [scaledBy_natAbs, overflowBound_cast, Int.ofNat_lt] at h
  have finite : ¬255 * 2 ^ 23 ≤ roundCode 23 m e := (overflows_iff hm he hk).not.mpr h.not_ge
  obtain ⟨most, least⟩ := roundSteps_bounds hm he hk
  have hq := le_roundExp (m := m) (e := e) hk
  have hq' : -149 ≤ roundExp 23 m e := by rw [roundExp_eq]; omega
  rw [toF32_finite neg hm finite, roundCode_eq]
  rw [roundCode_eq] at finite
  obtain ⟨n, f, value, units⟩ := f32Val_steps neg (E := (roundExp 23 m e + 149).toNat) (n := roundSteps 23 m e)
    (by rcases eq_or_ne (roundExp 23 m e) (-149) with q | q
        · exact .inl (by omega)
        · exact .inr (least q)) most (by omega) hk
  have place : ((roundExp 23 m e + 149).toNat : Int) - 149 - k = roundExp 23 m e - k := by omega
  rw [place] at units
  obtain ⟨nx, others⟩ := roundFlags (rneMag m (e - roundExp 23 m e)).2 (decide ((Nat.log2 m : Int) + e < -126))
  refine ⟨n, f, value, units, ?_, others, fun even => ?_⟩
  · rw [nx, unitsOf, units]
    exact (rneMag_nearest m he hq).2
  · rw [BitVec.getLsbD_ofNat, Nat.testBit_zero]
    cases neg <;> simp [f32Sign] <;> omega

omit hm he hk in
theorem signFactor_mul_signFactor_mul (a : Int) : signFactor neg * (signFactor neg * a) = a := by
  cases neg <;> simp

/-- The value that FP32 rounds to, of the sign of the exact one, is nearest to it among the codes, even on a tie. -/
theorem rounded_nearest {n : Nat} {f : Int} (units : unitsOf k n f = roundSteps 23 m e * placeOf k m e) {y : BitVec 32} {b : Bool} {p : Nat}
    {g : Int} (hy : f32Val y = .num b p g) :
    (scaledBy k neg m e - scaledBy k neg n f).natAbs ≤ (scaledBy k neg m e - scaledBy k b p g).natAbs ∧
      ((scaledBy k neg m e - scaledBy k neg n f).natAbs = (scaledBy k neg m e - scaledBy k b p g).natAbs →
        scaledBy k b p g ≠ scaledBy k neg n f → roundSteps 23 m e % 2 = 0) := by
  have near := roundSteps_le he hk ((code_onPlaces hm he hk hy).signed neg)
  rw [← units] at near
  rw [scaledBy_eq k neg m, natAbs_signFactor_mul_sub, natAbs_signFactor_mul_sub, scaledBy_eq k neg n, signFactor_mul_signFactor_mul]
  refine ⟨near.1, fun tie other => near.2 tie fun same => other ?_⟩
  rw [← signFactor_mul_signFactor_mul neg (scaledBy k b p g), same]

omit hm he hk in
theorem scaledBy_inj {n : Nat} {f : Int} : scaledBy k neg n f = scaledBy k neg m e ↔ unitsOf k n f = unitsOf k m e := by
  refine ⟨fun same => ?_, fun same => by rw [scaledBy_eq, scaledBy_eq, same]⟩
  rw [← scaledBy_natAbs k neg n, same, scaledBy_natAbs]

end

end Sys2Proof.Machine
end

section
/-!
PROOFS. Block sums of the matrix engine (R93, R271): the exact sum over the kept rows, and a block that no load has written.
-/
namespace Sys2Proof.Machine

/-- 1.0 in BF16. -/
theorem bf16Val_one : bf16Val 0x3F80 = .num false 128 (-7) := by decide

/-- The half that a half-step code adds to its integer, doubled (R86). -/
theorem half_iff (f : Fmt) : f.half = true ↔ f = .h4 ∨ f = .h8 := by
  cases f <;> simp [Fmt.half]

/-- The sum of the products of values, from the sums that an engine keeps (R93). -/
theorem sum_halfProducts (ha hb : Int) : ∀ a b : List Int, a.length = b.length →
    (List.zipWith (fun x y => (2 * x + ha) * (2 * y + hb)) a b).sum =
      4 * (List.zipWith (· * ·) a b).sum + 2 * hb * a.sum + 2 * ha * b.sum + ha * hb * a.length
  | [], [], _ => by simp
  | x :: a, y :: b, h => by
    have rest := sum_halfProducts ha hb a b (Nat.succ.inj h)
    simp only [List.zipWith_cons_cons, List.sum_cons, List.length_cons, rest]
    push_cast
    ring

/-- A block that no load has written contributes +0 (R271). -/
theorem blockValue_unwritten (fa fb : Fmt) (n : Nat) (sumA p sa : Int) {c : ColumnRecord} (hs : (bf16Val c.scale).notFinite = false)
    (hc : c.special = false) : blockValue fa fb false n sumA p sa 0x3F80 false c = .num false 0 0 := by
  have one : (bf16Val 0x3F80).notFinite = false := by rw [bf16Val_one]; rfl
  simp only [blockValue, hc, hs, one, Bool.or_self, Bool.false_eq_true, if_false, Bool.not_false, if_true]

/-- The sum of a block of `n` rows in quarters: of products, and of either side's integers where the other's codes carry a half (R93). -/
def blockQuarters (fa fb : Fmt) (n : Nat) (sumA p sumB : Int) : Int :=
  4 * p + (if fb.half then 2 * sumA else 0) + (if fa.half then 2 * sumB else 0) + (if fa.half && fb.half then (n : Int) else 0)

/-- With unit scales a written block has the value of its sum; a zero is +0. -/
theorem blockValue_unit (fa fb : Fmt) (n : Nat) (sumA p sa sb sumB : Int) {t : Int} (ht : blockQuarters fa fb n sumA p sumB = t) :
    blockValue fa fb true n sumA p sa 0x3F80 false ⟨sb, 0x3F80, sumB, false⟩ =
      if t = 0 then .num false 0 0 else .num (decide (t < 0)) (t.natAbs * 128 * 128) (sa + sb - 2 + -7 + -7) := by
  have one : (bf16Val 0x3F80).notFinite = false := by rw [bf16Val_one]; rfl
  simp only [blockValue, one, Bool.or_self, Bool.false_eq_true, if_false, Bool.not_true]
  rw [← blockQuarters, ht, bf16Val_one]
  simp only [Val.ofInt, Val.mul, Bool.bne_false]
  show (if Val.isZero (.num _ (t.natAbs * 128 * 128) _) then _ else _) = _
  by_cases zero : t = 0
  · rw [if_pos zero, zero]
    rfl
  · have magnitude : t.natAbs * 128 * 128 ≠ 0 := by omega
    rw [if_neg zero]
    generalize t.natAbs * 128 * 128 = m at magnitude ⊢
    cases m with
    | zero => exact absurd rfl magnitude
    | succ m => rfl

/-- The value of a written block in units of `2^k`, or of its own exponent where that is less. -/
theorem blockValue_scaled (fa fb : Fmt) (n : Nat) (sumA p sa sb sumB : Int) {k : Int} (hk : k ≤ sa + sb - 16) : ∃ b m e,
    blockValue fa fb true n sumA p sa 0x3F80 false ⟨sb, 0x3F80, sumB, false⟩ = .num b m e ∧
      scaledBy (min k e) b m e = blockQuarters fa fb n sumA p sumB * 2 ^ (sa + sb - 2 - min k e).toNat := by
  rw [blockValue_unit fa fb n sumA p sa sb sumB rfl]
  generalize blockQuarters fa fb n sumA p sumB = t
  by_cases zero : t = 0
  · exact ⟨false, 0, 0, if_pos zero, by simp [scaledBy, zero]⟩
  · refine ⟨decide (t < 0), t.natAbs * 128 * 128, sa + sb - 2 + -7 + -7, if_neg zero, ?_⟩
    have least : min k (sa + sb - 2 + -7 + -7) = k := by omega
    have exps : (sa + sb - 2 - k).toNat = (sa + sb - 2 + -7 + -7 - k).toNat + 14 := by omega
    have signed : (if decide (t < 0) = true then -((t.natAbs * 128 * 128 : Nat) : Int) else (t.natAbs * 128 * 128 : Nat)) = t * 2 ^ 14 := by
      simp only [decide_eq_true_eq]
      split <;> omega
    rw [scaledBy, least, signed, exps, pow_add]
    ring

/-- Settles O25: rounding by the nearest number of places, block sums by the sum of products of half steps. -/
theorem exactArithmetic : Obligations.ExactArithmetic := by
  unfold Obligations.ExactArithmetic
  refine ⟨fun neg m e k hm he hk => ⟨fun large => ?_, fun small => ?_⟩, fun fa fb a b sa sb k hab hk => ?_⟩
  · rw [toF32_large hm he hk neg large]
    exact ⟨rfl, rfl⟩
  · obtain ⟨n, f, value, units, nx, others, even⟩ := toF32_small hm he hk neg small
    exact ⟨n, f, value, nx.trans (scaledBy_inj neg).not.symm, others, fun y b p g hy =>
      have near := rounded_nearest hm he hk neg units hy
      ⟨near.1, fun tie other => even (near.2 tie other)⟩⟩
  · intro half
    have halves (f : Fmt) : half f = if f.half then 1 else 0 := if_congr (half_iff f).symm rfl rfl
    obtain ⟨n, m, e, value, scaled⟩ := blockValue_scaled fa fb a.length (a.foldl (· + ·) 0) ((List.zipWith (· * ·) a b).foldl (· + ·) 0) sa sb
      (b.foldl (· + ·) 0) hk
    refine ⟨fun fa fb n sumA p c hs hc => blockValue_unwritten fa fb n sumA p sa hs hc, n, m, e, value, ?_⟩
    rw [scaled]
    simp only [← List.sum_eq_foldl, sum_halfProducts _ _ a b hab, halves, blockQuarters]
    cases fa.half <;> cases fb.half <;> simp

end Sys2Proof.Machine
end

section
/-!
PROOFS. Vector items (R199, R202, R206, R208, R214): what a tile source gives, what the flags of the active lanes come to, and what an item
that writes lane results or bits of a mask leaves.
-/
namespace Sys2Proof.Machine

/-! ## Lanes -/

theorem lane_map_laneIds (g : Nat → BitVec 32) {l : Nat} (h : l < 1024) : lane (laneIds.map g) l = g l := by
  simp [lane, laneIds, h]

/-- A tile of 1,024 lanes, lane by lane. -/
theorem tile_eq_map_lane {t : Tile} (h : t.length = 1024) : t = laneIds.map (lane t) := by
  refine List.ext_getElem (by rw [h, List.length_map, laneIds, List.length_range]) fun l hl _ => ?_
  simp [lane, laneIds, hl]

theorem map_eq_laneIds {α : Type} {t : Tile} (h : t.length = 1024) (f : BitVec 32 → α) : t.map f = laneIds.map fun l => f (lane t l) := by
  conv_lhs => rw [tile_eq_map_lane h, List.map_map]
  rfl

theorem zipWith_eq_laneIds {α : Type} {t u : Tile} (ht : t.length = 1024) (hu : u.length = 1024) (f : BitVec 32 → BitVec 32 → α) :
    List.zipWith f t u = laneIds.map fun l => f (lane t l) (lane u l) := by
  conv_lhs => rw [tile_eq_map_lane ht, tile_eq_map_lane hu, List.zipWith_map, List.zipWith_self]

theorem zipWith_zip_eq_laneIds {α : Type} {t u v : Tile} (ht : t.length = 1024) (hu : u.length = 1024) (hv : v.length = 1024)
    (f : BitVec 32 → BitVec 32 → BitVec 32 → α) :
    List.zipWith (fun x p => f x p.1 p.2) t (List.zip u v) = laneIds.map fun l => f (lane t l) (lane u l) (lane v l) := by
  conv_lhs => rw [tile_eq_map_lane ht, tile_eq_map_lane hu, tile_eq_map_lane hv, List.zip_map', List.zipWith_map, List.zipWith_self]

theorem lanesOf_length (n : Nat) (bs : List (BitVec 8)) : (lanesOf n bs).length = n := by
  induction n generalizing bs with
  | zero => rfl
  | succ n ih => rw [lanesOf, List.length_cons, ih]

/-! ## Tile sources (R199, R214) -/

/-- A tile source that is found goes on with its lanes, in the state after the read. -/
theorem State.tileSource_of_found {s u : State} {f : BitVec 7} {elems : Nat} {ta : Tile} (cur : s.cur = .V) (h : tileFound s f elems ta u)
    (k : Tile → State → Res) : s.tileSource f elems k = k ta u := by
  rcases h with ⟨reg, out, rfl, rfl⟩ | ⟨slot, layout, r, ring, full, fits, rfl, rfl⟩
  · simp only [State.tileSource, reg, State.tileIn, out, Bool.not_false, Bool.false_eq_true, if_true, if_false]
  · simp only [State.tileSource, slot, layout, ring, cur, Bool.not_true, Bool.false_eq_true, if_false, ne_eq, not_true_eq_false]
    rw [State.awaitSlots_one full]
    exact State.slotAccess_fits (byte := 0) fits _

/-- What a tile source finds has 1,024 lanes, and its read lets the strand go on as before. -/
theorem tileFound_results {s u : State} {f : BitVec 7} {elems : Nat} {ta : Tile} (cur : s.cur = .V) (h : tileFound s f elems ta u) :
    ta.length = 1024 ∧ State.endsAs .V s u ∧ u.cur = .V := by
  rcases h with ⟨-, -, rfl, rfl⟩ | ⟨-, -, r, -, -, -, rfl, rfl⟩
  · exact ⟨State.tile_length .., State.endsAs.refl, cur⟩
  · obtain ⟨kept, same⟩ := s.consumes_acquire_frame .V .V r (s.ringScope r)
    exact ⟨lanesOf_length .., kept, same.trans cur⟩

/-! ## The flags of the active lanes (R208) -/

theorem zip_laneIds {α : Type} (g : Nat → α) : List.zip laneIds (laneIds.map g) = laneIds.map fun l => (l, g l) := by
  conv_lhs => rw [← List.map_id laneIds, List.map_map, List.zip_map']
  rfl

theorem foldl_flags_getLsbD (act : BitVec 1024) (fl : Nat → Flags5) (b : Nat) (ls : List Nat) (acc : Flags5) :
    (ls.foldl (fun g l => if act.getLsbD l then g ||| fl l else g) acc).getLsbD b = true ↔
      acc.getLsbD b = true ∨ ∃ l ∈ ls, act.getLsbD l = true ∧ (fl l).getLsbD b = true := by
  induction ls generalizing acc with
  | nil => simp
  | cons l ls ih =>
    rw [List.foldl_cons, ih]
    cases hl : act.getLsbD l <;> simp [hl, or_assoc]

/-- The flags of the active lanes together are their union. -/
theorem laneFlags_eq {act : BitVec 1024} {new : Nat → Flagged} {f : Flags5} (h : flagsOf act (fun l => (new l).2) f) :
    laneFlags act (laneIds.map new) = f := by
  refine BitVec.eq_of_getLsbD_eq fun b hb => ?_
  rw [laneFlags, zip_laneIds, List.foldl_map, Bool.eq_iff_iff, foldl_flags_getLsbD, h b hb]
  simp [laneIds]

theorem place_lane {l : Nat} (h : l < 1024) : place 64 (BitVec.ofNat 10 l) 16 = BitVec.ofNat 64 (l * 2 ^ 16) := by
  apply BitVec.eq_of_toNat_eq
  simp only [place, BitVec.toNat_shiftLeft, BitVec.toNat_setWidth, BitVec.toNat_ofNat, Nat.shiftLeft_eq]
  omega

/-- DETAIL of FP_TRAP names the lowest lane that would have set an enabled flag. -/
theorem trapDetail_first {act : BitVec 1024} {en : Flags5} {new : Nat → Flagged} {l : Nat} (hl : l < 1024) (hact : act.getLsbD l = true)
    (hset : (new l).2 &&& en ≠ 0) (first : ∀ m, m < l → act.getLsbD m = true → (new m).2 &&& en = 0) :
    trapDetail act en (laneIds.map new) = (laneFlags act (laneIds.map new)).setWidth 64 ||| BitVec.ofNat 64 (l * 2 ^ 16) := by
  have found : laneIds.find? (fun l => act.getLsbD l && ((new l).2 &&& en) != 0) = some l := by
    rw [laneIds, List.find?_range_eq_some]
    refine ⟨by simpa [hact] using hset, List.mem_range.mpr hl, fun m hm => ?_⟩
    cases hm' : act.getLsbD m
    · simp
    · simp [first m hm hm']
  rw [trapDetail, zip_laneIds, List.find?_map]
  simp only [Function.comp_def, found, Option.map_some, Option.getD_some, place_lane hl]

/-! ## Setting flags, or FP_TRAP (R114, R208) -/

section
variable {s u : State} {i : Instr} {cls ok : Bool} {body : Res} {new : Nat → Flagged} {f : Flags5}
  (hi : s.issues .V) (hcls : cls = true) (hok : ok = true) (hexec : exec i s = .next (vecItem s cls ok body)) (cur : u.cur = .V)
  (hf : flagsOf u.active (fun l => (new l).2) f)

include cur hf

theorem State.withLaneFlags_sets (he : f &&& u.enables .V = 0) (k : State → Res) :
    u.withLaneFlags (laneIds.map new) k = k (u.addFlags .V f) := by
  have quiet : u.flagsTrap .V f = false := by rw [State.flagsTrap, BitVec.and_comm, he]; rfl
  simp only [State.withLaneFlags, cur, laneFlags_eq hf, quiet, Bool.false_eq_true, if_false]

theorem State.withLaneFlags_traps {l : Nat} (hl : l < 1024) (hact : u.active.getLsbD l = true) (hset : (new l).2 &&& u.enables .V ≠ 0)
    (first : ∀ m, m < l → u.active.getLsbD m = true → (new m).2 &&& u.enables .V = 0) (k : State → Res) :
    u.withLaneFlags (laneIds.map new) k = .trap cFpTrap (f.setWidth 64 ||| BitVec.ofNat 64 (l * 2 ^ 16)) 0 := by
  have part : (new l).2 &&& u.enables .V &&& (u.enables .V &&& f) = (new l).2 &&& u.enables .V := by
    refine BitVec.eq_of_getLsbD_eq fun b hb => ?_
    have within : (new l).2.getLsbD b = true → f.getLsbD b = true := fun h => (hf b hb).mpr ⟨l, hl, hact, h⟩
    simp only [BitVec.getLsbD_and]
    cases h : (new l).2.getLsbD b
    · simp
    · simp [within h]
  have trap : u.flagsTrap .V f = true := by
    rw [State.flagsTrap, bne_iff_ne]
    intro quiet
    rw [quiet] at part
    exact hset (part.symm.trans BitVec.and_zero)
  simp only [State.withLaneFlags, cur, laneFlags_eq hf, trap, if_true, trapDetail_first hl hact hset first]
  rfl

include hi hcls hok hexec

/-- An item that sets lane flags raises FP_TRAP where a lane would set an enabled one. -/
theorem vecTraps_of_body {k : State → Res} (hbody : body = u.withLaneFlags (laneIds.map new) k) :
    vecTraps s u i (fun l => (new l).2) f := by
  intro l hl hact hset first
  rw [hexec, hbody, State.withLaneFlags_traps cur hf hl hact hset first, vecItem, runItem_trap hi rfl (.inl rfl) hcls hok]

end

/-! ## Items that write lanes of a tile or bits of a mask (R202, R206) -/

theorem State.addFlags_vec (s : State) (x : StrandId) (fl : Flags5) : (s.addFlags x fl).core.vec = s.core.vec := by
  simp [State.addFlags]

theorem State.addFlags_active (s : State) (x : StrandId) (fl : Flags5) : (s.addFlags x fl).active = s.active := by
  simp only [State.active, State.addFlags_vec]

theorem merge_map (act : BitVec 1024) (old : Tile) (new : Nat → Flagged) : merge act old ((laneIds.map new).map (·.1)) =
    laneIds.map fun l => if act.getLsbD l then (new l).1 else lane old l := by
  rw [merge, List.map_map]
  refine List.map_congr_left fun l hl => ?_
  rw [lane_map_laneIds _ (List.mem_range.mp hl)]
  rfl

/-- Bit `l` of the number whose bits, from the lowest on, a list gives. -/
theorem testBit_foldr_bits (bits : List Bool) (l : Nat) :
    (bits.foldr (fun (b : Bool) n => 2 * n + if b then 1 else 0) 0).testBit l = bits.getD l false := by
  induction bits generalizing l with
  | nil => simp
  | cons b bits ih =>
    have bit : (if b then 1 else 0 : Nat) = b.toNat := by cases b <;> rfl
    rw [List.foldr_cons, bit]
    cases l with
    | zero => cases b <;> simp
    | succ l =>
      rw [List.getD_cons_succ, ← ih, Nat.testBit_succ]
      congr 1
      cases b <;> simp
      omega

theorem maskOf_getLsbD (p : Nat → Bool) {l : Nat} (h : l < 1024) : (maskOf p).getLsbD l = p l := by
  rw [maskOf, BitVec.getLsbD_ofNat, decide_eq_true h, Bool.true_and, ← List.foldr_map (f := p) (g := fun (b : Bool) n => 2 * n + if b then 1 else 0),
    testBit_foldr_bits]
  simp [laneIds, h]

/-- A bit and its flags, as a lane result. -/
abbrev asFlagged (b : Bool × Flags5) : Flagged := (flagBit 32 b.1 0, b.2)

/-- A mask with the bits of its active lanes replaced. -/
def State.withBits (s : State) (m : BitVec 3) (bits : List (Bool × Flags5)) : BitVec 1024 :=
  (maskOf (fun l => (bits.getD l (false, 0)).1) &&& s.active) ||| (s.mask m &&& ~~~s.active)

theorem State.withBits_getLsbD (s : State) (m : BitVec 3) (new : Nat → Bool × Flags5) {l : Nat} (h : l < 1024) :
    (s.withBits m (laneIds.map new)).getLsbD l = if s.active.getLsbD l then (new l).1 else (s.mask m).getLsbD l := by
  have bit : ((laneIds.map new).getD l (false, 0)).1 = (new l).1 := by simp [laneIds, h]
  rw [State.withBits, BitVec.getLsbD_or, BitVec.getLsbD_and, BitVec.getLsbD_and, BitVec.getLsbD_not, maskOf_getLsbD _ h, bit]
  cases s.active.getLsbD l <;> simp [h]

theorem State.withBits_addFlags (s : State) (x : StrandId) (fl : Flags5) (m : BitVec 3) (bits : List (Bool × Flags5)) :
    (s.addFlags x fl).withBits m bits = s.withBits m bits := by
  simp only [State.withBits, State.addFlags_active, State.mask, State.addFlags_vec]

section
variable {s u : State} {d : BitVec 7} {i : Instr} {cls ok : Bool} {body : Res} (hi : s.issues .V) (hcls : cls = true)
  (hexec : exec i s = .next (vecItem s cls ok body)) (kept : State.endsAs .V s u) (cur : u.cur = .V)
include hi hcls hexec kept cur

/-- What an item leaves that writes lane results to a tile. -/
theorem vecWrites_of_body {new : Nat → Flagged} (hok : d.getLsbD 6 = false → ok = true)
    (hbody : u.lanesOut (tileNo d) = false → body = u.writeLanes (tileNo d) (laneIds.map new)) : vecWrites s u d i new := by
  intro f hf hd hout
  have flagged := hbody hout
  simp only [State.writeLanes, State.tileIn, hout, Bool.false_eq_true, if_false] at flagged
  refine ⟨fun he w hw => ?_, vecTraps_of_body hi hcls (hok hd) hexec cur hf flagged⟩
  rw [hexec, flagged, State.withLaneFlags_sets cur hf he, State.writeTile, hw, merge_map, State.addFlags_active]
  exact congrArg _ ((((kept.trans (State.addFlags_endsAs ..)).trans (State.snapTile_endsAs .V hw)).trans (State.putTile_endsAs ..)).retires hi
    rfl hcls (hok hd))

/-- What an item leaves that writes bits of lanes to a mask. -/
theorem maskWrites_of_body {new : Nat → Bool × Flags5} (hok : d.toNat < 8 → ok = true)
    (hbody : body = u.writeBits (maskNo d) (laneIds.map new)) : maskWrites s u d i new := by
  intro f hf hd
  have hf' : flagsOf u.active (fun l => (asFlagged (new l)).2) f := hf
  rw [State.writeBits, List.map_map] at hbody
  refine ⟨fun he => ⟨u.withBits (maskNo d) (laneIds.map new), fun l hl => u.withBits_getLsbD _ new hl, ?_⟩,
    vecTraps_of_body hi hcls (hok hd) hexec cur hf' hbody⟩
  rw [hexec, hbody, State.withLaneFlags_sets (new := asFlagged ∘ new) cur hf' he, ← u.withBits_addFlags .V f]
  exact congrArg _ (((kept.trans (State.addFlags_endsAs ..)).trans (State.endsAs.onVec .V _)).retires hi rfl hcls (hok hd))

end

/-! ## The shared forms of vector items (R214) -/

theorem roleTileOk_of_tile {d : BitVec 7} (h : d.getLsbD 6 = false) : roleTileOk d = true := by
  rw [roleTileOk, h]
  rfl

section
variable {s m : State} {d a b : BitVec 7} {ta : Tile} {i : Instr} (hi : s.issues .V) (ha : tileFound s a 1 ta m)
include hi ha

theorem lanes1_writes {f : BitVec 32 → Flagged} (hexec : exec i s = .next (lanes1 s d a f)) : vecWrites s m d i fun l => f (lane ta l) := by
  obtain ⟨len, kept, cur⟩ := tileFound_results hi.1 ha
  refine vecWrites_of_body hi rfl hexec kept cur roleTileOk_of_tile fun _ => ?_
  rw [State.tileSource_of_found hi.1 ha, map_eq_laneIds len]

theorem lanesScalar_writes {f : BitVec 32 → BitVec 32 → Flagged} (hb : b.toNat < 32) (hexec : exec i s = .next (lanesScalar s d a b f)) :
    vecWrites s m d i fun l => f (lane ta l) ((s.reg .V (scalarNo b)).setWidth 32) := by
  obtain ⟨len, kept, cur⟩ := tileFound_results hi.1 ha
  have bit5 : b.getLsbD 5 = false := Nat.testBit_lt_two_pow hb
  have bit6 : b.getLsbD 6 = false := Nat.testBit_lt_two_pow (Nat.lt_trans hb (by decide))
  have cls : roleScalarCls b = true := by rw [roleScalarCls, bit5]; rfl
  have range : roleScalarOk b = true := by rw [roleScalarOk, bit6]; rfl
  refine vecWrites_of_body hi cls hexec kept cur (fun hd => by rw [roleTileOk_of_tile hd, range]; rfl) fun _ => ?_
  rw [State.tileSource_of_found hi.1 ha, map_eq_laneIds len, hi.1]

variable {u : State} {tb : Tile} (hb : tileFound m b 1 tb u)
include hb

theorem lanes2_writes {f : BitVec 32 → BitVec 32 → Flagged} (hexec : exec i s = .next (lanes2 s d a b f)) :
    vecWrites s u d i fun l => f (lane ta l) (lane tb l) := by
  obtain ⟨lenA, keptA, curA⟩ := tileFound_results hi.1 ha
  obtain ⟨lenB, keptB, curB⟩ := tileFound_results curA hb
  refine vecWrites_of_body hi rfl hexec (keptA.trans keptB) curB roleTileOk_of_tile fun _ => ?_
  rw [State.tileSource_of_found hi.1 ha, State.tileSource_of_found curA hb, zipWith_eq_laneIds lenA lenB]

theorem lanes3_writes {f : BitVec 32 → BitVec 32 → BitVec 32 → Flagged} (hexec : exec i s = .next (lanes3 s d a b 1 f)) :
    vecWrites s u d i fun l => f (lane (u.tile (tileNo d)) l) (lane ta l) (lane tb l) := by
  obtain ⟨lenA, keptA, curA⟩ := tileFound_results hi.1 ha
  obtain ⟨lenB, keptB, curB⟩ := tileFound_results curA hb
  refine vecWrites_of_body hi rfl hexec (keptA.trans keptB) curB roleTileOk_of_tile fun hout => ?_
  rw [State.tileSource_of_found hi.1 ha, State.tileSource_of_found curA hb, State.tileIn, hout, if_neg Bool.false_ne_true,
    zipWith_zip_eq_laneIds (u.tile_length (tileNo d)) lenA lenB]

theorem bits2_writes {f : BitVec 32 → BitVec 32 → Bool × Flags5} (hexec : exec i s = .next (bits2 s d a b f)) :
    maskWrites s u d i fun l => f (lane ta l) (lane tb l) := by
  obtain ⟨lenA, keptA, curA⟩ := tileFound_results hi.1 ha
  obtain ⟨lenB, keptB, curB⟩ := tileFound_results curA hb
  refine maskWrites_of_body hi rfl hexec (keptA.trans keptB) curB (fun hd => decide_eq_true hd) ?_
  rw [State.tileSource_of_found hi.1 ha, State.tileSource_of_found curA hb, zipWith_eq_laneIds lenA lenB]

end

end Sys2Proof.Machine
end

section
/-!
PROOFS. The float operations of major 0x0F (R219, R220): how the model's operations on words read as R79, R80 and R220 state them.
-/
namespace Sys2Proof.Machine

/-! ## Order and sign (R220) -/

/-- Whether two values are equal, by the parts of R220's order. -/
theorem Val.eqv_eq (a b : Val) : a.eqv b = (!(a.isNan || b.isNan) && !a.lt b && !b.lt a) := by
  rw [Val.eqv, Bool.not_or]

theorem Val.isZero_num (p : Bool) (m : Nat) (e : Int) : (Val.num p m e).isZero = decide (m = 0) := by
  cases m <;> rfl

/-- Numbers of opposite signs are equal only as zeros. -/
theorem Val.eqv_opposite (m n : Nat) (e k : Int) :
    (Val.num true m e).eqv (.num false n k) = ((Val.num true m e).isZero && (Val.num false n k).isZero) := by
  have less : (Val.num true m e).lt (.num false n k) = !(decide (m = 0) && decide (n = 0)) := by
    have pm := Nat.two_pow_pos (e - min e k).toNat
    have pn := Nat.two_pow_pos (k - min e k).toNat
    simp only [Val.lt, signedOf, pow2, if_true, Bool.false_eq_true, if_false]
    rw [Int.neg_mul, ← Int.natCast_mul, ← Int.natCast_mul, ← Bool.decide_and, ← decide_not, decide_eq_decide]
    rcases Nat.eq_zero_or_pos m with rfl | hm
    · rcases Nat.eq_zero_or_pos n with rfl | hn
      · simp
      · have := Nat.mul_pos hn pn
        omega
    · have := Nat.mul_pos hm pm
      omega
  have not_less : (Val.num false n k).lt (.num true m e) = false := by
    simp only [Val.lt, signedOf, if_true, Bool.false_eq_true, if_false, decide_eq_false_iff_not]
    rw [Int.neg_mul, ← Int.natCast_mul, ← Int.natCast_mul]
    omega
  rw [Val.eqv, less, not_less, Val.isZero_num, Val.isZero_num]
  simp [Val.isNan]

/-- Equal values of which the first alone is negative are zeros. -/
theorem Val.eqv_and_signs (a b : Val) : (a.eqv b && a.isNeg && !b.isNeg) = (a.isZero && b.isZero && a.isNeg && !b.isNeg) := by
  cases a with
  | nan _ => rfl
  | inf p => cases b <;> cases p <;> simp [Val.eqv, Val.lt, Val.isNan, Val.isZero, Val.isNeg]
  | num p m e =>
    cases b with
    | nan _ => simp [Val.isNeg, Val.eqv, Val.isNan, Val.isZero]
    | inf q => cases q <;> simp [Val.eqv, Val.lt, Val.isNan, Val.isZero, Val.isNeg]
    | num q n k =>
      cases p <;> cases q
      case true.false => rw [Val.eqv_opposite]
      all_goals simp [Val.isNeg]

/-- The sign of a value that is no NaN is bit 31. -/
theorem isNeg_f32Val {x : BitVec 32} (h : (f32Val x).isNan = false) : (f32Val x).isNeg = x.getLsbD 31 := by
  have sign : decide (x.toNat / 2 ^ (23 + 8) % 2 = 1) = x.getLsbD 31 := by
    rw [BitVec.getLsbD, Nat.testBit_eq_decide_div_mod_eq]
  unfold f32Val floatVal at h ⊢
  dsimp only at h ⊢
  split_ifs at h ⊢
  · exact sign
  · cases h
  · exact sign
  · exact sign

theorem f32Below_eq (x y : BitVec 32) : f32Below x y =
    ((f32Val x).lt (f32Val y) || ((f32Val x).eqv (f32Val y) && x.getLsbD 31 && !y.getLsbD 31)) := by
  rw [f32Below, ← Val.eqv_and_signs]
  congr 1
  cases nan : (f32Val x).isNan || (f32Val y).isNan
  · rw [Bool.or_eq_false_iff] at nan
    rw [isNeg_f32Val nan.1, isNeg_f32Val nan.2]
  · rw [Val.eqv_eq, nan]
    rfl

/-! ## One rounding (R79, R219) -/

/-- An exact value and its flags, rounded once. -/
abbrev roundOnce (p : Val × Flags5) : Flagged := ((toF32 p.1).1, p.2 ||| (toF32 p.1).2)

theorem finishF32_eq (p : Val × Flags5) : finishF32 p.1 p.2 = roundOnce p := rfl

theorem f32Add_eq (x y : BitVec 32) : f32Add x y = roundOnce ((f32Val x).add (f32Val y)) := by
  rw [f32Add, ← finishF32_eq]

theorem f32Sub_eq (x y : BitVec 32) : f32Sub x y = roundOnce ((f32Val x).add (f32Val y).negate) := by
  rw [f32Sub, ← finishF32_eq]

theorem f32Mul_eq (x y : BitVec 32) : f32Mul x y = roundOnce ((f32Val x).mul (f32Val y)) := by
  rw [f32Mul, ← finishF32_eq]

theorem f32Fma_eq (neg : Bool) (c x y : BitVec 32) : f32Fma neg c x y =
    roundOnce (((f32Val c).add (if neg then ((f32Val x).mul (f32Val y)).1.negate else ((f32Val x).mul (f32Val y)).1)).1,
      ((f32Val x).mul (f32Val y)).2 |||
      ((f32Val c).add (if neg then ((f32Val x).mul (f32Val y)).1.negate else ((f32Val x).mul (f32Val y)).1)).2) := by
  rw [f32Fma, ← finishF32_eq]

/-! ## The items -/

/-- Settles O28, by the shared forms of vector items and what each float operation gives. -/
theorem vectorFloatResults : Obligations.VectorFloatResults := by
  unfold Obligations.VectorFloatResults
  intro s m u d a b ta tb hi ha rnd nan nv less eqv below fma
  have eqvIs (x y : BitVec 32) : (f32Val x).eqv (f32Val y) = eqv x y := Val.eqv_eq ..
  have belowIs (x y : BitVec 32) : f32Below x y = below x y := by rw [f32Below_eq, eqvIs]
  have nanIs (x y : BitVec 32) : unordered x y = nan x y := rfl
  have nvIs (x y : BitVec 32) : signallingNv x y = nv x y := rfl
  have nvAny (x y : BitVec 32) : flagIf (unordered x y) fNV = if nan x y then 1 else 0 := rfl
  have minIs (x y : BitVec 32) : f32Min x y = (if nan x y then 0x7FC00000 else if below y x then y else x, nv x y) := by
    rw [f32Min, belowIs, nanIs, nvIs]
  have maxIs (x y : BitVec 32) : f32Max x y = (if nan x y then 0x7FC00000 else if below x y then y else x, nv x y) := by
    rw [f32Max, belowIs, nanIs, nvIs]
  refine ⟨fun hb => ?_, lanes1_writes (f := fun x => (f32Abs x, 0)) hi ha rfl, lanes1_writes (f := fun x => (f32Neg x, 0)) hi ha rfl, fun hb => ?_⟩
  · intro gives bit
    have writes {i : Instr} {f g : BitVec 32 → BitVec 32 → Flagged} (h : exec i s = .next (lanes2 s d a b f)) (same : ∀ x y, f x y = g x y) :
        gives i g := (funext fun x => funext (same x) : f = g) ▸ lanes2_writes hi ha hb h
    have fused {i : Instr} {f : BitVec 32 → BitVec 32 → BitVec 32 → Flagged} (neg : Bool) (h : exec i s = .next (lanes3 s d a b 1 f))
        (same : ∀ c x y, f c x y = fma neg c x y) :
        vecWrites s u d i (fun l => fma neg (lane (u.tile (tileNo d)) l) (lane ta l) (lane tb l)) :=
      (funext fun c => funext fun x => funext (same c x) : f = fma neg) ▸ lanes3_writes hi ha hb h
    have compares {i : Instr} {f g : BitVec 32 → BitVec 32 → Bool × Flags5} (h : exec i s = .next (bits2 s d a b f))
        (same : ∀ x y, f x y = g x y) : bit i g := (funext fun x => funext (same x) : f = g) ▸ bits2_writes hi ha hb h
    refine ⟨?_, ?_, ?_, ?_, ?_, ?_, ?_, ?_, ?_, ?_, ?_⟩
    · exact writes (g := fun x y => rnd ((f32Val x).add (f32Val y))) rfl f32Add_eq
    · exact writes (g := fun x y => rnd ((f32Val x).add (f32Val y).negate)) rfl f32Sub_eq
    · exact writes (g := fun x y => rnd ((f32Val x).mul (f32Val y))) rfl f32Mul_eq
    · exact fused false rfl (f32Fma_eq false)
    · exact fused true rfl (f32Fma_eq true)
    · exact writes (g := fun x y => (if nan x y then 0x7FC00000 else if below y x then y else x, nv x y)) rfl minIs
    · exact writes (g := fun x y => (if nan x y then 0x7FC00000 else if below x y then y else x, nv x y)) rfl maxIs
    · exact compares (g := fun x y => (eqv x y, nv x y)) rfl fun x y => by rw [eqvIs, nvIs]
    · exact compares (g := fun x y => (less x y, if nan x y then 1 else 0)) rfl fun x y => by rw [nvAny]
    · exact compares (g := fun x y => (less x y || eqv x y, if nan x y then 1 else 0)) rfl fun x y => by rw [eqvIs, nvAny]
    · exact compares (g := fun x y => (nan x y, nv x y)) rfl fun x y => by rw [nanIs, nvIs]
  · intro y
    have scaled {i : Instr} {f : BitVec 32 → BitVec 32 → Flagged} {g : BitVec 32 → Flagged} (h : exec i s = .next (lanesScalar s d a b f))
        (same : ∀ x, f x y = g x) : vecWrites s m d i (fun l => g (lane ta l)) :=
      (funext same : (fun x => f x y) = g) ▸ lanesScalar_writes hi ha hb h
    exact ⟨scaled (f := f32Mul) (g := fun x => rnd ((f32Val x).mul (f32Val y))) rfl fun x => f32Mul_eq x y,
      scaled (f := f32Add) (g := fun x => rnd ((f32Val x).add (f32Val y))) rfl fun x => f32Add_eq x y⟩

end Sys2Proof.Machine
end

section
/-!
PROOFS. The invariant (log 4, R101): each operation of the state keeps the canonical form of the memories and the bounds of the fault
queues. One lemma per operation, in the order of the model's files.
-/
namespace Sys2Proof.Machine

/-! ## What the invariant reads of a state -/

/-- A state whose memories, images and fault queue are those of one that meets the invariant meets it. -/
theorem State.Inv.of_same {s t : State} (h : s.Inv) (hm : t.pk.mu.mem = s.pk.mu.mem) (hs : t.pk.mu.scratch = s.pk.mu.scratch)
    (hi : t.pk.images = s.pk.images) (hq : t.sys.fq = s.sys.fq) : t.Inv := by
  unfold State.Inv State.memoriesWf at *
  rw [hm, hs, hi, hq]
  exact h

theorem State.Inv.withCore {s : State} (h : s.Inv) {c : Core} {agenda : List Move} {turn ctr : Nat} {x : StrandId} {dry : Bool}
    {last : ItemEnd} (hc : c.sys.fq = s.sys.fq) : State.Inv ⟨c, s.pk, agenda, turn, x, ctr, dry, last⟩ :=
  h.of_same rfl rfl rfl hc

theorem State.Inv.onCore {s : State} (h : s.Inv) {f : Core → Core} (hf : (f s.core).sys.fq = s.sys.fq) : (s.onCore f).Inv :=
  h.of_same rfl rfl rfl hf

theorem State.Inv.onSys {s : State} (h : s.Inv) {f : System → System} (hf : (f s.sys).fq = s.sys.fq) : (s.onSys f).Inv :=
  h.of_same rfl rfl rfl hf

/-- A new fault queue within its bounds. -/
theorem State.Inv.onQueue {s : State} (h : s.Inv) {f : System → System} (hf : queueWithin (f s.sys).fq = true) : (s.onSys f).Inv :=
  ⟨h.1, hf, h.2.2⟩

theorem State.Inv.onQu {s : State} (h : s.Inv) (f : QuenchUnit → QuenchUnit) : (s.onQu f).Inv := h.of_same rfl rfl rfl rfl
theorem State.Inv.onVec {s : State} (h : s.Inv) (f : VectorState → VectorState) : (s.onVec f).Inv := h.of_same rfl rfl rfl rfl
theorem State.Inv.onMat {s : State} (h : s.Inv) (f : MatrixState → MatrixState) : (s.onMat f).Inv := h.of_same rfl rfl rfl rfl

theorem State.Inv.onPk {s : State} (h : s.Inv) {f : Package → Package} (hm : (f s.pk).mu = s.pk.mu)
    (hi : (f s.pk).images = s.pk.images) : (s.onPk f).Inv :=
  h.of_same (congrArg _ hm) (congrArg _ hm) hi rfl

/-- Images that the package keeps, each of them one that meets the invariant. -/
theorem State.Inv.onImages {s : State} (h : s.Inv) {f : Package → Package} (hm : (f s.pk).mu = s.pk.mu)
    (hi : ∀ i ∈ (f s.pk).images, Memory.wf i.scratch = true ∧ queueWithin i.core.sys.fq = true) : (s.onPk f).Inv := by
  obtain ⟨⟨hmem, hscratch, -⟩, hq, -⟩ := h
  exact ⟨⟨(congrArg (Memory.wf ·.mem) hm).trans hmem, (congrArg (Memory.wf ·.scratch) hm).trans hscratch, fun i hi' => (hi i hi').1⟩,
    hq, fun i hi' => (hi i hi').2⟩

theorem State.Inv.onMu {s : State} (h : s.Inv) {f : MemoryState → MemoryState} (hm : (f s.pk.mu).mem = s.pk.mu.mem)
    (hs : (f s.pk.mu).scratch = s.pk.mu.scratch) : (s.onMu f).Inv :=
  h.of_same hm hs rfl rfl

/-- Memories in canonical form. -/
theorem State.Inv.onMemories {s : State} (h : s.Inv) {f : MemoryState → MemoryState} (hm : Memory.wf (f s.pk.mu).mem = true)
    (hs : Memory.wf (f s.pk.mu).scratch = true) : (s.onMu f).Inv :=
  ⟨⟨hm, hs, h.1.2.2⟩, h.2⟩

theorem State.Inv.mem {s : State} (h : s.Inv) : Memory.wf s.pk.mu.mem = true := h.1.1
theorem State.Inv.scratch {s : State} (h : s.Inv) : Memory.wf s.pk.mu.scratch = true := h.1.2.1
theorem State.Inv.queue {s : State} (h : s.Inv) : queueWithin s.sys.fq = true := h.2.1
theorem State.Inv.images {s : State} (h : s.Inv) {i : Image} (hi : i ∈ s.pk.images) :
    Memory.wf i.scratch = true ∧ queueWithin i.core.sys.fq = true := ⟨h.1.2.2 i hi, h.2.2 i hi⟩

theorem State.Inv.putStrand {s : State} (h : s.Inv) (x : StrandId) (t : Strand) : (s.putStrand x t).Inv := by
  cases x <;> exact h.of_same rfl rfl rfl rfl

theorem State.Inv.onStrand {s : State} (h : s.Inv) (x : StrandId) (f : Strand → Strand) : (s.onStrand x f).Inv := h.putStrand x _

theorem State.Inv.ite {c : Prop} [Decidable c] {s t : State} (hs : s.Inv) (ht : t.Inv) : (if c then s else t).Inv := by
  split
  · exact hs
  · exact ht

theorem State.Inv.foldl {α : Type} {f : State → α → State} {s : State} (h : s.Inv) {l : List α} (hf : ∀ t a, t.Inv → (f t a).Inv) :
    (l.foldl f s).Inv := by
  induction l generalizing s with
  | nil => exact h
  | cons a l ih => exact ih (hf s a h)

theorem State.Inv.putReg {s : State} (h : s.Inv) (x : StrandId) (f : BitVec 6) (v : BitVec 64) : (s.putReg x f v).Inv :=
  .ite (h.withCore (by rfl)) (.ite h (h.onStrand x _))

theorem State.Inv.putPlane {s : State} (h : s.Inv) (p : Plane) : (s.putPlane p).Inv := by
  refine h.onPk ?_ ?_ <;> split <;> rfl

theorem State.Inv.putShadow {s : State} (h : s.Inv) (p : Plane) : (s.putShadow p).Inv := by
  refine h.onPk ?_ ?_ <;> split <;> rfl

theorem State.Inv.fresh {s : State} (h : s.Inv) (w : Nat) : (s.fresh w).2.Inv := h.withCore (by rfl)
theorem State.Inv.choose {s : State} (h : s.Inv) {w : Nat} (k : Nat) (pool : List (BitVec w)) : (s.choose k pool).2.Inv := h.withCore
    (by rfl)
theorem State.Inv.freshNat {s : State} (h : s.Inv) : s.freshNat.2.Inv := h.withCore (by rfl)

/-! ## Fault queues (R101) -/

theorem queueWithin_iff {fq : List FaultRecord} : queueWithin fq = true ↔ fq.length ≤ 16 ∨ fq.length ≤ 17 ∧ fq.any (·.own) = true := by
  cases h : fq.any (·.own) <;> simp [queueWithin, h]; omega

/-- A record that there is room for is queued within the bounds: the reserved entry is K's own (R101). -/
theorem queueWithin_append {fq : List FaultRecord} {r : FaultRecord} (h : queueWithin fq = true) (hr : roomFor fq r = true) :
    queueWithin (fq ++ [r]) = true := by
  rw [queueWithin_iff] at *
  simp only [List.length_append, List.length_singleton, List.any_append, List.any_cons, List.any_nil, Bool.or_false, Bool.or_eq_true]
  unfold roomFor at hr
  cases hf : fq.any (·.own) <;> cases hown : r.own <;> simp [hf, hown] at h hr ⊢ <;> omega

theorem queueWithin_sublist {fq fq' : List FaultRecord} (h : queueWithin fq = true) (hs : fq'.Sublist fq) : queueWithin fq' = true := by
  rw [queueWithin_iff] at *
  rcases Nat.lt_or_ge fq'.length fq.length with hlt | hge
  · omega
  · rwa [hs.eq_of_length_le hge]

/-- The records that come in while there is room keep the bounds. -/
theorem queueWithin_admitWaiting {fq : List FaultRecord} (h : queueWithin fq = true) (waiting : List FaultRecord) :
    queueWithin (admitWaiting fq waiting).1 = true := by
  induction waiting generalizing fq with
  | nil => exact h
  | cons r rest ih =>
    unfold admitWaiting
    split
    · next hr => exact ih (queueWithin_append h hr)
    · exact ih h

/-- A change of the head record that leaves its strand and class keeps the bounds. -/
theorem queueWithin_head {r r' : FaultRecord} {rest : List FaultRecord} (h : queueWithin (r :: rest) = true) (hown : r'.own = r.own) :
    queueWithin (r' :: rest) = true := by
  simpa [queueWithin, hown] using h

/-! ## What an item, an access or an engine's step comes to -/

/-- The state that the end of an item leaves meets the invariant. -/
def Res.Inv : Res → Prop
  | .retire s | .jump s | .wait s => s.Inv
  | .trap .. => True

theorem Res.Inv.ite {c : Prop} [Decidable c] {r r' : Res} (hr : r.Inv) (hr' : r'.Inv) : (if c then r else r').Inv := by
  split
  · exact hr
  · exact hr'

/-! ## Causes, records and the end of an item -/
theorem State.Inv.interrupt {s : State} (h : s.Inv) : s.interrupt.Inv := h.onSys (by split <;> rfl)

theorem State.Inv.enqueue {s : State} (h : s.Inv) (r : FaultRecord) : (s.enqueue r).Inv := by
  unfold State.enqueue
  split
  · next room => exact (h.onQueue (queueWithin_append h.queue room)).interrupt
  · exact .ite (h.onSys (by rfl)) (h.onSys (by rfl))

theorem State.Inv.dropHead {s : State} (h : s.Inv) : s.dropHead.Inv := by
  have hq := queueWithin_admitWaiting (queueWithin_sublist h.queue (List.drop_sublist 1 _)) s.sys.fqWait
  have hs := h.onQueue (f := fun y => { y with
    fq := (admitWaiting (s.sys.fq.drop 1) s.sys.fqWait).1, fqWait := (admitWaiting (s.sys.fq.drop 1) s.sys.fqWait).2.1
    sheld := y.sheld || ((admitWaiting (s.sys.fq.drop 1) s.sys.fqWait).2.2 && s.sys.fqWait.any (·.holdsShadow)) }) hq
  exact .ite hs.interrupt hs

theorem State.Inv.toHearth {s : State} (h : s.Inv) (r : FaultRecord) : (s.toHearth r).Inv := h.onSys (by rfl)

theorem State.Inv.machineCheck {s : State} (h : s.Inv) (detail : BitVec 64) : (s.machineCheck detail).Inv := h.toHearth _

theorem State.Inv.landAll {s : State} (h : s.Inv) (x : StrandId) : (s.landAll x).Inv := (h.onStrand ..).foldl (fun _ _ ht => ht.putReg ..)

theorem State.Inv.enterS {s : State} (h : s.Inv) : s.enterS.Inv :=
  .ite (((h.landAll _).onSys (by rfl)).machineCheck _) ((((h.landAll _).onSys (by rfl)).onQu _).onStrand ..)

theorem State.Inv.leaveS {s : State} (h : s.Inv) (pos : BitVec 16 × BitVec 16 × BitVec 32) : (s.leaveS pos).Inv := by
  unfold State.leaveS
  refine .ite ((State.Inv.onSys ?_ (by rfl)).enterS) (State.Inv.onSys ?_ (by rfl))
  · split
    · exact (h.onStrand ..).onStrand ..
    · exact h.onStrand ..
  · split
    · exact (h.onStrand ..).onStrand ..
    · exact h.onStrand ..

theorem State.Inv.slotActs {s : State} (h : s.Inv) (n : BitVec 4) (x : StrandId) : (s.slotActs n x).Inv :=
    (h.onPk (by rfl) (by rfl)).onStrand ..

theorem State.Inv.resumeEngine {s : State} (h : s.Inv) (r : Resume) : (s.resumeEngine r).Inv := by
  unfold State.resumeEngine
  split
  · exact h
  · exact h
  · exact h.onCore (by dsimp only; split <;> rfl)
  · exact h.onCore (by rfl)
  · exact h.onPk (by dsimp only; split <;> rfl) (by dsimp only; split <;> rfl)
  · exact h.onMat _
  · exact h.onCore (by rfl)
  · exact h.onCore (by rfl)

theorem State.Inv.restart {s : State} (h : s.Inv) (r : FaultRecord) (others : List FaultRecord) : (s.restart r others).Inv :=
  .ite (h.onStrand ..) h

theorem State.Inv.resumeRecord {s : State} (h : s.Inv) (r : FaultRecord) (others : List FaultRecord) : (s.resumeRecord r others).Inv :=
  .ite h (.ite (h.resumeEngine _) ((h.resumeEngine _).restart ..))

theorem State.Inv.stopFor {s : State} (h : s.Inv) (r : FaultRecord) : (s.stopFor r).Inv :=
  .ite (.ite (h.onStrand ..) h) (.ite h (.ite (h.onStrand ..) (h.onStrand ..)))

theorem State.Inv.queueRecord {s : State} (h : s.Inv) (r : FaultRecord) : (s.queueRecord r).Inv :=
  .ite (((h.stopFor _).enqueue _).enterS) ((h.stopFor _).enqueue _)

theorem State.Inv.raise {s : State} (h : s.Inv) (r : FaultRecord) : (s.raise r).Inv := by
  unfold State.raise
  refine .ite (((h.onStrand ..).stopFor _).toHearth _) ?_
  split
  · exact (h.onStrand ..).queueRecord _
  · exact .ite (((h.onStrand ..).slotActs ..).queueRecord _) (.ite ((((h.onStrand ..).slotActs ..).onStrand ..).resumeEngine _)
      ((h.onStrand ..).queueRecord _))

theorem State.Inv.atsSeen {s : State} (h : s.Inv) (addr : BitVec 64) : (s.atsSeen addr).Inv := h.onMu (by rfl) (by rfl)

theorem State.Inv.raisePrecise {s : State} (h : s.Inv) (x : StrandId) (c : BitVec 6) (detail addr : BitVec 64) (eng slot : BitVec 4) :
    (s.raisePrecise x c detail addr eng slot).Inv :=
  .ite ((State.Inv.ite (h.atsSeen _) h).raise _) ((State.Inv.ite (h.atsSeen _) h).raise _)

theorem State.Inv.raiseAsync {s : State} (h : s.Inv) (x : StrandId) (c : BitVec 6) (detail addr : BitVec 64) (eng : BitVec 4)
    (coord : Coord) (resume : Resume) :
    (s.raiseAsync x c detail addr eng coord resume).Inv :=
  h.raise _

theorem State.Inv.raiseEngine {s : State} (h : s.Inv) (x : StrandId) (stepped : Bool) (c : BitVec 6) (detail addr : BitVec 64)
    (eng : BitVec 4) (coord : Coord) (resume : Resume) :
    (s.raiseEngine x stepped c detail addr eng coord resume).Inv :=
  .ite (h.onStrand ..) (h.raise _)

theorem Res.Inv.fail (cause : BitVec 6) (detail : BitVec 64) : (Res.fail cause detail).Inv := trivial

theorem State.Inv.deliverEaf {s : State} (h : s.Inv) (x : StrandId) (t : Strand) : (s.deliverEaf x t).Inv :=
  (h.onStrand ..).foldl (fun _ _ ht => ht.raise _)

theorem State.Inv.stepBoundary {s before : State} (h : s.Inv) (x : StrandId) : (s.stepBoundary before x).Inv :=
  .ite (.ite (h.raise _) h) ((State.Inv.ite (h.raise _) h).deliverEaf ..)

theorem State.Inv.afterRetire {s before : State} (h : s.Inv) (x : StrandId) : (s.afterRetire before x).Inv :=
  .ite h ((h.onStrand ..).stepBoundary _)

theorem State.Inv.pastItem {s : State} (h : s.Inv) (x : StrandId) (len : Nat) : (s.pastItem x len).Inv := .ite h (h.onStrand ..)

theorem State.Inv.finish {s : State} (h : s.Inv) {x : StrandId} {len : Nat} {r : Res} (hr : r.Inv) : (s.finish x len r).Inv := by
  cases r with
  | retire t => exact ((State.Inv.pastItem hr ..).afterRetire _).withCore (by rfl)
  | jump t => exact (State.Inv.afterRetire hr _).withCore (by rfl)
  | wait t => exact State.Inv.withCore hr (by rfl)
  | trap c d a => exact .ite (h.withCore (by rfl)) (((h.onStrand ..).raisePrecise ..).withCore (by rfl))

theorem State.Inv.runItem {s : State} (h : s.Inv) {len : Nat} {legal : List StrandId} {priv cls ok : Bool} {body : Res} (hb : body.Inv) :
    (runItem s len legal priv cls ok body).Inv := by
  have fails (c : BitVec 6) : (Res.fail c 0).Inv := Res.Inv.fail c 0
  exact h.finish (.ite (fails _) (.ite (fails _) (.ite (fails _) (.ite (fails _) hb))))

theorem State.Inv.takeImage {s : State} (h : s.Inv) (x : StrandId) (entry : Bool) : (s.takeImage x entry).Inv :=
  .ite ((h.onStrand ..).onQu _) h

theorem State.Inv.changeCoord {s : State} (h : s.Inv) (x : StrandId) (c : Coord) : (s.changeCoord x c).Inv :=
  .ite (((h.onStrand ..).takeImage ..).onStrand ..) ((h.onStrand ..).takeImage ..)

theorem State.Inv.sendPacket {s : State} (h : s.Inv) (dst : BitVec 18) (kid : BitVec 7) (engine : BitVec 6) (body : PacketBody) :
    (s.sendPacket dst kid engine body).Inv := by
  unfold State.sendPacket
  extract_lets gen bare
  cases (s.keyId kid).bind (·.key) with
  | some key => refine State.Inv.onPk h ?_ ?_ <;> dsimp only <;> split <;> rfl
  | none => refine State.Inv.onPk (h.fresh 128) ?_ ?_ <;> dsimp only <;> split <;> rfl

theorem State.Inv.sendNotice {s : State} (h : s.Inv) (l : Landed) : (s.sendNotice l).Inv := h.sendPacket ..

theorem State.Inv.yieldPoint {s : State} (h : s.Inv) (x : StrandId) : (s.yieldPoint x).Inv := .ite (h.onStrand ..) h

end Sys2Proof.Machine
end

section
/-!
PROOFS. The invariant (log 4, R101) and the items of the scalar classes.
-/
namespace Sys2Proof.Machine

/-! ## Flags -/

theorem State.Inv.putCc {s : State} (h : s.Inv) (x : StrandId) (cc : BitVec 3) : (s.putCc x cc).Inv := h.onStrand ..

theorem State.Inv.addFlags {s : State} (h : s.Inv) (x : StrandId) (fl : Flags5) : (s.addFlags x fl).Inv := h.onStrand ..

/-! ## Scalar items -/

theorem State.Inv.alu {s : State} (h : s.Inv) (len : Nat) (d a b : BitVec 6) (f : BitVec 64 → BitVec 64 → BitVec 64) :
    (alu s len d a b f).Inv :=
  h.runItem (h.putReg ..)

theorem State.Inv.aluImm {s : State} (h : s.Inv) (len : Nat) (d a : BitVec 6) (v : BitVec 64) (f : BitVec 64 → BitVec 64 → BitVec 64) :
    (aluImm s len d a v f).Inv :=
  h.runItem (h.putReg ..)

theorem State.Inv.aluOne {s : State} (h : s.Inv) (len : Nat) (d a : BitVec 6) (f : BitVec 64 → BitVec 64) : (aluOne s len d a f).Inv :=
  h.runItem (h.putReg ..)

theorem State.Inv.loadConst {s : State} (h : s.Inv) (len : Nat) (d : BitVec 6) (v : BitVec 64) : (loadConst s len d v).Inv :=
  h.runItem (h.putReg ..)

theorem State.Inv.divide {s : State} (h : s.Inv) (d a b : BitVec 6) (f : BitVec 64 → BitVec 64 → BitVec 64) : (divide s d a b f).Inv :=
  h.runItem (Res.Inv.ite (Res.Inv.fail ..) (h.putReg ..))

theorem State.Inv.compareTo {s : State} (h : s.Inv) (len : Nat) (x : StrandId) (cls : Bool) (d : BitVec 6) (a b : BitVec 64) :
    (compareTo s len x cls d a b).Inv :=
  h.runItem ((h.putCc ..).putReg ..)

theorem State.Inv.putPair {s : State} (h : s.Inv) (x : StrandId) (f : BitVec 6) (v : BitVec 128) : (s.putPair x f v).Inv :=
  (h.putReg ..).putReg ..

end Sys2Proof.Machine
end

section
/-!
PROOFS. The invariant (log 4, R101) and memory: every write goes through the sparse tables' own operations, which keep the canonical form
(Laws/Cells.lean).
-/
namespace Sys2Proof.Machine

/-! ## The outcomes of an access -/

def Got.Inv : Got → Prop
  | .ok _ s | .wait s | .fail _ _ _ s => s.Inv

theorem Got.Inv.ok {g : Got} {bs t} (h : g.Inv) (e : g = .ok bs t) : State.Inv t := by subst e; exact h
theorem Got.Inv.wait {g : Got} {t} (h : g.Inv) (e : g = .wait t) : State.Inv t := by subst e; exact h
theorem Got.Inv.fail {g : Got} {c b va t} (h : g.Inv) (e : g = .fail c b va t) : State.Inv t := by subst e; exact h
theorem Got.Inv.ite {c : Prop} [Decidable c] {g g' : Got} (hg : g.Inv) (hg' : g'.Inv) : (if c then g else g').Inv := by
  split
  · exact hg
  · exact hg'

def Xlat.Inv : Xlat → Prop
  | .ok _ s | .wait s | .fail _ s => s.Inv

theorem Xlat.Inv.ok {g : Xlat} {w t} (h : g.Inv) (e : g = .ok w t) : State.Inv t := by subst e; exact h
theorem Xlat.Inv.wait {g : Xlat} {t} (h : g.Inv) (e : g = .wait t) : State.Inv t := by subst e; exact h
theorem Xlat.Inv.fail {g : Xlat} {f t} (h : g.Inv) (e : g = .fail f t) : State.Inv t := by subst e; exact h
theorem Xlat.Inv.ite {c : Prop} [Decidable c] {g g' : Xlat} (hg : g.Inv) (hg' : g'.Inv) : (if c then g else g').Inv := by
  split
  · exact hg
  · exact hg'

def Stored.Inv : Stored → Prop
  | .done s => s.Inv
  | .full => True

theorem Stored.Inv.done {g : Stored} {t} (h : g.Inv) (e : g = .done t) : State.Inv t := by subst e; exact h
theorem Stored.Inv.ite {c : Prop} [Decidable c] {g g' : Stored} (hg : g.Inv) (hg' : g'.Inv) : (if c then g else g').Inv := by
  split
  · exact hg
  · exact hg'

def Checked.Inv : Checked → Prop
  | .ok s | .wait s | .fail _ _ _ s => s.Inv

theorem Checked.Inv.ok {g : Checked} {t} (h : g.Inv) (e : g = .ok t) : State.Inv t := by subst e; exact h
theorem Checked.Inv.wait {g : Checked} {t} (h : g.Inv) (e : g = .wait t) : State.Inv t := by subst e; exact h
theorem Checked.Inv.ite {c : Prop} [Decidable c] {g g' : Checked} (hg : g.Inv) (hg' : g'.Inv) : (if c then g else g').Inv := by
  split
  · exact hg
  · exact hg'

def Leaving.Inv : Leaving → Prop
  | .ok s | .wait s | .sealed_ _ s | .fail _ _ _ s => s.Inv

theorem Leaving.Inv.ok {g : Leaving} {t} (h : g.Inv) (e : g = .ok t) : State.Inv t := by subst e; exact h
theorem Leaving.Inv.wait {g : Leaving} {t} (h : g.Inv) (e : g = .wait t) : State.Inv t := by subst e; exact h
theorem Leaving.Inv.sealed_ {g : Leaving} {va t} (h : g.Inv) (e : g = .sealed_ va t) : State.Inv t := by subst e; exact h
theorem Leaving.Inv.fail {g : Leaving} {c b va t} (h : g.Inv) (e : g = .fail c b va t) : State.Inv t := by subst e; exact h
theorem Leaving.Inv.ite {c : Prop} [Decidable c] {g g' : Leaving} (hg : g.Inv) (hg' : g'.Inv) : (if c then g else g').Inv := by
  split
  · exact hg
  · exact hg'

/-- The state that an attempt leaves, where it leaves one. -/
def OptionInv : Option State → Prop
  | some s => s.Inv
  | none => True

theorem OptionInv.some {o : Option State} {t} (h : OptionInv o) (e : o = .some t) : State.Inv t := by subst e; exact h
theorem OptionInv.ite {c : Prop} [Decidable c] {o o' : Option State} (ho : OptionInv o) (ho' : OptionInv o') :
    OptionInv (if c then o else o') := by
  split
  · exact ho
  · exact ho'

theorem OptionInv.map {o : Option State} {f : State → State} (ho : OptionInv o) (hf : ∀ t, t.Inv → (f t).Inv) : OptionInv (o.map f) := by
  cases o with
  | none => trivial
  | some t => exact hf t ho

def ExceptInv : Except State State → Prop
  | .ok s | .error s => s.Inv

theorem ExceptInv.ok {o : Except State State} {t} (h : ExceptInv o) (e : o = .ok t) : State.Inv t := by subst e; exact h
/-- What every step of a fold keeps, the fold keeps. -/
theorem foldl_keeps {α β : Type} {P : β → Prop} {f : β → α → β} {b : β} {l : List α} (h : P b) (hf : ∀ b a, P b → P (f b a)) :
    P (l.foldl f b) := by
  induction l generalizing b with
  | nil => exact h
  | cons a l ih => exact ih (hf b a h)

theorem Got.Inv.foldl {α : Type} {f : Got → α → Got} {g : Got} (h : g.Inv) {l : List α} (hf : ∀ g a, g.Inv → (f g a).Inv) :
    (l.foldl f g).Inv :=
  foldl_keeps h hf

theorem Stored.Inv.foldl {α : Type} {f : Stored → α → Stored} {g : Stored} (h : g.Inv) {l : List α}
    (hf : ∀ g a, g.Inv → (f g a).Inv) : (l.foldl f g).Inv :=
  foldl_keeps h hf

theorem Checked.Inv.foldl {α : Type} {f : Checked → α → Checked} {g : Checked} (h : g.Inv) {l : List α}
    (hf : ∀ g a, g.Inv → (f g a).Inv) : (l.foldl f g).Inv :=
  foldl_keeps h hf

theorem Leaving.Inv.foldl {α : Type} {f : Leaving → α → Leaving} {g : Leaving} (h : g.Inv) {l : List α}
    (hf : ∀ g a, g.Inv → (f g a).Inv) : (l.foldl f g).Inv :=
  foldl_keeps h hf

/-! ## Memory -/

theorem State.Inv.scratchPut {s : State} (h : s.Inv) (pcore off : Nat) (bs : List (BitVec 8)) : (s.scratchPut pcore off bs).Inv :=
  h.onMemories h.mem (cellPut_wf h.scratch _ _)

theorem State.Inv.slagAdd {s : State} (h : s.Inv) (e : SlagEntry) : (s.slagAdd e).Inv := (h.onCore (by rfl)).scratchPut ..

theorem State.Inv.slagFree {s : State} (h : s.Inv) (keep : SlagEntry → Bool) : (s.slagFree keep).Inv :=
  (h.onCore (by rfl)).foldl (fun _ _ ht => ht.scratchPut ..)

theorem State.Inv.scratchStore {s : State} (h : s.Inv) (x : StrandId) (coord : Coord) (keep : Bool) (pcore : Nat) (addr : BitVec 32)
    (bs : List (BitVec 8)) :
    (s.scratchStore x coord keep pcore addr bs).Inv :=
  Stored.Inv.ite h (Stored.Inv.ite (Stored.Inv.ite ((h.foldl (fun _ ⟨_, _⟩ ht => ht.slagAdd _)).scratchPut ..) trivial) (h.scratchPut ..))

theorem State.Inv.readCells {s : State} (h : s.Inv) (c : Nat) (keys : List Nat) : (s.readCells c keys).2.Inv := by
  unfold State.readCells
  split
  · exact h
  · exact h.freshNat.onMu (by rfl) (by rfl)

theorem State.Inv.settleStale {s : State} (h : s.Inv) (w y : BitVec 5) : (s.settleStale w y).Inv := .ite h (h.onMu (by rfl) (by rfl))

theorem State.Inv.applyAt {s : State} (h : s.Inv) (die c : Nat) (stamp : Nat × Nat) (bytes : List (Nat × BitVec 8)) :
    (s.applyAt die c stamp bytes).Inv :=
  h.onMemories (foldl_keeps (P := (Memory.wf · = true)) h.mem fun _ _ hm => cellSet_wf hm _ _) h.scratch

theorem State.Inv.stampWrite {s : State} (h : s.Inv) (d c : Nat) (bytes : List (Nat × BitVec 8)) : (s.stampWrite d c bytes).Inv :=
  (h.onMu (by rfl) (by rfl)).applyAt ..

theorem State.Inv.applyStamped {s : State} (h : s.Inv) (w : StampedWrite) (e : Nat) : (s.applyStamped w e).Inv :=
    (h.onMu (by rfl) (by rfl)).applyAt ..

theorem State.Inv.deliverTo {s : State} (h : s.Inv) (e : Nat) : (s.deliverTo e).Inv :=
  h.foldl (fun _ _ ht => State.Inv.ite (ht.applyStamped ..) ht)

theorem State.Inv.deliverFrom {s : State} (h : s.Inv) (d e : Nat) : (s.deliverFrom d e).Inv :=
  h.foldl (fun _ _ ht => State.Inv.ite (ht.applyStamped ..) ht)

theorem State.Inv.refreshHomes {s : State} (h : s.Inv) (pas : List Nat) : (s.refreshHomes pas).Inv :=
  .ite h (h.foldl (fun _ _ ht => State.Inv.ite (ht.deliverTo _) ht))

theorem State.Inv.writeLocs {s : State} (h : s.Inv) (d c : Nat) (bytes : List (Loc × BitVec 8)) : (s.writeLocs d c bytes).Inv := by
  have hs (l : List (Nat × BitVec 8)) : (if l.isEmpty then s else s.stampWrite d c l).Inv := .ite h (h.stampWrite ..)
  exact .ite (hs _) ((hs _).onMemories (foldl_keeps (P := (Memory.wf · = true)) (hs _).mem fun _ _ hm => cellSet_wf hm _ _) (hs _).scratch)

theorem State.Inv.writeHome {s : State} (h : s.Inv) (c : Nat) (bytes : List (Loc × BitVec 8)) : (s.writeHome c bytes).Inv :=
  (h.foldl (fun _ _ ht => State.Inv.ite ht (ht.writeLocs ..))).writeLocs ..

theorem State.Inv.clearPoison {s : State} (h : s.Inv) (ls : List Loc) : (s.clearPoison ls).Inv := .ite h (h.onMu (by rfl) (by rfl))

theorem State.Inv.cacheFill {s : State} (h : s.Inv) (e : TlbEntry) : (s.cacheFill e).Inv := h.onMu (by rfl) (by rfl)

theorem State.Inv.translate {s : State} (h : s.Inv) (path va : Nat) (sup : Bool) (need : Need) : (s.translate path va sup need).Inv := by
  unfold State.translate
  split
  · split
    · exact h
    · exact h
  · split
    · exact h
    · dsimp only
      split
      · exact h
      · refine Xlat.Inv.ite h (Xlat.Inv.ite (Xlat.Inv.ite h ?_) (Xlat.Inv.ite h (h.cacheFill _)))
        split
        · split
          · exact h.onMu (by rfl) (by rfl)
          · exact h
        · exact h.onMu (by rfl) (by rfl)

theorem State.Inv.startDrain {s : State} (h : s.Inv) (va : Nat) : (s.startDrain va).Inv := .ite h (h.onMu (by rfl) (by rfl))

theorem State.Inv.physPut {s : State} (h : s.Inv) (pa : Nat) (bs : List (BitVec 8)) : (s.physPut pa bs).Inv :=
  h.onMemories (foldl_keeps (P := (Memory.wf · = true)) h.mem fun _ _ hm => cellPut_wf hm _ _) h.scratch

theorem State.Inv.syncOverflow {s : State} (h : s.Inv) : s.syncOverflow.Inv := by
  unfold State.syncOverflow
  refine h.foldl (fun _ _ ht => ?_)
  split
  · exact ht.physPut ..
  · exact ht

theorem State.Inv.sideAdd {s : State} (h : s.Inv) (e : SideEntry) : (s.sideAdd e).Inv := by
  unfold State.sideAdd
  extract_lets ovf e' s1 s2
  have h2 : s2.Inv := State.Inv.onStrand (s := s1) (h.onCore (by rfl)) _ _
  clear_value ovf
  split
  · exact h2.physPut ..
  · exact h2

theorem State.Inv.sideDrop {s : State} (h : s.Inv) (id : Nat) : (s.sideDrop id).Inv := by
  unfold State.sideDrop
  refine State.Inv.onCore ?_ (by rfl)
  split
  · exact h.physPut ..
  · exact h

theorem State.Inv.sideSet {s : State} (h : s.Inv) (id : Nat) (f : SideEntry → SideEntry) : (s.sideSet id f).Inv :=
    (h.onCore (by rfl)).syncOverflow

theorem State.Inv.sawEntries {s : State} (h : s.Inv) (x : StrandId) (c : Nat) (ids : List Nat) : (s.sawEntries x c ids).Inv :=
  .ite h ((h.settleStale ..).onCore (by rfl))

theorem State.Inv.setDz {s : State} (h : s.Inv) (x : StrandId) : (s.setDz x).Inv := h.onStrand ..

theorem State.Inv.blockUnder {s : State} (h : s.Inv) (key : BitVec 512) (block : Nat) : (s.blockUnder key block).Inv := by
  obtain ⟨mem, under, hs⟩ := s.blockUnder_frame key block
  have hm := State.blockUnder_wf h.mem key block
  rw [hs] at hm ⊢
  exact h.onMemories hm h.scratch

theorem State.Inv.underKey {s : State} (h : s.Inv) (key : Option (BitVec 512)) (ls : List Loc) : (s.underKey key ls).Inv := by
  unfold State.underKey
  split
  · exact h
  · exact h.foldl (fun _ _ ht => ht.blockUnder ..)

theorem State.Inv.readPage {s : State} (h : s.Inv) (by_ : ReadBy) (va n : Nat) : (s.readPage by_ va n).Inv := by
  unfold State.readPage
  split
  · next e => exact (h.translate ..).wait e
  · next e => exact (h.translate ..).fail e
  · next e =>
      have ht := (h.translate ..).ok e
      split
      · exact ht
      · refine Got.Inv.ite ((ht.sawEntries ..).setDz _) ?_
        dsimp only
        split
        · exact ht.sawEntries ..
        · exact (State.Inv.ite (((ht.sawEntries ..).underKey ..).refreshHomes _) ((ht.sawEntries ..).underKey ..)).readCells ..

theorem State.Inv.readVirtual {s : State} (h : s.Inv) (by_ : ReadBy) (va n : Nat) : (s.readVirtual by_ va n).Inv := by
  unfold State.readVirtual
  refine Got.Inv.foldl ?_ (fun r ⟨_, _⟩ hr => ?_)
  · exact h
  · dsimp only
    cases r with
    | ok _ t =>
      have ht' : t.Inv := hr
      dsimp only
      split
      · next e => exact (ht'.readPage ..).ok e
      · exact ht'.readPage ..
    | wait t =>
      exact hr
    | fail _ _ _ t =>
      exact hr

theorem State.Inv.checkWrite {s : State} (h : s.Inv) (path : Nat) (sup : Bool) (need : Need) (va n : Nat) :
    (s.checkWrite path sup need va n).Inv := by
  unfold State.checkWrite
  refine Checked.Inv.foldl ?_ (fun r ⟨_, _⟩ hr => ?_)
  · exact h
  · dsimp only
    cases r with
    | ok t =>
      have ht' : t.Inv := hr
      dsimp only
      split
      · next e => exact (ht'.translate ..).wait e
      · next e => exact (ht'.translate ..).fail e
      · next e =>
          have ht := (ht'.translate ..).ok e
          refine Checked.Inv.ite ht ?_
          split
          · exact ht
          · exact Checked.Inv.ite ht ht
    | wait t =>
      exact hr
    | fail _ _ _ t =>
      exact hr

theorem State.Inv.leaveCheck {s : State} (h : s.Inv) (e : SideEntry) (va n : Nat) : (s.leaveCheck e va n).Inv := by
  unfold State.leaveCheck
  refine Leaving.Inv.ite h (Leaving.Inv.foldl ?_ (fun r ⟨_, _⟩ hr => ?_))
  · exact h
  · dsimp only
    cases r with
    | ok t =>
      have ht' : t.Inv := hr
      dsimp only
      split
      · next e' => exact (ht'.translate ..).wait e'
      · next e' => exact (ht'.translate ..).fail e'
      · next e' =>
          have ht := (ht'.translate ..).ok e'
          exact Leaving.Inv.ite ht (Leaving.Inv.ite ht (Leaving.Inv.ite ht (Leaving.Inv.ite ht ht)))
    | wait t =>
      exact hr
    | sealed_ _ t =>
      exact hr
    | fail _ _ _ t =>
      exact hr

theorem State.Inv.writeEntry {s : State} (h : s.Inv) (e : SideEntry) : (s.writeEntry e).Inv :=
  (((h.underKey ..).writeLocs ..).clearPoison _).onMu (by rfl) (by rfl)

theorem State.Inv.performStore {s : State} (h : s.Inv) (e : SideEntry) : (s.performStore e).Inv := (h.writeEntry _).sideDrop _

theorem State.Inv.storeNow {s : State} (h : s.Inv) (e : SideEntry) : (s.storeNow e).Inv := by
  unfold State.storeNow
  split
  · next e' =>
      have ht := (h.leaveCheck ..).ok e'
      exact ht.writeEntry _
  · exact Stored.Inv.ite (h.sideAdd _) trivial

theorem State.Inv.sideStoreAs {s : State} (h : s.Inv) (sup : Bool) (x : StrandId) (cls : Nat) (coord : Coord) (keep atS stepped : Bool)
    (kind : SideKind) (scope : BitVec 3) (va : Nat) (bs : List (BitVec 8)) :
    (s.sideStoreAs sup x cls coord keep atS stepped kind scope va bs).Inv := by
  unfold State.sideStoreAs
  refine Stored.Inv.ite (Stored.Inv.foldl ?_ (fun r _ hr => ?_)) (Stored.Inv.ite (h.foldl (fun _ _ ht => ht.sideAdd _)) trivial)
  · exact h
  · cases r with
    | done t =>
      have ht' : t.Inv := hr
      exact ht'.storeNow _
    | full  =>
      exact hr

theorem State.Inv.sideStore {s : State} (h : s.Inv) (x : StrandId) (cls : Nat) (coord : Coord) (keep atS stepped : Bool) (kind : SideKind)
    (scope : BitVec 3) (va : Nat) (bs : List (BitVec 8)) :
    (s.sideStore x cls coord keep atS stepped kind scope va bs).Inv :=
  h.sideStoreAs ..

end Sys2Proof.Machine
end

section
/-!
PROOFS. The invariant (log 4, R101): operands, tiles, loads, stores and atomics, control and blocks.
-/
namespace Sys2Proof.Machine

/-! ## Operands -/

theorem State.Inv.load {s : State} (h : s.Inv) (x : StrandId) (ea : BitVec 64) (size : Nat) {k : List (BitVec 8) → State → Res}
    (hk : ∀ a t, t.Inv → (k a t).Inv) :
    (s.load x ea size k).Inv := by
  unfold State.load
  split
  · exact trivial
  · exact hk _ _ h
  · split
    · next e =>
        have ht := (h.readVirtual ..).ok e
        exact hk _ _ ht
    · next e => exact (h.readVirtual ..).wait e
    · exact trivial

theorem State.Inv.sideFull {s : State} (h : s.Inv) (x : StrandId) : (s.sideFull x).Inv := .ite h ((h.onSys (by rfl)).raiseAsync ..)

theorem State.Inv.store {s : State} (h : s.Inv) (x : StrandId) (ea : BitVec 64) (bs : List (BitVec 8)) (kind : SideKind)
    (scope : BitVec 3) {k : State → Res} (hk : ∀ t, t.Inv → (k t).Inv) :
    (s.store x ea bs kind scope k).Inv := by
  unfold State.store
  dsimp only
  split
  · exact trivial
  · split
    · next e =>
        have ht := (h.scratchStore ..).done e
        exact hk _ ht
    · exact h
  · split
    · next e => exact (h.checkWrite ..).wait e
    · exact trivial
    · next e =>
        have ht := (h.checkWrite ..).ok e
        refine Res.Inv.ite ht ?_
        split
        · next e =>
            have ht' := (ht.sideStore ..).done e
            exact hk _ ht'
        · exact ht.sideFull _

theorem State.Inv.refreshDie {s : State} (h : s.Inv) : s.refreshDie.Inv := by
  have hs : ((List.range 4).foldl (fun t e => t.deliverTo e) s).Inv := h.foldl fun _ _ ht => ht.deliverTo _
  exact hs.onMemories (foldl_keeps (P := (Memory.wf · = true)) (filter_wfFrom _ hs.mem) fun _ _ hm => cellSet_wf hm _ _) hs.scratch

theorem State.Inv.settleAll {s : State} (h : s.Inv) (readers : BitVec 4) : (s.settleAll readers).Inv :=
  .ite (h.settleStale ..) ((h.settleStale ..).onCore (by rfl))

theorem State.Inv.acquire {s : State} (h : s.Inv) (x : StrandId) (scope : Nat) : (s.acquire x scope).Inv :=
  (State.Inv.ite h.refreshDie h).settleAll _

theorem State.Inv.acquireAll {s : State} (h : s.Inv) : s.acquireAll.Inv := h.refreshDie.settleAll _

theorem State.Inv.putRing {s : State} (h : s.Inv) (r : RingAt) (ring : Ring) : (s.putRing r ring).Inv := h.onPk (by rfl) (by rfl)

theorem State.Inv.putSlot {s : State} (h : s.Inv) (r : RingAt) (idx : Nat) (t : SlotState) : (s.putSlot r idx t).Inv := h.scratchPut ..

theorem State.Inv.ringWait {s : State} (hs : s.Inv) (h : BitVec 4) (x : StrandId) (full : Bool) : (s.ringWait x h full).Inv :=
  hs.onStrand ..

theorem State.Inv.ringFound {s : State} (h : s.Inv) (x : StrandId) : (s.ringFound x).Inv := h.onStrand ..

theorem State.Inv.consumes {s : State} (h : s.Inv) (x : StrandId) (r : RingAt) : (s.consumes x r).Inv := .ite h (h.putRing ..)

theorem State.Inv.produces {s : State} (h : s.Inv) (x : StrandId) (r : RingAt) : (s.produces x r).Inv := .ite h (h.putRing ..)

theorem Res.Inv.slotAccess {s : State} (x : StrandId) (r : RingAt) (need : Need) (idx byte len : Nat) {res : Res} (hres : res.Inv) :
    (s.slotAccess x r need idx byte len res).Inv :=
  Res.Inv.ite hres trivial

theorem State.Inv.awaitSlots {s : State} (h : s.Inv) (x : StrandId) (r : RingAt) (from_ n byte len : Nat) {k : State → Res}
    (hk : ∀ t, t.Inv → (k t).Inv) : (s.awaitSlots x r from_ n byte len k).Inv := by
  unfold State.awaitSlots
  split
  · exact Res.Inv.fail ..
  · exact h.ringWait ..
  · generalize List.range n = slots
    induction slots with
    | nil => exact hk _ ((h.consumes ..).acquire ..)
    | cons i slots ih => exact Res.Inv.slotAccess _ _ _ _ _ _ ih

/-! ## Tiles -/

theorem State.Inv.keepPast {s : State} (h : s.Inv) (n : BitVec 6) : (s.keepPast n).Inv := h.onVec _

theorem State.Inv.putTile {s : State} (h : s.Inv) (n : BitVec 6) (t : Tile) : (s.putTile n t).Inv := (h.keepPast _).onVec _

theorem State.Inv.openTile {s : State} (h : s.Inv) (n : BitVec 6) : (s.openTile n).Inv := by
  unfold State.openTile
  refine State.Inv.putTile ?_ ..
  exact h.withCore (by rfl)

theorem State.Inv.snapTile {s : State} (h : s.Inv) (n : BitVec 6) : OptionInv (s.snapTile n) := by
  refine foldl_keeps (P := OptionInv) h fun o i ho => ?_
  cases o with
  | none => trivial
  | some t =>
    simp only [Option.bind_some]
    split
    · trivial
    · exact State.Inv.onVec ho _

theorem State.Inv.writeTile {s : State} (h : s.Inv) (n : BitVec 6) (t : Tile) {k : State → Res} (hk : ∀ t, t.Inv → (k t).Inv) :
    (s.writeTile n t k).Inv := by
  unfold State.writeTile
  split
  · exact h
  · next e =>
      have ht := (h.snapTile _).some e
      exact hk _ (ht.putTile ..)

theorem State.Inv.tileIn {s : State} (h : s.Inv) (n : BitVec 6) {k : Tile → State → Res} (hk : ∀ a t, t.Inv → (k a t).Inv) :
    (s.tileIn n k).Inv :=
  Res.Inv.ite h (hk _ _ h)

theorem State.Inv.tileSource {s : State} (h : s.Inv) (f : BitVec 7) (elems : Nat) {k : Tile → State → Res}
    (hk : ∀ a t, t.Inv → (k a t).Inv) :
    (s.tileSource f elems k).Inv := by
  unfold State.tileSource
  refine Res.Inv.ite (h.tileIn _ (fun _ _ ht => hk _ _ ht)) (Res.Inv.ite (Res.Inv.fail ..) ?_)
  split
  · exact Res.Inv.fail ..
  · exact h.awaitSlots _ _ _ _ _ _ (fun _ ht => hk _ _ ht)

theorem State.Inv.putMask {s : State} (h : s.Inv) (m : BitVec 3) (v : BitVec 1024) : (s.putMask m v).Inv := h.onVec _

/-! ## Loads -/

theorem State.Inv.loadItem {s : State} (h : s.Inv) (len : Nat) (d a : BitVec 6) (ea : BitVec 64) (size : Nat) (signed : Bool)
    (scope : Option (BitVec 3)) :
    (loadItem s len d a ea size signed scope).Inv := by
  unfold Machine.loadItem
  refine h.runItem (h.load _ _ _ (fun _ _ ht => State.Inv.putReg ?_ ..))
  split
  · exact ht.acquire ..
  · exact ht

theorem State.Inv.plainLoad {s : State} (h : s.Inv) (d a : BitVec 6) (i : BitVec 10) (size : Nat) (signed : Bool) :
    (plainLoad s d a i size signed).Inv :=
  h.loadItem ..

theorem State.Inv.acquireLoad {s : State} (h : s.Inv) (d a : BitVec 6) (sc : BitVec 3) (i : BitVec 7) (size : Nat) :
    (acquireLoad s d a sc i size).Inv :=
  h.loadItem ..

theorem State.Inv.storeItem {s : State} (h : s.Inv) (len : Nat) (d a : BitVec 6) (ea : BitVec 64) (size : Nat) (scope : Option (BitVec 3)) :
    (storeItem s len d a ea size scope).Inv := by
  unfold Machine.storeItem
  refine h.runItem ?_
  split
  · exact h.store _ _ _ _ _ (fun _ ht => ht)
  · exact Res.Inv.ite (h.store _ _ _ _ _ (fun _ ht => ht)) h

/-! ## Atomics -/

theorem State.Inv.issueAtomic {s : State} (h : s.Inv) (x : StrandId) (fn0 : Nat) (amod : BitVec 2) (d a b : BitVec 6) :
    (s.issueAtomic x fn0 amod d a b).Inv := by
  unfold State.issueAtomic
  dsimp only
  split
  · exact trivial
  · split
    · next e =>
        have ht := (h.scratchStore ..).done e
        exact (ht.addFlags ..).putReg ..
    · exact h
  · split
    · next e => exact (h.checkWrite ..).wait e
    · exact trivial
    · next e =>
        have ht := (h.checkWrite ..).ok e
        exact Res.Inv.ite ((ht.sideAdd _).onStrand ..) (ht.sideFull _)

theorem State.Inv.atomicResult {s : State} (h : s.Inv) (x : StrandId) (w : AmoWait) : (s.atomicResult x w).Inv := by
  unfold State.atomicResult
  split
  · exact trivial
  · exact ((h.onStrand ..).addFlags ..).putReg ..
  · exact h

theorem State.Inv.atomic {s : State} (h : s.Inv) (fn : Nat) (amod : BitVec 2) (d a b : BitVec 6) : (atomic s fn amod d a b).Inv := by
  unfold Machine.atomic
  refine h.runItem ?_
  split
  · exact h.atomicResult ..
  · exact h.issueAtomic ..

theorem State.Inv.beforeAtomic {s : State} (h : s.Inv) (locs : List Loc) : (s.beforeAtomic locs).Inv := by
  unfold State.beforeAtomic
  split
  · exact h.deliverFrom ..
  · exact h

theorem State.Inv.writeAtHome {s : State} (h : s.Inv) (cls : Nat) (locs : List Loc) (bs : List (BitVec 8)) :
    (s.writeAtHome cls locs bs).Inv := by
  unfold State.writeAtHome
  split
  · exact ((h.writeLocs ..).deliverFrom ..).settleStale ..
  · exact h.writeLocs ..

theorem State.Inv.tellWaiter {s : State} (h : s.Inv) (x : StrandId) (id : Nat) (f : AmoWait → AmoWait) : (s.tellWaiter x id f).Inv :=
  h.onStrand ..

theorem State.Inv.performAtomic {s : State} (h : s.Inv) (e : SideEntry) : (s.performAtomic e).Inv := by
  unfold State.performAtomic
  dsimp only
  split
  · exact ((((h.beforeAtomic _).underKey ..).writeAtHome ..).sideDrop _).tellWaiter ..
  · split
    · exact (h.beforeAtomic _).underKey ..
    · next e' =>
        have ht := (((h.beforeAtomic _).underKey ..).snapTile _).some e'
        exact ((((ht.writeAtHome ..).sideDrop _).addFlags ..).keepPast _).onVec _

theorem State.Inv.farAtomic {s : State} (h : s.Inv) (fn : Nat) (amod : BitVec 2) (cls pa : Nat) (x d : BitVec 64) :
    (s.farAtomic fn amod cls pa x d).Inv :=
  (h.deliverTo _).writeLocs ..

theorem State.Inv.leaveFails {s : State} (h : s.Inv) (e : SideEntry) (c : BitVec 6) (bits : BitVec 64) (va : Nat) :
    (s.leaveFails e c bits va).Inv := by
  unfold State.leaveFails
  refine .ite ?_ (.ite ((h.sideDrop _).raiseEngine ..) ((h.sideSet ..).raiseEngine ..))
  dsimp only
  split
  · exact .ite (((h.sideDrop _).tellWaiter ..).finish trivial) ((h.sideDrop _).tellWaiter ..)
  · exact (h.sideDrop _).tellWaiter ..

theorem State.Inv.freeImages {s : State} (h : s.Inv) (keep : CutImage → Bool) : (s.freeImages keep).Inv :=
  .ite h (((h.foldl (fun _ _ ht => ht.onStrand ..)).onVec _).onMat _)

theorem State.Inv.raiseHorizon {s : State} (hs : s.Inv) (h : Nat) : (s.raiseHorizon h).Inv :=
  (((((((hs.onQu _).onCore (by rfl)).syncOverflow).freeImages _).slagFree _).onMat _).foldl (fun _ ⟨_, _⟩ ht => ht.sendNotice _)).onPk
    (by rfl) (by rfl)

/-! ## Control items -/

theorem State.Inv.continueAt {s : State} (h : s.Inv) (x : StrandId) (target : Int) {k : State → State} (hk : ∀ t, t.Inv → (k t).Inv) :
    (s.continueAt x target k).Inv :=
  Res.Inv.ite (Res.Inv.fail ..) (Res.Inv.ite (Res.Inv.fail ..)
    (Res.Inv.ite ((hk _ h).onStrand ..) (Res.Inv.ite ((hk _ h).onStrand ..) (Res.Inv.fail ..))))

theorem State.Inv.branch {w : Nat} {s : State} (h : s.Inv) (len : Nat) (c : BitVec 4) (disp : BitVec w) : (branch s len c disp).Inv :=
  h.runItem (Res.Inv.ite (h.continueAt _ _ (fun _ ht => ht)) h)

theorem State.Inv.putCalls {s : State} (h : s.Inv) (x : StrandId) (l : List CallEntry) : (s.putCalls x l).Inv :=
  .ite (h.onSys (by rfl)) (h.onStrand ..)

theorem State.Inv.callTo {s : State} (h : s.Inv) (x : StrandId) (target : Int) : (s.callTo x target).Inv :=
  Res.Inv.ite (Res.Inv.fail ..) (h.continueAt _ _ (fun _ ht => ht.putCalls ..))

theorem State.Inv.ret {s : State} (h : s.Inv) (len : Nat) : (ret s len).Inv := by
  unfold Machine.ret
  refine h.runItem ?_
  split
  · exact Res.Inv.fail ..
  · exact Res.Inv.ite (Res.Inv.fail ..) (Res.Inv.ite (Res.Inv.fail ..) ((h.putCalls ..).onStrand ..))

theorem State.Inv.stopBy {s : State} (h : s.Inv) (x : StrandId) (len : Nat) (r : Run) : (s.stopBy x len r).Inv :=
  Res.Inv.ite (Res.Inv.fail ..) (Res.Inv.ite (Res.Inv.fail ..) (h.onStrand ..))

theorem State.Inv.pauseFor {s : State} (h : s.Inv) (len n : Nat) : (pauseFor s len n).Inv :=
  h.runItem (Res.Inv.ite (Res.Inv.fail ..) (State.Inv.ite h (h.onStrand ..)))

theorem State.Inv.changeBy {s : State} (h : s.Inv) (x : StrandId) (len : Nat) (c : Coord) : (s.changeBy x len c).Inv :=
  Res.Inv.ite h ((h.onStrand ..).changeCoord ..)

theorem State.Inv.advance {s : State} (h : s.Inv) (len : Nat) (j : BitVec 3) : (advance s len j).Inv :=
  h.runItem (Res.Inv.ite (Res.Inv.fail ..) (Res.Inv.ite (Res.Inv.fail ..) (Res.Inv.ite (Res.Inv.fail ..) (h.changeBy ..))))

theorem State.Inv.readCoord {s : State} (h : s.Inv) (len : Nat) (d : BitVec 6) (j : BitVec 3) : (readCoord s len d j).Inv :=
  h.runItem (Res.Inv.ite (Res.Inv.fail ..) (h.putReg ..))

/-! ## Blocks and bundles -/

theorem State.Inv.takeCarry {s : State} (hs : s.Inv) (h : BitVec 16) (x : StrandId) : (s.takeCarry x h).Inv := by
  unfold State.takeCarry
  dsimp only
  split
  · split
    · exact hs.onVec _
    · exact hs
  · split
    · exact hs.onMat _
    · exact hs
  · exact hs

theorem State.Inv.toNextHeader {s : State} (h : s.Inv) (x : StrandId) : (s.toNextHeader x).Inv := h.onStrand ..

theorem State.Inv.entryYield {s : State} (h : s.Inv) (x : StrandId) (y : Bool) : (s.entryYield x y).Inv := .ite (h.yieldPoint _) h

theorem State.Inv.beginBody {s : State} (h : s.Inv) (x : StrandId) (count : BitVec 32) : (s.beginBody x count).Inv :=
  (h.takeCarry ..).onStrand ..

theorem State.Inv.headerTrap {s : State} (h : s.Inv) (x : StrandId) (c : BitVec 6) (detail : BitVec 64) : (s.headerTrap x c detail).Inv :=
  (h.raisePrecise ..).withCore (by rfl)

theorem State.Inv.nextRepetition {s : State} (h : s.Inv) (x : StrandId) (c : Option Coord) : (s.nextRepetition x c).Inv := by
  unfold State.nextRepetition
  dsimp only
  split
  · exact (h.onStrand ..).changeCoord ..
  · exact h.onStrand ..

theorem State.Inv.endRepetition {s : State} (h : s.Inv) (x : StrandId) : (s.endRepetition x).Inv := by
  unfold State.endRepetition
  refine .ite ((h.toNextHeader _).withCore (by rfl)) ?_
  split
  · exact h.headerTrap ..
  · exact ((h.nextRepetition ..).entryYield ..).withCore (by rfl)
  · exact .ite (((h.nextRepetition ..).entryYield ..).withCore (by rfl)) (h.withCore (by rfl))

theorem State.Inv.enterBlock {s : State} (h : s.Inv) (x : StrandId) : (s.enterBlock x).Inv := by
  unfold State.enterBlock
  refine .ite (h.headerTrap ..) ?_
  split
  · exact h.headerTrap ..
  · refine .ite ((State.Inv.ite h (h.onStrand ..)).withCore (by rfl)) ?_
    split
    · exact h.headerTrap ..
    · exact .ite ((h.toNextHeader _).withCore (by rfl)) (((h.beginBody ..).entryYield ..).withCore (by rfl))

theorem State.Inv.endLockstep {s : State} (h : s.Inv) : s.endLockstep.Inv := h.foldl (fun _ _ ht => ht.onStrand ..)

theorem State.Inv.badBlocks {s : State} (h : s.Inv) (p : StrandId → Bool) : (s.badBlocks p).Inv :=
  h.foldl (fun _ _ ht => (ht.onStrand ..).headerTrap ..)

theorem State.Inv.meet {s : State} (h : s.Inv) : s.meet.Inv := by
  unfold State.meet
  dsimp only
  split
  · exact (h.onStrand ..).headerTrap ..
  · exact .ite (h.badBlocks _) (h.foldl (fun _ _ ht => State.Inv.ite ((ht.onStrand ..).toNextHeader _)
      ((((ht.onStrand ..).beginBody ..).onStrand ..).entryYield ..)))

theorem State.Inv.endBundleRepetition {s : State} (h : s.Inv) : s.endBundleRepetition.Inv := by
  unfold State.endBundleRepetition
  refine .ite (h.endLockstep.foldl (fun _ _ ht => ht.toNextHeader _)) ?_
  dsimp only
  split
  · exact h.headerTrap ..
  · exact .ite (h.foldl (fun _ ⟨_, _⟩ ht => (ht.nextRepetition ..).entryYield ..)) (h.withCore (by rfl))

end Sys2Proof.Machine
end

section
/-!
PROOFS. The invariant (log 4, R101): domains, rings, streams, and the row and chain engines.
-/
namespace Sys2Proof.Machine

/-! ## The outcomes of a read by an engine -/

def Parts.Inv : Parts → Prop
  | .ok _ s | .wait s | .fail _ _ _ _ s => s.Inv

theorem Parts.Inv.ok {g : Parts} {got t} (h : g.Inv) (e : g = .ok got t) : State.Inv t := by subst e; exact h
theorem Parts.Inv.wait {g : Parts} {t} (h : g.Inv) (e : g = .wait t) : State.Inv t := by subst e; exact h
theorem Parts.Inv.fail {g : Parts} {p got c b t} (h : g.Inv) (e : g = .fail p got c b t) : State.Inv t := by subst e; exact h
def Inputs.Inv : Inputs → Prop
  | .ok _ s | .wait s | .fail _ _ _ s => s.Inv

theorem Inputs.Inv.ok {g : Inputs} {vs t} (h : g.Inv) (e : g = .ok vs t) : State.Inv t := by subst e; exact h
theorem Inputs.Inv.wait {g : Inputs} {t} (h : g.Inv) (e : g = .wait t) : State.Inv t := by subst e; exact h
theorem Inputs.Inv.fail {g : Inputs} {a c b t} (h : g.Inv) (e : g = .fail a c b t) : State.Inv t := by subst e; exact h
def UnitRun.Inv : UnitRun → Prop
  | .ok _ _ s | .wait s | .fail _ _ _ s => s.Inv

theorem UnitRun.Inv.ok {g : UnitRun} {bits fl t} (h : g.Inv) (e : g = .ok bits fl t) : State.Inv t := by subst e; exact h
theorem UnitRun.Inv.wait {g : UnitRun} {t} (h : g.Inv) (e : g = .wait t) : State.Inv t := by subst e; exact h
theorem UnitRun.Inv.fail {g : UnitRun} {a c b t} (h : g.Inv) (e : g = .fail a c b t) : State.Inv t := by subst e; exact h
/-! ## Barriers and domains -/

theorem State.Inv.fence {s : State} (h : s.Inv) (scope : BitVec 3) (acq rel : Bool) : (fence s scope acq rel).Inv :=
  h.runItem (Res.Inv.ite h (State.Inv.ite (h.acquire ..) h))

theorem State.Inv.settlePaths {s : State} (h : s.Inv) (w y : BitVec 5) : (s.settlePaths w y).Inv := (h.settleStale ..).onCore (by rfl)

theorem State.Inv.flipPhase {s : State} (h : s.Inv) (x : StrandId) (l : BitVec 3) : (s.flipPhase x l).Inv := h.onStrand ..

theorem State.Inv.passPhase {s : State} (h : s.Inv) (l : BitVec 3) (x : StrandId) : (s.passPhase l x).Inv :=
  (State.Inv.ite ((h.flipPhase ..).onStrand ..) (h.flipPhase ..)).onPk (by rfl) (by rfl)

/-! ## Rings -/

theorem Res.Inv.withRing {s : State} (h : BitVec 4) {k : RingAt → Res} (hk : ∀ r, (k r).Inv) : (s.withRing h k).Inv := by
  unfold State.withRing
  split
  · exact Res.Inv.fail ..
  · exact hk _

theorem State.Inv.waitFull {s : State} (hs : s.Inv) (h : BitVec 4) (x : StrandId) (n : Nat) : (s.waitFull x h n).Inv :=
  Res.Inv.withRing _ (fun _ => Res.Inv.ite (Res.Inv.fail ..) (hs.awaitSlots _ _ _ _ _ _ (fun _ ht => ht)))

theorem State.Inv.waitEmpty {s : State} (hs : s.Inv) (h : BitVec 4) (x : StrandId) (n : Nat) : (s.waitEmpty x h n).Inv :=
  Res.Inv.withRing _ (fun _ => Res.Inv.ite (Res.Inv.fail ..) (Res.Inv.ite (hs.acquire ..) (hs.ringWait ..)))

theorem State.Inv.advanceConsumer {s : State} (hs : s.Inv) (h : BitVec 4) (x : StrandId) (n : Nat) : (s.advanceConsumer x h n).Inv :=
  Res.Inv.withRing _ (fun _ => Res.Inv.ite (Res.Inv.fail ..) (Res.Inv.ite (Res.Inv.fail ..)
    (Res.Inv.ite (hs.ringFound _) ((hs.foldl (fun _ _ ht => ht.putSlot ..)).putRing ..))))

theorem State.Inv.advanceProducer {s : State} (hs : s.Inv) (h : BitVec 4) (x : StrandId) (n : Nat) : (s.advanceProducer x h n).Inv :=
  Res.Inv.withRing _ (fun _ => Res.Inv.ite (Res.Inv.fail ..) (Res.Inv.ite (Res.Inv.fail ..)
    (Res.Inv.ite (Res.Inv.fail ..) (Res.Inv.ite (hs.ringWait ..)
    (Res.Inv.ite (hs.ringFound _) ((hs.foldl (fun _ ⟨_, _⟩ ht => ht.putSlot ..)).putRing ..))))))

theorem State.Inv.push {s : State} (hs : s.Inv) (h : BitVec 4) (x : StrandId) (o byte : Nat) (bs : List (BitVec 8)) :
    (s.push x h o byte bs).Inv := by
  unfold State.push
  refine Res.Inv.withRing _ (fun _ => Res.Inv.ite (Res.Inv.fail ..) (Res.Inv.slotAccess _ _ _ _ _ _ ?_))
  split
  · next e =>
      have ht := (hs.scratchStore ..).done e
      exact ht.produces ..
  · exact hs

theorem State.Inv.pop {s : State} (hs : s.Inv) (h : BitVec 4) (x : StrandId) (o byte n : Nat) {k : List (BitVec 8) → State → Res}
    (hk : ∀ a t, t.Inv → (k a t).Inv) :
    (s.pop x h o byte n k).Inv :=
  Res.Inv.withRing _ (fun _ => Res.Inv.ite (Res.Inv.fail ..) (hs.awaitSlots _ _ _ _ _ _ (fun _ ht => hk _ _ ht)))

theorem State.Inv.raiseStreamStall {s : State} (h : s.Inv) (q : BitVec 4) : (s.raiseStreamStall q).Inv := (h.onCore (by rfl)).raiseAsync ..

/-! ## Streams -/

theorem State.Inv.timedFault {s : State} (h : s.Inv) (d : BitVec 512) : (s.timedFault d).1.Inv := by
  refine foldl_keeps (P := fun r : State × Option (BitVec 64) => r.1.Inv) h fun r a hr => ?_
  obtain ⟨t, b⟩ := r
  have ht : t.Inv := hr
  cases b with
  | some b => exact ht
  | none =>
    dsimp only
    split
    · next e => exact (ht.translate ..).ok e
    · next e => exact (ht.translate ..).wait e
    · next e => exact (ht.translate ..).fail e

theorem State.Inv.startStream {s : State} (h : s.Inv) (q : BitVec 4) : (s.startStream q).Inv := by
  unfold State.startStream
  refine State.Inv.onCore ?_ (by rfl)
  split
  · exact h.putRing ..
  · exact h

theorem State.Inv.logPre {s : State} (h : s.Inv) (kind : SlagKind) (number : Nat) (mask : BitVec 64) (old : BitVec 512)
    (undo : ParcelUndo) :
    (s.logPre kind number mask old undo).Inv :=
  .ite (h.slagAdd _) h

theorem State.Inv.setDesc {s : State} (h : s.Inv) (q : BitVec 4) (v : BitVec 512) : (s.setDesc q v).Inv :=
  Res.Inv.ite (Res.Inv.fail ..) (Res.Inv.ite h ((h.logPre ..).onCore (by rfl)))

theorem State.Inv.putOctet {s : State} (h : s.Inv) (f : BitVec 6) (v : BitVec 512) : (s.putOctet f v).Inv :=
  h.foldl (fun _ _ ht => ht.putReg ..)

theorem Res.Inv.scratchAddr {s : State} (ea : BitVec 64) (need : Need) {k : Nat → BitVec 32 → Res} (hk : ∀ p a, (k p a).Inv) :
    (s.scratchAddr ea need k).Inv := by
  unfold State.scratchAddr
  refine Res.Inv.ite trivial ?_
  split
  · exact trivial
  · exact hk ..
  · exact trivial

theorem State.Inv.scratchBlock {s : State} (h : s.Inv) (ea : BitVec 64) (v : BitVec 512) : (s.scratchBlock ea v).Inv := by
  unfold State.scratchBlock
  refine Res.Inv.scratchAddr _ _ (fun _ _ => ?_)
  dsimp only
  split
  · next e => exact (h.scratchStore ..).done e
  · exact h

theorem State.Inv.engineRead {s : State} (h : s.Inv) (x : StrandId) (sup : Bool) (cls : Nat) (scratch : Bool) (a : BitVec 64) (n : Nat) :
    (s.engineRead x sup cls scratch a n).Inv := by
  unfold State.engineRead
  refine Got.Inv.ite ?_ (h.readVirtual ..)
  dsimp only
  split
  · exact h
  · exact h

theorem State.Inv.readParts {s : State} (h : s.Inv) (ps : List Part) (acc : List (List (BitVec 8))) : (s.readParts ps acc).Inv := by
  induction ps generalizing s acc with
  | nil => exact h
  | cons p rest ih =>
    unfold State.readParts
    split
    · next e => exact ih ((h.engineRead ..).ok e) _
    · next e => exact (h.engineRead ..).wait e
    · next e => exact (h.engineRead ..).fail e

theorem State.Inv.placeSlot {s : State} (h : s.Inv) (q : BitVec 4) (t : Stream) (r : RingAt) (i : Nat) (bs : List (BitVec 8)) :
    (s.placeSlot q t r i bs).Inv :=
  (State.Inv.ite (((State.Inv.ite ((h.scratchPut ..).onPk (by rfl) (by rfl)) (h.scratchPut ..)).putSlot ..).putRing ..)
    (((State.Inv.ite ((h.scratchPut ..).onPk (by rfl) (by rfl)) (h.scratchPut ..)).putSlot ..).putRing ..)).onCore (by rfl)

theorem State.Inv.streamFails {s : State} (h : s.Inv) (q : BitVec 4) (t : Stream) (u : Nat) (got : List (List (BitVec 8))) (a : BitVec 64)
    (c : BitVec 6) (bits : BitVec 64) :
    (s.streamFails q t u got a c bits).Inv :=
  (h.onCore (by rfl)).raiseEngine ..

theorem State.Inv.streamWaits {s : State} (h : s.Inv) (q : BitVec 4) (t : Stream) : (s.streamWaits q t).Inv := .ite h (h.onCore (by rfl))

theorem State.Inv.setTag {s : State} (h : s.Inv) (n : Nat) (v : BitVec 128) : (s.setTag n v).Inv := Res.Inv.ite h
    ((h.logPre ..).onCore (by rfl))

theorem State.Inv.tagItem {s : State} (h : s.Inv) (a : BitVec 6) {k : Nat → Res} (hk : ∀ a, (k a).Inv) : (tagItem s a k).Inv :=
  h.runItem (Res.Inv.ite (Res.Inv.fail ..) (hk _))

/-! ## Row commands and chain passes -/

theorem State.Inv.chainInputs {s : State} (h : s.Inv) (d : BitVec 2560) (e : Nat) (ts : List (BitVec 512)) (acc : List Flagged) :
    (s.chainInputs d e ts acc).Inv := by
  induction ts generalizing s acc with
  | nil => exact h
  | cons t rest ih =>
    unfold State.chainInputs
    dsimp only
    split
    · next eq => exact ih ((h.engineRead ..).ok eq) _
    · next eq => exact (h.engineRead ..).wait eq
    · next eq => exact (h.engineRead ..).fail eq

theorem State.Inv.chainUnit {s : State} (h : s.Inv) (d : BitVec 2560) (u : Nat) : (s.chainUnit d u).Inv := by
  refine foldl_keeps (P := UnitRun.Inv) h fun r j hr => ?_
  cases r with
  | ok bits fl t =>
    have ht : t.Inv := hr
    dsimp only
    split
    · next e => exact (ht.chainInputs ..).ok e
    · next e => exact (ht.chainInputs ..).wait e
    · next e => exact (ht.chainInputs ..).fail e
  | wait t => exact hr
  | fail a c b t => exact hr

theorem State.Inv.openUnit {s : State} (h : s.Inv) (d : BitVec 2560) (computed : BitVec 64) : (s.openUnit d computed).2.Inv := h.withCore
    (by rfl)

theorem State.Inv.openElems {s : State} (h : s.Inv) (d : BitVec 2560) (ins : List (Nat × List InputElem)) (u : Nat) (computed : BitVec 64) :
    (s.openElems d ins u computed).2.Inv := by
  unfold State.openElems
  dsimp only
  split
  · exact h.openUnit d computed
  · exact h

theorem State.Inv.engineWrite {s : State} (h : s.Inv) {x : StrandId} {cls : Nat} {c : Coord} {atS stepped scratch : Bool} {a : BitVec 64}
    {bs : List (BitVec 8)} {r : Stored} (e : s.engineWrite x cls c atS stepped scratch a bs = .ok r) : r.Inv := by
  unfold State.engineWrite at e
  dsimp only at e
  split at e
  · split at e
    · cases e
    · cases e
      exact h.scratchStore ..
  · split at e
    · cases e
    · cases e
      exact h.sideStoreAs ..

theorem State.Inv.setPass {s : State} (h : s.Inv) (p : ChainPass) : (s.setPass p).Inv := h.onCore (by rfl)

theorem State.Inv.passFails {s : State} (h : s.Inv) (p : ChainPass) (a : BitVec 64) (c : BitVec 6) (bits : BitVec 64) :
    (s.passFails p a c bits).Inv :=
  (h.setPass _).raiseEngine ..

theorem State.Inv.runPass {s : State} (h : s.Inv) (ins : List (Nat × List InputElem)) (p : ChainPass) (fuel : Nat) :
    (s.runPass ins p fuel).Inv := by
  induction fuel generalizing s p with
  | zero => exact h.onCore (by rfl)
  | succ fuel ih =>
    unfold State.runPass
    dsimp only
    split
    · next e => exact ((h.chainUnit ..).wait e).setPass _
    · next e => exact ((h.chainUnit ..).fail e).passFails ..
    · next bits fl t e =>
      have ht := ((h.chainUnit ..).ok e).openElems p.desc ins p.next (BitVec.ofNat 64 bits)
      split
      · exact ht.passFails ..
      · exact (State.Inv.ite ht (ht.sideFull _)).setPass _
      · next ew =>
        have hw := (ht.engineWrite ew).done rfl
        exact ih (hw.addFlags ..) _

theorem State.Inv.rowCommand {s : State} (h : s.Inv) (phase : Nat) (a : BitVec 6) (e : BitVec 17) : (rowCommand s phase a e).Inv :=
  h.runItem (Res.Inv.ite h (h.onCore (by rfl)))

theorem State.Inv.rowWrites {s : State} (h : s.Inv) (keep : Bool) (c : Coord) (parts : List (Nat × List (BitVec 8))) :
    OptionInv (s.rowWrites keep c parts) := by
  induction parts generalizing s with
  | nil => exact h
  | cons part rest ih =>
    obtain ⟨off, bs⟩ := part
    unfold State.rowWrites
    split
    · exact ih h
    · split
      · next e => exact ih ((h.scratchStore ..).done e)
      · trivial

theorem State.Inv.doRow {s : State} (h : s.Inv) (r : RowCommand) : OptionInv (s.doRow r) :=
  OptionInv.map (h.rowWrites ..) fun _ ht => ht.addFlags ..

end Sys2Proof.Machine
end

section
/-!
PROOFS. The invariant (log 4, R101): the matrix engine.
-/
namespace Sys2Proof.Machine

/-! ## The outcomes of the reads of an operation, and the checks of an item -/

def GroupOfA.Inv : GroupOfA → Prop
  | .ok _ _ s | .wait s | .fail _ _ _ s => s.Inv

theorem GroupOfA.Inv.ok {g : GroupOfA} {codes scale t} (h : g.Inv) (e : g = .ok codes scale t) : State.Inv t := by subst e; exact h
theorem GroupOfA.Inv.wait {g : GroupOfA} {t} (h : g.Inv) (e : g = .wait t) : State.Inv t := by subst e; exact h
theorem GroupOfA.Inv.fail {g : GroupOfA} {c b a t} (h : g.Inv) (e : g = .fail c b a t) : State.Inv t := by subst e; exact h
theorem GroupOfA.Inv.ite {c : Prop} [Decidable c] {g g' : GroupOfA} (hg : g.Inv) (hg' : g'.Inv) : (if c then g else g').Inv := by
  split
  · exact hg
  · exact hg'

def BlockRun.Inv : BlockRun → Prop
  | .ok _ s | .check _ _ s | .wait s | .fail _ _ _ s => s.Inv

theorem BlockRun.Inv.ok {g : BlockRun} {vs t} (h : g.Inv) (e : g = .ok vs t) : State.Inv t := by subst e; exact h
theorem BlockRun.Inv.check {g : BlockRun} {row w t} (h : g.Inv) (e : g = .check row w t) : State.Inv t := by subst e; exact h
theorem BlockRun.Inv.wait {g : BlockRun} {t} (h : g.Inv) (e : g = .wait t) : State.Inv t := by subst e; exact h
theorem BlockRun.Inv.fail {g : BlockRun} {c b a t} (h : g.Inv) (e : g = .fail c b a t) : State.Inv t := by subst e; exact h
/-- Checks in order, each with what it comes to where it fails. -/
def ChecksInv : List (Bool × Res) → Prop
  | [] => True
  | c :: rest => c.2.Inv ∧ ChecksInv rest

theorem ChecksInv.firstFail {l : List (Bool × Res)} (h : ChecksInv l) {r : Res} (e : firstFail l = some r) : r.Inv := by
  induction l with
  | nil => cases e
  | cons c rest ih =>
    obtain ⟨hc, hrest⟩ := h
    unfold Machine.firstFail at e
    split at e
    · cases e
      exact hc
    · exact ih hrest e

theorem Res.Inv.guarded {l : List (Bool × Res)} {k : Res} (hl : ChecksInv l) (hk : k.Inv) : (guarded l k).Inv := by
  unfold Machine.guarded
  cases e : firstFail l with
  | none => exact hk
  | some r => exact hl.firstFail e

/-! ## Matrix -/

theorem State.Inv.placeQuantum {s t : State} (h : s.Inv) {b : IdleBank} {l : List (BitVec 32)} (e : s.placeQuantum b l = some t) :
    t.Inv := by
  unfold State.placeQuantum at e
  split at e
  · cases e
    exact h.onMat _
  · cases hb : s.core.vec.freeBank with
    | none => simp [hb] at e
    | some n =>
      simp only [hb, Option.map_some, Option.some.injEq] at e
      subst e
      exact h.onVec _

theorem State.Inv.snapQuanta {s : State} (h : s.Inv) (key : Nat) (z : BitVec 3) (qs : List Nat) : OptionInv (s.snapQuanta key z qs) := by
  refine foldl_keeps (P := OptionInv) h fun o ⟨q, i⟩ ho => ?_
  cases o with
  | none => trivial
  | some t =>
    have ht : t.Inv := ho
    simp only [Option.bind_some]
    split
    · exact ht
    · generalize e : t.placeQuantum _ _ = placed
      cases placed with
      | none => trivial
      | some u => exact ht.placeQuantum e

theorem State.Inv.openAcc {s : State} (h : s.Inv) (z : Nat) : (s.openAcc z).Inv := by
  unfold State.openAcc
  refine State.Inv.onMat ?_ _
  exact h.withCore (by rfl)

theorem State.Inv.moveSnaps {s : State} (h : s.Inv) (zs : BitVec 8) : (s.moveSnaps zs).Inv := by
  unfold State.moveSnaps
  refine h.foldl (fun _ ⟨_, _⟩ ht => ?_)
  dsimp only
  split
  · exact ht
  · exact (ht.onVec _).onMat _

theorem State.Inv.putMcarry {s : State} (h : s.Inv) (v : BitVec 64) : (s.putMcarry v).1.Inv := by
  unfold State.putMcarry
  dsimp only
  split
  · exact h.moveSnaps _
  · exact State.Inv.onMat (State.Inv.foldl (h.moveSnaps _) fun _ _ ht => .ite (ht.openAcc _) ht) _

theorem State.Inv.requestUnits {s : State} (h : s.Inv) (n : Nat) (c : Coord) : (s.requestUnits n c).Inv := .ite h (h.onMat _)

theorem State.Inv.pushMatrix {s : State} (h : s.Inv) (o : MatrixOp) : (s.pushMatrix o).Inv := h.onMat _

theorem State.Inv.setHead {s : State} (h : s.Inv) (o : MatrixOp) : (s.setHead o).Inv := h.onMat _

theorem State.Inv.popMatrix {s : State} (h : s.Inv) (o : MatrixOp) : (s.popMatrix o).Inv := by
  unfold State.popMatrix
  dsimp only
  split
  · exact (h.onMat _).onPk (by rfl) (by rfl)
  · exact h.onMat _

theorem State.Inv.matrixFails {s : State} (h : s.Inv) (o : MatrixOp) (c : BitVec 6) (detail addr : BitVec 64) :
    (s.matrixFails o c detail addr).Inv :=
  (h.setHead _).raiseEngine ..

theorem State.Inv.opWrite {s : State} (h : s.Inv) {o : MatrixOp} {a : BitVec 64} {bs : List (BitVec 8)} {r : Stored}
    (e : s.opWrite o a bs = .ok r) : r.Inv := by
  unfold State.opWrite at e
  split at e
  · dsimp only at e
    split at e
    · cases e
    · cases e
      exact h.scratchStore ..
  · cases e
    exact h.sideStoreAs ..

theorem State.Inv.groupOfA {s : State} (h : s.Inv) (o : MatrixOp) (i k : Nat) : (s.groupOfA o i k).Inv := by
  unfold State.groupOfA
  refine GroupOfA.Inv.ite ?_ ?_
  · dsimp only
    split
    · exact h
    · exact h
  · dsimp only
    split
    · next e => exact (h.engineRead ..).wait e
    · next e => exact (h.engineRead ..).fail e
    · next e =>
        have ht := (h.engineRead ..).ok e
        refine GroupOfA.Inv.ite ht ?_
        split
        · next e => exact (ht.engineRead ..).wait e
        · next e => exact (ht.engineRead ..).fail e
        · next e => exact (ht.engineRead ..).ok e

theorem State.Inv.loadBlock {s : State} (h : s.Inv) (p : Nat) (o : MatrixOp) (b : Nat) : (s.loadBlock p o b).Inv := h.onMat _

theorem State.Inv.formBlock {s : State} (h : s.Inv) (o : MatrixOp) (k : Nat) : (s.formBlock o k).Inv := by
  refine foldl_keeps (P := BlockRun.Inv) h fun r i hr => ?_
  cases r with
  | ok vs t =>
    have ht : t.Inv := hr
    dsimp only
    split
    · next e => exact (ht.groupOfA ..).wait e
    · next e => exact (ht.groupOfA ..).fail e
    · next e =>
      split
      · exact (ht.groupOfA ..).ok e
      · exact (ht.groupOfA ..).ok e
  | check row w t => exact hr
  | wait t => exact hr
  | fail c b a t => exact hr

theorem State.Inv.commitSnaps {s : State} (h : s.Inv) (o : MatrixOp) (first : Bool) (vs : List (List Val)) :
    (s.commitSnaps o first vs).Inv := by
  unfold State.commitSnaps
  refine State.Inv.foldl (h.foldl fun _ ⟨_, b⟩ ht => ?_) fun _ ⟨_, b⟩ ht => ?_
  · cases b with
    | accSnap z q i =>
      dsimp only
      split
      · exact ht.onVec _
      · exact ht
    | _ => exact ht
  · cases b with
    | accSnap z q i =>
      dsimp only
      split
      · exact ht.onMat _
      · exact ht
    | _ => exact ht

theorem State.Inv.commitBlock {s : State} (h : s.Inv) (o : MatrixOp) (first : Bool) (vs : List (List Val)) :
    OptionInv (s.commitBlock o first vs) := by
  refine OptionInv.map (OptionInv.ite ?_ (h.snapQuanta ..)) fun _ ht => ht.onMat _
  exact (h.commitSnaps ..).onMat _

theorem State.Inv.blockDone {s : State} (h : s.Inv) (o : MatrixOp) : (s.blockDone o).Inv :=
  .ite ((State.Inv.ite (h.onMat _) h).popMatrix _) ((State.Inv.ite (h.onMat _) h).setHead _)

theorem State.Inv.writeRows {s : State} (h : s.Inv) (o : MatrixOp) (rows stride : Nat) (row : State → Nat → List (BitVec 8) × Flags5)
    {clear : State → Nat → Option State} (hclear : ∀ t i, t.Inv → OptionInv (clear t i)) (fuel : Nat) :
    (s.writeRows o rows stride row clear fuel).Inv := by
  induction fuel generalizing s with
  | zero => exact h.popMatrix _
  | succ fuel ih =>
    unfold State.writeRows
    dsimp only
    split
    · exact h.matrixFails ..
    · exact (State.Inv.ite h (h.sideFull _)).setHead _
    · next e =>
      have ht := (h.opWrite e).done rfl
      split
      · exact h.setHead _
      · next ec => exact ih (((hclear _ _ ht).some ec).addFlags ..)

theorem State.Inv.runDrain {s : State} (h : s.Inv) (o : MatrixOp) : (s.runDrain o).Inv := by
  refine State.Inv.writeRows h _ _ _ _ (fun t i ht => ?_) _
  refine OptionInv.ite ht (OptionInv.map (OptionInv.ite ht ?_) fun _ hu => hu.onMat _)
  exact ht.snapQuanta ..

theorem State.Inv.runSpill {s : State} (h : s.Inv) (o : MatrixOp) : (s.runSpill o).Inv :=
  State.Inv.writeRows (clear := fun t _ => some t) h _ _ _ _ (fun _ _ ht => ht) _

theorem State.Inv.runFill {s : State} (h : s.Inv) (o : MatrixOp) (fuel : Nat) : (s.runFill o fuel).Inv := by
  induction fuel generalizing s with
  | zero => exact h.popMatrix _
  | succ fuel ih =>
    unfold State.runFill
    dsimp only
    split
    · next e => exact ((h.engineRead ..).wait e).setHead _
    · next e => exact ((h.engineRead ..).fail e).matrixFails ..
    · next e =>
      have ht := (h.engineRead ..).ok e
      have snaps (key : Nat) (z : BitVec 3) (qs : List Nat) : OptionInv (if o.atS then some _ else State.snapQuanta _ key z qs) :=
        OptionInv.ite ht (ht.snapQuanta ..)
      split
      · exact ht.setHead _
      · next es => exact ih (((snaps ..).some es).onMat _)

theorem State.Inv.countSums {s : State} (h : s.Inv) (o : MatrixOp) (n : Nat) : (s.countSums o n).Inv := h.onMat _

theorem State.Inv.runWhole {s : State} (h : s.Inv) (o : MatrixOp) : (s.runWhole o).Inv := by
  have snaps (key : Nat) (z : BitVec 3) (qs : List Nat) : OptionInv (if o.atS then some s else s.snapQuanta key z qs) :=
    OptionInv.ite h (h.snapQuanta ..)
  unfold State.runWhole
  split
  · split
    · exact h
    · next e => exact (((snaps ..).some e).onMat _).popMatrix _
  · exact h.runDrain _
  · exact h.runSpill _
  · exact h.runFill ..
  · exact ((h.countSums ..).popMatrix _).tellWaiter ..
  · exact h

theorem State.Inv.beginOp {s : State} (h : s.Inv) (o : MatrixOp) : (s.beginOp o).Inv := by
  unfold State.beginOp
  dsimp only
  split
  · exact .ite ((h.setHead _).onMat _) (h.setHead _)
  · exact .ite ((h.setHead _).onMat _) (h.setHead _)
  · exact (h.setHead _).onMat _
  · exact h.setHead _
  · exact (h.setHead _).onMat _

/-! ## Items of strand M -/

theorem State.Inv.queueOp {s : State} (h : s.Inv) (o : MatrixOp) : (s.queueOp o).Inv := Res.Inv.ite (h.pushMatrix _) h

theorem State.Inv.queueSlots {s : State} (h : s.Inv) (d : BitVec 512) (r : RingAt) (o n : Nat) {k : SlotSpan → State → State}
    (hk : ∀ a t, t.Inv → (k a t).Inv) :
    (s.queueSlots d r o n k).Inv :=
  Res.Inv.ite h (h.awaitSlots _ _ _ _ _ _ (fun _ ht => hk _ _ ht))

theorem ChecksInv.mmaChecks (s : State) (z : BitVec 3) (q : BitVec 4) (w : BitVec 64) (coop owner : Bool) (fmt : Nat) :
    ChecksInv (s.mmaChecks z q w coop owner fmt) :=
  ⟨trivial, trivial, trivial, trivial, trivial, trivial, trivial, trivial⟩

theorem ChecksInv.mmaLate (s : State) (w : BitVec 64) (fmt : Nat) (spv : Bool) (h : BitVec 512) : ChecksInv (s.mmaLate w fmt spv h) :=
  ⟨trivial, trivial, trivial, trivial⟩

theorem State.Inv.meetPeers {s : State} (h : s.Inv) (z : BitVec 3) (w : BitVec 64) {k : List PeerOffer → Res} (hk : ∀ a, (k a).Inv) :
    (s.meetPeers z w k).Inv := by
  unfold State.meetPeers
  refine Res.Inv.ite trivial (Res.Inv.ite trivial (Res.Inv.ite trivial ?_))
  split
  · exact h
  · exact Res.Inv.ite (hk _) trivial

theorem State.Inv.dropOffers {s : State} (h : s.Inv) (w : BitVec 64) : (s.dropOffers w).Inv := .ite (h.onMat _) h

theorem State.Inv.multiply {s : State} (h : s.Inv) (coop : Bool) (fz fq fs : BitVec 7) : (multiply s coop fz fq fs).Inv := by
  unfold Machine.multiply
  refine h.runItem (Res.Inv.guarded (ChecksInv.mmaChecks ..) (Res.Inv.ite trivial ?_))
  split
  · exact trivial
  · exact Res.Inv.guarded (⟨trivial, ChecksInv.mmaLate ..⟩) (Res.Inv.ite
      (h.meetPeers _ _ (fun _ => h.queueSlots _ _ _ _ (fun _ _ ht => (ht.onMat _).pushMatrix _)))
      (h.queueSlots _ _ _ _ (fun _ _ ht => ht.pushMatrix _)))

theorem Res.Inv.inBounds {s : State} (p : Nat) (w : BitVec 32) (need : Need) (size len : Nat) (a : BitVec 64) {k : Res} (hk : k.Inv) :
    (s.inBounds p w need size len a k).Inv :=
  Res.Inv.ite hk trivial

theorem State.Inv.checkRow {s : State} (h : s.Inv) (size len : Nat) (a : BitVec 64) {k : State → Res} (hk : ∀ t, t.Inv → (k t).Inv) :
    (s.checkRow size len a k).Inv := by
  unfold State.checkRow
  split
  · exact trivial
  · exact Res.Inv.inBounds _ _ _ _ _ _ (hk _ h)
  · refine Res.Inv.ite trivial ?_
    split
    · next e => exact (h.checkWrite ..).wait e
    · exact trivial
    · next e =>
        have ht := (h.checkWrite ..).ok e
        exact hk _ ht

theorem State.Inv.checkRows {s : State} (h : s.Inv) (size len stride : Nat) (a : BitVec 64) (n : Nat) {k : State → Res}
    (hk : ∀ t, t.Inv → (k t).Inv) : (s.checkRows size len stride a n k).Inv := by
  induction n generalizing s a with
  | zero => exact hk _ h
  | succ n ih => exact h.checkRow _ _ _ fun t ht => ih ht _

theorem State.Inv.drawAhead {s : State} (h : s.Inv) (a : BitVec 7) (waits : Bool) : (drawAhead s a waits).Inv :=
  h.runItem (Res.Inv.ite trivial (Res.Inv.ite trivial (Res.Inv.ite (h.onMat _)
    (Res.Inv.ite ((h.requestUnits ..).onMat _) ((h.requestUnits ..).onMat _)))))

end Sys2Proof.Machine
end

section
/-!
PROOFS. The invariant (log 4, R101): parcels and copy engines.
-/
namespace Sys2Proof.Machine

/-! ## The outcomes of an access by a copy engine -/

def Places.Inv : Places → Prop
  | .ok _ s | .wait s | .fail _ _ _ s => s.Inv

theorem Places.Inv.ok {g : Places} {ls t} (h : g.Inv) (e : g = .ok ls t) : State.Inv t := by subst e; exact h
theorem Places.Inv.wait {g : Places} {t} (h : g.Inv) (e : g = .wait t) : State.Inv t := by subst e; exact h
theorem Places.Inv.fail {g : Places} {c b va t} (h : g.Inv) (e : g = .fail c b va t) : State.Inv t := by subst e; exact h
theorem Places.Inv.ite {c : Prop} [Decidable c] {g g' : Places} (hg : g.Inv) (hg' : g'.Inv) : (if c then g else g').Inv := by
  split
  · exact hg
  · exact hg'
theorem Places.Inv.foldl {α : Type} {f : Places → α → Places} {g : Places} (h : g.Inv) {l : List α}
    (hf : ∀ g a, g.Inv → (f g a).Inv) : (l.foldl f g).Inv :=
  foldl_keeps h hf

def ChainWrote.Inv : ChainWrote → Prop
  | .done s | .wait s | .fail _ _ _ s => s.Inv

theorem ChainWrote.Inv.done {g : ChainWrote} {t} (h : g.Inv) (e : g = .done t) : State.Inv t := by subst e; exact h
theorem ChainWrote.Inv.wait {g : ChainWrote} {t} (h : g.Inv) (e : g = .wait t) : State.Inv t := by subst e; exact h
theorem ChainWrote.Inv.fail {g : ChainWrote} {c b a t} (h : g.Inv) (e : g = .fail c b a t) : State.Inv t := by subst e; exact h
theorem ChainWrote.Inv.ite {c : Prop} [Decidable c] {g g' : ChainWrote} (hg : g.Inv) (hg' : g'.Inv) : (if c then g else g').Inv := by
  split
  · exact hg
  · exact hg'
/-! ## Parcels -/

theorem State.Inv.forget {s : State} (h : s.Inv) (va bytes : Nat) : (s.forget va bytes).Inv := h.onMu (by rfl) (by rfl)

theorem State.Inv.logParcel {s : State} (h : s.Inv) (x : StrandId) (loc : Nat) (old : BitVec 128) (undo : ParcelUndo) :
    (s.logParcel x loc old undo).Inv :=
  .ite (h.slagAdd _) h

theorem State.Inv.putParcel {s : State} (h : s.Inv) (x : StrandId) (pid : Nat) (p : Parcel) (keepGen : Bool) :
    (s.putParcel x pid p keepGen).Inv :=
  (h.logParcel ..).onPk (by rfl) (by rfl)

theorem State.Inv.putLeaves {s : State} (h : s.Inv) (x : StrandId) (va n : Nat) (l : List (Nat × BitVec 128 × BitVec 128)) :
    (s.putLeaves x va n l).Inv :=
  (h.foldl (fun _ ⟨_, _⟩ ht => (ht.logParcel ..).physPut ..)).forget ..

theorem Res.Inv.byHandle {s : State} (h : BitVec 64) {k : Parcel → Res} (hk : ∀ p, (k p).Inv) : (s.byHandle h k).Inv :=
  Res.Inv.ite (Res.Inv.fail ..) (hk _)

theorem Res.Inv.openFault {s : State} {x : StrandId} {va : Nat} {r : Res} (e : s.openFault x va = some r) : r.Inv := by
  unfold State.openFault at e
  split at e
  · cases e
    trivial
  · split at e
    · cases e
      trivial
    · split at e
      · cases e
      · cases e
        trivial

theorem Res.Inv.byRef {s : State} (need : Need) (a r : BitVec 64) (size : Nat) {k : BitVec 64 → Res} (hk : ∀ e, (k e).Inv) :
    (s.byRef need a r size k).Inv :=
  Res.Inv.byHandle _ fun _ => Res.Inv.ite trivial (Res.Inv.ite trivial (Res.Inv.ite trivial (hk _)))

theorem State.Inv.putInbox {s : State} (h : s.Inv) (n : Nat) (i : Inbox) : (s.putInbox n i).Inv := h.onPk (by rfl) (by rfl)

theorem State.Inv.receive {s : State} (h : s.Inv) (x : StrandId) (n : Nat) (va : Nat) (l : Landed) (d : BitVec 6) :
    (s.receive x n va l d).Inv := by
  unfold State.receive
  refine Res.Inv.ite trivial ?_
  split
  · exact trivial
  · split
    · exact trivial
    · exact Res.Inv.ite h (((State.Inv.ite (((((h.logParcel ..).putInbox ..).putParcel ..).putLeaves ..).onPk (by rfl) (by rfl))
        (((((h.logParcel ..).putInbox ..).putParcel ..).putLeaves ..).sendNotice _)).acquire ..).putReg ..)

theorem State.Inv.receiveItem {s : State} (h : s.Inv) (d a b : BitVec 6) (waits : Bool) : (receiveItem s d a b waits).Inv := by
  unfold Machine.receiveItem
  refine h.runItem (Res.Inv.ite trivial (Res.Inv.ite trivial ?_))
  split
  · exact Res.Inv.ite h (h.putReg ..)
  · exact h.receive ..

theorem State.Inv.returnFrames {s : State} (h : s.Inv) (n : Nat) : (s.returnFrames n).Inv := h.putInbox ..

/-! ## Copy engines -/

theorem State.Inv.putChain {s : State} (h : s.Inv) (tag : BitVec 6) (c : Chain) : (s.putChain tag c).Inv := h.onPk (by rfl) (by rfl)

theorem State.Inv.startChain {s : State} (h : s.Inv) (x : StrandId) (tag : BitVec 6) (post : Option (BitVec 64 × BitVec 64)) (head : Nat) :
    (s.startChain x tag head post).2.Inv :=
  State.Inv.ite ((((h.onCore (by rfl)).putChain ..).settlePaths ..).onPk (by rfl) (by rfl)) ((h.onCore (by rfl)).putChain ..)

theorem State.Inv.withRecord {s : State} (h : s.Inv) {k : BitVec 6 → Res} (hk : ∀ a, (k a).Inv) : (s.withRecord k).Inv := by
  unfold State.withRecord
  split
  · exact Res.Inv.ite h (hk _)
  · exact h

theorem State.Inv.freeKilled {s : State} (h : s.Inv) (t : BitVec 64) : (s.freeKilled t).Inv := by
  unfold State.freeKilled
  dsimp only
  split
  · exact .ite (h.putChain ..) h
  · exact h

theorem State.Inv.putAper {s : State} (h : s.Inv) (pa : Nat) (aper : BitVec 128) : (s.putAper pa aper).Inv := h.physPut ..

theorem State.Inv.unpost {s : State} (hs : s.Inv) (h : BitVec 64) : (s.unpost h).Inv :=
  .ite hs (((hs.foldl (fun _ ⟨_, _⟩ ht => ht.putAper ..)).onPk (by rfl) (by rfl)).forget ..)

theorem State.Inv.unland {s : State} (h : s.Inv) (pid : BitVec 16) (kid : BitVec 7) : (s.unland pid kid).Inv := h.onPk (by rfl) (by rfl)

theorem State.Inv.withdrawPost {s : State} (hs : s.Inv) (h : BitVec 64) (tag : BitVec 6) (kid : BitVec 7) : (s.withdrawPost tag h kid).Inv
    :=
  .ite hs ((hs.unland ..).unpost _)

theorem State.Inv.addCounter {s : State} (h : s.Inv) (key : Nat) (v : BitVec 16) : (s.addCounter key v).Inv := h.onPk (by rfl) (by rfl)

theorem State.Inv.chainFails {s : State} (h : s.Inv) (tag : BitVec 6) (cause : BitVec 6) (detail addr : BitVec 64) (again : Bool) :
    (s.chainFails tag cause detail addr again).Inv := by
  unfold State.chainFails
  refine ((State.Inv.ite ?_ h).putChain ..).raiseEngine ..
  split
  · exact h.addCounter ..
  · exact h

theorem State.Inv.chainBad {s : State} (h : s.Inv) (tag : BitVec 6) (code : Nat) : (s.chainBad tag code).Inv := h.chainFails ..

theorem State.Inv.chainStops {s : State} (h : s.Inv) (tag : BitVec 6) (cause : BitVec 6) (bits addr : BitVec 64) :
    (s.chainStops tag cause bits addr).Inv :=
  h.chainFails ..

theorem State.Inv.chainRead {s : State} (h : s.Inv) (c : Chain) (a : BitVec 64) (n : Nat) : (s.chainRead c a n).Inv := by
  unfold State.chainRead
  refine Got.Inv.ite ?_ (h.readVirtual ..)
  split
  · exact h
  · exact h

theorem State.Inv.chainPlaces {s : State} (h : s.Inv) (c : Chain) (need : Need) (va n : Nat) : (s.chainPlaces c need va n).Inv := by
  unfold State.chainPlaces
  refine Places.Inv.foldl ?_ (fun r ⟨_, _⟩ hr => ?_)
  · exact h
  · dsimp only
    cases r with
    | ok _ t =>
      have ht' : t.Inv := hr
      dsimp only
      split
      · next e => exact (ht'.translate ..).wait e
      · next e => exact (ht'.translate ..).fail e
      · next e =>
          have ht := (ht'.translate ..).ok e
          split
          · exact ht
          · exact Places.Inv.ite ht (Places.Inv.ite (ht.startDrain _) (ht.underKey ..))
    | wait t =>
      exact hr
    | fail _ _ _ t =>
      exact hr

theorem State.Inv.chainWrite {s : State} (h : s.Inv) (c : Chain) (far : Bool) (a : BitVec 64) (bs : List (BitVec 8)) :
    (s.chainWrite c far a bs).Inv := by
  unfold State.chainWrite
  refine ChainWrote.Inv.ite ?_ ?_
  · split
    · exact h
    · split
      · next e => exact (h.scratchStore ..).done e
      · exact h
  · split
    · next e => exact (h.chainPlaces ..).wait e
    · next e => exact (h.chainPlaces ..).fail e
    · next e =>
        have ht := (h.chainPlaces ..).ok e
        exact (State.Inv.ite (ht.writeHome ..) (ht.writeLocs ..)).clearPoison _

theorem State.Inv.pokeRange {s : State} (h : s.Inv) (cell : Nat) (bs : List (BitVec 8)) : (s.pokeRange cell bs).Inv :=
  .ite (h.onMemories h.mem (cellPut_wf h.scratch _ _)) (h.writeHome ..)

theorem State.Inv.shadePart {s : State} (h : s.Inv) (tag : BitVec 6) (read : Bool) (cell : Nat) (bs : List (BitVec 8)) :
    (s.shadePart tag read cell bs).2.Inv := by
  unfold State.shadePart
  refine State.Inv.putChain ?_ _ _
  split
  · exact h
  · refine foldl_keeps (P := fun p : List (BitVec 8) × State => p.2.Inv) h fun ⟨out, t⟩ i ht => ?_
    have ht : t.Inv := ht
    dsimp only
    split
    · exact ht
    · cases read with
      | false => exact ht.withCore (by rfl)
      | true => exact State.Inv.pokeRange (State.Inv.withCore (ht.withCore (by rfl)) (by rfl)) _ _

theorem State.Inv.shade {s : State} (h : s.Inv) (tag : BitVec 6) (read : Bool) (a : BitVec 64) (bs : List (BitVec 8)) :
    (s.shade tag read a bs).2.Inv :=
  foldl_keeps (P := fun p : List (BitVec 8) × State => p.2.Inv) h fun ⟨_, t⟩ _ ht =>
    State.Inv.shadePart (s := t) ht ..

theorem State.Inv.shadedRead {s : State} (h : s.Inv) (tag : BitVec 6) (c : Chain) (a : BitVec 64) (n : Nat) : (s.shadedRead tag c a n).Inv
    := by
  unfold State.shadedRead
  split
  · next e =>
      have ht := (h.chainRead ..).ok e
      exact ht.shade ..
  · exact h.chainRead ..

theorem State.Inv.shadedWrite {s : State} (h : s.Inv) (tag : BitVec 6) (c : Chain) (far : Bool) (a : BitVec 64) (bs : List (BitVec 8)) :
    (s.shadedWrite tag c far a bs).Inv := by
  unfold State.shadedWrite
  split
  · next e => exact (h.chainWrite ..).wait e
  · next e => exact (h.chainWrite ..).fail e
  · exact (h.shade ..).chainWrite ..

theorem State.Inv.entryRead {s : State} (h : s.Inv) (tag : BitVec 6) (a : BitVec 64) (n : Nat) : (s.entryRead tag a n).Inv :=
  h.shadedRead ..

theorem State.Inv.entryWrite {s : State} (h : s.Inv) (tag : BitVec 6) (a : BitVec 64) (bs : List (BitVec 8)) : (s.entryWrite tag a bs).Inv
    :=
  h.shadedWrite ..

theorem State.Inv.withAsks {s t : State} (h : s.Inv) : (s.withAsks t).Inv := h.onMu (by rfl) (by rfl)

theorem State.Inv.partEntries {s : State} (h : s.Inv) (tag : BitVec 6) : (s.partEntries tag).Inv := h.putChain ..

theorem State.Inv.goEntry {s : State} (h : s.Inv) (tag : BitVec 6) (p : Nat) : (s.goEntry tag p).Inv := h.putChain ..

theorem State.Inv.nextEntry {s : State} (h : s.Inv) (tag : BitVec 6) : (s.nextEntry tag).Inv := h.goEntry ..

theorem State.Inv.unmapParcel {s : State} (hs : s.Inv) (h : BitVec 64) : (s.unmapParcel h).Inv :=
  .ite hs ((((hs.foldl (fun _ ⟨_, _⟩ ht => ht.putAper ..)).onCore (by rfl)).onPk (by rfl) (by rfl)).forget ..)

theorem State.Inv.killChain {s : State} (h : s.Inv) (tag : BitVec 6) : (s.killChain tag).Inv := by
  unfold State.killChain
  refine .ite (h.putChain ..) (((State.Inv.ite ((State.Inv.ite ?_ h).withdrawPost ..) (.ite ?_ h)).putChain ..).onPk (by rfl) (by rfl))
  · split
    · exact h.addCounter ..
    · exact h
  · split
    · exact h.addCounter ..
    · exact h

theorem State.Inv.atEntry {s : State} (h : s.Inv) (tag : BitVec 6) (kind : Nat) {k : State → Chain → BitVec 512 → State}
    (hk : ∀ t a b, t.Inv → (k t a b).Inv) :
    (s.atEntry tag kind k).Inv := by
  unfold State.atEntry
  refine .ite h (.ite h (.ite (hk _ _ _ h) ?_))
  split
  · exact h.chainBad ..
  · exact .ite (h.putChain ..) (hk _ _ _ (h.putChain ..))

theorem State.Inv.sendFor {s : State} (h : s.Inv) (tag : BitVec 6) (c : Chain) (rw_ : BitVec 64) (body : PacketBody) :
    (s.sendFor tag c rw_ body).Inv :=
  ((State.Inv.ite (((h.onPk (by rfl) (by rfl)).sendPacket ..).onPk (by rfl) (by rfl)) ((h.onPk (by rfl) (by rfl)).sendPacket ..)).putChain
    ..).onPk (by rfl) (by rfl)

theorem State.Inv.poisonTo {s : State} (h : s.Inv) (c : Chain) (a : BitVec 64) (n : Nat) : (s.poisonTo c a n).Inv := by
  unfold State.poisonTo
  split
  · next e =>
      have ht := (h.chainPlaces ..).ok e
      exact ht.onMu (by rfl) (by rfl)
  · exact h

theorem State.Inv.copyReadPart {s : State} (h : s.Inv) (tag : BitVec 6) (va n : Nat) : (s.copyReadPart tag va n).Inv := by
  unfold State.copyReadPart
  refine Got.Inv.ite ?_ (h.entryRead ..)
  split
  · next e =>
      have ht := (h.chainPlaces ..).ok e
      exact (ht.refreshHomes _).readCells ..
  · next e => exact (h.chainPlaces ..).wait e
  · next e => exact (h.chainPlaces ..).fail e

theorem State.Inv.copyRead {s : State} (h : s.Inv) (tag : BitVec 6) (a : BitVec 64) (n : Nat) : (s.copyRead tag a n).Inv := by
  unfold State.copyRead
  refine Got.Inv.ite (Got.Inv.foldl ?_ (fun r ⟨_, _⟩ hr => ?_)) (h.entryRead ..)
  · exact h
  · dsimp only
    cases r with
    | ok _ t =>
      have ht' : t.Inv := hr
      dsimp only
      split
      · next e => exact (ht'.copyReadPart ..).ok e
      · exact ht'.copyReadPart ..
    | wait t =>
      exact hr
    | fail _ _ _ t =>
      exact hr

theorem State.Inv.moveDone {s : State} (h : s.Inv) (tag : BitVec 6) (e : BitVec 512) : (s.moveDone tag e).Inv :=
  .ite (h.putChain ..) (h.nextEntry _)

theorem State.Inv.overlapped_ {s : State} (h : s.Inv) (c : Chain) (e : BitVec 512) (b : BitVec 64) (bs : List (BitVec 8)) :
    (s.overlapped_ c e b bs).2.Inv := by
  refine foldl_keeps (P := fun p : List (BitVec 8) × State => p.2.Inv) h fun ⟨out, t⟩ ⟨cell, off, k⟩ ht => ?_
  have ht : t.Inv := ht
  dsimp only
  split
  · exact ht
  · exact ht.withCore (by rfl)

theorem State.Inv.beginRemote {s : State} (h : s.Inv) (tag : BitVec 6) (c : Chain) (rw_ : BitVec 64) {k : State → Chain → State}
    (hk : ∀ t a, t.Inv → (k t a).Inv) :
    (s.beginRemote tag c rw_ k).Inv := by
  unfold State.beginRemote
  refine .ite (hk _ _ h) (.ite h ?_)
  split
  · exact h.chainFails ..
  · exact hk _ _ (h.putChain ..)

theorem State.Inv.chainAtomic {s : State} (h : s.Inv) (c : Chain) (need : Need) (a : BitVec 64) (n : Nat)
    (f : List (BitVec 8) → List (BitVec 8)) :
    (s.chainAtomic c need a n f).Inv := by
  unfold State.chainAtomic
  refine ChainWrote.Inv.ite ?_ ?_
  · split
    · exact h
    · split
      · next e => exact (h.scratchStore ..).done e
      · exact h
  · split
    · next e => exact (h.chainPlaces ..).wait e
    · next e => exact (h.chainPlaces ..).fail e
    · next e =>
        have ht := (h.chainPlaces ..).ok e
        exact ChainWrote.Inv.ite ht ((ht.beforeAtomic _).writeAtHome ..)

theorem State.Inv.reduceAt {s : State} (h : s.Inv) (c : Chain) (op : Nat) (a : BitVec 64) (src : BitVec 32) : (s.reduceAt c op a src).Inv :=
  h.chainAtomic ..

theorem State.Inv.shadedReduce {s : State} (h : s.Inv) (tag : BitVec 6) (c : Chain) (op : Nat) (a : BitVec 64) (src : BitVec 32) :
    (s.shadedReduce tag c op a src).Inv := by
  unfold State.shadedReduce
  split
  · exact (h.shade ..).chainAtomic ..
  · exact h.reduceAt ..

theorem State.Inv.routeWrites {s : State} (h : s.Inv) (tag : BitVec 6) (ws : List (BitVec 64 × Nat)) : (s.routeWrites tag ws).Inv := by
  induction ws generalizing s with
  | nil => exact h
  | cons w rest ih =>
    obtain ⟨a, v⟩ := w
    unfold State.routeWrites
    split
    · next e => exact ih (((h.entryWrite ..).done e).putChain ..)
    · exact h.entryWrite ..

theorem State.Inv.routeReads {s : State} (h : s.Inv) (tag : BitVec 6) (a : BitVec 64) (n : Nat) {k : List Nat → State → State}
    (hk : ∀ a t, t.Inv → (k a t).Inv) :
    (s.routeReads tag a n k).Inv := by
  unfold State.routeReads
  split
  · next e =>
      have ht := (h.entryRead ..).ok e
      exact hk _ _ ht
  · next e => exact (h.entryRead ..).wait e
  · next e =>
      have ht := (h.entryRead ..).fail e
      exact ht.chainStops ..

theorem State.Inv.openWords {s : State} (h : s.Inv) (tag : BitVec 6) : (s.openWords tag).Inv := by
  refine h.foldl fun t w ht => ?_
  have hc : State.Inv (t.choose 1 ((s.chain tag).words.map (·.2))).2 := ht.choose ..
  dsimp only
  split
  · next e => exact (hc.chainWrite ..).done e
  · exact hc

theorem State.Inv.signalAt {s : State} (h : s.Inv) (c : Chain) (far : Bool) (a : BitVec 64) (n : Nat) (v : BitVec 64) (add : Bool) :
    (s.signalAt c far a n v add).Inv :=
  ChainWrote.Inv.ite (h.chainWrite ..) (h.chainAtomic ..)

theorem State.Inv.condRead {s : State} (h : s.Inv) (tag : BitVec 6) (c : Chain) (e : BitVec 512) {k : Bool → State → State}
    (hk : ∀ a t, t.Inv → (k a t).Inv) :
    (s.condRead tag c e k).Inv := by
  unfold State.condRead
  dsimp only
  split
  · next e' => exact (h.shadedRead ..).wait e'
  · next e' =>
      have ht := (h.shadedRead ..).fail e'
      exact ht.chainStops ..
  · next e' =>
      have ht := (h.shadedRead ..).ok e'
      exact hk _ _ (((ht.acquire ..).partEntries _).putChain ..)

theorem State.Inv.joinMma {s : State} (h : s.Inv) (z : BitVec 3) (q : BitVec 4) (shape buffer : BitVec 64) (c : Coord)
    (atS sup stepped : Bool) (follow : BitVec 6 × Nat) :
    (s.joinMma z q shape buffer c atS sup stepped follow).Inv :=
  ((h.settlePaths ..).onMat _).pushMatrix _

theorem State.Inv.joinOwn {s : State} (h : s.Inv) (tag : BitVec 6) (refused : Option (BitVec 6 × BitVec 8)) : (s.joinOwn tag refused).Inv
    := by
  unfold State.joinOwn
  refine .ite h (.ite ?_ (.ite h ?_))
  · split
    · exact h.chainFails ..
    · exact (h.onPk (by rfl) (by rfl)).nextEntry _
  · split
    · exact h.chainFails ..
    · exact (h.joinMma ..).nextEntry _

end Sys2Proof.Machine
end

section
/-!
PROOFS. The invariant (log 4, R101): mapped objects, posts and the fabric, and the memory unit.
-/
namespace Sys2Proof.Machine

/-! ## Mapped objects -/

theorem State.Inv.fillPair {s : State} (h : s.Inv) (p : PairAt × Reloc) : (s.fillPair p).Inv := by
  unfold State.fillPair
  dsimp only
  split
  · exact h.onMemories h.mem (foldl_keeps (P := (Memory.wf · = true)) h.scratch fun _ _ hm => cellSet_wf hm _ _)
  · exact .ite (h.onStrand ..) (h.onCore (by rfl))

/-! ## Posts and the fabric -/

theorem State.Inv.postFails {s : State} (h : s.Inv) (tag : BitVec 6) (sub : Nat) : (s.postFails tag sub).Inv :=
  (((h.unland ..).unpost _).putChain ..).chainFails ..

theorem State.Inv.readHome {s : State} (h : s.Inv) (ls : List Loc) : (s.readHome ls).2.Inv :=
  ((h.refreshHomes _).settleStale ..).readCells ..

theorem State.Inv.parcelBytes {s : State} (h : s.Inv) (x : StrandId) (vas : List Nat) : (s.parcelBytes x vas).Inv := by
  induction vas generalizing s with
  | nil => exact h
  | cons va rest ih =>
    unfold State.parcelBytes
    split
    · exact h
    · refine Got.Inv.ite h ?_
      have ht (e : BitVec 128) (ls : List Loc) :
          (if leafDisc e then (ls.map fun _ => 0, (s.underKey (s.keyOf (leafKey e)) ls).setDz x)
            else (s.underKey (s.keyOf (leafKey e)) ls).readHome ls : List (BitVec 8) × State).2.Inv := by
        split
        · exact (h.underKey ..).setDz _
        · exact (h.underKey ..).readHome _
      dsimp only
      split
      · next e => exact (ih (ht _ _)).ok e
      · exact ih (ht _ _)

theorem State.Inv.bound {s : State} (h : s.Inv) (key : Nat) : (s.bound key).Inv :=
  .ite h (((h.foldl (fun _ ⟨_, _⟩ ht => ht.physPut ..)).onPk (by rfl) (by rfl)).forget ..)

theorem State.Inv.inContext {s : State} (h : s.Inv) (ctx : BitVec 32) {k : State → State} (hk : ∀ t, t.Inv → (k t).Inv) :
    (s.inContext ctx k).Inv :=
  .ite (hk _ h) (((hk _ ((h.onSys (by rfl)).onMu (by rfl) (by rfl))).onSys (by rfl)).onMu (by rfl) (by rfl))

theorem State.Inv.packetDone {s : State} (h : s.Inv) : s.packetDone.Inv := h.onPk (by rfl) (by rfl)

theorem State.Inv.answer {s : State} (h : s.Inv) (p : Packet) (a : Reply) (bs : List (BitVec 8)) : (s.answer p a bs).Inv :=
  h.packetDone.sendPacket ..

theorem State.Inv.answerWrote {s : State} (p : Packet) {r : ChainWrote} (hr : r.Inv) : (s.answerWrote p r).Inv := by
  cases r with
  | wait t => exact State.Inv.of_same (s := t) hr rfl rfl rfl rfl
  | done t => exact State.Inv.answer (s := t) hr ..
  | fail c b va t => exact State.Inv.answer (s := t) hr ..

theorem State.Inv.land {s : State} (h : s.Inv) (p : Packet) (n : BitVec 8) (xm1 pid : BitVec 16) (bs : List (BitVec 8)) :
    (s.land p n xm1 pid bs).Inv :=
  .ite h.packetDone (.ite (h.answer ..) (.ite (h.answer ..) ((((h.writeHome ..).clearPoison _).putInbox ..).answer ..)))

theorem State.Inv.performPacket {s : State} (h : s.Inv) (p : Packet) : (s.performPacket p).Inv := by
  unfold State.performPacket
  dsimp only
  split
  · refine State.Inv.answerWrote _ ?_
    split
    · exact h.shadedWrite ..
    · exact h.chainWrite ..
  · next va n _ =>
    have hg : (match s.chainOf p with
        | some tag => s.shadedRead tag farChain va n
        | none => s.chainRead farChain va n).Inv := by
      split
      · exact h.shadedRead ..
      · exact h.chainRead ..
    refine State.Inv.onStrand ?_ ..
    split
    · next e => exact hg.wait e
    · next e => exact (hg.fail e).answer ..
    · next e => exact (hg.ok e).answer ..
  · refine .ite (h.answer ..) (State.Inv.answerWrote _ ?_)
    split
    · exact h.shadedReduce ..
    · exact h.reduceAt ..
  · exact State.Inv.answerWrote _ (h.signalAt ..)
  · exact h.land ..
  · exact (h.bound _).packetDone
  · exact h.packetDone

theorem State.Inv.unitDone {s : State} (h : s.Inv) (tag : BitVec 6) (c : Chain) : (s.unitDone tag c).Inv := h.putChain ..

theorem State.Inv.unitEnds {s : State} (h : s.Inv) (tag : BitVec 6) : (s.unitEnds tag).Inv := .ite ((h.putChain ..).killChain _) h

theorem State.Inv.refusedFar {s : State} (h : s.Inv) (tag : BitVec 6) (c : Chain) (post code : Nat) : (s.refusedFar tag c post code).Inv :=
  .ite (h.postFails ..) (.ite (h.chainFails ..) (h.chainFails ..))

theorem State.Inv.takeReply {s : State} (h : s.Inv) (tag : BitVec 6) (a : Reply) (bs : List (BitVec 8)) : ExceptInv (s.takeReply tag a bs)
    := by
  unfold State.takeReply
  dsimp only
  split
  · exact h.refusedFar ..
  · exact h.refusedFar ..
  · exact h.refusedFar ..
  · exact h.refusedFar ..
  · exact h.refusedFar ..
  · exact h.refusedFar ..
  · split
    · exact h.nextEntry _
    · split
      · exact h.unitDone ..
      · split
        · next e => exact (h.entryWrite ..).wait e
        · next e =>
            have ht := (h.entryWrite ..).fail e
            exact ht.chainStops ..
        · next e =>
            have ht := (h.entryWrite ..).done e
            exact ht.unitDone ..
    · exact h.unitDone ..

theorem State.Inv.drainReply {s : State} (h : s.Inv) (request : BitVec 64) (a : Reply) : (s.drainReply request a).Inv := h.onMu (by rfl)
    (by rfl)

theorem State.Inv.accept {s : State} (h : s.Inv) (p : Packet) : (s.accept p).Inv := h.onPk (by rfl) (by rfl)

theorem State.Inv.lateReply {s : State} (h : s.Inv) (request : BitVec 64) (a : Reply) : (s.lateReply request a).Inv :=
  h.foldl (fun _ _ ht => State.Inv.ite (ht.unitDone ..) ht)

theorem State.Inv.performReply {s : State} (h : s.Inv) (request : BitVec 64) (a : Reply) (bs : List (BitVec 8)) :
    (s.performReply request a bs).Inv := by
  unfold State.performReply
  split
  · exact (h.packetDone.drainReply ..).lateReply ..
  · refine .ite (h.packetDone.onPk (by rfl) (by rfl)) ?_
    split
    · next e =>
        have ht := ((h.packetDone.onPk (by rfl) (by rfl)).takeReply ..).ok e
        exact ht.unitEnds _
    · exact h.withAsks

theorem State.Inv.receiveReply {s : State} (h : s.Inv) (p : Packet) (request : BitVec 64) (a : Reply) (bs : List (BitVec 8)) :
    (s.receiveReply p request a bs).Inv :=
  .ite (h.performReply ..) (.ite (.ite h.packetDone ((h.accept _).performReply ..)) (.ite (h.performReply ..) h.packetDone))

theorem State.Inv.discardPacket {s : State} (h : s.Inv) (p : Packet) : (s.discardPacket p).Inv := by
  unfold State.discardPacket
  split
  · exact h.packetDone.onPk (by rfl) (by rfl)
  · exact h.packetDone

/-! ## The memory unit -/

theorem State.Inv.memoryItem {s : State} (h : s.Inv) (cls ok : Bool) {body : Res} (hbody : body.Inv) : (memoryItem s cls ok body).Inv :=
  h.runItem hbody

theorem State.Inv.beginShootdown {s : State} (h : s.Inv) (first bytes : Nat) : (s.beginShootdown first bytes).Inv := Res.Inv.ite
    (h.onMu (by rfl) (by rfl)) h

theorem State.Inv.setLeaves {s : State} (h : s.Inv) (va n : Nat) (clear set : BitVec 128) : (s.setLeaves va n clear set).Inv :=
  (h.foldl (fun _ ⟨_, _⟩ ht => ht.physPut ..)).forget ..

theorem State.Inv.forgetCopies {s : State} (h : s.Inv) (va n : Nat) : (s.forgetCopies va n).Inv := h.onMu (by rfl) (by rfl)

theorem State.Inv.noteCopy {s : State} (h : s.Inv) (va : Nat) (dst rw_ : BitVec 64) (bs : List (BitVec 8)) :
    (s.noteCopy va dst rw_ bs).Inv :=
  h.onMu (by rfl) (by rfl)

theorem State.Inv.releaseSealWait {s : State} (h : s.Inv) : s.releaseSealWait.Inv := (h.onCore (by rfl)).syncOverflow

theorem State.Inv.unseal {s : State} (h : s.Inv) (vas : List Nat) : (s.unseal vas).Inv :=
  ((h.foldl (fun _ _ ht => ht.setLeaves ..)).onMu (by rfl) (by rfl)).releaseSealWait

theorem State.Inv.drained {s : State} (h : s.Inv) (vas : List Nat) : (s.drained vas).Inv := h.onMu (by rfl) (by rfl)

theorem State.Inv.drainWrite {s : State} (h : s.Inv) (tag : Option (BitVec 6)) (dst : BitVec 64) (bs : List (BitVec 8)) :
    (s.drainWrite tag dst bs).Inv := by
  unfold State.drainWrite
  split
  · exact h.entryWrite ..
  · exact h.chainWrite ..

theorem State.Inv.drainRead {s : State} (h : s.Inv) (tag : Option (BitVec 6)) (va : Nat) (w : BitVec 128) (ls : List Loc) :
    (s.drainRead tag va w ls).2.Inv := by
  unfold State.drainRead
  have hr : (if leafDisc w then (ls.map fun _ => 0, s)
      else (s.refreshHomes (ls.filterMap fun l => match l with | .here pa => some pa | _ => none)).readCells clsCP (ls.map Loc.homeCell) :
        List (BitVec 8) × State).2.Inv := by
    split
    · exact h
    · exact (h.refreshHomes _).readCells ..
  dsimp only
  split
  · exact State.Inv.shade (.ite (hr.setDz _) hr) ..
  · exact hr

theorem State.Inv.copyPage {s : State} (h : s.Inv) (tag : Option (BitVec 6)) (va : Nat) (dst : BitVec 64) (rw_ : BitVec 64)
    {far : BitVec 64 → List (BitVec 8) → State → ChainWrote} (hfar : ∀ a b t, t.Inv → (far a b t).Inv) :
    (s.copyPage tag va dst rw_ far).Inv := by
  unfold State.copyPage
  split
  · exact h
  · split
    · exact h
    · refine ChainWrote.Inv.ite (ChainWrote.Inv.ite (hfar _ _ _ (((h.underKey ..).drainRead ..).noteCopy ..))
        ((h.underKey ..).drainRead ..)) ?_
      split
      · next e =>
          have ht := (((h.underKey ..).drainRead ..).drainWrite ..).done e
          exact (ht.foldl (fun _ _ ht' => ht'.poisonTo ..)).noteCopy ..
      · exact ((h.underKey ..).drainRead ..).drainWrite ..

theorem State.Inv.sendDrain {s : State} (h : s.Inv) (r : SealRecord) (va : Nat) (dst : BitVec 64) (bs : List (BitVec 8)) :
    (s.sendDrain r va dst bs).Inv :=
  (h.sendPacket ..).onMu (by rfl) (by rfl)

theorem State.Inv.drainPages {s : State} (h : s.Inv) (r : SealRecord) (vas : List Nat) : ExceptInv (s.drainPages r vas) := by
  induction vas generalizing s with
  | nil => exact h
  | cons va rest ih =>
    have hc : ChainWrote.Inv (s.copyPage none va (r.shard + BitVec.ofNat 64 (va - r.page)) (r.rw.setWidth 64)
        (fun dst bs s => .done (s.sendDrain r va dst bs))) := h.copyPage _ _ _ _ fun _ _ _ ht => ht.sendDrain ..
    unfold State.drainPages
    split
    · next e => exact ih (hc.done e)
    · next e => exact hc.wait e
    · next e => exact hc.fail e

theorem State.Inv.drainedPage {s : State} (h : s.Inv) (va : Nat) : (s.drainedPage va).Inv := .ite (h.drained _) ((h.drained _).unseal _)

theorem State.Inv.passPage {s : State} (h : s.Inv) (tag : BitVec 6) (va : Nat) (dst rw_ : BitVec 64) : (s.passPage tag va dst rw_).Inv := by
  unfold State.passPage
  refine ChainWrote.Inv.ite h (State.Inv.entryWrite ?_ ..)
  exact h.withCore (by rfl)

theorem State.Inv.shardDigest {s : State} (h : s.Inv) (tag : BitVec 6) (va : Nat) (dst rw_ : BitVec 64) (n : Nat)
    {k : BitVec 512 → State → State} (hk : ∀ a t, t.Inv → (k a t).Inv) {fails : BitVec 6 → BitVec 64 → Nat → State → State}
    (hfails : ∀ a b c t, t.Inv → (fails a b c t).Inv) : (s.shardDigest tag va dst rw_ n k fails).Inv := by
  unfold State.shardDigest
  refine .ite ?_ ?_
  · split
    · exact hk _ _ h
    · exact hk _ _ (h.withCore (by rfl))
  · split
    · next e => exact (h.entryRead ..).wait e
    · next e => exact hfails _ _ _ _ ((h.entryRead ..).fail e)
    · next e => exact hk _ _ ((h.entryRead ..).ok e)

theorem State.Inv.answerAts {s : State} (h : s.Inv) (k : Nat) {f : AtsRequest → State} (hf : ∀ a, (f a).Inv) : (s.answerAts k f).Inv := by
  unfold State.answerAts
  split
  · exact .ite (hf _) h
  · exact h

theorem State.Inv.failAts {s : State} (h : s.Inv) (k : Nat) (status : BitVec 8) : (s.failAts k status).Inv :=
  h.answerAts _ (fun _ => h.onMu (by rfl) (by rfl))

end Sys2Proof.Machine
end

section
/-!
PROOFS. The invariant (log 4, R101): vector items, gathers and scatters.
-/
namespace Sys2Proof.Machine

/-! ## The lanes of an access -/

def LaneRun.Inv : LaneRun → Prop
  | .going s _ _ => State.Inv s
  | .full _ => True

theorem LaneRun.Inv.going {g : LaneRun} {s t out} (h : g.Inv) (e : g = .going s t out) : State.Inv s := by subst e; exact h
theorem LaneRun.Inv.ite {c : Prop} [Decidable c] {g g' : LaneRun} (hg : g.Inv) (hg' : g'.Inv) : (if c then g else g').Inv := by
  split
  · exact hg
  · exact hg'
theorem LaneRun.Inv.foldl {α : Type} {f : LaneRun → α → LaneRun} {g : LaneRun} (h : g.Inv) {l : List α}
    (hf : ∀ g a, g.Inv → (f g a).Inv) : (l.foldl f g).Inv :=
  foldl_keeps h hf

theorem State.Inv.getD {s : State} (h : s.Inv) {o : Option State} (ho : OptionInv o) : (o.getD s).Inv := by
  cases o with
  | none => exact h
  | some t => exact ho

theorem Res.Inv.misaligned_getD (need : Need) (act : BitVec 1024) (a st : BitVec 64) {r : Res} (hr : r.Inv) :
    ((misaligned need act a st).getD r).Inv := by
  unfold misaligned
  split
  · trivial
  · exact hr

/-! ## Vector items -/

theorem State.Inv.vecItem {s : State} (h : s.Inv) (cls ok : Bool) {body : Res} (hbody : body.Inv) : (vecItem s cls ok body).Inv :=
  h.runItem hbody

theorem State.Inv.withLaneFlags {s : State} (h : s.Inv) (r : List Flagged) {k : State → Res} (hk : ∀ t, t.Inv → (k t).Inv) :
    (s.withLaneFlags r k).Inv :=
  Res.Inv.ite trivial (hk _ (h.addFlags ..))

theorem State.Inv.writeLanes {s : State} (h : s.Inv) (d : BitVec 6) (r : List Flagged) : (s.writeLanes d r).Inv :=
  h.tileIn _ (fun _ _ ht => ht.withLaneFlags _ (fun _ ht' => ht'.writeTile _ _ (fun _ ht2 => ht2)))

theorem State.Inv.writeBits {s : State} (h : s.Inv) (d : BitVec 3) (bits : List (Bool × Flags5)) : (s.writeBits d bits).Inv := by
  unfold State.writeBits
  exact h.withLaneFlags _ fun _ ht => ht.putMask ..

theorem State.Inv.lanes2 {s : State} (h : s.Inv) (d a b : BitVec 7) (f : BitVec 32 → BitVec 32 → Flagged) : (lanes2 s d a b f).Inv :=
  h.vecItem _ _ (h.tileSource _ _ (fun _ _ ht => ht.tileSource _ _ (fun _ _ ht' => ht'.writeLanes ..)))

theorem State.Inv.lanes1 {s : State} (h : s.Inv) (d a : BitVec 7) (f : BitVec 32 → Flagged) : (lanes1 s d a f).Inv :=
  h.vecItem _ _ (h.tileSource _ _ (fun _ _ ht => ht.writeLanes ..))

theorem State.Inv.lanes3 {s : State} (h : s.Inv) (d a b : BitVec 7) (elems : Nat) (f : BitVec 32 → BitVec 32 → BitVec 32 → Flagged) :
    (lanes3 s d a b elems f).Inv :=
  h.vecItem _ _ (h.tileSource _ _ (fun _ _ ht => ht.tileSource _ _ (fun _ _ ht' => ht'.tileIn _ (fun _ _ ht2 => ht2.writeLanes ..))))

theorem State.Inv.bits2 {s : State} (h : s.Inv) (d a b : BitVec 7) (f : BitVec 32 → BitVec 32 → Bool × Flags5) : (bits2 s d a b f).Inv :=
  h.vecItem _ _ (h.tileSource _ _ (fun _ _ ht => ht.tileSource _ _ (fun _ _ ht' => ht'.writeBits ..)))

theorem State.Inv.masks2 {s : State} (h : s.Inv) (d a b : BitVec 7) (f : BitVec 1024 → BitVec 1024 → BitVec 1024) : (masks2 s d a b f).Inv
    :=
  h.vecItem _ _ (h.putMask ..)

theorem State.Inv.lanesScalar {s : State} (h : s.Inv) (d a b : BitVec 7) (f : BitVec 32 → BitVec 32 → Flagged) :
    (lanesScalar s d a b f).Inv :=
  h.vecItem _ _ (h.tileSource _ _ (fun _ _ ht => ht.writeLanes ..))

theorem State.Inv.moveLanes {s : State} (h : s.Inv) (d a b : BitVec 7) (limit : Nat) (src : Nat → Nat → Nat → Nat) :
    (moveLanes s d a b limit src).Inv :=
  h.vecItem _ _ (Res.Inv.ite trivial (h.tileSource _ _ (fun _ _ ht => ht.writeLanes ..)))

theorem State.Inv.reduce {s : State} (h : s.Inv) (rows : Bool) (d a : BitVec 7) (op : BitVec 32 → BitVec 32 → Flagged) :
    (reduce s rows d a op).Inv :=
  h.vecItem _ _ (h.tileSource _ _ (fun _ _ ht => ht.writeLanes ..))

theorem State.Inv.refusePark {s : State} (h : s.Inv) : s.refusePark.Inv := h.onVec _

theorem State.Inv.park {s : State} (h : s.Inv) (tile pslot : BitVec 6) : (s.park tile pslot).Inv := by
  unfold State.park
  refine .ite h.refusePark ?_
  split
  · exact h.refusePark
  · exact h.onVec _

theorem State.Inv.unparkNow {s : State} (h : s.Inv) (tile pslot : BitVec 6) : OptionInv (s.unparkNow tile pslot) := by
  unfold State.unparkNow
  split
  · split
    · exact h.refusePark
    · exact (h.snapTile _).map fun _ ht => (ht.keepPast _).onVec _
  · exact h.refusePark

theorem State.Inv.unpark {s : State} (h : s.Inv) (tile pslot : BitVec 6) : (s.unpark tile pslot).Inv := h.getD (h.unparkNow ..)

/-! ## Gathers and scatters -/

theorem State.Inv.checkLoads {s : State} (h : s.Inv) (x : StrandId) (as : LaneAddrs) {k : State → Res}
    (hk : ∀ t, t.Inv → (k t).Inv) : (s.checkLoads x as k).Inv := by
  induction as generalizing s with
  | nil => exact hk _ h
  | cons p rest ih =>
    unfold State.checkLoads
    split
    · trivial
    · exact ih h
    · split
      · next e => exact (h.checkWrite ..).wait e
      · trivial
      · next e => exact ih ((h.checkWrite ..).ok e)

theorem State.Inv.loadLanes {s : State} (h : s.Inv) (x : StrandId) (cls : Nat) (as : LaneAddrs) (t : Tile) {k : Tile → State → Res}
    (hk : ∀ a t, t.Inv → (k a t).Inv) : (s.loadLanes x cls as t k).Inv := by
  induction as generalizing s t with
  | nil => exact hk _ _ h
  | cons p rest ih =>
    unfold State.loadLanes
    split
    · trivial
    · exact ih h _
    · split
      · next e => exact ih ((h.readVirtual ..).ok e) _
      · next e => exact (h.readVirtual ..).wait e
      · trivial

theorem State.Inv.vload {s : State} (h : s.Inv) (cls : Nat) (d : BitVec 6) (addrs : LaneAddrs) : (s.vload cls d addrs).Inv :=
  h.tileIn _ (fun _ _ ht => ht.checkLoads _ _ (fun _ ht' => ht'.loadLanes _ _ _ _ (fun _ _ ht2 => ht2.writeTile _ _ (fun _ ht3 => ht3))))

theorem State.Inv.storeLanes {s : State} (h : s.Inv) (x : StrandId) (as : LaneAddrs) (t : Tile) (ws : List BlockWrite)
    {k : List BlockWrite → State → Res} (hk : ∀ a t, t.Inv → (k a t).Inv) : (s.storeLanes x as t ws k).Inv := by
  induction as generalizing s ws with
  | nil => exact hk _ _ h
  | cons p rest ih =>
    unfold State.storeLanes
    split
    · trivial
    · exact ih h _
    · split
      · next e => exact (h.checkWrite ..).wait e
      · trivial
      · next e => exact ih ((h.checkWrite ..).ok e) _

theorem State.Inv.blockStore {s : State} (h : s.Inv) (x : StrandId) (cls : Nat) (c : Coord) (keep stepped : Bool) (op : Nat)
    (w : BlockWrite) : (s.blockStore x cls c keep stepped op w).Inv := by
  have hw {t : State} (ht : t.Inv) (p off : Nat) (bytes : List Nat) : State.Inv (t.onMu fun m => { m with
      scratch := bytes.foldl (fun u i => cellSet u (scratchBase p + off + i) (w.data.extractLsb' (8 * i) 8)) m.scratch }) :=
    ht.onMemories ht.mem (foldl_keeps (P := (Memory.wf · = true)) ht.scratch fun _ _ hm => cellSet_wf hm _ _)
  unfold State.blockStore
  split
  · exact Stored.Inv.ite (Stored.Inv.ite (hw (h.slagAdd _) _ _ _) trivial) (hw h _ _ _)
  · exact Stored.Inv.ite (h.sideAdd _) trivial

theorem State.Inv.blockStores {s : State} (h : s.Inv) (x : StrandId) (cls : Nat) (ws : List BlockWrite) {k : State → Res}
    (hk : ∀ t, t.Inv → (k t).Inv) : (s.blockStores x cls ws k).Inv := by
  have hr (c : Coord) : OptionInv (ws.foldl (fun (r : Option State × Bool) w =>
      match r with
      | (some t, _) =>
        match t.blockStore x cls c (t.kept x c) (t.stepping x) s.core.nextEntry w with
        | .done t => (some t, false)
        | .full => (none, match w.place with | .global _ => true | _ => false)
      | r => r) (some s, false)).1 := by
    refine foldl_keeps (P := fun r : Option State × Bool => OptionInv r.1) h fun ⟨o, b⟩ w ho => ?_
    cases o with
    | none => exact trivial
    | some t =>
      dsimp only
      split
      · next e => exact (State.Inv.blockStore (s := t) ho ..).done e
      · exact trivial
  unfold State.blockStores
  dsimp only
  split
  · next e => exact hk _ ((hr _).some (congrArg Prod.fst e))
  · exact h.sideFull _
  · exact h

theorem State.Inv.vstore {s : State} (h : s.Inv) (cls : Nat) (d : BitVec 6) (addrs : LaneAddrs) : (s.vstore cls d addrs).Inv :=
  h.tileIn _ (fun _ _ ht => ht.storeLanes _ _ _ _ (fun _ _ ht' => ht'.blockStores _ _ _ (fun _ ht2 => ht2)))

theorem State.Inv.checkLanes {s : State} (h : s.Inv) (x : StrandId) (size align : Nat) (as : LaneAddrs) (ps : List (Nat × Place))
    {k : List (Nat × Place) → State → Res} (hk : ∀ a t, t.Inv → (k a t).Inv) : (s.checkLanes x size align as ps k).Inv := by
  induction as generalizing s ps with
  | nil => exact hk _ _ h
  | cons p rest ih =>
    unfold State.checkLanes
    split
    · trivial
    · exact ih h _
    · split
      · next e => exact (h.checkWrite ..).wait e
      · trivial
      · next e => exact ih ((h.checkWrite ..).ok e) _

theorem State.Inv.laneAtomic {s : State} (h : s.Inv) (x : StrandId) (op fn : Nat) (amod : BitVec 2) (n : BitVec 6) (t : Tile)
    (out : Bool) (l : Nat) (p : Place) : (s.laneAtomic x op fn amod n t out l p).Inv := by
  unfold State.laneAtomic
  split
  · dsimp only
    split
    · next e => exact ((h.scratchStore ..).done e).addFlags ..
    · trivial
  · exact LaneRun.Inv.ite (h.sideAdd _) trivial

theorem State.Inv.vecAtomic {s : State} (h : s.Inv) (fn0 : Nat) (amod : BitVec 2) (d a b : BitVec 7) :
    (vecAtomic s fn0 amod d a b).Inv := by
  unfold Machine.vecAtomic
  refine h.vecItem _ _ ?_
  split
  · exact Res.Inv.ite h (h.onStrand ..)
  · refine Res.Inv.misaligned_getD _ _ _ _ (h.tileSource _ _ fun _ _ ht => ?_)
    refine ht.tileIn _ fun _ _ ht' => ?_
    generalize indexAddrs _ _ _ = as
    refine ht'.checkLanes _ _ _ as _ fun ps t h2 => ?_
    split
    · exact h2
    · next s0 e0 =>
      have h0 : s0.Inv := (h2.snapTile _).some e0
      have hr (t : Tile) (op fn : Nat) : LaneRun.Inv (ps.foldl (fun r p => match r with
          | .going s t out => s.laneAtomic s.cur op fn amod (tileNo d) t out p.1 p.2
          | r => r) (LaneRun.going s0 t false)) := by
        refine LaneRun.Inv.foldl (g := .going s0 t false) h0 fun g p hg => ?_
        cases g with
        | going s t out => exact State.Inv.laneAtomic (s := s) hg ..
        | full side => exact trivial
      split
      · exact h2.sideFull _
      · exact h2
      · next e =>
        have h3 := (hr _ _ _).going e
        exact Res.Inv.ite ((h3.putTile ..).onStrand ..) (h3.putTile ..)

end Sys2Proof.Machine
end

section
/-!
PROOFS. The invariant (log 4, R101): the Quench unit, the lists of Swage and the traps.
-/
namespace Sys2Proof.Machine

/-! ## The Quench unit -/

theorem State.Inv.sendRequest {s : State} (h : s.Inv) (r : QuenchRequest) : (s.sendRequest r).Inv := h.onQu _

theorem State.Inv.fireArm {s : State} (h : s.Inv) : s.fireArm.Inv := by
  unfold State.fireArm
  split
  · exact .ite ((h.onQu _).sendRequest _) h
  · exact h

theorem State.Inv.resumeCut {s : State} (h : s.Inv) : s.resumeCut.Inv := ((h.foldl (fun _ _ ht => ht.onStrand ..)).onCore (by rfl)).onQu _

theorem State.Inv.resumeDomain {s : State} (h : s.Inv) : s.resumeDomain.Inv := .ite h (.ite (h.onQu _) ((h.onQu _).resumeCut))

theorem State.Inv.queueStop {s : State} (h : s.Inv) : s.queueStop.Inv := h.enqueue _

theorem State.Inv.stopAbove {s : State} (h : s.Inv) (cut : Nat) : (s.stopAbove cut).Inv := h.foldl (fun _ _ ht => ht.onStrand ..)

theorem State.Inv.undoParcel {s : State} (h : s.Inv) (r : ParcelUndo) : (s.undoParcel r).Inv := by
  unfold State.undoParcel
  split
  · exact h
  · exact h
  · exact h.onPk (by rfl) (by rfl)
  · exact (h.physPut ..).forget ..
  · exact h.onPk (by rfl) (by rfl)

theorem State.Inv.undoEntry {s : State} (h : s.Inv) (e : SlagEntry) : (s.undoEntry e).Inv := by
  unfold State.undoEntry
  split
  · refine h.onMemories h.mem (foldl_keeps (P := (Memory.wf · = true)) h.scratch fun m i hm => ?_)
    split
    · exact cellSet_wf hm _ _
    · exact hm
  · exact h.onCore (by rfl)
  · exact h.onCore (by rfl)
  · exact h.undoParcel _

theorem State.Inv.undoSlag {s : State} (h : s.Inv) (cut : Nat) : (s.undoSlag cut).Inv :=
  (h.foldl (fun _ _ ht => ht.undoEntry _)).slagFree _

theorem State.Inv.discardAbove {s : State} (h : s.Inv) (cut : Nat) : (s.discardAbove cut).Inv :=
  ((((h.foldl (fun _ _ ht => ht.sideDrop _)).onPk (by rfl) (by rfl)).onCore (by rfl)).foldl (fun _ ⟨_, _⟩ ht => ht.addCounter ..)).onMat _

theorem State.Inv.rewindRing {s : State} (hs : s.Inv) (h : BitVec 4) (cut : Nat) : (s.rewindRing h cut).Inv := by
  unfold State.rewindRing
  split
  · exact hs
  · dsimp only
    split
    · exact hs.putRing ..
    · exact (hs.foldl (fun _ _ ht => State.Inv.ite (ht.putSlot ..) ht)).putRing ..

theorem State.Inv.restoreTiles {s : State} (h : s.Inv) (i : CutImage) : (s.restoreTiles i).Inv := by
  unfold State.restoreTiles
  refine h.foldl (fun _ _ ht => State.Inv.ite ?_ (ht.openTile _))
  split
  · exact (ht.keepPast _).onVec _
  · exact ht

theorem State.Inv.restoreAccs {s : State} (h : s.Inv) (i : CutImage) : (s.restoreAccs i).Inv := by
  unfold State.restoreAccs
  refine (h.foldl (fun _ _ ht => State.Inv.ite ?_ ht)).foldl (fun _ _ ht => State.Inv.ite ht (ht.openAcc _))
  split
  · exact ht.onMat _
  · exact ht

theorem State.Inv.restoreStrand {s : State} (h : s.Inv) (x : StrandId) (i : CutImage) (r : Run) : (s.restoreStrand x i r).Inv :=
  .ite ((h.onStrand ..).onSys (by rfl)) (h.onStrand ..)

theorem State.Inv.restoreImage {s : State} (h : s.Inv) (x : StrandId) (i : CutImage) (r : Run) : (s.restoreImage x i r).Inv := by
  unfold State.restoreImage
  refine State.Inv.restoreStrand ?_ ..
  split
  · exact h
  · exact h.onCore (by rfl)
  · exact (h.restoreTiles _).onVec _
  · exact (h.restoreAccs _).onMat _

theorem State.Inv.freeSnaps {s : State} (h : s.Inv) : s.freeSnaps.Inv := (h.onVec _).onMat _

theorem State.Inv.dropRecords {s : State} (h : s.Inv) (cut : Nat) : (s.dropRecords cut).Inv := by
  unfold State.dropRecords
  have ht : State.Inv (strandIds.foldl (fun s x => s.onStrand x fun t =>
      { t with eaf := t.eaf.filter fun r => decide (r.coord.key < cut) }) s) := h.foldl fun _ _ ht => ht.onStrand ..
  exact ht.onQueue (queueWithin_admitWaiting (queueWithin_sublist ht.queue List.filter_sublist) _)

theorem State.Inv.cutTo {s : State} (h : s.Inv) (cut : Nat) : (s.cutTo cut).Inv := by
  unfold State.cutTo
  refine ((((((((h.foldl (fun _ _ ht => State.Inv.ite ht (ht.landAll _))).undoSlag _).foldl (fun _ _ ht => ht.rewindRing ..)).onCore
    (by rfl)).discardAbove _).foldl (fun _ _ ht => State.Inv.ite ht ?_)).freeSnaps).dropRecords _).raiseHorizon _
  split
  · exact ht.restoreImage ..
  · exact ht.onStrand ..

theorem State.Inv.putPin {s : State} (h : s.Inv) (pin : Bool) : (s.putPin pin).Inv := h.onQu _

theorem State.Inv.settleNow {s : State} (h : s.Inv) : s.settleNow.Inv := (h.onQu _).raiseHorizon _

/-! ## Swage -/

theorem State.Inv.endSequence {s : State} (h : s.Inv) (x : StrandId) (q : Sequence) : (s.endSequence x q).Inv :=
  h.foldl (fun _ ⟨_, _⟩ ht => ht.putReg ..)

theorem State.Inv.runUops {s : State} (h : s.Inv) (x : StrandId) (item : Item) (tcode : BitVec 16) (fuel : Nat)
    (us : List (BitVec 32)) (q : Sequence) : (s.runUops x item tcode fuel us q).Inv := by
  induction fuel generalizing s us q with
  | zero => exact h.endSequence ..
  | succ fuel ih =>
    cases us with
    | nil => exact h.endSequence ..
    | cons u rest =>
      unfold State.runUops
      dsimp only
      split
      · exact ih h _ _
      · split
        · exact h.load _ _ _ fun _ _ ht => ih ht _ _
        · exact h.store _ _ _ _ _ fun _ ht => ih ht _ _
        · exact ih h _ _
        · exact Res.Inv.ite (ih h _ _) trivial
        · exact Res.Inv.ite (ih h _ _) trivial
        · trivial
        · exact h.endSequence ..

theorem State.Inv.emulate {s : State} (h : s.Inv) (x : StrandId) (t : SwageSlot) : (s.emulate x t).Inv := h.runUops ..

theorem State.Inv.finishPatched {s : State} (h : s.Inv) (x : StrandId) (n : BitVec 4) (eng : BitVec 4) {r : Res} (hr : r.Inv) :
    (s.finishPatched x n eng r).Inv := by
  cases r with
  | trap c d a => exact .ite (h.withCore (by rfl)) (((h.onStrand ..).raisePrecise ..).withCore (by rfl))
  | retire t => exact h.finish hr
  | jump t => exact h.finish hr
  | wait t => exact h.finish hr

theorem State.Inv.acceptPatch {s : State} (h : s.Inv) (i : PatchImage) : (s.acceptPatch i).Inv := h.onPk (by rfl) (by rfl)

theorem State.Inv.installPatches {s : State} (h : s.Inv) : s.installPatches.Inv := by
  have hk := foldl_keeps (P := fun k : Package => k.mu = s.pk.mu ∧ k.images = s.pk.images) (b := s.pk) (l := s.pk.patches)
    (f := fun k p => { k with
      swage := installSet k.swage p, vendorArb := if p.operator then k.vendorArb else p.arb
      operatorArb := if p.operator then p.arb else k.operatorArb }) ⟨rfl, rfl⟩ fun _ _ hk => hk
  exact h.onPk hk.1 hk.2

theorem State.Inv.swageItem {s : State} (h : s.Inv) (d a : BitVec 6) (bits : Nat) (k : BitVec 64 → BitVec 64) :
    (swageItem s d a bits k).Inv :=
  h.runItem (Res.Inv.ite trivial (h.putReg ..))

/-! ## Traps -/

theorem State.Inv.popRecord {s : State} (h : s.Inv) (resume : Bool) : (s.popRecord resume).Inv := by
  unfold State.popRecord
  split
  · exact h
  · refine .ite (((State.Inv.ite (h.resumeRecord ..) ?_).dropHead).resumeCut) ((State.Inv.ite (h.resumeRecord ..) ?_).dropHead)
    · split
      · exact .ite (h.sideDrop _) h
      · exact h
    · split
      · exact .ite (h.sideDrop _) h
      · exact h

theorem State.Inv.setEntry {s : State} (h : s.Inv) (n : Nat) (st : EntryState) (det : BitVec 8) : (s.setEntry n st det).Inv := h.onPk
    (by rfl) (by rfl)

theorem State.Inv.returnShadow {s : State} (h : s.Inv) : s.returnShadow.Inv := by
  unfold State.returnShadow
  split
  · exact h
  · exact (h.setEntry ..).putShadow _

theorem State.Inv.returnOverlap {s : State} (h : s.Inv) : s.returnOverlap.Inv := .ite h.returnShadow h

theorem State.Inv.releaseHeld {s : State} (h : s.Inv) : s.releaseHeld.Inv := (h.onCore (by rfl)).syncOverflow

theorem State.Inv.saveStrands {s : State} (h : s.Inv) : s.saveStrands.Inv := h.foldl (fun _ _ ht => ht.onStrand ..)

theorem State.Inv.rollBack {s : State} (h : s.Inv) : s.rollBack.Inv := (h.onSys (by rfl)).sendRequest _

theorem State.Inv.applyForced {s : State} (h : s.Inv) : s.applyForced.Inv := .ite ((((h.onSys (by rfl)).onMat _).releaseHeld).saveStrands)
    h.rollBack

theorem State.Inv.holdBack {s : State} (h : s.Inv) : s.holdBack.Inv := (h.onSys (by rfl)).returnOverlap

theorem State.Inv.forceMode {s : State} (h : s.Inv) : s.forceMode.Inv := .ite h.applyForced h.applyForced.holdBack

theorem State.Inv.endSave {s : State} (h : s.Inv) : s.endSave.Inv := ((((h.slagFree _).freeImages _).freeSnaps).onMat _).onSys (by rfl)

theorem State.Inv.raiseSystem {s : State} (h : s.Inv) (c : BitVec 6) (detail : BitVec 64) : (s.raiseSystem c detail).Inv :=
  h.raiseAsync ..

theorem State.Inv.deadlinePassed {s : State} (h : s.Inv) : s.deadlinePassed.Inv := ((h.onSys (by rfl)).raiseSystem ..).forceMode

theorem State.Inv.request {s : State} (h : s.Inv) (d : Nat) : (s.request d).Inv := .ite (h.onSys (by rfl)).deadlinePassed (h.onSys (by rfl))

theorem State.Inv.clearYreq {s : State} (h : s.Inv) : s.clearYreq.Inv :=
  ((State.Inv.ite (h.onMat _) h).foldl (fun _ _ ht => ht.onStrand ..)).onSys (by rfl)

theorem State.Inv.copySections {s : State} (h : s.Inv) (o : PlaneObject) : (s.copySections o).Inv :=
  h.foldl (fun _ ⟨_, _⟩ ht => ht.scratchPut ..)

theorem State.Inv.keepTiles {s : State} (h : s.Inv) : s.keepTiles.Inv := h.foldl (fun _ _ ht => ht.keepPast _)

theorem State.Inv.clearTask {s : State} (h : s.Inv) : s.clearTask.Inv :=
  ((((State.Inv.onCore (h.foldl fun _ _ ht => ht.onStrand ..) (by rfl)).freeSnaps).onVec _).onMat _).onQueue rfl

theorem State.Inv.rerunTask {s : State} (h : s.Inv) : s.rerunTask.Inv := by
  unfold State.rerunTask
  refine (((((((State.Inv.keepTiles ?_).clearTask).foldl (fun _ ⟨_, _⟩ ht => ?_)).copySections _).onMu (by rfl) (by rfl)).onQu _).onSys
    (by rfl)).onPk (by rfl) (by rfl)
  · split
    · exact h.foldl (fun _ _ ht => ht.rewindRing ..)
    · exact h
  · split
    · dsimp only
      split
      · exact ((ht.restoreStrand ..).onStrand ..).onCore (by rfl)
      · exact ((ht.restoreStrand ..).onStrand ..).onVec _
      · exact ((ht.restoreStrand ..).onStrand ..).onMat _
      · exact (ht.restoreStrand ..).onStrand ..
    · exact ht

theorem State.Inv.finishTask {s : State} (h : s.Inv) : s.finishTask.Inv := by
  unfold State.finishTask
  refine (((State.Inv.onMat ?_ _).onQu _).onSys (by rfl)).onPk (by rfl) (by rfl)
  split
  · exact h.setEntry ..
  · exact h

theorem State.Inv.idle {s : State} (h : s.Inv) : s.idle.Inv := ((h.foldl fun _ _ ht => ht.putStrand ..).onQueue rfl).onPk (by rfl) (by rfl)

theorem State.Inv.dropTickets {s : State} (h : s.Inv) : s.dropTickets.Inv := h.onPk (by rfl) (by rfl)

theorem State.Inv.scrubShared {s : State} (h : s.Inv) : s.scrubShared.Inv := by
  unfold State.scrubShared
  have ht := h.dropTickets
  exact ((((ht.onMemories (f := fun m => { m with scratch := cellClear m.scratch _ _ }) ht.mem
    (cellClear_wf ht.scratch _ _)).onPk (by rfl) (by rfl)).onCore (by rfl)).onVec _).onMat _

end Sys2Proof.Machine
end

section
/-!
PROOFS. The invariant (log 4, R101): scheduling, the supervisor's side of the system, and the system registers.
-/
namespace Sys2Proof.Machine

/-! ## Context images -/

/-- What the invariant asks of a context image. -/
def Image.Inv (i : Image) : Prop := Memory.wf i.scratch = true ∧ queueWithin i.core.sys.fq = true

/-- A new core whose fault queue is within its bounds. -/
theorem State.Inv.newCore {s : State} (h : s.Inv) {c : Core} {agenda : List Move} {turn ctr : Nat} {x : StrandId} {dry : Bool}
    {last : ItemEnd} (hc : queueWithin c.sys.fq = true) : State.Inv ⟨c, s.pk, agenda, turn, x, ctr, dry, last⟩ :=
  ⟨h.1, hc, h.2.2⟩

/-- Dropping context images keeps the invariant. -/
theorem State.Inv.dropImages {s : State} (h : s.Inv) {f : Package → Package} {p : Image → Bool} (hm : (f s.pk).mu = s.pk.mu)
    (hi : (f s.pk).images = s.pk.images.filter p) : (s.onPk f).Inv :=
  h.onImages hm fun _ hi' => h.images (List.mem_of_mem_filter (hi ▸ hi'))

theorem State.Inv.imageFor {s : State} (h : s.Inv) {b : BindRecord} {i : Image} (e : s.imageFor b = some i) : i.Inv :=
  h.images (List.mem_of_find?_eq_some e)

theorem State.Inv.nextSlice {s : State} (h : s.Inv) {i : Image} (e : s.nextSlice = some i) : i.Inv := by
  obtain ⟨d, -, hd⟩ := List.exists_of_findSome?_eq_some e
  exact h.images (List.mem_of_find?_eq_some hd)

theorem State.Inv.contextImage {s : State} (h : s.Inv) : s.contextImage.Inv := ⟨cellSlice_wf h.scratch _ _, h.queue⟩

theorem State.Inv.markEntry {s : State} (h : s.Inv) (entry : Option (BitVec 8)) (st : EntryState) (det : BitVec 8) :
    (s.markEntry entry st det).Inv := by
  cases entry with
  | none => exact h
  | some n => exact h.setEntry ..

theorem State.Inv.scrubContext {s : State} (h : s.Inv) : s.scrubContext.Inv := h.scrubShared.onMat _

theorem State.Inv.imagePlaced {s : State} (h : s.Inv) {i : Image} (hi : i.Inv) (o : PlaneObject) (named : List PlaneObject)
    (entry : Option (BitVec 8)) : (s.imagePlaced i o named entry).Inv := by
  obtain ⟨hscratch, hqueue⟩ := hi
  have hc : State.Inv { s.scrubContext with core := i.coreOn s.core !s.core.sys.planeAct } := h.scrubContext.newCore hqueue
  have hp := (hc.putShadow Plane.empty).putPlane ⟨s.scrubContext.resolve o, named, i.bind, entry, true⟩
  exact hp.onMemories hp.mem (cellPaste_wf hp.scratch hscratch _ _)

theorem State.Inv.imageBound {s : State} (h : s.Inv) (i : Image) (entry : Option (BitVec 8)) (base : Nat) :
    (s.imageBound i entry base).Inv := by
  unfold State.imageBound
  have ht : State.Inv (strandIds.foldl (fun t x => t.onStrand x fun u => { u with member := s.memberOf i.ctx i.lcore }) s) :=
    h.foldl fun _ _ ht => ht.onStrand ..
  exact (State.Inv.dropImages ht (by rfl) (by rfl)).markEntry ..

/-! ## Scheduling -/

theorem State.Inv.rejectEntry {s : State} (h : s.Inv) (n : Nat) (code : BitVec 8) (here : Bool) : (s.rejectEntry n code here).Inv :=
  .ite ((h.setEntry ..).raiseAsync ..) ((h.setEntry ..).toHearth _)

theorem State.Inv.leaveSaved {s : State} (h : s.Inv) : s.leaveSaved.Inv := by
  unfold State.leaveSaved
  have ht : State.Inv (if s.contextStays then s.dropTickets.keepTiles else s.scrubShared) := .ite h.dropTickets.keepTiles h.scrubShared
  have ht' : State.Inv (State.onCore _ fun c => { c with
      areg := Bank.zero, streams := Vector.replicate 16 Stream.reset, rowq := [], chainq := [], slag := [], sys := c.sys.left
      qu := { QuenchUnit.reset with
        peersReported := c.qu.peersReported, peersH := c.qu.peersH, peersMax := c.qu.peersMax, peersG := c.qu.peersG
        nextImage := c.qu.nextImage } }) := ht.newCore rfl
  exact ((((ht'.onVec _).onMu (by rfl) (by rfl)).putPlane _).onMat _).onPk (by rfl) (by rfl)

theorem State.Inv.saveImage {s : State} (h : s.Inv) (entry : Option (BitVec 8)) : (s.saveImage entry).Inv := by
  unfold State.saveImage
  have ht : State.Inv (s.onPk fun k => { k with
      images := (k.images.filter fun j => !(j.ctx == s.contextImage.ctx && j.lcore == s.contextImage.lcore)) ++
        [{ s.contextImage with entry := entry }] }) := by
    refine h.onImages rfl fun i hi => ?_
    rcases List.mem_append.mp hi with hi | hi
    · exact h.images (List.mem_of_mem_filter hi)
    · rw [List.mem_singleton] at hi
      subst hi
      exact h.contextImage
  exact (State.Inv.ite ht.returnOverlap ht).acquireAll.leaveSaved.idle

theorem State.Inv.saveTask {s : State} (h : s.Inv) : s.saveTask.Inv := by
  unfold State.saveTask
  dsimp only
  split
  · exact (h.saveImage _).setEntry ..
  · exact h.saveImage _

theorem State.Inv.leaveEngines {s : State} (h : s.Inv) : s.leaveEngines.Inv := (((h.onMat _).onCore (by rfl)).syncOverflow).onPk (by rfl)
    (by rfl)

theorem State.Inv.flipPlanes {s : State} (h : s.Inv) : s.flipPlanes.Inv := by
  unfold State.flipPlanes
  refine (State.Inv.settleStale ?_ ..).foldl (fun _ _ ht => ht.takeImage ..)
  split
  · exact ((((((((((((h.installPatches.leaveEngines.onSys (by rfl)).putShadow _).clearTask).onSys (by rfl)).onQu _).foldl
      (fun _ _ ht => ht.onStrand ..)).onCore (by rfl)).onVec _).onMat _).copySections _).onMu (by rfl) (by rfl)).onPk (by rfl)
      (by rfl)).setEntry ..
  · exact (((((((((((h.installPatches.leaveEngines.onSys (by rfl)).putShadow _).clearTask).onSys (by rfl)).onQu _).foldl
      (fun _ _ ht => ht.onStrand ..)).onCore (by rfl)).onVec _).onMat _).copySections _).onMu (by rfl) (by rfl)).onPk (by rfl) (by rfl)

theorem State.Inv.installImage {s : State} (h : s.Inv) {i : Image} (hi : i.Inv) (o : PlaneObject) (named : List PlaneObject)
    (entry : Option (BitVec 8)) : (s.installImage i o named entry).Inv := by
  rw [State.installImage_eq]
  have placed := h.imagePlaced hi o named entry
  have filled : State.Inv (i.pairs.foldl State.fillPair (s.imagePlaced i o named entry)) := placed.foldl fun _ _ ht => ht.fillPair _
  exact (filled.imageBound i entry _).acquireAll.foldl fun _ _ ht => ht.takeImage ..

theorem State.Inv.refuseImage {s : State} (h : s.Inv) (i : Image) : (s.refuseImage i).Inv := h.onPk (by rfl) (by rfl)

theorem State.Inv.restoreContext {s : State} (h : s.Inv) {i : Image} (hi : i.Inv) (entry : Option (BitVec 8)) :
    (s.restoreContext i entry).Inv := by
  unfold State.restoreContext
  split
  · exact .ite (h.installPatches.installImage hi ..) (h.refuseImage _)
  · exact h.refuseImage _

theorem State.Inv.swapImage {s : State} (h : s.Inv) {i : Image} (hi : i.Inv) : (s.swapImage i).Inv := by
  unfold State.swapImage
  refine .ite (h.restoreContext hi _) ((State.Inv.refuseImage ?_ _).putShadow _)
  split
  · exact h.setEntry ..
  · exact h

theorem State.Inv.swapTask {s : State} (h : s.Inv) : s.swapTask.Inv :=
  .ite ((State.Inv.ite ((State.Inv.ite h (h.scrubContext.onPk (by rfl) (by rfl))).keepTiles)
    (.ite h (h.scrubContext.onPk (by rfl) (by rfl)))).flipPlanes) (.ite h (h.scrubContext.onPk (by rfl) (by rfl)))

theorem State.Inv.planeswItem {s : State} (h : s.Inv) (d : BitVec 6) {f : State → State} (hf : ∀ t, t.Inv → (f t).Inv) :
    (planeswItem s d f).Inv :=
  h.runItem ((hf _ h).putReg ..)

theorem State.Inv.abandon {s : State} (h : s.Inv) : s.abandon.Inv := by
  unfold State.abandon
  refine (State.Inv.onQu ?_ _).idle
  split
  · exact (((h.onCore (by rfl)).freeSnaps.syncOverflow.onMat _).onPk (by rfl) (by rfl)).setEntry ..
  · exact ((h.onCore (by rfl)).freeSnaps.syncOverflow.onMat _).onPk (by rfl) (by rfl)

theorem State.Inv.hearthResume {s : State} (h : s.Inv) : s.hearthResume.Inv :=
  (h.onSys (by rfl)).foldl (fun _ _ ht => (ht.resumeEngine _).restart ..)

theorem State.Inv.hearthRollBack {s : State} (h : s.Inv) : s.hearthRollBack.Inv :=
  .ite (h.abandon.onSys (by rfl)) (.ite h.hearthResume.rollBack.holdBack h.hearthResume)

theorem State.Inv.takeNextSlice {s : State} (h : s.Inv) : s.takeNextSlice.Inv := by
  unfold State.takeNextSlice
  split
  · next e => exact .ite h ((State.Inv.ite h.returnShadow h).restoreContext (h.nextSlice e) _)
  · exact h

theorem State.Inv.scrubCore {s : State} (h : s.Inv) : s.scrubCore.Inv := by
  unfold State.scrubCore
  have ht := h.scrubContext
  have hm := ht.onMemories (f := fun m => { m with mem := (List.range 4).foldl (fun mem d =>
      cellClear mem (dieBase d + s.sys.slbase.toNat) (s.sys.slsize.toNat * 128)) m.mem })
    (foldl_keeps (P := (Memory.wf · = true)) ht.mem fun _ _ hm => cellClear_wf hm _ _) ht.scratch
  exact (hm.newCore rfl).onPk (by rfl) (by rfl)

theorem State.Inv.beginRevoke {s : State} (h : s.Inv) (vf : Option (BitVec 6)) : (s.beginRevoke vf).Inv :=
  .ite (((h.onPk (by rfl) (by rfl)).returnShadow.raiseSystem ..).rollBack) (h.onPk (by rfl) (by rfl)).returnShadow

theorem State.Inv.teardownCore {s : State} (h : s.Inv) (vf : BitVec 6) : (s.teardownCore vf).Inv := .ite h
    (.ite (h.onPk (by rfl) (by rfl)) (h.beginRevoke _))

theorem State.Inv.nextTeardown {s : State} (h : s.Inv) : s.nextTeardown.Inv := (h.onPk (by rfl) (by rfl)).foldl
    (fun _ _ ht => ht.teardownCore _)

theorem State.Inv.joinPartition {s : State} (h : s.Inv) (p : BitVec 6) : (s.joinPartition p).Inv := (h.onPk (by rfl) (by rfl)).onPk
    (by rfl) (by rfl)

theorem State.Inv.endRevoke {s : State} (h : s.Inv) : s.endRevoke.Inv := ((h.scrubCore.joinPartition _).onPk (by rfl) (by rfl)).nextTeardown

/-! ## The supervisor -/

theorem State.Inv.refuseItem {s : State} (h : s.Inv) (w : BitVec 32) (compact : Bool) (legal : List StrandId) (priv : Bool) (c : BitVec 6) :
    (refuseItem s w compact legal priv c).Inv :=
  .ite h (h.runItem trivial)

theorem State.Inv.mailWrite {s : State} (h : s.Inv) (vf : Option (BitVec 6)) (off : Nat) (v : BitVec 64) (payload : MailPayload) :
    (s.mailWrite vf off v payload).Inv := by
  unfold State.mailWrite
  dsimp only
  split
  · exact .ite h (h.onPk (by rfl) (by rfl))
  · exact h.onPk (by rfl) (by rfl)
  · exact h.onPk (by rfl) (by rfl)
  · exact h.onPk (by rfl) (by rfl)
  · exact h

theorem State.Inv.mailDone {s : State} (h : s.Inv) (c : MailCommand) (code : BitVec 8) : (s.mailDone c code).Inv := h.onPk (by rfl) (by rfl)

theorem State.Inv.serve {s : State} (h : s.Inv) (opcode : BitVec 8) (physicalOnly : Bool) {k : MailCommand → State} (hk : ∀ a, (k a).Inv) :
    (s.serve opcode physicalOnly k).Inv := by
  unfold State.serve
  split
  · exact h
  · exact .ite (h.mailDone ..) (.ite h (.ite (h.mailDone ..) (.ite h (.ite (h.mailDone ..) (hk _)))))

theorem State.Inv.mailOpen {s : State} (h : s.Inv) (c : MailCommand) : (s.mailOpen c).Inv := (h.fresh 8).mailDone ..

theorem State.Inv.refreshMembers {s : State} (h : s.Inv) : s.refreshMembers.Inv := .ite h (h.foldl (fun _ _ ht => ht.onStrand ..))

theorem State.Inv.forgetContext {s : State} (h : s.Inv) (ctx : BitVec 32) : (s.forgetContext ctx).Inv :=
  ((State.Inv.ite h.returnShadow h).onMu (by rfl) (by rfl)).dropImages (by rfl) (by rfl)

theorem State.Inv.configure {s : State} (h : s.Inv) (r : ConfigCommand) : OptionInv (s.configure r) := by
  unfold State.configure
  split
  · exact OptionInv.ite trivial (State.Inv.ite (((h.onPk (by rfl) (by rfl)).onMu (by rfl) (by rfl)).joinPartition _)
      ((h.onPk (by rfl) (by rfl)).onMu (by rfl) (by rfl)))
  · exact OptionInv.ite trivial (State.Inv.ite ((h.onPk (by rfl) (by rfl)).scrubCore.joinPartition _) (h.onPk (by rfl) (by rfl)))
  · exact h.onMu (by split <;> rfl) (by split <;> rfl)
  · exact h.onPk (by rfl) (by rfl)
  · exact h.onPk (by rfl) (by rfl)
  · exact trivial
  · exact OptionInv.ite trivial (h.onPk (by rfl) (by rfl))
  · exact OptionInv.ite trivial (h.onPk (by rfl) (by rfl))
  · exact h.onPk (by rfl) (by rfl)
  · split
    · exact trivial
    · exact OptionInv.ite trivial (h.onPk (by rfl) (by rfl))

theorem State.Inv.bootFlash {s : State} (h : s.Inv) (l : List (List (BitVec 8))) : (s.bootFlash l).1.Inv := by
  induction l generalizing s with
  | nil => exact h
  | cons bs rest ih =>
    unfold State.bootFlash
    dsimp only
    split
    · exact ih (h.acceptPatch _)
    · exact h

theorem State.Inv.bootPass {s : State} (h : s.Inv) (step : Nat) (ceil : BitVec 16) : (s.bootPass step ceil).Inv := by
  unfold State.bootPass
  refine State.Inv.onPk ?_ (by rfl) (by rfl)
  split
  · exact h.onMat _
  · exact h.onMu (by rfl) (by rfl)
  · exact h.bootFlash _
  · exact h

theorem State.Inv.boot {s : State} (h : s.Inv) (fail : Nat) (ceil : BitVec 16) (n step : Nat) : (s.boot fail ceil n step).Inv := by
  induction n generalizing s step with
  | zero => exact h
  | succ n ih =>
    unfold State.boot
    exact .ite (h.onPk (by rfl) (by rfl)) (.ite ((h.bootFlash _).onPk (by rfl) (by rfl)) (ih (h.bootPass ..) _))

theorem State.Inv.switchCircuits {s : State} (h : s.Inv) : s.switchCircuits.Inv := by
  unfold State.switchCircuits
  split
  · exact .ite (h.onPk (by rfl) (by rfl)).refreshMembers h
  · exact h

theorem State.Inv.onPort {s : State} (h : s.Inv) (n : Nat) (f : LinkPort → LinkPort) : (s.onPort n f).Inv :=
  h.onPk (by split <;> rfl) (by split <;> rfl)

/-! ## System registers -/

theorem State.Inv.writeFq {s : State} (h : s.Inv) (v : BitVec 64) : (s.writeFq v).Inv := .ite ((h.onSys (by rfl)).popRecord _)
    (h.onSys (by rfl))

theorem State.Inv.writeFrec1 {s : State} (h : s.Inv) (v : BitVec 64) : (s.writeFrec1 v).Inv := by
  unfold State.writeFrec1
  refine h.onQueue ?_
  have hq := h.queue
  split
  · next e =>
    rw [e] at hq
    exact queueWithin_head hq rfl
  · exact hq

theorem State.Inv.writeYreq {s : State} (h : s.Inv) (v : BitVec 64) : (s.writeYreq v).Inv := .ite (.ite h (h.request _)) h.clearYreq

theorem State.Inv.parkNow {s : State} (h : s.Inv) (v : BitVec 64) : OptionInv (s.parkNow v) := OptionInv.ite (h.unparkNow ..) (h.park ..)

theorem State.Inv.writePland {s : State} (h : s.Inv) (v : BitVec 64) : (s.writePland v).Inv := .ite h (h.putInbox ..)

theorem State.Inv.sysWrite {s : State} (h : s.Inv) (x : StrandId) (n : Nat) (v : BitVec 64) : (s.sysWrite x n v).Inv := by
  unfold State.sysWrite
  dsimp only
  split
  · exact h.onStrand ..
  · exact h.onSys (by rfl)
  · exact .ite h (h.onSys (by rfl))
  · exact h.onSys (by rfl)
  · exact h.onSys (by rfl)
  · exact h.onSys (by rfl)
  · exact h.writeYreq _
  · exact h.onSys (by rfl)
  · exact h.onSys (by rfl)
  · exact h.onSys (by rfl)
  · exact h.writeFq _
  · exact h.writeFrec1 _
  · exact h.onStrand ..
  · exact h.onSys (by rfl)
  · exact .ite (h.onSys (by rfl)) h
  · exact .ite (h.onSys (by rfl)) h
  · exact h.onSys (by rfl)
  · exact h.onVec _
  · exact h.onVec _
  · exact h.getD (h.parkNow _)
  · exact .ite (h.onVec _) h
  · exact h.putMcarry _
  · exact .ite (h.onMat _) h
  · exact h.onSys (by rfl)
  · exact h.putInbox ..
  · exact .ite (h.onSys (by rfl)) h
  · exact h.putPin _
  · exact h.writePland _
  · exact h.returnFrames _
  · exact h

end Sys2Proof.Machine
end

section
/-!
PROOFS. The invariant (log 4, R101): every instruction keeps it.
-/
namespace Sys2Proof.Machine

/-- The state that an instruction leaves meets the invariant. -/
def OutcomeInv : Host.Outcome State Fault Refusal → Prop
  | .next s => s.Inv
  | _ => True

theorem OutcomeInv.ite {c : Prop} [Decidable c] {o o' : Host.Outcome State Fault Refusal} (ho : OutcomeInv o) (ho' : OutcomeInv o') :
    OutcomeInv (if c then o else o') := by
  split
  · exact ho
  · exact ho'

/-- A change of every package that leaves its memories and images alone. -/
theorem State.Inv.onAnyPk {s : State} (h : s.Inv) {f : Package → Package} (hm : ∀ k, (f k).mu = k.mu)
    (hi : ∀ k, (f k).images = k.images) : (s.onPk f).Inv :=
  h.onPk (hm _) (hi _)

/-! ## Loads: the moves -/

theorem State.Inv.execLdt {s : State} (h : s.Inv) (d a : BitVec 6) (l : BitVec 3) (i : BitVec 7) : OutcomeInv (execLdt d a l i s) := by
  unfold Machine.execLdt
  refine h.runItem ?_
  split
  · split
    · next e =>
        have ht := (h.translate ..).ok e
        exact Res.Inv.ite (h.load _ _ _ (fun _ _ ht' => ht'.onStrand ..)) trivial
    · exact h.load _ _ _ (fun _ _ ht => ht.onStrand ..)
  · exact h.load _ _ _ (fun _ _ ht => ht.onStrand ..)

/-! ## Atomics: the moves -/

theorem State.Inv.execSideLogPerform {s : State} (h : s.Inv) (x : StrandId) : OutcomeInv (execSideLogPerform x s) := by
  unfold Machine.execSideLogPerform
  split
  · exact h
  · refine State.Inv.ite h ?_
    dsimp only
    split
    · next e => exact (h.leaveCheck ..).wait e
    · next e =>
        have ht := (h.leaveCheck ..).sealed_ e
        exact (ht.sideSet ..).startDrain _
    · next e =>
        have ht := (h.leaveCheck ..).fail e
        exact ht.leaveFails ..
    · next e =>
        have ht := (h.leaveCheck ..).ok e
        refine State.Inv.ite (ht.performStore _) ?_
        split
        · exact ht.leaveFails ..
        · exact ht.performAtomic _

theorem State.Inv.execAtomicResultReturn {s : State} (h : s.Inv) (x : StrandId) : OutcomeInv (execAtomicResultReturn x s) := by
  unfold Machine.execAtomicResultReturn
  dsimp only
  split
  · exact h
  · refine State.Inv.ite h (.ite (.ite h (h.finish (h.onStrand ..))) ?_)
    split
    · exact h.finish (h.atomicResult ..)
    · exact h

theorem State.Inv.execCausalApply {s : State} (h : s.Inv) (die : BitVec 2) (k : Nat) : OutcomeInv (execCausalApply die k s) := by
  unfold Machine.execCausalApply
  split
  · exact State.Inv.ite (h.applyStamped ..) h
  · exact h

/-! ## Control items: the moves -/

theorem State.Inv.execEret {s : State} (h : s.Inv) : OutcomeInv (execEret s) := by
  unfold Machine.execEret
  refine h.runItem (Res.Inv.ite trivial ?_)
  split
  · exact trivial
  · exact h.leaveS _

/-! ## Rings: the moves -/

theorem State.Inv.execRingDef {s : State} (hs : s.Inv) (h : BitVec 4) (a : BitVec 6) : OutcomeInv (execRingDef h a s) := by
  unfold Machine.execRingDef
  refine hs.runItem (Res.Inv.ite hs ?_)
  split
  · exact trivial
  · next r _ _ =>
    have ht : State.Inv (s.onPk fun k => { k with rings := kSet k.rings (s.pk.pcore.toNat * 16 + h.toNat) r }) := hs.onPk (by rfl) (by rfl)
    exact State.Inv.ite ht (ht.onMemories ht.mem (cellClear_wf ht.scratch _ _))

theorem State.Inv.execRingStall {s : State} (h : s.Inv) (x : StrandId) : OutcomeInv (execRingStall x s) := by
  unfold Machine.execRingStall
  dsimp only
  split
  · exact (h.onStrand ..).raiseAsync ..
  · split
    · exact h.raiseStreamStall _
    · exact h

/-! ## Streams: the moves -/

theorem State.Inv.execSgo {s : State} (h : s.Inv) (n : BitVec 4) : OutcomeInv (execSgo n s) := by
  unfold Machine.execSgo
  refine h.runItem (Res.Inv.ite trivial ?_)
  split
  · exact trivial
  · split
    · exact trivial
    · split
      · exact trivial
      · refine Res.Inv.ite (h.startStream _) ?_
        split
        · exact trivial
        · next e =>
          have ht := h.timedFault (at16 s.core.streams n).desc
          rw [e] at ht
          exact ht.startStream _

theorem State.Inv.execStreamSlotFill {s : State} (h : s.Inv) (q : BitVec 4) : OutcomeInv (execStreamSlotFill q s) := by
  unfold Machine.execStreamSlotFill
  refine State.Inv.ite h ?_
  split
  · exact h.streamFails ..
  · split
    · exact h.streamWaits ..
    · refine State.Inv.ite (h.streamFails ..) ?_
      dsimp only
      split
      · next e =>
          have ht := (h.readParts ..).ok e
          exact ht.placeSlot ..
      · next e => exact (h.readParts ..).wait e
      · next e =>
          have ht := (h.readParts ..).fail e
          exact ht.streamFails ..

theorem State.Inv.execTlook {s : State} (h : s.Inv) (d a : BitVec 6) : OutcomeInv (execTlook d a s) := by
  unfold Machine.execTlook
  refine h.runItem ?_
  split
  · exact (State.Inv.ite (h.acquire ..) h).putReg ..
  · exact h.putReg ..

/-! ## Row commands and chain passes: the moves -/

theorem State.Inv.execChainPassStart {s : State} (h : s.Inv) : OutcomeInv (execChainPassStart s) := by
  unfold Machine.execChainPassStart
  split
  · exact h
  · refine State.Inv.ite h ?_
    split
    · exact (h.onCore (by rfl)).raiseEngine ..
    · exact h.onCore (by rfl)

theorem State.Inv.execChainPassComplete {s : State} (h : s.Inv) : OutcomeInv (execChainPassComplete s) := by
  unfold Machine.execChainPassComplete
  split
  · exact h
  · exact State.Inv.ite h (h.runPass ..)

theorem State.Inv.execRowCommandStart {s : State} (h : s.Inv) : OutcomeInv (execRowCommandStart s) := by
  unfold Machine.execRowCommandStart
  dsimp only
  split
  · exact h
  · split
    · exact h
    · refine State.Inv.ite h ?_
      split
      · exact (h.onCore (by rfl)).raiseEngine ..
      · exact h.onCore (by rfl)

theorem State.Inv.execRowPhaseEnd {s : State} (h : s.Inv) (phase : Nat) : OutcomeInv (execRowPhaseEnd phase s) := by
  unfold Machine.execRowPhaseEnd
  dsimp only
  split
  · exact h
  · split
    · exact h
    · refine State.Inv.ite h ?_
      split
      · exact h
      · next e =>
          have ht := (h.doRow _).some e
          exact ht.onCore (by rfl)

/-! ## Matrix: the moves -/

theorem State.Inv.execMloadbBlockLoaded {s : State} (h : s.Inv) : OutcomeInv (execMloadbBlockLoaded s) := by
  unfold Machine.execMloadbBlockLoaded
  split
  · exact h
  · refine State.Inv.ite h ?_
    split
    · exact h.matrixFails ..
    · exact State.Inv.ite ((h.loadBlock ..).popMatrix _) ((h.loadBlock ..).setHead _)

theorem State.Inv.execMatrixWaveCommit {s : State} (h : s.Inv) : OutcomeInv (execMatrixWaveCommit s) := by
  unfold Machine.execMatrixWaveCommit
  split
  · exact h
  · refine State.Inv.ite h (.ite ?_ ?_)
    · split
      · next e => exact (h.formBlock ..).wait e
      · next e =>
          have ht := (h.formBlock ..).fail e
          exact ht.matrixFails ..
      · next e =>
          have ht := (h.formBlock ..).check e
          exact (ht.onMat _).matrixFails ..
      · next e =>
          have ht := (h.formBlock ..).ok e
          refine State.Inv.ite ?_ ((ht.onMat _).blockDone _)
          split
          · next e =>
              have ht' := (ht.commitBlock ..).some e
              exact (ht'.onMat _).blockDone _
          · exact ht
    · split
      · exact h.popMatrix _
      · split
        · next e =>
            have ht := (h.commitBlock ..).some e
            exact ht.blockDone _
        · exact h

theorem State.Inv.execMatrixOpBegin {s : State} (h : s.Inv) : OutcomeInv (execMatrixOpBegin s) := by
  unfold Machine.execMatrixOpBegin
  split
  · exact h
  · exact State.Inv.ite h (.ite (h.runWhole _) (.ite h (.ite (h.requestUnits ..) (((h.onMat _).beginOp _).runWhole _))))

/-! ## Items of strand M: the moves -/

theorem State.Inv.execMloadb {s : State} (h : s.Inv) (q sc : BitVec 7) : OutcomeInv (execMloadb q sc s) := by
  unfold Machine.execMloadb
  refine h.runItem (Res.Inv.guarded (⟨trivial, trivial, trivial, trivial, trivial, trivial, trivial, trivial, trivial⟩) ?_)
  split
  · exact trivial
  · exact Res.Inv.guarded (⟨trivial, trivial, trivial⟩) (h.queueSlots _ _ _ _ (fun _ _ ht => (ht.onMat _).pushMatrix _))

theorem State.Inv.execMcsum {s : State} (h : s.Inv) (d sc : BitVec 7) : OutcomeInv (execMcsum d sc s) := by
  unfold Machine.execMcsum
  refine h.runItem ?_
  split
  · exact h.atomicResult ..
  · exact Res.Inv.guarded (⟨trivial, trivial, trivial, trivial⟩) (Res.Inv.ite h (((h.onCore (by rfl)).pushMatrix _).onStrand ..))

theorem State.Inv.execMfill {s : State} (h : s.Inv) (z a : BitVec 7) : OutcomeInv (execMfill z a s) := by
  unfold Machine.execMfill
  refine h.runItem (Res.Inv.ite trivial (Res.Inv.ite trivial ?_))
  split
  · exact trivial
  · exact Res.Inv.inBounds _ _ _ _ _ _ (h.queueOp _)
  · next va _ =>
    generalize va + 262144 = last
    exact Res.Inv.ite trivial (h.queueOp _)

/-! ## Parcels: the moves -/

theorem State.Inv.execPopen {s : State} (h : s.Inv) (d a b : BitVec 6) : OutcomeInv (execPopen d a b s) := by
  unfold Machine.execPopen
  refine h.runItem (Res.Inv.ite trivial ?_)
  split
  · next e =>
    obtain ⟨va, -, he⟩ := List.exists_of_findSome?_eq_some e
    exact Res.Inv.openFault he
  · refine Res.Inv.ite trivial ?_
    split
    · exact trivial
    · exact Res.Inv.ite h (((h.putParcel ..).putLeaves ..).putReg ..)

theorem State.Inv.execPstref {s : State} (h : s.Inv) (d a b : BitVec 6) : OutcomeInv (execPstref d a b s) := by
  unfold Machine.execPstref
  refine h.runItem (Res.Inv.byRef _ _ _ _ (fun _ => Res.Inv.ite ?_ (h.store _ _ _ _ _ (fun _ ht => ht))))
  split
  · next e => exact (h.checkWrite ..).wait e
  · exact trivial
  · exact trivial

/-! ## Copy engines: the moves -/

theorem State.Inv.execCpgo {s : State} (h : s.Inv) (a d : BitVec 6) : OutcomeInv (execCpgo a d s) := by
  unfold Machine.execCpgo
  refine h.runItem ?_
  split
  · exact trivial
  · exact trivial
  · exact Res.Inv.ite trivial (Res.Inv.ite h (h.withRecord (fun _ => (h.startChain ..).putReg ..)))

theorem State.Inv.execCpwait {s : State} (h : s.Inv) (t d : BitVec 6) : OutcomeInv (execCpwait t d s) := by
  unfold Machine.execCpwait
  refine h.runItem (Res.Inv.ite trivial ?_)
  dsimp only
  split
  · exact (h.freeKilled _).putReg ..
  · split
    · exact (h.freeKilled _).putReg ..
    · exact (h.freeKilled _).putReg ..
    · exact (h.freeKilled _).putReg ..
    · exact Res.Inv.ite trivial h
    · exact h

theorem State.Inv.execChainRelease {s : State} (h : s.Inv) (tag : BitVec 6) : OutcomeInv (execChainRelease tag s) := by
  unfold Machine.execChainRelease
  refine State.Inv.ite h ?_
  dsimp only
  split
  · exact (((h.settlePaths ..).putChain ..).onPk (by rfl) (by rfl)).unmapParcel _
  · exact ((h.settlePaths ..).putChain ..).onPk (by rfl) (by rfl)

theorem State.Inv.execEngineTakeChain {s : State} (h : s.Inv) (engine : BitVec 4) : OutcomeInv (execEngineTakeChain engine s) := by
  unfold Machine.execEngineTakeChain
  split
  · exact h
  · exact State.Inv.ite h ((h.putChain ..).onPk (by rfl) (by rfl))

theorem State.Inv.execCpkill {s : State} (h : s.Inv) (t : BitVec 6) : OutcomeInv (execCpkill t s) := by
  unfold Machine.execCpkill
  refine h.runItem (Res.Inv.ite trivial (Res.Inv.ite trivial ?_))
  split
  · exact h
  · split
    · exact h
    · exact h
    · exact h
    · exact Res.Inv.ite trivial (Res.Inv.ite (h.killChain _) (h.killChain _))

theorem State.Inv.execChainCopy {s : State} (h : s.Inv) (tag : BitVec 6) : OutcomeInv (execChainCopy tag s) := by
  unfold Machine.execChainCopy
  refine h.atEntry _ _ fun s c e ht => State.Inv.ite ht ?_
  have hb : State.Inv (if c.begun then s else
      match s.followKey e with
      | some key => (s.putChain tag (c.begin_ 0)).addCounter key 1
      | none => s.putChain tag (c.begin_ 0)) := by
    refine .ite ht ?_
    split
    · exact (ht.putChain ..).addCounter ..
    · exact ht.putChain ..
  dsimp only
  split
  · exact hb.moveDone ..
  · split
    · next e => exact (hb.copyRead ..).wait e
    · next e => exact ((hb.copyRead ..).fail e).chainStops ..
    · next e =>
      have hc := (hb.copyRead ..).ok e
      refine .ite (hc.chainStops ..) ?_
      split
      · next e' => exact ((hc.overlapped_ ..).entryWrite ..).wait e'
      · next e' => exact (((hc.overlapped_ ..).entryWrite ..).fail e').chainStops ..
      · next e' =>
        have hw := ((hc.overlapped_ ..).entryWrite ..).done e'
        exact (State.Inv.ite (hw.poisonTo ..) hw).putChain ..

theorem State.Inv.execChainRread {s : State} (h : s.Inv) (tag : BitVec 6) : OutcomeInv (execChainRread tag s) := by
  unfold Machine.execChainRread
  refine h.atEntry _ _ (fun _ _ _ ht => ht.beginRemote _ _ _ (fun _ _ ht' => ?_))
  split
  · exact ht'.nextEntry _
  · exact ht'.sendFor ..

theorem State.Inv.execChainRwrite {s : State} (h : s.Inv) (tag : BitVec 6) : OutcomeInv (execChainRwrite tag s) := by
  unfold Machine.execChainRwrite
  refine h.atEntry _ _ (fun _ _ _ ht => ht.beginRemote _ _ _ (fun _ _ ht' => ?_))
  split
  · exact ht'.nextEntry _
  · split
    · next e => exact ((ht'.putChain ..).entryRead ..).wait e
    · next e =>
        have ht2 := ((ht'.putChain ..).entryRead ..).fail e
        exact ht2.chainStops ..
    · next e =>
        have ht2 := ((ht'.putChain ..).entryRead ..).ok e
        exact ht2.sendFor ..

theorem State.Inv.execChainRreduce {s : State} (h : s.Inv) (tag : BitVec 6) : OutcomeInv (execChainRreduce tag s) := by
  unfold Machine.execChainRreduce
  refine h.atEntry _ _ (fun _ _ _ ht => ht.beginRemote _ _ _ (fun _ _ ht' => State.Inv.ite (ht'.nextEntry _) ?_))
  dsimp only
  split
  · next e => exact (ht'.entryRead ..).wait e
  · next e =>
      have ht2 := (ht'.entryRead ..).fail e
      exact ht2.chainStops ..
  · next e =>
      have ht2 := (ht'.entryRead ..).ok e
      refine State.Inv.ite (ht2.sendFor ..) ?_
      split
      · next e => exact (ht2.shadedReduce ..).wait e
      · next e =>
          have ht3 := (ht2.shadedReduce ..).fail e
          exact ht3.chainStops ..
      · next e =>
          have ht3 := (ht2.shadedReduce ..).done e
          exact ht3.putChain ..

theorem State.Inv.execChainRoute {s : State} (h : s.Inv) (tag : BitVec 6) : OutcomeInv (execChainRoute tag s) := by
  unfold Machine.execChainRoute
  refine h.atEntry _ _ (fun _ _ _ ht => State.Inv.ite (.ite ((ht.putChain ..).nextEntry _) ?_) ?_)
  · dsimp only
    split
    · next e =>
        have ht' := ((ht.putChain ..).routeWrites ..).done e
        exact ht'.nextEntry _
    · exact (ht.putChain ..).withAsks
    · exact ((ht.putChain ..).withAsks).chainStops ..
  · split
    · next e => exact ((ht.putChain ..).entryRead ..).wait e
    · next e =>
        have ht' := ((ht.putChain ..).entryRead ..).fail e
        exact ht'.chainStops ..
    · next e =>
        have ht' := ((ht.putChain ..).entryRead ..).ok e
        refine State.Inv.ite (ht'.putChain ..) (.ite ((ht'.openWords _).chainBad ..)
          (.ite ?_ (ht'.routeReads _ _ _ (fun _ _ ht2 => ht2.routeReads _ _ _
          (fun _ _ ht3 => ht3.routeReads _ _ _ (fun _ _ ht4 => ht4.routeReads _ _ _ (fun _ _ ht5 => ?_)))))))
        · dsimp only
          split
          · next e =>
              have ht2 := (ht'.routeWrites ..).done e
              exact (ht2.putChain ..).putChain ..
          · exact (ht.putChain ..).withAsks
          · exact ((ht.putChain ..).withAsks).chainStops ..
        · dsimp only
          split
          · next e =>
              have ht6 := (ht5.routeWrites ..).done e
              exact ht6.putChain ..
          · exact (ht.putChain ..).withAsks
          · exact ((ht.putChain ..).withAsks).chainStops ..

theorem State.Inv.execChainSignal {s : State} (h : s.Inv) (tag : BitVec 6) : OutcomeInv (execChainSignal tag s) := by
  unfold Machine.execChainSignal
  refine h.atEntry _ _ (fun _ _ _ ht => ht.beginRemote _ _ _ (fun _ _ ht' => State.Inv.ite ht'
    (.ite (.ite ((ht'.partEntries _).sendFor ..) (ht'.nextEntry _)) ?_)))
  split
  · next e => exact (ht'.signalAt ..).wait e
  · next e =>
      have ht2 := (ht'.signalAt ..).fail e
      exact ht2.chainStops ..
  · next e =>
      have ht2 := (ht'.signalAt ..).done e
      exact (ht2.partEntries _).nextEntry _

theorem State.Inv.execCondWaitLimit {s : State} (h : s.Inv) (tag : BitVec 6) : OutcomeInv (execCondWaitLimit tag s) := by
  unfold Machine.execCondWaitLimit
  dsimp only
  split
  · exact h
  · exact State.Inv.ite ((h.onPk (by rfl) (by rfl)).chainBad ..) h

theorem State.Inv.execFollowOnMmaJoin {s : State} (h : s.Inv) (step : FollowStep) : OutcomeInv (execFollowOnMmaJoin step s) := by
  unfold Machine.execFollowOnMmaJoin
  split
  · exact h.joinOwn ..
  · split
    · exact h
    · exact (h.onPk (by rfl) (by rfl)).addCounter ..
  · exact State.Inv.ite h (h.addCounter ..)
  · exact State.Inv.ite h (h.addCounter ..)
  · refine State.Inv.ite h ?_
    split
    · exact h.addCounter ..
    · exact h.joinMma ..

/-! ## Vector items: the moves -/

theorem State.Inv.execCvt {s : State} (h : s.Inv) (d a : BitVec 7) (f : BitVec 4) (p : BitVec 3) (t : BitVec 4) :
    OutcomeInv (execCvt d a f p t s) := by
  unfold Machine.execCvt
  split
  · exact h.vecItem _ _ (h.tileSource _ _ (fun _ _ ht => ht.tileIn _ (fun _ _ ht' => ht'.writeLanes ..)))
  · exact h.vecItem _ _ h

/-! ## Posts and the fabric: the moves -/

theorem State.Inv.execChainPost {s : State} (h : s.Inv) (tag : BitVec 6) : OutcomeInv (execChainPost tag s) := by
  unfold Machine.execChainPost
  refine h.atEntry _ _ (fun _ _ _ ht => State.Inv.ite ht ?_)
  split
  · exact ht.chainFails ..
  · dsimp only
    split
    · exact (((ht.onPk (by rfl) (by rfl)).unmapParcel _).putChain ..).postFails ..
    · split
      · next e => exact ((((ht.onPk (by rfl) (by rfl)).unmapParcel _).putChain ..).parcelBytes ..).wait e
      · next e =>
          have ht' := ((((ht.onPk (by rfl) (by rfl)).unmapParcel _).putChain ..).parcelBytes ..).fail e
          exact ht'.chainStops ..
      · next e =>
          have ht' := ((((ht.onPk (by rfl) (by rfl)).unmapParcel _).putChain ..).parcelBytes ..).ok e
          exact ht'.sendFor ..

theorem State.Inv.execFabricPacketReceive {s : State} (h : s.Inv) : OutcomeInv (execFabricPacketReceive s) := by
  unfold Machine.execFabricPacketReceive
  split
  · exact h
  · refine State.Inv.ite (h.discardPacket _) ?_
    split
    · exact h.receiveReply ..
    · refine State.Inv.ite (h.answer ..) ?_
      split
      · exact h.answer ..
      · exact State.Inv.ite (h.inContext _ (fun _ ht => ht.performPacket _))
          (.ite h.packetDone ((h.accept _).inContext _ (fun _ ht => ht.performPacket _)))

theorem State.Inv.execFabricTimeout {s : State} (h : s.Inv) (tag : BitVec 6) : OutcomeInv (execFabricTimeout tag s) := by
  unfold Machine.execFabricTimeout
  split
  · exact h
  · exact State.Inv.ite h (.ite (.ite ((h.onPk (by rfl) (by rfl)).unitEnds _)
      (.ite (((h.onPk (by rfl) (by rfl)).putChain ..).refusedFar ..) ((h.onPk (by rfl) (by rfl)).refusedFar ..)))
      (h.onPk (by rfl) (by rfl)))

/-! ## The memory unit: the moves -/

theorem State.Inv.execTlbinv {s : State} (h : s.Inv) (a b : BitVec 6) : OutcomeInv (execTlbinv a b s) := by
  unfold Machine.execTlbinv
  refine h.memoryItem _ _ ?_
  split
  · exact trivial
  · exact h.beginShootdown ..

theorem State.Inv.execPgdisc {s : State} (h : s.Inv) (a b : BitVec 6) : OutcomeInv (execPgdisc a b s) := by
  unfold Machine.execPgdisc
  refine h.memoryItem _ _ ?_
  split
  · exact trivial
  · exact Res.Inv.ite (h.setLeaves ..) trivial

theorem State.Inv.execPgseal {s : State} (h : s.Inv) (d a : BitVec 6) : OutcomeInv (execPgseal d a s) := by
  unfold Machine.execPgseal
  refine h.memoryItem _ _ ?_
  split
  · exact trivial
  · exact trivial
  · refine Res.Inv.ite trivial ?_
    dsimp only
    split
    · exact trivial
    · split
      · exact trivial
      · exact Res.Inv.ite trivial ((((h.setLeaves ..).onMu (by rfl) (by rfl)).forgetCopies ..).putReg ..)

theorem State.Inv.execPgsealClr {s : State} (h : s.Inv) (a : BitVec 6) : OutcomeInv (execPgsealClr a s) := by
  unfold Machine.execPgsealClr
  refine h.memoryItem _ _ (Res.Inv.ite trivial ?_)
  split
  · exact trivial
  · exact (h.onMu (by rfl) (by rfl)).unseal _

theorem State.Inv.execDemandDrainComplete {s : State} (h : s.Inv) (k : Nat) : OutcomeInv (execDemandDrainComplete k s) := by
  unfold Machine.execDemandDrainComplete
  split
  · exact h
  · split
    · exact h
    · refine State.Inv.ite h ?_
      dsimp only
      split
      · exact h.withAsks
      · next e =>
          have ht := (h.drainPages ..).ok e
          exact State.Inv.ite ((ht.drained _).unseal _) ht

theorem State.Inv.execChainSealdrain {s : State} (h : s.Inv) (tag : BitVec 6) : OutcomeInv (execChainSealdrain tag s) := by
  unfold Machine.execChainSealdrain
  refine h.atEntry _ _ fun s c e hs => hs.beginRemote _ _ _ fun s c ht => ?_
  have hd : State.Inv (if rwRem (word e 3) && decide (0 < c.units) &&
      s.isSealed ((word e 1 + c.offset true).toNat + (c.units - 1) * pageBytes)
    then s.drainedPage ((word e 1 + c.offset true).toNat + (c.units - 1) * pageBytes) else s) := .ite (ht.drainedPage _) ht
  refine .ite (hd.shardDigest _ _ _ _ _ (fun v t hv => ?_) fun _ _ _ _ hf => hf.chainStops ..) ?_
  · split
    · next e' => exact (hv.entryWrite ..).wait e'
    · next e' => exact ((hv.entryWrite ..).fail e').chainStops ..
    · next e' => exact ((hv.entryWrite ..).done e').nextEntry _
  · dsimp only
    split
    · exact hd.chainStops ..
    · split
      · split
        · next e' => exact (hd.passPage ..).wait e'
        · next e' => exact ((hd.passPage ..).fail e').chainStops ..
        · next e' => exact ((hd.passPage ..).done e').putChain ..
      · split
        · next e' =>
            exact (hd.copyPage _ _ _ _ (far := fun a bs t => .done (t.sendFor tag _ _ (.write a bs))) fun _ _ _ hc => hc.sendFor ..).wait
              e'
        · next e' =>
            exact ((hd.copyPage _ _ _ _ (far := fun a bs t => .done (t.sendFor tag _ _ (.write a bs))) fun _ _ _ hc => hc.sendFor ..).fail
              e').chainStops ..
        · next e' =>
          have hc := (hd.copyPage _ _ _ _ (far := fun a bs t => .done (t.sendFor tag _ _ (.write a bs))) fun _ _ _ hc => hc.sendFor
            ..).done e'
          exact .ite hc ((hc.drainedPage _).putChain ..)

theorem State.Inv.execAtsCompletion {s : State} (h : s.Inv) (k : Nat) (status : AtsStatus) (frame : BitVec 52) (canRead canWrite : Bool) :
    OutcomeInv (execAtsCompletion k status frame canRead canWrite s) := by
  unfold Machine.execAtsCompletion
  split
  · exact h.failAts ..
  · exact h.failAts ..
  · exact State.Inv.ite (h.failAts ..) (h.answerAts _ (fun _ => (h.onMu (by rfl) (by rfl)).cacheFill _))

theorem State.Inv.execEccCorrected {s : State} (h : s.Inv) (site : EccSite) : OutcomeInv (execEccCorrected site s) := by
  unfold Machine.execEccCorrected
  split
  · exact State.Inv.ite (h.raiseAsync ..) h
  · exact h.raiseAsync ..

/-! ## The Quench unit: the moves -/

theorem State.Inv.execQreq {s : State} (h : s.Inv) (a : BitVec 6) (l : BitVec 3) : OutcomeInv (execQreq a l s) := by
  unfold Machine.execQreq
  refine h.runItem ?_
  split
  · exact trivial
  · exact h.sendRequest _

theorem State.Inv.execQarm {s : State} (h : s.Inv) (a : BitVec 6) (l : BitVec 3) : OutcomeInv (execQarm a l s) := by
  unfold Machine.execQarm
  refine h.runItem ?_
  split
  · exact trivial
  · exact (h.onQu _).fireArm

theorem State.Inv.execQuenchAccept {s : State} (h : s.Inv) : OutcomeInv (execQuenchAccept s) := by
  unfold Machine.execQuenchAccept
  refine State.Inv.ite h ?_
  split
  · exact (h.onQu _).queueStop
  · exact State.Inv.ite (h.onQu _) ((h.onQu _).stopAbove _)

theorem State.Inv.execQuenchCommit {s : State} (h : s.Inv) : OutcomeInv (execQuenchCommit s) := by
  unfold Machine.execQuenchCommit
  exact State.Inv.ite h (((h.cutTo _).acquireAll.onQu _).onAnyPk (by intro; rfl) (by intro; rfl)).queueStop

theorem State.Inv.execSettleApply {s : State} (h : s.Inv) : OutcomeInv (execSettleApply s) := by
  unfold Machine.execSettleApply
  exact State.Inv.ite ((h.settleNow.onQu _).onAnyPk (by intro; rfl) (by intro; rfl)) h

/-! ## Swage: the moves -/

theorem State.Inv.execRingWaitSatisfied {s : State} (h : s.Inv) (x : StrandId) : OutcomeInv (execRingWaitSatisfied x s) := by
  unfold Machine.execRingWaitSatisfied
  dsimp only
  split
  · exact h
  · refine State.Inv.ite h (.ite (h.withCore (by rfl)) ?_)
    split
    · exact h.finish (h.waitFull ..)
    · exact h.finish (h.waitEmpty ..)
    · exact h.withCore (by rfl)

/-! ## Traps: the moves -/

theorem State.Inv.execForcedModeDone {s : State} (h : s.Inv) : OutcomeInv (execForcedModeDone s) := by
  unfold Machine.execForcedModeDone
  refine State.Inv.ite h ?_
  split
  · exact h
  · exact State.Inv.ite h (h.onSys (by rfl))
  · exact State.Inv.ite h.saveStrands (.ite h.saveStrands.settleNow.releaseHeld.endSave h.saveStrands.settleNow.releaseHeld)

theorem State.Inv.execTaskEnd {s : State} (h : s.Inv) : OutcomeInv (execTaskEnd s) := by
  unfold Machine.execTaskEnd
  refine State.Inv.ite h ?_
  split
  · exact (State.Inv.ite ((h.raiseHorizon _).releaseHeld) h).onPk (by rfl) (by rfl)
  · exact State.Inv.ite (h.onPk (by rfl) (by rfl)) h
  · exact State.Inv.ite (h.onPk (by rfl) (by rfl)) (.ite h (.ite (h.onPk (by rfl) (by rfl))
      (.ite ((h.raiseSystem ..).onPk (by rfl) (by rfl)) (h.returnOverlap.rerunTask.raiseSystem ..))))
  · exact State.Inv.ite h.finishTask h
  · exact h

/-! ## Scheduling: the moves -/

theorem State.Inv.execDispatchTakeEntry {s : State} (h : s.Inv) : OutcomeInv (execDispatchTakeEntry s) := by
  unfold Machine.execDispatchTakeEntry
  split
  · exact h
  · dsimp only
    split
    · exact h.rejectEntry ..
    · exact (h.setEntry ..).putShadow _

theorem State.Inv.execPlaneLoadComplete {s : State} (h : s.Inv) : OutcomeInv (execPlaneLoadComplete s) := by
  unfold Machine.execPlaneLoadComplete
  dsimp only
  split
  · exact State.Inv.ite h ((h.setEntry ..).putShadow _)
  · exact h

theorem State.Inv.execSwapTokenFlip {s : State} (h : s.Inv) : OutcomeInv (execSwapTokenFlip s) := by
  unfold Machine.execSwapTokenFlip
  refine State.Inv.ite h ?_
  split
  · next e => exact .ite h (h.swapImage (h.imageFor e))
  · exact .ite h h.swapTask

theorem State.Inv.execRevokeLentCore {s : State} (h : s.Inv) : OutcomeInv (execRevokeLentCore s) := by
  unfold Machine.execRevokeLentCore
  split
  · exact State.Inv.ite (h.beginRevoke _) h
  · exact State.Inv.ite h.endRevoke h

theorem State.Inv.execRevokeCutTimeout {s : State} (h : s.Inv) : OutcomeInv (execRevokeCutTimeout s) := by
  unfold Machine.execRevokeCutTimeout
  split
  · exact State.Inv.ite h.abandon h
  · exact h

/-! ## The supervisor: the moves -/

theorem State.Inv.execMbContext {s : State} (h : s.Inv) : OutcomeInv (execMbContext s) := by
  unfold Machine.execMbContext
  refine h.serve _ _ (fun _ => ?_)
  split
  · exact State.Inv.ite (h.mailDone ..) (.ite (h.mailOpen _) ((h.onPk (by rfl) (by rfl)).refreshMembers.mailDone ..))
  · exact State.Inv.ite (h.mailDone ..) (((h.forgetContext _).refreshMembers).mailDone ..)
  · exact h.mailOpen _

theorem State.Inv.execMbPostBindRecord {s : State} (h : s.Inv) : OutcomeInv (execMbPostBindRecord s) := by
  unfold Machine.execMbPostBindRecord
  refine h.serve _ _ fun c => ?_
  split
  · refine .ite (h.mailDone ..) ?_
    split
    · exact ((h.writeHome ..).onAnyPk (by intro; rfl) (by intro; rfl)).mailDone ..
    · exact h.mailOpen _
  · exact h.mailOpen _

theorem State.Inv.execMbConfigure {s : State} (h : s.Inv) : OutcomeInv (execMbConfigure s) := by
  unfold Machine.execMbConfigure
  refine h.serve _ _ (fun _ => ?_)
  split
  · refine State.Inv.ite h ?_
    split
    · next e =>
        have ht := (h.configure _).some e
        exact ht.mailDone ..
    · exact h.mailOpen _
  · exact h.mailOpen _

theorem State.Inv.execPackageReset (fail : Nat) (ceil : BitVec 16) (s : State) : OutcomeInv (execPackageReset fail ceil s) := by
  unfold Machine.execPackageReset
  refine State.Inv.boot ?_ ..
  exact State.reset_meets_inv.of_same rfl rfl rfl rfl

/-! ## System registers: the moves -/

theorem State.Inv.execSyswr {s : State} (h : s.Inv) (d : BitVec 6) (n : BitVec 10) : OutcomeInv (execSyswr d n s) := by
  unfold Machine.execSyswr
  refine h.runItem (Res.Inv.ite trivial (Res.Inv.ite h (Res.Inv.ite ?_ (Res.Inv.ite ?_ (h.sysWrite ..)))))
  · have ht := h.putMcarry (s.reg s.cur d)
    split
    · next e =>
      rw [e] at ht
      exact ht
    · next e =>
      rw [e] at ht
      exact ht
  · split
    · next e => exact (h.parkNow _).some e
    · exact h

/-- Every instruction keeps the invariant (log 4, R101). -/
theorem exec_keeps {s : State} (h : s.Inv) (i : Instr) : OutcomeInv (exec i s) := by
  cases i with
  | add | sub | mul | mulhI | mulhN | mulhIn | and | or | xor | andn | shl | shr | sra | rot | minI | minN | maxI | maxN | sel | addC
  | subC | andC | orC | xorC | mulC =>
    exact h.alu ..
  | divI | divN | remI | remN => exact h.divide ..
  | clz | popc | mov | movC => exact h.aluOne ..
  | cmp | cmpImm => exact h.compareTo ..
  | add128 => exact h.runItem (h.putPair ..)
  | addImm | subImm | mulImm | andImm | orImm | xorImm | andnImm | shlImm | shrImm | sraImm | rotImm | minImm | maxImm | addCImm | shlC
  | shrC | sraC =>
    exact h.aluImm ..
  | limm | limmC => exact h.loadConst ..
  | br | brC => exact h.branch ..
  | jmp | jmpReg => exact h.runItem (h.continueAt _ _ (fun _ ht => ht))
  | call | callReg => exact h.runItem (h.callTo ..)
  | ret | retC => exact h.ret _
  | nop | pref | nopC => exact h.runItem h
  | halt | taskend | haltC | taskendC => exact h.runItem (h.stopBy ..)
  | bkpt | trap | bkptC => exact h.runItem trivial
  | eret => exact h.execEret
  | sysrd => exact h.runItem (Res.Inv.ite trivial (h.putReg ..))
  | syswr => exact h.execSyswr ..
  | pause | pauseC => exact h.pauseFor ..
  | yield | yieldC => exact h.runItem (h.yieldPoint _)
  | dsync =>
    exact h.runItem (Res.Inv.ite trivial (Res.Inv.ite trivial
      (Res.Inv.ite ((h.onStrand ..).acquire ..) (Res.Inv.ite h (Res.Inv.ite ((h.flipPhase ..).acquire ..) (h.onStrand ..))))))
  | fenceAcq | fenceRel | fenceAr => exact h.fence ..
  | fenceP => exact h.runItem (Res.Inv.ite trivial (Res.Inv.ite h (h.settlePaths ..)))
  | ringWaitf | ringWaitfC => exact h.runItem (h.waitFull ..)
  | ringWaite | ringWaiteC => exact h.runItem (h.waitEmpty ..)
  | cadv | cadvC => exact h.advance ..
  | cset =>
    exact h.runItem (Res.Inv.ite trivial (Res.Inv.ite trivial (Res.Inv.ite trivial (Res.Inv.ite trivial (Res.Inv.ite h (h.changeBy ..))))))
  | cget | cgetC => exact h.readCoord ..
  | ldB | ldH | ldW | ldD | ldBN | ldHN | ldWN => exact h.plainLoad ..
  | ldWAcq | ldDAcq => exact h.acquireLoad ..
  | ldt => exact h.execLdt ..
  | stB | stH | stW | stD | stWRel | stDRel | stDC => exact h.storeItem ..
  | amoAdd | amoFadd | amoBadd | amoBfin | amoMin | amoMax | amoAnd | amoOr | amoXor | amoSwap | amoCas => exact h.atomic ..
  | sdef => exact h.runItem (h.setDesc ..)
  | sgo => exact h.execSgo ..
  | sstop | chain => exact h.runItem (Res.Inv.ite h (h.onCore (by rfl)))
  | sstat | mstat | qstat | swgstat => exact h.runItem (h.putReg ..)
  | scrldStream => exact h.runItem (Res.Inv.scratchAddr _ _ (fun _ _ => h.setDesc ..))
  | scrldOctet => exact h.runItem (Res.Inv.scratchAddr _ _ (fun _ _ => h.putOctet ..))
  | scrstStream | scrstOctet => exact h.runItem (h.scratchBlock ..)
  | ringAdvC | ringAdvCC => exact h.runItem (h.advanceConsumer ..)
  | ringAdvP | ringAdvPC => exact h.runItem (h.advanceProducer ..)
  | ringPushA => exact h.runItem (h.push ..)
  | ringPushV => exact h.runItem (h.tileIn _ (fun _ _ ht => ht.push ..))
  | ringPopA => exact h.runItem (h.pop _ _ _ _ _ (fun _ _ ht => ht.putReg ..))
  | ringPopV => exact h.runItem (h.tileIn _ (fun _ _ ht => ht.pop _ _ _ _ _ (fun _ _ ht' => ht'.writeTile _ _ (fun _ ht2 => ht2))))
  | ringDef => exact h.execRingDef ..
  | tlook => exact h.execTlook ..
  | tset => exact h.tagItem _ (fun _ => Res.Inv.ite trivial (Res.Inv.ite trivial (h.setTag ..)))
  | tready => exact h.tagItem _ (fun _ => Res.Inv.ite trivial (Res.Inv.ite h (h.setTag ..)))
  | treadyClr => exact h.tagItem _ (fun _ => Res.Inv.ite trivial (h.setTag ..))
  | tdrop => exact h.tagItem _ (fun _ => Res.Inv.ite h (h.setTag ..))
  | vadd | vsub | vmul | vminI | vminN | vmaxI | vmaxN | vaddsI | vaddsN | vsubsI | vsubsN | vand | vor | vxor | vandn | vshl | vshr
  | vsra | vfadd | vfsub | vfmul | vfmin | vfmax | rcpn | rsqn =>
    exact h.lanes2 ..
  | vceq | vcltI | vcltN | vfceq | vfclt | vfcle | vfcun => exact h.bits2 ..
  | vmov | vfabs | vfneg | rcpa | rsqa | exp2 | log2 => exact h.lanes1 ..
  | vbcs | vidx => exact h.vecItem _ _ (h.writeLanes ..)
  | vins => exact h.vecItem _ _ (Res.Inv.ite trivial (h.tileIn _ (fun _ _ ht => Res.Inv.ite (ht.writeTile _ _ (fun _ ht' => ht')) ht)))
  | vext => exact h.vecItem _ _ (Res.Inv.ite trivial (h.tileSource _ _ (fun _ _ ht => ht.putReg ..)))
  | dot4S => exact State.Inv.ite (h.vecItem _ _ trivial) (.ite (h.vecItem _ _ trivial) (h.lanes3 ..))
  | mkAnd | mkOr | mkXor | mkAndn => exact h.masks2 ..
  | mkSet => exact h.vecItem _ _ (h.putMask ..)
  | vfma | vfnma => exact h.lanes3 ..
  | vfmuls | vfadds => exact h.lanesScalar ..
  | rotr | rotc | bcr | bcc => exact h.moveLanes ..
  | redrFadd | redrFmax | redrFmin | redrAdd | redrMaxI | redrMinI | redrMaxN | redrMinN | redcFadd | redcFmax | redcFmin | redcAdd
  | redcMaxI | redcMinI | redcMaxN | redcMinN =>
    exact h.reduce ..
  | cvt => exact h.execCvt ..
  | rand => exact h.vecItem _ _ (h.tileIn _ (fun _ _ ht => ht.tileIn _ (fun _ _ ht' => ht'.writeLanes ..)))
  | vld => exact h.vecItem _ _ (Res.Inv.misaligned_getD _ _ _ _ (h.vload ..))
  | vst => exact h.vecItem _ _ (Res.Inv.misaligned_getD _ _ _ _ (h.vstore ..))
  | vgath => exact h.vecItem _ _ (Res.Inv.misaligned_getD _ _ _ _ (h.tileSource _ _ fun _ _ ht => ht.vload ..))
  | vscat => exact h.vecItem _ _ (Res.Inv.misaligned_getD _ _ _ _ (h.tileSource _ _ fun _ _ ht => ht.vstore ..))
  | vamoAdd | vamoFadd | vamoMinI | vamoMinN | vamoMaxI | vamoMaxN | vamoAnd | vamoOr | vamoXor | vamoSwap => exact h.vecAtomic ..
  | rowMax | rowExp | rowScl => exact h.rowCommand ..
  | mma => exact h.multiply ..
  | mmac => exact (h.multiply ..).dropOffers _
  | mloadb => exact h.execMloadb ..
  | mcsum => exact h.execMcsum ..
  | mseed => exact h.runItem (Res.Inv.ite trivial (Res.Inv.ite trivial (h.putReg ..)))
  | mzero => exact h.runItem (Res.Inv.ite trivial (h.queueOp _))
  | mdrain =>
    exact h.runItem (Res.Inv.guarded (⟨trivial, trivial, trivial, trivial, trivial, trivial⟩)
      (h.checkRows _ _ _ _ _ (fun _ ht => ht.queueOp _)))
  | mspill => exact h.runItem (Res.Inv.ite trivial (h.checkRows _ _ _ _ _ (fun _ ht => ht.queueOp _)))
  | mfill => exact h.execMfill ..
  | mchk => exact h.runItem (Res.Inv.ite h ((h.onMat _).putReg ..))
  | draw | drawW => exact h.drawAhead ..
  | cpgo => exact h.execCpgo ..
  | cpwait => exact h.execCpwait ..
  | cpstat => exact h.runItem (Res.Inv.ite trivial ((h.freeKilled _).putReg ..))
  | cpkill => exact h.execCpkill ..
  | popen => exact h.execPopen ..
  | pld => exact h.runItem (Res.Inv.byRef _ _ _ _ (fun _ => h.load _ _ _ (fun _ _ ht => ht.putReg ..)))
  | pst => exact h.runItem (Res.Inv.byRef _ _ _ _ (fun _ => h.store _ _ _ _ _ (fun _ ht => ht)))
  | pstref => exact h.execPstref ..
  | pmkref => exact h.runItem (Res.Inv.byHandle _ (fun _ => Res.Inv.ite trivial (Res.Inv.ite trivial (h.putReg ..))))
  | pseal => exact h.runItem (Res.Inv.byHandle _ (fun _ => Res.Inv.ite trivial (Res.Inv.ite h (h.putParcel ..))))
  | post =>
    exact h.runItem (Res.Inv.ite trivial (Res.Inv.byHandle _ (fun _ => Res.Inv.ite trivial
      (Res.Inv.ite h (h.withRecord (fun _ => (State.Inv.ite (((h.putParcel ..).startChain ..).unmapParcel _)
      ((h.putParcel ..).startChain ..)).putReg ..))))))
  | precv | precvW => exact h.receiveItem ..
  | pfree =>
    exact h.runItem (Res.Inv.byHandle _ (fun _ => Res.Inv.ite trivial
      (Res.Inv.ite h (State.Inv.ite (((h.putParcel ..).putLeaves ..).onPk (by rfl) (by rfl)) ((h.putParcel ..).putLeaves ..)))))
  | qreq => exact h.execQreq ..
  | qwait => exact h.runItem (Res.Inv.ite trivial (Res.Inv.ite h h))
  | qresume => exact h.runItem (Res.Inv.ite trivial h.resumeDomain)
  | qarm => exact h.execQarm ..
  | qarmClr => exact h.runItem (h.onQu _)
  | qhoriz => exact h.runItem (Res.Inv.ite (h.putReg ..) (Res.Inv.ite (State.Inv.putReg (h.fresh 32) ..) (h.putReg ..)))
  | settle => exact h.runItem (Res.Inv.ite (h.onQu _) (Res.Inv.ite h (h.onQu _)))
  | tlbinv => exact h.execTlbinv ..
  | tlbinvAll => exact h.memoryItem _ _ (h.beginShootdown ..)
  | tlbsync => exact h.memoryItem _ _ (Res.Inv.ite h h)
  | pgdisc => exact h.execPgdisc ..
  | pgseal => exact h.execPgseal ..
  | pgsealClr => exact h.execPgsealClr ..
  | tmread | tmreadRec => exact h.memoryItem _ _ (h.putPair ..)
  | tmset => exact h.memoryItem _ _ ((h.onMu (by rfl) (by rfl)).onSys (by rfl))
  | tmsetClr => exact h.memoryItem _ _ (h.onSys (by rfl))
  | planeswRel | planeswHold => exact h.planeswItem _ (fun _ ht => ht.onSys (by rfl))
  | planeswDrop => exact h.planeswItem _ (fun _ ht => ht.returnShadow.onSys (by rfl))
  | swgstatRec | swgstatHit | swgstatLast => exact h.swageItem ..
  | ldDC => exact h.loadItem ..
  | packageReset => exact State.Inv.execPackageReset ..
  | dispatchTakeEntry => exact h.execDispatchTakeEntry
  | planeLoadComplete => exact h.execPlaneLoadComplete
  | swapTokenFlip => exact h.execSwapTokenFlip
  | taskEnd => exact h.execTaskEnd
  | blockEntry => exact State.Inv.ite h (.ite (h.endRepetition _) (.ite (h.enterBlock _) h))
  | lockstepMeet => exact State.Inv.ite h.meet (.ite (h.badBlocks _) h)
  | fetchEndOfCode => exact State.Inv.ite h (.ite (h.headerTrap ..) ((h.onStrand ..).withCore (by rfl)))
  | enterS => exact State.Inv.ite h.enterS h
  | hearthDelivery => exact h.onSys (by rfl)
  | fqPop | fqPopResume => exact h.popRecord _
  | yreqSet => exact State.Inv.ite h (h.request _)
  | yreqClear => exact h.clearYreq
  | yieldRequest => exact State.Inv.ite ((h.onSys (by rfl)).raiseSystem ..) h
  | yieldDeadline => exact State.Inv.ite h.deadlinePassed h
  | budget => exact State.Inv.ite (((h.onSys (by rfl)).raiseSystem ..).applyForced) h
  | forcedModeDone => exact h.execForcedModeDone
  | pauseExpiry => exact h.foldl (fun _ _ ht => ht.onStrand ..)
  | ringStall => exact h.execRingStall ..
  | ringWaitSatisfied => exact h.execRingWaitSatisfied ..
  | dsyncComplete => exact State.Inv.ite ((h.foldl (fun _ _ ht => ht.passPhase ..)).onPk (by rfl) (by rfl)) h
  | atomicResultReturn => exact h.execAtomicResultReturn ..
  | ldtLanding => exact (h.onStrand ..).foldl (fun _ _ ht => ht.putReg ..)
  | horizonUpdate => exact h.raiseHorizon _
  | sideLogPerform => exact h.execSideLogPerform ..
  | causalApply => exact h.execCausalApply ..
  | streamSlotFill => exact h.execStreamSlotFill ..
  | chainPassStart => exact h.execChainPassStart
  | chainPassComplete => exact h.execChainPassComplete
  | rowCommandStart => exact h.execRowCommandStart
  | rowPhaseEnd => exact h.execRowPhaseEnd ..
  | matrixOpBegin => exact h.execMatrixOpBegin
  | drawGrant | ceilChange => exact h.onMat _
  | matrixWaveCommit => exact h.execMatrixWaveCommit
  | mloadbBlockLoaded => exact h.execMloadbBlockLoaded
  | followOnMmaJoin => exact h.execFollowOnMmaJoin ..
  | chainRelease => exact h.execChainRelease ..
  | engineTakeChain => exact h.execEngineTakeChain ..
  | chainCopy => exact h.execChainCopy ..
  | chainRread => exact h.execChainRread ..
  | chainRwrite => exact h.execChainRwrite ..
  | chainRreduce => exact h.execChainRreduce ..
  | chainRoute => exact h.execChainRoute ..
  | chainBarrier =>
    exact h.atEntry _ _ (fun _ _ _ ht => State.Inv.ite (.ite ht (ht.nextEntry _))
      (.ite ((ht.nextEntry _).raiseAsync ..) (.ite ht (.ite (((ht.partEntries _).onPk (by rfl) (by rfl)).putChain ..)
      (((ht.partEntries _).onPk (by rfl) (by rfl)).nextEntry _)))))
  | chainSignal => exact h.execChainSignal ..
  | chainLoop => exact h.atEntry _ _ (fun _ _ _ ht => State.Inv.ite ((ht.putChain ..).goEntry ..) ((ht.putChain ..).nextEntry _))
  | chainCond =>
    exact h.atEntry _ _ (fun _ _ _ ht => State.Inv.ite ht (ht.condRead _ _ _
      (fun _ _ ht' => State.Inv.ite (.ite (ht'.goEntry ..) (ht'.nextEntry _)) (.ite (ht'.nextEntry _) (ht'.putChain ..)))))
  | condEngineYield => exact State.Inv.ite (h.onPk (by rfl) (by rfl)) h
  | condWaitLimit => exact h.execCondWaitLimit ..
  | chainPost => exact h.execChainPost ..
  | chainSealdrain => exact h.execChainSealdrain ..
  | chainEnd => exact h.atEntry _ _ (fun _ _ _ ht => State.Inv.ite (ht.putChain ..) ht)
  | fabricPacketReceive => exact h.execFabricPacketReceive
  | fabricTimeout => exact h.execFabricTimeout ..
  | bindNotice => exact State.Inv.ite h (h.bound _)
  | quenchAccept => exact h.execQuenchAccept
  | quenchDrainReport => exact State.Inv.ite (h.onQu _) h
  | quenchCommit => exact h.execQuenchCommit
  | quenchMemberTimeout => exact State.Inv.ite ((h.onQu _).machineCheck _) h
  | qarmFire => exact h.fireArm
  | settleApply => exact h.execSettleApply
  | atsCompletion => exact h.execAtsCompletion ..
  | atsTimeout => exact h.answerAts _ (fun _ => State.Inv.ite (h.failAts ..) h)
  | atsInvalidation | shootdownAck => exact h.onMu (by rfl) (by rfl)
  | demandDrainComplete => exact h.execDemandDrainComplete ..
  | eccCorrected => exact h.execEccCorrected ..
  | uncorrectableError => exact State.Inv.ite (h.onMu (by rfl) (by rfl)) h
  | eccUncorrected => exact h.raiseAsync ..
  | vPark => exact h.park ..
  | vUnpark => exact h.unpark ..
  | mcarryWrite => exact h.putMcarry _
  | qctlPinWrite => exact h.putPin _
  | plringReturn => exact h.returnFrames _
  | sysregWrite => exact State.Inv.ite (h.sysWrite ..) h
  | mbLoadPatchImage => exact h.serve _ _ (fun _ => State.Inv.ite ((h.acceptPatch _).mailDone ..) (h.mailDone ..))
  | mbContext => exact h.execMbContext
  | mbPostBindRecord => exact h.execMbPostBindRecord
  | mbAttestation => exact h.serve _ _ (fun _ => (h.onPk (by rfl) (by rfl)).mailDone ..)
  | mbConfigure => exact h.execMbConfigure
  | revokeLentCore => exact h.execRevokeLentCore
  | revokeCutTimeout => exact h.execRevokeCutTimeout
  | vfTeardown => exact State.Inv.ite ((h.onPk (by rfl) (by rfl)).teardownCore _) (h.onPk (by rfl) (by rfl))
  | allowanceReclaim => exact h.onPk (by rfl) (by rfl)
  | circuitReconfigure => exact State.Inv.ite (h.onPk (by rfl) (by rfl)).switchCircuits h
  | sliceQuantumExpiry =>
    exact State.Inv.ite h (.ite h.takeNextSlice (.ite (.ite ((h.saveImage _).takeNextSlice) (.ite h.forceMode h))
      (.ite ((h.onPk (by rfl) (by rfl)).request _) h)))
  | linkFlitReceive | linkReplay => exact h.onPort ..
  | thermal95c => exact State.Inv.ite (h.onMat _) h
  | thermal105c => exact (h.machineCheck _).onPk (by rfl) (by rfl)
  | reservedSpaceItem | illegalEncodingItem => exact h.refuseItem ..
  | condWaitSatisfied =>
    exact h.atEntry _ _ (fun _ _ _ ht => State.Inv.ite ht (ht.condRead _ _ _ (fun _ _ ht' => State.Inv.ite (ht'.nextEntry _) ht')))
  | hearthResumeOrAbandon => exact State.Inv.ite h (.ite (.ite h.hearthRollBack h.hearthResume) (h.abandon.onSys (by rfl)))
  | hearthRemapRewrite =>
    exact State.Inv.ite ((State.Inv.ite (h.onPk (by rfl) (by rfl)) h).hearthResume) (.ite (h.onPk (by rfl) (by rfl)) h)
  | slotEntryFree => exact State.Inv.ite (.ite (h.setEntry ..) h) (.ite (h.setEntry ..) h)
  | flitForward => exact h.freshNat.onPort ..
  | contextImageWrite => exact State.Inv.ite h.saveTask h

end Sys2Proof.Machine
end

section
/-!
PROOFS. The invariant (log 4, R101): issue, time, the agents and the inputs; every step keeps it.
-/
namespace Sys2Proof.Machine

theorem OutcomeInv.next {o : Host.Outcome State Fault Refusal} {t} (h : OutcomeInv o) (e : o = .next t) : State.Inv t := by subst e; exact h

theorem State.Inv.refused {s : State} (h : s.Inv) (i : Item) (e : DecodeError) : OutcomeInv (refused i e s) := by
  cases e with
  | reservedSpace => exact exec_keeps h (.reservedSpaceItem _ _)
  | illegalEncoding => exact exec_keeps h (.illegalEncodingItem _ _)

theorem State.Inv.execItem {s : State} (h : s.Inv) (i : Item) : OutcomeInv (execItem i s) := by
  unfold Machine.execItem
  split
  · exact exec_keeps h _
  · exact h.refused ..

theorem State.Inv.native {s : State} (h : s.Inv) (i : Item) : (s.native i).Inv := by
  unfold State.native
  split
  · next e => exact (h.execItem i).next e
  · exact h

theorem State.Inv.stampImages {s : State} (h : s.Inv) (x : StrandId) (first : Nat) : (s.stampImages x first).Inv := h.onStrand ..

theorem State.Inv.rewriteWords {s : State} (h : s.Inv) (x : StrandId) (ws : List (BitVec 32)) : (rewriteWords x s ws).Inv := by
  unfold Machine.rewriteWords
  dsimp only
  split
  · exact trivial
  · split
    · exact trivial
    · exact h.native _
    · exact (((h.native _).foldl (fun _ _ ht => State.Inv.ite (ht.putReg ..) ht)).onStrand ..).stampImages ..
    · exact (((h.native _).foldl (fun _ _ ht => State.Inv.ite (ht.putReg ..) ht)).onStrand ..).stampImages ..

theorem Res.Inv.withDry (b : Bool) {r : Res} (h : r.Inv) : (r.withDry b).Inv := by
  cases r with
  | trap c d a => exact trivial
  | retire t => exact State.Inv.withCore (s := t) h (by rfl)
  | jump t => exact State.Inv.withCore (s := t) h (by rfl)
  | wait t => exact State.Inv.withCore (s := t) h (by rfl)

theorem State.Inv.patched {s : State} (h : s.Inv) (n : BitVec 4) : (s.patched n).Inv := by
  unfold State.patched
  extract_lets x slot res
  have hr : res.Inv := by
    unfold res
    split
    · exact trivial
    · exact Res.Inv.withDry _ ((h.withCore (by rfl)).rewriteWords ..)
    · exact h.emulate ..
    · exact h
  clear_value res
  cases res with
  | wait t => exact h.finishPatched _ _ _ hr
  | trap c d a => exact (h.slotActs ..).finishPatched _ _ _ hr
  | retire t => exact h.finishPatched (r := .retire _) _ _ _ (State.Inv.slotActs (s := t) hr ..)
  | jump t => exact h.finishPatched (r := .jump _) _ _ _ (State.Inv.slotActs (s := t) hr ..)

theorem State.Inv.oneItem {s : State} (h : s.Inv) (i : Item) : OutcomeInv (s.oneItem i) := by
  unfold State.oneItem
  split
  · exact h.patched _
  · exact h.execItem _

theorem State.Inv.dryItem {s : State} (h : s.Inv) (x : StrandId) : (s.dryItem x).Inv := by
  unfold State.dryItem
  have ht : State.Inv { s with cur := x, dry := true } := h.withCore (by rfl)
  refine .ite (ht.withCore (by rfl)) (.ite (ht.withCore (by rfl)) ?_)
  split
  · next e => exact (ht.oneItem _).next e
  · exact ht

theorem State.Inv.runBundle {s : State} (h : s.Inv) (l : List StrandId) : (s.runBundle l).1.Inv := by
  induction l generalizing s with
  | nil => exact h
  | cons x rest ih => exact ih (h.dryItem x)

theorem State.Inv.keepWaits {s : State} (h : s.Inv) (l : List (StrandId × ItemEnd)) : (s.keepWaits l).Inv :=
  h.foldl (fun _ ⟨_, _⟩ ht => State.Inv.ite (.ite (ht.dryItem _) ht) ht)

theorem State.Inv.endBundle {s before : State} (h : s.Inv) (l : List (StrandId × ItemEnd)) : (s.endBundle before l).Inv := by
  unfold State.endBundle
  refine (State.Inv.foldl ?_ (fun _ _ ht => State.Inv.ite ht (ht.deliverEaf ..))).withCore (by rfl)
  split
  · exact (State.Inv.ite ((h.foldl (fun _ ⟨_, _⟩ ht => ht.onStrand ..)).foldl (fun _ _ ht => ht.onStrand ..))
      (h.foldl (fun _ ⟨_, _⟩ ht => ht.onStrand ..))).raise _
  · exact .ite ((h.foldl (fun _ ⟨_, _⟩ ht => ht.onStrand ..)).foldl (fun _ _ ht => ht.onStrand ..))
      (h.foldl (fun _ ⟨_, _⟩ ht => ht.onStrand ..))

theorem State.Inv.bundle {s : State} (h : s.Inv) : s.bundle.Inv := by
  unfold State.bundle
  refine .ite h (.ite h.endBundleRepetition ?_)
  dsimp only
  split
  · split
    · exact ((h.withCore (by rfl)).slotActs ..).finishPatched _ _ _ trivial
    · exact (h.withCore (by rfl)).finish trivial
  · exact .ite ((h.keepWaits _).withCore (by rfl)) (((h.runBundle _).withCore (by rfl)).endBundle _)

theorem State.Inv.issue {s : State} (h : s.Inv) (x : StrandId) : OutcomeInv (issue x s) := by
  unfold Machine.issue
  have ht : State.Inv { s with cur := x, dry := false } := h.withCore (by rfl)
  exact OutcomeInv.ite ht (OutcomeInv.ite ht.bundle (OutcomeInv.ite (exec_keeps ht .fetchEndOfCode)
    (OutcomeInv.ite (exec_keeps ht .blockEntry) (OutcomeInv.ite (ht.headerTrap ..) (ht.oneItem _)))))

theorem State.Inv.tick {s : State} (h : s.Inv) (n : Nat) : (s.tick n).Inv := (h.onSys (by rfl)).onPk (by rfl) (by rfl)

theorem State.Inv.outsideWrite {s : State} (h : s.Inv) (die : Option (BitVec 2)) (cls : Nat) (bytes : List (BitVec 52 × BitVec 8)) :
    (s.outsideWrite die cls bytes).Inv := by
  unfold State.outsideWrite
  refine State.Inv.clearPoison ?_ _
  split
  · exact h.writeLocs ..
  · exact h.writeHome ..

theorem State.Inv.outsideRing {s : State} (hs : s.Inv) (pcore : BitVec 8) (h : BitVec 4) (e : Ring) : (s.outsideRing pcore h e).Inv := by
  unfold State.outsideRing
  extract_lets n gen r0 r s'
  have hs' : s'.Inv := hs.onPk (by rfl) (by rfl)
  exact .ite hs (.ite hs' (hs'.onMemories hs'.mem (cellClear_wf hs'.scratch _ _)))

theorem State.Inv.outsideAdvance {s : State} (hs : s.Inv) (h : BitVec 4) (pcore : BitVec 8) (producer : Bool) (core : BitVec 8) (n : Nat)
    (coord : Coord) :
    (s.outsideAdvance pcore h producer core n coord).Inv :=
  .ite hs (.ite ((hs.foldl (fun _ ⟨_, _⟩ ht => ht.putSlot ..)).putRing ..) ((hs.foldl (fun _ ⟨_, _⟩ ht => ht.putSlot ..)).putRing ..))

theorem State.Inv.input {s : State} (h : s.Inv) (r : Input) : (s.input r).Inv := by
  unfold State.input
  split
  · exact h.sendRequest _
  · exact h.onQu _
  · exact h.onQu _
  · exact h.resumeDomain
  · exact h.onQu _
  · exact h.onQu _
  · exact .ite (h.onPk (by rfl) (by rfl)) h
  · exact h.mailWrite ..
  · exact .ite h (h.outsideWrite ..)
  · exact h.writeLocs ..
  · exact .ite h (h.writeLocs ..)
  · exact .ite h (h.farAtomic ..)
  · exact .ite (h.scratchPut ..) h
  · exact .ite h (h.onPk (by rfl) (by rfl))
  · exact h.outsideRing ..
  · exact h.outsideAdvance ..
  · exact .ite h (h.onMat _)
  · exact h.onMat _

theorem State.Inv.act {s : State} (h : s.Inv) (a : Act) : OutcomeInv (s.act a) := by
  cases a with
  | event i => exact exec_keeps h i
  | issue x => exact h.issue x
  | input i => exact h.input i

theorem State.Inv.moveAfter {s : State} (h : s.Inv) (m : Move) : OutcomeInv (s.moveAfter m) :=
  OutcomeInv.ite ((h.tick _).act _) ((h.tick _).withCore (by rfl))

/-! ## What is due, and the agents' round -/

/-- A move that leaves the invariant as it is. -/
def KeepsInv (f : State → Host.Outcome State Fault Refusal) : Prop := ∀ s, s.Inv → OutcomeInv (f s)

theorem KeepsInv.exec (i : Instr) : KeepsInv (exec i) := fun _ h => exec_keeps h i

/-- The move, where there is one, keeps the invariant. -/
def OptionKeeps (o : Option (State → Host.Outcome State Fault Refusal)) : Prop := ∀ f, o = some f → KeepsInv f

theorem OptionKeeps.some {f : State → Host.Outcome State Fault Refusal} (h : KeepsInv f) : OptionKeeps (.some f) :=
  fun _ e => Option.some.inj e ▸ h
theorem OptionKeeps.none : OptionKeeps .none := nofun
theorem OptionKeeps.ite {c : Prop} [Decidable c] {o o' : Option (State → Host.Outcome State Fault Refusal)} (ho : OptionKeeps o)
    (ho' : OptionKeeps o') : OptionKeeps (if c then o else o') := by
  split
  · exact ho
  · exact ho'

theorem due_keeps (s : State) : OptionKeeps s.due := by
  unfold State.due
  dsimp only
  split
  · exact .some (.exec (.ldtLanding _))
  · refine .ite (.some (.exec .hearthDelivery)) (.ite (.some (.exec .budget)) (.ite (.some (.exec .quenchAccept))
      (.ite (.some (.exec .yieldDeadline)) (.ite (.some (.exec .yieldRequest)) (.ite (.some (.exec .enterS))
      (.ite (.some (.exec .qarmFire)) (.ite (.some fun _ h => h.switchCircuits) (.ite (.some (.exec .pauseExpiry)) ?_))))))))
    split
    · exact .some (.exec (.ringStall _))
    · exact .ite (.some (.exec .horizonUpdate)) .none

theorem farReads_keeps (t : Nat) : KeepsInv (State.farReads t) := by
  intro s h
  unfold State.farReads
  dsimp only
  split
  · exact h.execFollowOnMmaJoin _
  · exact h

theorem agentMoves_keeps : ∀ f ∈ agentMoves, KeepsInv f := by
  unfold agentMoves
  simp only [List.forall_mem_append, List.forall_mem_map, List.forall_mem_cons, List.forall_mem_flatMap, List.not_mem_nil,
    false_imp_iff, implies_true, and_true, and_assoc]
  exact ⟨fun _ _ => .exec (.sideLogPerform _), fun _ _ => .exec (.atomicResultReturn _), fun _ _ => .exec (.ringWaitSatisfied _),
    fun _ _ => .exec (.causalApply _ _), fun _ _ => .exec (.streamSlotFill _), .exec .matrixOpBegin, .exec .drawGrant,
    .exec .mloadbBlockLoaded, .exec .matrixWaveCommit, .exec .rowCommandStart, fun _ _ => .exec (.rowPhaseEnd _), .exec .chainPassStart,
    .exec .chainPassComplete, .exec .horizonUpdate, .exec .lockstepMeet, .exec .forcedModeDone, .exec .taskEnd, .exec .settleApply,
    .exec .quenchAccept, .exec .quenchDrainReport, .exec .quenchCommit, fun _ _ => .exec (.dsyncComplete _),
    fun _ _ => .exec (.chainRelease _), fun _ _ => .exec (.engineTakeChain _), fun _ _ => .exec (.chainCopy _),
    fun _ _ => .exec (.chainRread _), fun _ _ => .exec (.chainRwrite _), fun _ _ => .exec (.chainRreduce _),
    fun _ _ => .exec (.chainRoute _), fun _ _ => .exec (.chainBarrier _), fun _ _ => .exec (.chainSignal _),
    fun _ _ => .exec (.chainLoop _), fun _ _ => .exec (.chainCond _), fun _ _ => .exec (.condWaitSatisfied _),
    fun _ _ => .exec (.condEngineYield _), fun _ _ => .exec (.condWaitLimit _), fun _ _ => .exec (.chainPost _),
    fun _ _ => .exec (.chainSealdrain _), fun _ _ _ h => h.execFollowOnMmaJoin _, fun _ _ => .exec (.chainEnd _),
    fun _ _ => .exec (.fabricTimeout _), fun t _ => farReads_keeps t, fun _ _ => .exec (.shootdownAck _),
    fun _ _ => .exec (.atsTimeout _), .exec .quenchMemberTimeout, .exec .sliceQuantumExpiry, .exec .revokeCutTimeout,
    .exec (.demandDrainComplete 0), .exec .fabricPacketReceive, .exec .dispatchTakeEntry, .exec .planeLoadComplete,
    .exec .swapTokenFlip, .exec .mbLoadPatchImage, .exec .mbContext, .exec .mbPostBindRecord, .exec .mbAttestation,
    .exec .mbConfigure⟩

theorem State.Inv.ownMove {s : State} (h : s.Inv) : OutcomeInv s.ownMove := by
  unfold State.ownMove
  refine OutcomeInv.ite ((h.withCore (by rfl)).moveAfter _) ?_
  split
  · next e => exact agentMoves_keeps _ (List.mem_of_getElem? e) _ (h.withCore (by rfl))
  · exact h.withCore (by rfl)

theorem State.Inv.oneMove {s : State} (h : s.Inv) : OutcomeInv (oneMove s) := by
  unfold Machine.oneMove
  split
  · next e => exact due_keeps s _ e s h
  · split
    · exact (h.withCore (by rfl)).moveAfter _
    · exact h.ownMove

/-- Settles O60: each of a step's moves keeps the invariant, as every operation of the state that it is made of does. -/
theorem stepKeepsInvariant : Obligations.StepKeepsInvariant := by
  unfold Obligations.StepKeepsInvariant
  intro s t h e
  exact h.oneMove.next e

end Sys2Proof.Machine
end

section
/-!
PROOFS. Exceptions and their delivery (O53): what a raised cause comes to, entry into S, POP and Hearth.
-/
namespace Sys2Proof.Machine

/-! ## Entry into S (R118) -/

/-- What lands changes the registers of K and the address registers (R176). -/
theorem State.landAll_frame (s : State) : ∃ regs areg, s.landAll .K =
    (s.onStrand .K fun t => { t with s := regs, timed := [] }).onCore fun c => { c with areg := areg } := by
  unfold State.landAll
  refine foldl_keeps (P := fun t : State => ∃ regs areg, t =
    (s.onStrand .K fun t => { t with s := regs, timed := [] }).onCore fun c => { c with areg := areg })
    ⟨s.core.k.s, s.core.areg, rfl⟩ ?_
  rintro _ l ⟨regs, areg, rfl⟩
  unfold State.putReg
  split_ifs
  · exact ⟨regs, _, rfl⟩
  · exact ⟨regs, areg, rfl⟩
  · exact ⟨_, areg, rfl⟩

/-- A state in which K stands as in another, with the same handler. -/
structure State.StandsAs (s u : State) : Prop where
  tvec : u.sys.tvec = s.sys.tvec
  code : u.code .K = s.code .K
  hdr : u.core.k.hdr = s.core.k.hdr
  remain : u.core.k.remain = s.core.k.remain
  flags : u.core.k.flags = s.core.k.flags
  run : u.core.k.run = s.core.k.run

theorem State.StandsAs.handlerStands {s u : State} (h : s.StandsAs u) : handlerStands u ↔ handlerStands s := by
  unfold Machine.handlerStands
  rw [h.tvec, h.code]

theorem State.StandsAs.entersS {s u t : State} (h : s.StandsAs u) {pc : BitVec 16} (he : entersS u t pc) : entersS s t pc := by
  unfold Machine.entersS at *
  rwa [h.hdr, h.remain, h.flags, h.tvec, h.code, h.run] at he

/-- What entry into S leaves of the rest of the machine. -/
structure State.EntryKeeps (s t : State) : Prop where
  pk : t.pk = s.pk
  fq : t.sys.fq = s.sys.fq
  due : t.sys.sDue = false
  strand : ∀ y, y ≠ .K → t.strand y = s.strand y

theorem State.enterS_keeps (s : State) : s.EntryKeeps s.enterS := by
  obtain ⟨regs, areg, h⟩ := s.landAll_frame
  unfold State.enterS
  rw [h]
  dsimp only
  split <;> exact ⟨rfl, rfl, rfl, fun | .K, hy => absurd rfl hy | .A, _ | .V, _ | .M, _ => rfl⟩

theorem State.enterS_handler {s : State} (h : handlerStands s) : entersS s s.enterS s.core.k.pc := by
  obtain ⟨hoff, hheader⟩ := h
  obtain ⟨regs, areg, hl⟩ := s.landAll_frame
  unfold State.enterS
  rw [hl]
  dsimp only
  split
  · next hn =>
    rw [Bool.or_eq_true, decide_eq_true_eq, Bool.not_eq_true'] at hn
    obtain hn | hn := hn
    · exact absurd hn hoff
    · exact absurd (hheader.symm.trans hn) nofun
  · refine ⟨rfl, rfl, rfl, rfl, rfl, rfl, rfl, rfl, rfl, rfl, rfl, ?_, ?_⟩
    · exact (Bool.and_eq_true _ _).to_iff.trans (and_congr_left' beq_iff_eq)
    · exact if_congr beq_iff_eq rfl rfl

/-- MACHINE_CHECK 0x0B reaches Hearth and stops the core, and K does not enter (R118). -/
theorem State.enterS_noHandler {s : State} (h : ¬handlerStands s) : s.enterS.sys.levelS = s.sys.levelS ∧ s.enterS.sys.stoppedByH = true ∧
    ∃ q, s.enterS.sys.hDue = s.sys.hDue ++ [q] ∧ q.cause = 0x3F ∧ q.detail = 0x0B := by
  obtain ⟨regs, areg, hl⟩ := s.landAll_frame
  unfold State.enterS
  rw [hl]
  dsimp only
  split
  · exact ⟨rfl, Bool.or_true _, _, rfl, rfl, rfl⟩
  · next hn =>
    rw [Bool.or_eq_true, decide_eq_true_eq, Bool.not_eq_true', not_or, Bool.not_eq_false] at hn
    exact absurd hn h

/-! ## Queueing a record (R100, R101) -/

/-- An interrupt is due at S, or pends while K is there (R100 item 3). -/
theorem State.interrupt_sys (s : State) :
    s.interrupt.sys = if s.sys.levelS then { s.sys with pend := true } else { s.sys with sDue := true } := rfl

theorem State.enqueue_keeps (s : State) (r : FaultRecord) :
    (s.enqueue r).sys.levelS = s.sys.levelS ∧ (s.enqueue r).sys.tvec = s.sys.tvec ∧ (s.enqueue r).sys.hDue = s.sys.hDue ∧
      (s.enqueue r).sys.planeAct = s.sys.planeAct := by
  unfold State.enqueue
  split
  · rw [State.interrupt_sys]
    split <;> exact ⟨rfl, rfl, rfl, rfl⟩
  · split <;> exact ⟨rfl, rfl, rfl, rfl⟩

theorem State.interrupt_due {s : State} (h : s.sys.levelS = false) : s.interrupt.sys.sDue = true := by
  rw [State.interrupt_sys, h]
  rfl

theorem State.interrupt_pends {s : State} (h : s.sys.levelS = true) : s.interrupt.sys.pend = true := by
  rw [State.interrupt_sys, h]
  rfl

theorem State.enqueue_delivers {s : State} {r : FaultRecord} (hr : roomFor s.sys.fq r = true) :
    (s.sys.levelS = false → (s.enqueue r).sys.sDue = true) ∧ (s.sys.levelS = true → (s.enqueue r).sys.pend = true) := by
  rw [State.enqueue, if_pos hr]
  exact ⟨fun hl => State.interrupt_due hl, fun hl => State.interrupt_pends hl⟩

theorem State.queueRecord_notOwn {s : State} {r : FaultRecord} (h : r.own = false) : s.queueRecord r = (s.stopFor r).enqueue r := by
  simp only [State.queueRecord, h, Bool.false_and, Bool.false_eq_true, if_false]

/-- K's own cause at T has K enter S at once, where its record has room (R100 item 3, R131). -/
theorem State.queueRecord_own {s : State} {r : FaultRecord} (h : r.own = true) (hr : roomFor s.sys.fq r = true)
    (hl : ((s.stopFor r).enqueue r).sys.levelS = false) : s.queueRecord r = ((s.stopFor r).enqueue r).enterS := by
  simp only [State.queueRecord, h, hr, hl, Bool.not_false, Bool.and_self, if_true]

/-- Where the record of a cause of a strand other than K stops it. -/
def Strand.stopAt (t : Strand) (pc : BitVec 16) : Strand :=
  if t.stands then { t with pc := pc } else { t with run := .faulted, pc := pc, wait := none, dsync := none }

theorem Strand.stopAt_pc (t : Strand) (pc : BitVec 16) : (t.stopAt pc).pc = pc := by
  unfold Strand.stopAt
  split <;> rfl

theorem Strand.stopAt_running {t : Strand} (h : t.run = .running) (pc : BitVec 16) :
    (t.stopAt pc).run = .faulted ∧ (t.stopAt pc).wait = none ∧ (t.stopAt pc).dsync = none := by
  have hs : t.stands = false := by
    unfold Strand.stands
    rw [h]
    rfl
  rw [Strand.stopAt, hs]
  exact ⟨rfl, rfl, rfl⟩

theorem State.stopFor_other {s : State} {r : FaultRecord} (hx : r.strand ≠ .K) (hr : r.stops = true) :
    s.stopFor r = s.onStrand r.strand (·.stopAt r.pc) := by
  have ht : s.atS r.strand = false := by simp [State.atS, hx]
  simp only [State.stopFor, ht, hr, Bool.false_eq_true, Bool.not_true, if_false, if_neg hx]
  rfl

theorem State.stopFor_K {s : State} {r : FaultRecord} (hx : r.strand = .K) (hl : s.sys.levelS = false) (hr : r.stops = true) :
    s.stopFor r = s.onStrand .K fun t => { t with pc := r.pc } := by
  have ht : s.atS r.strand = false := by simp [State.atS, hl]
  simp only [State.stopFor, ht, hr, Bool.false_eq_true, Bool.not_true, if_false, if_pos hx]

theorem State.stopFor_atS {s : State} {r : FaultRecord} (hx : r.strand = .K) (hl : s.sys.levelS = true) :
    s.stopFor r = if r.raised = cHypercall then s.onStrand .K fun t => { t with pc := r.pc } else s := by
  have ht : s.atS r.strand = true := by simp [State.atS, hx, hl]
  rw [State.stopFor, if_pos ht, hx]

theorem State.stopFor_sys (s : State) (r : FaultRecord) : (s.stopFor r).sys = s.sys := by
  unfold State.stopFor
  split_ifs <;> simp only [State.onStrand_sys]

theorem State.stopFor_pk (s : State) (r : FaultRecord) : (s.stopFor r).pk = s.pk := by
  unfold State.stopFor
  split_ifs <;> rfl

theorem State.code_of_plane {s u : State} (hp : u.pk = s.pk) (ha : u.sys.planeAct = s.sys.planeAct) (x : StrandId) : u.code x = s.code x := by
  simp only [State.code, State.plane, hp, ha]

/-! ## A precise cause (R77, R99, R100) -/

/-- The record of a cause at the item of a strand (R102). -/
def State.causeRecord (s : State) (x : StrandId) (cls : CauseClass) (c : BitVec 6) (d a : BitVec 64) : FaultRecord :=
  ⟨c, c, cls, x, itemCompact (s.itemOf x), (s.strand x).lockstep, s.atS x, 0, 0, itemBits (s.itemOf x),
    (s.strand x).pc + BitVec.ofNat 16 (if c = 0x09 ∨ c = 0x0A ∨ c = 0x3E then s.itemLen x else 0), (s.strand x).hdr, (s.strand x).remain,
    (s.strand x).coord, a, d, s.sys.cycle, .strand⟩

/-- The record of a cause of K at S: a MACHINE_CHECK of it, but for HYPERCALL (R100). -/
def FaultRecord.atLevel (r : FaultRecord) : FaultRecord :=
  if r.lvl && r.raised != cHypercall then
    { r with cause := cMachineCheck, raised := cMachineCheck, cls := .asynchronous, detail := r.raised.setWidth 64 }
  else r

/-- A state as an item of strand `x` that raises a cause leaves it for delivery: what its waits keep is gone, and the translations that
the item has seen are. -/
structure State.FoundBy (s u : State) (x : StrandId) : Prop where
  sys : u.sys = s.sys
  strand : ∀ y, y ≠ x → u.strand y = s.strand y
  code : ∀ y, u.code y = s.code y
  swage : u.pk.swage = s.pk.swage
  place : (u.strand x).pc = (s.strand x).pc ∧ (u.strand x).hdr = (s.strand x).hdr ∧ (u.strand x).remain = (s.strand x).remain
  flags : (u.strand x).flags = (s.strand x).flags
  run : (u.strand x).run = (s.strand x).run
  coord : (u.strand x).coord = (s.strand x).coord
  lockstep : (u.strand x).lockstep = (s.strand x).lockstep

theorem State.FoundBy.itemOf {s u : State} {x : StrandId} (h : s.FoundBy u x) : u.itemOf x = s.itemOf x := by
  simp only [State.itemOf, h.place, h.code]

theorem State.FoundBy.atS {s u : State} {x : StrandId} (h : s.FoundBy u x) (y : StrandId) : u.atS y = s.atS y := by
  simp only [State.atS, h.sys]

theorem State.FoundBy.record {s u : State} {x : StrandId} (h : s.FoundBy u x) (c : BitVec 6) (cls : CauseClass) (d a : BitVec 64)
    (skip : Nat) : u.record x c cls d a 0 (u.strand x).coord .strand skip = s.record x c cls d a 0 (s.strand x).coord .strand skip := by
  simp only [State.record, h.itemOf, h.atS, h.place, h.coord, h.lockstep, h.sys]

theorem State.FoundBy.atsSeen {s u : State} {x : StrandId} (h : s.FoundBy u x) (a : BitVec 64) : s.FoundBy (u.atsSeen a) x :=
  ⟨h.sys, h.strand, h.code, h.swage, h.place, h.flags, h.run, h.coord, h.lockstep⟩

/-- A change of the strand that leaves its position and status alone. -/
theorem State.FoundBy.onStrand {s u : State} {x : StrandId} (h : s.FoundBy u x) {f : Strand → Strand}
    (place : ∀ t, ((f t).pc, (f t).hdr, (f t).remain) = (t.pc, t.hdr, t.remain))
    (status : ∀ t, ((f t).flags, (f t).run, (f t).coord, (f t).lockstep) = (t.flags, t.run, t.coord, t.lockstep)) :
    s.FoundBy (u.onStrand x f) x := by
  have hp := place (u.strand x)
  have hs := status (u.strand x)
  simp only [Prod.mk.injEq] at hp hs
  obtain ⟨pc, hdr, remain⟩ := hp
  obtain ⟨flags, run, coord, lockstep⟩ := hs
  refine ⟨(u.onStrand_sys x f).trans h.sys, fun y hy => (u.onStrand_other f hy).trans (h.strand y hy),
    fun y => (u.onStrand_code x y f).trans (h.code y), h.swage, ?_, ?_, ?_, ?_, ?_⟩ <;> rw [State.onStrand_strand]
  · exact ⟨pc.trans h.place.1, hdr.trans h.place.2.1, remain.trans h.place.2.2⟩
  · exact flags.trans h.flags
  · exact run.trans h.run
  · exact coord.trans h.coord
  · exact lockstep.trans h.lockstep

theorem State.foundBy_self (s : State) (x : StrandId) : s.FoundBy s x :=
  ⟨rfl, fun _ _ => rfl, fun _ => rfl, rfl, ⟨rfl, rfl, rfl⟩, rfl, rfl, rfl, rfl⟩

theorem State.foundBy_clearBad (s : State) (x : StrandId) : s.FoundBy (s.onStrand x (·.clearBad)) x :=
  (s.foundBy_self x).onStrand (fun _ => rfl) fun _ => rfl

theorem State.FoundBy.unhooked {s u : State} {r : FaultRecord} (h : s.FoundBy u r.strand) :
    s.FoundBy (u.onStrand r.strand (·.unhooked r)) r.strand :=
  h.onStrand (fun _ => rfl) fun _ => rfl

theorem resumesNext_iff (c : BitVec 6) : resumesNext c = true ↔ c = 0x09 ∨ c = 0x0A ∨ c = 0x3E := by
  simp [resumesNext, or_assoc]

/-- A raised cause is a raise of its record, in the state as the item leaves it (R77, R100). -/
theorem State.raisePrecise_eq (s : State) (x : StrandId) (c : BitVec 6) (d a : BitVec 64) : ∃ u cls, s.FoundBy u x ∧
    (c ≠ 0x3B → cls = .precise) ∧
    (s.onStrand x (·.clearBad)).raisePrecise x c d a 0 0 = u.raise (s.causeRecord x cls c d a).atLevel := by
  unfold State.raisePrecise
  extract_lets u skip cls r0 r
  have hu : s.FoundBy u x := by
    unfold u
    split
    · exact (s.foundBy_clearBad x).atsSeen a
    · exact s.foundBy_clearBad x
  have hcls : c ≠ 0x3B → cls = .precise := fun hc => if_neg fun h => hc (of_decide_eq_true (Bool.and_eq_true_iff.mp h).1)
  have hlen : u.itemLen x = s.itemLen x := by simp only [State.itemLen, hu.itemOf]
  have hskip : skip = if c = 0x09 ∨ c = 0x0A ∨ c = 0x3E then s.itemLen x else 0 := by
    unfold skip
    rw [hlen]
    exact if_congr (by rw [Bool.and_eq_true, resumesNext_iff]; simp) rfl rfl
  have hr : r = s.causeRecord x cls c d a := by
    unfold r r0
    rw [hu.record, hskip]
    rfl
  refine ⟨u, cls, hu, hcls, ?_⟩
  rw [hr, hu.atS, FaultRecord.atLevel]
  exact (apply_ite u.raise _ _ _).symm

/-- A cause of the level T, of a strand, is its record's raise. -/
theorem FaultRecord.atLevel_T {r : FaultRecord} (h : r.lvl = false ∨ r.raised = cHypercall) : r.atLevel = r := by
  unfold FaultRecord.atLevel
  rw [if_neg]
  obtain h | h := h <;> simp [h]

theorem FaultRecord.atLevel_S {r : FaultRecord} (hl : r.lvl = true) (hr : r.raised ≠ cHypercall) : r.atLevel =
    { r with cause := cMachineCheck, raised := cMachineCheck, cls := .asynchronous, detail := r.raised.setWidth 64 } := by
  unfold FaultRecord.atLevel
  rw [if_pos (Bool.and_eq_true_iff.mpr ⟨hl, bne_iff_ne.mpr hr⟩)]

/-- A record for H reaches Hearth (R100 item 4). -/
theorem State.raise_toHearth {s : State} {r : FaultRecord} (hd : deliveredAtH r.cause = true) :
    s.raise r = ((s.onStrand r.strand (·.unhooked r)).stopFor r).toHearth r := by
  obtain ⟨-, h⟩ | ⟨h, -⟩ := s.raise_cases r
  · exact h
  · exact absurd (hd.symm.trans h) nofun

/-- The system once a record waits for Hearth: the core stands still where the record stops a strand (R100 item 4). -/
def System.told (y : System) (r : FaultRecord) : System := { y with hDue := y.hDue ++ [r], stoppedByH := y.stoppedByH || r.stops }

theorem State.FoundBy.told {s u : State} {x : StrandId} (h : s.FoundBy u x) (r : FaultRecord) :
    ((u.stopFor r).toHearth r).sys = s.sys.told r :=
  congrArg (·.told r) ((u.stopFor_sys r).trans h.sys)

/-- What the cause of a strand at T comes to, where no hook claims it (R100): its record is queued, or reaches Hearth. -/
theorem State.raises_T {s : State} (hooks : ∀ r, bestSlot s.pk.swage (·.hooks r) = none) (x : StrandId) (c : BitVec 6) (d a : BitVec 64)
    (hl : s.atS x = false ∨ c = 0x3E) : ∃ w cls, s.FoundBy w x ∧ (c ≠ 0x3B → cls = .precise) ∧ s.raises x c d a =
      { (if deliveredAtH c then (w.stopFor (s.causeRecord x cls c d a)).toHearth (s.causeRecord x cls c d a)
        else w.queueRecord (s.causeRecord x cls c d a)) with last := .trapped c d a } := by
  obtain ⟨u, cls, hu, hcls, h⟩ := s.raisePrecise_eq x c d a
  refine ⟨u.onStrand x (·.unhooked (s.causeRecord x cls c d a)), cls, hu.unhooked (r := s.causeRecord x cls c d a), hcls, ?_⟩
  have hr : u.raise (s.causeRecord x cls c d a).atLevel = if deliveredAtH c
      then ((u.onStrand x (·.unhooked (s.causeRecord x cls c d a))).stopFor (s.causeRecord x cls c d a)).toHearth (s.causeRecord x cls c d a)
      else (u.onStrand x (·.unhooked (s.causeRecord x cls c d a))).queueRecord (s.causeRecord x cls c d a) := by
    rw [FaultRecord.atLevel_T hl]
    split
    · next hd => exact State.raise_toHearth hd
    · next hd =>
      exact State.raise_unclaimed (Bool.eq_false_iff.mpr hd) (by rw [hu.swage]; exact hooks _)
  rw [← hr, ← h]
  rfl

/-- The cause of K at S that is no HYPERCALL reaches Hearth as MACHINE_CHECK (R100). -/
theorem State.raises_S {s : State} (c : BitVec 6) (d a : BitVec 64) (hl : s.sys.levelS = true) (hc : c ≠ 0x3E) :
    let t := s.raises .K c d a
    t.sys.stoppedByH = true ∧ t.sys.levelS = true ∧ t.sys.fq = s.sys.fq ∧
      ∃ q, t.sys.hDue = s.sys.hDue ++ [q] ∧ q.cause = 0x3F ∧ q.detail = c.setWidth 64 ∧ q.lvl = true := by
  obtain ⟨u, cls, hu, -, h⟩ := s.raisePrecise_eq .K c d a
  have lvl : (s.causeRecord .K cls c d a).lvl = true := hl
  have hr : (s.causeRecord .K cls c d a).atLevel.stops = true ∧ deliveredAtH (s.causeRecord .K cls c d a).atLevel.cause = true ∧
      (s.causeRecord .K cls c d a).atLevel.strand = .K := by
    rw [FaultRecord.atLevel_S lvl hc]
    exact ⟨rfl, rfl, rfl⟩
  obtain ⟨stops, toH, strand⟩ := hr
  have ht : (s.raises .K c d a).sys = s.sys.told (s.causeRecord .K cls c d a).atLevel := by
    refine (congrArg State.sys h).trans ?_
    rw [State.raise_toHearth toH]
    exact (State.FoundBy.unhooked (strand.symm ▸ hu)).told _
  dsimp only
  rw [ht]
  refine ⟨(congrArg _ stops).trans (Bool.or_true _), hl, rfl, _, rfl, ?_⟩
  rw [FaultRecord.atLevel_S lvl hc]
  exact ⟨rfl, rfl, hl⟩

theorem State.causeRecord_stops {c : BitVec 6} (hc : nonStopping c = false) (s : State) (x : StrandId) (cls : CauseClass) (d a : BitVec 64) :
    (s.causeRecord x cls c d a).stops = true := by
  unfold FaultRecord.stops State.causeRecord
  rw [hc]
  rfl

theorem nonStopping_eq_false {c : BitVec 6} (h19 : c ≠ 0x19) (h1E : c ≠ 0x1E) (h34 : c ≠ 0x34) (h3A : c ≠ 0x3A) :
    nonStopping c = false := by
  simpa [nonStopping, and_assoc] using ⟨h19, h1E, h34, h3A⟩

theorem deliveredAtH_eq_false {c : BitVec 6} (h3B : c ≠ 0x3B) (h3E : c ≠ 0x3E) (h3F : c ≠ 0x3F) : deliveredAtH c = false := by
  simpa [deliveredAtH, and_assoc] using ⟨h3B, h3E, h3F⟩

/-- A cause of A, V or M queues its record and stops the strand (R100 items 1 and 3). -/
theorem State.raises_queues {s : State} (hooks : ∀ r, bestSlot s.pk.swage (·.hooks r) = none) {x : StrandId} (hx : x ≠ .K)
    {c : BitVec 6} (hc : nonStopping c = false) (hd : deliveredAtH c = false) (h3 : c ≠ 0x3B) (d a : BitVec 64) (hq : s.sys.fq.length < 16) :
    let t := s.raises x c d a
    let r := s.causeRecord x .precise c d a
    t.sys.fq = s.sys.fq ++ [r] ∧ (t.strand x).pc = r.pc ∧
      ((s.strand x).run = .running → (t.strand x).run = .faulted ∧ (t.strand x).wait = none ∧ (t.strand x).dsync = none) ∧
      (∀ y, y ≠ x → t.strand y = s.strand y) ∧ (s.sys.levelS = false → t.sys.sDue = true) ∧ (s.sys.levelS = true → t.sys.pend = true) := by
  intro t r
  obtain ⟨w, cls, hw, hcls, h⟩ := s.raises_T hooks x c d a (.inl (by simp [State.atS, hx]))
  obtain rfl := hcls h3
  have own : r.own = false := by simp [FaultRecord.own, r, State.causeRecord, hx]
  have queued : t = { (w.onStrand x (·.stopAt r.pc)).enqueue r with last := .trapped c d a } := by
    unfold t
    rw [h, hd, State.queueRecord_notOwn own, State.stopFor_other hx (State.causeRecord_stops hc ..)]
    rfl
  have sys : (w.onStrand x (·.stopAt r.pc)).sys = s.sys := (State.onStrand_sys ..).trans hw.sys
  have strand (y : StrandId) : t.strand y = (w.onStrand x (·.stopAt r.pc)).strand y := by
    rw [queued]
    exact State.enqueue_strand _ r y
  have room : roomFor (w.onStrand x (·.stopAt r.pc)).sys.fq r = true := by
    rw [sys]
    exact roomFor_of_short r hq
  obtain ⟨due, pends⟩ := State.enqueue_delivers room
  rw [sys] at due pends
  have stopped : t.strand x = (w.strand x).stopAt r.pc := (strand x).trans (State.onStrand_strand ..)
  refine ⟨?_, ?_, fun hr => ?_, fun y hy => ?_, fun hl => ?_, fun hl => ?_⟩
  · rw [queued, ← sys]
    exact State.enqueue_fq room
  · rw [stopped, Strand.stopAt_pc]
  · rw [stopped]
    exact Strand.stopAt_running (hw.run.trans hr) _
  · rw [strand, State.onStrand_other _ _ hy, hw.strand y hy]
  · rw [queued]
    exact due hl
  · rw [queued]
    exact pends hl

/-- A cause that Hearth takes stops the core (R100 item 4). -/
theorem State.raises_toH {s : State} (hooks : ∀ r, bestSlot s.pk.swage (·.hooks r) = none) (x : StrandId) {c : BitVec 6}
    (hc : nonStopping c = false) (hd : deliveredAtH c = true) (d a : BitVec 64) (hl : s.atS x = false ∨ c = 0x3E) : ∃ cls,
    (s.raises x c d a).sys = s.sys.told (s.causeRecord x cls c d a) ∧ (s.sys.told (s.causeRecord x cls c d a)).stoppedByH = true := by
  obtain ⟨w, cls, hw, -, h⟩ := s.raises_T hooks x c d a hl
  refine ⟨cls, ?_, (congrArg _ (State.causeRecord_stops hc ..)).trans (Bool.or_true _)⟩
  rw [h, hd]
  exact hw.told _

/-- A HYPERCALL of K at S stands at its next item (R144). -/
theorem State.raises_hypercall {s : State} (hooks : ∀ r, bestSlot s.pk.swage (·.hooks r) = none) (d a : BitVec 64)
    (hl : s.sys.levelS = true) : (s.raises .K 0x3E d a).core.k.pc = (s.causeRecord .K .precise 0x3E d a).pc := by
  obtain ⟨w, cls, hw, hcls, h⟩ := s.raises_T hooks .K 0x3E d a (.inr rfl)
  obtain rfl := hcls (by decide)
  have told : (s.raises .K 0x3E d a).core.k.pc = (w.stopFor (s.causeRecord .K .precise 0x3E d a)).core.k.pc := by
    rw [h]
    rfl
  rw [told, State.stopFor_atS rfl ((congrArg _ hw.sys).trans hl)]
  exact congrArg (fun u : State => u.core.k.pc) (if_pos rfl)

/-- A cause of K at T queues its record beside what the queue holds, and K enters S (R100 item 3, R131). -/
theorem State.raises_enters {s : State} (hooks : ∀ r, bestSlot s.pk.swage (·.hooks r) = none) {c : BitVec 6}
    (hc : nonStopping c = false) (hd : deliveredAtH c = false) (h3 : c ≠ 0x3B) (d a : BitVec 64) (hl : s.sys.levelS = false)
    (hq : ∀ q ∈ s.sys.fq, q.own = false) :
    let t := s.raises .K c d a
    let r := s.causeRecord .K .precise c d a
    t.sys.fq = s.sys.fq ++ [r] ∧ (handlerStands s → entersS s t r.pc) ∧
      (¬handlerStands s → t.sys.levelS = false ∧ t.sys.stoppedByH = true ∧ ∃ q, t.sys.hDue = s.sys.hDue ++ [q] ∧ q.cause = 0x3F ∧
        q.detail = 0x0B) := by
  intro t r
  obtain ⟨w, cls, hw, hcls, h⟩ := s.raises_T hooks .K c d a (.inl hl)
  obtain rfl := hcls h3
  have stops : r.stops = true := State.causeRecord_stops hc ..
  have levelT : w.sys.levelS = false := (congrArg _ hw.sys).trans hl
  have room : roomFor w.sys.fq r = true := by
    have fresh : w.sys.fq.any (·.own) = false := by
      rw [hw.sys]
      exact List.any_eq_false.mpr fun q hm => by simp [hq q hm]
    have own : r.own = true := rfl
    rw [roomFor, fresh, own]
    rfl
  obtain ⟨level, tvec, told, planeAct⟩ := State.enqueue_keeps (w.stopFor r) r
  rw [State.stopFor_sys] at level tvec told planeAct
  have entered : t = { ((w.stopFor r).enqueue r).enterS with last := .trapped c d a } := by
    unfold t
    rw [h, hd, State.queueRecord_own rfl room (level.trans levelT)]
    rfl
  have k : ((w.stopFor r).enqueue r).core.k = { w.core.k with pc := r.pc } := by
    refine (State.enqueue_strand (w.stopFor r) r .K).trans ?_
    rw [State.stopFor_K rfl levelT stops]
    rfl
  have as : s.StandsAs ((w.stopFor r).enqueue r) := by
    refine ⟨tvec.trans (congrArg _ hw.sys), ?_, ?_, ?_, ?_, ?_⟩
    · exact (State.code_of_plane ((State.enqueue_pk ..).trans (State.stopFor_pk ..)) planeAct .K).trans (hw.code .K)
    all_goals rw [k]
    · exact hw.place.2.1
    · exact hw.place.2.2
    · exact hw.flags
    · exact hw.run
  have fq : ((w.stopFor r).enqueue r).enterS.sys.fq = s.sys.fq ++ [r] := by
    refine (State.enterS_keeps _).fq.trans ?_
    rw [State.enqueue_fq (by rwa [State.stopFor_sys]), State.stopFor_sys, hw.sys]
  have enters := State.enterS_handler (s := (w.stopFor r).enqueue r)
  have stays := State.enterS_noHandler (s := (w.stopFor r).enqueue r)
  rw [k, as.handlerStands] at enters
  rw [level, levelT, told, hw.sys, as.handlerStands] at stays
  generalize ((w.stopFor r).enqueue r).enterS = v at *
  rw [entered]
  exact ⟨fq, fun hs => as.entersS (enters hs), stays⟩

/-! ## ENTER_S at a boundary (R100 item 3) -/

theorem execEnterS_idle {s : State} (h : s.sys.sDue = false ∨ s.sys.levelS = true ∨ s.sys.stoppedByH = true) : exec .enterS s = .next s := by
  refine congrArg _ (if_neg fun hn => ?_)
  simp only [Bool.and_eq_true, Bool.not_eq_true'] at hn
  obtain ⟨⟨⟨due, level⟩, goes⟩, -⟩ := hn
  obtain h | h | h := h
  · exact absurd (due.symm.trans h) nofun
  · exact absurd (h.symm.trans level) nofun
  · exact absurd (h.symm.trans goes) nofun

theorem execEnterS_waits {s : State} (h : s.kAtBoundary = false) : exec .enterS s = .next s := by
  refine congrArg _ (if_neg fun hn => ?_)
  exact absurd ((Bool.and_eq_true_iff.mp hn).2.symm.trans h) nofun

theorem execEnterS_enters {s : State} (due : s.sys.sDue = true) (level : s.sys.levelS = false) (goes : s.sys.stoppedByH = false)
    (h : s.kAtBoundary = true) : exec .enterS s = .next s.enterS :=
  congrArg _ (if_pos (by simp [due, level, goes, h]))

/-- K stands at a boundary when its item waits for no atomic and no DSYNC has its phase behind it (R121, R124). -/
theorem State.kAtBoundary_of_settled {s : State} (amo : (s.strand .K).amo = none) (alone : (s.strand .K).lockstep = false)
    (synced : (s.strand .K).synced ≠ some (s.strand .K).pc) : s.kAtBoundary = true := by
  simp [State.kAtBoundary, State.awaits, Strand.passed, amo, alone, synced]

theorem State.kAtBoundary_of_passed {s : State} (synced : (s.strand .K).synced = some (s.strand .K).pc)
    (alone : (s.strand .K).lockstep = false) (rerun : s.sys.rerun = false) (may : s.mayIssue .K = true) : s.kAtBoundary = false := by
  simp [State.kAtBoundary, Strand.passed, synced, alone, rerun, may]

/-! ## POP (R101, R102) -/

/-- Popping the head record of a queue for which none waits takes that record away, and no more. -/
theorem State.dropHead_alone {s : State} {r : FaultRecord} {rest : List FaultRecord} (hq : s.sys.fq = r :: rest) (hw : s.sys.fqWait = []) :
    s.dropHead = s.onSys fun y => { y with fq := rest } := by
  have dropped : s.dropHead = s.onSys fun y => { y with fq := rest, fqWait := [] } := by
    simp only [State.dropHead, hq, hw, List.drop_succ_cons, List.drop_zero, admitWaiting, Bool.false_and, Bool.or_false,
      Bool.false_eq_true, if_false]
  rw [dropped]
  exact congrArg (fun l => s.onSys fun y => { y with fq := rest, fqWait := l }) hw.symm

/-- What POP does before the head record goes: with RESUME its work goes on, without it a FAULTED store is dropped (R101, R369). -/
def State.answerRecord (s : State) (r : FaultRecord) (rest : List FaultRecord) (resume : Bool) : State :=
  if resume then s.resumeRecord r (rest ++ s.sys.fqWait)
  else match r.resume with
    | .sideEntry id => if s.core.side.any (fun e => e.id == id && e.state == .faulted) then s.sideDrop id else s
    | _ => s

theorem State.popRecord_eq {s : State} {r : FaultRecord} {rest : List FaultRecord} (hq : s.sys.fq = r :: rest) (resume : Bool) :
    s.popRecord resume = if (s.answerRecord r rest resume).dropHead.core.qu.resumeDue && !(s.answerRecord r rest resume).dropHead.stopQueued
      then (s.answerRecord r rest resume).dropHead.resumeCut else (s.answerRecord r rest resume).dropHead := by
  unfold State.popRecord
  rw [hq]
  rfl

theorem State.popRecord_empty {s : State} (hq : s.sys.fq = []) (resume : Bool) : s.popRecord resume = s := by
  unfold State.popRecord
  rw [hq]

/-- The record is the queue's head and none waits; no cut waits for its own record to be popped. -/
structure State.HeadIs (s : State) (r : FaultRecord) (rest : List FaultRecord) : Prop where
  fq : s.sys.fq = r :: rest
  wait : s.sys.fqWait = []
  due : s.core.qu.resumeDue = false

/-- The state with only the rest of the queue. -/
def State.popped (s : State) (rest : List FaultRecord) : State := s.onSys fun y => { y with fq := rest }

/-- POP of the head record, where the record's work is answered first and the queue stands. -/
theorem State.HeadIs.popRecord {s u : State} {r : FaultRecord} {rest : List FaultRecord} (h : s.HeadIs r rest) {resume : Bool}
    (he : s.answerRecord r rest resume = u) (hu : u.HeadIs r rest) : s.popRecord resume = u.popped rest := by
  rw [State.popRecord_eq h.fq, he, State.dropHead_alone hu.fq hu.wait, if_neg]
  · rfl
  · rw [State.onSys_qu, hu.due]
    exact nofun

theorem State.HeadIs.fqPop_plain {s : State} {r : FaultRecord} {rest : List FaultRecord} (h : s.HeadIs r rest)
    (hr : ∀ id, r.resume ≠ .sideEntry id) : exec .fqPop s = .next (s.popped rest) := by
  refine congrArg _ (h.popRecord ?_ h)
  unfold State.answerRecord
  rw [if_neg nofun]
  split
  · next id e => exact absurd e (hr id)
  · rfl

theorem State.HeadIs.sideDrop {s : State} {r : FaultRecord} {rest : List FaultRecord} (h : s.HeadIs r rest) (id : Nat) :
    (s.sideDrop id).HeadIs r rest ∧ ∀ e ∈ (s.sideDrop id).core.side, e.id ≠ id := by
  unfold State.sideDrop
  dsimp only
  split <;> exact ⟨⟨h.fq, h.wait, h.due⟩, fun e he => bne_iff_ne.mp (List.mem_filter.mp he).2⟩

/-- Without RESUME a FAULTED store is dropped with its record (R369). -/
theorem State.HeadIs.fqPop_drops {s : State} {r : FaultRecord} {rest : List FaultRecord} (h : s.HeadIs r rest) {id : Nat}
    (hr : r.resume = .sideEntry id) (hf : ∃ e ∈ s.core.side, e.id = id ∧ e.state = .faulted) :
    ∃ t, exec .fqPop s = .next t ∧ t.sys.fq = rest ∧ ∀ e ∈ t.core.side, e.id ≠ id := by
  have dropped : s.answerRecord r rest false = s.sideDrop id := by
    unfold State.answerRecord
    rw [if_neg nofun, hr]
    obtain ⟨e, he, hid, hst⟩ := hf
    exact if_pos (List.any_eq_true.mpr ⟨e, he, by simp [hid, hst]⟩)
  obtain ⟨head, gone⟩ := h.sideDrop id
  exact ⟨(s.sideDrop id).popped rest, congrArg Host.Outcome.next (h.popRecord dropped head), rfl, gone⟩

/-- Whether nothing of a record is resumed: its cause resumes nothing, or is the stop of a cut (R104, R349). -/
def FaultRecord.never (r : FaultRecord) : Prop := r.raised ∈ [(0x23 : BitVec 6), 0x32, 0x33, 0x3C, 0x3F]

theorem FaultRecord.never_iff (r : FaultRecord) : r.never ↔ r.raised = cQuenchStop ∨ resumesNever r.raised = true := by
  simp [FaultRecord.never, resumesNever, or_assoc]

theorem State.resumeRecord_never {r : FaultRecord} (h : r.never) (s : State) (others : List FaultRecord) : s.resumeRecord r others = s :=
  if_pos (Bool.or_eq_true_iff.mpr ((or_congr_left decide_eq_true_iff).mpr (r.never_iff.mp h)))

theorem State.resumeRecord_goesOn {r : FaultRecord} (h : ¬r.never) (s : State) (others : List FaultRecord) : s.resumeRecord r others =
    if r.strand = .K then s.resumeEngine r.resume else (s.resumeEngine r.resume).restart r others :=
  if_neg fun hn => h (r.never_iff.mpr ((or_congr_left decide_eq_true_iff).mp (Bool.or_eq_true_iff.mp hn)))

theorem State.HeadIs.fqPopResume_never {s : State} {r : FaultRecord} {rest : List FaultRecord} (h : s.HeadIs r rest)
    (hr : r.never ∨ (r.strand = .K ∧ r.resume = .strand)) : exec .fqPopResume s = .next (s.popped rest) := by
  refine congrArg _ (h.popRecord ?_ h)
  refine (if_pos rfl).trans ?_
  by_cases hn : r.never
  · exact State.resumeRecord_never hn ..
  · obtain ⟨hx, he⟩ := hr.resolve_left hn
    rw [State.resumeRecord_goesOn hn, if_pos hx, he]
    rfl

/-- With RESUME a FAULTED store is to be performed again (R101). -/
theorem State.HeadIs.fqPopResume_store {s : State} {r : FaultRecord} {rest : List FaultRecord} (h : s.HeadIs r rest) {id : Nat}
    (he : r.resume = .sideEntry id) (hn : ¬r.never) : ∃ t, exec .fqPopResume s = .next t ∧ t.sys.fq = rest ∧
      t.core.side.length = s.core.side.length ∧ ∀ e ∈ t.core.side, e.id = id → e.state ≠ .faulted := by
  have resumed : s.answerRecord r rest true = s.resumeEngine (.sideEntry id) := by
    have standing : ¬(r.stops = true) := by simp [FaultRecord.stops, he]
    refine (if_pos rfl).trans ?_
    rw [State.resumeRecord_goesOn hn, he]
    split
    · rfl
    · exact if_neg fun hs => standing (Bool.and_eq_true_iff.mp (Bool.and_eq_true_iff.mp hs).1).1
  refine ⟨(s.resumeEngine (.sideEntry id)).popped rest, congrArg Host.Outcome.next (h.popRecord resumed ⟨h.fq, h.wait, h.due⟩), rfl,
    List.length_map _, fun e hm hid => ?_⟩
  obtain ⟨e', -, rfl⟩ := List.mem_map.mp hm
  by_cases hs : e'.id = id ∧ e'.state = .faulted
  · rw [if_pos hs]
    exact nofun
  · rw [if_neg hs] at hid ⊢
    exact fun hf => hs ⟨hid, hf⟩

/-- With RESUME a strand that the record alone has stopped goes on at the record's position (R101, R102). -/
theorem State.HeadIs.fqPopResume_strand {s : State} {r : FaultRecord} {rest : List FaultRecord} (h : s.HeadIs r rest)
    (he : r.resume = .strand) (hn : ¬r.never) (hx : r.strand ≠ .K) (hs : r.stops = true) (hf : (s.strand r.strand).run = .faulted)
    (ho : ∀ q ∈ rest, q.strand = r.strand → q.stops = false) :
    exec .fqPopResume s = .next ((s.popped rest).onStrand r.strand (·.goesOn r.pc r.hdr r.remain)) := by
  have alone : (rest ++ s.sys.fqWait).any (fun q => q.strand == r.strand && q.stops) = false := by
    rw [h.wait, List.append_nil, List.any_eq_false]
    exact fun q hq => by simpa using ho q hq
  have resumed : s.answerRecord r rest true = s.onStrand r.strand (·.goesOn r.pc r.hdr r.remain) := by
    refine (if_pos rfl).trans ?_
    rw [State.resumeRecord_goesOn hn, if_neg hx, he]
    exact if_pos (by simp [State.resumeEngine, hs, hf, alone])
  have head : (s.onStrand r.strand (·.goesOn r.pc r.hdr r.remain)).HeadIs r rest := by
    refine ⟨?_, ?_, ?_⟩
    · exact (congrArg System.fq (State.onStrand_sys ..)).trans h.fq
    · exact (congrArg System.fqWait (State.onStrand_sys ..)).trans h.wait
    · exact (congrArg QuenchUnit.resumeDue (State.onStrand_qu ..)).trans h.due
  refine congrArg _ ((h.popRecord resumed head).trans ?_)
  cases r.strand <;> rfl

/-! ## Items that the decoder refuses (R77) -/

/-- The item of a refused encoding. -/
def refusedItem (w : BitVec 32) (compact : Bool) : Item := if compact then .compact (w.setWidth 16) else .wide w

theorem refuseItem_claimed {s : State} (hdry : s.dry = false) {w : BitVec 32} {compact : Bool}
    (h : s.decodeSlot s.cur (refusedItem w compact) ≠ none) (legal : List StrandId) (priv : Bool) (c : BitVec 6) :
    refuseItem s w compact legal priv c = s :=
  if_pos (Bool.and_eq_true_iff.mpr ⟨by rw [hdry]; rfl, Option.isSome_iff_ne_none.mpr h⟩)

/-- A refused item that no Swage slot claims raises what the checks of its strand and level find, else the cause it is refused for. -/
theorem refuseItem_raises {s : State} {x : StrandId} (hi : s.issues x) {w : BitVec 32} {compact : Bool}
    (h : s.decodeSlot x (refusedItem w compact) = none) (legal : List StrandId) (priv : Bool) (c : BitVec 6) :
    refuseItem s w compact legal priv c =
      s.raises x (if x ∉ legal then 0x03 else if priv = true ∧ s.sys.levelS = false then 0x06 else c) 0 0 := by
  obtain ⟨hcur, hdry, -, -⟩ := hi
  subst hcur
  have hslot : ¬(!s.dry && (s.decodeSlot s.cur (refusedItem w compact)).isSome) = true := by simp [h]
  refine (if_neg hslot).trans ?_
  unfold runItem
  split_ifs <;> simp_all [State.finish, Res.fail, State.raises]

theorem execReservedSpaceItem_raises {s : State} {x : StrandId} (hi : s.issues x) {w : BitVec 32} {compact : Bool}
    (h : s.decodeSlot x (refusedItem w compact) = none) : exec (.reservedSpaceItem w compact) s = .next (s.raises x 0x02 0 0) := by
  refine congrArg Host.Outcome.next ((refuseItem_raises hi h ..).trans ?_)
  rw [if_neg (by cases x <;> decide), if_neg nofun]

theorem execIllegalEncodingItem_raises {s : State} {x : StrandId} (hi : s.issues x) {w : BitVec 32} {compact : Bool}
    (h : s.decodeSlot x (refusedItem w compact) = none) : exec (.illegalEncodingItem w compact) s = .next (s.raises x
      (if x ∉ (if compact then compactStrands (w.setWidth 16) else majorStrands w) then 0x03
        else if compact = false ∧ w.extractLsb' 26 5 = 0x1B ∧ s.sys.levelS = false then 0x06 else 0x01) 0 0) := by
  refine congrArg Host.Outcome.next ((refuseItem_raises hi h ..).trans ?_)
  simp only [Bool.and_eq_true, Bool.not_eq_true', majorPrivileged, beq_iff_eq, and_assoc]

/-! ## Hearth resumes or abandons (R99, R104) -/

theorem execHearth_idle {s : State} (h : s.sys.hearth = [] ∨ s.pk.hot = true) (resume : Bool) :
    exec (.hearthResumeOrAbandon resume) s = .next s :=
  congrArg _ (if_pos (Bool.or_eq_true_iff.mpr (h.imp_left List.isEmpty_iff.mpr)))

/-- What Hearth does with the records that it holds. -/
def State.hearthActs (s : State) (resume : Bool) : State :=
  if resume then (if s.sys.hearth.any fun r => resumesNever r.raised then s.hearthRollBack else s.hearthResume)
  else s.abandon.onSys fun y => { y with hearth := [] }

theorem execHearth_acts {s : State} (h : s.sys.hearth ≠ []) (hot : s.pk.hot = false) (resume : Bool) :
    exec (.hearthResumeOrAbandon resume) s = .next (s.hearthActs resume) :=
  congrArg _ (if_neg (by simp [h, hot]))

theorem State.idle_run (s : State) (x : StrandId) : (s.idle.strand x).run = .noTask := by
  cases x <;> rfl

/-- A core whose work is given up has no task and stands still no longer. -/
theorem State.abandon_results (s : State) : s.abandon.sys.stoppedByH = false ∧ ∀ x, (s.abandon.strand x).run = .noTask :=
  ⟨rfl, fun x => State.idle_run _ x⟩

theorem State.resumeEngine_sys (s : State) (e : Resume) : (s.resumeEngine e).sys = s.sys := by
  cases e with
  | stream q gen => simp only [State.resumeEngine, State.onCore]; split <;> rfl
  | _ => rfl

theorem State.restart_sys (s : State) (r : FaultRecord) (others : List FaultRecord) : (s.restart r others).sys = s.sys := by
  unfold State.restart
  split
  · exact State.onStrand_sys ..
  · rfl

/-- Hearth's records are gone, and the core goes on unless more of them wait. -/
theorem State.hearthResume_sys (s : State) : s.hearthResume.sys =
    { s.sys with hearth := [], stoppedByH := !(s.sys.hDue.all fun r => !r.stops) } := by
  unfold State.hearthResume
  exact foldl_keeps (P := fun t : State => t.sys = { s.sys with hearth := [], stoppedByH := !(s.sys.hDue.all fun r => !r.stops) }) rfl
    fun t r ht => (State.restart_sys ..).trans ((State.resumeEngine_sys ..).trans ht)

/-- One record of Hearth's that stops its strand: the core goes on, and the strand where it is FAULTED (R100, R104). -/
theorem State.hearthResume_single {s : State} {r : FaultRecord} (hh : s.sys.hearth = [r]) (hdue : s.sys.hDue = []) (he : r.resume = .strand)
    (hs : r.stops = true) (hq : s.sys.fq ++ s.sys.fqWait = []) :
    s.hearthResume.sys.hearth = [] ∧ s.hearthResume.sys.stoppedByH = false ∧
      ((s.strand r.strand).run = .faulted →
        (s.hearthResume.strand r.strand).run = .running ∧ (s.hearthResume.strand r.strand).pc = r.pc) ∧
      ((s.strand r.strand).run ≠ .faulted → s.hearthResume.strand r.strand = s.strand r.strand) := by
  have resumed : s.hearthResume =
      (s.onSys fun y => { y with hearth := [], stoppedByH := !(y.hDue.all fun r => !r.stops) }).restart r [] := by
    unfold State.hearthResume
    rw [hh, hq, List.foldl_cons, List.foldl_nil, he]
    rfl
  have sys := s.hearthResume_sys
  rw [hdue] at sys
  refine ⟨congrArg System.hearth sys, congrArg System.stoppedByH sys, fun hf => ?_, fun hf => ?_⟩
  · rw [resumed, State.restart, if_pos (by simp [hs, State.onSys_strand, hf]), State.onStrand_strand]
    exact ⟨rfl, rfl⟩
  · rw [resumed, State.restart, if_neg (by simp [State.onSys_strand, hf]), State.onSys_strand]

theorem execHearth_resumes {s : State} {r : FaultRecord} (hh : s.sys.hearth = [r]) (hot : s.pk.hot = false)
    (hr : resumesNever r.raised = false) : exec (.hearthResumeOrAbandon true) s = .next s.hearthResume := by
  rw [execHearth_acts (by rw [hh]; exact nofun) hot, State.hearthActs, if_pos rfl, if_neg (by simp [hh, hr])]

theorem execHearth_rollsBack {s : State} (h : ∃ r ∈ s.sys.hearth, r.raised ∈ [(0x32 : BitVec 6), 0x33, 0x3C, 0x3F])
    (hot : s.pk.hot = false) : exec (.hearthResumeOrAbandon true) s = .next s.hearthRollBack := by
  obtain ⟨r, hm, hr⟩ := h
  have never : (s.sys.hearth.any fun r => resumesNever r.raised) = true :=
    List.any_eq_true.mpr ⟨r, hm, by simpa [resumesNever, or_assoc] using hr⟩
  rw [execHearth_acts (List.ne_nil_of_mem hm) hot, State.hearthActs, if_pos rfl, if_pos never]

theorem State.holdBack_sys (s : State) : s.holdBack.sys = { s.sys with sheld := true } := by
  obtain ⟨l, p0, p1, h⟩ := (s.onSys fun y => { y with sheld := true }).returnOverlap_onlySchedule
  exact congrArg State.sys h

theorem State.holdBack_qu (s : State) : s.holdBack.core.qu = s.core.qu := by
  obtain ⟨l, p0, p1, h⟩ := (s.onSys fun y => { y with sheld := true }).returnOverlap_onlySchedule
  unfold State.holdBack
  rw [h]
  rfl

/-- The quench that a rollback asks for: to the start of the region (R107, R353). -/
def State.ownRollback (s : State) : QuenchRequest := ⟨Coord.ofKey s.regionG, s.sys.qlvl, s.sys.lcore, true, false, true⟩

theorem State.rollBack_asks (s : State) : s.ownRollback ∈ s.rollBack.core.qu.requests :=
  List.mem_append_right _ (List.mem_singleton.mpr rfl)

/-- What resumes nothing rolls back where K is at T and a task stands (log 25). -/
theorem State.hearthRollBack_T {s : State} (hl : s.sys.levelS = false) (he : s.pk.ending ≠ 4) :
    s.hearthRollBack.sys.hearth = [] ∧ s.hearthRollBack.sys.forced = some .rollback ∧ s.hearthRollBack.sys.sheld = true ∧
      ∃ q ∈ s.hearthRollBack.core.qu.requests, q.rollback = true ∧ q.own = true := by
  have rolled : s.hearthRollBack = s.hearthResume.rollBack.holdBack := by
    rw [State.hearthRollBack, if_neg (by simp [State.atS, hl]), State.hasTask, if_pos (decide_eq_true he)]
  rw [rolled, State.holdBack_sys, State.holdBack_qu]
  exact ⟨congrArg System.hearth s.hearthResume_sys, rfl, rfl, _, State.rollBack_asks _, rfl, rfl⟩

theorem State.hearthRollBack_S {s : State} (hl : s.sys.levelS = true) :
    s.hearthRollBack = s.abandon.onSys fun y => { y with hearth := [] } :=
  if_pos (by simp [State.atS, hl])

/-! ## The obligation -/

/-- Settles O53: what a raised cause comes to by its strand and level, entry into S at a boundary, POP by what the head record names, refused
items, and Hearth. -/
theorem exceptionResults : Obligations.ExceptionResults := by
  unfold Obligations.ExceptionResults
  intro s hooks
  refine ⟨?_, execEnterS_idle, ?_, ?_, rfl, ?_, ?_, ?_, ?_, ?_, ?_, ?_⟩
  · intro x c d a h19 h1E h34 h3A t skip pc r
    have lvl (h : x ≠ .K ∨ s.sys.levelS = false) : s.atS x = false := by
      obtain h | h := h <;> simp [State.atS, h]
    have stops := nonStopping_eq_false h19 h1E h34 h3A
    refine ⟨fun h3B h3E h3F => ⟨fun hx hq => ?_, fun hx hl hq => ?_⟩, ?_, ?_, ?_⟩
    · have queued := State.raises_queues hooks hx stops (deliveredAtH_eq_false h3B h3E h3F) h3B d a hq
      rw [State.causeRecord, lvl (.inl hx)] at queued
      exact queued
    · subst hx
      have entered := State.raises_enters hooks stops (deliveredAtH_eq_false h3B h3E h3F) h3B d a hl hq
      rw [State.causeRecord, lvl (.inr hl)] at entered
      exact entered
    · rintro rfl hl hc
      exact State.raises_S c d a hl hc
    · rintro rfl hl rfl
      obtain ⟨cls, told, stopped⟩ := State.raises_toH hooks .K stops rfl d a (.inr rfl)
      rw [told]
      exact ⟨stopped, hl, rfl, State.raises_hypercall hooks d a hl, _, rfl, rfl, rfl, rfl, rfl⟩
    · intro hc hx
      have toH : deliveredAtH c = true := by obtain rfl | rfl := hc <;> rfl
      obtain ⟨cls, told, stopped⟩ := State.raises_toH hooks x stops toH d a (.inl (lvl hx))
      rw [told]
      exact ⟨stopped, rfl, _, rfl, rfl, rfl, rfl, rfl, rfl⟩
  · intro due level goes amo alone synced
    refine ⟨s.enterS, execEnterS_enters due level goes (State.kAtBoundary_of_settled amo alone synced), ?_⟩
    obtain ⟨pk, fq, due, strand⟩ := s.enterS_keeps
    refine ⟨fq, due, pk, strand, State.enterS_handler, fun hn => ?_⟩
    obtain ⟨stays, -, told⟩ := State.enterS_noHandler hn
    exact ⟨stays.trans level, told⟩
  · exact fun synced alone rerun may => execEnterS_waits (State.kAtBoundary_of_passed synced alone rerun may)
  · intro hq
    exact ⟨congrArg Host.Outcome.next (State.popRecord_empty hq false), congrArg Host.Outcome.next (State.popRecord_empty hq true)⟩
  · intro r rest hq hw hdue popped
    have head : s.HeadIs r rest := ⟨hq, hw, hdue⟩
    exact ⟨head.fqPop_plain, fun _ => head.fqPop_drops, head.fqPopResume_never, fun _ => head.fqPopResume_store,
      head.fqPopResume_strand⟩
  · intro x w compact hi i legal
    refine ⟨fun hc => ?_, fun hn => ⟨execReservedSpaceItem_raises hi hn, execIllegalEncodingItem_raises hi hn⟩⟩
    obtain ⟨rfl, hdry, -⟩ := hi
    exact ⟨congrArg Host.Outcome.next (refuseItem_claimed hdry hc ..), congrArg Host.Outcome.next (refuseItem_claimed hdry hc ..)⟩
  · exact fun resume h => execHearth_idle h resume
  · intro hh hot
    obtain ⟨goes, idle⟩ := s.abandon_results
    exact ⟨_, execHearth_acts hh hot false, rfl, goes, idle⟩
  · intro r hh hdue hot he hs hr hq
    exact ⟨_, execHearth_resumes hh hot hr, State.hearthResume_single hh hdue he hs hq⟩
  · intro h hot
    obtain ⟨-, idle⟩ := s.abandon_results
    have rolls := execHearth_rollsBack h hot
    exact ⟨fun hl => ⟨_, rolls.trans (congrArg _ (State.hearthRollBack_S hl)), rfl, idle⟩,
      fun hl he => ⟨_, rolls, State.hearthRollBack_T hl he⟩⟩

end Sys2Proof.Machine
end

section
/-!
PROOFS. Pre-emption and the end of a task (O54): yield requests, deadlines, budgets, forced modes, and the stages of the task end.
-/
namespace Sys2Proof.Machine

/-! ## A cause of the system (R100, R106) -/

/-- The causes of the system that are raised here: TOUCHMARK, YIELD_REQUEST, YIELD_DEADLINE and BUDGET (R104). -/
def systemCauses : List (BitVec 6) := [0x32, 0x36, 0x37, 0x38]

/-- The record of a cause of the system. -/
def State.systemRecord (s : State) (c : BitVec 6) (d : BitVec 64) : FaultRecord :=
  s.record .K c .asynchronous d 0 0 (s.strand .K).coord .nothing 0

/-- A state and one in which a cause of the system has been raised: its record is queued or waits, and delivery has changed nothing but the
hook's count of K and what interrupts K. -/
structure State.Raised (s t : State) (c : BitVec 6) (d : BitVec 64) : Prop where
  frame : ∃ hook fq fqWait due pend, t = (s.onStrand .K fun k => { k with hook := hook }).onSys fun y => { y with
    fq := fq, fqWait := fqWait, sDue := due, pend := pend }
  queued : s.systemRecord c d ∈ t.sys.fq ++ t.sys.fqWait

/-- Queueing the record of a system's cause changes the queue and what interrupts K. -/
theorem State.enqueue_frame {s : State} {r : FaultRecord} (hs : nonStopping r.raised = false) (hh : r.holdsShadow = false) :
    (∃ fq fqWait due pend, s.enqueue r = s.onSys fun y => { y with fq := fq, fqWait := fqWait, sDue := due, pend := pend }) ∧
      r ∈ (s.enqueue r).sys.fq ++ (s.enqueue r).sys.fqWait := by
  by_cases room : roomFor s.sys.fq r = true
  · refine ⟨⟨s.sys.fq ++ [r], s.sys.fqWait, s.sys.sDue || !s.sys.levelS, s.sys.pend || s.sys.levelS, ?_⟩, ?_⟩
    · cases hl : s.sys.levelS <;> simp [State.enqueue, room, State.interrupt, State.onSys, hh, hl]
    · rw [State.enqueue_fq room]
      simp
  · have waits : s.enqueue r = s.onSys fun y => { y with fqWait := y.fqWait ++ [r] } := by
      rw [State.enqueue, if_neg room, hs, if_neg nofun]
    rw [waits]
    exact ⟨⟨s.sys.fq, s.sys.fqWait ++ [r], s.sys.sDue, s.sys.pend, rfl⟩, by simp⟩

/-- The record of a system's cause moves no strand (R104). -/
theorem State.stopFor_system {s u : State} (hu : (u.strand .K).pc = (s.strand .K).pc) {c : BitVec 6} (hc : c ∈ systemCauses)
    (d : BitVec 64) : u.stopFor (s.systemRecord c d) = u := by
  have hyper : ¬(s.systemRecord c d).raised = cHypercall := fun h => absurd (h ▸ hc : cHypercall ∈ systemCauses) (by decide)
  have pc : (s.systemRecord c d).pc = (u.strand .K).pc := (BitVec.add_zero _).trans hu.symm
  cases hl : u.sys.levelS with
  | true => rw [State.stopFor_atS rfl hl, if_neg hyper]
  | false =>
    have stops : (s.systemRecord c d).stops = true := by
      have moving : ∀ c ∈ systemCauses, nonStopping c = false := by decide
      exact congrArg (!· && true) (moving c hc)
    rw [State.stopFor_K rfl hl stops, pc]
    rfl

theorem State.raiseSystem_raised {s : State} (hooks : ∀ r, bestSlot s.pk.swage (·.hooks r) = none) {c : BitVec 6} (hc : c ∈ systemCauses)
    (d : BitVec 64) : s.Raised (s.raiseSystem c d) c d := by
  have facts : ∀ c ∈ systemCauses, deliveredAtH c = false ∧ nonStopping c = false ∧
    ([cQuenchStop, cYieldRequest, cYieldDeadline, cBudget, cRevoked, cTouchmark] : List (BitVec 6)).contains c = true := by decide
  obtain ⟨atT, stops, event⟩ := facts c hc
  have raised : s.raiseSystem c d = (s.onStrand .K (·.unhooked (s.systemRecord c d))).enqueue (s.systemRecord c d) := by
    refine (State.raise_unclaimed (r := s.systemRecord c d) atT (hooks _)).trans ?_
    rw [State.queueRecord_notOwn rfl]
    exact congrArg (State.enqueue · _) (State.stopFor_system rfl hc d)
  have free : (s.systemRecord c d).holdsShadow = false := by
    show (!nonStopping c && !List.contains _ c) = false
    rw [event, Bool.not_true, Bool.and_false]
  obtain ⟨⟨fq, fqWait, due, pend, h⟩, queued⟩ :=
    State.enqueue_frame (s := s.onStrand .K (·.unhooked (s.systemRecord c d))) (r := s.systemRecord c d) stops free
  exact ⟨⟨_, fq, fqWait, due, pend, raised.trans h⟩, raised ▸ queued⟩

theorem State.Raised.systemCause {s t : State} {c : BitVec 6} {d : BitVec 64} (h : s.Raised t c d) : systemCause t c :=
  ⟨_, h.queued, rfl, rfl, rfl⟩

theorem State.Raised.strand {s t : State} {c : BitVec 6} {d : BitVec 64} (h : s.Raised t c d) (x : StrandId) :
    ∃ hook, t.strand x = { s.strand x with hook := hook } := by
  obtain ⟨hook, fq, fqWait, due, pend, rfl⟩ := h.frame
  cases x with
  | K => exact ⟨hook, rfl⟩
  | A => exact ⟨s.core.a.hook, rfl⟩
  | V => exact ⟨s.core.v.hook, rfl⟩
  | M => exact ⟨s.core.m.hook, rfl⟩

theorem State.Raised.keeps {s t : State} {c : BitVec 6} {d : BitVec 64} (h : s.Raised t c d) :
    t.pk = s.pk ∧ t.sys.rerun = s.sys.rerun := by
  obtain ⟨hook, fq, fqWait, due, pend, rfl⟩ := h.frame
  exact ⟨rfl, rfl⟩

/-! ## Forced modes (R107) -/

/-- What a SAVE makes of a strand that has an item to end first, or none. -/
def Strand.saveStop (t : Strand) (later : Bool) : Strand :=
  if (t.run == .running && !later) || t.run == .meeting || t.run == .yielded then { t with run := .saved, dsync := none } else t

/-- What a SAVE leaves of a strand: its status and its DSYNC change. -/
theorem Strand.saveStop_frame (t : Strand) (later : Bool) : ∃ run dsync, t.saveStop later = { t with run := run, dsync := dsync } := by
  unfold Strand.saveStop
  split
  · exact ⟨_, _, rfl⟩
  · exact ⟨t.run, t.dsync, rfl⟩

theorem State.saveStrands_eq (s : State) :
    s.saveStrands = strandIds.foldl (fun s x => s.onStrand x (·.saveStop (s.savesLater x))) s := rfl

/-- Whether a strand has an item to end first does not depend on what a SAVE has made of the others. -/
theorem State.savesLater_saveStop (s : State) (x y : StrandId) (later : Bool) :
    (s.onStrand y (·.saveStop later)).savesLater x = s.savesLater x := by
  obtain ⟨run, dsync, h⟩ := (s.strand y).saveStop_frame later
  have framed : s.onStrand y (·.saveStop later) = s.onStrand y fun t => { t with run := run, dsync := dsync } := congrArg (s.putStrand y) h
  rw [framed]
  cases y <;> cases x <;> rfl

theorem State.saveStrands_strand (s : State) (x : StrandId) : s.saveStrands.strand x = (s.strand x).saveStop (s.savesLater x) := by
  rw [State.saveStrands_eq, strandIds]
  simp only [List.foldl_cons, List.foldl_nil, State.savesLater_saveStop]
  cases x <;> rfl

theorem State.savesLater_of_settled {s : State} {x : StrandId} (ha : s.awaits x = false) (hp : (s.strand x).passed = false) :
    s.savesLater x = false := by
  rw [State.savesLater, hp, Bool.false_or, List.any_eq_false]
  intro y _ hy
  simp only [Bool.and_eq_true, Bool.or_eq_true, beq_iff_eq] at hy
  obtain ⟨⟨same | ⟨lx, ly⟩, amo⟩, -⟩ := hy
  · subst same
    rw [State.awaits, amo] at ha
    exact absurd ha nofun
  · have other : (strandIds.any fun y => (s.strand y).lockstep && (s.strand y).amo.isSome) = true :=
      List.any_eq_true.mpr ⟨y, by cases y <;> decide, by rw [ly, amo]; rfl⟩
    rw [State.awaits, lx, other, Bool.or_eq_false_iff] at ha
    exact absurd ha.2 nofun

/-- Released entries are HELD no longer (R107). -/
theorem State.releaseHeld_frame (s : State) : ∃ mem, s.releaseHeld = (s.onCore fun c => { c with
    side := c.side.map fun e => if e.state = .held then { e with state := .pend } else e }).onMu fun m => { m with mem := mem } :=
  State.syncOverflow_frame _

theorem State.releaseHeld_side {s : State} {e : SideEntry} (h : e ∈ s.releaseHeld.core.side) : e.state ≠ .held := by
  obtain ⟨mem, frame⟩ := s.releaseHeld_frame
  rw [frame] at h
  obtain ⟨e', -, rfl⟩ := List.mem_map.mp h
  split
  · exact nofun
  · next hn => exact hn

/-- What a SAVE makes of the strands leaves the rest of the core and the package. -/
theorem State.saveStrands_keeps (s : State) : s.saveStrands.sys = s.sys ∧ s.saveStrands.pk = s.pk ∧
    s.saveStrands.core.side = s.core.side ∧ s.saveStrands.core.qu = s.core.qu ∧ s.saveStrands.core.mat = s.core.mat ∧
    s.saveStrands.core.rowq = s.core.rowq ∧ s.saveStrands.core.chainq = s.core.chainq :=
  ⟨rfl, rfl, rfl, rfl, rfl, rfl, rfl⟩

theorem State.savesByForce_iff (s : State) : s.savesByForce = true ↔ s.sys.qlvl ≤ 1 ∧ s.sys.fmode = false := by
  simp [State.savesByForce, BitVec.le_def]

/-- A forced SAVE releases what is HELD and stops the strands (R107). -/
def State.forcedSave (s : State) : State := ((s.onSys fun y => { y with forced := some .save }).onMat (·.save)).releaseHeld.saveStrands

theorem State.applyForced_save {s : State} (h : s.savesByForce = true) : s.applyForced = s.forcedSave := if_pos h

theorem State.applyForced_rollback {s : State} (h : s.savesByForce = false) : s.applyForced = s.rollBack := if_neg (by simp [h])

theorem State.forcedSave_sys (s : State) : s.forcedSave.sys = { s.sys with forced := some .save } := by
  obtain ⟨mem, h⟩ := ((s.onSys fun y => { y with forced := some .save }).onMat (·.save)).releaseHeld_frame
  unfold State.forcedSave
  rw [h]
  rfl

theorem State.releaseHeld_strand (s : State) (x : StrandId) : s.releaseHeld.strand x = s.strand x := by
  obtain ⟨mem, h⟩ := s.releaseHeld_frame
  rw [h]
  cases x <;> rfl

/-- Whether an item waits for an atomic is told by the strands (R182). -/
theorem State.awaits_congr {s u : State} (h : ∀ y, (u.strand y).amo = (s.strand y).amo ∧ (u.strand y).lockstep = (s.strand y).lockstep)
    (x : StrandId) : u.awaits x = s.awaits x := by
  simp only [State.awaits, fun y => (h y).1, fun y => (h y).2]

theorem State.saveStrands_stops {s : State} {x : StrandId} (hr : (s.strand x).run = .running) (ha : s.awaits x = false)
    (hp : (s.strand x).passed = false) : (s.saveStrands.strand x).run = .saved := by
  rw [State.saveStrands_strand, State.savesLater_of_settled ha hp, Strand.saveStop, hr]
  rfl

theorem State.forcedSave_stops {s : State} {x : StrandId} (hr : (s.strand x).run = .running) (ha : s.awaits x = false)
    (hp : (s.strand x).passed = false) : (s.forcedSave.strand x).run = .saved := by
  have same (y : StrandId) : ((s.onSys fun y => { y with forced := some .save }).onMat (·.save)).releaseHeld.strand y = s.strand y := by
    rw [State.releaseHeld_strand, State.onMat_strand, State.onSys_strand]
  refine State.saveStrands_stops ?_ ((State.awaits_congr (fun y => ?_) x).trans ha) ?_
  · rw [same, hr]
  · rw [same]
    exact ⟨rfl, rfl⟩
  · rw [same, hp]

/-- The forced mode applies (R107). -/
theorem State.applyForced_applies (s : State) : forcedApplied s s.applyForced := by
  refine ⟨fun h => ?_, fun h => ?_⟩
  · rw [State.applyForced_save (s.savesByForce_iff.mpr h)]
    exact ⟨congrArg System.forced s.forcedSave_sys, fun _ => State.releaseHeld_side, fun _ => State.forcedSave_stops⟩
  · have rolls : s.savesByForce = false := by
      refine Bool.eq_false_iff.mpr fun hs => ?_
      obtain ⟨low, save⟩ := s.savesByForce_iff.mp hs
      obtain h | h := h
      · exact absurd low (BitVec.not_le.mpr h)
      · exact absurd (save.symm.trans h) nofun
    rw [State.applyForced_rollback rolls]
    exact ⟨rfl, _, s.rollBack_asks, rfl, rfl, rfl, rfl⟩

/-- The forced mode changes of the system only what is in force. -/
theorem State.applyForced_sys (s : State) : ∃ mode, s.applyForced.sys = { s.sys with forced := mode } := by
  cases h : s.savesByForce with
  | true => exact ⟨_, (congrArg State.sys (State.applyForced_save h)).trans s.forcedSave_sys⟩
  | false => exact ⟨some .rollback, by rw [State.applyForced_rollback h]; rfl⟩

/-- Two states in which the forced mode finds the same. -/
structure State.ForcedAlike (s u : State) : Prop where
  mode : u.sys.qlvl = s.sys.qlvl ∧ u.sys.fmode = s.sys.fmode
  region : u.regionG = s.regionG
  strand : ∀ x, (u.strand x).run = (s.strand x).run ∧ u.awaits x = s.awaits x ∧ (u.strand x).passed = (s.strand x).passed

theorem State.ForcedAlike.applied {s u t : State} (h : s.ForcedAlike u) (ht : forcedApplied u t) : forcedApplied s t := by
  obtain ⟨qlvl, fmode⟩ := h.mode
  unfold forcedApplied at *
  rw [qlvl, fmode, h.region] at ht
  refine ⟨fun hs => ?_, ht.2⟩
  obtain ⟨forced, free, stops⟩ := ht.1 hs
  refine ⟨forced, free, fun x hr ha hp => ?_⟩
  obtain ⟨run, awaits, passed⟩ := h.strand x
  exact stops x (run.trans hr) (awaits.trans ha) (passed.trans hp)

/-- A rollback that keeps the successor back is still in force (R404). -/
theorem forcedApplied.holdBack {s t : State} (h : forcedApplied s t) : forcedApplied s t.holdBack := by
  obtain ⟨l, p0, p1, frame⟩ := (t.onSys fun y => { y with sheld := true }).returnOverlap_onlySchedule
  have held : t.holdBack = (t.onSys fun y => { y with sheld := true }).onPk fun k => { k with slots := l, plane0 := p0, plane1 := p1 } :=
    frame
  rw [held]
  refine ⟨fun hs => ?_, h.2⟩
  obtain ⟨forced, free, stops⟩ := h.1 hs
  exact ⟨forced, free, fun x hr ha hp => (by cases x <;> exact stops _ hr ha hp)⟩

theorem State.forceMode_applies (s : State) : forcedApplied s s.forceMode := by
  unfold State.forceMode
  dsimp only
  split
  · exact s.applyForced_applies
  · exact s.applyForced_applies.holdBack

theorem State.forceMode_sys (s : State) : ∃ mode sheld, s.forceMode.sys = { s.sys with forced := mode, sheld := sheld } := by
  obtain ⟨mode, h⟩ := s.applyForced_sys
  unfold State.forceMode
  dsimp only
  split
  · exact ⟨mode, s.sys.sheld, h⟩
  · refine ⟨mode, true, ?_⟩
    rw [State.holdBack_sys, h]

/-- A cause of the system leaves the forced mode what it finds. -/
theorem State.Raised.alike {s t : State} {c : BitVec 6} {d : BitVec 64} (h : s.Raised t c d) : s.ForcedAlike t := by
  have strands (x : StrandId) : (t.strand x).run = (s.strand x).run ∧ (t.strand x).amo = (s.strand x).amo ∧
      (t.strand x).lockstep = (s.strand x).lockstep ∧ (t.strand x).passed = (s.strand x).passed ∧
      (t.strand x).coord = (s.strand x).coord := by
    obtain ⟨hook, hx⟩ := h.strand x
    rw [hx]
    exact ⟨rfl, rfl, rfl, rfl, rfl⟩
  have coord (x : StrandId) : (t.strand x).coord = (s.strand x).coord := by
    obtain ⟨-, -, -, -, same⟩ := strands x
    exact same
  have modes : t.sys.qlvl = s.sys.qlvl ∧ t.sys.fmode = s.sys.fmode ∧ t.sys.settle = s.sys.settle ∧ t.core.qu = s.core.qu := by
    obtain ⟨hook, fq, fqWait, due, pend, rfl⟩ := h.frame
    exact ⟨rfl, rfl, rfl, rfl⟩
  obtain ⟨qlvl, fmode, settle, qu⟩ := modes
  refine ⟨⟨qlvl, fmode⟩, ?_, fun x => ?_⟩
  · simp only [State.regionG, coord, qlvl, settle, qu]
  · obtain ⟨run, -, -, passed, -⟩ := strands x
    refine ⟨run, State.awaits_congr (fun y => ?_) x, passed⟩
    obtain ⟨-, amo, lockstep, -, -⟩ := strands y
    exact ⟨amo, lockstep⟩

/-- A change of the system that leaves the task's level, its mode and its settling leaves the forced mode what it finds. -/
theorem State.alike_onSys {s : State} {f : System → System}
    (hf : ((f s.sys).qlvl, (f s.sys).fmode, (f s.sys).settle) = (s.sys.qlvl, s.sys.fmode, s.sys.settle)) : s.ForcedAlike (s.onSys f) := by
  simp only [Prod.mk.injEq] at hf
  obtain ⟨qlvl, fmode, settle⟩ := hf
  refine ⟨⟨qlvl, fmode⟩, ?_, fun x => ?_⟩
  · simp only [State.regionG, State.onSys_strand, State.onSys_sys, State.onSys_qu, qlvl, settle]
  · rw [State.onSys_strand]
    exact ⟨rfl, State.awaits_congr (fun y => by rw [State.onSys_strand]; exact ⟨rfl, rfl⟩) x, rfl⟩

/-! ## Yield requests and deadlines (R106, R127) -/

theorem systemCause.of_queue {s t : State} {c : BitVec 6} (h : systemCause s c) (fq : t.sys.fq = s.sys.fq)
    (fqWait : t.sys.fqWait = s.sys.fqWait) : systemCause t c := by
  unfold systemCause
  rw [fq, fqWait]
  exact h

section
variable {s : State} (hooks : ∀ r, bestSlot s.pk.swage (·.hooks r) = none)
include hooks

/-- YIELD_DEADLINE is delivered, the request is over, and the forced mode applies (R106 item 3). -/
theorem State.deadlinePassed_results : s.deadlinePassed.sys.yreq = s.sys.yreq ∧ s.deadlinePassed.sys.yact = false ∧
    s.deadlinePassed.sys.deadline = none ∧ systemCause s.deadlinePassed 0x37 ∧ forcedApplied s s.deadlinePassed := by
  have raised := State.raiseSystem_raised (s := s.onSys fun y => { y with yact := false, deadline := none }) hooks
    (c := cYieldDeadline) (by decide) 0
  unfold State.deadlinePassed
  generalize State.raiseSystem _ _ _ = u at *
  obtain ⟨mode, sheld, sys⟩ := u.forceMode_sys
  have applied : forcedApplied s u.forceMode :=
    (State.alike_onSys rfl).applied (raised.alike.applied u.forceMode_applies)
  have cause : systemCause u.forceMode 0x37 :=
    raised.systemCause.of_queue (by rw [sys]) (by rw [sys])
  obtain ⟨hook, fq, fqWait, due, pend, rfl⟩ := raised.frame
  rw [sys]
  exact ⟨rfl, rfl, rfl, cause, applied⟩

/-- A deadline of zero elapses at once (R106). -/
theorem execYreqSet_elapses (hreq : s.sys.yreq = false) (hd : s.sys.ydl = 0) (hq : s.core.qu.st = .none) :
    ∃ t, exec .yreqSet s = .next t ∧ t.sys.yreq = true ∧ t.sys.yact = false ∧ systemCause t 0x37 ∧ forcedApplied s t := by
  have sets : exec .yreqSet s =
      .next (s.onSys fun y => { y with yreq := true, yact := true, deadline := some s.sys.ydl.toNat }).deadlinePassed := by
    refine congrArg Host.Outcome.next ((if_neg (by simp [hreq])).trans ?_)
    exact if_pos (by simp [State.deadlineDue, hd, hq])
  obtain ⟨yreq, yact, -, cause, applied⟩ := State.deadlinePassed_results
    (s := s.onSys fun y => { y with yreq := true, yact := true, deadline := some s.sys.ydl.toNat }) hooks
  exact ⟨_, sets, yreq, yact, cause, (State.alike_onSys rfl).applied applied⟩

end

theorem execYreqSet_again {s : State} (h : s.sys.yreq = true) : exec .yreqSet s = .next s := congrArg _ (if_pos h)

theorem execYreqSet_begins {s : State} (hreq : s.sys.yreq = false) (h : s.sys.ydl ≠ 0 ∨ s.core.qu.st ≠ .none) : exec .yreqSet s =
    .next (s.onSys fun y => { y with yreq := true, yact := true, deadline := some y.ydl.toNat }) := by
  refine congrArg Host.Outcome.next ((if_neg (by simp [hreq])).trans ?_)
  refine if_neg fun hn => ?_
  simp only [State.deadlineDue, State.onSys_sys, State.onSys_qu, Bool.and_eq_true, beq_iff_eq, Option.some.injEq] at hn
  obtain ⟨⟨-, hd⟩, hq⟩ := hn
  exact h.elim (fun h => h (BitVec.eq_of_toNat_eq hd)) fun h => h hq

/-- A withdrawn request lets the strands at yield points, and those that its SAVE has stopped, go on (R106, R107). -/
theorem execYreqClear_results (s : State) : ∃ t, exec .yreqClear s = .next t ∧
    t.sys = { s.sys with yreq := false, yact := false, deadline := none, fdone := false, forced := none } ∧ t.pk = s.pk ∧
    ∀ x, t.strand x = { s.strand x with run :=
      if (s.strand x).run = .yielded ∨ ((s.strand x).run = .saved ∧ s.sys.forced = some .save) then .running else (s.strand x).run } := by
  have unstopped : ∃ u : State, u.sys = s.sys ∧ u.pk = s.pk ∧ (∀ x, u.strand x = s.strand x) ∧ s.clearYreq =
      (strandIds.foldl (fun v x => v.onStrand x fun t => { t with run :=
        if t.run == .yielded || (t.run == .saved && u.sys.forced == some .save) then .running else t.run }) u).onSys fun y => { y with
          yreq := false, yact := false, deadline := none, fdone := false, forced := none } := by
    refine ⟨_, ?_, ?_, fun x => ?_, rfl⟩
    · split <;> rfl
    · split <;> rfl
    · split
      · exact State.onMat_strand ..
      · rfl
  obtain ⟨u, sys, pk, strand, clears⟩ := unstopped
  refine ⟨s.clearYreq, rfl, ?_, ?_, fun x => ?_⟩
  · rw [clears, ← sys]
    rfl
  · rw [clears, ← pk]
    rfl
  · have told (t : Strand) : (t.run == .yielded || (t.run == .saved && u.sys.forced == some .save)) = true ↔
        t.run = .yielded ∨ (t.run = .saved ∧ s.sys.forced = some .save) := by
      rw [sys, Bool.or_eq_true, Bool.and_eq_true, beq_iff_eq, beq_iff_eq, beq_iff_eq]
    rw [clears, ← strand x, ← if_congr (told (u.strand x)) rfl rfl]
    cases x <;> rfl

theorem State.deadlineDue_iff (s : State) : s.deadlineDue = true ↔ s.sys.yact = true ∧ s.sys.deadline = some 0 ∧ s.core.qu.st = .none := by
  simp [State.deadlineDue, and_assoc]

theorem State.yieldsAll_of_stopped {s : State} (act : s.sys.yact = true) (deadline : s.sys.deadline ≠ some 0) (level : s.sys.levelS = false)
    (quench : s.core.qu.st = .none) (ending : s.pk.ending < 4) (stopped : ∀ x, (s.strand x).atYield = true) : s.yieldsAll = true := by
  simp [State.yieldsAll, act, deadline, level, quench, ending, stopped]

/-- YIELD_REQUEST is delivered when all four strands have stopped (R106 item 2). -/
theorem execYieldRequest_delivers {s : State} (hooks : ∀ r, bestSlot s.pk.swage (·.hooks r) = none) (h : s.yieldsAll = true) :
    ∃ t, exec .yieldRequest s = .next t ∧ systemCause t 0x36 ∧ t.sys.yact = false ∧ t.sys.deadline = none ∧
      ∀ x, (t.strand x).run = (s.strand x).run ∧ (t.strand x).pc = (s.strand x).pc := by
  have raised := State.raiseSystem_raised (s := s.onSys fun y => { y with yact := false, deadline := none }) hooks
    (c := cYieldRequest) (by decide) 0
  refine ⟨_, congrArg Host.Outcome.next (if_pos h), raised.systemCause, ?_, ?_, fun x => ?_⟩
  · obtain ⟨hook, fq, fqWait, due, pend, frame⟩ := raised.frame
    exact congrArg (·.sys.yact) frame
  · obtain ⟨hook, fq, fqWait, due, pend, frame⟩ := raised.frame
    exact congrArg (·.sys.deadline) frame
  · obtain ⟨hook, hx⟩ := raised.strand x
    rw [hx, State.onSys_strand]
    exact ⟨rfl, rfl⟩

theorem Strand.atYield_iff (t : Strand) : t.atYield = true ↔
    t.run = .yielded ∨ t.run = .halted ∨ t.run = .pastEnd ∨ t.run = .taskEnd ∨ t.run = .noTask := by
  unfold Strand.atYield
  cases t.run <;> simp

theorem execYieldRequest_waits {s : State} (h : s.sys.yact = false ∨ s.sys.levelS = true ∨ s.core.qu.st ≠ .none ∨
    ∃ x, (s.strand x).run = .running) : exec .yieldRequest s = .next s := by
  refine congrArg _ (if_neg fun hn => ?_)
  simp only [State.yieldsAll, Bool.and_eq_true, Bool.not_eq_true', beq_iff_eq, List.all_eq_true] at hn
  obtain ⟨⟨⟨⟨⟨act, -⟩, level⟩, quench⟩, -⟩, stopped⟩ := hn
  obtain h | h | h | ⟨x, h⟩ := h
  · exact absurd (act.symm.trans h) nofun
  · exact absurd (level.symm.trans h) nofun
  · exact h quench
  · have := (Strand.atYield_iff _).mp (stopped x (by cases x <;> decide))
    simp [h] at this

/-- The state once its budget has run out: a deadline that elapses with it is cleared (R128, R404). -/
def State.budgetSpent (s : State) : State :=
  let both := s.sys.yact && s.sys.deadline == some 0
  s.onSys fun y => { y with
    budgetDue := false, yact := y.yact && !both, deadline := if both then none else y.deadline, sheld := false }

/-- BUDGET is delivered with the forced mode, and does not keep the successor back (R128, R404). -/
theorem execBudget_delivers {s : State} (hooks : ∀ r, bestSlot s.pk.swage (·.hooks r) = none) (due : s.sys.budgetDue = true)
    (level : s.sys.levelS = false) (quench : s.core.qu.st ≠ .pending) : ∃ t, exec .budget s = .next t ∧ t.sys.budgetDue = false ∧
      systemCause t 0x38 ∧ forcedApplied s t ∧ t.sys.sheld = false := by
  have runs : exec .budget s = .next (s.budgetSpent.raiseSystem cBudget 0).applyForced :=
    congrArg Host.Outcome.next (if_pos (by simp [due, level, quench]))
  have raised := State.raiseSystem_raised (s := s.budgetSpent) hooks (c := cBudget) (by decide) 0
  refine ⟨_, runs, ?_⟩
  generalize State.raiseSystem _ _ _ = u at *
  obtain ⟨mode, sys⟩ := u.applyForced_sys
  have applied : forcedApplied s u.applyForced := (State.alike_onSys rfl).applied (raised.alike.applied u.applyForced_applies)
  have cause : systemCause u.applyForced 0x38 := raised.systemCause.of_queue (by rw [sys]) (by rw [sys])
  obtain ⟨hook, fq, fqWait, due, pend, rfl⟩ := raised.frame
  rw [sys]
  exact ⟨rfl, cause, applied, rfl⟩

theorem execBudget_waits {s : State} (h : s.sys.budgetDue = false ∨ s.sys.levelS = true ∨ s.core.qu.st = .pending) :
    exec .budget s = .next s := by
  refine congrArg _ (if_neg fun hn => ?_)
  simp only [Bool.and_eq_true, Bool.not_eq_true', bne_iff_ne] at hn
  obtain ⟨⟨due, level⟩, quench⟩ := hn
  obtain h | h | h := h
  · exact absurd (due.symm.trans h) nofun
  · exact absurd (level.symm.trans h) nofun
  · exact quench h

/-- Counts of a pause that have ended are gone (R126). -/
theorem execPauseExpiry_results (s : State) : ∃ t, exec .pauseExpiry s = .next t ∧ t.sys = s.sys ∧ t.pk = s.pk ∧
    ∀ x, t.strand x = { s.strand x with pause := if (s.strand x).pause ≤ s.sys.cycle.toNat then 0 else (s.strand x).pause } :=
  ⟨_, rfl, rfl, rfl, fun x => by cases x <;> rfl⟩

/-! ## When a forced mode is done (R107) -/

theorem execForcedModeDone_idle {s : State} (h : s.sys.fdone = true ∨ s.sys.forced = none) : exec .forcedModeDone s = .next s := by
  refine congrArg Host.Outcome.next ?_
  by_cases hd : s.sys.fdone = true
  · exact if_pos hd
  · rw [if_neg hd, h.resolve_left hd]

/-- A rollback is done when its cut is (R107). -/
theorem execForcedModeDone_rollback {s : State} (hd : s.sys.fdone = false) (hf : s.sys.forced = some .rollback)
    (hq : s.core.qu.st ≠ .pending) (hr : ∀ r ∈ s.core.qu.requests, r.rollback = false) :
    exec .forcedModeDone s = .next (s.onSys fun y => { y with fdone := true }) := by
  refine congrArg Host.Outcome.next ((if_neg (by simp [hd])).trans ?_)
  rw [hf]
  refine if_neg fun hn => ?_
  obtain hn | hn := hn
  · exact hq hn
  · obtain ⟨r, hm, ht⟩ := List.any_eq_true.mp hn
    exact absurd ((hr r hm).symm.trans ht) nofun

/-! ## What a rise of the horizon leaves (R21, R336) -/

/-- Freed slag entries leave the log, and their numbers the scratchpad (R341). -/
theorem State.slagFree_frame (s : State) (keep : SlagEntry → Bool) : ∃ cells,
    s.slagFree keep = (s.onCore fun c => { c with slag := c.slag.filter keep }).onMu fun m => { m with scratch := cells } := by
  unfold State.slagFree
  refine foldl_keeps (P := fun t : State => ∃ cells,
    t = (s.onCore fun c => { c with slag := c.slag.filter keep }).onMu fun m => { m with scratch := cells }) ⟨s.pk.mu.scratch, rfl⟩ ?_
  rintro _ e ⟨cells, rfl⟩
  exact ⟨_, rfl⟩

/-- Freeing images changes strands, and the snapshots that the images own. -/
theorem State.freeImages_keeps (s : State) (keep : CutImage → Bool) : (s.freeImages keep).sys = s.sys ∧ (s.freeImages keep).pk = s.pk ∧
    (s.freeImages keep).core.qu = s.core.qu ∧ (s.freeImages keep).core.side = s.core.side ∧ (s.freeImages keep).core.slag = s.core.slag := by
  unfold State.freeImages
  dsimp only
  split <;> exact ⟨rfl, rfl, rfl, rfl, rfl⟩

/-- What images are left is to be kept, or is an entry image that the touchmark asks for (R354). -/
theorem State.freeImages_images (s : State) (keep : CutImage → Bool) {x : StrandId} {i : CutImage}
    (h : i ∈ ((s.freeImages keep).strand x).images) : keep i = true ∨ (i.entry = true ∧ s.sys.tmrec = true) := by
  rw [← Bool.and_eq_true, ← Bool.or_eq_true]
  unfold State.freeImages at h
  dsimp only at h
  split at h
  · next none =>
    by_contra gone
    have mem : i ∈ strandIds.flatMap fun x => (s.strand x).images.filter fun i => !(keep i || (i.entry && s.sys.tmrec)) :=
      List.mem_flatMap.mpr ⟨x, by cases x <;> decide, List.mem_filter.mpr ⟨h, by rw [Bool.eq_false_iff.mpr gone]; rfl⟩⟩
    rw [List.map_eq_nil_iff.mp (List.isEmpty_iff.mp none)] at mem
    exact absurd mem List.not_mem_nil
  · rw [State.onMat_strand, State.onVec_strand] at h
    have filtered : i ∈ (s.strand x).images.filter fun i => keep i || (i.entry && s.sys.tmrec) := by
      cases x <;> exact h
    exact (List.mem_filter.mp filtered).2

/-- A notice goes out as a packet. -/
theorem State.sendNotice_keeps (s : State) (l : Landed) : (s.sendNotice l).core = s.core ∧ (s.sendNotice l).pk.mu = s.pk.mu := by
  unfold State.sendNotice State.sendPacket
  extract_lets gen bare
  cases (s.keyId l.kid).bind (·.key) with
  | some key => exact ⟨rfl, by dsimp only [State.onPk]; split <;> rfl⟩
  | none => exact ⟨rfl, by dsimp only [State.onPk]; split <;> rfl⟩

/-- What the log holds, once the horizon has risen to a key. -/
def risen (h : Nat) (e : SideEntry) : SideEntry := if e.state = .held ∧ e.coord.key < h then { e with state := .pend } else e

/-- What is below the horizon is freed (R21, R283). -/
def State.freedBelow (s : State) (h : Nat) : State :=
  ((s.freeImages fun i => decide (h ≤ i.coord.key)).slagFree fun e => decide (h ≤ e.coord.key)).onMat fun m =>
    { m with sums := m.sums.filter fun c => decide (h ≤ c.1) }

theorem State.freedBelow_keeps (s : State) (h : Nat) : (s.freedBelow h).sys = s.sys ∧ (s.freedBelow h).core.qu = s.core.qu ∧
    (s.freedBelow h).core.side = s.core.side ∧ (s.freedBelow h).core.slag = s.core.slag.filter (fun e => decide (h ≤ e.coord.key)) ∧
    (s.freedBelow h).pk.mu.inflight = s.pk.mu.inflight := by
  obtain ⟨sys, pk, qu, side, slag⟩ := s.freeImages_keeps fun i => decide (h ≤ i.coord.key)
  unfold State.freedBelow
  generalize State.freeImages _ _ = u at *
  obtain ⟨cells, frame⟩ := u.slagFree_frame fun e => decide (h ≤ e.coord.key)
  rw [frame, ← slag, ← pk]
  exact ⟨sys, qu, side, rfl, rfl⟩

/-- Notices that are due go out, and what is frozen below the horizon goes on (R325). -/
def State.noticedBelow (s : State) (h : Nat) : State :=
  ((s.pk.notices.filter fun n => decide (n.2.1.key < h)).foldl (fun s n => s.sendNotice n.2.2) s).onPk fun k => { k with
    frozen := k.frozen.filter fun f => decide (h ≤ f.2.key)
    notices := k.notices.filter fun n => decide (h ≤ n.2.1.key) }

theorem State.noticedBelow_keeps (s : State) (h : Nat) : (s.noticedBelow h).core = s.core ∧ (s.noticedBelow h).pk.mu = s.pk.mu := by
  unfold State.noticedBelow
  refine foldl_keeps (P := fun t : State => t.core = s.core ∧ t.pk.mu = s.pk.mu) ⟨rfl, rfl⟩ ?_
  rintro t n ⟨core, mu⟩
  obtain ⟨core', mu'⟩ := t.sendNotice_keeps n.2.2
  exact ⟨core'.trans core, mu'.trans mu⟩

theorem State.raiseHorizon_eq (s : State) (h : Nat) : s.raiseHorizon h =
    (((s.onQu fun q => { q with hk := max h s.core.qu.hk }).onCore fun c => { c with
      side := c.side.map (risen (max h s.core.qu.hk)) }).syncOverflow.freedBelow (max h s.core.qu.hk)).noticedBelow
        (max h s.core.qu.hk) := rfl

theorem State.raiseHorizon_keeps (s : State) (h : Nat) :
    (s.raiseHorizon h).sys = s.sys ∧ (s.raiseHorizon h).core.qu = { s.core.qu with hk := max h s.core.qu.hk } ∧
      (s.raiseHorizon h).core.side = s.core.side.map (risen (max h s.core.qu.hk)) ∧
      (s.raiseHorizon h).core.slag = s.core.slag.filter (fun e => decide (max h s.core.qu.hk ≤ e.coord.key)) ∧
      (s.raiseHorizon h).pk.mu.inflight = s.pk.mu.inflight := by
  rw [State.raiseHorizon_eq]
  generalize max h s.core.qu.hk = top
  obtain ⟨mem, frame⟩ := State.syncOverflow_frame ((s.onQu fun q => { q with hk := top }).onCore fun c => { c with
    side := c.side.map (risen top) })
  obtain ⟨sys, qu, side, slag, inflight⟩ := State.freedBelow_keeps (State.syncOverflow _) top
  rw [frame] at *
  generalize State.freedBelow _ _ = u at *
  obtain ⟨core, mu⟩ := u.noticedBelow_keeps top
  rw [State.sys, core, mu]
  exact ⟨sys, qu, side, slag, inflight⟩

/-- A settle raises the horizon (R336, R344). -/
theorem State.settleNow_keeps (s : State) : s.settleNow.sys = s.sys ∧ s.core.qu.hk ≤ s.settleNow.core.qu.hk ∧
    (s.core.side = [] → s.settleNow.core.side = []) ∧ s.settleNow.pk.mu.inflight = s.pk.mu.inflight := by
  unfold State.settleNow
  extract_lets own top u
  obtain ⟨sys, qu, side, -, inflight⟩ := u.raiseHorizon_keeps u.effectiveH
  refine ⟨sys, ?_, fun hs => ?_, inflight⟩
  · rw [qu]
    exact le_max_right ..
  · rw [side]
    exact List.map_eq_nil_iff.mpr hs

/-- The end of a SAVE: the slag and the images are gone, the units have returned, and what is performed stays (R261). -/
theorem State.endSave_results (s : State) : s.endSave.sys = { s.sys with fdone := true } ∧ s.endSave.core.slag = [] ∧
    s.endSave.core.mat.held = 0 ∧ s.endSave.core.side = s.core.side ∧ s.endSave.core.qu = s.core.qu ∧
    ∀ x, ∀ i ∈ (s.endSave.strand x).images, i.entry = true ∧ s.sys.tmrec = true := by
  obtain ⟨cells, frame⟩ := s.slagFree_frame fun _ => false
  have slagless : (s.slagFree fun _ => false).core.slag = [] := by
    rw [frame]
    exact List.filter_eq_nil_iff.mpr fun _ _ => nofun
  have same : (s.slagFree fun _ => false).sys = s.sys ∧ (s.slagFree fun _ => false).core.side = s.core.side ∧
      (s.slagFree fun _ => false).core.qu = s.core.qu := by
    rw [frame]
    exact ⟨rfl, rfl, rfl⟩
  unfold State.endSave
  generalize s.slagFree (fun _ => false) = u at *
  obtain ⟨usys, uside, uqu⟩ := same
  obtain ⟨sys, -, qu, side, slag⟩ := u.freeImages_keeps fun _ => false
  have images (x : StrandId) (i : CutImage) (h : i ∈ ((u.freeImages fun _ => false).strand x).images) := u.freeImages_images _ h
  generalize State.freeImages u _ = v at *
  refine ⟨?_, slag.trans slagless, rfl, side.trans uside, qu.trans uqu, fun x i hi => ?_⟩
  · rw [← usys, ← sys]
    rfl
  · rw [← usys]
    exact (images x i (by cases x <;> exact hi)).resolve_left nofun

theorem State.releaseHeld_keeps (s : State) : s.releaseHeld.sys = s.sys ∧ s.releaseHeld.core.qu = s.core.qu ∧
    (s.core.side = [] → s.releaseHeld.core.side = []) ∧ s.releaseHeld.core.slag = s.core.slag ∧
    s.releaseHeld.pk.mu.inflight = s.pk.mu.inflight := by
  obtain ⟨mem, frame⟩ := s.releaseHeld_frame
  rw [frame]
  exact ⟨rfl, rfl, fun h => List.map_eq_nil_iff.mpr h, rfl, rfl⟩

/-- A SAVE that settles leaves strands that stand as they stand. -/
theorem State.saveStrands_stand {s : State} (stand : ∀ x, (s.strand x).run ≠ .running ∧ (s.strand x).timed = []) :
    (strandIds.any fun x => (s.saveStrands.strand x).run == .running || !(s.saveStrands.strand x).timed.isEmpty) = false := by
  refine List.any_eq_false.mpr fun x _ => ?_
  obtain ⟨run, timed⟩ := stand x
  have saved : ((s.strand x).saveStop (s.savesLater x)).run ≠ .running ∧ ((s.strand x).saveStop (s.savesLater x)).timed = [] := by
    unfold Strand.saveStop
    split
    · exact ⟨nofun, timed⟩
    · exact ⟨run, timed⟩
  rw [State.saveStrands_strand]
  simp [saved]

theorem State.saveStrands_enginesSaved (s : State) : s.saveStrands.enginesSaved = s.enginesSaved := by
  obtain ⟨-, pk, -, -, mat, rowq, chainq⟩ := s.saveStrands_keeps
  simp only [State.enginesSaved, pk, mat, rowq, chainq]

/-- The state that a SAVE settles in. -/
def State.saveSettles (s : State) : State := s.saveStrands.settleNow.releaseHeld

theorem State.saveSettles_keeps (s : State) : s.saveSettles.sys = s.sys ∧ s.core.qu.hk ≤ s.saveSettles.core.qu.hk ∧
    (s.core.side = [] → s.saveSettles.core.side = []) ∧ s.saveSettles.pk.mu.inflight = s.pk.mu.inflight := by
  obtain ⟨sys, hk, side, inflight⟩ := s.saveStrands.settleNow_keeps
  obtain ⟨ssys, spk, sside, squ, -⟩ := s.saveStrands_keeps
  rw [ssys] at sys
  rw [squ] at hk
  rw [sside] at side
  rw [spk] at inflight
  unfold State.saveSettles
  generalize s.saveStrands.settleNow = u at *
  obtain ⟨usys, uqu, uside, -, uinflight⟩ := u.releaseHeld_keeps
  exact ⟨usys.trans sys, hk.trans_eq (congrArg QuenchUnit.hk uqu).symm, fun h => uside (side h), uinflight.trans inflight⟩

/-- A SAVE is done when its strands and engines stand and every write is performed everywhere (R107, R49). -/
theorem execForcedModeDone_save {s : State} (hd : s.sys.fdone = false) (hf : s.sys.forced = some .save)
    (stand : ∀ x, (s.strand x).run ≠ .running ∧ (s.strand x).timed = []) (engines : s.enginesSaved = true) (side : s.core.side = [])
    (inflight : s.pk.mu.inflight = []) : ∃ t, exec .forcedModeDone s = .next t ∧ t.sys.fdone = true ∧ t.core.slag = [] ∧
      t.core.mat.held = 0 ∧ t.core.side = [] ∧ s.core.qu.hk ≤ t.core.qu.hk ∧
      ∀ x, ∀ i ∈ (t.strand x).images, i.entry = true ∧ s.sys.tmrec = true := by
  obtain ⟨sys, hk, uside, uinflight⟩ := s.saveSettles_keeps
  have quiet : ((strandIds.any fun x => (s.saveStrands.strand x).run == .running || !(s.saveStrands.strand x).timed.isEmpty) ||
      !s.saveStrands.enginesSaved) = false :=
    Bool.or_eq_false_iff.mpr ⟨State.saveStrands_stand stand, by rw [State.saveStrands_enginesSaved, engines]; rfl⟩
  have settles : s.saveSettles.core.side = [] ∧ s.saveSettles.pk.mu.inflight = [] := ⟨uside side, uinflight.trans inflight⟩
  have ends : exec .forcedModeDone s = .next s.saveSettles.endSave := by
    unfold State.saveSettles at *
    refine congrArg Host.Outcome.next ((if_neg (by simp [hd])).trans ?_)
    rw [hf]
    refine (if_neg (Bool.eq_false_iff.mp quiet)).trans (if_pos ?_)
    rw [Bool.and_eq_true, List.isEmpty_iff, List.isEmpty_iff]
    exact settles
  obtain ⟨esys, slag, held, eside, equ, images⟩ := s.saveSettles.endSave_results
  refine ⟨_, ends, by rw [esys], slag, held, eside.trans (uside side), by rwa [equ], ?_⟩
  rwa [sys] at images

/-! ## The end of a task (R122, R354) -/

theorem Coord.key_lt_topKey (c : Coord) : c.key < topKey := by
  unfold Coord.key topKey
  have := c.c0.isLt
  have := c.c1.isLt
  have := c.c2.isLt
  have := c.c3.isLt
  have := c.c4.isLt
  have := c.c5.isLt
  omega

theorem Strand.ended_iff (t : Strand) : t.ended = true ↔ t.run = .halted ∨ t.run = .pastEnd := by
  simp [Strand.ended]

theorem State.taskStopped_iff (s : State) : s.taskStopped = true ↔ s.sys.levelS = false ∧ s.sys.sDue = false ∧
    s.sys.stoppedByH = false ∧ ((s.core.k.run = .halted ∨ s.core.k.run = .pastEnd) ∨ s.core.k.run = .taskEnd) ∧
    (s.core.a.run = .halted ∨ s.core.a.run = .pastEnd) ∧ (s.core.v.run = .halted ∨ s.core.v.run = .pastEnd) ∧
    (s.core.m.run = .halted ∨ s.core.m.run = .pastEnd) := by
  simp [State.taskStopped, State.othersEnded, Strand.ended_iff, and_assoc, State.strand, Core.strand]

theorem execTaskEnd_waits {s : State} (h : s.taskStopped = false) : exec .taskEnd s = .next s :=
  congrArg Host.Outcome.next (if_pos (by rw [h]; rfl))

/-- The stage of the end of a task becomes `n`. -/
def State.stage (s : State) (n : Nat) : State := s.onPk fun k => { k with ending := n }

/-- What the end of a task does once its strands have all stopped. -/
def State.endStep (s : State) : State :=
  match s.pk.ending with
  | 0 => (if s.sys.qlvl.toNat ≤ 1 then (s.raiseHorizon topKey).releaseHeld else s).stage 1
  | 1 => if s.sys.qlvl.toNat ≤ 1 || s.horizonPassed then s.stage 2 else s
  | 2 =>
    if !s.sys.tmrec then s.stage 3
    else if !s.core.side.isEmpty then s
    else if s.pk.mu.touchmark = s.pk.mu.tmval then s.stage 3
    else if s.sys.rerun then (s.raiseSystem cTouchmark 1).stage 5
    else (s.returnOverlap.rerunTask).raiseSystem cTouchmark 0
  | 3 => if s.trailerDone then s.finishTask else s
  | _ => s

theorem execTaskEnd_steps {s : State} (h : s.taskStopped = true) : exec .taskEnd s = .next s.endStep :=
  congrArg Host.Outcome.next (if_neg (by rw [h]; exact nofun))

/-- At level 1 the horizon rises to the top, and what is held is performed (log 21). -/
theorem State.endStep_raises {s : State} (he : s.pk.ending = 0) (hl : s.sys.qlvl ≤ 1) : s.endStep.pk.ending = 1 ∧
    2 ^ 192 ≤ s.endStep.core.qu.hk ∧ (∀ e ∈ s.endStep.core.side, e.state ≠ .held) ∧ s.endStep.core.slag = [] := by
  have steps : s.endStep = ((s.raiseHorizon topKey).releaseHeld).stage 1 := by
    unfold State.endStep
    rw [he]
    exact congrArg (State.stage · 1) (if_pos hl)
  obtain ⟨-, qu, -, slag, -⟩ := s.raiseHorizon_keeps topKey
  rw [steps]
  generalize State.raiseHorizon _ _ = u at *
  obtain ⟨-, uqu, -, uslag, -⟩ := u.releaseHeld_keeps
  refine ⟨rfl, ?_, fun e he => State.releaseHeld_side he, (uslag.trans slag).trans ?_⟩
  · refine le_trans ?_ (congrArg QuenchUnit.hk (uqu.trans qu)).ge
    exact le_max_left topKey _
  · refine List.filter_eq_nil_iff.mpr fun e _ => ?_
    have := e.coord.key_lt_topKey
    simp [this]

theorem State.endStep_noRaise {s : State} (he : s.pk.ending = 0) (hl : 1 < s.sys.qlvl) : s.endStep = s.stage 1 := by
  unfold State.endStep
  rw [he]
  exact congrArg (State.stage · 1) (if_neg (BitVec.not_le.mpr hl))

theorem State.horizonPassed_iff (s : State) : s.horizonPassed = true ↔
    (∀ e ∈ s.core.side, e.state = .held → e.atS = true) ∧ (∀ k ∈ s.opKeys, k < s.core.qu.hk) ∧
      (∀ x, (s.strand x).coord.key < s.core.qu.hk) ∧ (∀ c ∈ s.pk.chains.toList, c.state = .held → c.coord.key < s.core.qu.hk) ∧
      ∀ t ∈ s.core.streams.toList, t.state ≠ .idle → t.lastKey < s.core.qu.hk := by
  have every (p : StrandId → Prop) : (∀ x ∈ strandIds, p x) ↔ ∀ x, p x := ⟨fun h x => h x (by cases x <;> decide), fun h x _ => h x⟩
  simp only [State.horizonPassed, Bool.and_eq_true, List.all_eq_true, Bool.or_eq_true, bne_iff_ne, beq_iff_eq, decide_eq_true_eq, every,
    and_assoc]
  refine and_congr (forall₂_congr fun e _ => ?_) (and_congr_right' (and_congr_right' (and_congr (forall₂_congr fun c _ => ?_)
    (forall₂_congr fun t _ => or_iff_not_imp_left))))
  · exact or_iff_not_imp_right.trans (by rw [not_not])
  · exact or_iff_not_imp_left.trans (by rw [not_not])

theorem State.endStep_passes {s : State} (he : s.pk.ending = 1) (h : s.sys.qlvl ≤ 1 ∨ s.horizonPassed = true) : s.endStep = s.stage 2 := by
  unfold State.endStep
  rw [he]
  exact if_pos (Bool.or_eq_true_iff.mpr (h.imp_left fun hl => decide_eq_true hl))

theorem State.endStep_horizonWaits {s : State} (he : s.pk.ending = 1) (hl : 1 < s.sys.qlvl) (h : s.horizonPassed = false) :
    s.endStep = s := by
  unfold State.endStep
  rw [he]
  refine if_neg fun hn => ?_
  obtain hn | hn := Bool.or_eq_true_iff.mp hn
  · exact BitVec.not_le.mpr hl (of_decide_eq_true hn)
  · exact absurd (h.symm.trans hn) nofun

/-- The entry is DONE, and the units held have returned (R122, R261). -/
theorem State.finishTask_results (s : State) : s.finishTask.pk.ending = 4 ∧ s.finishTask.core.mat.held = 0 ∧
    s.finishTask.sys.sheld = false ∧ ∀ n, s.plane.entry = some n → (kGet SlotEntry.zero s.finishTask.pk.slots n.toNat).state = .done := by
  refine ⟨rfl, rfl, rfl, fun n hn => ?_⟩
  have slots : s.finishTask.pk.slots = (s.setEntry n.toNat .done 0).pk.slots := by
    unfold State.finishTask
    rw [hn]
    rfl
  rw [slots]
  exact congrArg SlotEntry.state (kGet_kSet ..)

/-! ## A task that runs again (R354) -/

/-- The engine state that the entry image of a strand holds returns. -/
def State.engineEntered (s : State) (i : CutImage) : StrandId → State
  | .A => s.onCore fun c => { c with areg := i.a }
  | .V => s.onVec fun v => { v with masks := i.masks, vmask := i.vmask, vcarry := i.vcarry }
  | .M => s.onMat fun m => { m with zc := i.zc, chkBase := i.chk }
  | .K => s

theorem State.engineEntered_strand (s : State) (i : CutImage) (x y : StrandId) : (s.engineEntered i x).strand y = s.strand y := by
  cases x <;> cases y <;> rfl

theorem State.engineEntered_keeps (s : State) (i : CutImage) (x : StrandId) :
    (s.engineEntered i x).sys = s.sys ∧ (s.engineEntered i x).pk = s.pk := by
  cases x <;> exact ⟨rfl, rfl⟩

/-- A strand of a task that runs again is restored to its entry image. -/
def State.restoreEntry (s : State) (x : StrandId) : Option CutImage → State
  | some i => ((s.restoreStrand x i .running).onStrand x fun t => { t with images := [i] }).engineEntered i x
  | none => s

/-- The rings of a task that runs again are rewound to its first entry image (R339). -/
def State.ringsRewound (s : State) (image : StrandId → Option CutImage) : State :=
  match (strandIds.map fun x => (x, image x)).findSome? (·.2) with
  | some i => (List.range 16).foldl (fun (s : State) h => s.rewindRing (BitVec.ofNat 4 h) i.coord.key) s
  | none => s

/-- The strands of a task that runs again are restored, all to their entry images. -/
def State.reentered (s : State) (image : StrandId → Option CutImage) : State :=
  (strandIds.map fun x => (x, image x)).foldl (fun s p => s.restoreEntry p.1 p.2) s

/-- The entry image of a strand. -/
def State.entryImage (s : State) (x : StrandId) : Option CutImage := (s.strand x).images.find? (·.entry)

theorem State.rerunTask_eq (s : State) : ∃ o, s.rerunTask =
    ((((((s.ringsRewound s.entryImage).keepTiles.clearTask.reentered s.entryImage).copySections o).onMu fun m =>
      { m with touchmark := 0 }).onQu fun q => { q with hk := 0, floor := 0 }).onSys fun y =>
        { y with rerun := true, sheld := true }).onPk fun k => { k with ending := 0 } := ⟨_, rfl⟩

/-- Rewinding the rings changes their records and the scratchpad (R164, R355). -/
theorem State.rewindRing_frame (s : State) (h : BitVec 4) (cut : Nat) : ∃ rings cells,
    s.rewindRing h cut = s.onPk fun k => { k with rings := rings, mu := { k.mu with scratch := cells } } := by
  have putSlots (r : RingAt) (f : Nat → Nat) (g : State → Nat → SlotState) (k n : Nat) : ∃ cells,
      (List.range n).foldl (fun s i => if k ≤ i then s.putSlot r (f i) (g s i) else s) s =
        s.onMu fun m => { m with scratch := cells } := by
    refine foldl_keeps (P := fun t : State => ∃ cells, t = s.onMu fun m => { m with scratch := cells }) ⟨s.pk.mu.scratch, rfl⟩ ?_
    rintro _ i ⟨cells, rfl⟩
    split
    · exact ⟨_, rfl⟩
    · exact ⟨cells, rfl⟩
  unfold State.rewindRing
  split
  · exact ⟨s.pk.rings, s.pk.mu.scratch, rfl⟩
  · next r _ =>
    dsimp only
    split
    · exact ⟨_, s.pk.mu.scratch, rfl⟩
    · next k _ =>
      obtain ⟨cells, frame⟩ := putSlots r _ _ k r.slots
      exact ⟨_, cells, by rw [frame]; rfl⟩

theorem State.ringsRewound_frame (s : State) (image : StrandId → Option CutImage) : ∃ rings cells,
    s.ringsRewound image = s.onPk fun k => { k with rings := rings, mu := { k.mu with scratch := cells } } := by
  unfold State.ringsRewound
  split
  · refine foldl_keeps (P := fun t : State => ∃ rings cells,
      t = s.onPk fun k => { k with rings := rings, mu := { k.mu with scratch := cells } }) ⟨s.pk.rings, s.pk.mu.scratch, rfl⟩ ?_
    rintro _ h ⟨rings, cells, rfl⟩
    obtain ⟨rings', cells', frame⟩ := State.rewindRing_frame (s.onPk fun k => { k with rings := rings, mu := { k.mu with scratch := cells } })
      (BitVec.ofNat 4 h) _
    exact ⟨rings', cells', frame⟩
  · exact ⟨s.pk.rings, s.pk.mu.scratch, rfl⟩

/-- What is cleared for a task that runs again leaves the package, but for its rings, and keeps K at its level. -/
theorem State.rewound_keeps (s : State) (image : StrandId → Option CutImage) :
    (s.ringsRewound image).keepTiles.clearTask.sys.levelS = s.sys.levelS ∧
      (s.ringsRewound image).keepTiles.clearTask.pk.swage = s.pk.swage := by
  obtain ⟨rings, cells, frame⟩ := s.ringsRewound_frame image
  rw [frame]
  generalize hu : (s.onPk fun k => { k with rings := rings, mu := { k.mu with scratch := cells } }) = u
  obtain ⟨past, tiles⟩ := u.keepTiles_frame
  rw [tiles, ← hu]
  exact ⟨rfl, rfl⟩

theorem State.restoreStrand_other (s : State) {x y : StrandId} (h : y ≠ x) (i : CutImage) (r : Run) :
    (s.restoreStrand x i r).strand y = s.strand y := by
  unfold State.restoreStrand
  dsimp only
  split
  · rw [State.onSys_strand, State.onStrand_other _ _ h]
  · rw [State.onStrand_other _ _ h]

theorem State.restoreEntry_other (s : State) {x y : StrandId} (h : y ≠ x) (image : Option CutImage) :
    (s.restoreEntry x image).strand y = s.strand y := by
  cases image with
  | none => rfl
  | some i => rw [State.restoreEntry, State.engineEntered_strand, State.onStrand_other _ _ h, State.restoreStrand_other _ h]

/-- A strand stands at the start of its task again (R354). -/
structure Strand.StartsAt (t : Strand) (i : CutImage) : Prop where
  run : t.run = .running
  pc : t.pc = i.pc
  s : t.s = i.s
  coord : t.coord = i.coord
  flags : t.flags = i.flags

theorem State.restoreEntry_self {s : State} (hl : s.sys.levelS = false) (x : StrandId) (i : CutImage) :
    ((s.restoreEntry x (some i)).strand x).StartsAt i := by
  have atT : ¬s.atS x = true := by simp [State.atS, hl]
  rw [State.restoreEntry, State.engineEntered_strand, State.onStrand_strand, State.restoreStrand, if_neg atT, State.onStrand_strand]
  exact ⟨rfl, rfl, rfl, rfl, rfl⟩

theorem State.restoreStrand_keeps (s : State) (x : StrandId) (i : CutImage) (r : Run) :
    (s.restoreStrand x i r).sys.levelS = s.sys.levelS ∧ (s.restoreStrand x i r).pk = s.pk := by
  unfold State.restoreStrand
  dsimp only
  split
  · refine ⟨?_, rfl⟩
    show (s.onStrand x _).core.sys.levelS = _
    rw [State.onStrand_sys]
  · exact ⟨congrArg System.levelS (State.onStrand_sys s x _), rfl⟩

theorem State.restoreEntry_keeps (s : State) (x : StrandId) (image : Option CutImage) :
    (s.restoreEntry x image).sys.levelS = s.sys.levelS ∧ (s.restoreEntry x image).pk = s.pk := by
  cases image with
  | none => exact ⟨rfl, rfl⟩
  | some i =>
    obtain ⟨level, pk⟩ := s.restoreStrand_keeps x i .running
    unfold State.restoreEntry
    obtain ⟨sys, pk'⟩ := ((s.restoreStrand x i .running).onStrand x fun t => { t with images := [i] }).engineEntered_keeps i x
    rw [sys, pk', State.onStrand_pk]
    exact ⟨(congrArg System.levelS (State.onStrand_sys _ x _)).trans level, pk⟩

theorem State.reentered_keeps (s : State) (image : StrandId → Option CutImage) : (s.reentered image).pk = s.pk := by
  unfold State.reentered
  exact foldl_keeps (P := fun t : State => t.pk = s.pk) rfl fun t p h => (State.restoreEntry_keeps ..).2.trans h

/-- What each strand's own step of a walk over the strands establishes of it, the walk does. -/
theorem foldl_strands {f : State → StrandId → State} {Q : State → Prop} {P : Strand → Prop} {x : StrandId}
    (other : ∀ s y, x ≠ y → (f s y).strand x = s.strand x) (keeps : ∀ s y, Q s → Q (f s y)) (self : ∀ s, Q s → P ((f s x).strand x))
    {s : State} (h : Q s) : P ((strandIds.foldl f s).strand x) := by
  simp only [strandIds, List.foldl_cons, List.foldl_nil]
  cases x with
  | K =>
    rw [other _ .M nofun, other _ .V nofun, other _ .A nofun]
    exact self _ h
  | A =>
    rw [other _ .M nofun, other _ .V nofun]
    exact self _ (keeps _ _ h)
  | V =>
    rw [other _ .M nofun]
    exact self _ (keeps _ _ (keeps _ _ h))
  | M => exact self _ (keeps _ _ (keeps _ _ (keeps _ _ h)))

theorem State.reentered_starts {s : State} (hl : s.sys.levelS = false) {image : StrandId → Option CutImage} {x : StrandId} {i : CutImage}
    (h : image x = some i) : ((s.reentered image).strand x).StartsAt i := by
  rw [State.reentered, List.foldl_map]
  refine foldl_strands (f := fun t y => t.restoreEntry y (image y)) (P := (·.StartsAt i)) (Q := fun t => t.sys.levelS = false)
    (fun t y hy => t.restoreEntry_other hy _)
    (fun t y ht => (t.restoreEntry_keeps y _).1.trans ht) (fun t ht => ?_) hl
  rw [h]
  exact State.restoreEntry_self ht x i

/-- A task that runs again: every strand that has an entry image stands at it, and the touchmark is zero (R354, R374). -/
theorem State.rerunTask_results {s : State} (hl : s.sys.levelS = false) : s.rerunTask.pk.ending = 0 ∧ s.rerunTask.sys.rerun = true ∧
    s.rerunTask.pk.mu.touchmark = 0 ∧ s.rerunTask.pk.swage = s.pk.swage ∧
    ∀ x i, s.entryImage x = some i → (s.rerunTask.strand x).StartsAt i := by
  obtain ⟨o, again⟩ := s.rerunTask_eq
  obtain ⟨level, swage⟩ := s.rewound_keeps s.entryImage
  rw [again]
  generalize (s.ringsRewound s.entryImage).keepTiles.clearTask = u at *
  have starts (x : StrandId) (i : CutImage) (h : s.entryImage x = some i) := State.reentered_starts (level.trans hl) h
  have pk := u.reentered_keeps s.entryImage
  generalize u.reentered s.entryImage = v at *
  obtain ⟨cells, frame⟩ := v.copySections_frame o
  rw [frame]
  refine ⟨rfl, rfl, rfl, (congrArg Package.swage pk).trans swage, fun x i h => ?_⟩
  cases x <;> exact starts _ i h

/-- A first mismatch runs the task again, with the cause of it (R354). -/
theorem State.endStep_reruns {s : State} (hooks : ∀ r, bestSlot s.pk.swage (·.hooks r) = none) (hl : s.sys.levelS = false)
    (he : s.pk.ending = 2) (hr : s.sys.tmrec = true) (hs : s.core.side = []) (hm : s.pk.mu.touchmark ≠ s.pk.mu.tmval)
    (first : s.sys.rerun = false) : systemCause s.endStep 0x32 ∧ s.endStep.pk.ending = 0 ∧ s.endStep.sys.rerun = true ∧
      s.endStep.pk.mu.touchmark = 0 ∧ ∀ x i, s.entryImage x = some i → (s.endStep.strand x).StartsAt i := by
  have steps : s.endStep = s.returnOverlap.rerunTask.raiseSystem cTouchmark 0 := by
    unfold State.endStep
    rw [he, hr, hs, first]
    exact if_neg hm
  obtain ⟨l, p0, p1, frame⟩ := s.returnOverlap_onlySchedule
  have image (x : StrandId) : s.returnOverlap.entryImage x = s.entryImage x := by
    rw [frame]
    rfl
  obtain ⟨ending, rerun, touchmark, swage, starts⟩ := State.rerunTask_results (s := s.returnOverlap) (by rw [frame]; exact hl)
  have raised := State.raiseSystem_raised (s := s.returnOverlap.rerunTask) (c := cTouchmark) (by rw [swage, frame]; exact hooks)
    (by decide) 0
  rw [steps]
  generalize s.returnOverlap.rerunTask = u at *
  generalize State.raiseSystem _ _ _ = t at *
  obtain ⟨pk, same⟩ := raised.keeps
  rw [pk, same]
  refine ⟨raised.systemCause, ending, rerun, touchmark, fun x i hx => ?_⟩
  obtain ⟨hook, ht⟩ := raised.strand x
  obtain ⟨run, pc, regs, coord, flags⟩ := starts x i ((image x).trans hx)
  rw [ht]
  exact ⟨run, pc, regs, coord, flags⟩

/-- A second mismatch ends the task there (R354). -/
theorem State.endStep_mismatches {s : State} (hooks : ∀ r, bestSlot s.pk.swage (·.hooks r) = none) (he : s.pk.ending = 2)
    (hr : s.sys.tmrec = true) (hs : s.core.side = []) (hm : s.pk.mu.touchmark ≠ s.pk.mu.tmval) (second : s.sys.rerun = true) :
    systemCause s.endStep 0x32 ∧ s.endStep.pk.ending = 5 ∧
      ∃ r ∈ s.endStep.sys.fq ++ s.endStep.sys.fqWait, r.cause = 0x32 ∧ r.detail = 1 := by
  have steps : s.endStep = (s.raiseSystem cTouchmark 1).stage 5 := by
    unfold State.endStep
    rw [he, hr, hs, second]
    exact if_neg hm
  have raised := State.raiseSystem_raised hooks (c := cTouchmark) (by decide) 1
  rw [steps]
  exact ⟨raised.systemCause, rfl, _, raised.queued, rfl, rfl⟩

theorem State.endStep_unrecorded {s : State} (he : s.pk.ending = 2) (hr : s.sys.tmrec = false) : s.endStep = s.stage 3 := by
  unfold State.endStep
  rw [he, hr]
  rfl

theorem State.endStep_sideWaits {s : State} (he : s.pk.ending = 2) (hr : s.sys.tmrec = true) (hs : s.core.side ≠ []) : s.endStep = s := by
  unfold State.endStep
  rw [he, hr]
  exact if_pos (congrArg (! ·) (Bool.eq_false_iff.mpr fun hn => hs (List.isEmpty_iff.mp hn)))

theorem State.endStep_matches {s : State} (he : s.pk.ending = 2) (hr : s.sys.tmrec = true) (hs : s.core.side = [])
    (hm : s.pk.mu.touchmark = s.pk.mu.tmval) : s.endStep = s.stage 3 := by
  unfold State.endStep
  rw [he, hr, hs]
  exact if_pos hm

theorem State.endStep_trailer {s : State} (he : s.pk.ending = 3) : s.endStep = if s.trailerDone then s.finishTask else s := by
  unfold State.endStep
  rw [he]
  rfl

/-! ## The obligation -/

/-- Settles O54: a request, its deadline and its end, BUDGET, when a forced mode is done, pauses, and each stage of the end of a task. -/
theorem preemptionAndTaskEnd : Obligations.PreemptionAndTaskEnd := by
  unfold Obligations.PreemptionAndTaskEnd
  intro s hooks y due stage ended allEnded
  have stops : allEnded ↔ s.taskStopped = true := s.taskStopped_iff.symm
  refine ⟨execYreqSet_again, execYreqSet_begins, execYreqSet_elapses hooks, execYreqClear_results s, ?_, execYieldRequest_waits, ?_, ?_,
    execBudget_waits, execBudget_delivers hooks, execForcedModeDone_idle, execForcedModeDone_rollback, execForcedModeDone_save,
    execPauseExpiry_results s, fun h => execTaskEnd_waits (Bool.eq_false_iff.mpr fun ht => h (stops.mpr ht)), fun h => ?_⟩
  · intro act deadline level quench ending stopped
    exact execYieldRequest_delivers hooks (State.yieldsAll_of_stopped act deadline level quench ending fun x => by
      obtain h | h | h | h := stopped x <;> simp [Strand.atYield_iff, h])
  · intro h
    exact congrArg _ (if_neg fun hd => h (s.deadlineDue_iff.mp hd))
  · intro h
    obtain ⟨-, act, deadline, cause, applied⟩ := State.deadlinePassed_results hooks
    exact ⟨_, congrArg Host.Outcome.next (if_pos (s.deadlineDue_iff.mpr h)), act, deadline, cause, applied⟩
  · have steps := execTaskEnd_steps (stops.mp h)
    obtain ⟨level, -⟩ := h
    rw [steps]
    refine ⟨fun he hl => ⟨_, rfl, State.endStep_raises he hl⟩, fun he hl => congrArg _ (State.endStep_noRaise he hl), fun he hp => ?_,
      fun he hl hp => congrArg _ (State.endStep_horizonWaits he hl ?_), fun he hr => congrArg _ (State.endStep_unrecorded he hr),
      fun he hr hs => congrArg _ (State.endStep_sideWaits he hr hs), fun he hr hs hm => congrArg _ (State.endStep_matches he hr hs hm),
      fun he hr hs hm => ⟨fun hn => ?_, fun hn => ?_⟩, fun he ht => ?_, fun he ht => ?_⟩
    · exact congrArg _ (State.endStep_passes he (hp.imp_right s.horizonPassed_iff.mpr))
    · refine Bool.eq_false_iff.mpr fun hpassed => ?_
      obtain ⟨-, keys, coords, -⟩ := s.horizonPassed_iff.mp hpassed
      obtain ⟨k, hk, above⟩ | ⟨x, above⟩ := hp
      · exact absurd (keys k hk) above.not_gt
      · exact absurd (coords x) above.not_gt
    · obtain ⟨cause, ending, r, hm', hc, hd⟩ := State.endStep_mismatches hooks he hr hs hm hn
      exact ⟨_, r, rfl, cause, ending, hm', hc, hd⟩
    · obtain ⟨cause, ending, rerun, touchmark, starts⟩ := State.endStep_reruns hooks level he hr hs hm hn
      refine ⟨_, rfl, cause, ending, rerun, touchmark, fun x i hx => ?_⟩
      obtain ⟨run, pc, regs, coord, flags⟩ := starts x i hx
      exact ⟨run, pc, regs, coord, flags⟩
    · rw [State.endStep_trailer he, if_pos ht]
      exact ⟨_, rfl, s.finishTask_results⟩
    · rw [State.endStep_trailer he, if_neg (by rw [ht]; exact nofun)]

end Sys2Proof.Machine
end
